-- ==== Sys2Proof/Word.lean ====
section
/-!
DEFINITION. Word.lean: the widths the K4 manual computes in (R4, R117) and the plainest arithmetic on them.
-/
namespace Sys2Proof

/-- A 64-bit register value (R117). -/
abbrev Word := BitVec 64
/-- One byte of memory (R4: memory is little-endian). -/
abbrev Byte := BitVec 8
/-- A 16-lane vector register, lane 0 in the low bits (R117). -/
abbrev Vec := BitVec 512
/-- A line of 256 bytes, byte 0 in the low bits (R162). -/
abbrev Line256 := BitVec 2048

/-- Bits [hi:lo] of a value, as a value of the width asked for (R4). -/
def bits {n : Nat} (x : BitVec n) (lo w : Nat) : BitVec w := x.extractLsb' lo w

/-- Bit i of a value. -/
def bit {n : Nat} (x : BitVec n) (i : Nat) : Bool := x.getLsbD i

/-- Sign extension to 64 bits (R4). -/
def sx {n : Nat} (x : BitVec n) : Word := x.signExtend 64

/-- Zero extension to 64 bits (R4). -/
def zx {n : Nat} (x : BitVec n) : Word := x.setWidth 64

/-- One bit from a truth value. -/
def b1 (b : Bool) : BitVec 1 := BitVec.ofBool b

/-- Bits [lo+w-1:lo] of x replaced by v. -/
def putBits {n w : Nat} (x : BitVec n) (lo : Nat) (v : BitVec w) : BitVec n :=
  (x &&& ~~~((BitVec.allOnes w).setWidth n <<< lo)) ||| (v.setWidth n <<< lo)

end Sys2Proof
end

