-- ==== Sys2Proof/Machine/Flags.lean ====
section
/-!
DEFINITION. Machine/Flags.lean: the conditions of the compares, how a condition is combined into a flag, and the bits of
sr.fsf (R210, R261, R263, R274).
-/
namespace Sys2Proof.Machine

/-- The condition of CMP and CMPI, coded as R242 and R261 list them. -/
def cond (c : BitVec 3) (a b : Word) : Bool :=
  if c = 0 then a == b
  else if c = 1 then a != b
  else if c = 2 then a.slt b
  else if c = 3 then !a.slt b
  else if c = 4 then a.ult b
  else if c = 5 then !a.ult b
  else if c = 6 then a &&& b != 0
  else a &&& b == 0

/-- A condition combined into the old flag (R261). -/
def combine (m : BitVec 2) (old c : Bool) : Bool :=
  if m = 0 then c
  else if m = 1 then old && c
  else if m = 2 then old || c
  else old && !c

/-- The bits of sr.fsf (R210). -/
def fInvalid : BitVec 6 := 0x01
def fOverflow : BitVec 6 := 0x02
def fUnderflow : BitVec 6 := 0x04
def fInexact : BitVec 6 := 0x08
def fDz : BitVec 6 := 0x10
def fClamp : BitVec 6 := 0x20

end Sys2Proof.Machine
end

