-- ==== Sys2Proof/Machine/Fp.lean ====
section
/-!
DEFINITION. Machine/Fp.lean: the number formats (R197 to R207): exact values, the fixed formats with one rounding at
the end of every operation (R268), and the programmable formats' decode and encode.
-/
namespace Sys2Proof.Machine

/-- An exact value: NaN, an infinity, or (−1)^s × m × 2^e; a zero keeps its sign. -/
inductive Val where
  | nan
  | inf (s : Bool)
  | fin (s : Bool) (m : Nat) (e : Int)
deriving DecidableEq, Repr

/-- A fixed format (R197): exponent bits, fraction bits, bias. -/
structure Fmt where
  eb : Nat
  fb : Nat
  bias : Int
deriving DecidableEq, Repr

def f32 : Fmt := ⟨8, 23, 127⟩
def f64 : Fmt := ⟨11, 52, 1023⟩
def f16 : Fmt := ⟨5, 10, 15⟩
def bf16 : Fmt := ⟨8, 7, 127⟩

/-- The format of a scalar precision code (R244). -/
def fmtOf (p : BitVec 2) : Fmt := if p = 0 then f32 else if p = 1 then f64 else if p = 2 then f16 else bf16

/-- The rounding modes of sr.fcr (R199). -/
inductive Rnd where
  | rne | rtz | rup | rdn
deriving DecidableEq, Repr

def rndOf (m : BitVec 2) : Rnd := if m = 0 then .rne else if m = 1 then .rtz else if m = 2 then .rup else .rdn

/-- A rounded result and the flags it sets (R211). -/
abbrev Res := Word × BitVec 6

/-- The width of a format. -/
def Fmt.width (f : Fmt) : Nat := 1 + f.eb + f.fb
/-- The canonical NaN (R198). -/
def Fmt.nan (f : Fmt) : Word := BitVec.ofNat 64 (((2 ^ f.eb - 1) * 2 + 1) * 2 ^ (f.fb - 1))
def Fmt.inf (f : Fmt) (s : Bool) : Word := BitVec.ofNat 64 ((if s then 2 ^ (f.eb + f.fb) else 0) + (2 ^ f.eb - 1) * 2 ^ f.fb)
def Fmt.maxFinite (f : Fmt) (s : Bool) : Word :=
  BitVec.ofNat 64 ((if s then 2 ^ (f.eb + f.fb) else 0) + ((2 ^ f.eb - 1) * 2 ^ f.fb - 1))
def Fmt.zero (f : Fmt) (s : Bool) : Word := BitVec.ofNat 64 (if s then 2 ^ (f.eb + f.fb) else 0)
/-- The exponent of the smallest subnormal step. -/
def Fmt.qmin (f : Fmt) : Int := 1 - f.bias - f.fb

/-- The value that the low bits of a register hold in a format (R198, R267): subnormals gradual, no NaN signalling. -/
def Fmt.unpack (f : Fmt) (x : Word) : Val :=
  let n := x.toNat % 2 ^ f.width
  let s := n / 2 ^ (f.eb + f.fb) % 2 == 1
  let e := n / 2 ^ f.fb % 2 ^ f.eb
  let m := n % 2 ^ f.fb
  if e = 2 ^ f.eb - 1 then (if m = 0 then .inf s else .nan)
  else if e = 0 then .fin s m f.qmin
  else .fin s (m + 2 ^ f.fb) (f.qmin + e - 1)

/-- Does rounding go up, away from zero? `hi` is the kept part, `rem` of 2 × `half` the part dropped. -/
def roundsUp (r : Rnd) (s : Bool) (hi rem half : Nat) : Bool :=
  match r with
  | .rne => rem > half || (rem == half && hi % 2 == 1)
  | .rtz => false
  | .rup => rem ≠ 0 && !s
  | .rdn => rem ≠ 0 && s

/-- m × 2^e rounded to a multiple of 2^q: the multiple, and whether it differs (R268). -/
def roundTo (r : Rnd) (s : Bool) (m : Nat) (e q : Int) : Nat × Bool :=
  if q ≤ e then (m * 2 ^ (e - q).toNat, false)
  else
    let d := (q - e).toNat
    let hi := m / 2 ^ d
    let rem := m % 2 ^ d
    (if roundsUp r s hi rem (2 ^ (d - 1)) then hi + 1 else hi, rem ≠ 0)

/-- An exact value rounded once into a format, with IEEE flags; tininess before rounding (R198, R268). -/
def Fmt.round (f : Fmt) (r : Rnd) : Val → Res
  | .nan => (f.nan, 0)
  | .inf s => (f.inf s, 0)
  | .fin s m e =>
    if m = 0 then (f.zero s, 0)
    else
      let top := e + (Nat.log2 m : Int)
      let q := max (top - f.fb) f.qmin
      let (hi, inexact) := roundTo r s m e q
      let (hi, q) := if hi = 2 ^ (f.fb + 1) then (hi / 2, q + 1) else (hi, q)
      let code := (q - f.qmin).toNat * 2 ^ f.fb + hi
      let sgn := if s then 2 ^ (f.eb + f.fb) else 0
      if (2 ^ f.eb - 1) * 2 ^ f.fb ≤ code then
        (if r = .rtz ∨ (r = .rup ∧ s) ∨ (r = .rdn ∧ ¬s) then f.maxFinite s else f.inf s, fOverflow ||| fInexact)
      else
        (BitVec.ofNat 64 (sgn + code),
         (if inexact then fInexact else 0) ||| (if inexact ∧ top < 1 - f.bias then fUnderflow else 0))

/-! ### Exact arithmetic -/

/-- A finite value's signed integer over 2^q. -/
def scaled (s : Bool) (m : Nat) (e q : Int) : Int :=
  let n : Int := (m : Int) * 2 ^ (e - q).toNat
  if s then -n else n

/-- An exact sum of two values; the mode decides the sign of an exact zero (R268). The flag is invalid. -/
def Val.add (r : Rnd) : Val → Val → Val × BitVec 6
  | .nan, _ => (.nan, 0)
  | _, .nan => (.nan, 0)
  | .inf a, .inf b => if a = b then (.inf a, 0) else (.nan, fInvalid)
  | .inf a, _ => (.inf a, 0)
  | _, .inf b => (.inf b, 0)
  | .fin a m e, .fin b n d =>
    if m = 0 ∧ n = 0 then (.fin (if a = b then a else r = .rdn) 0 0, 0)
    else
      let q := min e d
      let t := scaled a m e q + scaled b n d q
      if t = 0 then (.fin (r = .rdn) 0 0, 0) else (.fin (t < 0) t.natAbs q, 0)

def Val.neg : Val → Val
  | .nan => .nan
  | .inf s => .inf (!s)
  | .fin s m e => .fin (!s) m e

def Val.abs : Val → Val
  | .nan => .nan
  | .inf _ => .inf false
  | .fin _ m e => .fin false m e

/-- An exact product; 0 × ∞ is NaN and invalid (R198). -/
def Val.mul : Val → Val → Val × BitVec 6
  | .nan, _ => (.nan, 0)
  | _, .nan => (.nan, 0)
  | .inf a, .inf b => (.inf (a != b), 0)
  | .inf a, .fin b n _ => if n = 0 then (.nan, fInvalid) else (.inf (a != b), 0)
  | .fin a m _, .inf b => if m = 0 then (.nan, fInvalid) else (.inf (a != b), 0)
  | .fin a m e, .fin b n d => (.fin (a != b) (m * n) (e + d), 0)

/-- A product and a sum with no rounding between (R268): 0 × ∞ is invalid even with a NaN addend. -/
def Val.fma (r : Rnd) (x y z : Val) : Val × BitVec 6 :=
  let p := x.mul y
  if p.2 ≠ 0 then p else p.1.add r z

/-- A quotient, kept to `bits` bits with a last bit that says whether any remainder is left (R268). -/
def Val.div (n : Nat) : Val → Val → Val × BitVec 6
  | .nan, _ => (.nan, 0)
  | _, .nan => (.nan, 0)
  | .inf _, .inf _ => (.nan, fInvalid)
  | .inf a, .fin b _ _ => (.inf (a != b), 0)
  | .fin a _ _, .inf b => (.fin (a != b) 0 0, 0)
  | .fin a m e, .fin b k d =>
    if k = 0 then (if m = 0 then (.nan, fInvalid) else (.inf (a != b), fDz))
    else if m = 0 then (.fin (a != b) 0 0, 0)
    else
      let sh := n + Nat.log2 k
      let x := m * 2 ^ sh
      (.fin (a != b) (x / k * 2 + (if x % k = 0 then 0 else 1)) (e - d - sh - 1), 0)

/-- The integer square root, bit by bit from bit n − 1. -/
def isqrt (x : Nat) : Nat → Nat → Nat
  | 0, r => r
  | n + 1, r => isqrt x n (if (r + 2 ^ n) * (r + 2 ^ n) ≤ x then r + 2 ^ n else r)

/-- A square root with a last bit that says whether any remainder is left (R268). -/
def Val.sqrt (n : Nat) : Val → Val × BitVec 6
  | .nan => (.nan, 0)
  | .inf s => if s then (.nan, fInvalid) else (.inf s, 0)
  | .fin s m e =>
    if m = 0 then (.fin s 0 0, 0)
    else if s then (.nan, fInvalid)
    else
      let sh := 2 * n + (if (e % 2 = 0) then 0 else 1)
      let x := m * 2 ^ sh
      let rt := isqrt x (Nat.log2 x / 2 + 1) 0
      (.fin false (rt * 2 + (if rt * rt = x then 0 else 1)) ((e - sh) / 2 - 1), 0)

/-- x < y of two values that are no NaN. -/
def Val.lt : Val → Val → Bool
  | .nan, _ => false
  | _, .nan => false
  | .inf a, .inf b => a && !b
  | .inf a, _ => a
  | _, .inf b => !b
  | .fin a m e, .fin b n d => let q := min e d; scaled a m e q < scaled b n d q

/-- x = y of two values that are no NaN; −0 equals +0 (R274). -/
def Val.eq : Val → Val → Bool
  | .nan, _ => false
  | _, .nan => false
  | .inf a, .inf b => a == b
  | .inf _, _ => false
  | _, .inf _ => false
  | .fin a m e, .fin b n d => let q := min e d; scaled a m e q == scaled b n d q

def Val.isNan : Val → Bool
  | .nan => true
  | _ => false

def Val.sign : Val → Bool
  | .nan => false
  | .inf s => s
  | .fin s _ _ => s

/-! ### Operations of the fixed formats (R268 to R274) -/

/-- A value rounded after an operation that may itself be invalid or divide by zero. -/
def Fmt.finish (f : Fmt) (r : Rnd) (x : Val × BitVec 6) : Res :=
  let y := f.round r x.1
  (y.1, y.2 ||| x.2)

def Fmt.add (f : Fmt) (r : Rnd) (a b : Word) : Res := f.finish r ((f.unpack a).add r (f.unpack b))
def Fmt.sub (f : Fmt) (r : Rnd) (a b : Word) : Res := f.finish r ((f.unpack a).add r (f.unpack b).neg)
def Fmt.mul (f : Fmt) (r : Rnd) (a b : Word) : Res := f.finish r ((f.unpack a).mul (f.unpack b))
def Fmt.fma (f : Fmt) (r : Rnd) (a b c : Word) : Res := f.finish r ((f.unpack a).fma r (f.unpack b) (f.unpack c))
def Fmt.div (f : Fmt) (r : Rnd) (a b : Word) : Res := f.finish r ((f.unpack a).div (f.fb + 3) (f.unpack b))
def Fmt.sqrt (f : Fmt) (r : Rnd) (a : Word) : Res := f.finish r ((f.unpack a).sqrt (f.fb + 3))

/-- The encoding of a value that the format holds exactly. -/
def Fmt.exact (f : Fmt) (v : Val) : Word := (f.round .rne v).1

/-- FMIN (R269): −0 less than +0; a NaN gives the other operand. -/
def Fmt.min (f : Fmt) (a b : Word) : Word :=
  let x := f.unpack a
  let y := f.unpack b
  if x.isNan then f.exact y
  else if y.isNan then f.exact x
  else if x.lt y || (x.eq y && x.sign) then f.exact x else f.exact y

/-- FMAX (R269). -/
def Fmt.max (f : Fmt) (a b : Word) : Word :=
  let x := f.unpack a
  let y := f.unpack b
  if x.isNan then f.exact y
  else if y.isNan then f.exact x
  else if y.lt x || (x.eq y && !x.sign) then f.exact x else f.exact y

/-- FCLASS (R270): the one bit set. -/
def Fmt.classOf (f : Fmt) (a : Word) : Word :=
  match f.unpack a with
  | .nan => 0x100
  | .inf s => if s then 0x001 else 0x080
  | .fin s m _ =>
    if m = 0 then (if s then 0x008 else 0x010)
    else if m < 2 ^ f.fb then (if s then 0x004 else 0x020)
    else (if s then 0x002 else 0x040)

/-- A finite value rounded to an integer: its magnitude, and whether it differs. -/
def intRound (r : Rnd) (s : Bool) (m : Nat) (e : Int) : Nat × Bool := roundTo r s m e 0

/-- FRND (R271). -/
def Fmt.rnd (f : Fmt) (r : Rnd) (a : Word) : Res :=
  match f.unpack a with
  | .nan => (f.nan, 0)
  | .inf s => (f.inf s, 0)
  | .fin s m e =>
    let (n, inexact) := intRound r s m e
    if inexact then (f.exact (.fin s n 0), fInexact) else (f.exact (.fin s m e), 0)

/-- A value rounded to an integer and limited to [lo, hi] (R207, R273). -/
def toInt (r : Rnd) (lo hi : Int) : Val → Int × BitVec 6
  | .nan => (0, fInvalid)
  | .inf s => (if s then lo else hi, fInvalid)
  | .fin s m e =>
    let (n, inexact) := intRound r s m e
    let k : Int := if s then -(n : Int) else n
    if k < lo then (lo, fInvalid)
    else if hi < k then (hi, fInvalid)
    else (k, if inexact then fInexact else 0)

/-- An integer as a value. -/
def ofInt (n : Int) : Val := .fin (n < 0) n.natAbs 0

/-- FCMP's condition (R274). -/
def fcond (f : Fmt) (c : BitVec 3) (a b : Word) : Bool :=
  let x := f.unpack a
  let y := f.unpack b
  let un := x.isNan || y.isNan
  if c = 0 then !un && x.eq y
  else if c = 1 then un || !x.eq y
  else if c = 2 then !un && x.lt y
  else if c = 3 then !un && (x.lt y || x.eq y)
  else if c = 4 then !un && y.lt x
  else if c = 5 then !un && (y.lt x || x.eq y)
  else if c = 6 then un
  else !un

/-! ### Programmable formats (R201 to R206) -/

/-- A descriptor's fields (R201). -/
def dW (d : Word) : Nat := (bits d 0 3 : BitVec 3).toNat + 1
def dE (d : Word) : Nat := (bits d 3 3 : BitVec 3).toNat
def dSg (d : Word) : Nat := (bits d 6 1 : BitVec 1).toNat
def dBias (d : Word) : Int := (bits d 7 8 : BitVec 8).toInt
def dPol (d : Word) : Nat := (bits d 15 2 : BitVec 2).toNat
def dSub (d : Word) : Bool := d.getLsbD 17
def dRnd (d : Word) : Nat := (bits d 18 2 : BitVec 2).toNat

/-- An ill-formed descriptor (R202). -/
def illFormed (d : Word) : Bool :=
  dW d < dE d + dSg d || (dPol d == 3 && dE d != 0) || (dE d == 0 && dPol d != 3) || (bits d 20 44 : BitVec 44) ≠ 0

/-- The value of a code (R203); none where the code is reserved. -/
def decodeCode (d : Word) (code : Nat) : Option Val :=
  let w := dW d
  let e := dE d
  let m := w - e - dSg d
  let c := code % 2 ^ w
  let s := dSg d == 1 && c / 2 ^ (w - 1) % 2 == 1
  if dPol d = 3 then
    some (if s then .fin true (2 ^ w - c) (-dBias d) else .fin false c (-dBias d))
  else
    let x := c / 2 ^ m % 2 ^ e
    let f := c % 2 ^ m
    if dPol d ≠ 1 ∧ dSg d = 1 ∧ s ∧ x = 0 ∧ f = 0 then none
    else if dPol d = 1 ∧ x = 2 ^ e - 1 then some (if f = 0 then .inf s else .nan)
    else if dPol d = 2 ∧ x = 2 ^ e - 1 ∧ f = 2 ^ m - 1 then some .nan
    else if x = 0 then some (if dSub d then .fin s f (1 - dBias d - m) else .fin s 0 0)
    else some (.fin s (f + 2 ^ m) (x - dBias d - m))

/-- The largest magnitude code of a finite value. -/
def maxCode (d : Word) : Nat :=
  let m := dW d - dE d - dSg d
  if dPol d = 0 then 2 ^ (dE d + m) - 1
  else if dPol d = 1 then (2 ^ dE d - 1) * 2 ^ m - 1
  else 2 ^ (dE d + m) - 2

/-- A code with its sign; a zero under pol 0 or 2 takes the sign-0 code (R206). -/
def signCode (d : Word) (s : Bool) (mag : Nat) : Nat :=
  if s && dSg d == 1 && !(mag == 0 && dPol d != 1) then 2 ^ (dW d - 1) + mag else mag

/-- The NaN code and its flags (R206, rule 1). -/
def nanCode (d : Word) : Nat × BitVec 6 :=
  let m := dW d - dE d - dSg d
  if dPol d = 1 ∧ 1 ≤ m then ((2 ^ dE d - 1) * 2 ^ m + 2 ^ (m - 1), 0)
  else if dPol d = 2 then (2 ^ (dE d + m) - 1, 0)
  else (0, fInvalid)

/-- What overflow gives (R206's table). -/
def overflowCode (d : Word) (s infinite : Bool) : Nat × BitVec 6 :=
  let m := dW d - dE d - dSg d
  let top := signCode d s (maxCode d)
  let inf := signCode d s ((2 ^ dE d - 1) * 2 ^ m)
  let nan := (nanCode d).1
  if 2 ≤ dRnd d then (top, fClamp)
  else if infinite then
    (if dPol d = 0 then (top, fInvalid) else if dPol d = 1 then (inf, 0) else (nan, fInvalid))
  else if dRnd d = 1 ∨ dPol d = 0 then (top, fOverflow ||| fInexact)
  else if dPol d = 1 then (inf, fOverflow ||| fInexact)
  else (nan, fOverflow ||| fInexact)

/-- An encode into a programmable format (R206): the code and its flags. -/
def encodeCode (d : Word) (v : Val) : Nat × BitVec 6 :=
  let r : Rnd := if dRnd d % 2 = 1 then .rtz else .rne
  let m := dW d - dE d - dSg d
  let sat := 2 ≤ dRnd d
  match v with
  | .nan => nanCode d
  | .inf s =>
    if s ∧ dSg d = 0 then (0, if sat then fClamp else fInvalid)
    else if dPol d = 3 then
      (if dSg d = 1 then (if s then 2 ^ (dW d - 1) else 2 ^ (dW d - 1) - 1) else 2 ^ dW d - 1, if sat then fClamp else fInvalid)
    else overflowCode d s true
  | .fin s k e =>
    if k = 0 then (signCode d (s && dPol d != 3) 0, 0)
    else if s ∧ dSg d = 0 then (0, if sat then fClamp else fInvalid)
    else if dPol d = 3 then
      let (n, inexact) := intRound r s k (e + dBias d)
      let hi := if dSg d = 1 then (if s then 2 ^ (dW d - 1) else 2 ^ (dW d - 1) - 1) else 2 ^ dW d - 1
      let put := fun (n : Nat) => if s then (2 ^ dW d - n) % 2 ^ dW d else n
      if hi < n then (put hi, if sat then fClamp else fInvalid)
      else (put n, if inexact then fInexact else 0)
    else
      let top := e + (Nat.log2 k : Int)
      let emin := 1 - dBias d
      let tiny := top < emin
      if tiny ∧ ¬dSub d then
        -- the grid holds no point between 0 and 2^emin: a tie goes to 0
        let up : Bool := r = .rne && (top == emin - 1 && k ≠ 2 ^ Nat.log2 k)
        let code := if up then 2 ^ m else 0
        if maxCode d < code then overflowCode d s false
        else (signCode d s code, fInexact ||| fUnderflow)
      else
        let q := max (top - m) (emin - m)
        let (hi, inexact) := roundTo r s k e q
        let (hi, q) := if hi = 2 ^ (m + 1) then (hi / 2, q + 1) else (hi, q)
        let code := (q - (emin - m)).toNat * 2 ^ m + hi
        if maxCode d < code then overflowCode d s false
        else (signCode d s code,
              (if inexact then fInexact else 0) ||| (if inexact ∧ tiny then fUnderflow else 0))

end Sys2Proof.Machine
end

