-- ==== Sys2Proof/Config.lean ====
section
/-!
DEFINITION. Config.lean: what an implementation fixes and the manual leaves open, as constants without a value: no
proof can see what they are (log entries 4 and 16).
-/
namespace Sys2Proof.Config

/-- The n-th open value a step uses (log entry 4). -/
opaque freeValue : Nat → BitVec 64

/-- SHAKE256 with a 512-bit output (R71, R76; log entry 16). -/
opaque shake512 : List Byte → BitVec 512

/-- SHAKE256 with a 256-bit output (R72; log entry 16). -/
opaque shake256 : List Byte → BitVec 256

/-- Does an ML-DSA-65 signature verify: public key, signed bytes, signature (R72; log entry 16)? -/
opaque mldsaVerifies : List Byte → List Byte → List Byte → Bool

/-- The signature with package p's device identity key over some bytes, 3,309 bytes (R76; log entry 16). -/
opaque mldsaSign : Nat → List Byte → List Byte

/-- The fuse block of package p (R71; log entry 16). -/
opaque fuses : Nat → List Byte

/-- Fused key hash i of package p, and whether its revoke fuse is intact (R72; log entry 16). -/
opaque keyHash : Nat → Nat → BitVec 256
/-- Is the revoke fuse of key i of package p intact (R72; log entry 16)? -/
opaque keyIntact : Nat → Nat → Bool

/-- The fused minimum security version of an image type as package p was made (R72; log entry 16). -/
opaque fusedMin : Nat → Nat → BitVec 64

/-- The version updates that a signed command inside an accepted supervisor image carries: type and new minimum
(R74; log entry 16). -/
opaque versionUpdates : List Byte → List (Nat × BitVec 64)

/-- Device serial of package p (R76; log entry 16). -/
opaque serial : Nat → BitVec 128

/-- DEVID stepping of package p (R54; log entry 16). -/
opaque stepping : Nat → BitVec 16

/-- The bytes of package p's identity window that hold its public key and certificate (R76; log entry 16). -/
opaque identityWindow : Nat → Nat → Byte

/-- The length of the certificate for package p's device identity key, before its limit of 6,136 (R76; log entry 16). -/
opaque certLength : Nat → Nat

/-- Fabric firmware's detour for a destination that no rule of R30 reaches over the remaining links: the first port
and whether there is one (R38; log entry 16). -/
opaque detourPort : Nat → Nat → Option Nat

end Sys2Proof.Config
end

