-- ==== Sys2Proof/Syntax.lean ====
section
/-!
DEFINITION. Syntax.lean: the one inductive of everything the K4 performs as an indivisible step: a constructor for
every row of the opcode table. An instruction row carries its encoding's fields as raw bits, in the order of the
encoding from bit 31 down (R235 to R251). An event row carries nothing: what the event acts on (a package, a queue,
a value the host writes) stands in the state's event argument (log entry 6).
-/
namespace Sys2Proof

/-- The K4's steps: instructions first, then the events of the other agents. -/
inductive Instr where
  /-- ADD (R258) -/
  | add (d : BitVec 5) (a : BitVec 5) (b : BitVec 5)
  /-- SUB (R258) -/
  | sub (d : BitVec 5) (a : BitVec 5) (b : BitVec 5)
  /-- MUL (R258) -/
  | mul (d : BitVec 5) (a : BitVec 5) (b : BitVec 5)
  /-- MULH (R258) -/
  | mulh (d : BitVec 5) (a : BitVec 5) (b : BitVec 5)
  /-- MULHN (R258) -/
  | mulhn (d : BitVec 5) (a : BitVec 5) (b : BitVec 5)
  /-- DIV (R260) -/
  | div (d : BitVec 5) (a : BitVec 5) (b : BitVec 5)
  /-- DIVN (R260) -/
  | divn (d : BitVec 5) (a : BitVec 5) (b : BitVec 5)
  /-- REM (R260) -/
  | rem (d : BitVec 5) (a : BitVec 5) (b : BitVec 5)
  /-- REMN (R260) -/
  | remn (d : BitVec 5) (a : BitVec 5) (b : BitVec 5)
  /-- AND (R258) -/
  | and (d : BitVec 5) (a : BitVec 5) (b : BitVec 5)
  /-- OR (R258) -/
  | or (d : BitVec 5) (a : BitVec 5) (b : BitVec 5)
  /-- XOR (R258) -/
  | xor (d : BitVec 5) (a : BitVec 5) (b : BitVec 5)
  /-- ANDN (R258) -/
  | andn (d : BitVec 5) (a : BitVec 5) (b : BitVec 5)
  /-- SHL (R258) -/
  | shl (d : BitVec 5) (a : BitVec 5) (b : BitVec 5)
  /-- SHR (R258) -/
  | shr (d : BitVec 5) (a : BitVec 5) (b : BitVec 5)
  /-- SRA (R258) -/
  | sra (d : BitVec 5) (a : BitVec 5) (b : BitVec 5)
  /-- ROL (R258) -/
  | rol (d : BitVec 5) (a : BitVec 5) (b : BitVec 5)
  /-- MIN (R258) -/
  | min (d : BitVec 5) (a : BitVec 5) (b : BitVec 5)
  /-- MAX (R258) -/
  | max (d : BitVec 5) (a : BitVec 5) (b : BitVec 5)
  /-- MINN (R258) -/
  | minn (d : BitVec 5) (a : BitVec 5) (b : BitVec 5)
  /-- MAXN (R258) -/
  | maxn (d : BitVec 5) (a : BitVec 5) (b : BitVec 5)
  /-- CLZ (R259) -/
  | clz (d : BitVec 5) (a : BitVec 5)
  /-- POPC (R259) -/
  | popc (d : BitVec 5) (a : BitVec 5)
  /-- SEXT (R259) -/
  | sext (d : BitVec 5) (a : BitVec 5) (w : BitVec 2)
  /-- ZEXT (R259) -/
  | zext (d : BitVec 5) (a : BitVec 5) (w : BitVec 2)
  /-- SEL (R262) -/
  | sel (d : BitVec 5) (a : BitVec 5) (b : BitVec 5) (f : BitVec 3)
  /-- CMP (R261) -/
  | cmp (m : BitVec 2) (f : BitVec 3) (a : BitVec 5) (b : BitVec 5) (c : BitVec 3)
  /-- ADDI (R264) -/
  | addi (d : BitVec 5) (a : BitVec 5) (i : BitVec 15)
  /-- ANDI (R264) -/
  | andi (d : BitVec 5) (a : BitVec 5) (i : BitVec 15)
  /-- ORI (R264) -/
  | ori (d : BitVec 5) (a : BitVec 5) (i : BitVec 15)
  /-- XORI (R264) -/
  | xori (d : BitVec 5) (a : BitVec 5) (i : BitVec 15)
  /-- SHLI (R265) -/
  | shli (d : BitVec 5) (a : BitVec 5) (n : BitVec 6)
  /-- SHRI (R265) -/
  | shri (d : BitVec 5) (a : BitVec 5) (n : BitVec 6)
  /-- SRAI (R265) -/
  | srai (d : BitVec 5) (a : BitVec 5) (n : BitVec 6)
  /-- ROLI (R265) -/
  | roli (d : BitVec 5) (a : BitVec 5) (n : BitVec 6)
  /-- CMPI (R263) -/
  | cmpi (m : BitVec 2) (f : BitVec 3) (a : BitVec 5) (c : BitVec 3) (i : BitVec 12)
  /-- LI (R266) -/
  | li (d : BitVec 5) (i : BitVec 20)
  /-- LUI (R266) -/
  | lui (d : BitVec 5) (i : BitVec 20)
  /-- LTOP (R266) -/
  | ltop (d : BitVec 5) (i : BitVec 20)
  /-- FADD (R268) -/
  | fadd (d : BitVec 5) (a : BitVec 5) (b : BitVec 5) (p : BitVec 2)
  /-- FSUB (R268) -/
  | fsub (d : BitVec 5) (a : BitVec 5) (b : BitVec 5) (p : BitVec 2)
  /-- FMUL (R268) -/
  | fmul (d : BitVec 5) (a : BitVec 5) (b : BitVec 5) (p : BitVec 2)
  /-- FFMA (R268) -/
  | ffma (d : BitVec 5) (a : BitVec 5) (b : BitVec 5) (p : BitVec 2)
  /-- FDIV (R268) -/
  | fdiv (d : BitVec 5) (a : BitVec 5) (b : BitVec 5) (p : BitVec 2)
  /-- FSQRT (R268) -/
  | fsqrt (d : BitVec 5) (a : BitVec 5) (p : BitVec 2)
  /-- FMIN (R269) -/
  | fmin (d : BitVec 5) (a : BitVec 5) (b : BitVec 5) (p : BitVec 2)
  /-- FMAX (R269) -/
  | fmax (d : BitVec 5) (a : BitVec 5) (b : BitVec 5) (p : BitVec 2)
  /-- FABS (R269) -/
  | fabs (d : BitVec 5) (a : BitVec 5) (p : BitVec 2)
  /-- FNEG (R269) -/
  | fneg (d : BitVec 5) (a : BitVec 5) (p : BitVec 2)
  /-- FCLASS (R270) -/
  | fclass (d : BitVec 5) (a : BitVec 5) (p : BitVec 2)
  /-- FRND (R271) -/
  | frnd (d : BitVec 5) (a : BitVec 5) (p : BitVec 2)
  /-- FCVT (R272) -/
  | fcvt (d : BitVec 5) (a : BitVec 5) (s : BitVec 3) (p : BitVec 2)
  /-- FTOI (R273) -/
  | ftoi (d : BitVec 5) (a : BitVec 5) (u : BitVec 1) (p : BitVec 2)
  /-- FCMP (R274) -/
  | fcmp (m : BitVec 2) (f : BitVec 3) (a : BitVec 5) (b : BitVec 5) (p : BitVec 2) (c : BitVec 3)
  /-- BT (R275) -/
  | bt (f : BitVec 3) (o : BitVec 21)
  /-- BF (R275) -/
  | bf (f : BitVec 3) (o : BitVec 21)
  /-- BR (R276) -/
  | br (o : BitVec 25)
  /-- CALLR (R277) -/
  | callr (a : BitVec 5)
  /-- JMPR (R277) -/
  | jmpr (a : BitVec 5)
  /-- RET (R120) -/
  | ret
  /-- LOOP (R128) -/
  | loop (a : BitVec 5) (l : BitVec 15)
  /-- LOOPI (R128) -/
  | loopi (c : BitVec 10) (l : BitVec 10)
  /-- LDB (R291) -/
  | ldb (t : BitVec 5) (a : BitVec 5) (s : BitVec 2) (p : BitVec 4) (o : BitVec 9)
  /-- LDBS (R291) -/
  | ldbs (t : BitVec 5) (a : BitVec 5) (s : BitVec 2) (p : BitVec 4) (o : BitVec 9)
  /-- LDH (R291) -/
  | ldh (t : BitVec 5) (a : BitVec 5) (s : BitVec 2) (p : BitVec 4) (o : BitVec 9)
  /-- LDHS (R291) -/
  | ldhs (t : BitVec 5) (a : BitVec 5) (s : BitVec 2) (p : BitVec 4) (o : BitVec 9)
  /-- LDW (R291) -/
  | ldw (t : BitVec 5) (a : BitVec 5) (s : BitVec 2) (p : BitVec 4) (o : BitVec 9)
  /-- LDWS (R291) -/
  | ldws (t : BitVec 5) (a : BitVec 5) (s : BitVec 2) (p : BitVec 4) (o : BitVec 9)
  /-- LDD (R291) -/
  | ldd (t : BitVec 5) (a : BitVec 5) (s : BitVec 2) (p : BitVec 4) (o : BitVec 9)
  /-- STB (R291) -/
  | stb (t : BitVec 5) (a : BitVec 5) (s : BitVec 2) (p : BitVec 4) (o : BitVec 9)
  /-- STH (R291) -/
  | sth (t : BitVec 5) (a : BitVec 5) (s : BitVec 2) (p : BitVec 4) (o : BitVec 9)
  /-- STW (R291) -/
  | stw (t : BitVec 5) (a : BitVec 5) (s : BitVec 2) (p : BitVec 4) (o : BitVec 9)
  /-- STD (R291) -/
  | std (t : BitVec 5) (a : BitVec 5) (s : BitVec 2) (p : BitVec 4) (o : BitVec 9)
  /-- LDFF (R294) -/
  | ldff (t : BitVec 5) (a : BitVec 5) (s : BitVec 2) (p : BitVec 4)
  /-- LDFE (R294) -/
  | ldfe (t : BitVec 5) (a : BitVec 5) (s : BitVec 2) (p : BitVec 4)
  /-- STEF (R294) -/
  | stef (t : BitVec 5) (a : BitVec 5) (s : BitVec 2) (p : BitVec 4)
  /-- STFF (R294) -/
  | stff (t : BitVec 5) (a : BitVec 5) (s : BitVec 2) (p : BitVec 4)
  /-- LDXX (R294) -/
  | ldxx (t : BitVec 5) (a : BitVec 5) (s : BitVec 2) (p : BitVec 4) (f : BitVec 3)
  /-- SETE (R294) -/
  | sete (a : BitVec 5) (s : BitVec 2) (p : BitVec 4)
  /-- AADD (R297) -/
  | aadd (t : BitVec 5) (a : BitVec 5) (s : BitVec 2) (p : BitVec 4) (b : BitVec 5)
  /-- AAND (R297) -/
  | aand (t : BitVec 5) (a : BitVec 5) (s : BitVec 2) (p : BitVec 4) (b : BitVec 5)
  /-- AOR (R297) -/
  | aor (t : BitVec 5) (a : BitVec 5) (s : BitVec 2) (p : BitVec 4) (b : BitVec 5)
  /-- AXOR (R297) -/
  | axor (t : BitVec 5) (a : BitVec 5) (s : BitVec 2) (p : BitVec 4) (b : BitVec 5)
  /-- AMIN (R297) -/
  | amin (t : BitVec 5) (a : BitVec 5) (s : BitVec 2) (p : BitVec 4) (b : BitVec 5)
  /-- AMAX (R297) -/
  | amax (t : BitVec 5) (a : BitVec 5) (s : BitVec 2) (p : BitVec 4) (b : BitVec 5)
  /-- AMINN (R297) -/
  | aminn (t : BitVec 5) (a : BitVec 5) (s : BitVec 2) (p : BitVec 4) (b : BitVec 5)
  /-- AMAXN (R297) -/
  | amaxn (t : BitVec 5) (a : BitVec 5) (s : BitVec 2) (p : BitVec 4) (b : BitVec 5)
  /-- ASWAP (R297) -/
  | aswap (t : BitVec 5) (a : BitVec 5) (s : BitVec 2) (p : BitVec 4) (b : BitVec 5)
  /-- CAS (R297) -/
  | cas (t : BitVec 5) (a : BitVec 5) (s : BitVec 2) (p : BitVec 4) (b : BitVec 5)
  /-- AFADD (R298) -/
  | afadd (t : BitVec 5) (a : BitVec 5) (s : BitVec 2) (p : BitVec 4) (b : BitVec 5)
  /-- CFLUSH (R301) -/
  | cflush (a : BitVec 5) (s : BitVec 2) (p : BitVec 4) (b : BitVec 5)
  /-- CINV (R301) -/
  | cinv (a : BitVec 5) (s : BitVec 2) (p : BitVec 4) (b : BitVec 5)
  /-- SMAP (R157) -/
  | smap (n : BitVec 3) (a : BitVec 5) (s : BitVec 2) (p : BitVec 4)
  /-- SUNMAP (R302) -/
  | sunmap (n : BitVec 3) (s : BitVec 2) (p : BitVec 4)
  /-- SWB (R302) -/
  | swb (n : BitVec 3) (s : BitVec 2) (p : BitVec 4)
  /-- PREF (R304) -/
  | pref (a : BitVec 5) (s : BitVec 2) (p : BitVec 4)
  /-- FMTW (R305) -/
  | fmtw (t : BitVec 5) (a : BitVec 5) (s : BitVec 2) (p : BitVec 4)
  /-- SFMT (R303) -/
  | sfmt (n : BitVec 3) (a : BitVec 5) (s : BitVec 2) (p : BitVec 4)
  /-- MBXW (R307) -/
  | mbxw (n : BitVec 3) (a : BitVec 5) (b : BitVec 5) (p : BitVec 4) (s : BitVec 2)
  /-- MBXWI (R308) -/
  | mbxwi (n : BitVec 3) (p : BitVec 4) (s : BitVec 2)
  /-- MBXR (R309) -/
  | mbxr (d : BitVec 5) (n : BitVec 3) (p : BitVec 4) (s : BitVec 2)
  /-- MBXT (R309) -/
  | mbxt (d : BitVec 5) (f : BitVec 3) (n : BitVec 3) (p : BitVec 4) (s : BitVec 2)
  /-- SEMP (R311) -/
  | semp (d : BitVec 5) (n : BitVec 3) (p : BitVec 4) (s : BitVec 2)
  /-- SEMV (R311) -/
  | semv (n : BitVec 3) (p : BitVec 4) (s : BitVec 2)
  /-- QPUSH (R313) -/
  | qpush (f : BitVec 3) (a : BitVec 5) (b : BitVec 5) (p : BitVec 4) (s : BitVec 2)
  /-- QPOP (R313) -/
  | qpop (d : BitVec 5) (f : BitVec 3) (p : BitVec 4) (s : BitVec 2)
  /-- WFE (R315) -/
  | wfe (p : BitVec 4) (s : BitVec 2)
  /-- SEV (R315) -/
  | sev (n : BitVec 3) (a : BitVec 5) (p : BitVec 4) (s : BitVec 2)
  /-- BARA (R317) -/
  | bara (c : BitVec 3) (a : BitVec 5) (b : BitVec 4) (p : BitVec 4) (s : BitVec 2)
  /-- BARW (R317) -/
  | barw (c : BitVec 3) (a : BitVec 5) (b : BitVec 4) (p : BitVec 4) (s : BitVec 2)
  /-- BARQ (R319) -/
  | barq (a : BitVec 5) (b : BitVec 2) (p : BitVec 4) (s : BitVec 2)
  /-- TKGET_INSN (R323) -/
  | tkgetInsn (d : BitVec 5) (a : BitVec 5) (c : BitVec 4) (p : BitVec 4) (s : BitVec 2)
  /-- TKWAIT (R324) -/
  | tkwait (a : BitVec 5) (p : BitVec 4) (s : BitVec 2)
  /-- TKDONE_INSN (R325) -/
  | tkdoneInsn (a : BitVec 5) (c : BitVec 4) (p : BitVec 4) (s : BitVec 2)
  /-- CTRB (R327) -/
  | ctrb (a : BitVec 5) (b : BitVec 5) (p : BitVec 4) (s : BitVec 2)
  /-- CTRES (R328) -/
  | ctres (d : BitVec 5) (a : BitVec 5) (f : BitVec 3) (p : BitVec 4) (s : BitVec 2)
  /-- CTABT_INSN (R329) -/
  | ctabtInsn (a : BitVec 5) (p : BitVec 4) (s : BitVec 2)
  /-- SPAWN (R331) -/
  | spawn (f : BitVec 3) (a : BitVec 5) (b : BitVec 5) (p : BitVec 4) (s : BitVec 2)
  /-- MIGR (R332) -/
  | migr (f : BitVec 3) (a : BitVec 5) (p : BitVec 4) (s : BitVec 2)
  /-- EXIT (R134) -/
  | exit (p : BitVec 4) (s : BitVec 2)
  /-- YIELD (R134) -/
  | yield (p : BitVec 4) (s : BitVec 2)
  /-- CKPT (R334) -/
  | ckpt (a : BitVec 5) (p : BitVec 4) (s : BitVec 2)
  /-- VMOV (R337) -/
  | vmov (d : BitVec 4) (a : BitVec 4) (k : BitVec 3)
  /-- VADD (R338) -/
  | vadd (d : BitVec 4) (a : BitVec 4) (b : BitVec 4) (k : BitVec 3) (y : BitVec 3)
  /-- VSUB (R338) -/
  | vsub (d : BitVec 4) (a : BitVec 4) (b : BitVec 4) (k : BitVec 3) (y : BitVec 3)
  /-- VMUL (R338) -/
  | vmul (d : BitVec 4) (a : BitVec 4) (b : BitVec 4) (k : BitVec 3) (y : BitVec 3)
  /-- VFMA (R339) -/
  | vfma (d : BitVec 4) (a : BitVec 4) (b : BitVec 4) (k : BitVec 3) (y : BitVec 3)
  /-- VFMS (R339) -/
  | vfms (d : BitVec 4) (a : BitVec 4) (b : BitVec 4) (k : BitVec 3) (y : BitVec 3)
  /-- VMAX (R338) -/
  | vmax (d : BitVec 4) (a : BitVec 4) (b : BitVec 4) (k : BitVec 3) (y : BitVec 3)
  /-- VMIN (R338) -/
  | vmin (d : BitVec 4) (a : BitVec 4) (b : BitVec 4) (k : BitVec 3) (y : BitVec 3)
  /-- VABS (R338) -/
  | vabs (d : BitVec 4) (a : BitVec 4) (k : BitVec 3) (y : BitVec 3)
  /-- VNEG (R338) -/
  | vneg (d : BitVec 4) (a : BitVec 4) (k : BitVec 3) (y : BitVec 3)
  /-- VAND (R337) -/
  | vand (d : BitVec 4) (a : BitVec 4) (b : BitVec 4) (k : BitVec 3)
  /-- VOR (R337) -/
  | vor (d : BitVec 4) (a : BitVec 4) (b : BitVec 4) (k : BitVec 3)
  /-- VXOR (R337) -/
  | vxor (d : BitVec 4) (a : BitVec 4) (b : BitVec 4) (k : BitVec 3)
  /-- VANDN (R337) -/
  | vandn (d : BitVec 4) (a : BitVec 4) (b : BitVec 4) (k : BitVec 3)
  /-- VSHL (R338) -/
  | vshl (d : BitVec 4) (a : BitVec 4) (b : BitVec 4) (k : BitVec 3) (y : BitVec 3)
  /-- VSHR (R338) -/
  | vshr (d : BitVec 4) (a : BitVec 4) (b : BitVec 4) (k : BitVec 3) (y : BitVec 3)
  /-- VSRA (R338) -/
  | vsra (d : BitVec 4) (a : BitVec 4) (b : BitVec 4) (k : BitVec 3) (y : BitVec 3)
  /-- VMULH (R338) -/
  | vmulh (d : BitVec 4) (a : BitVec 4) (b : BitVec 4) (k : BitVec 3) (y : BitVec 3)
  /-- VCLZ (R338) -/
  | vclz (d : BitVec 4) (a : BitVec 4) (k : BitVec 3) (y : BitVec 3)
  /-- VPOPC (R338) -/
  | vpopc (d : BitVec 4) (a : BitVec 4) (k : BitVec 3) (y : BitVec 3)
  /-- VCVT (R341) -/
  | vcvt (d : BitVec 4) (s : BitVec 3) (b : BitVec 4) (k : BitVec 3) (y : BitVec 3)
  /-- VRCP (R340) -/
  | vrcp (d : BitVec 4) (a : BitVec 4) (k : BitVec 3)
  /-- VRSQ (R340) -/
  | vrsq (d : BitVec 4) (a : BitVec 4) (k : BitVec 3)
  /-- VPERM (R337) -/
  | vperm (d : BitVec 4) (a : BitVec 4) (b : BitVec 4) (k : BitVec 3)
  /-- VSEL (R337) -/
  | vsel (d : BitVec 4) (a : BitVec 4) (b : BitVec 4) (k : BitVec 3)
  /-- VCMP (R342) -/
  | vcmp (g : BitVec 1) (m : BitVec 3) (a : BitVec 4) (b : BitVec 4) (k : BitVec 3) (y : BitVec 3) (o : BitVec 3)
  /-- VMOV_SHORT (R252) -/
  | vmovShort (k : BitVec 3) (s : BitVec 4) (d : BitVec 4)
  /-- VADD_F32_SHORT (R252) -/
  | vaddF32Short (k : BitVec 3) (s : BitVec 4) (d : BitVec 4)
  /-- VSUB_F32_SHORT (R252) -/
  | vsubF32Short (k : BitVec 3) (s : BitVec 4) (d : BitVec 4)
  /-- VMUL_F32_SHORT (R252) -/
  | vmulF32Short (k : BitVec 3) (s : BitVec 4) (d : BitVec 4)
  /-- VMAX_F32_SHORT (R252) -/
  | vmaxF32Short (k : BitVec 3) (s : BitVec 4) (d : BitVec 4)
  /-- VMIN_F32_SHORT (R252) -/
  | vminF32Short (k : BitVec 3) (s : BitVec 4) (d : BitVec 4)
  /-- VADD_I32_SHORT (R252) -/
  | vaddI32Short (k : BitVec 3) (s : BitVec 4) (d : BitVec 4)
  /-- VSUB_I32_SHORT (R252) -/
  | vsubI32Short (k : BitVec 3) (s : BitVec 4) (d : BitVec 4)
  /-- VAND_SHORT (R252) -/
  | vandShort (k : BitVec 3) (s : BitVec 4) (d : BitVec 4)
  /-- VOR_SHORT (R252) -/
  | vorShort (k : BitVec 3) (s : BitVec 4) (d : BitVec 4)
  /-- VXOR_SHORT (R252) -/
  | vxorShort (k : BitVec 3) (s : BitVec 4) (d : BitVec 4)
  /-- VADD_B2_SHORT (R252) -/
  | vaddB2Short (k : BitVec 3) (s : BitVec 4) (d : BitVec 4)
  /-- VMUL_B2_SHORT (R252) -/
  | vmulB2Short (k : BitVec 3) (s : BitVec 4) (d : BitVec 4)
  /-- VSHL_I32_SHORT (R252) -/
  | vshlI32Short (k : BitVec 3) (s : BitVec 4) (d : BitVec 4)
  /-- VSHR_N32_SHORT (R252) -/
  | vshrN32Short (k : BitVec 3) (s : BitVec 4) (d : BitVec 4)
  /-- VSEL_SHORT (R252) -/
  | vselShort (k : BitVec 3) (s : BitVec 4) (d : BitVec 4)
  /-- VBCAST (R344) -/
  | vbcast (d : BitVec 4) (a : BitVec 5) (k : BitVec 3)
  /-- VEXT (R344) -/
  | vext (d : BitVec 5) (a : BitVec 4) (b : BitVec 5)
  /-- VINS (R344) -/
  | vins (d : BitVec 4) (a : BitVec 5) (b : BitVec 5)
  /-- VREDADD (R345) -/
  | vredadd (d : BitVec 5) (a : BitVec 4) (y : BitVec 2) (k : BitVec 3)
  /-- VREDMAX (R345) -/
  | vredmax (d : BitVec 5) (a : BitVec 4) (y : BitVec 2) (k : BitVec 3)
  /-- VREDMIN (R345) -/
  | vredmin (d : BitVec 5) (a : BitVec 4) (y : BitVec 2) (k : BitVec 3)
  /-- VIOTA (R344) -/
  | viota (d : BitVec 4) (a : BitVec 5) (k : BitVec 3)
  /-- VREDFADD (R346) -/
  | vredfadd (d : BitVec 5) (a : BitVec 4) (k : BitVec 3)
  /-- VTBLW (R357) -/
  | vtblw (t : BitVec 2) (a : BitVec 5) (b : BitVec 4)
  /-- VTLERP (R358) -/
  | vtlerp (d : BitVec 4) (a : BitVec 4) (t : BitVec 2) (k : BitVec 3)
  /-- VTLCFG (R356) -/
  | vtlcfg (t : BitVec 2) (a : BitVec 5) (b : BitVec 5)
  /-- KAND (R352) -/
  | kand (d : BitVec 3) (a : BitVec 3) (b : BitVec 3)
  /-- KOR (R352) -/
  | kor (d : BitVec 3) (a : BitVec 3) (b : BitVec 3)
  /-- KXOR (R352) -/
  | kxor (d : BitVec 3) (a : BitVec 3) (b : BitVec 3)
  /-- KNOT (R352) -/
  | knot (d : BitVec 3) (a : BitVec 3)
  /-- KSET (R352) -/
  | kset (d : BitVec 3) (a : BitVec 5)
  /-- KGET (R352) -/
  | kget (d : BitVec 5) (a : BitVec 3)
  /-- KPOP (R352) -/
  | kpop (d : BitVec 5) (a : BitVec 3)
  /-- KFIRST (R352) -/
  | kfirst (d : BitVec 5) (a : BitVec 3)
  /-- KANY (R352) -/
  | kany (f : BitVec 3) (a : BitVec 3)
  /-- KLEN (R352) -/
  | klen (d : BitVec 3) (a : BitVec 5)
  /-- VLD (R349) -/
  | vld (d : BitVec 4) (a : BitVec 5) (s : BitVec 2) (p : BitVec 4) (k : BitVec 3) (o : BitVec 7)
  /-- VST (R349) -/
  | vst (d : BitVec 4) (a : BitVec 5) (s : BitVec 2) (p : BitVec 4) (k : BitVec 3) (o : BitVec 7)
  /-- VLDD (R350) -/
  | vldd (d : BitVec 4) (a : BitVec 5) (s : BitVec 2) (p : BitVec 4) (k : BitVec 3) (o : BitVec 7)
  /-- VLDX (R351) -/
  | vldx (d : BitVec 4) (v : BitVec 4) (a : BitVec 5) (s : BitVec 2) (p : BitVec 4) (k : BitVec 3) (c : BitVec 3)
  /-- VSTX (R351) -/
  | vstx (d : BitVec 4) (v : BitVec 4) (a : BitVec 5) (s : BitVec 2) (p : BitVec 4) (k : BitVec 3) (c : BitVec 3)
  /-- MOPEN (R370) -/
  | mopen (d : BitVec 5) (v : BitVec 4) (s : BitVec 2) (p : BitVec 4)
  /-- MMA (R371) -/
  | mma (d : BitVec 5) (v : BitVec 4) (s : BitVec 2) (p : BitVec 4)
  /-- MMAS (R372) -/
  | mmas (d : BitVec 5) (v : BitVec 4) (s : BitVec 2) (p : BitVec 4)
  /-- MMAW (R373) -/
  | mmaw (d : BitVec 5) (v : BitVec 4) (s : BitVec 2) (p : BitVec 4)
  /-- MROT (R374) -/
  | mrot (d : BitVec 5) (v : BitVec 4) (s : BitVec 2) (p : BitVec 4)
  /-- MCONT (R375) -/
  | mcont (d : BitVec 5) (v : BitVec 4) (s : BitVec 2) (p : BitVec 4)
  /-- MFWD (R376) -/
  | mfwd (d : BitVec 5) (v : BitVec 4) (s : BitVec 2) (p : BitVec 4)
  /-- MREAD (R377) -/
  | mread (d : BitVec 5) (v : BitVec 4) (s : BitVec 2) (p : BitVec 4)
  /-- MQRY (R378) -/
  | mqry (d : BitVec 5) (v : BitVec 4) (s : BitVec 2) (p : BitVec 4)
  /-- MABN (R379) -/
  | mabn (d : BitVec 5) (v : BitVec 4) (s : BitVec 2) (p : BitVec 4)
  /-- MCLOSE (R379) -/
  | mclose (d : BitVec 5) (v : BitVec 4) (s : BitVec 2) (p : BitVec 4)
  /-- MFLG (R378) -/
  | mflg (d : BitVec 5) (v : BitVec 4) (s : BitVec 2) (p : BitVec 4)
  /-- CPY (R383) -/
  | cpy (d : BitVec 5) (v : BitVec 4) (s : BitVec 2) (p : BitVec 4)
  /-- CPY2 (R383) -/
  | cpy2 (d : BitVec 5) (v : BitVec 4) (s : BitVec 2) (p : BitVec 4)
  /-- CPYF (R383) -/
  | cpyf (d : BitVec 5) (v : BitVec 4) (s : BitVec 2) (p : BitVec 4)
  /-- CPYK (R385) -/
  | cpyk (d : BitVec 5) (v : BitVec 4) (s : BitVec 2) (p : BitVec 4)
  /-- MFS (R280) -/
  | mfs (d : BitVec 5) (s : BitVec 12)
  /-- MTS (R280) -/
  | mts (a : BitVec 5) (s : BitVec 12)
  /-- TRAP (R281) -/
  | trap (c : BitVec 12)
  /-- HALT (R281) -/
  | halt
  /-- NOP (R281) -/
  | nop
  /-- BKPT (R281) -/
  | bkpt (c : BitVec 12)
  /-- SVC_RSM (R284) -/
  | svcRsm (c : BitVec 5) (a : BitVec 5)
  /-- SVC_KILL (R285) -/
  | svcKill (c : BitVec 5) (a : BitVec 5)
  /-- SVC_TLBINV (R286) -/
  | svcTlbinv (c : BitVec 5) (a : BitVec 5)
  /-- SVC_GANGCTL (R287) -/
  | svcGangctl (c : BitVec 5) (a : BitVec 5)
  /-- SVC_PRMPT (R288) -/
  | svcPrmpt (c : BitVec 5) (a : BitVec 5)
  /-- SVC_MSGRD (R289) -/
  | svcMsgrd
  /-- CALL_INSN (R277) -/
  | callInsn (o : BitVec 25)
  /-- ILLEGAL_INSTRUCTION (R256) -/
  | illegalInstruction (word : BitVec 32)
  /-- POWER_ON (R21) -/
  | powerOn
  /-- RAILS_SETTLED (R21) -/
  | railsSettled
  /-- POWER_OFF (R21) -/
  | powerOff
  /-- BOOT_STAGE_LOAD (R71) -/
  | bootStageLoad
  /-- RECOVERY_WINDOW_WRITE (R74) -/
  | recoveryWindowWrite
  /-- RECOVCTL_WRITE (R74) -/
  | recovctlWrite
  /-- RECOVERY_PIECE_COPIED (R74) -/
  | recoveryPieceCopied
  /-- HEARTBEAT_MISSED (R75) -/
  | heartbeatMissed
  /-- ATTGO_WRITE (R76) -/
  | attgoWrite
  /-- ATTESTATION_REPORT_DONE (R76) -/
  | attestationReportDone
  /-- LIFETIME_COMMIT (R77) -/
  | lifetimeCommit
  /-- MONTH_ADVANCE (R77) -/
  | monthAdvance
  /-- PWRCTL_P0 (R26) -/
  | pwrctlP0
  /-- PWRCTL_P1 (R26) -/
  | pwrctlP1
  /-- PWRCTL_P2 (R26) -/
  | pwrctlP2
  /-- PWRCTL_P3 (R26) -/
  | pwrctlP3
  /-- POWER_TRANSITION_DONE (R26) -/
  | powerTransitionDone
  /-- THERMAL_ALERT (R22) -/
  | thermalAlert
  /-- THERMTRIP (R22) -/
  | thermtrip
  /-- DRAM_ECC_CORRECT (R19) -/
  | dramEccCorrect
  /-- DRAM_ECC_POISON (R19) -/
  | dramEccPoison
  /-- TARMEL_FLIT_REPLAY (R10) -/
  | tarmelFlitReplay
  /-- TARMEL_LANE_SPARE (R11) -/
  | tarmelLaneSpare
  /-- TARMEL_RETRAIN_DONE (R11) -/
  | tarmelRetrainDone
  /-- TARMEL_GROUP_DISABLE (R12) -/
  | tarmelGroupDisable
  /-- VILAM_FLIT_REPLAY (R31) -/
  | vilamFlitReplay
  /-- VILAM_PORT_DEGRADE (R31) -/
  | vilamPortDegrade
  /-- ROUTE_REWRITE (R38) -/
  | routeRewrite
  /-- ROUTE_RESUME (R38) -/
  | routeResume
  /-- PCIE_LINK_TRAIN (R52) -/
  | pcieLinkTrain
  /-- PACKET_FORWARD (R37) -/
  | packetForward
  /-- LOAD (R42) -/
  | load
  /-- STORE (R42) -/
  | store
  /-- ATOMIC (R42) -/
  | atomic
  /-- FEOP (R43) -/
  | feop
  /-- COPYW (R42) -/
  | copyw
  /-- CONTRIB (R376) -/
  | contrib
  /-- TASK (R132) -/
  | task
  /-- TKGET (R46) -/
  | tkget
  /-- TKREG (R46) -/
  | tkreg
  /-- TKDONE (R46) -/
  | tkdone
  /-- RESP (R115) -/
  | resp
  /-- ACK (R42) -/
  | ack
  /-- NACK (R44) -/
  | nack
  /-- NACK_RETRY (R44) -/
  | nackRetry
  /-- CALL (R47) -/
  | call
  /-- CTUP (R49) -/
  | ctup
  /-- CTDOWN (R50) -/
  | ctdown
  /-- CTABT (R51) -/
  | ctabt
  /-- PBAR (R317) -/
  | pbar
  /-- BARRIER_ARRIVE (R317) -/
  | barrierArrive
  /-- HOST_BAR4_READ (R69) -/
  | hostBar4Read
  /-- HOST_BAR4_WRITE (R69) -/
  | hostBar4Write
  /-- QBASE_WRITE (R57) -/
  | qbaseWrite
  /-- QRIDX_WRITE (R57) -/
  | qridxWrite
  /-- QCFG_WRITE (R57) -/
  | qcfgWrite
  /-- NOTIFY_WRITE (R59) -/
  | notifyWrite
  /-- REGISTER_WRITE (R54) -/
  | registerWrite
  /-- PACKET_READ (R60) -/
  | packetRead
  /-- WAIT_VALID_REREAD (R60) -/
  | waitValidReread
  /-- PACKET_BEGIN (R65) -/
  | packetBegin
  /-- LAUNCH (R80) -/
  | launch
  /-- LAUNCH_ACCEPT (R81) -/
  | launchAccept
  /-- DEPEND (R65) -/
  | depend
  /-- DEPEND_POLL (R65) -/
  | dependPoll
  /-- SIGNAL_STORE (R66) -/
  | signalStore
  /-- SIGNAL_ADD (R66) -/
  | signalAdd
  /-- SIGNAL_SUBTRACT (R66) -/
  | signalSubtract
  /-- COPY (R67) -/
  | copy
  /-- COPY_PIECE (R67) -/
  | copyPiece
  /-- PCIE_COMPLETION (R56) -/
  | pcieCompletion
  /-- GANG_OUT (R95) -/
  | gangOut
  /-- GANG_IN (R95) -/
  | gangIn
  /-- GANG_ABORT (R95) -/
  | gangAbort
  /-- GANG_COMMAND_START (R97) -/
  | gangCommandStart
  /-- FREEZE (R98) -/
  | freeze
  /-- MARK (R99) -/
  | mark
  /-- SWEEP (R100) -/
  | sweep
  /-- SAVE (R104) -/
  | save
  /-- RELEASE (R106) -/
  | release
  /-- RELEASE_HOST_WAIT_EXPIRY (R106) -/
  | releaseHostWaitExpiry
  /-- PHASE_COMPLETE (R97) -/
  | phaseComplete
  /-- IN_RESTORE (R108) -/
  | inRestore
  /-- IN_ADMIT (R108) -/
  | inAdmit
  /-- UNCORRECTABLE_ERROR (R109) -/
  | uncorrectableError
  /-- COBALT_BIND (R84) -/
  | cobaltBind
  /-- COBALT_PREEMPT (R85) -/
  | cobaltPreempt
  /-- PREEMPTION (R91) -/
  | preemption
  /-- COBALT_RESUME (R94) -/
  | cobaltResume
  /-- SPILL_REDELIVER (R94) -/
  | spillRedeliver
  /-- PARCEL_RETIRE (R88) -/
  | parcelRetire
  /-- RETIRED (R89) -/
  | retired
  /-- REPLY (R115) -/
  | reply
  /-- STREAM_RELEASE (R185) -/
  | streamRelease
  /-- WAIT_TIMEOUT (R142) -/
  | waitTimeout
  /-- EXIT_DRAINED (R134) -/
  | exitDrained
  /-- WALK_COMPLETE (R152) -/
  | walkComplete
  /-- STASH_LINE_FILL (R158) -/
  | stashLineFill
  /-- HOME_READ (R167) -/
  | homeRead
  /-- HOME_WRITE (R167) -/
  | homeWrite
  /-- QUAD_INVALIDATE (R168) -/
  | quadInvalidate
  /-- QUAD_RECALL (R168) -/
  | quadRecall
  /-- INVALIDATION_ACK (R167) -/
  | invalidationAck
  /-- WRITE_GRANT (R167) -/
  | writeGrant
  /-- EVICTION_NOTICE (R168) -/
  | evictionNotice
  /-- ENGINE_ACCEPT (R361) -/
  | engineAccept
  /-- CONTRIBUTION_ARRIVAL (R219) -/
  | contributionArrival
  /-- MROT_DELIVERY (R374) -/
  | mrotDelivery
  /-- COPY_START (R380) -/
  | copyStart
  /-- COPY_DONE (R382) -/
  | copyDone
  /-- SVC_COMPLETION (R282) -/
  | svcCompletion
  /-- ROUTER_GROUP_WRITE (R48) -/
  | routerGroupWrite
  /-- MIGR_SEND (R133) -/
  | migrSend
  /-- SCOPE_SET (R184) -/
  | scopeSet
  /-- TILE_COMMAND_ARRIVAL (R369) -/
  | tileCommandArrival
  /-- THERMAL_ALERT_CLEAR (R24) -/
  | thermalAlertClear
deriving DecidableEq, Repr

end Sys2Proof
end

