-- ==== Sys2Proof/WellFormed.lean ====
section
/-!
DEFINITION. WellFormed.lean: which instructions are legal whatever the registers hold (R236, R242 to R252, R256). The
machine takes the illegal-instruction trap on the others by the same predicate.
-/
namespace Sys2Proof

/-- A scalar destination may be g0 or a window register, not g1 to g7 (R236). -/
def okD (d : BitVec 5) : Bool := d = 0 || (8 : BitVec 5) ≤ d

/-- FCVT's source: a float of another precision, or a 64-bit integer (R244). -/
def okCvt (s : BitVec 3) (p : BitVec 2) : Bool :=
  if s.getLsbD 2 then !s.getLsbD 1 else (bits s 0 2 : BitVec 2) ≠ p

/-- Scope code and barrier number of BARA and BARW (R316). -/
def okBar (c : BitVec 3) (b : BitVec 4) : Bool :=
  c = 2 || ((c = 3 || c = 4) && b.toNat < 8)

/-- The vector type is one the function accepts (R248). -/
def okTy (y : BitVec 3) (tys : List (BitVec 3)) : Bool := tys.contains y

/-- The instruction has an encoding and is legal (R256). Events have none. -/
def wellFormed : Instr → Bool
  | .powerOn => false
  | .railsSettled => false
  | .powerOff => false
  | .bootStageLoad => false
  | .recoveryWindowWrite => false
  | .recovctlWrite => false
  | .recoveryPieceCopied => false
  | .heartbeatMissed => false
  | .attgoWrite => false
  | .attestationReportDone => false
  | .lifetimeCommit => false
  | .monthAdvance => false
  | .pwrctlP0 => false
  | .pwrctlP1 => false
  | .pwrctlP2 => false
  | .pwrctlP3 => false
  | .powerTransitionDone => false
  | .thermalAlert => false
  | .thermtrip => false
  | .dramEccCorrect => false
  | .dramEccPoison => false
  | .tarmelFlitReplay => false
  | .tarmelLaneSpare => false
  | .tarmelRetrainDone => false
  | .tarmelGroupDisable => false
  | .vilamFlitReplay => false
  | .vilamPortDegrade => false
  | .routeRewrite => false
  | .routeResume => false
  | .pcieLinkTrain => false
  | .packetForward => false
  | .load => false
  | .store => false
  | .atomic => false
  | .feop => false
  | .copyw => false
  | .contrib => false
  | .task => false
  | .tkget => false
  | .tkreg => false
  | .tkdone => false
  | .resp => false
  | .ack => false
  | .nack => false
  | .nackRetry => false
  | .call => false
  | .ctup => false
  | .ctdown => false
  | .ctabt => false
  | .pbar => false
  | .barrierArrive => false
  | .hostBar4Read => false
  | .hostBar4Write => false
  | .qbaseWrite => false
  | .qridxWrite => false
  | .qcfgWrite => false
  | .notifyWrite => false
  | .registerWrite => false
  | .packetRead => false
  | .waitValidReread => false
  | .packetBegin => false
  | .launch => false
  | .launchAccept => false
  | .depend => false
  | .dependPoll => false
  | .signalStore => false
  | .signalAdd => false
  | .signalSubtract => false
  | .copy => false
  | .copyPiece => false
  | .pcieCompletion => false
  | .gangOut => false
  | .gangIn => false
  | .gangAbort => false
  | .gangCommandStart => false
  | .freeze => false
  | .mark => false
  | .sweep => false
  | .save => false
  | .release => false
  | .releaseHostWaitExpiry => false
  | .phaseComplete => false
  | .inRestore => false
  | .inAdmit => false
  | .uncorrectableError => false
  | .cobaltBind => false
  | .cobaltPreempt => false
  | .preemption => false
  | .cobaltResume => false
  | .spillRedeliver => false
  | .parcelRetire => false
  | .retired => false
  | .reply => false
  | .streamRelease => false
  | .waitTimeout => false
  | .exitDrained => false
  | .walkComplete => false
  | .stashLineFill => false
  | .homeRead => false
  | .homeWrite => false
  | .quadInvalidate => false
  | .quadRecall => false
  | .invalidationAck => false
  | .writeGrant => false
  | .evictionNotice => false
  | .engineAccept => false
  | .contributionArrival => false
  | .mrotDelivery => false
  | .copyStart => false
  | .copyDone => false
  | .svcCompletion => false
  | .routerGroupWrite => false
  | .add d _ _ => okD d
  | .sub d _ _ => okD d
  | .mul d _ _ => okD d
  | .mulh d _ _ => okD d
  | .mulhn d _ _ => okD d
  | .div d _ _ => okD d
  | .divn d _ _ => okD d
  | .rem d _ _ => okD d
  | .remn d _ _ => okD d
  | .and d _ _ => okD d
  | .or d _ _ => okD d
  | .xor d _ _ => okD d
  | .andn d _ _ => okD d
  | .shl d _ _ => okD d
  | .shr d _ _ => okD d
  | .sra d _ _ => okD d
  | .rol d _ _ => okD d
  | .min d _ _ => okD d
  | .max d _ _ => okD d
  | .minn d _ _ => okD d
  | .maxn d _ _ => okD d
  | .clz d _ => okD d
  | .popc d _ => okD d
  | .sext d _ w => okD d && decide (w ≠ 3)
  | .zext d _ w => okD d && decide (w ≠ 3)
  | .sel d _ _ _ => okD d
  | .cmp _ _ _ _ _ => true
  | .addi d _ _ => okD d
  | .andi d _ _ => okD d
  | .ori d _ _ => okD d
  | .xori d _ _ => okD d
  | .shli d _ _ => okD d
  | .shri d _ _ => okD d
  | .srai d _ _ => okD d
  | .roli d _ _ => okD d
  | .cmpi _ _ _ _ _ => true
  | .li d _ => okD d
  | .lui d _ => okD d
  | .ltop d _ => okD d
  | .fadd d _ _ _ => okD d
  | .fsub d _ _ _ => okD d
  | .fmul d _ _ _ => okD d
  | .ffma d _ _ _ => okD d
  | .fdiv d _ _ _ => okD d
  | .fsqrt d _ _ => okD d
  | .fmin d _ _ _ => okD d
  | .fmax d _ _ _ => okD d
  | .fabs d _ _ => okD d
  | .fneg d _ _ => okD d
  | .fclass d _ _ => okD d
  | .frnd d _ _ => okD d
  | .fcvt d _ s p => okD d && okCvt s p
  | .ftoi d _ _ _ => okD d
  | .fcmp _ _ _ _ _ _ => true
  | .bt _ _ => true
  | .bf _ _ => true
  | .br _ => true
  | .callr _ => true
  | .jmpr _ => true
  | .ret => true
  | .loop _ l => decide (l ≠ 0)
  | .loopi _ l => decide (l ≠ 0)
  | .ldb t _ _ _ _ => okD t
  | .ldbs t _ _ _ _ => okD t
  | .ldh t _ _ _ _ => okD t
  | .ldhs t _ _ _ _ => okD t
  | .ldw t _ _ _ _ => okD t
  | .ldws t _ _ _ _ => okD t
  | .ldd t _ _ _ _ => okD t
  | .stb _ _ _ _ _ => true
  | .sth _ _ _ _ _ => true
  | .stw _ _ _ _ _ => true
  | .std _ _ _ _ _ => true
  | .ldff t _ _ _ => okD t
  | .ldfe t _ _ _ => okD t
  | .stef _ _ _ _ => true
  | .stff _ _ _ _ => true
  | .ldxx t _ _ _ _ => okD t
  | .sete _ _ _ => true
  | .aadd t _ _ _ _ => okD t
  | .aand t _ _ _ _ => okD t
  | .aor t _ _ _ _ => okD t
  | .axor t _ _ _ _ => okD t
  | .amin t _ _ _ _ => okD t
  | .amax t _ _ _ _ => okD t
  | .aminn t _ _ _ _ => okD t
  | .amaxn t _ _ _ _ => okD t
  | .aswap t _ _ _ _ => okD t
  | .cas t _ _ _ _ => okD t
  | .afadd t _ _ _ _ => okD t
  | .cflush _ _ _ _ => true
  | .cinv _ _ _ _ => true
  | .smap _ _ _ _ => true
  | .sunmap _ _ _ => true
  | .swb _ _ _ => true
  | .pref _ _ _ => true
  | .fmtw _ _ _ _ => true
  | .sfmt _ _ _ _ => true
  | .mbxw _ _ _ _ _ => true
  | .mbxwi _ _ _ => true
  | .mbxr d _ _ _ => okD d
  | .mbxt d _ _ _ _ => okD d
  | .semp d _ _ _ => okD d
  | .semv _ _ _ => true
  | .qpush _ _ _ _ _ => true
  | .qpop d _ _ _ => okD d
  | .wfe _ _ => true
  | .sev _ _ _ _ => true
  | .bara c _ b _ _ => okBar c b
  | .barw c _ b _ _ => okBar c b
  | .barq _ _ _ _ => true
  | .tkgetInsn d _ _ _ _ => okD d
  | .tkwait _ _ _ => true
  | .tkdoneInsn _ _ _ _ => true
  | .ctrb _ _ _ _ => true
  | .ctres d _ _ _ _ => okD d
  | .ctabtInsn _ _ _ => true
  | .spawn _ _ _ _ _ => true
  | .migr _ _ _ _ => true
  | .migrSend => false
  | .exit _ _ => true
  | .yield _ _ => true
  | .ckpt _ _ _ => true
  | .vmov _ _ _ => true
  | .vadd _ _ _ _ y => okTy y [0, 1, 2, 3, 4, 5, 6]
  | .vsub _ _ _ _ y => okTy y [0, 1, 2, 3, 4, 5, 6]
  | .vmul _ _ _ _ y => okTy y [0, 1, 2, 3, 4, 5, 6]
  | .vfma _ _ _ _ y => okTy y [2, 3, 4]
  | .vfms _ _ _ _ y => okTy y [2, 3, 4]
  | .vmax _ _ _ _ y => okTy y [0, 1, 2, 3, 4, 5, 6]
  | .vmin _ _ _ _ y => okTy y [0, 1, 2, 3, 4, 5, 6]
  | .vabs _ _ _ y => okTy y [0, 2, 3, 4, 5, 6]
  | .vneg _ _ _ y => okTy y [0, 2, 3, 4, 5, 6]
  | .vand _ _ _ _ => true
  | .vor _ _ _ _ => true
  | .vxor _ _ _ _ => true
  | .vandn _ _ _ _ => true
  | .vshl _ _ _ _ y => okTy y [0, 1, 5, 6]
  | .vshr _ _ _ _ y => okTy y [0, 1, 5, 6]
  | .vsra _ _ _ _ y => okTy y [0, 5, 6]
  | .vmulh _ _ _ _ y => okTy y [0, 1, 5, 6]
  | .vclz _ _ _ y => okTy y [0, 1]
  | .vpopc _ _ _ y => okTy y [0, 1]
  | .vcvt _ s _ _ y => okTy y [0, 1, 2, 3, 4, 5, 6] && okTy s [0, 1, 2, 3, 4, 5, 6] && decide (s ≠ y)
  | .vrcp _ _ _ => true
  | .vrsq _ _ _ => true
  | .vperm _ _ _ _ => true
  | .vsel _ _ _ _ => true
  | .vcmp _ m _ _ _ y o => decide (m ≠ 0) && okTy y (if o.toNat < 6 then [0, 1, 2] else [2])
  | .vmovShort k s d => decide (k ≠ 0 ∨ s ≠ 0 ∨ d ≠ 0)
  | .vaddF32Short _ _ _ => true
  | .vsubF32Short _ _ _ => true
  | .vmulF32Short _ _ _ => true
  | .vmaxF32Short _ _ _ => true
  | .vminF32Short _ _ _ => true
  | .vaddI32Short _ _ _ => true
  | .vsubI32Short _ _ _ => true
  | .vandShort _ _ _ => true
  | .vorShort _ _ _ => true
  | .vxorShort _ _ _ => true
  | .vaddB2Short _ _ _ => true
  | .vmulB2Short _ _ _ => true
  | .vshlI32Short _ _ _ => true
  | .vshrN32Short _ _ _ => true
  | .vselShort _ _ _ => true
  | .vbcast _ _ _ => true
  | .vext d _ _ => okD d
  | .vins _ _ _ => true
  | .vredadd d _ y _ => okD d && decide (y.toNat < 2)
  | .vredmax d _ y _ => okD d && decide (y.toNat < 3)
  | .vredmin d _ y _ => okD d && decide (y.toNat < 3)
  | .viota _ _ _ => true
  | .vredfadd d _ _ => okD d
  | .vtblw _ _ _ => true
  | .vtlerp _ _ _ _ => true
  | .vtlcfg _ _ _ => true
  | .kand d _ _ => decide (d ≠ 0)
  | .kor d _ _ => decide (d ≠ 0)
  | .kxor d _ _ => decide (d ≠ 0)
  | .knot d _ => decide (d ≠ 0)
  | .kset d _ => decide (d ≠ 0)
  | .kget d _ => okD d
  | .kpop d _ => okD d
  | .kfirst d _ => okD d
  | .kany _ _ => true
  | .klen d _ => decide (d ≠ 0)
  | .vld _ _ _ _ _ _ => true
  | .vst _ _ _ _ _ _ => true
  | .vldd _ _ _ _ _ _ => true
  | .vldx _ _ _ _ _ _ c => decide (c ≠ 7)
  | .vstx _ _ _ _ _ _ c => decide (c ≠ 7)
  | .mopen d _ _ _ => okD d
  | .mma d _ _ _ => okD d
  | .mmas d _ _ _ => okD d
  | .mmaw d _ _ _ => okD d
  | .mrot d _ _ _ => okD d
  | .mcont d _ _ _ => okD d
  | .mfwd d _ _ _ => okD d
  | .mread d _ _ _ => okD d
  | .mqry d _ _ _ => okD d
  | .mabn d _ _ _ => okD d
  | .mclose d _ _ _ => okD d
  | .mflg d _ _ _ => okD d
  | .cpy d _ _ _ => okD d
  | .cpy2 d _ _ _ => okD d
  | .cpyf d _ _ _ => okD d
  | .cpyk d _ _ _ => okD d
  | .mfs d _ => okD d
  | .mts _ _ => true
  | .scopeSet => false
  | .trap _ => true
  | .halt => true
  | .nop => true
  | .bkpt _ => true
  | .svcRsm _ _ => true
  | .svcKill _ _ => true
  | .svcTlbinv _ _ => true
  | .svcGangctl _ _ => true
  | .svcPrmpt _ _ => true
  | .svcMsgrd => true
  | .callInsn _ => true
  | .illegalInstruction _ => false
  | .tileCommandArrival => false
  | .thermalAlertClear => false

end Sys2Proof
end

