-- ==== Sys2Proof/Decode.lean ====
section
/-!
DEFINITION. Decode.lean: reading an instruction from its bytes (R232, R233), total, rejecting by name; then the
encoder, from the same encodings (R237 to R252).
-/
namespace Sys2Proof

/-- Why bytes are no instruction (R233, R256): the halfword 0x0000, a reserved major, a function not listed for its
major, a nonzero must-be-zero bit, or too few bytes. -/
inductive Reject where
  | zeroHalfword | reservedMajor | unlistedFunction | mustBeZero | truncated
deriving DecidableEq, Repr

/-- A row of the opcode map: the bits it fixes, their values, the bits that select its function, and its fields. -/
structure Row where
  mask : BitVec 32
  pat : BitVec 32
  fnMask : BitVec 32
  make : BitVec 32 → Instr

/-- A row of the 16-bit forms (R252). -/
structure ShortRow where
  mask : BitVec 16
  pat : BitVec 16
  make : BitVec 16 → Instr

/-- Rows 0 to 39 of the 32-bit opcode map (R241 to R251). -/
def rows0 : List Row := [
  ⟨0x0001FFFF, 0x00000001, 0x0001FFFF, fun w => .add (bits w 27 5) (bits w 22 5) (bits w 17 5)⟩,
  ⟨0x0001FFFF, 0x00000081, 0x0001FFFF, fun w => .sub (bits w 27 5) (bits w 22 5) (bits w 17 5)⟩,
  ⟨0x0001FFFF, 0x00000101, 0x0001FFFF, fun w => .mul (bits w 27 5) (bits w 22 5) (bits w 17 5)⟩,
  ⟨0x0001FFFF, 0x00000181, 0x0001FFFF, fun w => .mulh (bits w 27 5) (bits w 22 5) (bits w 17 5)⟩,
  ⟨0x0001FFFF, 0x00000201, 0x0001FFFF, fun w => .mulhn (bits w 27 5) (bits w 22 5) (bits w 17 5)⟩,
  ⟨0x0001FFFF, 0x00000281, 0x0001FFFF, fun w => .div (bits w 27 5) (bits w 22 5) (bits w 17 5)⟩,
  ⟨0x0001FFFF, 0x00000301, 0x0001FFFF, fun w => .divn (bits w 27 5) (bits w 22 5) (bits w 17 5)⟩,
  ⟨0x0001FFFF, 0x00000381, 0x0001FFFF, fun w => .rem (bits w 27 5) (bits w 22 5) (bits w 17 5)⟩,
  ⟨0x0001FFFF, 0x00000401, 0x0001FFFF, fun w => .remn (bits w 27 5) (bits w 22 5) (bits w 17 5)⟩,
  ⟨0x0001FFFF, 0x00000481, 0x0001FFFF, fun w => .and (bits w 27 5) (bits w 22 5) (bits w 17 5)⟩,
  ⟨0x0001FFFF, 0x00000501, 0x0001FFFF, fun w => .or (bits w 27 5) (bits w 22 5) (bits w 17 5)⟩,
  ⟨0x0001FFFF, 0x00000581, 0x0001FFFF, fun w => .xor (bits w 27 5) (bits w 22 5) (bits w 17 5)⟩,
  ⟨0x0001FFFF, 0x00000601, 0x0001FFFF, fun w => .andn (bits w 27 5) (bits w 22 5) (bits w 17 5)⟩,
  ⟨0x0001FFFF, 0x00000681, 0x0001FFFF, fun w => .shl (bits w 27 5) (bits w 22 5) (bits w 17 5)⟩,
  ⟨0x0001FFFF, 0x00000701, 0x0001FFFF, fun w => .shr (bits w 27 5) (bits w 22 5) (bits w 17 5)⟩,
  ⟨0x0001FFFF, 0x00000781, 0x0001FFFF, fun w => .sra (bits w 27 5) (bits w 22 5) (bits w 17 5)⟩,
  ⟨0x0001FFFF, 0x00000801, 0x0001FFFF, fun w => .rol (bits w 27 5) (bits w 22 5) (bits w 17 5)⟩,
  ⟨0x0001FFFF, 0x00000881, 0x0001FFFF, fun w => .min (bits w 27 5) (bits w 22 5) (bits w 17 5)⟩,
  ⟨0x0001FFFF, 0x00000901, 0x0001FFFF, fun w => .max (bits w 27 5) (bits w 22 5) (bits w 17 5)⟩,
  ⟨0x0001FFFF, 0x00000981, 0x0001FFFF, fun w => .minn (bits w 27 5) (bits w 22 5) (bits w 17 5)⟩,
  ⟨0x0001FFFF, 0x00000A01, 0x0001FFFF, fun w => .maxn (bits w 27 5) (bits w 22 5) (bits w 17 5)⟩,
  ⟨0x003FFFFF, 0x00000A81, 0x0001FFFF, fun w => .clz (bits w 27 5) (bits w 22 5)⟩,
  ⟨0x003FFFFF, 0x00000B01, 0x0001FFFF, fun w => .popc (bits w 27 5) (bits w 22 5)⟩,
  ⟨0x0039FFFF, 0x00000B81, 0x0001FFFF, fun w => .sext (bits w 27 5) (bits w 22 5) (bits w 17 2)⟩,
  ⟨0x0039FFFF, 0x00000C01, 0x0001FFFF, fun w => .zext (bits w 27 5) (bits w 22 5) (bits w 17 2)⟩,
  ⟨0x0001FC7F, 0x00001001, 0x0001FC7F, fun w => .sel (bits w 27 5) (bits w 22 5) (bits w 17 5) (bits w 7 3)⟩,
  ⟨0x0001FC7F, 0x00001401, 0x0001FC7F, fun w => .cmp (bits w 30 2) (bits w 27 3) (bits w 22 5) (bits w 17 5) (bits w 7 3)⟩,
  ⟨0x0000007F, 0x00000003, 0x0000007F, fun w => .addi (bits w 27 5) (bits w 22 5) (bits w 7 15)⟩,
  ⟨0x0000007F, 0x00000005, 0x0000007F, fun w => .andi (bits w 27 5) (bits w 22 5) (bits w 7 15)⟩,
  ⟨0x0000007F, 0x00000007, 0x0000007F, fun w => .ori (bits w 27 5) (bits w 22 5) (bits w 7 15)⟩,
  ⟨0x0000007F, 0x00000009, 0x0000007F, fun w => .xori (bits w 27 5) (bits w 22 5) (bits w 7 15)⟩,
  ⟨0x003FE07F, 0x0000000B, 0x0030007F, fun w => .shli (bits w 27 5) (bits w 22 5) (bits w 7 6)⟩,
  ⟨0x003FE07F, 0x0010000B, 0x0030007F, fun w => .shri (bits w 27 5) (bits w 22 5) (bits w 7 6)⟩,
  ⟨0x003FE07F, 0x0020000B, 0x0030007F, fun w => .srai (bits w 27 5) (bits w 22 5) (bits w 7 6)⟩,
  ⟨0x003FE07F, 0x0030000B, 0x0030007F, fun w => .roli (bits w 27 5) (bits w 22 5) (bits w 7 6)⟩,
  ⟨0x0000007F, 0x00000013, 0x0000007F, fun w => .cmpi (bits w 30 2) (bits w 27 3) (bits w 22 5) (bits w 19 3) (bits w 7 12)⟩,
  ⟨0x0000007F, 0x0000000D, 0x0000007F, fun w => .li (bits w 27 5) (bits w 7 20)⟩,
  ⟨0x0000007F, 0x0000000F, 0x0000007F, fun w => .lui (bits w 27 5) (bits w 7 20)⟩,
  ⟨0x0000007F, 0x00000011, 0x0000007F, fun w => .ltop (bits w 27 5) (bits w 7 20)⟩,
  ⟨0x00007FFF, 0x00000015, 0x00007FFF, fun w => .fadd (bits w 27 5) (bits w 22 5) (bits w 17 5) (bits w 15 2)⟩]

/-- Rows 40 to 79 of the 32-bit opcode map (R241 to R251). -/
def rows1 : List Row := [
  ⟨0x00007FFF, 0x00000095, 0x00007FFF, fun w => .fsub (bits w 27 5) (bits w 22 5) (bits w 17 5) (bits w 15 2)⟩,
  ⟨0x00007FFF, 0x00000115, 0x00007FFF, fun w => .fmul (bits w 27 5) (bits w 22 5) (bits w 17 5) (bits w 15 2)⟩,
  ⟨0x00007FFF, 0x00000195, 0x00007FFF, fun w => .ffma (bits w 27 5) (bits w 22 5) (bits w 17 5) (bits w 15 2)⟩,
  ⟨0x00007FFF, 0x00000215, 0x00007FFF, fun w => .fdiv (bits w 27 5) (bits w 22 5) (bits w 17 5) (bits w 15 2)⟩,
  ⟨0x003E7FFF, 0x00000295, 0x00007FFF, fun w => .fsqrt (bits w 27 5) (bits w 22 5) (bits w 15 2)⟩,
  ⟨0x00007FFF, 0x00000315, 0x00007FFF, fun w => .fmin (bits w 27 5) (bits w 22 5) (bits w 17 5) (bits w 15 2)⟩,
  ⟨0x00007FFF, 0x00000395, 0x00007FFF, fun w => .fmax (bits w 27 5) (bits w 22 5) (bits w 17 5) (bits w 15 2)⟩,
  ⟨0x003E7FFF, 0x00000415, 0x00007FFF, fun w => .fabs (bits w 27 5) (bits w 22 5) (bits w 15 2)⟩,
  ⟨0x003E7FFF, 0x00000495, 0x00007FFF, fun w => .fneg (bits w 27 5) (bits w 22 5) (bits w 15 2)⟩,
  ⟨0x003E7FFF, 0x00000515, 0x00007FFF, fun w => .fclass (bits w 27 5) (bits w 22 5) (bits w 15 2)⟩,
  ⟨0x003E7FFF, 0x00000595, 0x00007FFF, fun w => .frnd (bits w 27 5) (bits w 22 5) (bits w 15 2)⟩,
  ⟨0x00307FFF, 0x00000615, 0x00007FFF, fun w => .fcvt (bits w 27 5) (bits w 22 5) (bits w 17 3) (bits w 15 2)⟩,
  ⟨0x003C7FFF, 0x00000695, 0x00007FFF, fun w => .ftoi (bits w 27 5) (bits w 22 5) (bits w 17 1) (bits w 15 2)⟩,
  ⟨0x00007C7F, 0x00000815, 0x00007C7F, fun w => .fcmp (bits w 30 2) (bits w 27 3) (bits w 22 5) (bits w 17 5) (bits w 15 2) (bits w 7 3)⟩,
  ⟨0x1000007F, 0x10000017, 0x1000007F, fun w => .bt (bits w 29 3) (bits w 7 21)⟩,
  ⟨0x1000007F, 0x00000017, 0x1000007F, fun w => .bf (bits w 29 3) (bits w 7 21)⟩,
  ⟨0x0000007F, 0x00000019, 0x0000007F, fun w => .br (bits w 7 25)⟩,
  ⟨0xF83FFFFF, 0x0000001D, 0x0001FFFF, fun w => .callr (bits w 22 5)⟩,
  ⟨0xF83FFFFF, 0x0000009D, 0x0001FFFF, fun w => .jmpr (bits w 22 5)⟩,
  ⟨0xFFFFFFFF, 0x0000011D, 0x0001FFFF, fun _ => .ret⟩,
  ⟨0xF800007F, 0x0000001F, 0x0000007F, fun w => .loop (bits w 22 5) (bits w 7 15)⟩,
  ⟨0xF800007F, 0x00000021, 0x0000007F, fun w => .loopi (bits w 17 10) (bits w 7 10)⟩,
  ⟨0x0000007F, 0x00000023, 0x0000007F, fun w => .ldb (bits w 27 5) (bits w 22 5) (bits w 20 2) (bits w 16 4) (bits w 7 9)⟩,
  ⟨0x0000007F, 0x00000025, 0x0000007F, fun w => .ldbs (bits w 27 5) (bits w 22 5) (bits w 20 2) (bits w 16 4) (bits w 7 9)⟩,
  ⟨0x0000007F, 0x00000027, 0x0000007F, fun w => .ldh (bits w 27 5) (bits w 22 5) (bits w 20 2) (bits w 16 4) (bits w 7 9)⟩,
  ⟨0x0000007F, 0x00000029, 0x0000007F, fun w => .ldhs (bits w 27 5) (bits w 22 5) (bits w 20 2) (bits w 16 4) (bits w 7 9)⟩,
  ⟨0x0000007F, 0x0000002B, 0x0000007F, fun w => .ldw (bits w 27 5) (bits w 22 5) (bits w 20 2) (bits w 16 4) (bits w 7 9)⟩,
  ⟨0x0000007F, 0x0000002D, 0x0000007F, fun w => .ldws (bits w 27 5) (bits w 22 5) (bits w 20 2) (bits w 16 4) (bits w 7 9)⟩,
  ⟨0x0000007F, 0x0000002F, 0x0000007F, fun w => .ldd (bits w 27 5) (bits w 22 5) (bits w 20 2) (bits w 16 4) (bits w 7 9)⟩,
  ⟨0x0000007F, 0x00000031, 0x0000007F, fun w => .stb (bits w 27 5) (bits w 22 5) (bits w 20 2) (bits w 16 4) (bits w 7 9)⟩,
  ⟨0x0000007F, 0x00000033, 0x0000007F, fun w => .sth (bits w 27 5) (bits w 22 5) (bits w 20 2) (bits w 16 4) (bits w 7 9)⟩,
  ⟨0x0000007F, 0x00000035, 0x0000007F, fun w => .stw (bits w 27 5) (bits w 22 5) (bits w 20 2) (bits w 16 4) (bits w 7 9)⟩,
  ⟨0x0000007F, 0x00000037, 0x0000007F, fun w => .std (bits w 27 5) (bits w 22 5) (bits w 20 2) (bits w 16 4) (bits w 7 9)⟩,
  ⟨0x0000FFFF, 0x00000039, 0x000007FF, fun w => .ldff (bits w 27 5) (bits w 22 5) (bits w 20 2) (bits w 16 4)⟩,
  ⟨0x0000FFFF, 0x000000B9, 0x000007FF, fun w => .ldfe (bits w 27 5) (bits w 22 5) (bits w 20 2) (bits w 16 4)⟩,
  ⟨0x0000FFFF, 0x00000139, 0x000007FF, fun w => .stef (bits w 27 5) (bits w 22 5) (bits w 20 2) (bits w 16 4)⟩,
  ⟨0x0000FFFF, 0x000001B9, 0x000007FF, fun w => .stff (bits w 27 5) (bits w 22 5) (bits w 20 2) (bits w 16 4)⟩,
  ⟨0x0000C7FF, 0x00000239, 0x000007FF, fun w => .ldxx (bits w 27 5) (bits w 22 5) (bits w 20 2) (bits w 16 4) (bits w 11 3)⟩,
  ⟨0xF800FFFF, 0x000002B9, 0x000007FF, fun w => .sete (bits w 22 5) (bits w 20 2) (bits w 16 4)⟩,
  ⟨0x000007FF, 0x0000003B, 0x000007FF, fun w => .aadd (bits w 27 5) (bits w 22 5) (bits w 20 2) (bits w 16 4) (bits w 11 5)⟩]

/-- Rows 80 to 119 of the 32-bit opcode map (R241 to R251). -/
def rows2 : List Row := [
  ⟨0x000007FF, 0x000000BB, 0x000007FF, fun w => .aand (bits w 27 5) (bits w 22 5) (bits w 20 2) (bits w 16 4) (bits w 11 5)⟩,
  ⟨0x000007FF, 0x0000013B, 0x000007FF, fun w => .aor (bits w 27 5) (bits w 22 5) (bits w 20 2) (bits w 16 4) (bits w 11 5)⟩,
  ⟨0x000007FF, 0x000001BB, 0x000007FF, fun w => .axor (bits w 27 5) (bits w 22 5) (bits w 20 2) (bits w 16 4) (bits w 11 5)⟩,
  ⟨0x000007FF, 0x0000023B, 0x000007FF, fun w => .amin (bits w 27 5) (bits w 22 5) (bits w 20 2) (bits w 16 4) (bits w 11 5)⟩,
  ⟨0x000007FF, 0x000002BB, 0x000007FF, fun w => .amax (bits w 27 5) (bits w 22 5) (bits w 20 2) (bits w 16 4) (bits w 11 5)⟩,
  ⟨0x000007FF, 0x0000033B, 0x000007FF, fun w => .aminn (bits w 27 5) (bits w 22 5) (bits w 20 2) (bits w 16 4) (bits w 11 5)⟩,
  ⟨0x000007FF, 0x000003BB, 0x000007FF, fun w => .amaxn (bits w 27 5) (bits w 22 5) (bits w 20 2) (bits w 16 4) (bits w 11 5)⟩,
  ⟨0x000007FF, 0x0000043B, 0x000007FF, fun w => .aswap (bits w 27 5) (bits w 22 5) (bits w 20 2) (bits w 16 4) (bits w 11 5)⟩,
  ⟨0x000007FF, 0x000004BB, 0x000007FF, fun w => .cas (bits w 27 5) (bits w 22 5) (bits w 20 2) (bits w 16 4) (bits w 11 5)⟩,
  ⟨0x000007FF, 0x0000053B, 0x000007FF, fun w => .afadd (bits w 27 5) (bits w 22 5) (bits w 20 2) (bits w 16 4) (bits w 11 5)⟩,
  ⟨0xF80007FF, 0x0000003D, 0x000007FF, fun w => .cflush (bits w 22 5) (bits w 20 2) (bits w 16 4) (bits w 11 5)⟩,
  ⟨0xF80007FF, 0x000000BD, 0x000007FF, fun w => .cinv (bits w 22 5) (bits w 20 2) (bits w 16 4) (bits w 11 5)⟩,
  ⟨0xC000FFFF, 0x0000013D, 0x000007FF, fun w => .smap (bits w 27 3) (bits w 22 5) (bits w 20 2) (bits w 16 4)⟩,
  ⟨0xC7C0FFFF, 0x000001BD, 0x000007FF, fun w => .sunmap (bits w 27 3) (bits w 20 2) (bits w 16 4)⟩,
  ⟨0xC7C0FFFF, 0x0000023D, 0x000007FF, fun w => .swb (bits w 27 3) (bits w 20 2) (bits w 16 4)⟩,
  ⟨0xF800FFFF, 0x000002BD, 0x000007FF, fun w => .pref (bits w 22 5) (bits w 20 2) (bits w 16 4)⟩,
  ⟨0x0000FFFF, 0x0000033D, 0x000007FF, fun w => .fmtw (bits w 27 5) (bits w 22 5) (bits w 20 2) (bits w 16 4)⟩,
  ⟨0xC000FFFF, 0x000003BD, 0x000007FF, fun w => .sfmt (bits w 27 3) (bits w 22 5) (bits w 20 2) (bits w 16 4)⟩,
  ⟨0xC00007FF, 0x0000003F, 0x000007FF, fun w => .mbxw (bits w 27 3) (bits w 22 5) (bits w 17 5) (bits w 13 4) (bits w 11 2)⟩,
  ⟨0xC7FE07FF, 0x000000BF, 0x000007FF, fun w => .mbxwi (bits w 27 3) (bits w 13 4) (bits w 11 2)⟩,
  ⟨0x07F007FF, 0x0000013F, 0x000007FF, fun w => .mbxr (bits w 27 5) (bits w 17 3) (bits w 13 4) (bits w 11 2)⟩,
  ⟨0x063007FF, 0x000001BF, 0x000007FF, fun w => .mbxt (bits w 27 5) (bits w 22 3) (bits w 17 3) (bits w 13 4) (bits w 11 2)⟩,
  ⟨0x07F007FF, 0x0000023F, 0x000007FF, fun w => .semp (bits w 27 5) (bits w 17 3) (bits w 13 4) (bits w 11 2)⟩,
  ⟨0xFFF007FF, 0x000002BF, 0x000007FF, fun w => .semv (bits w 17 3) (bits w 13 4) (bits w 11 2)⟩,
  ⟨0xC00007FF, 0x0000033F, 0x000007FF, fun w => .qpush (bits w 27 3) (bits w 22 5) (bits w 17 5) (bits w 13 4) (bits w 11 2)⟩,
  ⟨0x063E07FF, 0x000003BF, 0x000007FF, fun w => .qpop (bits w 27 5) (bits w 22 3) (bits w 13 4) (bits w 11 2)⟩,
  ⟨0xFFFE07FF, 0x0000043F, 0x000007FF, fun w => .wfe (bits w 13 4) (bits w 11 2)⟩,
  ⟨0xC03E07FF, 0x000004BF, 0x000007FF, fun w => .sev (bits w 27 3) (bits w 22 5) (bits w 13 4) (bits w 11 2)⟩,
  ⟨0xC02007FF, 0x00000041, 0x000007FF, fun w => .bara (bits w 27 3) (bits w 22 5) (bits w 17 4) (bits w 13 4) (bits w 11 2)⟩,
  ⟨0xC02007FF, 0x000000C1, 0x000007FF, fun w => .barw (bits w 27 3) (bits w 22 5) (bits w 17 4) (bits w 13 4) (bits w 11 2)⟩,
  ⟨0xF83807FF, 0x00000141, 0x000007FF, fun w => .barq (bits w 22 5) (bits w 17 2) (bits w 13 4) (bits w 11 2)⟩,
  ⟨0x002007FF, 0x00000059, 0x000007FF, fun w => .tkgetInsn (bits w 27 5) (bits w 22 5) (bits w 17 4) (bits w 13 4) (bits w 11 2)⟩,
  ⟨0xF83E07FF, 0x000000D9, 0x000007FF, fun w => .tkwait (bits w 22 5) (bits w 13 4) (bits w 11 2)⟩,
  ⟨0xF82007FF, 0x00000159, 0x000007FF, fun w => .tkdoneInsn (bits w 22 5) (bits w 17 4) (bits w 13 4) (bits w 11 2)⟩,
  ⟨0xF80007FF, 0x000001D9, 0x000007FF, fun w => .ctrb (bits w 22 5) (bits w 17 5) (bits w 13 4) (bits w 11 2)⟩,
  ⟨0x003007FF, 0x00000259, 0x000007FF, fun w => .ctres (bits w 27 5) (bits w 22 5) (bits w 17 3) (bits w 13 4) (bits w 11 2)⟩,
  ⟨0xF83E07FF, 0x000002D9, 0x000007FF, fun w => .ctabtInsn (bits w 22 5) (bits w 13 4) (bits w 11 2)⟩,
  ⟨0xC00007FF, 0x0000005B, 0x000007FF, fun w => .spawn (bits w 27 3) (bits w 22 5) (bits w 17 5) (bits w 13 4) (bits w 11 2)⟩,
  ⟨0xC03E07FF, 0x000000DB, 0x000007FF, fun w => .migr (bits w 27 3) (bits w 22 5) (bits w 13 4) (bits w 11 2)⟩,
  ⟨0xFFFE07FF, 0x0000015B, 0x000007FF, fun w => .exit (bits w 13 4) (bits w 11 2)⟩]

/-- Rows 120 to 159 of the 32-bit opcode map (R241 to R251). -/
def rows3 : List Row := [
  ⟨0xFFFE07FF, 0x000001DB, 0x000007FF, fun w => .yield (bits w 13 4) (bits w 11 2)⟩,
  ⟨0xF83E07FF, 0x0000025B, 0x000007FF, fun w => .ckpt (bits w 22 5) (bits w 13 4) (bits w 11 2)⟩,
  ⟨0x00F1FFFF, 0x00000043, 0x00003FFF, fun w => .vmov (bits w 28 4) (bits w 24 4) (bits w 17 3)⟩,
  ⟨0x00003FFF, 0x000000C3, 0x00003FFF, fun w => .vadd (bits w 28 4) (bits w 24 4) (bits w 20 4) (bits w 17 3) (bits w 14 3)⟩,
  ⟨0x00003FFF, 0x00000143, 0x00003FFF, fun w => .vsub (bits w 28 4) (bits w 24 4) (bits w 20 4) (bits w 17 3) (bits w 14 3)⟩,
  ⟨0x00003FFF, 0x000001C3, 0x00003FFF, fun w => .vmul (bits w 28 4) (bits w 24 4) (bits w 20 4) (bits w 17 3) (bits w 14 3)⟩,
  ⟨0x00003FFF, 0x00000243, 0x00003FFF, fun w => .vfma (bits w 28 4) (bits w 24 4) (bits w 20 4) (bits w 17 3) (bits w 14 3)⟩,
  ⟨0x00003FFF, 0x000002C3, 0x00003FFF, fun w => .vfms (bits w 28 4) (bits w 24 4) (bits w 20 4) (bits w 17 3) (bits w 14 3)⟩,
  ⟨0x00003FFF, 0x00000343, 0x00003FFF, fun w => .vmax (bits w 28 4) (bits w 24 4) (bits w 20 4) (bits w 17 3) (bits w 14 3)⟩,
  ⟨0x00003FFF, 0x000003C3, 0x00003FFF, fun w => .vmin (bits w 28 4) (bits w 24 4) (bits w 20 4) (bits w 17 3) (bits w 14 3)⟩,
  ⟨0x00F03FFF, 0x00000443, 0x00003FFF, fun w => .vabs (bits w 28 4) (bits w 24 4) (bits w 17 3) (bits w 14 3)⟩,
  ⟨0x00F03FFF, 0x000004C3, 0x00003FFF, fun w => .vneg (bits w 28 4) (bits w 24 4) (bits w 17 3) (bits w 14 3)⟩,
  ⟨0x0001FFFF, 0x00000543, 0x00003FFF, fun w => .vand (bits w 28 4) (bits w 24 4) (bits w 20 4) (bits w 17 3)⟩,
  ⟨0x0001FFFF, 0x000005C3, 0x00003FFF, fun w => .vor (bits w 28 4) (bits w 24 4) (bits w 20 4) (bits w 17 3)⟩,
  ⟨0x0001FFFF, 0x00000643, 0x00003FFF, fun w => .vxor (bits w 28 4) (bits w 24 4) (bits w 20 4) (bits w 17 3)⟩,
  ⟨0x0001FFFF, 0x000006C3, 0x00003FFF, fun w => .vandn (bits w 28 4) (bits w 24 4) (bits w 20 4) (bits w 17 3)⟩,
  ⟨0x00003FFF, 0x00000743, 0x00003FFF, fun w => .vshl (bits w 28 4) (bits w 24 4) (bits w 20 4) (bits w 17 3) (bits w 14 3)⟩,
  ⟨0x00003FFF, 0x000007C3, 0x00003FFF, fun w => .vshr (bits w 28 4) (bits w 24 4) (bits w 20 4) (bits w 17 3) (bits w 14 3)⟩,
  ⟨0x00003FFF, 0x00000843, 0x00003FFF, fun w => .vsra (bits w 28 4) (bits w 24 4) (bits w 20 4) (bits w 17 3) (bits w 14 3)⟩,
  ⟨0x00003FFF, 0x000008C3, 0x00003FFF, fun w => .vmulh (bits w 28 4) (bits w 24 4) (bits w 20 4) (bits w 17 3) (bits w 14 3)⟩,
  ⟨0x00F03FFF, 0x00000943, 0x00003FFF, fun w => .vclz (bits w 28 4) (bits w 24 4) (bits w 17 3) (bits w 14 3)⟩,
  ⟨0x00F03FFF, 0x000009C3, 0x00003FFF, fun w => .vpopc (bits w 28 4) (bits w 24 4) (bits w 17 3) (bits w 14 3)⟩,
  ⟨0x08003FFF, 0x00000A43, 0x00003FFF, fun w => .vcvt (bits w 28 4) (bits w 24 3) (bits w 20 4) (bits w 17 3) (bits w 14 3)⟩,
  ⟨0x00F1FFFF, 0x00008AC3, 0x00003FFF, fun w => .vrcp (bits w 28 4) (bits w 24 4) (bits w 17 3)⟩,
  ⟨0x00F1FFFF, 0x00008B43, 0x00003FFF, fun w => .vrsq (bits w 28 4) (bits w 24 4) (bits w 17 3)⟩,
  ⟨0x0001FFFF, 0x00000BC3, 0x00003FFF, fun w => .vperm (bits w 28 4) (bits w 24 4) (bits w 20 4) (bits w 17 3)⟩,
  ⟨0x0001FFFF, 0x00000C43, 0x00003FFF, fun w => .vsel (bits w 28 4) (bits w 24 4) (bits w 20 4) (bits w 17 3)⟩,
  ⟨0x00003C7F, 0x00001043, 0x00003C7F, fun w => .vcmp (bits w 31 1) (bits w 28 3) (bits w 24 4) (bits w 20 4) (bits w 17 3) (bits w 14 3) (bits w 7 3)⟩,
  ⟨0x8031FFFF, 0x00000045, 0x0001FFFF, fun w => .vbcast (bits w 27 4) (bits w 22 5) (bits w 17 3)⟩,
  ⟨0x0401FFFF, 0x000000C5, 0x0001FFFF, fun w => .vext (bits w 27 5) (bits w 22 4) (bits w 17 5)⟩,
  ⟨0x8001FFFF, 0x00000145, 0x0001FFFF, fun w => .vins (bits w 27 4) (bits w 22 5) (bits w 17 5)⟩,
  ⟨0x0401FFFF, 0x000001C5, 0x0001FFFF, fun w => .vredadd (bits w 27 5) (bits w 22 4) (bits w 20 2) (bits w 17 3)⟩,
  ⟨0x0401FFFF, 0x00000245, 0x0001FFFF, fun w => .vredmax (bits w 27 5) (bits w 22 4) (bits w 20 2) (bits w 17 3)⟩,
  ⟨0x0401FFFF, 0x000002C5, 0x0001FFFF, fun w => .vredmin (bits w 27 5) (bits w 22 4) (bits w 20 2) (bits w 17 3)⟩,
  ⟨0x8031FFFF, 0x00000345, 0x0001FFFF, fun w => .viota (bits w 27 4) (bits w 22 5) (bits w 17 3)⟩,
  ⟨0x0431FFFF, 0x000003C5, 0x0001FFFF, fun w => .vredfadd (bits w 27 5) (bits w 22 4) (bits w 17 3)⟩,
  ⟨0xE021FFFF, 0x00000051, 0x0001FFFF, fun w => .vtblw (bits w 27 2) (bits w 22 5) (bits w 17 4)⟩,
  ⟨0x8401FFFF, 0x000000D1, 0x0001FFFF, fun w => .vtlerp (bits w 27 4) (bits w 22 4) (bits w 20 2) (bits w 17 3)⟩,
  ⟨0xE001FFFF, 0x00000151, 0x0001FFFF, fun w => .vtlcfg (bits w 27 2) (bits w 22 5) (bits w 17 5)⟩,
  ⟨0xC631FFFF, 0x00000053, 0x0001FFFF, fun w => .kand (bits w 27 3) (bits w 22 3) (bits w 17 3)⟩]

/-- Rows 160 to 199 of the 32-bit opcode map (R241 to R251). -/
def rows4 : List Row := [
  ⟨0xC631FFFF, 0x000000D3, 0x0001FFFF, fun w => .kor (bits w 27 3) (bits w 22 3) (bits w 17 3)⟩,
  ⟨0xC631FFFF, 0x00000153, 0x0001FFFF, fun w => .kxor (bits w 27 3) (bits w 22 3) (bits w 17 3)⟩,
  ⟨0xC63FFFFF, 0x000001D3, 0x0001FFFF, fun w => .knot (bits w 27 3) (bits w 22 3)⟩,
  ⟨0xC03FFFFF, 0x00000253, 0x0001FFFF, fun w => .kset (bits w 27 3) (bits w 22 5)⟩,
  ⟨0x063FFFFF, 0x000002D3, 0x0001FFFF, fun w => .kget (bits w 27 5) (bits w 22 3)⟩,
  ⟨0x063FFFFF, 0x00000353, 0x0001FFFF, fun w => .kpop (bits w 27 5) (bits w 22 3)⟩,
  ⟨0x063FFFFF, 0x000003D3, 0x0001FFFF, fun w => .kfirst (bits w 27 5) (bits w 22 3)⟩,
  ⟨0xC63FFFFF, 0x00000453, 0x0001FFFF, fun w => .kany (bits w 27 3) (bits w 22 3)⟩,
  ⟨0xC03FFFFF, 0x000004D3, 0x0001FFFF, fun w => .klen (bits w 27 3) (bits w 22 5)⟩,
  ⟨0x0000007F, 0x00000047, 0x0000007F, fun w => .vld (bits w 28 4) (bits w 23 5) (bits w 21 2) (bits w 17 4) (bits w 14 3) (bits w 7 7)⟩,
  ⟨0x0000007F, 0x00000049, 0x0000007F, fun w => .vst (bits w 28 4) (bits w 23 5) (bits w 21 2) (bits w 17 4) (bits w 14 3) (bits w 7 7)⟩,
  ⟨0x0000007F, 0x0000004B, 0x0000007F, fun w => .vldd (bits w 28 4) (bits w 23 5) (bits w 21 2) (bits w 17 4) (bits w 14 3) (bits w 7 7)⟩,
  ⟨0x0000007F, 0x0000004D, 0x0000007F, fun w => .vldx (bits w 28 4) (bits w 24 4) (bits w 19 5) (bits w 17 2) (bits w 13 4) (bits w 10 3) (bits w 7 3)⟩,
  ⟨0x0000007F, 0x0000004F, 0x0000007F, fun w => .vstx (bits w 28 4) (bits w 24 4) (bits w 19 5) (bits w 17 2) (bits w 13 4) (bits w 10 3) (bits w 7 3)⟩,
  ⟨0x0001FFFF, 0x00000055, 0x0001FFFF, fun w => .mopen (bits w 27 5) (bits w 23 4) (bits w 21 2) (bits w 17 4)⟩,
  ⟨0x0001FFFF, 0x000000D5, 0x0001FFFF, fun w => .mma (bits w 27 5) (bits w 23 4) (bits w 21 2) (bits w 17 4)⟩,
  ⟨0x0001FFFF, 0x00000155, 0x0001FFFF, fun w => .mmas (bits w 27 5) (bits w 23 4) (bits w 21 2) (bits w 17 4)⟩,
  ⟨0x0001FFFF, 0x000001D5, 0x0001FFFF, fun w => .mmaw (bits w 27 5) (bits w 23 4) (bits w 21 2) (bits w 17 4)⟩,
  ⟨0x0001FFFF, 0x00000255, 0x0001FFFF, fun w => .mrot (bits w 27 5) (bits w 23 4) (bits w 21 2) (bits w 17 4)⟩,
  ⟨0x0001FFFF, 0x000002D5, 0x0001FFFF, fun w => .mcont (bits w 27 5) (bits w 23 4) (bits w 21 2) (bits w 17 4)⟩,
  ⟨0x0001FFFF, 0x00000355, 0x0001FFFF, fun w => .mfwd (bits w 27 5) (bits w 23 4) (bits w 21 2) (bits w 17 4)⟩,
  ⟨0x0001FFFF, 0x000003D5, 0x0001FFFF, fun w => .mread (bits w 27 5) (bits w 23 4) (bits w 21 2) (bits w 17 4)⟩,
  ⟨0x0001FFFF, 0x00000455, 0x0001FFFF, fun w => .mqry (bits w 27 5) (bits w 23 4) (bits w 21 2) (bits w 17 4)⟩,
  ⟨0x0001FFFF, 0x000004D5, 0x0001FFFF, fun w => .mabn (bits w 27 5) (bits w 23 4) (bits w 21 2) (bits w 17 4)⟩,
  ⟨0x0001FFFF, 0x00000555, 0x0001FFFF, fun w => .mclose (bits w 27 5) (bits w 23 4) (bits w 21 2) (bits w 17 4)⟩,
  ⟨0x0001FFFF, 0x000005D5, 0x0001FFFF, fun w => .mflg (bits w 27 5) (bits w 23 4) (bits w 21 2) (bits w 17 4)⟩,
  ⟨0x0001FFFF, 0x00000057, 0x0001FFFF, fun w => .cpy (bits w 27 5) (bits w 23 4) (bits w 21 2) (bits w 17 4)⟩,
  ⟨0x0001FFFF, 0x000000D7, 0x0001FFFF, fun w => .cpy2 (bits w 27 5) (bits w 23 4) (bits w 21 2) (bits w 17 4)⟩,
  ⟨0x0001FFFF, 0x00000157, 0x0001FFFF, fun w => .cpyf (bits w 27 5) (bits w 23 4) (bits w 21 2) (bits w 17 4)⟩,
  ⟨0x0001FFFF, 0x000001D7, 0x0001FFFF, fun w => .cpyk (bits w 27 5) (bits w 23 4) (bits w 21 2) (bits w 17 4)⟩,
  ⟨0x07C003FF, 0x0000007F, 0x000003FF, fun w => .mfs (bits w 27 5) (bits w 10 12)⟩,
  ⟨0xF80003FF, 0x000000FF, 0x000003FF, fun w => .mts (bits w 22 5) (bits w 10 12)⟩,
  ⟨0xFFC003FF, 0x0000017F, 0x000003FF, fun w => .trap (bits w 10 12)⟩,
  ⟨0xFFFFFFFF, 0x0000027F, 0x000003FF, fun _ => .halt⟩,
  ⟨0xFFFFFFFF, 0x000002FF, 0x000003FF, fun _ => .nop⟩,
  ⟨0xFFC003FF, 0x0000037F, 0x000003FF, fun w => .bkpt (bits w 10 12)⟩,
  ⟨0x003FFFFF, 0x000003FF, 0x003FFFFF, fun w => .svcRsm (bits w 27 5) (bits w 22 5)⟩,
  ⟨0x003FFFFF, 0x000007FF, 0x003FFFFF, fun w => .svcKill (bits w 27 5) (bits w 22 5)⟩,
  ⟨0x003FFFFF, 0x00000BFF, 0x003FFFFF, fun w => .svcTlbinv (bits w 27 5) (bits w 22 5)⟩,
  ⟨0x003FFFFF, 0x00000FFF, 0x003FFFFF, fun w => .svcGangctl (bits w 27 5) (bits w 22 5)⟩]

/-- Rows 200 to 202 of the 32-bit opcode map (R241 to R251). -/
def rows5 : List Row := [
  ⟨0x003FFFFF, 0x000013FF, 0x003FFFFF, fun w => .svcPrmpt (bits w 27 5) (bits w 22 5)⟩,
  ⟨0xFFFFFFFF, 0x000017FF, 0x003FFFFF, fun _ => .svcMsgrd⟩,
  ⟨0x0000007F, 0x0000001B, 0x0000007F, fun w => .callInsn (bits w 7 25)⟩]

/-- The 32-bit opcode map (R241 to R251). -/
def rows : List Row := rows0 ++ rows1 ++ rows2 ++ rows3 ++ rows4 ++ rows5

/-- The 16-bit forms (R252). -/
def shortRows : List ShortRow := [
  ⟨0x001F, 0x0000, fun w => .vmovShort (bits w 13 3) (bits w 9 4) (bits w 5 4)⟩,
  ⟨0x001F, 0x0002, fun w => .vaddF32Short (bits w 13 3) (bits w 9 4) (bits w 5 4)⟩,
  ⟨0x001F, 0x0004, fun w => .vsubF32Short (bits w 13 3) (bits w 9 4) (bits w 5 4)⟩,
  ⟨0x001F, 0x0006, fun w => .vmulF32Short (bits w 13 3) (bits w 9 4) (bits w 5 4)⟩,
  ⟨0x001F, 0x0008, fun w => .vmaxF32Short (bits w 13 3) (bits w 9 4) (bits w 5 4)⟩,
  ⟨0x001F, 0x000A, fun w => .vminF32Short (bits w 13 3) (bits w 9 4) (bits w 5 4)⟩,
  ⟨0x001F, 0x000C, fun w => .vaddI32Short (bits w 13 3) (bits w 9 4) (bits w 5 4)⟩,
  ⟨0x001F, 0x000E, fun w => .vsubI32Short (bits w 13 3) (bits w 9 4) (bits w 5 4)⟩,
  ⟨0x001F, 0x0010, fun w => .vandShort (bits w 13 3) (bits w 9 4) (bits w 5 4)⟩,
  ⟨0x001F, 0x0012, fun w => .vorShort (bits w 13 3) (bits w 9 4) (bits w 5 4)⟩,
  ⟨0x001F, 0x0014, fun w => .vxorShort (bits w 13 3) (bits w 9 4) (bits w 5 4)⟩,
  ⟨0x001F, 0x0016, fun w => .vaddB2Short (bits w 13 3) (bits w 9 4) (bits w 5 4)⟩,
  ⟨0x001F, 0x0018, fun w => .vmulB2Short (bits w 13 3) (bits w 9 4) (bits w 5 4)⟩,
  ⟨0x001F, 0x001A, fun w => .vshlI32Short (bits w 13 3) (bits w 9 4) (bits w 5 4)⟩,
  ⟨0x001F, 0x001C, fun w => .vshrN32Short (bits w 13 3) (bits w 9 4) (bits w 5 4)⟩,
  ⟨0x001F, 0x001E, fun w => .vselShort (bits w 13 3) (bits w 9 4) (bits w 5 4)⟩]

/-- Does the word carry the bits that the row fixes? -/
def Row.hits (r : Row) (w : BitVec 32) : Bool := w &&& r.mask == r.pat

/-- Does the halfword carry the bits that the row fixes? -/
def ShortRow.hits (r : ShortRow) (w : BitVec 16) : Bool := w &&& r.mask == r.pat

/-- A halfword that is illegal whatever follows it (R233). -/
def firstReject (h : BitVec 16) : Option Reject :=
  if h = 0 then some .zeroHalfword
  else if h.getLsbD 0 ∧ (0x2E : BitVec 6) ≤ bits h 1 6 ∧ (bits h 1 6 : BitVec 6) ≤ 0x3E then some .reservedMajor
  else none

/-- Does an instruction that starts with this halfword take 32 bits (R232)? -/
def isLong (h : BitVec 16) : Bool := h.getLsbD 0

/-- The 16-bit instruction of a halfword (R252). -/
def decode16 (h : BitVec 16) : Except Reject Instr :=
  if h = 0 then .error .zeroHalfword
  else match shortRows.find? (·.hits h) with
    | some r => .ok (r.make h)
    | none => .error .unlistedFunction

/-- The 32-bit instruction of a word (R241 to R251): the row whose fixed bits it carries; otherwise the name of what is
wrong with it. -/
def decode32 (w : BitVec 32) : Except Reject Instr :=
  match rows.find? (·.hits w) with
  | some r => .ok (r.make w)
  | none =>
    if (0x2E : BitVec 6) ≤ bits w 1 6 ∧ (bits w 1 6 : BitVec 6) ≤ 0x3E then .error .reservedMajor
    else if rows.any fun r => w &&& r.fnMask == r.pat &&& r.fnMask then .error .mustBeZero
    else .error .unlistedFunction

/-- The halfword of two bytes, the lower address first (R232). -/
def halfword (b0 b1 : Byte) : BitVec 16 := b1 ++ b0

/-- The first instruction of some bytes, with its length in bytes (R232, R233). -/
def decode : List Byte → Except Reject (Instr × Nat)
  | b0 :: b1 :: rest =>
    let h0 := halfword b0 b1
    match firstReject h0 with
    | some r => .error r
    | none =>
      if isLong h0 then
        match rest with
        | b2 :: b3 :: _ => (decode32 (halfword b2 b3 ++ h0)).map fun i => (i, 4)
        | _ => .error .truncated
      else (decode16 h0).map fun i => (i, 2)
  | _ => .error .truncated

/-- The bytes of a number of bits as the hardware stores them, least significant byte first (R232). -/
def tableBytes (w : Nat) : Nat → List Byte
  | 0 => []
  | n + 1 => BitVec.ofNat 8 w :: tableBytes (w / 256) n

/-- The instruction the decoder reads from a word laid out as the opcode table numbers its bits; a word shorter than
an instruction is filled up with zero bits. -/
def decodeTableWord (nbits w : Nat) : Option Instr :=
  match decode (tableBytes (w % 2 ^ nbits) (max 4 (nbits / 8))) with
  | .ok (i, _) => some i
  | .error _ => none

/-- A field placed at bit lo of a 32-bit word. -/
def fld {n : Nat} (x : BitVec n) (lo : Nat) : BitVec 32 := x.setWidth 32 <<< lo

/-- The word of an instruction (R237 to R252); a 16-bit form stands in the low half. What has no encoding (an event) is
0; ILLEGAL_INSTRUCTION carries the word it was. -/
def encode : Instr → BitVec 32
  | .powerOn => 0
  | .railsSettled => 0
  | .powerOff => 0
  | .bootStageLoad => 0
  | .recoveryWindowWrite => 0
  | .recovctlWrite => 0
  | .recoveryPieceCopied => 0
  | .heartbeatMissed => 0
  | .attgoWrite => 0
  | .attestationReportDone => 0
  | .lifetimeCommit => 0
  | .monthAdvance => 0
  | .pwrctlP0 => 0
  | .pwrctlP1 => 0
  | .pwrctlP2 => 0
  | .pwrctlP3 => 0
  | .powerTransitionDone => 0
  | .thermalAlert => 0
  | .thermtrip => 0
  | .dramEccCorrect => 0
  | .dramEccPoison => 0
  | .tarmelFlitReplay => 0
  | .tarmelLaneSpare => 0
  | .tarmelRetrainDone => 0
  | .tarmelGroupDisable => 0
  | .vilamFlitReplay => 0
  | .vilamPortDegrade => 0
  | .routeRewrite => 0
  | .routeResume => 0
  | .pcieLinkTrain => 0
  | .packetForward => 0
  | .load => 0
  | .store => 0
  | .atomic => 0
  | .feop => 0
  | .copyw => 0
  | .contrib => 0
  | .task => 0
  | .tkget => 0
  | .tkreg => 0
  | .tkdone => 0
  | .resp => 0
  | .ack => 0
  | .nack => 0
  | .nackRetry => 0
  | .call => 0
  | .ctup => 0
  | .ctdown => 0
  | .ctabt => 0
  | .pbar => 0
  | .barrierArrive => 0
  | .hostBar4Read => 0
  | .hostBar4Write => 0
  | .qbaseWrite => 0
  | .qridxWrite => 0
  | .qcfgWrite => 0
  | .notifyWrite => 0
  | .registerWrite => 0
  | .packetRead => 0
  | .waitValidReread => 0
  | .packetBegin => 0
  | .launch => 0
  | .launchAccept => 0
  | .depend => 0
  | .dependPoll => 0
  | .signalStore => 0
  | .signalAdd => 0
  | .signalSubtract => 0
  | .copy => 0
  | .copyPiece => 0
  | .pcieCompletion => 0
  | .gangOut => 0
  | .gangIn => 0
  | .gangAbort => 0
  | .gangCommandStart => 0
  | .freeze => 0
  | .mark => 0
  | .sweep => 0
  | .save => 0
  | .release => 0
  | .releaseHostWaitExpiry => 0
  | .phaseComplete => 0
  | .inRestore => 0
  | .inAdmit => 0
  | .uncorrectableError => 0
  | .cobaltBind => 0
  | .cobaltPreempt => 0
  | .preemption => 0
  | .cobaltResume => 0
  | .spillRedeliver => 0
  | .parcelRetire => 0
  | .retired => 0
  | .reply => 0
  | .streamRelease => 0
  | .waitTimeout => 0
  | .exitDrained => 0
  | .walkComplete => 0
  | .stashLineFill => 0
  | .homeRead => 0
  | .homeWrite => 0
  | .quadInvalidate => 0
  | .quadRecall => 0
  | .invalidationAck => 0
  | .writeGrant => 0
  | .evictionNotice => 0
  | .engineAccept => 0
  | .contributionArrival => 0
  | .mrotDelivery => 0
  | .copyStart => 0
  | .copyDone => 0
  | .svcCompletion => 0
  | .routerGroupWrite => 0
  | .add d a b => 0x00000001 ||| fld d 27 ||| fld a 22 ||| fld b 17
  | .sub d a b => 0x00000081 ||| fld d 27 ||| fld a 22 ||| fld b 17
  | .mul d a b => 0x00000101 ||| fld d 27 ||| fld a 22 ||| fld b 17
  | .mulh d a b => 0x00000181 ||| fld d 27 ||| fld a 22 ||| fld b 17
  | .mulhn d a b => 0x00000201 ||| fld d 27 ||| fld a 22 ||| fld b 17
  | .div d a b => 0x00000281 ||| fld d 27 ||| fld a 22 ||| fld b 17
  | .divn d a b => 0x00000301 ||| fld d 27 ||| fld a 22 ||| fld b 17
  | .rem d a b => 0x00000381 ||| fld d 27 ||| fld a 22 ||| fld b 17
  | .remn d a b => 0x00000401 ||| fld d 27 ||| fld a 22 ||| fld b 17
  | .and d a b => 0x00000481 ||| fld d 27 ||| fld a 22 ||| fld b 17
  | .or d a b => 0x00000501 ||| fld d 27 ||| fld a 22 ||| fld b 17
  | .xor d a b => 0x00000581 ||| fld d 27 ||| fld a 22 ||| fld b 17
  | .andn d a b => 0x00000601 ||| fld d 27 ||| fld a 22 ||| fld b 17
  | .shl d a b => 0x00000681 ||| fld d 27 ||| fld a 22 ||| fld b 17
  | .shr d a b => 0x00000701 ||| fld d 27 ||| fld a 22 ||| fld b 17
  | .sra d a b => 0x00000781 ||| fld d 27 ||| fld a 22 ||| fld b 17
  | .rol d a b => 0x00000801 ||| fld d 27 ||| fld a 22 ||| fld b 17
  | .min d a b => 0x00000881 ||| fld d 27 ||| fld a 22 ||| fld b 17
  | .max d a b => 0x00000901 ||| fld d 27 ||| fld a 22 ||| fld b 17
  | .minn d a b => 0x00000981 ||| fld d 27 ||| fld a 22 ||| fld b 17
  | .maxn d a b => 0x00000A01 ||| fld d 27 ||| fld a 22 ||| fld b 17
  | .clz d a => 0x00000A81 ||| fld d 27 ||| fld a 22
  | .popc d a => 0x00000B01 ||| fld d 27 ||| fld a 22
  | .sext d a w => 0x00000B81 ||| fld d 27 ||| fld a 22 ||| fld w 17
  | .zext d a w => 0x00000C01 ||| fld d 27 ||| fld a 22 ||| fld w 17
  | .sel d a b f => 0x00001001 ||| fld d 27 ||| fld a 22 ||| fld b 17 ||| fld f 7
  | .cmp m f a b c => 0x00001401 ||| fld m 30 ||| fld f 27 ||| fld a 22 ||| fld b 17 ||| fld c 7
  | .addi d a i => 0x00000003 ||| fld d 27 ||| fld a 22 ||| fld i 7
  | .andi d a i => 0x00000005 ||| fld d 27 ||| fld a 22 ||| fld i 7
  | .ori d a i => 0x00000007 ||| fld d 27 ||| fld a 22 ||| fld i 7
  | .xori d a i => 0x00000009 ||| fld d 27 ||| fld a 22 ||| fld i 7
  | .shli d a n => 0x0000000B ||| fld d 27 ||| fld a 22 ||| fld n 7
  | .shri d a n => 0x0010000B ||| fld d 27 ||| fld a 22 ||| fld n 7
  | .srai d a n => 0x0020000B ||| fld d 27 ||| fld a 22 ||| fld n 7
  | .roli d a n => 0x0030000B ||| fld d 27 ||| fld a 22 ||| fld n 7
  | .cmpi m f a c i => 0x00000013 ||| fld m 30 ||| fld f 27 ||| fld a 22 ||| fld c 19 ||| fld i 7
  | .li d i => 0x0000000D ||| fld d 27 ||| fld i 7
  | .lui d i => 0x0000000F ||| fld d 27 ||| fld i 7
  | .ltop d i => 0x00000011 ||| fld d 27 ||| fld i 7
  | .fadd d a b p => 0x00000015 ||| fld d 27 ||| fld a 22 ||| fld b 17 ||| fld p 15
  | .fsub d a b p => 0x00000095 ||| fld d 27 ||| fld a 22 ||| fld b 17 ||| fld p 15
  | .fmul d a b p => 0x00000115 ||| fld d 27 ||| fld a 22 ||| fld b 17 ||| fld p 15
  | .ffma d a b p => 0x00000195 ||| fld d 27 ||| fld a 22 ||| fld b 17 ||| fld p 15
  | .fdiv d a b p => 0x00000215 ||| fld d 27 ||| fld a 22 ||| fld b 17 ||| fld p 15
  | .fsqrt d a p => 0x00000295 ||| fld d 27 ||| fld a 22 ||| fld p 15
  | .fmin d a b p => 0x00000315 ||| fld d 27 ||| fld a 22 ||| fld b 17 ||| fld p 15
  | .fmax d a b p => 0x00000395 ||| fld d 27 ||| fld a 22 ||| fld b 17 ||| fld p 15
  | .fabs d a p => 0x00000415 ||| fld d 27 ||| fld a 22 ||| fld p 15
  | .fneg d a p => 0x00000495 ||| fld d 27 ||| fld a 22 ||| fld p 15
  | .fclass d a p => 0x00000515 ||| fld d 27 ||| fld a 22 ||| fld p 15
  | .frnd d a p => 0x00000595 ||| fld d 27 ||| fld a 22 ||| fld p 15
  | .fcvt d a s p => 0x00000615 ||| fld d 27 ||| fld a 22 ||| fld s 17 ||| fld p 15
  | .ftoi d a u p => 0x00000695 ||| fld d 27 ||| fld a 22 ||| fld u 17 ||| fld p 15
  | .fcmp m f a b p c => 0x00000815 ||| fld m 30 ||| fld f 27 ||| fld a 22 ||| fld b 17 ||| fld p 15 ||| fld c 7
  | .bt f o => 0x10000017 ||| fld f 29 ||| fld o 7
  | .bf f o => 0x00000017 ||| fld f 29 ||| fld o 7
  | .br o => 0x00000019 ||| fld o 7
  | .callr a => 0x0000001D ||| fld a 22
  | .jmpr a => 0x0000009D ||| fld a 22
  | .ret => 0x0000011D
  | .loop a l => 0x0000001F ||| fld a 22 ||| fld l 7
  | .loopi c l => 0x00000021 ||| fld c 17 ||| fld l 7
  | .ldb t a s p o => 0x00000023 ||| fld t 27 ||| fld a 22 ||| fld s 20 ||| fld p 16 ||| fld o 7
  | .ldbs t a s p o => 0x00000025 ||| fld t 27 ||| fld a 22 ||| fld s 20 ||| fld p 16 ||| fld o 7
  | .ldh t a s p o => 0x00000027 ||| fld t 27 ||| fld a 22 ||| fld s 20 ||| fld p 16 ||| fld o 7
  | .ldhs t a s p o => 0x00000029 ||| fld t 27 ||| fld a 22 ||| fld s 20 ||| fld p 16 ||| fld o 7
  | .ldw t a s p o => 0x0000002B ||| fld t 27 ||| fld a 22 ||| fld s 20 ||| fld p 16 ||| fld o 7
  | .ldws t a s p o => 0x0000002D ||| fld t 27 ||| fld a 22 ||| fld s 20 ||| fld p 16 ||| fld o 7
  | .ldd t a s p o => 0x0000002F ||| fld t 27 ||| fld a 22 ||| fld s 20 ||| fld p 16 ||| fld o 7
  | .stb t a s p o => 0x00000031 ||| fld t 27 ||| fld a 22 ||| fld s 20 ||| fld p 16 ||| fld o 7
  | .sth t a s p o => 0x00000033 ||| fld t 27 ||| fld a 22 ||| fld s 20 ||| fld p 16 ||| fld o 7
  | .stw t a s p o => 0x00000035 ||| fld t 27 ||| fld a 22 ||| fld s 20 ||| fld p 16 ||| fld o 7
  | .std t a s p o => 0x00000037 ||| fld t 27 ||| fld a 22 ||| fld s 20 ||| fld p 16 ||| fld o 7
  | .ldff t a s p => 0x00000039 ||| fld t 27 ||| fld a 22 ||| fld s 20 ||| fld p 16
  | .ldfe t a s p => 0x000000B9 ||| fld t 27 ||| fld a 22 ||| fld s 20 ||| fld p 16
  | .stef t a s p => 0x00000139 ||| fld t 27 ||| fld a 22 ||| fld s 20 ||| fld p 16
  | .stff t a s p => 0x000001B9 ||| fld t 27 ||| fld a 22 ||| fld s 20 ||| fld p 16
  | .ldxx t a s p f => 0x00000239 ||| fld t 27 ||| fld a 22 ||| fld s 20 ||| fld p 16 ||| fld f 11
  | .sete a s p => 0x000002B9 ||| fld a 22 ||| fld s 20 ||| fld p 16
  | .aadd t a s p b => 0x0000003B ||| fld t 27 ||| fld a 22 ||| fld s 20 ||| fld p 16 ||| fld b 11
  | .aand t a s p b => 0x000000BB ||| fld t 27 ||| fld a 22 ||| fld s 20 ||| fld p 16 ||| fld b 11
  | .aor t a s p b => 0x0000013B ||| fld t 27 ||| fld a 22 ||| fld s 20 ||| fld p 16 ||| fld b 11
  | .axor t a s p b => 0x000001BB ||| fld t 27 ||| fld a 22 ||| fld s 20 ||| fld p 16 ||| fld b 11
  | .amin t a s p b => 0x0000023B ||| fld t 27 ||| fld a 22 ||| fld s 20 ||| fld p 16 ||| fld b 11
  | .amax t a s p b => 0x000002BB ||| fld t 27 ||| fld a 22 ||| fld s 20 ||| fld p 16 ||| fld b 11
  | .aminn t a s p b => 0x0000033B ||| fld t 27 ||| fld a 22 ||| fld s 20 ||| fld p 16 ||| fld b 11
  | .amaxn t a s p b => 0x000003BB ||| fld t 27 ||| fld a 22 ||| fld s 20 ||| fld p 16 ||| fld b 11
  | .aswap t a s p b => 0x0000043B ||| fld t 27 ||| fld a 22 ||| fld s 20 ||| fld p 16 ||| fld b 11
  | .cas t a s p b => 0x000004BB ||| fld t 27 ||| fld a 22 ||| fld s 20 ||| fld p 16 ||| fld b 11
  | .afadd t a s p b => 0x0000053B ||| fld t 27 ||| fld a 22 ||| fld s 20 ||| fld p 16 ||| fld b 11
  | .cflush a s p b => 0x0000003D ||| fld a 22 ||| fld s 20 ||| fld p 16 ||| fld b 11
  | .cinv a s p b => 0x000000BD ||| fld a 22 ||| fld s 20 ||| fld p 16 ||| fld b 11
  | .smap n a s p => 0x0000013D ||| fld n 27 ||| fld a 22 ||| fld s 20 ||| fld p 16
  | .sunmap n s p => 0x000001BD ||| fld n 27 ||| fld s 20 ||| fld p 16
  | .swb n s p => 0x0000023D ||| fld n 27 ||| fld s 20 ||| fld p 16
  | .pref a s p => 0x000002BD ||| fld a 22 ||| fld s 20 ||| fld p 16
  | .fmtw t a s p => 0x0000033D ||| fld t 27 ||| fld a 22 ||| fld s 20 ||| fld p 16
  | .sfmt n a s p => 0x000003BD ||| fld n 27 ||| fld a 22 ||| fld s 20 ||| fld p 16
  | .mbxw n a b p s => 0x0000003F ||| fld n 27 ||| fld a 22 ||| fld b 17 ||| fld p 13 ||| fld s 11
  | .mbxwi n p s => 0x000000BF ||| fld n 27 ||| fld p 13 ||| fld s 11
  | .mbxr d n p s => 0x0000013F ||| fld d 27 ||| fld n 17 ||| fld p 13 ||| fld s 11
  | .mbxt d f n p s => 0x000001BF ||| fld d 27 ||| fld f 22 ||| fld n 17 ||| fld p 13 ||| fld s 11
  | .semp d n p s => 0x0000023F ||| fld d 27 ||| fld n 17 ||| fld p 13 ||| fld s 11
  | .semv n p s => 0x000002BF ||| fld n 17 ||| fld p 13 ||| fld s 11
  | .qpush f a b p s => 0x0000033F ||| fld f 27 ||| fld a 22 ||| fld b 17 ||| fld p 13 ||| fld s 11
  | .qpop d f p s => 0x000003BF ||| fld d 27 ||| fld f 22 ||| fld p 13 ||| fld s 11
  | .wfe p s => 0x0000043F ||| fld p 13 ||| fld s 11
  | .sev n a p s => 0x000004BF ||| fld n 27 ||| fld a 22 ||| fld p 13 ||| fld s 11
  | .bara c a b p s => 0x00000041 ||| fld c 27 ||| fld a 22 ||| fld b 17 ||| fld p 13 ||| fld s 11
  | .barw c a b p s => 0x000000C1 ||| fld c 27 ||| fld a 22 ||| fld b 17 ||| fld p 13 ||| fld s 11
  | .barq a b p s => 0x00000141 ||| fld a 22 ||| fld b 17 ||| fld p 13 ||| fld s 11
  | .tkgetInsn d a c p s => 0x00000059 ||| fld d 27 ||| fld a 22 ||| fld c 17 ||| fld p 13 ||| fld s 11
  | .tkwait a p s => 0x000000D9 ||| fld a 22 ||| fld p 13 ||| fld s 11
  | .tkdoneInsn a c p s => 0x00000159 ||| fld a 22 ||| fld c 17 ||| fld p 13 ||| fld s 11
  | .ctrb a b p s => 0x000001D9 ||| fld a 22 ||| fld b 17 ||| fld p 13 ||| fld s 11
  | .ctres d a f p s => 0x00000259 ||| fld d 27 ||| fld a 22 ||| fld f 17 ||| fld p 13 ||| fld s 11
  | .ctabtInsn a p s => 0x000002D9 ||| fld a 22 ||| fld p 13 ||| fld s 11
  | .spawn f a b p s => 0x0000005B ||| fld f 27 ||| fld a 22 ||| fld b 17 ||| fld p 13 ||| fld s 11
  | .migr f a p s => 0x000000DB ||| fld f 27 ||| fld a 22 ||| fld p 13 ||| fld s 11
  | .migrSend => 0
  | .exit p s => 0x0000015B ||| fld p 13 ||| fld s 11
  | .yield p s => 0x000001DB ||| fld p 13 ||| fld s 11
  | .ckpt a p s => 0x0000025B ||| fld a 22 ||| fld p 13 ||| fld s 11
  | .vmov d a k => 0x00000043 ||| fld d 28 ||| fld a 24 ||| fld k 17
  | .vadd d a b k y => 0x000000C3 ||| fld d 28 ||| fld a 24 ||| fld b 20 ||| fld k 17 ||| fld y 14
  | .vsub d a b k y => 0x00000143 ||| fld d 28 ||| fld a 24 ||| fld b 20 ||| fld k 17 ||| fld y 14
  | .vmul d a b k y => 0x000001C3 ||| fld d 28 ||| fld a 24 ||| fld b 20 ||| fld k 17 ||| fld y 14
  | .vfma d a b k y => 0x00000243 ||| fld d 28 ||| fld a 24 ||| fld b 20 ||| fld k 17 ||| fld y 14
  | .vfms d a b k y => 0x000002C3 ||| fld d 28 ||| fld a 24 ||| fld b 20 ||| fld k 17 ||| fld y 14
  | .vmax d a b k y => 0x00000343 ||| fld d 28 ||| fld a 24 ||| fld b 20 ||| fld k 17 ||| fld y 14
  | .vmin d a b k y => 0x000003C3 ||| fld d 28 ||| fld a 24 ||| fld b 20 ||| fld k 17 ||| fld y 14
  | .vabs d a k y => 0x00000443 ||| fld d 28 ||| fld a 24 ||| fld k 17 ||| fld y 14
  | .vneg d a k y => 0x000004C3 ||| fld d 28 ||| fld a 24 ||| fld k 17 ||| fld y 14
  | .vand d a b k => 0x00000543 ||| fld d 28 ||| fld a 24 ||| fld b 20 ||| fld k 17
  | .vor d a b k => 0x000005C3 ||| fld d 28 ||| fld a 24 ||| fld b 20 ||| fld k 17
  | .vxor d a b k => 0x00000643 ||| fld d 28 ||| fld a 24 ||| fld b 20 ||| fld k 17
  | .vandn d a b k => 0x000006C3 ||| fld d 28 ||| fld a 24 ||| fld b 20 ||| fld k 17
  | .vshl d a b k y => 0x00000743 ||| fld d 28 ||| fld a 24 ||| fld b 20 ||| fld k 17 ||| fld y 14
  | .vshr d a b k y => 0x000007C3 ||| fld d 28 ||| fld a 24 ||| fld b 20 ||| fld k 17 ||| fld y 14
  | .vsra d a b k y => 0x00000843 ||| fld d 28 ||| fld a 24 ||| fld b 20 ||| fld k 17 ||| fld y 14
  | .vmulh d a b k y => 0x000008C3 ||| fld d 28 ||| fld a 24 ||| fld b 20 ||| fld k 17 ||| fld y 14
  | .vclz d a k y => 0x00000943 ||| fld d 28 ||| fld a 24 ||| fld k 17 ||| fld y 14
  | .vpopc d a k y => 0x000009C3 ||| fld d 28 ||| fld a 24 ||| fld k 17 ||| fld y 14
  | .vcvt d s b k y => 0x00000A43 ||| fld d 28 ||| fld s 24 ||| fld b 20 ||| fld k 17 ||| fld y 14
  | .vrcp d a k => 0x00008AC3 ||| fld d 28 ||| fld a 24 ||| fld k 17
  | .vrsq d a k => 0x00008B43 ||| fld d 28 ||| fld a 24 ||| fld k 17
  | .vperm d a b k => 0x00000BC3 ||| fld d 28 ||| fld a 24 ||| fld b 20 ||| fld k 17
  | .vsel d a b k => 0x00000C43 ||| fld d 28 ||| fld a 24 ||| fld b 20 ||| fld k 17
  | .vcmp g m a b k y o => 0x00001043 ||| fld g 31 ||| fld m 28 ||| fld a 24 ||| fld b 20 ||| fld k 17 ||| fld y 14 ||| fld o 7
  | .vmovShort k s d => 0x00000000 ||| fld k 13 ||| fld s 9 ||| fld d 5
  | .vaddF32Short k s d => 0x00000002 ||| fld k 13 ||| fld s 9 ||| fld d 5
  | .vsubF32Short k s d => 0x00000004 ||| fld k 13 ||| fld s 9 ||| fld d 5
  | .vmulF32Short k s d => 0x00000006 ||| fld k 13 ||| fld s 9 ||| fld d 5
  | .vmaxF32Short k s d => 0x00000008 ||| fld k 13 ||| fld s 9 ||| fld d 5
  | .vminF32Short k s d => 0x0000000A ||| fld k 13 ||| fld s 9 ||| fld d 5
  | .vaddI32Short k s d => 0x0000000C ||| fld k 13 ||| fld s 9 ||| fld d 5
  | .vsubI32Short k s d => 0x0000000E ||| fld k 13 ||| fld s 9 ||| fld d 5
  | .vandShort k s d => 0x00000010 ||| fld k 13 ||| fld s 9 ||| fld d 5
  | .vorShort k s d => 0x00000012 ||| fld k 13 ||| fld s 9 ||| fld d 5
  | .vxorShort k s d => 0x00000014 ||| fld k 13 ||| fld s 9 ||| fld d 5
  | .vaddB2Short k s d => 0x00000016 ||| fld k 13 ||| fld s 9 ||| fld d 5
  | .vmulB2Short k s d => 0x00000018 ||| fld k 13 ||| fld s 9 ||| fld d 5
  | .vshlI32Short k s d => 0x0000001A ||| fld k 13 ||| fld s 9 ||| fld d 5
  | .vshrN32Short k s d => 0x0000001C ||| fld k 13 ||| fld s 9 ||| fld d 5
  | .vselShort k s d => 0x0000001E ||| fld k 13 ||| fld s 9 ||| fld d 5
  | .vbcast d a k => 0x00000045 ||| fld d 27 ||| fld a 22 ||| fld k 17
  | .vext d a b => 0x000000C5 ||| fld d 27 ||| fld a 22 ||| fld b 17
  | .vins d a b => 0x00000145 ||| fld d 27 ||| fld a 22 ||| fld b 17
  | .vredadd d a y k => 0x000001C5 ||| fld d 27 ||| fld a 22 ||| fld y 20 ||| fld k 17
  | .vredmax d a y k => 0x00000245 ||| fld d 27 ||| fld a 22 ||| fld y 20 ||| fld k 17
  | .vredmin d a y k => 0x000002C5 ||| fld d 27 ||| fld a 22 ||| fld y 20 ||| fld k 17
  | .viota d a k => 0x00000345 ||| fld d 27 ||| fld a 22 ||| fld k 17
  | .vredfadd d a k => 0x000003C5 ||| fld d 27 ||| fld a 22 ||| fld k 17
  | .vtblw t a b => 0x00000051 ||| fld t 27 ||| fld a 22 ||| fld b 17
  | .vtlerp d a t k => 0x000000D1 ||| fld d 27 ||| fld a 22 ||| fld t 20 ||| fld k 17
  | .vtlcfg t a b => 0x00000151 ||| fld t 27 ||| fld a 22 ||| fld b 17
  | .kand d a b => 0x00000053 ||| fld d 27 ||| fld a 22 ||| fld b 17
  | .kor d a b => 0x000000D3 ||| fld d 27 ||| fld a 22 ||| fld b 17
  | .kxor d a b => 0x00000153 ||| fld d 27 ||| fld a 22 ||| fld b 17
  | .knot d a => 0x000001D3 ||| fld d 27 ||| fld a 22
  | .kset d a => 0x00000253 ||| fld d 27 ||| fld a 22
  | .kget d a => 0x000002D3 ||| fld d 27 ||| fld a 22
  | .kpop d a => 0x00000353 ||| fld d 27 ||| fld a 22
  | .kfirst d a => 0x000003D3 ||| fld d 27 ||| fld a 22
  | .kany f a => 0x00000453 ||| fld f 27 ||| fld a 22
  | .klen d a => 0x000004D3 ||| fld d 27 ||| fld a 22
  | .vld d a s p k o => 0x00000047 ||| fld d 28 ||| fld a 23 ||| fld s 21 ||| fld p 17 ||| fld k 14 ||| fld o 7
  | .vst d a s p k o => 0x00000049 ||| fld d 28 ||| fld a 23 ||| fld s 21 ||| fld p 17 ||| fld k 14 ||| fld o 7
  | .vldd d a s p k o => 0x0000004B ||| fld d 28 ||| fld a 23 ||| fld s 21 ||| fld p 17 ||| fld k 14 ||| fld o 7
  | .vldx d v a s p k c => 0x0000004D ||| fld d 28 ||| fld v 24 ||| fld a 19 ||| fld s 17 ||| fld p 13 ||| fld k 10 ||| fld c 7
  | .vstx d v a s p k c => 0x0000004F ||| fld d 28 ||| fld v 24 ||| fld a 19 ||| fld s 17 ||| fld p 13 ||| fld k 10 ||| fld c 7
  | .mopen d v s p => 0x00000055 ||| fld d 27 ||| fld v 23 ||| fld s 21 ||| fld p 17
  | .mma d v s p => 0x000000D5 ||| fld d 27 ||| fld v 23 ||| fld s 21 ||| fld p 17
  | .mmas d v s p => 0x00000155 ||| fld d 27 ||| fld v 23 ||| fld s 21 ||| fld p 17
  | .mmaw d v s p => 0x000001D5 ||| fld d 27 ||| fld v 23 ||| fld s 21 ||| fld p 17
  | .mrot d v s p => 0x00000255 ||| fld d 27 ||| fld v 23 ||| fld s 21 ||| fld p 17
  | .mcont d v s p => 0x000002D5 ||| fld d 27 ||| fld v 23 ||| fld s 21 ||| fld p 17
  | .mfwd d v s p => 0x00000355 ||| fld d 27 ||| fld v 23 ||| fld s 21 ||| fld p 17
  | .mread d v s p => 0x000003D5 ||| fld d 27 ||| fld v 23 ||| fld s 21 ||| fld p 17
  | .mqry d v s p => 0x00000455 ||| fld d 27 ||| fld v 23 ||| fld s 21 ||| fld p 17
  | .mabn d v s p => 0x000004D5 ||| fld d 27 ||| fld v 23 ||| fld s 21 ||| fld p 17
  | .mclose d v s p => 0x00000555 ||| fld d 27 ||| fld v 23 ||| fld s 21 ||| fld p 17
  | .mflg d v s p => 0x000005D5 ||| fld d 27 ||| fld v 23 ||| fld s 21 ||| fld p 17
  | .cpy d v s p => 0x00000057 ||| fld d 27 ||| fld v 23 ||| fld s 21 ||| fld p 17
  | .cpy2 d v s p => 0x000000D7 ||| fld d 27 ||| fld v 23 ||| fld s 21 ||| fld p 17
  | .cpyf d v s p => 0x00000157 ||| fld d 27 ||| fld v 23 ||| fld s 21 ||| fld p 17
  | .cpyk d v s p => 0x000001D7 ||| fld d 27 ||| fld v 23 ||| fld s 21 ||| fld p 17
  | .mfs d s => 0x0000007F ||| fld d 27 ||| fld s 10
  | .mts a s => 0x000000FF ||| fld a 22 ||| fld s 10
  | .scopeSet => 0
  | .trap c => 0x0000017F ||| fld c 10
  | .halt => 0x0000027F
  | .nop => 0x000002FF
  | .bkpt c => 0x0000037F ||| fld c 10
  | .svcRsm c a => 0x000003FF ||| fld c 27 ||| fld a 22
  | .svcKill c a => 0x000007FF ||| fld c 27 ||| fld a 22
  | .svcTlbinv c a => 0x00000BFF ||| fld c 27 ||| fld a 22
  | .svcGangctl c a => 0x00000FFF ||| fld c 27 ||| fld a 22
  | .svcPrmpt c a => 0x000013FF ||| fld c 27 ||| fld a 22
  | .svcMsgrd => 0x000017FF
  | .callInsn o => 0x0000001B ||| fld o 7
  | .illegalInstruction w => w
  | .tileCommandArrival => 0
  | .thermalAlertClear => 0

/-- Is the instruction one of the 16-bit forms (R252)? -/
def isShort : Instr → Bool
  | .vmovShort _ _ _ => true
  | .vaddF32Short _ _ _ => true
  | .vsubF32Short _ _ _ => true
  | .vmulF32Short _ _ _ => true
  | .vmaxF32Short _ _ _ => true
  | .vminF32Short _ _ _ => true
  | .vaddI32Short _ _ _ => true
  | .vsubI32Short _ _ _ => true
  | .vandShort _ _ _ => true
  | .vorShort _ _ _ => true
  | .vxorShort _ _ _ => true
  | .vaddB2Short _ _ _ => true
  | .vmulB2Short _ _ _ => true
  | .vshlI32Short _ _ _ => true
  | .vshrN32Short _ _ _ => true
  | .vselShort _ _ _ => true
  | .illegalInstruction w => !w.getLsbD 0
  | _ => false

/-- The length of an instruction in bytes (R232). -/
def ilen (i : Instr) : Nat := if isShort i then 2 else 4

end Sys2Proof
end

