-- ==== Sys2Proof/Machine/Map.lean ====
section
/-!
DEFINITION. Machine/Map.lean: tables keyed by a number, as sorted lists of pairs. `NMap` holds the numbered pieces
of the machine (registers, queues, lines); `Cells` holds bytes and keeps memory's one canonical form.
-/
namespace Sys2Proof

/-- A table keyed by number: keys strictly rising. A key that is not listed reads as the table's default. -/
abbrev NMap (V : Type) := List (Nat × V)

namespace NMap

/-- The entry of key k, where one is listed. -/
def find {V : Type} : NMap V → Nat → Option V
  | [], _ => none
  | (j, v) :: m, k => if j = k then some v else find m k

/-- The entry of key k, or the default d. -/
def get {V : Type} (m : NMap V) (d : V) (k : Nat) : V := (m.find k).getD d

/-- The table with key k set to v. -/
def set {V : Type} : NMap V → Nat → V → NMap V
  | [], k, v => [(k, v)]
  | (j, w) :: m, k, v =>
    if k < j then (k, v) :: (j, w) :: m
    else if k = j then (k, v) :: m
    else (j, w) :: set m k v

/-- The table without key k. -/
def erase {V : Type} (m : NMap V) (k : Nat) : NMap V := m.filter fun e => e.1 ≠ k

/-- Every listed entry changed by f. -/
def mapV {V : Type} (m : NMap V) (f : Nat → V → V) : NMap V := m.map fun e => (e.1, f e.1 e.2)

/-- Is the key listed? -/
def has {V : Type} (m : NMap V) (k : Nat) : Bool := (m.find k).isSome

/-- Keys strictly rising. -/
def wf {V : Type} : NMap V → Bool
  | [] => true
  | (j, _) :: m => (m.all fun e => decide (j < e.1)) && wf m

end NMap

/-- Bytes of a memory: (address, byte) pairs in one canonical form, addresses strictly rising and no byte equal to
what an unlisted address reads as, which is 0 (R164, R87; log entry 2). -/
abbrev Cells := List Host.Cell

namespace Cells

/-- The byte at an address; an unlisted address reads 0 (R164; log entry 2). -/
def read : Cells → Nat → Byte
  | [], _ => 0
  | (j, v) :: m, k => if j = k then v else read m k

/-- The memory with the byte at k written; writing 0 removes the entry. -/
def write : Cells → Nat → Byte → Cells
  | [], k, v => if v = 0 then [] else [(k, v)]
  | (j, w) :: m, k, v =>
    if k < j then (if v = 0 then (j, w) :: m else (k, v) :: (j, w) :: m)
    else if k = j then (if v = 0 then m else (k, v) :: m)
    else (j, w) :: write m k v

/-- The canonical form: addresses strictly rising, no byte 0. -/
def wf : Cells → Bool
  | [] => true
  | (j, v) :: m => (m.all fun e => decide (j < e.1)) && (decide (v ≠ 0) && wf m)

/-- n bytes from address a, little-endian (R4). -/
def readN (m : Cells) (a : Nat) : (n : Nat) → BitVec (8 * n)
  | 0 => 0
  | n + 1 => (readN m a n).setWidth (8 * (n + 1)) ||| ((m.read (a + n)).setWidth (8 * (n + 1)) <<< (8 * n))

/-- n bytes of v written from address a, little-endian (R4). -/
def writeN (m : Cells) (a : Nat) : (n : Nat) → {w : Nat} → BitVec w → Cells
  | 0, _, _ => m
  | n + 1, _, v => (writeN m a n v).write (a + n) (v.extractLsb' (8 * n) 8)

/-- A list of bytes written from address a on. -/
def writeList (m : Cells) (a : Nat) : List Byte → Cells
  | [] => m
  | b :: bs => writeList (m.write a b) (a + 1) bs

end Cells

/-- A set of word addresses, strictly rising. -/
abbrev NSet := List Nat

namespace NSet

/-- Membership. -/
def mem (s : NSet) (k : Nat) : Bool := s.any fun j => j == k

/-- The set with k in it. -/
def insert : NSet → Nat → NSet
  | [], k => [k]
  | j :: s, k => if k < j then k :: j :: s else if k = j then j :: s else j :: insert s k

/-- The set without k. -/
def remove (s : NSet) (k : Nat) : NSet := s.filter fun j => j ≠ k

/-- k in the set exactly when b. -/
def put (s : NSet) (k : Nat) (b : Bool) : NSet := if b then s.insert k else s.remove k

/-- Strictly rising. -/
def wf : NSet → Bool
  | [] => true
  | j :: s => (s.all fun e => decide (j < e)) && wf s

end NSet

end Sys2Proof
end

