-- ==== Sys2Proof/Machine/State.lean ====
section
/-!
DEFINITION. Machine/State.lean: the state of a pod of K4 packages as plain data, every piece the manual names, and the
machine right after reset. INVENTORY.md lists each piece with its rule and its reset value.
-/
namespace Sys2Proof.Machine

/-- Why a step stops. -/
inductive Fault where
  /-- Raised by an agent that writes or reads a privileged area (a save area, a pre-emption area, a boot image's load
  address) at a per-die offset that R163 gives no home, at or above 0x20_0000_0000. Safe: the machine stops. -/
  | noSuchAddress (address : Nat)
deriving DecidableEq, Repr

/-- Why a step has no meaning. -/
inductive Refusal where
  /-- Raised by an arm of `exec` whose instruction has no meaning yet. Safe: the machine stops. -/
  | notModelled (mnemonic : String)
deriving DecidableEq, Repr

/-! ### Packets (R33, R34) -/

/-- A packet: the header fields of R33 and up to 256 payload bytes. `zeros` holds the header's zero fields, which a
conforming device sends as zero (R35); `plen` is the payload length. -/
structure Pkt where
  type : BitVec 8
  scope : BitVec 3 := 0
  stream : BitVec 2 := 0
  ordered : Bool := true
  phase : Bool := true
  poison : Bool := false
  job : BitVec 12 := 0
  zeros : BitVec 17 := 0
  seq : BitVec 16 := 0
  tag : BitVec 16 := 0
  src : BitVec 13 := 0
  dst : BitVec 13 := 0
  inter : BitVec 11 := 0
  hops : BitVec 4 := 0
  plen : BitVec 9 := 0
  req : BitVec 13 := 0
  off : BitVec 44 := 0
  size : BitVec 4 := 0
  fn : BitVec 4 := 0
  operand : BitVec 64 := 0
  payload : BitVec 2048 := 0
deriving DecidableEq, Repr

/-- Where a packet in flight stands: at its source interface, at a die on the Tarmel ring, at an input of a package's
Vilam router, at the host port of die 0, or arrived at its destination die (R8, R29, R37, R55). -/
inductive Loc where
  | source (peer : Nat)
  | ring (p die : Nat)
  | router (p input : Nat)
  | hostPort (p : Nat)
  | arrived (peer : Nat)
deriving DecidableEq, Repr

/-- A packet in flight: `came` is the die of the ring, or the port of the last router, that it came from; `held` marks one that a failed Tarmel boundary held in its
retry buffers (R12); `stamp` orders the arrivals at one place (R100). -/
structure Flight where
  pkt : Pkt
  loc : Loc
  came : Nat := 35
  held : Bool := false
  stamp : Nat := 0
deriving DecidableEq, Repr

/-! ### Threads (R116 to R145, R182) -/

/-- The states of a slot (R116). -/
inductive SlotState where
  | free | run | wait | park | exiting | frozen
deriving DecidableEq, Repr

/-- What a thread in WAIT waits for (R114, R142): `reissue`, the instruction has not issued and is tried again at
each turn; `localOp` or `reply`, it issued as the operation with this identity and holds the thread; `scope`, an MTS to sr.scfg
waits for its stream's window (R184). -/
inductive Hold where
  | none
  | reissue
  | localOp (id : Nat)
  | reply (id : Nat)
  | scope (stream : BitVec 2) (code : BitVec 3)
deriving DecidableEq, Repr

/-- One of a thread's four streams (R182, R183). The frontier is computed from the operations not yet performed. -/
structure Stream where
  scope : BitVec 3 := 2
  next : BitVec 16 := 0
deriving DecidableEq, Repr

/-- An active loop level (R128). -/
structure Loop where
  start : BitVec 64
  stop : BitVec 64
  count : BitVec 64
  depth : BitVec 16
deriving DecidableEq, Repr

/-- What a stream operation does when it performs (R181, R189). -/
inductive OpKind where
  | load (n : Nat) (signed : Bool)
  | store (n : Nat)
  | fe (fn : Nat)
  | atom (fn : Nat)
  | cflush | cinv
  | smap (region : Nat) | sunmap (region : Nat) | swb (region : Nat)
  | pref | fmtw | sfmt (region : Nat)
  | mbxw (n : Nat) | mbxwi (n : Nat) | mbxr (n : Nat) | mbxt (n : Nat)
  | semp (n : Nat) | semv (n : Nat)
  | qpush | qpop | wfe | sev (slot : Nat)
  | bara (scope n : Nat) | barw (scope n : Nat) | barq (n : Nat)
  | tkget (c : Nat) | tkwait | tkdone (c : Nat)
  | ctrb | ctres | ctabt
  | spawn | migr | ckpt | yield
  | vld (decoded : Bool) | vst
  | matrix (fn : Nat) | copy (fn : Nat)
deriving DecidableEq, Repr

/-- How far an operation, or one byte range of it, has come. `held`: waits for its mask or an earlier overlapping
operation; `walk`: waits for a page walk; `line`: waits for the quad cache; `sent`: a packet is out; `waiting`:
stands in a queue at its target; `parked`: in the replay queue (R141); `full`: found its eight entries taken, and its thread waits (R141); `written`: a store in a bound region over a range
homed beyond the die, whose sector has not reached its home (R189); `dropped`: such a store whose sector's home refuses the job, with the trap's
cause and peer (R40); `done`: performed. -/
inductive Phase where
  | held | walk | line | sent | waiting | parked | full | written | dropped (cause : BitVec 8) (peer : Nat) | done
deriving DecidableEq, Repr

/-- One byte range of an operation: a scalar access, or one lane of a vector access (R186, R194). `pa` and `nc` stand once
the range is translated (R151). -/
structure Part where
  lane : Nat := 0
  va : BitVec 64 := 0
  size : Nat := 0
  pa : Option Nat := none
  nc : Bool := false
  phase : Phase := .held
  value : BitVec 64 := 0
deriving DecidableEq, Repr

/-- A destination that an operation leaves pending (R114, R115): a physical register, a vector register or none. -/
inductive Dest where
  | none
  | reg (p : Nat)
  | vec (v : Nat)
deriving DecidableEq, Repr

/-- A stream operation issued and not yet performed (R182, R185). `id` tells the operations of a thread apart;
`need` holds sseq of the four streams at issue; `a`, `b`, `t` the operand values read at issue, `vec` the vector
operand or parameter lanes; `age` the retry delay of R44; `snap` the format snapshot of R208. -/
structure Op where
  id : Nat
  kind : OpKind
  word : BitVec 32
  stream : BitVec 2
  seq : BitVec 16
  scope : BitVec 3
  mask : BitVec 4
  need : BitVec 64
  a : BitVec 64 := 0
  b : BitVec 64 := 0
  t : BitVec 64 := 0
  vec : BitVec 512 := 0
  lanes : BitVec 16 := 0
  dest : Dest := .none
  flag : Option (BitVec 3) := none
  phase : Phase := .held
  parts : List Part := []
  delay : Nat := 256
  snap : Option (BitVec 64) := none
deriving DecidableEq, Repr

/-- A reply on its way to a thread (R115): what it writes, and the flags it ORs into sr.fsf (R211). -/
structure Reply where
  dest : Dest := .none
  value : BitVec 512 := 0
  lanes : BitVec 16 := 0
  flag : Option (BitVec 3 × Option Bool) := none
  fsf : BitVec 6 := 0
  wakes : Option Nat := none
deriving DecidableEq, Repr

/-- A trap that a thread takes at its next instruction boundary (R40, R136): cause, address, detail, and the stream,
mask and sequence of the operation. -/
structure Trap where
  cause : BitVec 8
  addr : BitVec 64 := 0
  detail : BitVec 64 := 0
  stream : BitVec 2 := 0
  mask : BitVec 4 := 0
  seq : BitVec 16 := 0
  entry : Option (BitVec 3) := none
deriving DecidableEq, Repr

/-- The parcel a thread belongs to (R78, R87, R88): its launch (the number it was accepted with), its index, origin and extents, and
the core whose slot-table entry counts it. -/
structure ParcelId where
  launch : Nat := 0
  parcel : BitVec 32 := 0
  org0 : BitVec 64 := 0
  org1 : BitVec 64 := 0
  org2 : BitVec 64 := 0
  len0 : BitVec 64 := 0
  len1 : BitVec 64 := 0
  len2 : BitVec 64 := 0
  home : Nat := 0
deriving DecidableEq, Repr

/-- A thread slot: the registers of R117 to R123, the scoreboard of R115, its operations, its refused CTRBs (R49: group times 2^32 plus sequence), its
trap frame, and the SPAWNs that it had sent before a return to its checkpoint, by tag, with the parcel that counts them (R88, R144). -/
structure Slot where
  st : SlotState := .free
  was : SlotState := .free
  hold : Hold := .none
  pc : BitVec 64 := 0
  phys : NMap (BitVec 64) := []
  links : NMap (BitVec 64) := []
  wdepth : BitVec 16 := 0
  resident : BitVec 4 := 1
  vregs : NMap (BitVec 512) := []
  kregs : NMap (BitVec 16) := []
  flags : BitVec 8 := 0
  fcr : BitVec 2 := 0
  fsf : BitVec 6 := 0
  wto : BitVec 40 := 0x1_0000_0000
  ssp : BitVec 64 := 0
  loops : List Loop := []
  streams : NMap Stream := []
  pendW : BitVec 120 := 0
  pendV : BitVec 16 := 0
  pendF : BitVec 8 := 0
  ops : List Op := []
  opId : Nat := 0
  replies : List Reply := []
  waited : Nat := 0
  droop : BitVec 64 := 0
  issued : BitVec 64 := 0
  waits : BitVec 64 := 0
  latch : Bool := false
  skip : Bool := false
  job : BitVec 12 := 0
  par : ParcelId := {}
  ckpt : Option (BitVec 64) := none
  ctRefused : NSet := []
  mismatched : Bool := false
  jsel : BitVec 64 := 0
  ptsel : BitVec 64 := 0
  trapNext : List Trap := []
  frame : NMap (BitVec 64) := []
  spawns : List (BitVec 16 × ParcelId) := []
deriving DecidableEq, Repr

/-! ### Cores (R86, R115 to R127, R153, R156, R176, R353) -/

/-- A translation held by a micro-TLB or a quad TLB (R153): job, virtual page, page size in bits, physical page and
the leaf's fields (R151). -/
structure Tlb where
  job : BitVec 12
  page : Nat
  shift : Nat
  frame : Nat
  x : Bool
  w : Bool
  nc : Bool
  geo : BitVec 2
  fmt : BitVec 6
deriving DecidableEq, Repr

/-- A stash region's descriptor (R156): bound, base, ro, fmt, the valid bit of each line and the dirty bit of each
sector; `pa` the physical address that SMAP's translation gave (R157); `writers` the parcels whose writes stand in each dirty sector of a range homed on another
die (R68, R88). -/
structure Region where
  writers : NMap NSet := []
  bound : Bool := false
  fmt : BitVec 6 := 0
  ro : Bool := false
  base : BitVec 57 := 0
  pa : Nat := 0
  valid : BitVec 128 := 0
  dirty : BitVec 256 := 0
deriving DecidableEq, Repr

/-- A table configuration (R353). -/
structure Table where
  x0 : BitVec 32 := 0
  scale : BitVec 32 := 0
  valid : Bool := false
  base : BitVec 18 := 0
deriving DecidableEq, Repr

/-- A mailbox write held at a full mailbox (R125, R314); `acked` marks one whose sender already saw it delivered (R93). -/
structure HeldWrite where
  box : Nat
  value : BitVec 64
  sender : Nat
  tag : BitVec 16 := 0
  opId : Option Nat := none
  acked : Bool := false
deriving DecidableEq, Repr

/-- A contribution (R219, R371, R375, R376): handle, key, interval, formats, mode and base it was formed with, `kind` 0 of an MMA
form, 1 of MFWD, 2 of MCONT, whether it carries no data (R220), its elements by i × 32 + j, XACC tags, how many elements were
clamped, and the flags of forming it. -/
structure Contrib where
  handle : BitVec 64
  key : BitVec 32
  lo : Nat
  hi : Nat
  mode : Bool := false
  b : BitVec 10 := 0
  fa : BitVec 6 := 0
  fb : BitVec 6 := 0
  kind : Nat := 0
  empty : Bool := false
  elems : NMap (BitVec 160) := []
  tags : NMap (BitVec 2) := []
  clamped : Nat := 0
  fsf : BitVec 6 := 0
deriving DecidableEq, Repr

/-- A format snapshot (R208): the index, its descriptor, and the trap kind where it cannot be used (R202). -/
structure Snap where
  idx : BitVec 6
  desc : BitVec 64 := 0
  bad : Option (BitVec 2) := none
deriving DecidableEq, Repr

/-- How far a matrix command has come (R361, R448): queued, to run again from its first K index, its contribution staged for its
own quad's store, its attempt sent, asked of a remote store, refused BUSY and to send again, decided with deliveries or writes left, or back at its queue's
head until the replay slot is free (R364). -/
inductive EngStage where
  | queued | rerun | staged | sent | asked | busy | decided | blocked
deriving DecidableEq, Repr

/-- What a store has answered to a tile command and is not yet written (R364, R377, R378): status word, flags, the tile's mode, and the rows (bits, value). -/
structure EngAnswer where
  status : BitVec 64
  fsf : BitVec 6 := 0
  mode : Bool := false
  rows : List (Nat × Nat) := []
deriving DecidableEq, Repr

/-- A matrix command in a dispatch queue or the replay slot (R361, R364, R376): its slot and operation, the snapshots of A, B
and destination, the staging partial, the decided status word with the flags and trap that follow it, the attempt number, the
deliveries left and whether one met a poisoned word (R446), the response packets that a remote MREAD has brought, the stash bytes (core, offset, length) whose writes
the status follows, and a store's answer that is not yet written. -/
structure EngCmd where
  slot : Nat
  op : Op
  stage : EngStage := .queued
  snaps : List Snap := []
  formed : Option Contrib := none
  status : BitVec 64 := 0
  fsf : BitVec 6 := 0
  trap : Option (BitVec 8 × BitVec 64) := none
  attempt : BitVec 32 := 0
  deliveries : Nat := 0
  refused : Bool := false
  got : NMap (BitVec 2048) := []
  dests : List (Nat × Nat × Nat) := []
  answer : Option EngAnswer := none
deriving DecidableEq, Repr

/-- A command in a channel queue or in progress (R380): the slot's operation, bytes delivered and bytes on their way to a remote home in a
COPYW packet (R42) with that packet's address, the token's requester (slot and operation) where one is adopted (R193), and the outcome once decided. -/
structure CopyCmd where
  op : Op
  slot : Nat
  started : Bool := false
  bytes : Nat := 0
  flying : Nat := 0
  target : Nat := 0
  adopted : Option (Nat × Nat) := none
  outcome : Option Nat := none
deriving DecidableEq, Repr

/-- A copy channel (R176, R380): its queue, sr.cpwp, and whether a fault or a pre-emption stops it. -/
structure Channel where
  queue : List CopyCmd := []
  cpwp : BitVec 64 := 0
  stopped : Bool := false
deriving DecidableEq, Repr

/-- A bind record (R86); `launch` tells the launch by the number it was accepted with, `retired` marks a parcel that has retired while
another parcel's threads still use the core (R88). -/
structure Bind where
  launch : Nat := 0
  entry : BitVec 64 := 0
  consts : BitVec 64 := 0
  parcel : BitVec 32 := 0
  job : BitVec 12 := 0
  prio : BitVec 4 := 0
  mask : BitVec 8 := 0
  lockstep : Bool := false
  rerun : Bool := false
  lslot : BitVec 6 := 0
  live : BitVec 16 := 0
  stash : BitVec 19 := 0
  retired : Bool := false
  valid : Bool := false
deriving DecidableEq, Repr

/-- The part of a core that belongs to its crew and is saved with it (R92, R314). -/
structure Crew where
  g : NMap (BitVec 64) := []
  mb : NMap (BitVec 64) := []
  mbFull : BitVec 8 := 0
  heldWrites : List HeldWrite := []
  sems : NMap (BitVec 8) := []
  queueHead : BitVec 6 := 0
  queue : List (BitVec 64) := []
  tables : NMap Table := []
  regions : NMap Region := []
  channels : NMap Channel := []
  matrix : List EngCmd := []
  bind : Bind := {}
  boundAt : BitVec 64 := 0
  order : Nat := 0
deriving DecidableEq, Repr

/-- A saved crew: the eight slots and the crew's part of the core, beside the images written to memory (R91). -/
structure SavedCrew where
  crew : Crew
  slots : List Slot
deriving DecidableEq, Repr

/-- An item of a spill queue (R93): a diverted packet and the slot promised to it. -/
structure Spilled where
  pkt : Pkt
  promised : Option Nat := none
deriving DecidableEq, Repr

/-- A core: its crew's part, a pre-empted crew, the spill queue, the micro-TLB and the cycle count. -/
structure Core where
  crew : Crew := {}
  saved : Option SavedCrew := none
  spill : List Spilled := []
  utlb : List Tlb := []
  cycle : BitVec 64 := 0
  ran : Bool := false
  lastJob : BitVec 12 := 0
  halting : Bool := false
deriving DecidableEq, Repr

/-! ### Quads (R162, R166 to R170, R209, R213 to R231, R317, R361) -/

/-- The state of a line in a quad cache: shared, owned, or a clean copy of a line homed beyond the die (R162, R171). -/
inductive LineState where
  | shared | owned | remote
deriving DecidableEq, Repr

/-- A line of a quad cache: data with each word's full/empty bit and poison (R162, R164), the dirty sectors, and the
L1 data and instruction caches that include it (R161). -/
structure Line where
  state : LineState
  data : BitVec 2048
  full : BitVec 32
  poison : BitVec 32
  dirty : BitVec 2 := 0
  l1d : BitVec 4 := 0
  l1i : BitVec 4 := 0
deriving DecidableEq, Repr

/-- A tile descriptor (R215); the record is a list of at most six intervals. -/
structure Tile where
  state : BitVec 3 := 0
  mode : Bool := false
  nant : Bool := false
  sat : Bool := false
  m1 : BitVec 5 := 0
  n1 : BitVec 5 := 0
  gen : BitVec 16 := 0
  job : BitVec 12 := 0
  key : BitVec 32 := 0
  satcnt : BitVec 32 := 0
  kt : BitVec 21 := 0
  b : BitVec 10 := 0
  fa : BitVec 6 := 0
  fb : BitVec 6 := 0
  watch : BitVec 57 := 0
  record : List (Nat × Nat) := []
deriving DecidableEq, Repr

/-- A contribution buffer (R376): source, requester, attempt, and the bytes of the packets taken so far. -/
structure Buffer where
  src : BitVec 13
  req : BitVec 13
  tag : BitVec 16
  job : BitVec 12
  attempt : BitVec 32
  total : Nat
  data : List (BitVec 2048)
deriving DecidableEq, Repr

/-- An MROT delivery on its way (R374): the command, the target core and receive offset, and its rows (stash offset, length in
bytes, value). -/
structure Rot where
  slot : Nat
  opId : Nat
  core : Nat
  off : Nat
  rows : List (Nat × Nat × Nat)
deriving DecidableEq, Repr

/-- Barrier logic (R317): phase, count, target, and the waiting operations of the phase. -/
structure Barrier where
  phase : BitVec 32 := 0
  count : BitVec 32 := 0
  target : BitVec 32 := 0
  waiters : List (Nat × Nat) := []
deriving DecidableEq, Repr

/-- A quad: its cache, TLB, accumulator store, engine, descriptor cache and quad barriers. -/
structure Quad where
  lines : NMap Line := []
  notices : NSet := []
  tlb : List Tlb := []
  tiles : NMap Tile := []
  elems : NMap (BitVec 160) := []
  tags : NMap (BitVec 2) := []
  arrivals : Nat := 0
  lastCore : BitVec 2 := 3
  staged : List (Nat × Nat) := []
  rots : List Rot := []
  replay : Option EngCmd := none
  buffers : List Buffer := []
  formats : NMap (BitVec 64) := []
  barriers : NMap Barrier := []
  feOrder : List (Nat × Nat) := []
deriving DecidableEq, Repr

/-! ### Dies (R14, R39, R45, R82, R89, R135, R139, R150, R153, R166, R200, R212, R254, R321) -/

/-- A ticket class (R45, R46). -/
structure Ticket where
  next : BitVec 32 := 0
  done : BitVec 32 := 0
  job : BitVec 12 := 0
  en : Bool := false
  rows : BitVec 16 := 0
  waiters : NSet := []
deriving DecidableEq, Repr

/-- A page walk in flight (R153): the quad, the job, the address and what asks for it. -/
structure Walk where
  quad : Nat
  slot : Nat
  opId : Nat
  part : Nat
  job : BitVec 12
  va : BitVec 64
  write : Bool
  fetch : Bool
deriving DecidableEq, Repr

/-- A directory entry (R166). `waitAcks` names the quads whose acknowledgement is awaited, `req` the request that
made the entry busy. -/
structure DirEntry where
  owned : Bool := false
  coarse : Bool := false
  ptrs : NMap (BitVec 8) := []
  groups : BitVec 32 := 0
  busy : Bool := false
  waitAcks : NSet := []
  req : Option (Nat × Bool) := none
  evicting : Bool := false
deriving DecidableEq, Repr

/-- A message of the die's coherence traffic (R167 to R169). Quads are logical numbers, `line` an address div 256. Dirty sectors that an
acknowledgement or a notice carries stand at the home as the message leaves (log entry 11). -/
inductive CohMsg where
  | read (quad line : Nat)
  | write (quad line : Nat)
  | inval (quad line : Nat)
  | recall (quad line : Nat) (invalidate : Bool)
  | ack (quad line : Nat)
  | grant (quad line : Nat)
  | notice (quad line : Nat)
deriving DecidableEq, Repr

/-- An arrival on its way to barrier logic (R317): scope, number, the thread with its job, its operation and the target. -/
structure Arrival where
  scope : Nat
  num : Nat
  slot : Nat
  job : BitVec 12
  opId : Nat
  waits : Bool
  p : BitVec 32
deriving DecidableEq, Repr

/-- A trap message to be posted (R139, R140): its eight dwords. -/
abbrev Message := List (BitVec 64)

/-- An access that had used a translation when a TLBINV began (R154): a byte range of a thread's operation, the bytes that a copy command has on their way, a
flag-word AOR, the piece of a COPY packet that the host was asked for, another request of a queue's packet to the host, or a sector that a store at core scope has left dirty
in a region bound beyond the die (R189). -/
inductive OldAccess where
  | part (slot id : Nat) (va : BitVec 64)
  | copy (slot id bytes : Nat)
  | aor (src req : BitVec 13) (flags : BitVec 64)
  | piece (p q id moved : Nat)
  | asked (p q id kind : Nat)
  | sector (core region sector : Nat)
deriving DecidableEq, Repr

/-- An SVC whose operation runs on (R282): issuing core, completion address, operation, argument, result code, and the accesses that a TLBINV waits for. -/
structure SvcOp where
  core : Nat
  wc : BitVec 64
  op : BitVec 12
  arg : BitVec 64
  code : Option (BitVec 8) := none
  waits : List OldAccess := []
deriving DecidableEq, Repr

/-- What a die's launch table keeps of a launch (R80, R82, R84, R89, R110). -/
structure DieLaunch where
  consts : List (BitVec 64) := []
  range : BitVec 64 := 0
  dry : Bool := false
  share : Bool := false
  started : Bool := false
  redo : NSet := []
  retired : Nat := 0
  messages : Nat := 0
deriving DecidableEq, Repr

/-- A sweep record (R100, R101): unit, input, channel, the packet, and where it stood and came from. -/
structure SweepRec where
  unit : Nat
  input : Nat
  vc : Nat
  index : Nat
  pkt : Pkt
  loc : Loc
  came : Nat := 35
deriving DecidableEq, Repr

/-- The named-barrier and collective outcomes, tables and queues of one die. -/
structure Die where
  cobalt : Bool := false
  supRun : Bool := false
  peerState : NMap (BitVec 2) := []
  jobPart : NMap (BitVec 4) := []
  partMap : NMap (BitVec 64) := []
  tickets : NMap Ticket := []
  called : NMap (BitVec 32) := []
  tkWaiters : NMap (Nat × BitVec 64) := []
  remap : NMap (BitVec 16) := []
  spares : NSet := []
  owners : NMap (BitVec 13) := []
  barriers : NMap Barrier := []
  arrivals : List Arrival := []
  jroot : NMap (BitVec 64) := []
  jfmt : NMap (BitVec 64) := []
  jflaga : NMap (BitVec 64) := []
  jsave : NMap (BitVec 64) := []
  supcore : BitVec 64 := 0
  prbase : BitVec 64 := 0
  tmbase : BitVec 64 := 0
  tmcnt : BitVec 64 := 0
  tmrd : BitVec 64 := 0
  msgSeq : BitVec 32 := 0
  heldPosts : List Message := []
  walks : List Walk := []
  walkQueue : List Walk := []
  dir : NMap DirEntry := []
  coh : List CohMsg := []
  retryList : List Flight := []
  launches : NMap DieLaunch := []
  ctOut : NMap (BitVec 32 × BitVec 2 × BitVec 64) := []
  svcs : List SvcOp := []
  errors : BitVec 32 := 0
  binds : Nat := 0
deriving DecidableEq, Repr

/-! ### Packages (R10 to R26, R29 to R38, R48, R52 to R112) -/

/-- A queue (R57 to R60, R65). `wait` marks wait-valid, `consumed` the packet consumed and not yet begun, `dep` a
DEPEND that holds the queue, `open` the packets begun and not complete. -/
structure Queue where
  qbase : BitVec 64 := 0
  qridx : BitVec 64 := 0
  cfg : BitVec 64 := 0
  ridx : BitVec 32 := 0
  widx : BitVec 32 := 0
  err : BitVec 8 := 0
  failed : Bool := false
  wait : Bool := false
  full : Bool := false
  consumed : Option (List (BitVec 64)) := none
  dep : Option Nat := none
  running : NSet := []
  nextId : Nat := 0
deriving DecidableEq, Repr

/-- A launch slot (R81): queue, the packet's identity in it, its dwords, parcel count, and the counts of R89. -/
structure Launch where
  q : Nat
  id : Nat
  dw : List (BitVec 64)
  job : BitVec 12
  prio : BitVec 4
  total : Nat
  accepted : Nat
  counts : NMap (Nat × Nat) := []
deriving DecidableEq, Repr

/-- A RETIRED message on its way to die 0 (R89). -/
structure Retire where
  lslot : Nat
  die : Nat
  seq : Nat
  count : Nat
deriving DecidableEq, Repr

/-- Work of the command processor and the host DMA engine that has begun: a SIGNAL or a COPY packet, with the bytes a
COPY has moved (R66, R67). -/
structure Work where
  q : Nat
  id : Nat
  dw : List (BitVec 64)
  moved : Nat := 0
deriving DecidableEq, Repr

/-- A non-posted request outstanding at the PCI Express port (R52, R56): the packet it carries for a thread, or the
queue and work it belongs to. -/
structure HostReq where
  pkt : Option Pkt := none
  q : Nat := 0
  id : Nat := 0
  kind : Nat := 0
deriving DecidableEq, Repr

/-- A Tarmel boundary (R9 to R12): per direction and group, the lanes failed, the groups retraining and disabled. -/
structure Boundary where
  failed : NMap Nat := []
  retraining : NSet := []
  disabled : NSet := []
  replays : Nat := 0
deriving DecidableEq, Repr

/-- A Vilam port (R31, R35). -/
structure Port where
  failed : Nat := 0
  disabled : Bool := false
  replays : Nat := 0
  errors : BitVec 32 := 0
deriving DecidableEq, Repr

/-- A group entry of the router (R48 to R51): the entry, the values each die and each child gave for the open
instance, and whether the router has sent its CTUP. -/
structure Group where
  entry : BitVec 128 := 63
  dies : NMap (BitVec 64) := []
  kids : NMap (BitVec 64) := []
  sentUp : Bool := false
deriving DecidableEq, Repr

/-- Where a job stands in a switch on one package (R95 to R108). -/
inductive GangPhase where
  | none | freeze | mark | sweep | save | release | out | restore | admitted
deriving DecidableEq, Repr

/-- A job's switch state on one package: phase, instance, what phases are reported complete, the SWEEP markers come to the router's inputs (input times 8 plus channel)
and the inputs swept (R100), the cut's records, the
late queue and the LATEFAULT count (R98 to R108), and whether the watchdog froze it, which Slate does not undo (R75, R111). -/
structure Gang where
  phase : GangPhase := .none
  order : GangPhase := .none
  told : Bool := false
  instId : BitVec 32 := 0
  done : Bool := false
  marked : Bool := false
  damaged : Bool := false
  watched : Bool := false
  marks : NSet := []
  swept : NSet := []
  save : BitVec 44 := 0
  sweep : List SweepRec := []
  late : List SweepRec := []
  lateFaults : Nat := 0
  hostWait : Bool := false
  slots : NMap Slot := []
  crews : NMap Crew := []
  saved : NMap SavedCrew := []
  images : NMap Cells := []
  quads : NMap Quad := []
deriving DecidableEq, Repr

/-- A gang command at a job's anchor (R95 to R97): where it came from: a queue's packet, an SVC (its die, issuing core and
completion address) or Slate. -/
structure GangCmd where
  op : BitVec 4
  job : BitVec 12
  save : BitVec 44
  instId : BitVec 32
  pkg : Nat
  queue : Option (Nat × Nat) := none
  signal : BitVec 64 := 0
  packetJob : BitVec 12 := 0
  svc : Option (Nat × Nat × BitVec 64) := none
  slate : Bool := false
deriving DecidableEq, Repr

/-- A repair of Slate's under way (R109 to R111): the core or accumulator unit that failed, the jobs that were frozen for it, and
whether the quad has been retired. -/
structure Repair where
  core : Nat
  unit : Option Nat := none
  jobs : NSet
  retired : Bool := false
  aborts : List (Nat × Nat × Nat) := []
deriving DecidableEq, Repr

/-- The power states of R25, and the states of the rails (R21). -/
inductive Power where
  | off | rising | on
deriving DecidableEq, Repr

/-- Slate's boot state (R71 to R75): the stage under check, whether it waits for a recovery image, and for which: the package's stage (none) or that of a die, the pieces,
and the dies that boot again after a missed heartbeat. -/
structure Boot where
  stage : BitVec 4 := 0
  fail : BitVec 4 := 0
  done : Bool := false
  loading : Bool := false
  recover : Bool := false
  awaited : Option Nat := none
  busy : Bool := false
  nextPiece : Nat := 0
  pending : Option (BitVec 64) := none
  length : Nat := 0
  flash : NMap (List (BitVec 8)) := []
  window : Cells := []
  mreg : NMap (BitVec 512) := []
  minVersion : NMap (BitVec 64) := []
  stageEntry : NMap (BitVec 64) := []
  again : List Nat := []
deriving DecidableEq, Repr

/-- The lifetime counters (R77), as Slate keeps them now and as last committed. -/
structure Lifetime where
  monthIndex : BitVec 64 := 0
  hours : BitVec 64 := 0
  ecc : NMap (BitVec 16) := []
  spareRows : NMap (BitVec 8) := []
  retrains : NMap (BitVec 32) := []
  thermal : NMap (BitVec 64) := []
  bubbles : NMap (BitVec 64) := []
  retired : NMap (BitVec 16) := []
  left : NMap (BitVec 16) := []
deriving DecidableEq, Repr

/-- A package: power, boot, the host port, the packet front end, launches, the Vilam router and the gang machinery. -/
structure Pkg where
  power : Power := .off
  pkgid : BitVec 11 := 0
  pstate : BitVec 2 := 2
  pseq : BitVec 16 := 0
  pbusy : Bool := false
  prefused : Bool := false
  ptarget : BitVec 64 := 2
  pheld : Option (BitVec 64) := none
  alert : BitVec 4 := 0
  thermtrip : Bool := false
  boot : Boot := {}
  attreq : BitVec 256 := 0
  attgo : Bool := false
  report : Cells := []
  life : Lifetime := {}
  committed : Lifetime := {}
  slateN : BitVec 31 := 1
  pcieGen : Nat := 0
  pcieLanes : Nat := 0
  barSize : Nat := 0x80_0000_0000
  nfydrop : BitVec 32 := 0
  queues : NMap Queue := []
  launches : NMap Launch := []
  launchSeq : Nat := 0
  retires : List Retire := []
  works : List Work := []
  hostReqs : List HostReq := []
  routes : NMap (BitVec 128) := []
  altTurn : NMap Nat := []
  adbias : BitVec 64 := 32
  heldDest : NSet := []
  ports : NMap Port := []
  boundaries : NMap Boundary := []
  groups : NMap Group := []
  barriers : NMap Barrier := []
  gangs : NMap Gang := []
  anchor : List GangCmd := []
  current : NMap GangCmd := []
  repair : Option Repair := none
deriving DecidableEq, Repr

/-! ### The pod -/

/-- What the host sees of the pod: completions of its reads, interrupts, error reports and Slate's reports. -/
inductive HostEvent where
  | read (value : List (BitVec 8)) (poisoned : Bool)
  | msix (p : Nat) (vector : BitVec 12)
  | aer (p : Nat)
  | slate (p : Nat) (what : String) (values : List Nat)
deriving DecidableEq, Repr

/-- What an event acts on (log entry 6): three numbers (a package, a peer, a core, a queue, a position in a list, as the
event's meaning says), a value, bytes, and a truth value. -/
structure Arg where
  a : Nat := 0
  b : Nat := 0
  c : Nat := 0
  value : BitVec 128 := 0
  bytes : List (BitVec 8) := []
  good : Bool := true
deriving DecidableEq, Repr

/-- What happens next (log entry 3): an event of the table, one turn of a core's rotation, a store by the host into its own memory, or an edit of a parked thread's
trap frame by its supervisor, for which the manual gives no address (R282; log entry 8). -/
inductive Move where
  | event (i : Instr) (arg : Arg)
  | turn (core : Nat) (bubble : Bool)
  | hostStore (addr : Nat) (bytes : List (BitVec 8))
  | frameStore (slot dword : Nat) (value : BitVec 64)
deriving DecidableEq, Repr

/-- The pod. Maps are keyed by package id, peer number, quad, core address (R124) and slot; memory by global physical
address (R2); stash by core address times 2^18 plus offset (R147), `stashPoison` the poisoned words that bound regions hold. `cur` is the slot whose instruction executes,
`arg` what an event acts on, `agenda` what happens next, `opens` counts the open values used (log entries 3 and 4), `posted` the host's posted writes that a package's port
has not yet acted on, in arrival order (R440). -/
structure State where
  pkgs : NMap Pkg := []
  dies : NMap Die := []
  quads : NMap Quad := []
  cores : NMap Core := []
  slots : NMap Slot := []
  mem : Cells := []
  empty : NSet := []
  poison : NSet := []
  stash : Cells := []
  stashEmpty : NSet := []
  stashPoison : NSet := []
  net : List Flight := []
  cur : Nat := 0
  arg : Arg := {}
  agenda : List Move := []
  posted : List (Instr × Arg) := []
  opens : Nat := 0
  host : List HostEvent := []
deriving DecidableEq, Repr

/-- The pod right after reset (R21, R24, R71): every package without power, every register at the value the manual
gives for reset or that log entry 1 names, every byte of memory as log entry 2 says, nothing in flight. -/
def State.reset : State := {}

end Sys2Proof.Machine
end

