-- ==== Sys2Proof/Machine/Ops.lean ====
section
/-!
DEFINITION. Machine/Ops.lean: the named operations over the state: access to its parts, registers, taking a trap and
returning from one (R136 to R140), memory at its homes, and the steps a stream operation goes through (R182 to R187).
-/
namespace Sys2Proof.Machine

/-- The outcome of a step. -/
abbrev Out := Host.Outcome State Fault Refusal

/-! ### Naming the parts -/

/-- The core of a slot key (R124). -/
def coreOf (k : Nat) : Nat := k / 8
/-- The slot number of a slot key. -/
def slotOf (k : Nat) : Nat := k % 8
/-- The quad key of a core address. -/
def quadOf (c : Nat) : Nat := c / 4
/-- The logical quad number of a quad key. -/
def quadNo (q : Nat) : Nat := q % 256
/-- The peer number of a quad key (R2, R124). -/
def peerOf (q : Nat) : Nat := q / 256
/-- The package of a peer number (R2). -/
def pkgOf (p : Nat) : Nat := p / 4
/-- The peer of a slot key. -/
def peerOfSlot (k : Nat) : Nat := peerOf (quadOf (coreOf k))
/-- The host's peer number (2,047, 0) (R55). -/
def hostPeer : Nat := 2047 * 4

/-- The peer of a global physical address (R2). -/
def paPeer (a : Nat) : Nat := a / 2 ^ 44 % 2 ^ 13
/-- The per-die offset of a global physical address (R2). -/
def paOff (a : Nat) : Nat := a % 2 ^ 44
/-- The global physical address of an offset at a peer (R2). -/
def paOf (peer off : Nat) : Nat := peer * 2 ^ 44 + off % 2 ^ 44
/-- The end of a die's DRAM: offsets below it have a home (R163). -/
def dramEnd : Nat := 0x20_0000_0000
/-- The home slice of a per-die offset (R163). -/
def sliceOf (off : Nat) : Nat := off / 256 % 512

def State.slot (s : State) (k : Nat) : Slot := s.slots.get {} k
def State.core (s : State) (c : Nat) : Core := s.cores.get {} c
def State.quad (s : State) (q : Nat) : Quad := s.quads.get {} q
def State.die (s : State) (p : Nat) : Die := s.dies.get {} p
def State.pkg (s : State) (p : Nat) : Pkg := s.pkgs.get {} p
def State.modSlot (s : State) (k : Nat) (f : Slot → Slot) : State := { s with slots := s.slots.set k (f (s.slot k)) }
def State.modCore (s : State) (c : Nat) (f : Core → Core) : State := { s with cores := s.cores.set c (f (s.core c)) }
def State.modQuad (s : State) (q : Nat) (f : Quad → Quad) : State := { s with quads := s.quads.set q (f (s.quad q)) }
def State.modDie (s : State) (p : Nat) (f : Die → Die) : State := { s with dies := s.dies.set p (f (s.die p)) }
def State.modPkg (s : State) (p : Nat) (f : Pkg → Pkg) : State := { s with pkgs := s.pkgs.set p (f (s.pkg p)) }
def State.modCrew (s : State) (c : Nat) (f : Crew → Crew) : State :=
  s.modCore c fun x => { x with crew := f x.crew }

/-- The current slot's thread. -/
def State.me (s : State) : Slot := s.slot s.cur
def State.modMe (s : State) (f : Slot → Slot) : State := s.modSlot s.cur f
/-- The current core, quad and peer. -/
def State.myCore (s : State) : Nat := coreOf s.cur
def State.myQuad (s : State) : Nat := quadOf s.myCore
def State.myPeer (s : State) : Nat := peerOf s.myQuad
def State.crew (s : State) : Crew := (s.core s.myCore).crew

/-- The next open value (log entry 4). -/
def State.openValue (s : State) : BitVec 64 := Config.freeValue s.opens
/-- The state after using an open value. -/
def State.useOpen (s : State) : State := { s with opens := s.opens + 1 }

/-- Element k of a list removed. -/
def dropAt {α : Type} (l : List α) (k : Nat) : List α := l.eraseIdx k

/-- The first i below n, from lo on, for which p holds. -/
def firstFrom (n lo : Nat) (p : Nat → Bool) : Option Nat := ((List.range n).map (· + lo)).find? p

/-! ### Registers (R117, R118, R235) -/

/-- The physical register of w_i (R118). -/
def Slot.phyOf (t : Slot) (i : Nat) : Nat := (16 * t.wdepth.toNat + i) % 120
/-- Register w_i of the current frame. -/
def Slot.w (t : Slot) (i : Nat) : Word := t.phys.get 0 (t.phyOf i)
def Slot.setW (t : Slot) (i : Nat) (v : Word) : Slot := { t with phys := t.phys.set (t.phyOf i) v }

/-- A scalar register by its code: g0 reads zero, g1 to g7 are the core's (R117, R235). -/
def State.rd (s : State) (c : BitVec 5) : Word :=
  if c = 0 then 0
  else if c.toNat < 8 then s.crew.g.get 0 c.toNat
  else s.me.w (c.toNat - 8)

/-- A scalar destination written: g0 discards (R117, R236). -/
def State.wr (s : State) (c : BitVec 5) (v : Word) : State :=
  if c.toNat < 8 then s else s.modMe (·.setW (c.toNat - 8) v)

/-- A vector register (R117). -/
def Slot.v (t : Slot) (i : Nat) : Vec := t.vregs.get 0 i
def Slot.setV (t : Slot) (i : Nat) (x : Vec) : Slot := { t with vregs := t.vregs.set i x }
/-- A lane mask; k0 reads all ones (R117). -/
def Slot.k (t : Slot) (i : Nat) : BitVec 16 := if i = 0 then 0xFFFF else t.kregs.get 0 i
def Slot.setK (t : Slot) (i : Nat) (x : BitVec 16) : Slot := if i = 0 then t else { t with kregs := t.kregs.set i x }
/-- A flag (R117). -/
def Slot.f (t : Slot) (i : BitVec 3) : Bool := t.flags.getLsbD i.toNat
def Slot.setF (t : Slot) (i : BitVec 3) (b : Bool) : Slot := { t with flags := putBits t.flags i.toNat (b1 b) }
/-- Lane i of a vector. -/
def lane (x : Vec) (i : Nat) : BitVec 32 := bits x (32 * i) 32
def setLane (x : Vec) (i : Nat) (v : BitVec 32) : Vec := putBits x (32 * i) v
/-- A vector built lane by lane. -/
def vecOf (f : Nat → BitVec 32) : Vec := (List.range 16).foldl (fun x i => x ||| ((f i).setWidth 512 <<< (32 * i))) 0
/-- A vector whose lanes the mask selects come from f and whose others stay (R335). -/
def vecMasked (m : BitVec 16) (old : Vec) (f : Nat → BitVec 32) : Vec :=
  vecOf fun i => if m.getLsbD i then f i else lane old i

/-- Stream t of a thread (R183). -/
def Slot.stream (t : Slot) (i : Nat) : Stream := t.streams.get {} i

/-! ### Stream numbers (R182 to R187) -/

/-- sfront(i): the sequence number of the oldest operation of the stream not yet performed, or sseq (R182). -/
def Slot.front (t : Slot) (i : Nat) : BitVec 16 :=
  match t.ops.find? fun o => o.stream.toNat == i with
  | some o => o.seq
  | none => (t.stream i).next

/-- window(i) (R182). -/
def Slot.window (t : Slot) (i : Nat) : Nat := ((t.stream i).next - t.front i).toNat

/-- The sum of the four windows (R183). -/
def Slot.windows (t : Slot) : Nat := t.window 0 + t.window 1 + t.window 2 + t.window 3

/-- Have all streams of the thread drained? -/
def Slot.drained (t : Slot) : Bool := t.windows == 0

/-- May a stream operation of stream i issue (R187)? -/
def Slot.hasRoom (t : Slot) (i : Nat) : Bool := t.window i < 64 && t.windows < 128

/-- sseq of the four streams, as an operation's `need` holds it (R185). -/
def Slot.needs (t : Slot) : BitVec 64 :=
  (t.stream 3).next ++ (t.stream 2).next ++ (t.stream 1).next ++ (t.stream 0).next

/-- The mask test of R185. -/
def Slot.maskMet (t : Slot) (o : Op) : Bool :=
  (List.range 4).all fun i =>
    !o.mask.getLsbD i ||
      ((t.stream i).next - t.front i).toNat ≤ ((t.stream i).next - (bits o.need (16 * i) 16 : BitVec 16)).toNat

/-- The operation with an identity, where it has not performed. -/
def Slot.op (t : Slot) (id : Nat) : Option Op := t.ops.find? (·.id == id)
def Slot.modOp (t : Slot) (id : Nat) (f : Op → Op) : Slot :=
  { t with ops := t.ops.map fun o => if o.id == id then f o else o }
/-- The operation has performed: the frontier passes it (R182). -/
def Slot.dropOp (t : Slot) (id : Nat) : Slot := { t with ops := t.ops.filter (·.id != id) }

/-! ### The scoreboard (R115) -/

/-- Is a scalar register pending? g registers never are. -/
def Slot.pendingW (t : Slot) (c : BitVec 5) : Bool := 8 ≤ c.toNat && t.pendW.getLsbD (t.phyOf (c.toNat - 8))
def Slot.pendingV (t : Slot) (i : Nat) : Bool := t.pendV.getLsbD i
def Slot.pendingF (t : Slot) (i : BitVec 3) : Bool := t.pendF.getLsbD i.toNat

/-- The destination of a scalar register code, g0 being none (R290). -/
def Slot.destOf (t : Slot) (c : BitVec 5) : Dest := if c.toNat < 8 then .none else .reg (t.phyOf (c.toNat - 8))

/-- A destination's scoreboard bit set or cleared. -/
def Slot.mark (t : Slot) (d : Dest) (b : Bool) : Slot :=
  match d with
  | .none => t
  | .reg p => { t with pendW := putBits t.pendW p (b1 b) }
  | .vec v => { t with pendV := putBits t.pendV v (b1 b) }
def Slot.markF (t : Slot) (f : Option (BitVec 3)) (b : Bool) : Slot :=
  match f with
  | none => t
  | some i => { t with pendF := putBits t.pendF i.toNat (b1 b) }

/-- Is no scoreboard bit set? -/
def Slot.noPending (t : Slot) : Bool := t.pendW == 0 && t.pendV == 0 && t.pendF == 0

/-! ### Special core facts -/

/-- The die's remap entry of a logical quad; as made, row q div 16 and column q mod 16 (R13, R14). -/
def Die.remapOf (d : Die) (q : Nat) : BitVec 16 :=
  d.remap.get ((1 : BitVec 1) ++ (0 : BitVec 6) ++ BitVec.ofNat 5 (q % 16) ++ BitVec.ofNat 4 (q / 16)) q
def Die.quadValid (d : Die) (q : Nat) : Bool := (d.remapOf q).getLsbD 15
/-- Is the core its die's supervisor core (R135)? -/
def State.isSup (s : State) (c : Nat) : Bool :=
  (s.die (peerOf (quadOf c))).supRun && (s.die (peerOf (quadOf c))).supcore == BitVec.ofNat 64 c
/-- The other core of a lock-step pair. -/
def pairOf (c : Nat) : Nat := if c % 2 = 0 then c + 1 else c - 1

/-! ### Memory words at their home (R16, R164, R446) -/

/-- Is the 64-bit word at a physical address full? -/
def State.fullAt (s : State) (a : Nat) : Bool := !s.empty.mem (a / 8 * 8)
def State.poisonAt (s : State) (a : Nat) : Bool := s.poison.mem (a / 8 * 8)
def State.setFull (s : State) (a : Nat) (b : Bool) : State := { s with empty := s.empty.put (a / 8 * 8) (!b) }
def State.setPoison (s : State) (a : Nat) (b : Bool) : State := { s with poison := s.poison.put (a / 8 * 8) b }
def State.memRead (s : State) (a n : Nat) : BitVec (8 * n) := s.mem.readN a n
def State.memWrite {w : Nat} (s : State) (a n : Nat) (v : BitVec w) : State := { s with mem := s.mem.writeN a n v }
/-- A 64-bit word of memory. -/
def State.word (s : State) (a : Nat) : Word := s.mem.readN a 8

/-- A line as its home's memory holds it: data, full/empty and poison bits. -/
def State.homeLine (s : State) (l : Nat) : BitVec 2048 × BitVec 32 × BitVec 32 :=
  (s.mem.readN (l * 256) 256,
   (List.range 32).foldl (fun x i => if s.fullAt (l * 256 + 8 * i) then x ||| (1 <<< i) else x) 0,
   (List.range 32).foldl (fun x i => if s.poisonAt (l * 256 + 8 * i) then x ||| (1 <<< i) else x) 0)

/-- The sectors of a line that a mask selects written to memory, with their words' bits (R162, R164). -/
def State.writeSectors (s : State) (l : Nat) (sectors : BitVec 2) (data : BitVec 2048) (full poison : BitVec 32) : State :=
  (List.range 2).foldl (fun s j =>
    if sectors.getLsbD j then
      let s := s.memWrite (l * 256 + 128 * j) 128 (data >>> (1024 * j))
      (List.range 16).foldl (fun s i =>
        (s.setFull (l * 256 + 128 * j + 8 * i) (full.getLsbD (16 * j + i))).setPoison (l * 256 + 128 * j + 8 * i)
          (poison.getLsbD (16 * j + i))) s
    else s) s

/-! ### Stash (R147, R156, R158) -/

/-- The key of a byte of a core's stash. -/
def stashKey (c off : Nat) : Nat := c * 2 ^ 18 + off

/-- Where a local address lands: a stash byte of the quad (core address and offset), one of the read-only pages, or
nowhere (R147). -/
inductive LocalPlace where
  | stash (core off : Nat)
  | page (n off : Nat)
  | nowhere
deriving DecidableEq, Repr

/-- The place of a local address seen from core c (R147). -/
def localPlace (c : Nat) (a : Word) : LocalPlace :=
  let o := (a - 0x8000_0000_0000_0000).toNat
  if o < 0x4_0000 then .stash c o
  else if 0x10_0000 ≤ o ∧ o < 0x20_0000 then .stash (c / 4 * 4 + (o - 0x10_0000) / 0x4_0000) ((o - 0x10_0000) % 0x4_0000)
  else if 0x20_0000 ≤ o ∧ o < 0x20_3000 then .page ((o - 0x20_0000) / 0x1000) (o % 0x1000)
  else .nowhere

/-- The region of a core's stash that an offset lies in (R156). -/
def State.region (s : State) (c i : Nat) : Region := (s.core c).crew.regions.get {} i
def State.modRegion (s : State) (c i : Nat) (f : Region → Region) : State :=
  s.modCrew c fun x => { x with regions := x.regions.set i (f (x.regions.get {} i)) }

/-- The region of core c bound to a global virtual address of its job, with the stash offset it has there (R158). -/
def State.boundAt (s : State) (c : Nat) (va : Word) : Option (Nat × Nat) :=
  match (List.range 8).find? fun i =>
      let r := s.region c i
      r.bound && r.base.toNat / 0x8000 == (bits va 0 57 : BitVec 57).toNat / 0x8000 with
  | some i => some (i, i * 0x8000 + (bits va 0 57 : BitVec 57).toNat % 0x8000)
  | none => none

def State.stashRead (s : State) (c off n : Nat) : BitVec (8 * n) := s.stash.readN (stashKey c off) n
def State.stashWrite {w : Nat} (s : State) (c off n : Nat) (v : BitVec w) : State :=
  { s with stash := s.stash.writeN (stashKey c off) n v }
def State.stashFull (s : State) (c off : Nat) : Bool := !s.stashEmpty.mem (stashKey c (off / 8 * 8))
def State.setStashFull (s : State) (c off : Nat) (b : Bool) : State :=
  { s with stashEmpty := s.stashEmpty.put (stashKey c (off / 8 * 8)) (!b) }

/-- Is one of the words of n stash bytes poisoned? Only words of a bound region are, as their line was (R158, R446). -/
def State.stashPoisoned (s : State) (c off n : Nat) : Bool :=
  s.stashPoison != [] && (List.range ((off % 8 + n + 7) / 8)).any fun i => s.stashPoison.mem (stashKey c (off / 8 * 8 + 8 * i))
def State.setStashPoison (s : State) (c off : Nat) (b : Bool) : State :=
  { s with stashPoison := s.stashPoison.put (stashKey c (off / 8 * 8)) b }
/-- The whole words that n stash bytes cover lose their poison (R446). -/
def State.stashCure (s : State) (c off n : Nat) : State :=
  if s.stashPoison = [] then s
  else (List.range (n / 8)).foldl (fun s i => if (off + 7) / 8 * 8 + 8 * i + 8 ≤ off + n then s.setStashPoison c ((off + 7) / 8 * 8 + 8 * i) false else s) s
/-- The poison of a stash, or of its bytes from a to b, forgotten. -/
def State.dropStashPoison (s : State) (c a b : Nat) : State :=
  { s with stashPoison := s.stashPoison.filter fun x => !(stashKey c a ≤ x && x < stashKey c b) }

/-! ### Peers and partitions (R39, R40) -/

/-- Why an interface refuses to send (R40): the trap cause. A package that no path reaches is treated as disabled (R38). -/
def State.peerRefuses (s : State) (peer : Nat) (job : BitVec 12) (dst : Nat) : Option (BitVec 8) :=
  let d := s.die peer
  if d.peerState.get 0 dst ≠ 1 then some 0x0A
  else if dst ≠ hostPeer ∧ dst / 4 ≠ peer / 4 ∧ ¬((s.pkg (peer / 4)).routes.get 63 (dst / 4)).getLsbD 7 then some 0x0A
  else
    let part := d.jobPart.get 0 job.toNat
    if (d.partMap.get 0 (part.toNat * 128 + dst / 64)).getLsbD (dst % 64) then none else some 0x0B

/-- The partition map bit of a job for a peer, in a die's tables (R39). -/
def State.inPart (s : State) (die : Nat) (job : BitVec 12) (peer : Nat) : Bool :=
  ((s.die die).partMap.get 0 (((s.die die).jobPart.get 0 job.toNat).toNat * 128 + peer / 64)).getLsbD (peer % 64)

/-- Is a job admitted at a die: its own partition map has the die's bit (R39, R41)? -/
def State.admitted (s : State) (peer : Nat) (job : BitVec 12) : Bool := s.inPart peer job peer

/-- The poison value of a refused or poisoned load (R40, R446). -/
def poisonWord : Word := 0xBAD0_BAD0_BAD0_BAD0

/-! ### Coherence inside a quad, and the one-step access of an agent at a home (R160, R162, R167; log entry 11) -/

def State.line (s : State) (q l : Nat) : Option Line := (s.quad q).lines.find l
def State.setLine (s : State) (q l : Nat) (x : Line) : State := s.modQuad q fun y => { y with lines := y.lines.set l x }
def State.dropLine (s : State) (q l : Nat) : State := s.modQuad q fun y => { y with lines := y.lines.erase l }

/-- The full/empty bits of 16 stash words from an offset on. -/
def State.stashBits (s : State) (c off : Nat) : BitVec 16 :=
  (List.range 16).foldl (fun x i => if s.stashFull c (off + 8 * i) then x ||| (1 <<< i) else x) 0

/-- The poison of 16 stash words from an offset on. -/
def State.stashPoisonBits (s : State) (c off : Nat) : BitVec 16 :=
  (List.range 16).foldl (fun x i => if s.stashPoisoned c (off + 8 * i) 8 then x ||| (1 <<< i) else x) 0

/-- Dirty sectors of line l in core c's bound region i come back to the quad cache; a line homed beyond the die, or one
the cache no longer holds, goes to its home in the same step (R160, R172; log entry 11). -/
def State.pullRegionLine (s : State) (c i l : Nat) (keep : Bool) : State :=
  let r := s.region c i
  let j := l - r.pa / 256
  let off := i * 0x8000 + 256 * j
  let s := (List.range 2).foldl (fun s h =>
    if r.dirty.getLsbD (2 * j + h) then
      let d : BitVec 1024 := (s.stashRead c (off + 128 * h) 128).setWidth 1024
      let fe := s.stashBits c (off + 128 * h)
      let po := s.stashPoisonBits c (off + 128 * h)
      match s.line (quadOf c) l with
      | some x =>
        let x := { x with data := putBits x.data (1024 * h) d, full := putBits x.full (16 * h) fe,
                          poison := putBits x.poison (16 * h) po }
        if x.state = .owned then s.setLine (quadOf c) l { x with dirty := x.dirty ||| (1 <<< h) }
        else (s.setLine (quadOf c) l x).writeSectors l (1 <<< h) x.data x.full x.poison
      | none => s.writeSectors l (1 <<< h) (d.setWidth 2048 <<< (1024 * h)) (fe.setWidth 32 <<< (16 * h)) (po.setWidth 32 <<< (16 * h))
    else s) s
  s.modRegion c i fun r =>
    { r with dirty := r.dirty &&& ~~~((3 : BitVec 256) <<< (2 * j)),
             valid := if keep then r.valid else r.valid &&& ~~~((1 : BitVec 128) <<< j) }

/-- Does core c's region i hold line l? -/
def State.regionHolds (s : State) (c i l : Nat) : Bool :=
  let r := s.region c i
  r.bound && r.pa / 256 ≤ l && l < r.pa / 256 + 128 && r.valid.getLsbD (l - r.pa / 256)

/-- Every bound region line of quad q that holds line l is recalled into the quad cache (R160, R162). `keep` leaves the
lines valid. -/
def State.pullQuadLine (s : State) (q l : Nat) (keep : Bool) : State :=
  (List.range 4).foldl (fun s c => (List.range 8).foldl (fun s i =>
    if s.regionHolds (q * 4 + c) i l then s.pullRegionLine (q * 4 + c) i l keep else s) s) s

/-- The quads of a die that hold a line. -/
def State.holders (s : State) (peer l : Nat) : List Nat :=
  (s.quads.filter fun e => e.1 / 256 == peer && e.2.lines.has l).map (·.1)

def State.dirEntry (s : State) (l : Nat) : Option DirEntry := (s.die (paPeer (l * 256))).dir.find l

/-- The line that a message of a transaction in progress is about; none for a request (R167). -/
def CohMsg.inTransaction : CohMsg → Option Nat
  | .read _ _ | .write _ _ => none
  | .inval _ l | .recall _ l _ | .ack _ l | .grant _ l | .notice _ l => some l

/-- The quad and line of a grant on its way. -/
def CohMsg.granted : CohMsg → Option (Nat × Nat)
  | .grant q l => some (q, l)
  | _ => none

/-- Does the home take the next request for a line: no transaction awaits acknowledgements, and no grant is still on its way to the writer (R167)? -/
def State.lineIdle (s : State) (l : Nat) : Bool :=
  (match s.dirEntry l with
   | some e => !e.busy
   | none => true) && !(s.die (paPeer (l * 256))).coh.any fun m => (m.granted.map (·.2)) == some l

/-- Is no message of the line's own on its way? -/
def State.lineFree (s : State) (l : Nat) : Bool :=
  s.lineIdle l && !(s.die (paPeer (l * 256))).coh.any fun m => m.inTransaction == some l

/-- The directory entry that names the quads of a die that hold a line (R166). -/
def State.heldEntry (s : State) (l : Nat) : Option DirEntry :=
  let hs := s.holders (paPeer (l * 256)) l
  match hs.find? fun q => (s.line q l).any (·.state == .owned) with
  | some q => some { owned := true, ptrs := [(0, BitVec.ofNat 8 q)] }
  | none =>
    if hs = [] then none
    else if hs.length ≤ 4 then some { ptrs := (hs.zipIdx).map fun x => (x.2, BitVec.ofNat 8 x.1) }
    else some { coarse := true, groups := hs.foldl (fun g q => g ||| (1 <<< (quadNo q / 8))) 0 }

/-- A line's transaction in progress put back to its request, which its home takes again later: the messages on their way go, the entry names the quads
that hold the line. For an access by an agent in one step (log entry 11). -/
def State.settleLine (s : State) (l : Nat) : State :=
  if s.lineFree l then s
  else
    let peer := paPeer (l * 256)
    let ask := fun (q : Nat) (w : Bool) => if w then CohMsg.write q l else CohMsg.read q l
    let again : List CohMsg := (match s.dirEntry l with
      | some e => if e.busy then (e.req.map fun r => ask r.1 r.2).toList else []
      | none => []) ++ ((s.die peer).coh.filterMap CohMsg.granted).filterMap fun g => if g.2 = l then some (ask g.1 true) else none
    let s := { s with quads := s.quads.mapV fun q x => if peerOf q = peer then { x with notices := x.notices.remove l } else x }
    let e := s.heldEntry l
    s.modDie peer fun d =>
      { d with
        coh := (d.coh.filter fun m => m.inTransaction != some l && !again.contains m) ++ again,
        dir := match e with
          | some e => d.dir.set l e
          | none => d.dir.erase l }

/-- An owner's dirty sectors written to the home, every copy of the die clean and shared (R69, R162, R167 read). -/
def State.homeClean (s : State) (l : Nat) : State :=
  ((s.settleLine l).holders (paPeer (l * 256)) l).foldl (fun s q =>
    let s := s.pullQuadLine q l false
    match s.line q l with
    | some x => if x.state = .owned then
        ((s.writeSectors l x.dirty x.data x.full x.poison).setLine q l { x with state := .shared, dirty := 0 }).modDie
          (paPeer (l * 256)) fun d => { d with dir := d.dir.set l { ptrs := [(0, BitVec.ofNat 8 q)] } }
      else s
    | none => s) (s.settleLine l)

/-- An owner's dirty sectors written to the home, then every copy of the die gone (R162, R165, R167 write). -/
def State.homeObtain (s : State) (l : Nat) : State :=
  let s := s.settleLine l
  let s := (s.holders (paPeer (l * 256)) l).foldl (fun s q =>
    let s := s.pullQuadLine q l false
    match s.line q l with
    | some x => (if x.state = .owned then s.writeSectors l x.dirty x.data x.full x.poison else s).dropLine q l
    | none => s) s
  s.modDie (paPeer (l * 256)) fun d => { d with dir := d.dir.erase l }

/-- The dirty bits of line l's two sectors in core c's region i. -/
def State.regionDirty (s : State) (c i l : Nat) : BitVec 2 := bits (s.region c i).dirty (2 * (l - (s.region c i).pa / 256)) 2

/-- Why an agent of a die may not reach an address for a job, in one step: at its source (R17, R40) or at its home, where the job is not
admitted (R41; log entry 11). -/
def State.refusedAt (s : State) (peer : Nat) (job : BitVec 12) (pa : Nat) : Option (BitVec 8) :=
  let lost : Bool := paPeer pa != hostPeer && !(s.die (paPeer pa)).quadValid (sliceOf (paOff pa) / 2)
  if paPeer pa = peer then (if lost then some 0x0A else none)
  else match s.peerRefuses peer job (paPeer pa) with
    | some c => some c
    | none => if lost then some 0x0A else if paPeer pa = hostPeer ∨ s.admitted (paPeer pa) job then none else some 0x0B

/-- The stash bytes that an address names: a local address, or one in the range of a bound region (R147, R158). -/
def State.stashOf (s : State) (c : Nat) (va : Word) : Option (Nat × Nat) :=
  if va.getLsbD 63 then
    match localPlace c va with
    | .stash c' off => some (c', off)
    | _ => none
  else (s.boundAt c va).map fun x => (c, x.2)

/-- Every byte range of a thread's operations changed. -/
def Slot.mapParts (t : Slot) (f : Part → Part) : Slot :=
  { t with ops := t.ops.map fun o => { o with parts := o.parts.map f } }

/-- The dirty sectors of line l in core c's region i go nowhere, since their home refuses the job: the stores of the quad's threads that wait for them are
dropped with the cause (R40, R189). -/
def State.dropSectors (s : State) (c i l : Nat) (cause : BitVec 8) : State :=
  let d := s.regionDirty c i l
  let off := i * 0x8000 + 256 * (l - (s.region c i).pa / 256)
  let mine := fun (k : Nat) (p : Part) => p.phase == .written && (s.stashOf (coreOf k) p.va).any fun x =>
    x.1 == c && x.2 / 256 == off / 256 && d.getLsbD (x.2 % 256 / 128)
  let cut := fun (k : Nat) (p : Part) => if mine k p then { p with phase := .dropped cause (paPeer (l * 256)) } else p
  let s := { s with slots := s.slots.map fun (e : Nat × Slot) => if quadOf (coreOf e.1) = quadOf c then (e.1, e.2.mapParts (cut e.1)) else e }
  s.modRegion c i fun r => { r with dirty := r.dirty &&& ~~~((3 : BitVec 256) <<< (2 * (l - r.pa / 256))) }

/-- A region's line comes back (R160, R172). Before dirty sectors go to a home on another die, that home gives up its copies; those for a peer that
refuses the crew's job are dropped (R40; log entry 51). -/
def State.pullRegion (s : State) (c i l : Nat) (keep : Bool) : State :=
  let peer := peerOf (quadOf c)
  if s.regionDirty c i l = 0 then s.pullRegionLine c i l keep
  else match s.refusedAt peer (s.core c).crew.bind.job (l * 256) with
    | some cause => (s.dropSectors c i l cause).pullRegionLine c i l keep
    | none => if paPeer (l * 256) = peer then s.pullRegionLine c i l keep else (s.homeObtain l).pullRegionLine c i l keep

/-- Every bound region's line of quad q that holds line l is recalled, wherever the line's home is (R160, R162, R172); `except` names the regions
that are left alone. -/
def State.pullLine (s : State) (q l : Nat) (keep : Bool) (except : List (Nat × Nat) := []) : State :=
  (List.range 4).foldl (fun s c => (List.range 8).foldl (fun s i =>
    if !except.contains (q * 4 + c, i) ∧ s.regionHolds (q * 4 + c) i l then s.pullRegion (q * 4 + c) i l keep else s) s) s

/-- The lines that n bytes from address a touch. -/
def linesOf (a n : Nat) : List Nat := (List.range ((a % 256 + n + 255) / 256)).map (a / 256 + ·)

/-- An agent reads n bytes at their homes: owners are cleaned first (R69; log entry 11). -/
def State.agentClean (s : State) (a n : Nat) : State := (linesOf a n).foldl (fun s l => s.homeClean l) s
/-- The same before a write: every copy of the lines on their die goes. -/
def State.agentObtain (s : State) (a n : Nat) : State := (linesOf a n).foldl (fun s l => s.homeObtain l) s
/-- The whole words that n bytes from a cover lose their poison (R446). -/
def State.unpoison (s : State) (a n : Nat) : State :=
  (List.range (n / 8)).foldl (fun s i => s.setPoison ((a + 7) / 8 * 8 + 8 * i)
    (if (a + 7) / 8 * 8 + 8 * i + 8 ≤ a + n then false else s.poisonAt ((a + 7) / 8 * 8 + 8 * i))) s
/-- An agent writes n bytes at their homes (R167 write, R446; log entry 11). -/
def State.agentWrite {w : Nat} (s : State) (a n : Nat) (v : BitVec w) : State :=
  ((s.agentObtain a n).memWrite a n v).unpoison a n
/-- A 64-bit word as the home would answer it now: the owner's copy where one is dirty. -/
def State.agentWord (s : State) (a : Nat) : Word := (s.homeClean (a / 256)).word a

/-- Does a per-die offset have a home (R163)? -/
def hasHome (peer off : Nat) : Bool := off < dramEnd || peer == hostPeer

/-! ### Translation (R150 to R152) -/

/-- A leaf found by a walk (R151): physical page, page size in bits and its fields. -/
structure Leaf where
  frame : Nat
  shift : Nat
  x : Bool
  w : Bool
  nc : Bool
  geo : BitVec 2
  fmt : BitVec 6
deriving DecidableEq, Repr

/-- The kinds of translation fault, by their codes (R152). -/
inductive FaultKind where
  | invalid | permission | malformed | nomem
deriving DecidableEq, Repr

def FaultKind.code : FaultKind → Word
  | .invalid => 1 | .permission => 2 | .malformed => 3 | .nomem => 4

/-- The five levels (R150): lowest index bit, index width, whether a leaf may stand there, whether a table may. -/
def levels : List (Nat × Nat × Bool × Bool) :=
  [(48, 9, false, true), (39, 9, false, true), (30, 9, true, true), (21, 9, true, true), (16, 5, true, false)]

/-- The conditions of a leaf once its entry is well formed (R152, step 4): NOMEM, then PERMISSION. -/
def leafCheck (s : State) (peer : Nat) (l : Leaf) (write fetch : Bool) : Except FaultKind Leaf :=
  let p := paPeer l.frame
  if (p ≠ hostPeer ∧ dramEnd ≤ paOff l.frame) ∨ (s.die peer).peerState.get 0 p ≠ 1 then .error .nomem
  else if (write ∧ ¬l.w) ∨ (fetch ∧ ¬l.x) then .error .permission
  else .ok l

/-- The walk from a table on (R151, R152), over the levels left. -/
def walkFrom (s : State) (peer : Nat) (va : Word) (write fetch : Bool) :
    List (Nat × Nat × Bool × Bool) → Nat → Except FaultKind Leaf
  | [], _ => .error .malformed
  | (lo, w, leafOk, tableOk) :: ls, table =>
    let e := s.agentWord (table + 8 * (va.toNat / 2 ^ lo % 2 ^ w))
    if !e.getLsbD 0 then .error .invalid
    else if e.getLsbD 1 then
      let frame := (bits e 16 41 : BitVec 41).toNat * 2 ^ 16
      if !leafOk || (bits e 57 7 : BitVec 7) ≠ 0 || (bits e 12 3 : BitVec 3) ≠ 0 || (bits e 4 2 : BitVec 2) = 3 ||
          frame % 2 ^ lo ≠ 0 then .error .malformed
      else leafCheck s peer { frame := frame, shift := lo, x := e.getLsbD 15, w := e.getLsbD 2, nc := e.getLsbD 3,
                              geo := bits e 4 2, fmt := bits e 6 6 } write fetch
    else if !tableOk || (bits e 57 7 : BitVec 7) ≠ 0 || (bits e 2 10 : BitVec 10) ≠ 0 then .error .malformed
    else walkFrom s peer va write fetch ls ((bits e 12 45 : BitVec 45).toNat * 2 ^ 12)

/-- A walk of a job's tables by an agent of a die (R150, R152). A poisoned entry's data is used as it stands (DESIGN CHOICE, log entry 50). -/
def walk (s : State) (peer : Nat) (job : BitVec 12) (va : Word) (write fetch : Bool) : Except FaultKind Leaf :=
  let root := (s.die peer).jroot.get 0 job.toNat
  if (bits va 57 6 : BitVec 6) ≠ 0 then .error .malformed
  else if !root.getLsbD 0 then .error .invalid
  else if (bits root 57 7 : BitVec 7) ≠ 0 || (bits root 1 11 : BitVec 11) ≠ 0 then .error .malformed
  else walkFrom s peer va write fetch levels ((bits root 12 45 : BitVec 45).toNat * 2 ^ 12)

/-- The physical address of a virtual one on its page. -/
def Leaf.pa (l : Leaf) (va : Word) : Nat := l.frame + va.toNat % 2 ^ l.shift

/-! ### Words and messages -/

/-- The eight dwords of a trap message (R139), without its message sequence. -/
def trapMessage (s : State) (k : Nat) (t : Trap) (pc : Word) (sn : BitVec 32) : Message :=
  let q := quadOf (coreOf k)
  [ (0 : BitVec 20) ++ (s.slot k).job ++ (0 : BitVec 9) ++ BitVec.ofNat 2 (peerOf q) ++ BitVec.ofNat 8 q ++
      BitVec.ofNat 2 (coreOf k) ++ BitVec.ofNat 3 (slotOf k) ++ t.cause,
    pc, t.addr,
    (0 : BitVec 28) ++ b1 t.entry.isSome ++ (t.entry.getD 0) ++ t.seq ++ (0 : BitVec 10) ++ t.mask ++ t.stream,
    zx sn, t.detail, 0, 0 ]

/-- A message's eight dwords stored from a physical address on. -/
def State.storeDwords (s : State) (a : Nat) : List Word → State
  | [] => s
  | w :: ws => (s.agentWrite a 8 w).storeDwords (a + 8) ws

/-- A slot's event latch set; a WFE that waits for it is taken up again by STREAM_RELEASE (R127, R315). -/
def Slot.rung (t : Slot) : Slot :=
  { t with latch := true, ops := t.ops.map fun o => if o.kind == .wfe && o.phase == .waiting then { o with phase := .held } else o }

/-- A message written into the die's ring (R140): the ring slot, then TMCNT, then the event latch of slot 0 of the
supervisor core. -/
def State.writeRing (s : State) (peer : Nat) (m : Message) : State :=
  let d := s.die peer
  let s := s.storeDwords (paOf peer (d.tmbase.toNat + 64 * (d.tmcnt.toNat % 4096))) m
  let s := s.modDie peer fun d => { d with tmcnt := d.tmcnt + 1 }
  s.modSlot (d.supcore.toNat * 8) (·.rung)

/-- Post a message: into the ring, or held while the ring holds 4,096 unread messages (R140). -/
def State.post (s : State) (peer : Nat) (m : Message) : State :=
  let d := s.die peer
  let s := s.modDie peer fun d => { d with msgSeq := d.msgSeq + 1 }
  if d.heldPosts = [] ∧ (d.tmcnt - d.tmrd).toNat < 4096 then s.writeRing peer m
  else s.modDie peer fun d => { d with heldPosts := d.heldPosts ++ [m] }

/-! ### Slot contexts (R138, R141) -/

/-- The four dwords of a replay-queue entry (R141): the register code is the instruction's own, in its bits [31:27], where it has a destination. -/
def replayEntry (o : Op) : List Word :=
  let code : BitVec 5 := match o.dest with
    | .reg _ => bits o.word 27 5
    | _ => 0
  [ b1 true ++ (0 : BitVec 9) ++ o.mask ++ o.stream ++ o.seq ++ o.word,
    o.a, (match o.kind with | .atom 9 => o.t | .atom _ | .cflush | .cinv => o.b | _ => o.t), zx code ]

/-- The parked operations, oldest first: the replay queue (R141). -/
def Slot.replayQueue (t : Slot) : List Op := t.ops.filter (·.phase == .parked)

/-- A loop level's two dwords (R138). -/
def loopDwords : Option Loop → List Word
  | none => [0, 0]
  | some l => [l.start, b1 true ++ l.depth ++ (bits (l.stop - l.start) 1 15 : BitVec 15) ++ (bits l.count 0 32 : BitVec 32)]

/-- Dword j of a thread's context (R138), with the frame PC, header dword 1 and faulting address given. -/
def contextDword (t : Slot) (pc hdr addr : Word) (j : Nat) : Word :=
  if j = 0 then pc
  else if j = 1 then hdr
  else if j = 2 then addr
  else if j = 3 then (0 : BitVec 42) ++ t.fsf ++ (0 : BitVec 6) ++ t.fcr ++ t.flags
  else if j = 4 then zx t.wto
  else if j = 5 then t.ssp
  else if j = 6 then (0 : BitVec 44) ++ t.resident ++ t.wdepth
  else if j < 8 then 0
  else if j < 12 then ((loopDwords t.loops[0]? ++ loopDwords t.loops[1]?)[j - 8]?).getD 0
  else if j < 14 then t.k (4 * (j - 12) + 3) ++ t.k (4 * (j - 12) + 2) ++ t.k (4 * (j - 12) + 1) ++ t.k (4 * (j - 12))
  else if j < 16 then 0
  else if j < 24 then
    let i := (j - 16) / 2
    if (j - 16) % 2 = 0 then
      (0 : BitVec 16) ++ t.front i ++ (t.stream i).next ++ (0 : BitVec 13) ++ (t.stream i).scope
    else BitVec.ofNat 64 ((t.ops.filter fun o => o.stream.toNat == i).length)
  else if j < 32 then t.w (16 + (j - 24))
  else if j < 151 then
    let f := (j - 32) / 17
    let i := (j - 32) % 17
    let e := t.wdepth.toNat - f
    if f < t.resident.toNat then (if i = 0 then t.links.get 0 e else t.phys.get 0 ((16 * e + (i - 1)) % 120)) else 0
  else if j < 152 then 0
  else if j < 280 then bits (t.v ((j - 152) / 8)) (64 * ((j - 152) % 8)) 64
  else if j < 312 then (((t.replayQueue[(j - 280) / 4]?).map replayEntry).getD [])[(j - 280) % 4]?.getD 0
  else if j = 312 then bits t.pendW 0 64
  else if j = 313 then (bits t.pendW 64 56 : BitVec 56).setWidth 64
  else if j = 314 then (0 : BitVec 40) ++ t.pendF ++ t.pendV
  else 0

/-- A context as its 320 dwords. -/
def contextOf (t : Slot) (pc hdr addr : Word) : NMap Word :=
  (List.range 320).map fun j => (j, contextDword t pc hdr addr j)

/-- A loop level read back from its two dwords (R138). -/
def loopOf (a b : Word) : Option Loop :=
  if b.getLsbD 63 then
    some { start := a, stop := a + zx ((bits b 32 15 : BitVec 15).setWidth 16 <<< 1 : BitVec 16), count := zx (bits b 0 32 : BitVec 32), depth := bits b 47 16 }
  else none

/-- A thread with the registers a context holds (R138): the return from a trap reads them back (R137, R284). What a
context has no place for stays as the slot held it. -/
def Slot.reload (t : Slot) (g : Nat → Word) : Slot :=
  let wd : BitVec 16 := bits (g 6) 0 16
  let t := { t with
    pc := g 0, flags := bits (g 3) 0 8, fcr := bits (g 3) 8 2, fsf := bits (g 3) 16 6, wto := bits (g 4) 0 40,
    ssp := g 5, wdepth := wd, resident := bits (g 6) 16 4,
    loops := (loopOf (g 8) (g 9)).toList ++ (loopOf (g 10) (g 11)).toList,
    kregs := ((List.range 8).drop 1).map fun i => (i, bits (g (12 + i / 4)) (16 * (i % 4)) 16),
    streams := (List.range 4).map fun i =>
      (i, { scope := bits (g (16 + 2 * i)) 0 3, next := bits (g (16 + 2 * i)) 16 16 }),
    vregs := (List.range 16).map fun i =>
      (i, (List.range 8).foldl (fun x m => x ||| ((g (152 + 8 * i + m)).setWidth 512 <<< (64 * m))) 0),
    pendW := ((bits (g 313) 0 56 : BitVec 56) ++ g 312), pendV := bits (g 314) 0 16, pendF := bits (g 314) 16 8 }
  let t := (List.range 8).foldl (fun t i => t.setW (16 + i) (g (24 + i))) t
  (List.range t.resident.toNat).foldl (fun t f =>
    let e := wd.toNat - f
    { t with links := t.links.set e (g (32 + 17 * f)),
             phys := (List.range 16).foldl (fun m i => m.set ((16 * e + i) % 120) (g (33 + 17 * f + i))) t.phys }) t

/-! ### Taking a trap and returning from one (R135 to R140) -/

/-- Park a slot with a trap (R137): the frame written to its context with the frame PC, the slot in PARK. -/
def Slot.park (t : Slot) (tr : Trap) (pc : Word) (sn : BitVec 32) : Slot :=
  { t with
    st := .park, hold := .none, waited := 0
    frame := contextOf t pc (sn ++ tr.seq ++ (0 : BitVec 6) ++ tr.stream ++ tr.cause) tr.addr }

/-- The odd core of a lock-step pair leaves the message to the even core (R137). -/
def State.posts (s : State) (k : Nat) : Bool := !((s.core (coreOf k)).crew.bind.lockstep && coreOf k % 2 == 1)

/-- A message about a thread, whether or not it parks (R139, R140). -/
def State.postTrap (s : State) (k : Nat) (tr : Trap) (pc : Word) : State :=
  let peer := peerOfSlot k
  if s.posts k then s.post peer (trapMessage s k tr pc (s.die peer).msgSeq) else s

/-- A trap in a thread of the supervisor core is reported to Slate, which takes it as a missed heartbeat (R75, R135). -/
def State.alarm (s : State) (k : Nat) : State :=
  if s.isSup (coreOf k) then { s with agenda := .event .heartbeatMissed { a := peerOfSlot k } :: s.agenda } else s

/-- A message of a cause that leaves no frame PC (R136: 0x0C and 0x10): the manual gives its PC dword no value (log entry 4). -/
def State.postNoPc (s : State) (k : Nat) (tr : Trap) : State := (s.postTrap k tr s.openValue).useOpen.alarm k

/-- Taking a trap (R137): the thread of slot k stops in PARK with the frame PC given, its frame written, the message
posted; on a supervisor core Slate takes it as a missed heartbeat (R135). -/
def State.takeTrap (s : State) (k : Nat) (tr : Trap) (pc : Word) : State :=
  let peer := peerOfSlot k
  let sn := (s.die peer).msgSeq
  ((s.modSlot k (·.park tr pc sn)).postTrap k tr pc).alarm k

/-- The current thread traps at its instruction, which is not performed (R136). -/
def State.trapHere (s : State) (cause : BitVec 8) (addr : Word := 0) (detail : Word := 0) : State :=
  s.takeTrap s.cur { cause := cause, addr := addr, detail := detail } s.me.pc

/-- The illegal-instruction trap: cause 0x01, the instruction word in the detail dword (R256). -/
def State.illegal (s : State) (i : Instr) : State := s.trapHere 0x01 0 (zx (encode i))

/-- The slots that run as one: a slot of a lock-step pair's even core with the odd core's, any other alone (R143). -/
def State.twins (s : State) (k : Nat) : List Nat :=
  if (s.core (coreOf k)).crew.bind.lockstep && coreOf k % 2 == 0 then [k, k + 8] else [k]

/-- A trap to be taken at a thread's next instruction boundary (R40): kept with the thread; a thread in EXITING has no
boundary left, so only its message goes out. A lock-step pair takes it together (R143). -/
def State.trapLater (s : State) (k : Nat) (tr : Trap) : State :=
  (s.twins k).foldl (fun s k => match (s.slot k).st with
    | .exiting => s.postTrap k tr (s.slot k).pc
    | .free => s
    | _ => s.modSlot k fun t => { t with trapNext := t.trapNext ++ [tr] }) s

/-! ### Completing an instruction (R113, R129) -/

/-- The loop unit after an instruction whose next address is `nxt` (R129): the PC to go on at, and the levels left. -/
def loopStep (wd : BitVec 16) (nxt : Word) (loops : List Loop) : Word × List Loop :=
  match loops with
  | [] => (nxt, [])
  | [o] =>
    if o.depth = wd ∧ o.stop = nxt then
      (if 1 < o.count.toNat then (o.start, [{ o with count := o.count - 1 }]) else (nxt, []))
    else (nxt, [o])
  | o :: i :: r =>
    if i.depth = wd ∧ i.stop = nxt then
      if 1 < i.count.toNat then (i.start, o :: { i with count := i.count - 1 } :: r)
      else if o.depth = wd ∧ o.stop = nxt then
        (if 1 < o.count.toNat then (o.start, [{ o with count := o.count - 1 }]) else (nxt, []))
      else (nxt, [o])
    else (nxt, o :: i :: r)

/-- A thread goes on after an instruction of n bytes that is no taken branch (R129, R232). -/
def Slot.advance (t : Slot) (n : Nat) : Slot :=
  let r := loopStep t.wdepth (t.pc + BitVec.ofNat 64 n) t.loops
  { t with pc := r.1, loops := r.2, st := .run, hold := .none, waited := 0, issued := t.issued + 1 }

/-- The current thread completes its instruction and goes on after it. -/
def State.done (s : State) (i : Instr) : State := s.modMe (·.advance (ilen i))

/-- The current thread cannot issue: it takes WAIT at the instruction (R114, R115). -/
def State.waitHere (s : State) : State := s.modMe fun t => { t with st := .wait, hold := .reissue }

/-- A held thread's instruction has completed: it goes on after it (R114). Every held instruction is 32 bits. -/
def Slot.release (t : Slot) : Slot :=
  match t.st with
  | .wait => { t.advance 4 with issued := t.issued }
  | .frozen => { t.advance 4 with st := .frozen, was := .run, issued := t.issued }
  | _ => t

/-! ### Sticky flags (R210 to R212) -/

/-- One number for the parcel that a thread belongs to: the core that counts it and its launch (R88). -/
def ParcelId.key (p : ParcelId) : Nat := p.home + p.launch * 2 ^ 64

/-- The job virtual address of a job's flag word on a die (R212). -/
def Die.flagWord (d : Die) (job : BitVec 12) : Word := zx (bits (d.jflaga.get 0 job.toNat) 3 54 : BitVec 54) <<< 3

/-- Flags ORed into sr.fsf; newly set bits call for an AOR to the job's flag word where JFLAGA is valid (R211, R212).
The AOR is dropped with a message when its translation faults or its peer is refused, and the thread does not park. Its packet
carries the thread's parcel (R88; log entry 10). -/
def State.orFlags (s : State) (k : Nat) (f : BitVec 6) : State :=
  let t := s.slot k
  let peer := peerOfSlot k
  let new := f &&& ~~~t.fsf
  let s := s.modSlot k fun t => { t with fsf := t.fsf ||| f }
  let a := (s.die peer).jflaga.get 0 t.job.toNat
  let va := (s.die peer).flagWord t.job
  if new ≠ 0 ∧ a.getLsbD 63 ∧ s.posts k then
    match walk s peer t.job va true false with
    | .error e => s.postNoPc k { cause := 0x10, addr := va, detail := e.code }
    | .ok l =>
      let pa := l.pa va
      let refusal := if paPeer pa = hostPeer then some 0x0A else s.peerRefuses peer t.job (paPeer pa)
      match refusal with
      | some c => s.postTrap k { cause := c, addr := va, detail := BitVec.ofNat 64 (paPeer pa) } t.pc
      | none =>
        { s with
          net := s.net ++ [{ pkt := { type := 0x03, job := t.job, fn := 2, operand := zx new, size := 3, tag := 0xFFFF,
                                      payload := BitVec.ofNat 2048 t.par.key, plen := 16,
                                      src := BitVec.ofNat 13 peer, dst := BitVec.ofNat 13 (paPeer pa),
                                      off := BitVec.ofNat 44 (paOff pa), req := BitVec.ofNat 13 (k % 8192) },
                             loc := .source peer }] }
  else s

/-- Return from a trap (R137, R284): the frame read back, the slot in RUN at the frame PC. A sticky flag that only an edit of the frame has set is newly set
here (R211, R212). -/
def State.returnTrap (s : State) (k : Nat) : State :=
  let new : BitVec 6 := bits ((s.slot k).frame.get 0 3) 16 6
  (s.orFlags k new).modSlot k fun t => { t.reload (t.frame.get 0) with st := .run, hold := .none, waited := 0 }

/-- What an edit of a trap frame changes of the thread that it belongs to, so that what completes later completes into the frame as it was edited (R137, R211,
R282): every register; of the sticky flags only those cleared, since one set by the edit is newly set at the return. -/
def Slot.edited (t : Slot) : Slot :=
  let u := t.reload (t.frame.get 0)
  { u with pc := t.pc, fsf := t.fsf &&& u.fsf }

end Sys2Proof.Machine
end

