-- ==== Sys2Proof/Machine/Operands.lean ====
section
/-!
DEFINITION. Machine/Operands.lean: the operand forms and how an instruction issues: legality first (R136, R256), then the
scoreboard (R115), then the effect. A result is written at once, or later by a reply (R114).
-/
namespace Sys2Proof.Machine

/-- The registers an instruction reads or writes (R115). -/
structure Uses where
  regs : List (BitVec 5) := []
  vecs : List Nat := []
  flags : List (BitVec 3) := []

/-- Must the next instruction wait: one of its registers is pending (R115), or an operation found the replay queue's entries taken (R114, R141)? -/
def Slot.busy (t : Slot) (u : Uses) : Bool :=
  u.regs.any t.pendingW || u.vecs.any t.pendingV || u.flags.any t.pendingF || t.ops.any fun o => o.phase == .full

/-- An instruction issues: an illegal one traps, one with a pending register waits, any other has its effect. -/
def State.issue (s : State) (i : Instr) (u : Uses) (f : State → State) : Out :=
  if !wellFormed i then .next (s.illegal i)
  else if s.me.busy u then .next s.waitHere
  else .next (f s)

/-- An instruction that writes one scalar register at once (R257). -/
def State.scalar (s : State) (i : Instr) (d : BitVec 5) (srcs : List (BitVec 5)) (v : Word) : Out :=
  s.issue i { regs := d :: srcs } fun s => (s.wr d v).done i

/-- The same with flags of sr.fsf (R211). -/
def State.scalarF (s : State) (i : Instr) (d : BitVec 5) (srcs : List (BitVec 5)) (r : Word × BitVec 6) : Out :=
  s.issue i { regs := d :: srcs } fun s => ((s.wr d r.1).done i).orFlags s.cur r.2

/-- A variable-latency instruction: the destination stays pending, a reply carries the result (R114, R115). -/
def State.latent (s : State) (i : Instr) (d : BitVec 5) (srcs : List (BitVec 5)) (r : Word × BitVec 6) : Out :=
  s.issue i { regs := d :: srcs } fun s =>
    (s.modMe fun t =>
      { t.mark (t.destOf d) true with
        replies := t.replies ++ [{ dest := t.destOf d, value := r.1.setWidth 512, fsf := r.2 }] }).done i

/-- An instruction that combines a condition into a flag (R261, R274). -/
def State.compare (s : State) (i : Instr) (m : BitVec 2) (f : BitVec 3) (srcs : List (BitVec 5)) (c : Bool) : Out :=
  s.issue i { regs := srcs, flags := [f] } fun s =>
    (s.modMe fun t => t.setF f (combine m (t.f f) c)).done i

/-- An instruction that writes one vector register under a write mask (R335). -/
def State.vector (s : State) (i : Instr) (d : BitVec 4) (vecs : List (BitVec 4)) (v : Vec) (fsf : BitVec 6) : Out :=
  s.issue i { vecs := d.toNat :: vecs.map (·.toNat) } fun s =>
    ((s.modMe (·.setV d.toNat v)).done i).orFlags s.cur fsf

/-- The rounding mode of the thread's scalar operations (R199). -/
def State.rnd (s : State) : Rnd := rndOf s.me.fcr

end Sys2Proof.Machine
end

