-- ==== Sys2Proof/Machine/Mem.lean ====
section
/-!
DEFINITION. Machine/Mem.lean: how one byte range of a thread's operation reaches its bytes: the local address space
(R147, R148), bound regions (R158), TLBs (R153), the quad cache (R161, R162), lines beyond the die (R171), packets
(R33, R42, R55, R56), and what a refusal, a fault or poison does to it (R40, R141, R446).
-/
namespace Sys2Proof.Machine

/-! ### Sending -/

/-- A packet put on its way: to its own die it has arrived, to another it starts at the source interface. -/
def State.send (s : State) (p : Pkt) : State :=
  { s with net := s.net ++ [{ pkt := p, loc := if p.src = p.dst then .arrived p.dst.toNat else .source p.src.toNat }] }

/-- The tag of one byte range of an operation (R33). -/
def tagOf (id lane : Nat) : BitVec 16 := BitVec.ofNat 16 (id % 4095 * 16 + lane % 16)

/-- The header that a thread's operation gives its packets (R33). -/
def opPacket (k : Nat) (job : BitVec 12) (o : Op) (lane : Nat) (type : BitVec 8) (dst off size : Nat) : Pkt :=
  { type := type, scope := o.scope, stream := o.stream, job := job, seq := o.seq, tag := tagOf o.id lane,
    src := BitVec.ofNat 13 (peerOfSlot k), dst := BitVec.ofNat 13 dst, off := BitVec.ofNat 44 off,
    size := BitVec.ofNat 4 size, req := BitVec.ofNat 13 (k % 8192) }

/-! ### TLBs (R153) -/

/-- The translation that a core's micro-TLB or its quad's TLB holds (R153). -/
def State.tlbFind (s : State) (c : Nat) (job : BitVec 12) (va : Word) : Option Leaf :=
  (((s.core c).utlb ++ (s.quad (quadOf c)).tlb).find? fun e => e.job == job && e.page == va.toNat % 2 ^ 57 / 2 ^ e.shift).map
    fun e => { frame := e.frame, shift := e.shift, x := e.x, w := e.w, nc := e.nc, geo := e.geo, fmt := e.fmt }

/-- A translation installed in both TLBs of a core (R153). -/
def State.tlbPut (s : State) (c : Nat) (job : BitVec 12) (va : Word) (l : Leaf) : State :=
  let e : Tlb := { job := job, page := va.toNat % 2 ^ 57 / 2 ^ l.shift, shift := l.shift, frame := l.frame,
                   x := l.x, w := l.w, nc := l.nc, geo := l.geo, fmt := l.fmt }
  (s.modCore c fun x => { x with utlb := (e :: x.utlb).take 32 }).modQuad (quadOf c) fun q =>
    { q with tlb := (e :: q.tlb).take 1024 }

/-- A translation with its permission (R152, R153): from the TLBs, or none where a walk is needed. -/
def State.translate (s : State) (c : Nat) (job : BitVec 12) (va : Word) (write fetch : Bool) : Option (Except FaultKind Leaf) :=
  if (bits va 57 6 : BitVec 6) ≠ 0 then some (.error .malformed)
  else (s.tlbFind c job va).map fun l => if (write ∧ ¬l.w) ∨ (fetch ∧ ¬l.x) then .error .permission else .ok l

/-- The same in one step, with a walk where the TLBs miss: for traffic that completes within its instruction. -/
def State.translateNow (s : State) (c : Nat) (job : BitVec 12) (va : Word) (write : Bool) : Except FaultKind Leaf :=
  match s.translate c job va write false with
  | some r => r
  | none => walk s (peerOf (quadOf c)) job va write false

/-- The size in bits of the page that a walk is for, as the tables have it now; 64 KiB where they map none (R150, R153). -/
def State.walkShift (s : State) (w : Walk) : Nat :=
  match walk s (peerOf w.quad) w.job w.va false false with
  | .ok l => l.shift
  | .error _ => 16

/-- Does a request share a walk: a miss of the same quad and job to the same page (R153)? -/
def State.sharesWalk (s : State) (w v : Walk) : Bool :=
  w.quad == v.quad && w.job == v.job && w.va.toNat / 2 ^ s.walkShift w == v.va.toNat / 2 ^ s.walkShift w

/-- The walks that requests make, each shared one once (R153). -/
def State.distinctWalks (s : State) : List Walk → List Walk
  | [] => []
  | w :: ws => let rest := s.distinctWalks ws; if rest.any (s.sharesWalk w) then rest else w :: rest

/-- A walk asked for (R153): shared with one outstanding of its quad for the page, else among the 256 outstanding, or waiting in its quad's queue. One asked
for already is not asked for again; WALK_COMPLETE serves every request that shares it. -/
def State.startWalk (s : State) (w : Walk) : State :=
  let d := s.die (peerOf w.quad)
  if d.walks.contains w || d.walkQueue.contains w then s
  else if d.walks.any (s.sharesWalk w) || d.walks.length < 256 || (s.distinctWalks d.walks).length < 256 then
    s.modDie (peerOf w.quad) fun d => { d with walks := d.walks ++ [w] }
  else s.modDie (peerOf w.quad) fun d => { d with walkQueue := d.walkQueue ++ [w] }

/-! ### Peers, lost lines -/

/-- A line lost with its quad (R17): the home slice's quad is out of service. -/
def State.lost (s : State) (pa : Nat) : Bool :=
  paPeer pa != hostPeer && !(s.die (paPeer pa)).quadValid (sliceOf (paOff pa) / 2)

/-- Why an access in one step by the thread of slot k is refused, at its source or at its home (R17, R40, R41). -/
def State.homeRefused (s : State) (k pa : Nat) : Option (BitVec 8) := s.refusedAt (peerOfSlot k) (s.slot k).job pa

/-- The cause with which an access is refused at its source (R17, R40); accesses to the own die leave no die. -/
def State.accessRefused (s : State) (k pa : Nat) : Option (BitVec 8) :=
  if paPeer pa = peerOfSlot k then (if s.lost pa then some 0x0A else none)
  else match s.peerRefuses (peerOfSlot k) (s.slot k).job (paPeer pa) with
    | some c => some c
    | none => if s.lost pa then some 0x0A else none

/-! ### Bound regions: first touch and write-back (R158, R160) -/

/-- A line added to a quad cache's sharers in the home directory (R167, read rows). -/
def DirEntry.addSharer (e : DirEntry) (q : Nat) : DirEntry :=
  if e.coarse then { e with groups := e.groups ||| (1 <<< (q / 8)) }
  else if e.ptrs.any fun p => p.2.toNat == q then e
  else match (List.range 4).find? fun i => !e.ptrs.has i with
    | some i => { e with ptrs := e.ptrs.set i (BitVec.ofNat 8 q) }
    | none =>
      { e with coarse := true, ptrs := [],
               groups := e.ptrs.foldl (fun g p => g ||| (1 <<< (p.2.toNat / 8))) (1 <<< (q / 8)) }

/-- Messages that join a die's coherence traffic. -/
def State.addCoh (s : State) (peer : Nat) (ms : List CohMsg) : State := s.modDie peer fun d => { d with coh := d.coh ++ ms }

/-- A quad cache takes a line. Its set holds 16 lines: where it is full, the lowest is evicted, its copies in the quad
recalled, and an eviction notice goes to its home (R162). -/
def State.installLine (s : State) (q l : Nat) (x : Line) : State :=
  let set : NMap Line := (s.quad q).lines.filter fun e => e.1 % 256 == l % 256 && e.1 != l
  let s := match set with
    | v :: _ =>
      if set.length < 16 then s
      else
        let s := s.pullLine q v.1 false
        let y : Line := (s.line q v.1).getD v.2
        let s := s.dropLine q v.1
        if y.state = LineState.remote then s
        else ((if y.state = LineState.owned then s.writeSectors v.1 y.dirty y.data y.full y.poison else s).modQuad q fun z => { z with notices := z.notices.insert v.1 }).addCoh (peerOf q)
          [.notice (quadNo q) v.1]
    | [] => s
  s.setLine q l x

/-- How many entries of line l's slice are in use (R170). -/
def State.sliceUse (s : State) (peer l : Nat) : Nat := ((s.die peer).dir.filter fun e => e.1 % 512 == l % 512).length

/-- Does a line without an entry find its slice full (R170)? -/
def State.sliceFull (s : State) (peer l : Nat) : Bool := !(s.die peer).dir.has l && 4096 ≤ s.sliceUse peer l

/-- An entry to evict in a full slice (R170): the first whose line is in no transaction; none while an entry of the slice is already on its way
out. -/
def State.victim (s : State) (peer l : Nat) : Option Nat :=
  let set := (s.die peer).dir.filter fun e => e.1 % 512 == l % 512
  if set.any fun e => e.2.evicting then none else (set.find? fun e => s.lineIdle e.1).map (·.1)

/-- An entry of a full slice goes before a line takes one, in one step (R170; log entry 11): one whose line is in no transaction, else the first, its transaction
put back to its request. -/
def State.makeRoom (s : State) (peer l : Nat) : State :=
  if s.sliceFull peer l then
    match s.victim peer l with
    | some v => s.homeObtain v
    | none => match ((s.die peer).dir.filter fun e => e.1 % 512 == l % 512).head? with
      | some e => s.homeObtain e.1
      | none => s
  else s

/-- Does an operation, where it performs at the home of its line, write it? -/
def OpKind.stores : OpKind → Bool
  | .store _ | .vst | .atom _ | .fmtw => true
  | .fe fn => fn == 1 || fn == 2 || fn == 3 || fn == 5
  | _ => false

/-- Is a write of line l, homed on another die, by a thread of these slots or by a copy of this crew on its way (R171, R186)? -/
def writesLine (ts : List Slot) (x : Crew) (l : Nat) : Bool :=
  (ts.any fun t => t.ops.any fun o => o.kind.stores && o.parts.any fun p => p.phase == .sent && p.pa.map (· / 256) == some l) ||
    x.channels.any fun e => e.2.queue.any fun y => y.flying != 0 && y.target / 256 == l

/-- Is a write of quad q to line l, homed on another die, on its way to its home: of a running thread, or of one that a pre-emption has saved (R171, R186)? A
copy of the line that is taken now would be older than the write. -/
def State.writing (s : State) (q l : Nat) : Bool :=
  (List.range 4).any fun i => writesLine ((List.range 8).map fun n => s.slot ((q * 4 + i) * 8 + n)) (s.core (q * 4 + i)).crew l ||
    (match (s.core (q * 4 + i)).saved with
     | some sv => writesLine sv.slots sv.crew l
     | none => false)

/-- Quad q holds a clean copy of line l, as its home has it now; the directory names q where the line is homed on q's die (R167, R171). In a
full slice an entry goes first (R170), in a full set a line (R162). No copy of a line of another die is taken while a write of the quad to it is on
its way (R186; log entry 20). -/
def State.fetchLine (s : State) (q l : Nat) : State :=
  if (s.quad q).lines.has l || (paPeer (l * 256) != peerOf q && s.writing q l) then s
  else
    let mine := paPeer (l * 256) == peerOf q
    let s := if mine then s.makeRoom (peerOf q) l else s
    let s := s.homeClean l
    let (d, fe, po) := s.homeLine l
    let s := s.installLine q l { state := if mine then .shared else .remote, data := d, full := fe, poison := po }
    if mine then s.modDie (peerOf q) fun x =>
      { x with dir := x.dir.set l ((x.dir.get {} l).addSharer (quadNo q)) } else s

/-- Why line j of core c's region i cannot be filled: its home refuses the crew's job (R17, R40, R41). -/
def State.fillRefused (s : State) (c i j : Nat) : Option (BitVec 8) :=
  if (s.region c i).valid.getLsbD j then none else s.refusedAt (peerOf (quadOf c)) (s.core c).crew.bind.job ((s.region c i).pa + 256 * j)

/-- A region of a core, and that of the other core of its lock-step pair, which holds the same bytes (R143). -/
def State.pairRegions (s : State) (c i : Nat) : List (Nat × Nat) :=
  if (s.core c).crew.bind.lockstep then [(c / 2 * 2, i), (c / 2 * 2 + 1, i)] else [(c, i)]

/-- The first touch of a line of a bound region: the whole line with its full/empty bits, through the quad cache
(R158). -/
def State.fillRegionLine (s : State) (c i j : Nat) : State :=
  let r := s.region c i
  let l := r.pa / 256 + j
  let s := s.pullLine (quadOf c) l false (s.pairRegions c i)
  let s := s.fetchLine (quadOf c) l
  let off := i * 0x8000 + 256 * j
  let x := (s.line (quadOf c) l).getD (let h := s.homeLine l; { state := .remote, data := h.1, full := h.2.1, poison := h.2.2 })
  let s := s.stashWrite c off 256 x.data
  let s := (List.range 32).foldl (fun s n => s.setStashFull c (off + 8 * n) (x.full.getLsbD n)) s
  let s := if x.poison = 0 then s.dropStashPoison c off (off + 256)
    else (List.range 32).foldl (fun s n => s.setStashPoison c (off + 8 * n) (x.poison.getLsbD n)) s
  s.modRegion c i fun r => { r with valid := r.valid ||| ((1 : BitVec 128) <<< j) }

/-- The bound region that a stash offset lies in. -/
def State.boundHere (s : State) (c off : Nat) : Option Region :=
  let r := s.region c (off / 0x8000)
  if r.bound then some r else none

/-- May the bytes at a stash offset be used at once: the region is plain, or the lines are valid (R158)? -/
def State.stashReady (s : State) (c off n : Nat) : Bool :=
  match s.boundHere c off with
  | none => true
  | some r => r.valid.getLsbD (off % 0x8000 / 256) && r.valid.getLsbD ((off + n - 1) % 0x8000 / 256)

/-- Why bytes at a stash offset cannot be brought: a line of their bound region is not valid, and its home refuses the job (R17, R40, R41). -/
def State.touchRefused (s : State) (c off n : Nat) : Option (BitVec 8) :=
  match s.boundHere c off with
  | none => none
  | some _ => (linesOf (off % 0x8000) n).findSome? fun j => s.fillRefused c (off / 0x8000) j

/-- The lines of a bound region that n bytes touch made valid, in one step. -/
def State.stashTouch (s : State) (c off n : Nat) : State :=
  match s.boundHere c off with
  | none => s
  | some _ => (linesOf (off % 0x8000) n).foldl (fun s j =>
      if (s.region c (off / 0x8000)).valid.getLsbD j then s else s.fillRegionLine c (off / 0x8000) j) s

/-- A write of a thread of a parcel to come, n bytes in a region bound to a range homed beyond the die: the parcel retires only once the sectors are home (R68, R88, R172).
Earlier writers of a sector that is clean have nothing left in it. -/
def State.noteWriter (s : State) (key c off n : Nat) : State :=
  match s.boundHere c off with
  | none => s
  | some r =>
    if paPeer r.pa = peerOf (quadOf c) then s
    else s.modRegion c (off / 0x8000) fun x => { x with
      writers := (List.range ((off % 128 + n + 127) / 128)).foldl (fun w h =>
        let j := off % 0x8000 / 128 + h
        w.set j ((if x.dirty.getLsbD j then w.get [] j else []).insert key)) x.writers }

/-- The sectors that n bytes touch made dirty, where the region is bound (R158). Other copies of the lines in the quad
go, and the line is obtained as a write through the quad cache where it is homed on the die (R162). -/
def State.stashDirty (s : State) (c off n : Nat) : State :=
  match s.boundHere c off with
  | none => s
  | some r =>
    let i := off / 0x8000
    let s := (linesOf (off % 0x8000) n).foldl (fun s j =>
      let l := r.pa / 256 + j
      let s := s.pullLine (quadOf c) l false (s.pairRegions c i)
      if paPeer r.pa = peerOf (quadOf c) then
        match s.line (quadOf c) l with
        | some x =>
          if x.state = .owned then s
          else
            let s := (s.homeObtain l).setLine (quadOf c) l { x with state := .owned }
            let s := s.modRegion c i fun r => { r with valid := r.valid ||| ((1 : BitVec 128) <<< j) }
            s.modDie (peerOf (quadOf c)) fun d =>
              { d with dir := d.dir.set l { owned := true, ptrs := [(0, BitVec.ofNat 8 (quadOf c))] } }
        | none => s
      else s) s
    let add := fun (d : BitVec 256) (h : Nat) => d ||| (1 <<< (off % 0x8000 / 128 + h))
    s.modRegion c i fun r => { r with dirty := (List.range ((off % 128 + n + 127) / 128)).foldl add r.dirty }

/-- n bytes written at a stash offset, a bound region included; full/empty bits stay (R158, R164). -/
def State.stashStore {w : Nat} (s : State) (c off n : Nat) (v : BitVec w) : State :=
  (((s.stashTouch c off n).stashDirty c off n).stashWrite c off n v).stashCure c off n

/-- The same for a thread of a parcel. -/
def State.stashStoreBy {w : Nat} (s : State) (key c off n : Nat) (v : BitVec w) : State :=
  ((s.stashTouch c off n).noteWriter key c off n).stashStore c off n v

/-- n bytes written by slot k at a stash offset that address `a` names; in a lock-step pair an address of the own window or
of a bound region names the odd core's own stash too (R143). -/
def State.pairStore {w : Nat} (s : State) (k : Nat) (a : Word) (c off n : Nat) (v : BitVec w) : State :=
  let key := (s.slot k).par.key
  let s := s.stashStoreBy key c off n v
  if c = coreOf k ∧ (s.core c).crew.bind.lockstep ∧ c % 2 = 0 ∧ (!a.getLsbD 63 || (a - 0x8000_0000_0000_0000).toNat < 0x4_0000) then
    s.stashStoreBy key (c + 1) off n v
  else s

/-- n bytes read at a stash offset after the first touch. -/
def State.stashLoad (s : State) (c off n : Nat) : State × BitVec (8 * n) :=
  let s := s.stashTouch c off n
  (s, s.stashRead c off n)

/-! ### Traffic that completes within its instruction: spills and fills (R119 to R121) -/

/-- Where an 8-byte spill or fill word lies: own stash, or a physical address; none where the access faults or is
refused, at its source, its home or the home of a region's line (R40, R41, R121). -/
def State.spillPlace (s : State) (k : Nat) (va : Word) (write : Bool) : Option (Sum Nat Nat) :=
  let c := coreOf k
  if va.getLsbD 63 then
    match localPlace c va with
    | .stash c' off =>
      if c' = c ∧ off + 8 ≤ 0x4_0000 then
        (match s.boundHere c off with
         | some r => if write && r.ro || (s.touchRefused c off 8).isSome then none else some (.inl off)
         | none => some (.inl off))
      else none
    | _ => none
  else match s.boundAt c va with
    | some (i, off) =>
      if (bits va 57 6 : BitVec 6) ≠ 0 || (write && (s.region c i).ro) || (s.touchRefused c off 8).isSome then none else some (.inl off)
    | none =>
      match s.translateNow c (s.slot k).job va write with
      | .error _ => none
      | .ok l => if (s.homeRefused k (l.pa va)).isSome then none else some (.inr (l.pa va))

/-- A write of the quad is on its way to a line homed beyond the die: a fill of the line that is under way brings data that may be older, so it
leaves no copy (R171, R186; log entry 20). Such a fill's byte range is marked as one of a page that is not cached. -/
def Slot.fillsPass (t : Slot) (line : Nat → Bool) : Slot :=
  { t with ops := t.ops.map fun o => match o.kind with
    | .load _ _ | .vld _ => { o with parts := o.parts.map fun p =>
        if p.phase == .sent && p.pa.any fun a => line (a / 256) then { p with nc := true } else p }
    | _ => o }

/-- The fills under way of a quad's threads, those of its pre-empted crews too, leave no copy of the lines named (R171, R186; log entry 20). -/
def State.fillsPass (s : State) (q : Nat) (line : Nat → Bool) : State :=
  { s with
    slots := s.slots.map fun e => if quadOf (coreOf e.1) = q then (e.1, e.2.fillsPass line) else e,
    cores := s.cores.map fun e =>
      if quadOf e.1 = q then (e.1, { e.2 with saved := e.2.saved.map fun sv => { sv with slots := sv.slots.map (·.fillsPass line) } }) else e }

/-- A quad's clean copy of a line homed beyond the die goes. -/
def State.dropCopy (s : State) (q l : Nat) : State := match s.line q l with
  | some x => if x.state = .remote then s.dropLine q l else s
  | none => s

/-- Before a write of quad q in one step to a line homed on another die: the quad's bound copies are recalled and its clean copy goes, and a fill under
way leaves none (R162, R171, R186; log entry 20). -/
def State.passCopies (s : State) (q l : Nat) : State :=
  if paPeer (l * 256) = peerOf q then s else ((s.pullLine q l false).dropCopy q l).fillsPass q (· == l)

/-- A word stored at a place a spill found: stash, or the home in one step (log entry 11). -/
def State.spillStore (s : State) (k : Nat) (p : Sum Nat Nat) (v : Word) : State :=
  match p with
  | .inl off => s.stashStoreBy (s.slot k).par.key (coreOf k) off 8 v
  | .inr pa => (s.passCopies (quadOf (coreOf k)) (pa / 256)).agentWrite pa 8 v

/-- A word read at a place a fill found. The manual names no outcome for a frame fill from a poisoned word: the model reads the word's data and takes no
trap (R446; log entry 44). -/
def State.spillLoad (s : State) (c : Nat) (p : Sum Nat Nat) : State × Word :=
  match p with
  | .inl off => let r := s.stashLoad c off 8; (r.1, r.2.setWidth 64)
  | .inr pa => let s := s.homeClean (pa / 256); (s, s.word pa)

/-! ### Same-address order (R186) -/

/-- One number for a byte, whichever of its names an address of slot k's thread is: the physical address, also of a byte of a bound region; the place of
a plain stash byte (R147, R158, R186); an address that no page maps stands for itself. -/
def State.canon (s : State) (k : Nat) (va : Word) : Nat :=
  match s.stashOf (coreOf k) va with
  | some (c, off) =>
    (match s.boundHere c off with
     | some r => r.pa + off % 0x8000
     | none => 2 ^ 70 + stashKey c off)
  | none =>
    if va.getLsbD 63 then 2 ^ 69 + va.toNat
    else match s.translateNow (coreOf k) (s.slot k).job va false with
      | .ok l => l.pa va
      | .error _ => 2 ^ 68 + va.toNat

/-- Do two byte ranges overlap? -/
def overlap (a n b m : Nat) : Bool := a < b + m && b < a + n && n != 0 && m != 0

/-- A byte range cut at the edges of stash regions and pages: each piece lies in one of them. -/
def granules (va : Word) (n : Nat) : List (Word × Nat) :=
  let o := va.toNat % 0x8000
  (List.range ((o + n + 0x7FFF) / 0x8000)).map fun i =>
    (va + BitVec.ofNat 64 (max o (0x8000 * i) - o), min (o + n) (0x8000 * (i + 1)) - max o (0x8000 * i))

/-- Does a byte range overlap one that an earlier operation of the list has not yet performed (R186)? Bytes are compared by where they are, so two virtual
names of one byte are ordered (R195). -/
def State.clashes (s : State) (k : Nat) (ops : List Op) (va : Word) (n : Nat) : Bool :=
  ops.any fun o => o.parts.any fun p =>
    p.phase != .done && p.phase != .written &&
      (match p.pa with
       | some pa => (granules va n).any fun g => overlap pa p.size (s.canon k g.1) g.2
       | none => (granules p.va p.size).any fun h => (granules va n).any fun g => overlap (s.canon k h.1) h.2 (s.canon k g.1) g.2)

/-- The operations of a thread issued before one. -/
def Slot.earlier (t : Slot) (id : Nat) : List Op := t.ops.takeWhile (·.id != id)

/-! ### Performing -/

/-- The new word of an atomic (R297): old word, operand, compare value. -/
def atomFn (fn : Nat) (w b t : Word) : Word × BitVec 6 :=
  if fn = 0 then (w + b, 0)
  else if fn = 1 then (w &&& b, 0)
  else if fn = 2 then (w ||| b, 0)
  else if fn = 3 then (w ^^^ b, 0)
  else if fn = 4 then (if w.slt b then w else b, 0)
  else if fn = 5 then (if w.slt b then b else w, 0)
  else if fn = 6 then (if w.ult b then w else b, 0)
  else if fn = 7 then (if w.ult b then b else w, 0)
  else if fn = 8 then (b, 0)
  else if fn = 9 then (if w = t then b else w, 0)
  else
    -- AFADD: two FP32 lanes, −0 an identity (R298)
    let add := fun (x y : Word) =>
      if y = 0x8000_0000 then (x, (0 : BitVec 6)) else f32.add .rne x y
    let lo := add (zx (bits w 0 32 : BitVec 32)) (zx (bits b 0 32 : BitVec 32))
    let hi := add (zx (bits w 32 32 : BitVec 32)) (zx (bits b 32 32 : BitVec 32))
    ((bits hi.1 0 32 : BitVec 32) ++ (bits lo.1 0 32 : BitVec 32), lo.2 ||| hi.2)

/-- What a full/empty operation waits for, reads and leaves (R294): none where its condition fails; otherwise the new
word and the bit after. -/
def feFn (fn : Nat) (w : Word) (full : Bool) (t : Word) : Option (Word × Bool) :=
  if fn = 0 then (if full then some (w, true) else none)
  else if fn = 1 then (if full then some (w, false) else none)
  else if fn = 2 then (if full then none else some (t, true))
  else if fn = 3 then some (t, true)
  else if fn = 4 then some (w, full)
  else some (w, false)

/-- Does a full/empty operation answer a value? -/
def feReads (fn : Nat) : Bool := fn == 0 || fn == 1 || fn == 4

/-- A load's bytes extended into a register (R291). -/
def loadValue (n : Nat) (signed : Bool) (v : Word) : Word :=
  if signed then sx (v.setWidth (8 * n)) else zx (v.setWidth (8 * n))

/-- The vector that the parts of a vector load give, lane by lane. -/
def partsVec (ps : List Part) : Vec := vecOf fun i =>
  match ps.find? (·.lane == i) with
  | some p => p.value.setWidth 32
  | none => 0

/-- The value of an operation's first byte range. -/
def firstValue (o : Op) : Word := match o.parts with
  | p :: _ => p.value
  | [] => 0

/-- The width of a VLDD's elements (R350). -/
def elemWidth (idx : Nat) (desc : Word) : Nat := if idx < 2 then 32 else if idx < 4 then 16 else dW desc

/-- Lane i of a VLDD (R350): its value, its flags and whether its code is reserved. `b` holds the index, `snap` its descriptor. Index 1
to 3 has a byte range per lane, a programmable one a byte range per byte of the 16 elements. -/
def decodeLane (o : Op) (i : Nat) : BitVec 32 × BitVec 6 × Bool :=
  let at' := fun (j : Nat) => ((o.parts.find? (·.lane == j)).map (·.value)).getD 0
  let v := at' i
  if o.b.toNat < 4 then
    if v = poisonWord then (0xBAD0_BAD0, 0, false)
    else if o.b = 0 then (v.setWidth 32, 0, false)
    else if o.b = 1 then (if (f32.unpack v).isNan then 0x7FC0_0000 else v.setWidth 32, 0, false)
    else (((f32.round .rne ((if o.b = 2 then f16 else bf16).unpack v)).1).setWidth 32, 0, false)
  else
    let d := o.snap.getD 0
    let w := dW d
    let x := at' (i * w / 8)
    let y := if i * w % 8 + w ≤ 8 then 0 else at' (i * w / 8 + 1)
    if x = poisonWord ∨ y = poisonWord then (0xBAD0_BAD0, 0, false)
    else match decodeCode d ((x.toNat + y.toNat * 256) / 2 ^ (i * w % 8) % 2 ^ w) with
      | some v => let r := f32.round .rne v; (r.1.setWidth 32, r.2, false)
      | none => (0, 0, true)

/-- A VLDD's enabled lanes decoded (R203, R207, R350): values, flags, and whether a code is reserved. -/
def decodeLanes (o : Op) : Vec × BitVec 6 × Bool :=
  let on := (List.range 16).filter fun i => o.lanes.getLsbD i
  (vecOf fun i => if o.lanes.getLsbD i then (decodeLane o i).1 else 0,
   on.foldl (fun f i => f ||| (decodeLane o i).2.1) 0, on.any fun i => (decodeLane o i).2.2)

/-- A held thread's operation has performed: the thread goes on where this operation holds it (R114). -/
def Slot.wake (t : Slot) (id : Nat) : Slot :=
  if t.hold = .localOp id ∨ t.hold = .reply id then t.release else t

/-- Does the slot hold a trap frame (R137)? -/
def Slot.framed (t : Slot) : Bool := t.st == .park || (t.st == .frozen && t.was == .park)

/-- What changes in a parked thread completes into its frame (R137, R142): the bits that differ are written there. -/
def Slot.intoFrame (old new : Slot) : Slot :=
  if old.framed && new.framed then
    let g := fun (t : Slot) (j : Nat) => contextDword t (t.frame.get 0 0) (t.frame.get 0 1) (t.frame.get 0 2) j
    { new with frame := (List.range 320).foldl (fun m j => if g old j = g new j then m
      else m.set j ((m.get 0 j &&& ~~~(g old j ^^^ g new j)) ||| (g new j &&& (g old j ^^^ g new j)))) new.frame }
  else new

/-- Does an operation perform only when its reply writes the flag (R331, R332)? -/
def OpKind.atReply (o : OpKind) : Bool := o == .spawn || o == .migr

/-- A thread after its operation has performed with a result (R182, R189): the frontier passes it; what it writes is a reply on its way
to the thread (R115), which a held thread waits for. -/
def Slot.performed (t : Slot) (o : Op) (r : Reply) : Slot :=
  if (t.op o.id).isNone then t
  else
    if o.dest = .none ∧ o.flag = none ∧ r.fsf = 0 then t.intoFrame ((t.dropOp o.id).wake o.id)
    else
      let t' := if o.kind.atReply then t.modOp o.id fun o => { o with phase := .done } else t.dropOp o.id
      t.intoFrame { t' with replies := t.replies ++ [{ r with dest := o.dest, wakes := some o.id }] }

/-- An operation has performed with a result. A lock-step pair's operation performs for both cores (R143). -/
def State.performed (s : State) (k : Nat) (o : Op) (r : Reply) : State :=
  (s.twins k).foldl (fun s k => s.modSlot k (·.performed o r)) s

/-- A reply reaches its thread (R115): the destination written, its scoreboard bit clear, a held thread going on; a SPAWN or a refused MIGR performs now (R331,
R332). -/
def Slot.takeReply (t : Slot) (r : Reply) : Slot :=
  let t' := match r.dest with
    | .none => t
    | .reg p => { t with phys := t.phys.set p (r.value.setWidth 64) }
    | .vec v => t.setV v (vecMasked r.lanes (t.v v) (lane r.value))
  let t' := t'.mark r.dest false
  let t' := match r.flag with
    | none => t'
    | some (f, v) => (match v with
      | some b => t'.setF f b
      | none => t').markF (some f) false
  match r.wakes with
  | some id => (t'.dropOp id).wake id
  | none => t'

/-- Flags ORed into the sr.fsf that a parked thread's frame holds (R137, R211). -/
def Slot.flagFrame (t : Slot) (f : BitVec 6) : Slot :=
  if t.framed ∧ f ≠ 0 then { t with frame := t.frame.set 3 (t.frame.get 0 3 ||| (zx f <<< 16)) } else t

/-- A reply of a slot is taken, its flags ORed into sr.fsf, and into the frame of a parked thread (R115, R137, R211, R260). -/
def State.takeReplyAt (s : State) (k i : Nat) : State :=
  match (s.slot k).replies[i]? with
  | none => s
  | some r =>
    let s := s.modSlot k fun t => t.intoFrame ({ t with replies := dropAt t.replies i }.takeReply r)
    (s.orFlags k r.fsf).modSlot k (·.flagFrame r.fsf)

/-- Is the wait of a held operation a local condition (R142): one that waits at its core, or that has not been sent? -/
def Slot.waitIsLocal (t : Slot) (id : Nat) : Bool :=
  t.hold == .localOp id ||
    (match t.op id with
     | some o => (o.phase == .held || o.phase == .full) && o.parts.all fun p => p.phase == .held || p.phase == .walk || p.phase == .parked
     | none => false)

/-- Has a thread that leaves the rotation in WAIT issued its instruction, whose operation has been sent? Its context shows the next instruction (R142, R436). -/
def Slot.sentWait (t : Slot) : Bool := match t.hold with
  | .reply id => t.st == .frozen && t.was == .wait && !t.waitIsLocal id
  | _ => false

/-- A thread as its saved context shows it. -/
def Slot.shown (t : Slot) : Slot := if t.sentWait then { t with pc := t.release.pc, loops := t.release.loops } else t

/-- The dwords of a slot's context as a pre-emption area or a save area holds it (R92, R138, R436). -/
def Slot.image (t : Slot) : List Word :=
  if t.framed then (List.range 320).map fun j => t.frame.get 0 j
  else (List.range 320).map fun j => contextDword t.shown t.shown.pc 0 0 j

/-- A saved thread with the registers its context holds now. One that waits for its reply goes on waiting at its instruction, unless its context's pc or loop levels have
been written since: it then goes on where they say, its operation outstanding (log entry 40). -/
def Slot.fromImage (t : Slot) (g : Nat → Word) : Slot :=
  let u := t.reload g
  if !t.sentWait then u
  else if [0, 8, 9, 10, 11].all fun j => g j == contextDword t.shown t.shown.pc 0 0 j then { u with pc := t.pc, loops := t.loops }
  else { u with was := .run, hold := .none }

/-- The address of a core's pre-emption area (R92). -/
def State.areaOf (s : State) (c : Nat) : Nat :=
  paOf (peerOf (quadOf c)) ((s.die (peerOf (quadOf c))).prbase.toNat + c % 1024 * 0x5_0000)

/-- The event latches of a core's slots. -/
def latchesOf (ts : List Slot) : BitVec 8 :=
  (ts.zipIdx).foldl (fun (b : BitVec 8) t => if t.1.latch then b ||| (1 <<< t.2) else b) 0

/-- The core-state block (R314), as 204 dwords. `latches` holds the event latches of the eight slots. -/
def Crew.block (x : Crew) (latches : BitVec 8) : List Word :=
  (List.range 8).map (x.mb.get 0 ·) ++
  [zx x.mbFull, (List.range 8).foldl (fun w i => w ||| ((x.sems.get 0 i).setWidth 64 <<< (8 * i))) 0, zx latches,
   BitVec.ofNat 64 (x.queueHead.toNat + 256 * x.queue.length)] ++
  ((List.range 64).map fun p => (x.queue[(p + 64 - x.queueHead.toNat) % 64]?).getD 0) ++
  ((List.range 16).flatMap fun i => match x.heldWrites[i]? with
    | none => [0, 0, 0, 0, 0, 0, 0, 0]
    | some h => [BitVec.ofNat 64 (2 ^ 63 + h.box), h.value,
                 (0 : BitVec 16) ++ h.tag ++ (0 : BitVec 6) ++ BitVec.ofNat 26 (h.sender / 8 + h.sender % 8 * 2 ^ 23), 0, 0, 0, 0, 0])

/-- The progress code of a matrix command (R448). -/
def EngStage.progress : EngStage → Nat
  | .queued | .blocked => 0
  | .sent | .asked => 2
  | .rerun | .staged | .busy | .decided => 1

/-- A matrix command's entry (R448): 16 dwords. -/
def EngCmd.entry (e : EngCmd) : List Word :=
  let idx := match e.snaps with
    | [a, b] => a.idx.toNat + 256 * b.idx.toNat
    | f :: _ => 2 ^ 16 * f.idx.toNat
    | [] => 0
  let snaps := match e.snaps with
    | [a, b] => [a.desc, b.desc, 0]
    | f :: _ => [0, 0, f.desc]
    | [] => [0, 0, 0]
  [BitVec.ofNat 64 (2 ^ 63 + coreOf e.slot % 4 * 2 ^ 32 + e.op.word.toNat),
   e.attempt ++ (0 : BitVec 9) ++ b1 (e.op.phase != .held) ++ e.op.mask ++ e.op.stream ++ e.op.seq,
   BitVec.ofNat 64 e.stage.progress, BitVec.ofNat 64 idx] ++ snaps ++ [0] ++ (List.range 8).map fun i => bits e.op.vec (64 * i) 64

/-- The entries of a dispatch queue, four places. -/
def Crew.matrixEntries (x : Crew) : List Word :=
  (List.range 4).flatMap fun i => match x.matrix[i]? with
    | some e => e.entry
    | none => List.replicate 16 0

/-- A copy channel's 64 bytes: the write pointer, whether it is stopped, its commands, and the words of the commands with the bytes that the
first has delivered (log entry 9). -/
def Channel.entry (x : Channel) : List Word :=
  [x.cpwp, BitVec.ofNat 64 ((if x.stopped then 1 else 0) + 256 * x.queue.length), BitVec.ofNat 64 ((x.queue.map (·.bytes)).headD 0), 0] ++
    (List.range 4).map fun i => match x.queue[i]? with
      | some y => zx y.op.word
      | none => 0

/-- The entries of a core's four copy channels. -/
def Crew.channelEntries (x : Crew) : List Word := (List.range 4).flatMap fun i => (x.channels.get {} i).entry

/-- What a response changes of a pre-empted crew, in its core's area (R91, R92): the context of slot i, its event latch, and for the engine and transfer slots the
copy channels and matrix commands. -/
def State.storeSaved (s : State) (c i : Nat) : State :=
  match (s.core c).saved with
  | none => s
  | some sv =>
    let a := s.areaOf c
    let s := (s.storeDwords (a + 2560 * i) ((sv.slots[i]?).getD {}).image).agentWrite (a + 0x5050) 8 ((latchesOf sv.slots).setWidth 64)
    if i < 6 then s
    else (s.storeDwords (a + 0x5700) sv.crew.channelEntries).storeDwords (a + 0x5800) sv.crew.matrixEntries

/-- The running crew of a core and its pre-empted one change places. -/
def State.swapOne (s : State) (c : Nat) : State :=
  match (s.core c).saved with
  | none => s
  | some sv =>
    let now : SavedCrew := { crew := (s.core c).crew, slots := (List.range 8).map fun i => s.slot (c * 8 + i) }
    (List.range 8).foldl (fun s i => s.modSlot (c * 8 + i) fun _ => (sv.slots[i]?).getD {})
      (s.modCore c fun x => { x with crew := sv.crew, saved := some now })

/-- The same for both cores of a lock-step pair (R91). -/
def State.swapSaved (s : State) (c : Nat) : State :=
  let pair : Bool := match (s.core c).saved with
    | some sv => sv.crew.bind.lockstep
    | none => false
  if pair then (s.swapOne (c / 2 * 2)).swapOne (c / 2 * 2 + 1) else s.swapOne c

/-- Something that has come for slot k: done to the thread that it is for. One for a pre-empted thread is written into its
saved context at once, its replies with it (R91). None where neither thread awaits it. -/
def State.onOwner (s : State) (k : Nat) (mine : Slot → Bool) (f : State → State) : Option State :=
  let c := coreOf k
  if mine (s.slot k) then some (f s)
  else match (s.core c).saved with
    | none => none
    | some sv =>
      let t := (sv.slots[slotOf k]?).getD {}
      if mine t then
        let s := f (s.swapSaved c)
        let ks := s.twins k
        let s := ks.foldl (fun s k => (List.range (s.slot k).replies.length).foldl (fun s _ => s.takeReplyAt k 0) s) s
        some (ks.foldl (fun s k => s.storeSaved (coreOf k) (slotOf k)) (s.swapSaved c))
      else none

/-- An operation without a result has performed. -/
def State.performedNone (s : State) (k : Nat) (o : Op) : State := s.performed k o {}

/-- A VLDD whose release point follows its issue is withdrawn (R350): it counts as performed, its destination is as it was and no longer
pending, and its thread traps at its next boundary. -/
def State.withdrawVld (s : State) (k : Nat) (o : Op) (tr : Trap) : State :=
  ((s.twins k).foldl (fun s k => s.modSlot k fun t => t.intoFrame ((t.dropOp o.id).mark o.dest false)) s).trapLater k tr

/-- A held instruction that traps is not performed: its stream's number is free again and its destination is as it was (R136). -/
def Slot.unissue (t : Slot) (o : Op) : Slot :=
  let str := t.stream o.stream.toNat
  { (t.dropOp o.id).mark o.dest false with issued := t.issued - 1, streams := t.streams.set o.stream.toNat { str with next := str.next - 1 } }

/-- A VLDD meets a trap after its issue. One whose release point was its issue holds its thread until its elements are known, and traps at the VLDD; any other is
withdrawn (R204, R348, R350; log entry 28). -/
def State.stopVld (s : State) (k : Nat) (o : Op) (tr : Trap) : State :=
  let t := s.slot k
  if (t.st = .wait ∨ t.st = .frozen ∧ t.was = .wait) ∧ t.hold = .reply o.id then
    (s.twins k).foldl (fun s k =>
      let s' := (s.modSlot k fun t => t.unissue o).takeTrap k { cause := tr.cause, addr := tr.addr, detail := tr.detail } (s.slot k).pc
      if (s.slot k).st = .frozen then s'.modSlot k fun t => { t with st := .frozen, was := .park } else s') s
  else s.withdrawVld k o tr

/-- What an operation all of whose byte ranges have performed answers. -/
def Op.reply (o : Op) : Reply :=
  match o.kind with
  | .load n sg => { value := (if firstValue o = poisonWord then firstValue o else loadValue n sg (firstValue o)).setWidth 512 }
  | .vld true => let r := decodeLanes o; { value := r.1, lanes := o.lanes, fsf := r.2.1 }
  | .vld false => { value := partsVec o.parts, lanes := o.lanes }
  | .fe _ => { value := (firstValue o).setWidth 512, flag := o.flag.map fun f => (f, some (o.b.getLsbD 0)) }
  | .atom _ => { value := (firstValue o).setWidth 512, fsf := bits o.vec 0 6 }
  | _ => {}

/-- Have all byte ranges of an operation performed? -/
def Op.allDone (o : Op) : Bool := o.parts.all (·.phase == .done)

/-- Does an operation decode elements of which one shows a reserved code (R203, R350)? -/
def Op.reserved (o : Op) : Bool := o.kind == .vld true && (decodeLanes o).2.2

/-- The other core's thread of a lock-step pair performs the operation too, with what its own stash gave it where it used its own (R143). -/
def Slot.performedAs (t : Slot) (o : Op) : Slot :=
  t.performed o (match t.op o.id with
    | some o' => if o'.allDone then o'.reply else o.reply
    | none => o.reply)

/-- All byte ranges of an operation have performed: it performs as a whole. -/
def State.settleParts (s : State) (k id : Nat) : State :=
  match (s.slot k).op id with
  | none => s
  | some o =>
    if o.allDone then
      if o.reserved then
        s.stopVld k o { cause := 0x07, addr := o.a, detail := 0x40 + o.b, stream := o.stream, mask := o.mask, seq := o.seq }
      else (s.twins k).foldl (fun s k => s.modSlot k (·.performedAs o)) s
    else s

def State.modPart (s : State) (k id lane : Nat) (f : Part → Part) : State :=
  s.modSlot k fun t => t.modOp id fun o => { o with parts := o.parts.map fun p => if p.lane == lane then f p else p }

/-- One byte range has performed with a value. -/
def State.partDone (s : State) (k id lane : Nat) (v : Word) : State :=
  (s.modPart k id lane fun p => { p with phase := .done, value := v }).settleParts k id

/-- One byte range completes with poison or is dropped, its thread to trap at its next boundary with the address that `f` makes of the range's; a vector
operation takes one trap for all its lanes (R348), which `t` records. -/
def State.partStopped (s : State) (k id lane : Nat) (cause : BitVec 8) (peer : Nat) (f : Word → Word) : State :=
  match (s.slot k).op id with
  | none => s
  | some o =>
    let va := f ((o.parts.find? (·.lane == lane)).map (·.va) |>.getD 0)
    let vector : Bool := match o.kind with
      | .vld _ | .vst => true
      | _ => false
    let s := if vector ∧ o.t ≠ 0 then s
      else ((if vector then s.modSlot k fun t => t.modOp id fun o => { o with t := 1 } else s)).trapLater k
        { cause := cause, addr := va, detail := BitVec.ofNat 64 peer, stream := o.stream, mask := o.mask, seq := o.seq }
    s.partDone k id lane poisonWord

/-- A refused byte range (R40). -/
def State.partRefused (s : State) (k id lane : Nat) (cause : BitVec 8) (peer : Nat) : State := s.partStopped k id lane cause peer fun va => va

/-- A byte range of a poisoned word: the trap carries the address of the 64-bit word (R446). -/
def State.partPoison (s : State) (k id lane peer : Nat) : State := s.partStopped k id lane 0x0A peer fun va => va &&& ~~~(7 : Word)

/-- Do two global addresses lie in one 64 KiB granule (R141)? -/
def sameGranule (a b : Word) : Bool := !a.getLsbD 63 && !b.getLsbD 63 && (bits a 16 41 : BitVec 41) == bits b 16 41

/-- Is a younger operation with this address parked behind an entry of its replay queue (R141)? -/
def Slot.behindParked (t : Slot) (id : Nat) (a : Word) : Bool :=
  (t.earlier id).any fun o => o.phase == .parked && sameGranule o.a a

/-- An operation goes into its replay queue (R141). -/
def Slot.parkEntry (t : Slot) (id : Nat) : Slot :=
  t.modOp id fun o => { o with phase := .parked, parts := o.parts.map fun p => { p with phase := .parked } }

/-- An operation put in its thread's replay queue, for both threads of a pair. -/
def State.enterReplay (s : State) (k id : Nat) : State := (s.twins k).foldl (fun s k => s.modSlot k fun t => t.intoFrame (t.parkEntry id)) s

/-- An operation that finds all eight entries taken: its thread issues nothing until STREAM_RELEASE begins it again with an entry free (R114, R141). -/
def State.stickOp (s : State) (k id : Nat) : State :=
  (s.twins k).foldl (fun s k => s.modSlot k fun t => t.modOp id fun o =>
    { o with phase := .full, parts := o.parts.map fun p => { p with phase := .held } }) s

/-- A scalar operation whose translation faults is parked (R141): in the replay queue, a message of cause 0x10 posted, the thread running on. -/
def State.parkOp (s : State) (k id : Nat) (addr : Word) (kind : FaultKind) : State :=
  match (s.slot k).op id with
  | none => s
  | some o =>
    if 8 ≤ (s.slot k).replayQueue.length then s.stickOp k id else
    let s := s.enterReplay k id
    s.postNoPc k { cause := 0x10, addr := addr, detail := kind.code, stream := o.stream, mask := o.mask, seq := o.seq,
                        entry := some (BitVec.ofNat 3 ((s.slot k).replayQueue.findIdx (·.id == id))) }

/-- Is a fault of this operation parked (R155)? Vector operations took theirs at issue. -/
def OpKind.parks : OpKind → Bool
  | .load _ _ | .store _ | .fe _ | .atom _ | .cflush | .cinv | .smap _ | .fmtw | .migr => true
  | _ => false

/-- A translation fault of a byte range, by its operation's agent (R155): a scalar operation is parked, a VLDD that meets the fault after
its issue is stopped. -/
def State.faultPart (s : State) (k id : Nat) (va : Word) (e : FaultKind) : State :=
  match (s.slot k).op id with
  | none => s
  | some o =>
    if o.kind.parks then s.parkOp k id va e
    else s.stopVld k o { cause := 0x09, addr := va, detail := e.code, stream := o.stream, mask := o.mask, seq := o.seq }

/-! ### Stash words: full/empty waiters (R131, R295) -/

/-- One access performed at a stash: none where a full/empty condition fails. -/
def State.stashAccess (s : State) (o : Op) (p : Part) (c off : Nat) : Option (State × Word × Bool) :=
  match o.kind with
  | .load n _ => some (s, zx (s.stashRead c off n), false)
  | .vld _ => some (s, zx (s.stashRead c off p.size), false)
  | .store n => some (((s.stashDirty c off n).stashWrite c off n o.t).stashCure c off n, 0, false)
  | .vst => some (((s.stashDirty c off p.size).stashWrite c off p.size p.value).stashCure c off p.size, 0, false)
  | .atom fn =>
    let w : Word := (s.stashRead c off 8).setWidth 64
    let r := atomFn fn w o.b o.t
    some (((s.stashDirty c off 8).stashWrite c off 8 r.1), w, false)
  | .fe fn =>
    let w : Word := (s.stashRead c off 8).setWidth 64
    let full := s.stashFull c off
    match feFn fn w full o.t with
    | none => none
    | some (w', full') =>
      let s := if w' ≠ w ∨ full' ≠ full ∨ s.stashPoisoned c off 8 then (s.stashDirty c off 8).stashWrite c off 8 w' else s
      let s := if fn = 2 ∨ fn = 3 then s.stashCure c off 8 else s
      some (s.setStashFull c off full', w, full)
  | _ => some (s, 0, false)

/-- Does a poisoned word keep an access from being performed (R446)? A store of less than the word, a load and an atomic are; a whole store and the full/empty
operations are not. -/
def OpKind.stopsAtPoison (o : OpKind) (size : Nat) : Bool := match o with
  | .store _ | .vst => size < 8
  | .fe _ => false
  | _ => true

/-- Does a full/empty operation answer a value? -/
def OpKind.feAnswers : OpKind → Bool
  | .fe fn => feReads fn
  | _ => false

/-- Does an operation write what it names? -/
def OpKind.writes : OpKind → Bool
  | .store _ | .vst | .atom _ => true
  | .fe fn => fn == 1 || fn == 2 || fn == 3 || fn == 5
  | _ => false


/-- What a stash access gave, noted in its operation: the bit before for LDXX, flags for AFADD. -/
def State.stashNote (s : State) (k : Nat) (o : Op) (w : Word) (full : Bool) : State :=
  let fsf : BitVec 6 := match o.kind with
    | .atom fn => (atomFn fn w o.b o.t).2
    | _ => 0
  s.modSlot k fun t => t.modOp o.id fun o =>
    { o with b := (match o.kind with | .fe _ => zx (b1 full) | _ => o.b), vec := (match o.kind with | .atom _ => fsf.setWidth 512 | _ => o.vec) }

/-- The access of a lock-step pair's odd core to its own stash, beside the even core's (R143): its value stands in its own operation. -/
def State.twinAccess (s : State) (k id lane off : Nat) : State :=
  match (s.slot k).op id with
  | none => s
  | some o => match o.parts.find? (·.lane == lane) with
    | none => s
    | some p =>
      let c := coreOf k
      let s := s.stashTouch c off p.size
      if s.stashPoisoned c off p.size && o.kind.stopsAtPoison p.size then s
      else match (if o.kind.writes then s.noteWriter (s.slot k).par.key c off p.size else s).stashAccess o p c off with
        | none => s
        | some (s, w, full) => (s.stashNote k o w full).modPart k id lane fun p => { p with phase := .done, value := w }

/-- One access at a stash, its result noted in its operation; a poisoned word of a bound region as R446 says. -/
def State.stashApply (s : State) (k : Nat) (o : Op) (p : Part) (c off : Nat) : State :=
  let po := s.stashPoisoned c off p.size
  let home := ((s.boundHere c off).map fun r => paPeer r.pa).getD (peerOfSlot k)
  if po && o.kind.stopsAtPoison p.size then s.partPoison k o.id p.lane home
  else match (if o.kind.writes then s.noteWriter (s.slot k).par.key c off p.size else s).stashAccess o p c off with
  | none => s.modPart k o.id p.lane fun p => { p with phase := .waiting, pa := none }
  | some (s', w, full) =>
    let s' := if s.twins k = [k, k + 8] ∧ c = coreOf k then s'.twinAccess (k + 8) o.id p.lane off else s'
    -- a store in a region over a range homed beyond the die has performed at core scope only (R189)
    let later : Bool := match o.kind, s.boundHere c off with
      | .store _, some r | .vst, some r => o.scope != 0 && paPeer r.pa != peerOf (quadOf c)
      | _, _ => false
    if later then s'.modPart k o.id p.lane fun p => { p with phase := .written }
    else
      let s' := s'.stashNote k o w full
      if po && o.kind.feAnswers then s'.partPoison k o.id p.lane home else s'.partDone k o.id p.lane w

/-- The operations of a quad's threads that wait at a stash word, with their slots, in their order of issue (R295). -/
def State.stashWaiters (s : State) (c off : Nat) : List (Nat × Op × Part) :=
  let ws := (List.range 32).flatMap fun i =>
    let k := (quadOf c * 4) * 8 + i
    (s.slot k).ops.flatMap fun o => (o.parts.filter fun p =>
      p.phase == .waiting && (match o.kind with | .fe _ => true | _ => false) &&
        localPlace (coreOf k) p.va == .stash c (off / 8 * 8)).map fun p => (k, o, p)
  let order := (s.quad (quadOf c)).feOrder
  (order.flatMap fun e => ws.filter fun w => w.1 == e.1 && w.2.1.id == e.2) ++ ws.filter fun w => !order.contains (w.1, w.2.1.id)

/-- The waiters at a stash word tried, each against the word as the one before left it, until none performs (R295). -/
def State.stashTries (c off : Nat) : Nat → State → State
  | 0, s => s
  | n + 1, s =>
    let s' := (s.stashWaiters c off).foldl (fun s w => s.stashApply w.1 w.2.1 w.2.2 c (off / 8 * 8)) s
    if (s'.stashWaiters c off).length < (s.stashWaiters c off).length then State.stashTries c off n s' else s'
def State.stashRetry (s : State) (c off : Nat) : State := State.stashTries c off (s.stashWaiters c off).length s

/-- An access at a stash, then the waiters of the word whose bit it may have changed. -/
def State.stashPerform (s : State) (k : Nat) (o : Op) (p : Part) (c off : Nat) : State :=
  let before := s.stashFull c off
  let s := s.stashApply k o p c off
  if s.stashFull c off = before then s else s.stashRetry c off

/-- A stash word filled by an agent: the value, the bit full, then its waiters (R224, R282, R374). -/
def State.stashFill (s : State) (c off : Nat) (v : Word) : State :=
  ((s.stashStore c off 8 v).setStashFull c off true).stashRetry c off

/-! ### The read-only pages (R147, R148) -/

/-- A 64-bit word of the mailbox, semaphore or identity page of a core. -/
def State.pageWord (s : State) (k n off : Nat) : Word :=
  let c := coreOf k
  let x := (s.core c).crew
  if n = 0 then
    if off < 0x40 then x.mb.get 0 (off / 8) else if off / 8 = 8 then zx x.mbFull else 0
  else if n = 1 then
    if off < 8 then (List.range 8).foldl (fun w i => w ||| (zx (x.sems.get 0 i) <<< (8 * i))) 0 else 0
  else if off / 8 = 0 then BitVec.ofNat 64 c
  else if off / 8 = 1 then (s.core c).cycle
  else if off / 8 = 2 then zx (s.slot k).job
  else 0

/-- `size` bytes of those pages. -/
def State.pageRead (s : State) (k n off size : Nat) : Word := zx ((s.pageWord k n off >>> (8 * (off % 8))).setWidth (8 * size))

/-! ### The quad cache (R161, R162, R171) -/

/-- n bytes of a line's data. -/
def Line.read (x : Line) (o n : Nat) : Word := zx (x.data.extractLsb' (8 * o) (8 * n))
/-- n bytes written in a line; whole words lose their poison, and the sectors are dirty (R162, R446). -/
def Line.write (x : Line) (o n : Nat) (v : Word) : Line :=
  { x with data := putBits x.data (8 * o) (v.setWidth (8 * n)),
           poison := if o % 8 = 0 ∧ n = 8 then putBits x.poison (o / 8) (0 : BitVec 1) else x.poison,
           dirty := if x.state = .owned then x.dirty ||| (1 <<< (o / 128)) else x.dirty }
/-- Does one of the words of n bytes carry poison (R446)? -/
def Line.poisoned (x : Line) (o n : Nat) : Bool :=
  (List.range ((o % 8 + n + 7) / 8)).any fun i => x.poison.getLsbD (o / 8 + i)

/-- The L1 data caches of a line after an access by core c: a load allocates its own, a store leaves only its own
(R161, R162). -/
def Line.touchL1 (x : Line) (c : Nat) (store : Bool) : Line :=
  { x with l1d := if store then x.l1d &&& (1 <<< (c % 4)) else x.l1d ||| (1 <<< (c % 4)),
           l1i := if store then 0 else x.l1i }

/-- n bytes written in a line by an agent of the quad; whole words lose their poison, the sectors are dirty, and no L1 keeps the line (R161, R162, R446). -/
def Line.put {w : Nat} (x : Line) (o n : Nat) (v : BitVec w) : Line :=
  { x with data := putBits x.data (8 * o) (v.setWidth (8 * n)),
           poison := (List.range 32).foldl (fun p i => if o ≤ 8 * i ∧ 8 * i + 8 ≤ o + n then putBits p i (0 : BitVec 1) else p) x.poison,
           dirty := if x.state = .owned then (List.range 2).foldl (fun (d : BitVec 2) h => if o < 128 * h + 128 ∧ 128 * h < o + n then d ||| (1 <<< h) else d) x.dirty
             else x.dirty,
           l1d := 0, l1i := 0 }

/-- Is a word of the line that n bytes write in part poisoned (R446)? -/
def Line.partialPoison (x : Line) (o n : Nat) : Bool :=
  (o % 8 != 0 && x.poison.getLsbD (o / 8)) || ((o + n) % 8 != 0 && x.poison.getLsbD ((o + n) / 8))

/-- Quad q owns line l of its own die, in one step (R162, R167; log entry 11). In a full slice an entry goes first (R170), in a full set a line (R162). -/
def State.ownLine (s : State) (q l : Nat) : State :=
  let s := s.pullLine q l false
  if (s.line q l).any (·.state == .owned) then s
  else
    let s := (s.makeRoom (peerOf q) l).homeObtain l
    let (d, fe, po) := s.homeLine l
    (s.installLine q l { state := .owned, data := d, full := fe, poison := po }).modDie (peerOf q) fun x =>
      { x with dir := x.dir.set l { owned := true, ptrs := [(0, BitVec.ofNat 8 (quadNo q))] } }

/-- n bytes of one line read by an agent of quad q in one step, in a stream of scope sc: through the quad cache, or at the home where the page is not
cached or the scope passes copies by (R162, R171, R175; log entry 11). The flag says that a word is poisoned. -/
def State.quadLoad (s : State) (q pa n : Nat) (nc : Bool) (sc : BitVec 3) : State × Bool × Nat :=
  let atHome := fun (s : State) =>
    let s := s.agentClean pa n
    (s, (List.range ((pa % 8 + n + 7) / 8)).any fun i => s.poisonAt (pa / 8 * 8 + 8 * i), (s.memRead pa n).toNat)
  if nc || paPeer pa == hostPeer || (paPeer pa != peerOf q && 3 ≤ sc.toNat) then atHome s
  else
    let s := (s.pullLine q (pa / 256) false).fetchLine q (pa / 256)
    match s.line q (pa / 256) with
    | some y => (s, y.poisoned (pa % 256) n, (y.data.extractLsb' (8 * (pa % 256)) (8 * n)).toNat)
    | none => atHome s

/-- A request to the home of a line, unless the quad has one out for it, or must wait for a notice (R167, R169). -/
def State.request (s : State) (q l : Nat) (write : Bool) : State :=
  let m := if write then CohMsg.write (quadNo q) l else CohMsg.read (quadNo q) l
  s.modDie (peerOf q) fun d => if d.coh.contains m then d else { d with coh := d.coh ++ [m] }

/-! ### One byte range on its way (R40, R55, R56, R141, R155, R171) -/

/-- A translated byte range of an operation goes to its bytes. -/
def State.accessPart (s : State) (k : Nat) (o : Op) (p : Part) (pa : Nat) (nc : Bool) : State :=
  let c := coreOf k
  let q := quadOf c
  let l := pa / 256
  let x := pa % 256
  let peer := paPeer pa
  let mine := peer == peerOfSlot k
  let sentPart := fun (s : State) => s.modPart k o.id p.lane fun p => { p with phase := .sent, pa := some pa, nc := nc }
  let sentWrite := fun (s : State) => sentPart (s.fillsPass q (· == l))
  -- before a write to a line homed beyond the die, the quad's bound copies go home (R162, R186)
  let home := fun (s : State) => if mine || nc then s else s.pullLine q l false
  let linePart := fun (s : State) => s.modPart k o.id p.lane fun p => { p with phase := .line, pa := some pa, nc := nc }
  let pkt := fun (type : BitVec 8) (off size : Nat) => opPacket k (s.slot k).job o p.lane type peer off size
  let hostOnly : Bool := match o.kind with
    | .fe _ => true
    | .atom fn => !(fn == 0 || fn == 8 || fn == 9)
    | _ => false
  match (if peer = hostPeer ∧ hostOnly then some 0x0A else s.accessRefused k pa) with
  | some cause => s.partRefused k o.id p.lane cause peer
  | none =>
    match o.kind with
    | .atom fn =>
      sentWrite ((home s).send { pkt 0x03 (paOff pa) 3 with fn := BitVec.ofNat 4 fn, operand := if fn = 9 then o.t else o.b, payload := if fn = 9 then o.b.setWidth 2048 else 0, plen := if fn = 9 then 8 else 0 })
    | .fe fn => sentWrite ((home s).send { pkt 0x04 (paOff pa) 3 with fn := BitVec.ofNat 4 fn, operand := o.t })
    | .store _ | .vst =>
      let v := match o.kind with
        | .vst => p.value
        | _ => o.t
      if mine then
        if nc then
          (let s := s.agentObtain pa p.size
           if s.poisonAt pa && p.size < 8 then s.partPoison k o.id p.lane peer
           else (s.agentWrite pa p.size v).partDone k o.id p.lane 0)
        else match s.line q l with
          | some y =>
            if y.state = .owned then
              let s := s.pullLine q l false
              let y := (s.line q l).getD y
              if y.poisoned x p.size && p.size < 8 then s.partPoison k o.id p.lane peer
              else (s.setLine q l ((y.write x p.size v).touchL1 c true)).partDone k o.id p.lane 0
            else linePart (s.request q l true)
          | none => linePart (s.request q l true)
      else
        let s := home s
        let s := match s.line q l with
          | some y => if nc then s else s.setLine q l ((y.write x p.size v).touchL1 c true)
          | none => s
        sentWrite (s.send { pkt 0x02 (paOff pa) (Nat.log2 p.size) with payload := v.setWidth 2048, plen := BitVec.ofNat 9 p.size })
    | _ =>
      if nc ∨ (¬mine ∧ 3 ≤ o.scope.toNat) then
        if mine then
          let s := s.homeClean l
          (if s.poisonAt pa then s.partPoison k o.id p.lane peer
           else s.partDone k o.id p.lane (zx (s.memRead pa p.size)))
        else sentPart (s.send (pkt 0x01 (paOff pa) (Nat.log2 p.size)))
      else match s.line q l with
        | some y =>
          let s := s.pullLine q l false
          let y := (s.line q l).getD y
          if y.poisoned x p.size then s.partPoison k o.id p.lane peer
          else (s.setLine q l (y.touchL1 c false)).partDone k o.id p.lane (y.read x p.size)
        | none =>
          if mine then linePart (s.request q l false)
          else
            -- beside a write of the quad on its way, the fill leaves no copy (R186)
            let pass := s.writing q l
            (s.send (pkt 0x01 (paOff (l * 256)) 8)).modPart k o.id p.lane fun p => { p with phase := .sent, pa := some pa, nc := nc || pass }

/-- The physical address of a byte of a bound region whose line is homed on the own die and not owned by the quad: a write must obtain it (R162, R167). -/
def State.ownerless (s : State) (c off : Nat) : Option Nat :=
  match s.boundHere c off with
  | none => none
  | some r =>
    let pa := r.pa + off % 0x8000
    if paPeer pa = peerOf (quadOf c) ∧ ¬(s.line (quadOf c) (pa / 256)).any (·.state == .owned) then some pa else none

/-- One byte range of an operation starts: a stash word at once or after its line's fill, a page, or a global address
after its translation (R147, R153, R158). -/
def State.startPart (s : State) (k : Nat) (id lane : Nat) : State :=
  match (s.slot k).op id with
  | none => s
  | some o =>
    match o.parts.find? (·.lane == lane) with
    | none => s
    | some p =>
      let c := coreOf k
      let writes := o.kind.writes
      let atStash := fun (c' off : Nat) =>
        if !s.stashReady c' off p.size then s.modPart k id lane fun p => { p with phase := .line, pa := none }
        else match (if writes then s.ownerless c' off else none) with
          -- a write to a bound line of the own die asks the home for the line first (R162, R167)
          | some pa => (s.modPart k id lane fun p => { p with phase := .line, pa := some pa, nc := false }).request (quadOf c') (pa / 256) true
          | none => s.stashPerform k o p c' off
      let atHome : Bool := match o.kind with
        | .atom _ | .fe _ => true
        | _ => false
      if p.va.getLsbD 63 then
        match localPlace c p.va with
        | .stash c' off =>
          (match s.boundHere c' off with
           | some r => if writes && r.ro then s.faultPart k id p.va .permission else atStash c' off
           | none => atStash c' off)
        | .page n off => s.partDone k id lane (s.pageRead k n off p.size)
        | .nowhere => s.stopVld k o { cause := 0x09, addr := p.va, stream := o.stream, mask := o.mask, seq := o.seq }
      else match (if atHome then none else s.boundAt c p.va) with
        | some (i, off) =>
          if (bits p.va 57 6 : BitVec 6) ≠ 0 then s.faultPart k id p.va .malformed
          else if writes && (s.region c i).ro then s.faultPart k id p.va .permission
          else atStash c off
        | none =>
          match p.pa with
          | some pa => s.accessPart k o p pa p.nc
          | none =>
            match s.translate c (s.slot k).job p.va writes false with
            | some (.error e) => s.faultPart k id p.va e
            | some (.ok l) => s.accessPart k o p (l.pa p.va) l.nc
            | none =>
              (s.modPart k id lane fun p => { p with phase := .walk }).startWalk
                { quad := quadOf c, slot := k, opId := id, part := lane, job := (s.slot k).job, va := p.va, write := writes, fetch := false }

/-- Does an operation's own address fault now (R152, R159), apart from any entry before it? -/
def State.opFault (s : State) (k : Nat) (o : Op) : Option FaultKind :=
  let c := coreOf k
  if o.a.getLsbD 63 then none
  else if (bits o.a 57 6 : BitVec 6) ≠ 0 then some .malformed
  else match (match o.kind with
      | .atom _ | .fe _ => none
      | _ => s.boundAt c o.a) with
    | some (i, _) => if o.kind.writes && (s.region c i).ro then some .permission else none
    | none => match s.translateNow c (s.slot k).job o.a o.kind.writes with
      | .error e => some e
      | .ok _ => none

/-- Has the sector of a store in a bound region reached its home (R189)? -/
def State.sectorHome (s : State) (k : Nat) (va : Word) : Bool :=
  match s.stashOf (coreOf k) va with
  | some (c, off) => !(s.region c (off / 0x8000)).bound || !(s.region c (off / 0x8000)).dirty.getLsbD (off % 0x8000 / 128)
  | none => true

/-- Every byte range of an operation that may start does (R185, R186): its mask is met and no earlier operation's range
overlaps it. A store whose region's sector has been written home has performed (R189); one whose sector its home refused is dropped (R40). -/
def State.startParts (s : State) (k id : Nat) : State :=
  let parts : List Part := match (s.slot k).op id with
    | none => []
    | some o => o.parts
  let s := parts.foldl (fun s p => match p.phase with
    | .written => if s.sectorHome k p.va then s.partDone k id p.lane p.value else s
    | .dropped cause peer => s.partRefused k id p.lane cause peer
    | _ => s) s
  match (s.slot k).op id with
  | none => s
  | some o =>
    (o.parts.filter fun p => p.phase == .held && !s.clashes k ((s.slot k).earlier id) p.va p.size).foldl
      (fun s p => s.startPart k id p.lane) s

/-- The byte ranges of a quad's threads that wait for a line try again. -/
def State.retryLine (s : State) (q l : Nat) : State :=
  (List.range 32).foldl (fun s i =>
    let k := q * 32 + i
    (s.slot k).ops.foldl (fun s o => o.parts.foldl (fun s p =>
      if p.phase == .line && (p.pa.map (· / 256)) == some l then s.startPart k o.id p.lane else s) s) s) s

end Sys2Proof.Machine
end

