-- ==== Sys2Proof/Machine/Coherence.lean ====
section
/-!
DEFINITION. Machine/Coherence.lean: the directory protocol of a die (R162, R165 to R170) and the fill of a bound
region's line (R158), one message at a time. Quads are named by logical number in messages.
-/
namespace Sys2Proof.Machine

/-- An event that finds nothing to do leaves the state as it is (log entry 6). -/
def State.idle (s : State) : Out := .next s

/-! ### Where a job stands in a switch (R98) -/

def State.gang (s : State) (p : Nat) (job : BitVec 12) : Gang := (s.pkg p).gangs.get {} job.toNat
def State.modGang (s : State) (p : Nat) (job : BitVec 12) (f : Gang → Gang) : State :=
  s.modPkg p fun x => { x with gangs := x.gangs.set job.toNat (f (x.gangs.get {} job.toNat)) }

/-- Does a package hold the job's request and response packets where they stand (R98)? Re-injected packets go on at once
(R108). -/
def GangPhase.stops : GangPhase → Bool
  | .freeze | .mark | .sweep | .save | .release | .out => true
  | .none | .restore | .admitted => false

/-- Does a package keep the job's slots, binds and LAUNCH packets from going on (R98, R106, R108)? -/
def GangPhase.bars : GangPhase → Bool
  | .none | .admitted => false
  | _ => true

/-- Is a thread's job frozen where the thread runs: no home begins a request of it (R98)? -/
def State.slotBarred (s : State) (k : Nat) : Bool := (s.gang (peerOfSlot k / 4) (s.slot k).job).phase.bars

/-- A request of threads that wait for it is one of a frozen job alone: the home does not begin it (R98). One that no thread awaits any more, or that another job
awaits too, is begun. -/
def State.barredFor (s : State) (ks : List Nat) : Bool := ks != [] && ks.all s.slotBarred

/-- The threads of a quad that wait for a line at its home, and those that wait for the fill of a stash line of core c (R158, R167). -/
def State.lineWaiters (s : State) (q l : Nat) : List Nat :=
  ((List.range 32).map fun i => q * 32 + i).filter fun k => (s.slot k).ops.any fun o => o.parts.any fun p => p.phase == .line && p.pa.map (· / 256) == some l
def State.fillWaiters (s : State) (c i : Nat) : List Nat :=
  ((List.range 32).map fun n => quadOf c * 32 + n).filter fun k => (s.slot k).ops.any fun o => o.parts.any fun p =>
    p.phase == .line && p.pa == none && (s.stashOf (coreOf k) p.va).any fun x => x.1 == c && x.2 / 256 == i

/-- The quad key of a logical quad of a die. -/
def quadKey (peer q : Nat) : Nat := peer * 256 + q

def State.coh (s : State) (peer k : Nat) : Option CohMsg := (s.die peer).coh[k]?
def State.takeCoh (s : State) (peer k : Nat) : State := s.modDie peer fun d => { d with coh := dropAt d.coh k }
def State.setDir (s : State) (peer l : Nat) (e : DirEntry) : State := s.modDie peer fun d => { d with dir := d.dir.set l e }
def State.eraseDir (s : State) (peer l : Nat) : State := s.modDie peer fun d => { d with dir := d.dir.erase l }

/-- The quads that an entry's invalidation names, other than Q: every pointer, or every quad of every marked group
(R167). -/
def DirEntry.invalidationSet (e : DirEntry) (q : Nat) : List Nat :=
  (if e.coarse then (List.range 256).filter fun i => e.groups.getLsbD (i / 8) else e.ptrs.map (·.2.toNat)).filter (· ≠ q)

/-- The owner an entry names (R166). -/
def DirEntry.owner (e : DirEntry) : Nat := (e.ptrs.get 0 0).toNat

/-- A line read at its home, as a copy in the state given. -/
def State.lineCopy (s : State) (l : Nat) (st : LineState) : Line :=
  let (d, f, p) := s.homeLine l
  { state := st, data := d, full := f, poison := p }

/-- A slice that needs an entry evicts one: invalidations to every quad it names, or a recall to the owner; the entry
is freed when every acknowledgement has arrived (R170). -/
def State.evictDir (s : State) (peer l : Nat) : State :=
  match s.victim peer l with
  | none => s
  | some v =>
    let e := (s.die peer).dir.get {} v
    let set := e.invalidationSet 256
    (s.setDir peer v { e with busy := true, evicting := true, waitAcks := set.foldl NSet.insert [], req := none }).addCoh peer
      (if e.owned then [.recall e.owner v true] else set.map fun q => .inval q v)

/-- Must a request for the line wait in the home input queue: a transaction is busy, or the quad's notice is not
acknowledged (R167, R169)? -/
def State.mustWait (s : State) (peer q l : Nat) : Bool :=
  !s.lineIdle l || (s.quad (quadKey peer q)).notices.mem l ||
    s.sliceFull peer l

/-- HOME_READ: a read request reaches its home (R167): data at once, or a recall from the owner, and the entry's next
form. The quad takes the line and its waiting loads perform. -/
def State.homeRead (s : State) (peer k q l : Nat) : State :=
  if s.mustWait peer q l then
    (if s.lineIdle l && s.sliceFull peer l then s.evictDir peer l else s)
  else
    let e := (s.die peer).dir.get {} l
    let key := quadKey peer q
    if e.owned ∧ e.owner ≠ q then
      (s.takeCoh peer k).setDir peer l { e with busy := true, waitAcks := [e.owner], req := some (q, false) } |>.addCoh peer
        [.recall e.owner l false]
    else if e.owned then (s.takeCoh peer k).retryLine key l
    else
      let s := (s.takeCoh peer k).setDir peer l (e.addSharer q)
      (s.installLine key l (s.lineCopy l .shared)).retryLine key l

/-- HOME_READ (R167); not one of a frozen job (R98). Argument: a the die's peer number, b the message's place. -/
def execHomeRead (s : State) : Out :=
  match s.coh s.arg.a s.arg.b with
  | some (.read q l) => if s.barredFor (s.lineWaiters (quadKey s.arg.a q) l) then s.idle else .next (s.homeRead s.arg.a s.arg.b q l)
  | _ => s.idle

/-- A write request at its home (R167): the grant, or the invalidations or the recall it waits for. -/
def State.homeWrite (s : State) (peer k q l : Nat) : State :=
  if s.mustWait peer q l then
    (if s.lineIdle l && s.sliceFull peer l then s.evictDir peer l else s)
  else
    let e := (s.die peer).dir.get {} l
    let set := e.invalidationSet q
    let s := s.takeCoh peer k
    if e.owned ∧ e.owner ≠ q then
      (s.setDir peer l { e with busy := true, waitAcks := [e.owner], req := some (q, true) }).addCoh peer [.recall e.owner l true]
    else if set = [] then
      (s.setDir peer l { owned := true, ptrs := [(0, BitVec.ofNat 8 q)] }).addCoh peer [.grant q l]
    else
      (s.setDir peer l { e with busy := true, waitAcks := set.foldl NSet.insert [], req := some (q, true) }).addCoh peer
        (set.map fun p => .inval p l)

/-- HOME_WRITE (R167); not one of a frozen job (R98). Argument: a the die's peer number, b the message's place. -/
def execHomeWrite (s : State) : Out :=
  match s.coh s.arg.a s.arg.b with
  | some (.write q l) => if s.barredFor (s.lineWaiters (quadKey s.arg.a q) l) then s.idle else .next (s.homeWrite s.arg.a s.arg.b q l)
  | _ => s.idle

/-- QUAD_INVALIDATE: an invalidation reaches a quad, its L1s and bound regions; the quad acknowledges whether or not it
still holds the line (R162, R168). Argument: a the die's peer number, b the message's place. -/
def execQuadInvalidate (s : State) : Out :=
  match s.coh s.arg.a s.arg.b with
  | some (.inval q l) =>
    let key := quadKey s.arg.a q
    let s := s.pullLine key l false
    .next (((s.dropLine key l).takeCoh s.arg.a s.arg.b).addCoh s.arg.a [.ack q l])
  | _ => s.idle

/-- QUAD_RECALL: a recall reaches the owner, which answers with its dirty sectors and keeps a clean copy or none; one
that no longer holds the line answers without data (R162, R168; log entry 11). Argument: a the die's peer number, b the message's
place. -/
def execQuadRecall (s : State) : Out :=
  match s.coh s.arg.a s.arg.b with
  | some (.recall q l inv) =>
    let key := quadKey s.arg.a q
    let s := s.pullLine key l false
    match s.line key l with
    | some x =>
      let s := if inv then s.dropLine key l else s.setLine key l { x with state := .shared, dirty := 0 }
      -- the words' full/empty and poison bits travel with the data (R164)
      let s := s.writeSectors l x.dirty x.data x.full x.poison
      .next ((s.takeCoh s.arg.a s.arg.b).addCoh s.arg.a [.ack q l])
    | none => .next ((s.takeCoh s.arg.a s.arg.b).addCoh s.arg.a [.ack q l])
  | _ => s.idle

/-- The transaction of a line whose acknowledgements have all arrived (R167, R170). -/
def State.settleDir (s : State) (peer l : Nat) (e : DirEntry) : State :=
  if e.evicting then s.eraseDir peer l
  else match e.req with
    | none => s.setDir peer l { e with busy := false }
    | some (q, true) => (s.setDir peer l { owned := true, ptrs := [(0, BitVec.ofNat 8 q)] }).addCoh peer [.grant q l]
    | some (q, false) =>
      let key := quadKey peer q
      let s := s.setDir peer l { ptrs := [(0, BitVec.ofNat 8 e.owner), (1, BitVec.ofNat 8 q)] }
      (s.installLine key l (s.lineCopy l .shared)).retryLine key l

/-- INVALIDATION_ACK: an acknowledgement reaches the home; when the count is met the transaction ends (R167, R168).
Argument: a the die's peer number, b the message's place. -/
def execInvalidationAck (s : State) : Out :=
  match s.coh s.arg.a s.arg.b with
  | some (.ack q l) =>
    let peer := s.arg.a
    let s := s.takeCoh peer s.arg.b
    match (s.die peer).dir.find l with
    | none => .next s
    | some e =>
      let e := { e with waitAcks := e.waitAcks.remove q }
      -- a recalled line whose data is in the owner's notice waits for the notice too (R168, R169)
      if e.waitAcks = [] ∧ ¬(e.owned ∧ (s.quad (quadKey peer q)).notices.mem l) then .next (s.settleDir peer l e)
      else .next (s.setDir peer l e)
  | _ => s.idle

/-- WRITE_GRANT: the grant reaches the writer's quad, which owns the line; its waiting stores perform (R167, R189).
Argument: a the die's peer number, b the message's place. -/
def execWriteGrant (s : State) : Out :=
  match s.coh s.arg.a s.arg.b with
  | some (.grant q l) =>
    let key := quadKey s.arg.a q
    let s := s.takeCoh s.arg.a s.arg.b
    let s := match s.line key l with
      | some x => s.setLine key l { x with state := .owned }
      | none => s.installLine key l (s.lineCopy l .owned)
    .next (s.retryLine key l)
  | _ => s.idle

/-- EVICTION_NOTICE: a notice reaches the home (R168): an idle pointer entry loses the quad's pointer, a coarse or busy
entry stays as it is, and the notice is acknowledged (R169); its dirty sectors stand at the home since it left (log entry 11). Argument: a the die's peer
number, b the message's place. -/
def execEvictionNotice (s : State) : Out :=
  match s.coh s.arg.a s.arg.b with
  | some (.notice q l) =>
    let peer := s.arg.a
    let s := s.takeCoh peer s.arg.b
    let s := s.modQuad (quadKey peer q) fun x => { x with notices := x.notices.remove l }
    match (s.die peer).dir.find l with
    | none => .next s
    | some e =>
      if e.busy then
        -- only the owner's notice completes a recall
        (if e.owned ∧ e.owner = q ∧ e.waitAcks = [] then .next (s.settleDir peer l e) else .next s)
      else if e.coarse then .next s
      else
        let ptrs := e.ptrs.filter fun p => p.2.toNat ≠ q
        .next (if ptrs = [] then s.eraseDir peer l else s.setDir peer l { e with ptrs := ptrs })
  | _ => s.idle

/-- STASH_LINE_FILL: the first touch of a bound region's line fills it, and the accesses that wait for it go on (R158); not while a write of the quad to the line is
on its way to another die (R186), and not for a frozen job alone (R98); where the line's home refuses the
job, they end as accesses to a refused peer (R40, R41).
Argument: a the core, b the line number within the stash, 0 to 1,023. -/
def execStashLineFill (s : State) : Out :=
  let c := s.arg.a
  let i := s.arg.b / 128
  let l := (s.region c i).pa / 256 + s.arg.b % 128
  if i < 8 ∧ (s.region c i).bound ∧ s.lineFree l ∧ (paPeer (l * 256) = peerOf (quadOf c) ∨ ¬s.writing (quadOf c) l) ∧ ¬s.barredFor (s.fillWaiters c s.arg.b) then
    let refused := s.fillRefused c i (s.arg.b % 128)
    let s := if refused.isSome then s else s.fillRegionLine c i (s.arg.b % 128)
    .next ((List.range 32).foldl (fun s n =>
      let k := quadOf c * 32 + n
      (s.slot k).ops.foldl (fun s o => o.parts.foldl (fun s p =>
        if p.phase == .line && p.pa == none then
          match refused with
          | none => s.startPart k o.id p.lane
          | some cause =>
            if (s.stashOf (coreOf k) p.va).any fun x => x.1 == c && x.2 / 256 == s.arg.b then
              s.partRefused k o.id p.lane cause (paPeer (s.region c i).pa)
            else s
        else s) s) s) s)
  else s.idle

end Sys2Proof.Machine
end

