-- ==== Sys2Proof/Machine/Net.lean ====
section
/-!
DEFINITION. Machine/Net.lean: packets on the Tarmel ring and the Vilam fabric (R7 to R12, R27 to R40), and the requests
that a home performs: LOAD, STORE, ATOMIC, FEOP and COPYW (R41 to R44, R55, R56, R165).
-/
namespace Sys2Proof.Machine

/-! ### Packets (R32 to R35) -/

/-- A packet class (R34). -/
def Pkt.isRequest (k : Pkt) : Bool := 1 ≤ k.type.toNat && k.type.toNat ≤ 0x0A
def Pkt.isResponse (k : Pkt) : Bool := 0x20 ≤ k.type.toNat && k.type.toNat ≤ 0x23
def Pkt.isTree (k : Pkt) : Bool := 0x10 ≤ k.type.toNat && k.type.toNat ≤ 0x13
/-- Is a packet malformed: a type R34 does not list, a nonzero zero field, more than 256 payload bytes (R35)? -/
def Pkt.malformed (k : Pkt) : Bool :=
  !(k.isRequest || k.isResponse || k.isTree || k.type == 0x30) || k.zeros != 0 || 256 < k.plen.toNat

/-- The four header dwords of a packet (R33). -/
def Pkt.header (k : Pkt) : List Word :=
  [k.tag ++ k.seq ++ (bits k.zeros 0 4 : BitVec 4) ++ k.job ++ b1 k.poison ++ b1 k.phase ++ b1 k.ordered ++ k.stream ++ k.scope ++ k.type,
   (bits k.zeros 4 1 : BitVec 1) ++ k.req ++ k.plen ++ k.hops ++ k.inter ++ k.dst ++ k.src,
   (bits k.zeros 5 12 : BitVec 12) ++ k.fn ++ k.size ++ k.off, k.operand]

/-- The virtual channel that a packet came by (R32): its class, and the hops it had taken before the last. A collective or barrier packet takes channel 4. -/
def Pkt.vc (k : Pkt) : Nat := if k.isTree then 4 else (if 0x20 ≤ k.type.toNat then 4 else 0) + (k.hops.toNat - 1) % 4

/-- A quad's mesh router, by its physical block (R13, R100). -/
def State.blockOf (s : State) (peer q : Nat) : Nat :=
  let r := (s.die peer).remapOf q
  (bits r 0 4 : BitVec 4).toNat * 17 + (bits r 4 5 : BitVec 5).toNat

/-! ### Where a job stands in a switch, and late packets (R98, R107) -/

/-- Is package x populated, as die 0 of package p holds its peers (R39)? A package is to itself. -/
def State.populated (s : State) (p x : Nat) : Bool :=
  x == p || (List.range 4).any fun d => (s.die (4 * p)).peerState.get 0 (4 * x + d) != 0

/-- The populated packages that the job's partition map admits, as die 0 of package p holds it (R39, R97; log entry 21). -/
def State.partition (s : State) (p : Nat) (job : BitVec 12) : List Nat :=
  (List.range 1058).filter fun x => s.populated p x && (List.range 4).any fun d => s.inPart (4 * p) job (4 * x + d)

/-- What Slate or the firmware reports to the host. -/
def State.report (s : State) (p : Nat) (what : String) (vs : List Nat) : State :=
  { s with host := s.host ++ [.slate p what vs] }

/-- LATEFAULT (R107): the job is damaged on every package of its partition, the loss counted where it happened. -/
def State.lateFault (s : State) (p : Nat) (k : Pkt) : State :=
  let s := (s.partition p k.job).foldl (fun s x =>
    let s := s.modGang x k.job fun g => { g with damaged := true }
    (List.range 4).foldl (fun s d => s.agentWrite (paOf (4 * x + d) ((s.gang x k.job).save.toNat + 0x18)) 8 (2 : Word)) s) s
  let s := s.modGang p k.job fun g => { g with lateFaults := g.lateFaults + 1 }
  (s.agentWrite (paOf (4 * p) ((s.gang p k.job).save.toNat + 0x30)) 8 (BitVec.ofNat 64 (s.gang p k.job).lateFaults)).report p
    "LATEFAULT" (k.job.toNat :: k.header.map (·.toNat))

/-- A late packet: the next record of the package's late queue, or LATEFAULT (R107). -/
def State.late (s : State) (p unit input : Nat) (k : Pkt) (loc : Loc) : State :=
  let g := s.gang p k.job
  if g.phase = .out ∨ 4096 ≤ g.late.length then s.lateFault p k
  else s.modGang p k.job fun g =>
    { g with late := g.late ++ [{ unit := unit, input := input, vc := k.vc, index := g.late.length, pkt := k, loc := loc }] }

/-- Has the sweep of the job closed an input of the package to a channel (R100)? An input of the Vilam router is closed channel by channel, as its markers
come; every other input as the sweep begins. -/
def Gang.closed (g : Gang) (unit input vc : Nat) : Bool :=
  match g.phase with
  | .mark => unit == 1092 && input < 35 && g.marks.mem (input * 8 + vc)
  | .sweep => unit != 1092 || 35 ≤ input || g.swept.mem input || g.marks.mem (input * 8 + vc)
  | .save | .release | .out => true
  | _ => false

/-! ### The Tarmel ring (R7, R8, R12) -/

/-- The boundary between two adjacent dies, and the direction of a crossing (R7). -/
def boundaryOf (a b : Nat) : Option (Nat × Nat) :=
  if a = 0 ∧ b = 1 then some (0, 0) else if a = 1 ∧ b = 0 then some (0, 1)
  else if a = 1 ∧ b = 3 then some (1, 0) else if a = 3 ∧ b = 1 then some (1, 1)
  else if a = 3 ∧ b = 2 then some (2, 0) else if a = 2 ∧ b = 3 then some (2, 1)
  else if a = 2 ∧ b = 0 then some (3, 0) else if a = 0 ∧ b = 2 then some (3, 1)
  else none

/-- The dies a packet crosses to by R8: horizontal first. -/
def ringPath (a b : Nat) : List Nat :=
  if a = b then []
  else if (boundaryOf a b).isSome then [b]
  else [if a = 0 then 1 else if a = 3 then 2 else if a = 1 then 0 else 3, b]

/-- The other way round the ring (R12). -/
def ringOther (a b : Nat) : List Nat :=
  if a = b then []
  else if (boundaryOf a b).isSome then
    (if a = 0 then (if b = 1 then [2, 3, 1] else [1, 3, 2])
     else if a = 1 then (if b = 0 then [3, 2, 0] else [0, 2, 3])
     else if a = 2 then (if b = 0 then [3, 1, 0] else [0, 1, 3])
     else (if b = 1 then [2, 0, 1] else [1, 0, 2]))
  else [if a = 0 then 2 else if a = 3 then 1 else if a = 1 then 3 else 0, b]

/-- Is a direction of a boundary down: no active group (R12)? The manual speaks of the boundary; the model judges each direction by itself (log entry 41). -/
def Pkg.boundaryDown (x : Pkg) (b dir : Nat) : Bool :=
  (List.range 24).all fun g => (x.boundaries.get {} b).disabled.mem (dir * 24 + g)
/-- Has it a group that sends now: neither disabled nor retraining (R11)? -/
def Pkg.boundarySends (x : Pkg) (b dir : Nat) : Bool :=
  (List.range 24).any fun g => !(x.boundaries.get {} b).disabled.mem (dir * 24 + g) && !(x.boundaries.get {} b).retraining.mem (dir * 24 + g)

/-- Does every crossing of a path stand? -/
def Pkg.pathStands (x : Pkg) : Nat → List Nat → Bool
  | _, [] => true
  | a, b :: r => (match boundaryOf a b with
    | some (n, d) => !x.boundaryDown n d
    | none => false) && x.pathStands b r

/-- The next die toward a die of the package (R8, R12). -/
def Pkg.ringNext (x : Pkg) (a b : Nat) : Option Nat :=
  if x.pathStands a (ringPath a b) then (ringPath a b).head? else (ringOther a b).head?

/-! ### The Vilam graph and its routing (R27 to R30, R36, R37) -/

/-- The sets X and Y in ascending order (R28). -/
def setX : List Nat := [1, 2, 4, 7, 8, 9, 14, 15, 16, 19, 21, 22]
def setY : List Nat := [1, 3, 5, 6, 10, 11, 12, 13, 17, 18, 20, 22]

/-- Package id of coordinates, and the coordinates of an id (R27). -/
def packageOf (h x y : Nat) : Nat := h * 529 + x % 23 * 23 + y % 23
def halfOf (p : Nat) : Nat := p / 529
def xOf (p : Nat) : Nat := p % 529 / 23
def yOf (p : Nat) : Nat := p % 23

/-- The package behind a port (R29). -/
def neighbour (p i : Nat) : Nat :=
  if i < 12 then packageOf (halfOf p) (xOf p) (yOf p + ((if halfOf p = 0 then setX else setY)[i]?).getD 0)
  else
    let m := i - 12
    if halfOf p = 0 then packageOf 1 m (yOf p + 23 * 23 - m * xOf p) else packageOf 0 m (m * xOf p + yOf p)

/-- The port of p that leads to a package, where they are linked (R28). -/
def portTo (p q : Nat) : Option Nat := (List.range 35).find? fun i => neighbour p i == q

/-- The least member a of a set for which d − a is in it too. -/
def splitOf (set : List Nat) (d : Nat) : Option Nat := set.find? fun a => set.contains ((d + 23 - a) % 23)

/-- The quotient of two residues modulo 23, the divisor not 0. -/
def divMod (a b : Nat) : Nat := (((List.range 23).find? fun m => m * b % 23 == a % 23)).getD 0

/-- The first package on the minimal path (R30). -/
def minimalVia (p q : Nat) : Nat :=
  if (portTo p q).isSome then q
  else if halfOf p = halfOf q then
    let set := if halfOf p = 0 then setX else setY
    if xOf p = xOf q then packageOf (halfOf p) (xOf p) (yOf p + (splitOf set ((yOf q + 23 - yOf p) % 23)).getD 0)
    else if halfOf p = 0 then
      let m := divMod (yOf p + 23 - yOf q) (xOf p + 23 - xOf q)
      packageOf 1 m (yOf p + 23 * 23 - m * xOf p)
    else
      -- two routers of half 1 share the router (0, x, y) with y = m·x + c = m'·x + c'
      let x := divMod (yOf q + 23 - yOf p) (xOf p + 23 - xOf q)
      packageOf 0 x (xOf p * x + yOf p)
  else if halfOf p = 0 then
    let d := (yOf p + 23 * 23 - xOf q * xOf p + 23 - yOf q) % 23
    if setX.contains d then packageOf 0 (xOf p) (xOf q * xOf p + yOf q)
    else packageOf 1 (xOf q) (yOf p + 23 * 23 - xOf q * xOf p)
  else
    let d := (yOf q + 23 * 23 - xOf p * xOf q + 23 - yOf p) % 23
    if setY.contains d then packageOf 1 (xOf p) (yOf q + 23 * 23 - xOf p * xOf q)
    else packageOf 0 (xOf q) (xOf p * xOf q + yOf p)

/-- The minimal first port (R30). -/
def minimalPort (p q : Nat) : Nat := (portTo p (minimalVia p q)).getD 63
/-- Hops between two packages: 0, 1 or 2 (R28). -/
def hopsTo (p q : Nat) : Nat := if p = q then 0 else if (portTo p q).isSome then 1 else 2

/-- A routing entry (R36); an entry nobody wrote has port 63 and the rest 0. -/
def Pkg.route (x : Pkg) (d : Nat) : BitVec 128 := x.routes.get 63 d
def routeValid (e : BitVec 128) : Bool := e.getLsbD 7
def routePort (e : BitVec 128) : Nat := (bits e 0 6 : BitVec 6).toNat
def routeAlt (e : BitVec 128) (j : Nat) : Option Nat :=
  if (bits e (16 + 12 * j) 12 : BitVec 12).getLsbD 11 then some (bits e (16 + 12 * j) 11 : BitVec 11).toNat else none

/-- A packet's length in flits (R33). -/
def Pkt.flits (k : Pkt) : Nat := 1 + (k.plen.toNat - 32 + 63) / 64

/-- The package that a packet makes for now (R37). -/
def Pkt.target (k : Pkt) : Nat := if k.phase then k.dst.toNat / 4 else k.inter.toNat

/-- Flits of the packets at a router that go out by a port: the output queue's occupancy (R37). Collective and barrier packets wait for no output here. -/
def State.occ (s : State) (p port : Nat) : Nat :=
  s.net.foldl (fun n f => match f.loc with
    | .router q _ => if q = p ∧ ¬f.pkt.isTree ∧ routePort ((s.pkg p).route f.pkt.target) = port then n + f.pkt.flits else n
    | _ => n) 0

/-- The choice at the source router (R37): the packet with its phase and intermediate, and the rotation's next place. -/
def State.chooseRoute (s : State) (p : Nat) (k : Pkt) : Pkt × Nat :=
  let x := s.pkg p
  let d := k.dst.toNat / 4
  let e := x.route d
  let turn := x.altTurn.get 0 d
  if !k.isResponse then (k, turn)
  else match ((List.range 8).map fun j => (turn + j) % 8).find? fun j => (routeAlt e j).isSome with
    | none => (k, turn)
    | some j =>
      let i := (routeAlt e j).getD 0
      let cMin := s.occ p (routePort e) * hopsTo p d
      let cAlt := s.occ p (routePort (x.route i)) * (hopsTo p i + hopsTo i d)
      if cAlt + x.adbias.toNat < cMin then ({ k with phase := false, inter := BitVec.ofNat 11 i }, (j + 1) % 8) else (k, (j + 1) % 8)

/-! ### PACKET_FORWARD (R8, R35, R37, R98, R107) -/

/-- The package where a packet stands. -/
def Loc.pkg : Loc → Nat
  | .source q | .arrived q => q / 4
  | .ring p _ | .router p _ | .hostPort p => p

/-- Does an earlier request of the same source and destination stand at the same place? Requests keep their order on
their one path (R37); while the route to the destination changes, an earlier one anywhere goes first (R38). One of a frozen job delays no other job's (R98). -/
def State.overtakes (s : State) (k : Nat) (f : Flight) : Bool :=
  f.pkt.isRequest && (s.net.take k).any fun g =>
    g.pkt.isRequest && g.pkt.src == f.pkt.src && g.pkt.dst == f.pkt.dst &&
      (g.pkt.job == f.pkt.job || !(s.gang g.loc.pkg g.pkt.job).phase.bars) &&
      (g.loc == f.loc || (s.pkg (f.pkt.src.toNat / 4)).heldDest.mem (f.pkt.dst.toNat / 4))

/-- Does a package hold a packet where it stands for a switch of its job (R98)? -/
def State.stopped (s : State) (f : Flight) : Bool := (s.gang f.loc.pkg f.pkt.job).phase.stops && (f.pkt.isRequest || f.pkt.isResponse)

/-- The boundary crossing that a packet on the ring makes next: its package, boundary and direction (R8, R12). -/
def State.crossing (s : State) (f : Flight) : Option (Nat × Nat × Nat) :=
  match f.loc with
  | .ring p die =>
    let goal := if f.pkt.dst.toNat = hostPeer then 0 else f.pkt.dst.toNat % 4
    if die = goal then none
    else ((s.pkg p).ringNext die goal).bind fun n => (boundaryOf die n).map fun b => (p, b.1, b.2)
  | _ => none

/-- Must a packet on the ring wait for one that came to the same crossing before it (R11)? One that a failed boundary held waits for those only (R12). -/
def State.ringBlocked (s : State) (k : Nat) (f : Flight) : Bool :=
  match s.crossing f with
  | none => false
  | some b => (s.net.take k).any fun g => s.crossing g == some b && !s.stopped g && (g.held || !f.held)

/-- Must a packet wait until what a failed boundary held of its source die has been resent (R12)? Held packets of a job that a switch has
stopped keep nothing back, and re-injected ones are no longer held (DESIGN CHOICE, log entry 55). -/
def State.behindHeld (s : State) (f : Flight) : Bool :=
  !f.held && (match f.loc with
    | .source _ | .ring _ _ => s.net.any fun g => g.held && g.pkt.src == f.pkt.src && g.loc.pkg == f.loc.pkg && !s.stopped g
    | _ => false)

/-- Packet k of the list replaced, or dropped. -/
def State.putFlight (s : State) (k : Nat) (f : Flight) : State := { s with net := s.net.set k f }
def State.dropFlight (s : State) (k : Nat) : State := { s with net := dropAt s.net k }
/-- Packet k of the list comes to a place, behind what stands there already where it is on the ring (R11). -/
def State.moved (s : State) (k : Nat) (f : Flight) (loc : Loc) : State :=
  let g : Flight := { f with loc := loc, held := false, stamp := s.net.foldl (fun n g => max n g.stamp) 0 + 1 }
  match loc with
  | .ring _ _ => { s with net := dropAt s.net k ++ [g] }
  | _ => s.putFlight k g

/-- A packet moves to another place; where the job's sweep has closed the input it reaches, it is late (R107). -/
def State.moveFlight (s : State) (k : Nat) (f : Flight) (loc : Loc) (unit input : Nat) : State :=
  let g := s.gang loc.pkg f.pkt.job
  if g.closed unit input f.pkt.vc ∧ (f.pkt.isRequest ∨ f.pkt.isResponse) then
    -- a re-injected packet waits for a package that has not yet restored the job (R108)
    if (s.gang f.loc.pkg f.pkt.job).phase = .restore then s
    else (s.dropFlight k).late loc.pkg unit input f.pkt loc
  else s.moved k f loc

/-- A malformed packet at a router's input is discarded, counted on the port and reported (R35). -/
def State.dropMalformed (s : State) (k p input : Nat) : State :=
  ((s.dropFlight k).modPkg p fun x =>
    { x with ports := x.ports.set input { x.ports.get {} input with errors := (x.ports.get {} input).errors + 1 } }).report p "malformed packet" [input]

/-- Does the link behind a port stand: is the port disabled at neither end (R31)? -/
def State.linkStands (s : State) (p i : Nat) : Bool :=
  let q := neighbour p i
  !((s.pkg p).ports.get {} i).disabled && (match portTo q p with
    | some j => !((s.pkg q).ports.get {} j).disabled
    | none => false)

/-- Where a collective or barrier packet that a router forms for a port stands: at the neighbour behind it, or, while the port is disabled at either end, at its output,
which stands as input 36 plus the port (R31, R32). -/
def State.treePlace (s : State) (p port : Nat) : Loc :=
  if s.linkStands p port then .router (neighbour p port) ((portTo (neighbour p port) p).getD 0) else .router p (36 + port)

/-- A tree packet to the neighbour behind a port, a new packet of one hop (R32). -/
def State.treeSend (s : State) (p port : Nat) (pkt : Pkt) : State :=
  { s with net := s.net ++ [{ pkt := { pkt with hops := 1 }, loc := s.treePlace p port }] }

/-- One that waits at the output of a port goes on where the port is enabled. -/
def State.treeOut (s : State) (k p port : Nat) (f : Flight) : State := s.putFlight k { f with loc := s.treePlace p port }

/-- A SWEEP marker comes to a router's input (R100): kept for the switch of its job and instance that the package is in, else discarded. -/
def State.marker (s : State) (k p input : Nat) (m : Pkt) : State :=
  let g := s.gang p m.job
  let s := s.dropFlight k
  if zx g.instId = m.operand ∧ (g.phase = .freeze ∨ g.phase = .mark ∨ g.phase = .sweep) then
    s.modGang p m.job fun g => { g with marks := g.marks.insert (input * 8 + m.fn.toNat % 8) }
  else s

/-- A packet at a router goes out by its routing table, or comes to its package's dies (R37). The manual does not say what becomes of one whose entry is not
valid or whose port is disabled at either end: it stays where it is until the entry is written again (R38; log entry 38). -/
def State.forwardRouter (s : State) (k p input : Nat) (f : Flight) : State :=
  let x := s.pkg p
  if f.pkt.malformed then s.dropMalformed k p input
  else
    let pkt := if !f.pkt.phase ∧ f.pkt.inter.toNat = p then { f.pkt with phase := true } else f.pkt
    if pkt.phase ∧ pkt.dst.toNat / 4 = p then
      s.moveFlight k { f with pkt := pkt, came := input } (.arrived pkt.dst.toNat) 1092 input
    else
      let (pkt, turn) := if input = 35 ∧ pkt.hops = 0 then (s.dropFlight k).chooseRoute p pkt else (pkt, x.altTurn.get 0 (pkt.dst.toNat / 4))
      let e := x.route pkt.target
      let port := routePort e
      if routeValid e ∧ port < 35 ∧ s.linkStands p port ∧ pkt.hops.toNat < 4 then
        let s := s.modPkg p fun x => { x with altTurn := x.altTurn.set (pkt.dst.toNat / 4) turn }
        let q := neighbour p port
        let back := (portTo q p).getD 0
        s.moveFlight k { f with pkt := { pkt with hops := pkt.hops + 1 }, came := back } (.router q back) 1092 back
      else s

/-- The unit and input of its die that a packet comes to (R100): a ticket unit, the mesh router of a core's or a tile's quad, a home's input queue, or for a response
the mesh router of the requester's quad. -/
def State.comesTo (s : State) (k : Pkt) : Nat × Nat :=
  let q := k.dst.toNat
  let d := q % 4
  if 0x08 ≤ k.type.toNat ∧ k.type.toNat ≤ 0x0A then (1094 + d, 0)
  else if k.type = 0x07 then (d * 272 + s.blockOf q (k.off.toNat % 1024 / 4), 4)
  else if k.type = 0x06 then (d * 272 + s.blockOf q (k.off.toNat % 256), 4)
  else if k.isRequest then
    let sl := sliceOf k.off.toNat
    (2048 + d * 544 + 2 * s.blockOf q (sl / 2) + sl % 2, 1)
  else (d * 272 + s.blockOf q (k.req.toNat / 32), 4)

/-- A packet on the ring goes to the next die, or leaves the ring at its own (R8, R12, R55). -/
def State.forwardRing (s : State) (k p die : Nat) (f : Flight) : State :=
  let host := f.pkt.dst.toNat = hostPeer
  let goal := if host then 0 else f.pkt.dst.toNat % 4
  if die = goal then
    (if host then s.moveFlight k f (.hostPort p) 1093 0
     else s.moveFlight k f (.arrived f.pkt.dst.toNat) (s.comesTo f.pkt).1 (s.comesTo f.pkt).2)
  else match (s.pkg p).ringNext die goal with
    | none => s
    | some n => match boundaryOf die n with
      | none => s
      | some (b, dir) =>
        if (s.pkg p).boundarySends b dir then s.moveFlight k { f with came := die } (.ring p n) (1088 + b) (1 - dir) else s

/-- PACKET_FORWARD: a packet is taken whole one place further: from its source interface to the ring or its package's
router, along the ring, from router to router, or to its die (R8, R12, R37). Held are: packets of a job that the package
has frozen (R98), new requests to a destination whose route changes (R38), a request behind an earlier one of its path, and a packet behind those that a
boundary held (R11, R12). A collective or barrier packet is absorbed at each router by its own event (R32, R49), a SWEEP marker at the input it comes to (R100).
Argument: a the packet's place in the list. -/
def execPacketForward (s : State) : Out :=
  match s.net[s.arg.a]? with
  | none => s.idle
  | some f =>
    if s.stopped f ∨ s.overtakes s.arg.a f ∨ s.ringBlocked s.arg.a f ∨ s.behindHeld f then s.idle
    else match f.loc with
      | .source q =>
        let d := f.pkt.dst.toNat
        if d = hostPeer ∨ d / 4 = q / 4 then .next (s.moved s.arg.a f (.ring (q / 4) (q % 4)))
        else if f.pkt.isRequest ∧ (s.pkg (q / 4)).heldDest.mem (d / 4) then s.idle
        else .next (s.moved s.arg.a f (.router (q / 4) 35))
      | .ring p die => .next (s.forwardRing s.arg.a p die f)
      | .router p input =>
        if f.pkt.malformed then .next (s.dropMalformed s.arg.a p input)
        else if f.pkt.isTree then (if input < 36 then s.idle else .next (s.treeOut s.arg.a p (input - 36) f))
        else if f.pkt.type = 0x30 then .next (s.marker s.arg.a p input f.pkt)
        else .next (s.forwardRouter s.arg.a p input f)
      | _ => s.idle

/-! ### Requests at their home -/

/-- The answer to a request: a packet back to its source with the request's tag (R33). -/
def Pkt.answer (k : Pkt) (type : BitVec 8) : Pkt :=
  { type := type, scope := k.scope, stream := k.stream, ordered := false, job := k.job, seq := k.seq, tag := k.tag,
    src := k.dst, dst := k.src, req := k.req, size := k.size }

/-- What a request to the host is for: a thread's packet, a SIGNAL, a completion signal, a DEPEND, or a piece of a COPY. -/
def reqThread : Nat := 0
def reqSignal : Nat := 1
def reqComplete : Nat := 2
def reqDepend : Nat := 3
def reqCopy : Nat := 4

/-- The tag of AORs, which belong to no stream (R212). -/
def aorTag : BitVec 16 := 0xFFFF

/-- NACK with a reason: 1 BUSY, 2 PARTITION in the operation field (R41, R44); it names the type of the request in `operand` and its offset; one that refuses an AOR
keeps its payload. The manual gives neither the place of the reason nor its codes (log entry 10). -/
def Pkt.nack (k : Pkt) (reason : BitVec 4) : Pkt :=
  { k.answer 0x22 with fn := reason, operand := zx k.type, off := k.off, payload := if k.tag = aorTag then k.payload else 0, plen := if k.tag = aorTag then k.plen else 0 }
def nackBusy : BitVec 4 := 1
def nackPartition : BitVec 4 := 2
/-- ACK; its poison bit says that the write was refused as one to a refused peer (R17, R446). -/
def Pkt.ack (k : Pkt) (refused : Bool) : Pkt := { k.answer 0x21 with poison := refused }
/-- RESP with up to 256 bytes of data. -/
def Pkt.resp (k : Pkt) (n : Nat) (data : BitVec 2048) (poison : Bool) : Pkt :=
  { k.answer 0x20 with payload := data, plen := BitVec.ofNat 9 n, poison := poison }

/-- Does a package keep a request of a job that has come to its target from being begun (R98)? From the job's return on a home begins those that are back in their
places (R108, R437); a core, a tile store or a ticket unit waits until the job's slots are admitted. -/
def State.beginBarred (s : State) (p : Nat) (k : Pkt) : Bool :=
  k.isRequest && (if k.type.toNat ≤ 5 then (s.gang p k.job).phase.stops else (s.gang p k.job).phase.bars)

/-- The packet at place k of the list, where it has arrived, has the type, does not overtake and may be begun: no home begins a
request of a job that its package has frozen (R98). -/
def State.arrived (s : State) (k : Nat) (type : BitVec 8) : Option (Pkt × Nat) :=
  match s.net[k]? with
  | some f => match f.loc with
    | .arrived q =>
      if f.pkt.type = type ∧ ¬s.overtakes k f ∧ ¬s.beginBarred (q / 4) f.pkt then some (f.pkt, q) else none
    | _ => none
  | none => none

/-- The packet at place k of the list, where it waits at a package's host port (R55) and the package has not frozen its job (R98). -/
def State.atHostPort (s : State) (k : Nat) (type : BitVec 8) : Option (Pkt × Nat) :=
  match s.net[k]? with
  | some f => match f.loc with
    | .hostPort p => if f.pkt.type = type ∧ ¬s.overtakes k f ∧ ¬s.stopped f then some (f.pkt, p) else none
    | _ => none
  | none => none

/-- A request at a home: discarded and answered NACK PARTITION where its job is not admitted (R41); else it waits while a
transaction on its line is busy (R167), or is performed. -/
def State.atHome (s : State) (k : Nat) (pkt : Pkt) (q : Nat) (f : State → Nat → State) : State :=
  let a := paOf q pkt.off.toNat
  if !s.admitted q pkt.job then (s.dropFlight k).send (pkt.nack nackPartition)
  else if !s.lineFree (a / 256) then s
  else f (s.dropFlight k) a

/-- Poison of the words that n bytes touch, as the home holds them (R446). -/
def State.poisonIn (s : State) (a n : Nat) : Bool := (List.range ((a % 8 + n + 7) / 8)).any fun i => s.poisonAt (a / 8 * 8 + 8 * i)

/-- Is a word at one end of n bytes written in part, and poisoned (R446)? -/
def State.partialPoison (s : State) (a n : Nat) : Bool :=
  (a % 8 != 0 && s.poisonAt a) || ((a + n) % 8 != 0 && s.poisonAt (a + n))

/-- A non-posted request for the host leaves die 0's port (R55, R56): at most 768 are outstanding (R52). -/
def State.toHost (s : State) (k p : Nat) (pkt : Pkt) : State :=
  if (s.pkg p).pcieLanes = 0 ∨ 768 ≤ (s.pkg p).hostReqs.length then s
  else (s.dropFlight k).modPkg p fun x => { x with hostReqs := x.hostReqs ++ [{ pkt := some pkt }] }

/-- LOAD: performed at its home and answered by RESP (R42); one of 256 bytes brings the line with the full/empty and
poison bits of its words (R164). A lost line, or a poisoned word of a smaller load, answers poison (R17, R446). One for
host memory goes to the host. Argument: a the packet's place. -/
def execLoad (s : State) : Out :=
  match s.arrived s.arg.a 0x01, s.atHostPort s.arg.a 0x01 with
  | some (pkt, q), _ => .next (s.atHome s.arg.a pkt q fun s a =>
      let n := 2 ^ pkt.size.toNat
      if s.lost a then s.send (pkt.resp n 0 true)
      else
        let s := s.agentClean a n
        if n = 256 then
          let (d, fe, po) := s.homeLine (a / 256)
          s.send { pkt.resp 256 d false with operand := po ++ fe }
        else s.send (pkt.resp n ((s.memRead a n).setWidth 2048) (s.poisonIn a n)))
  | none, some (pkt, p) => .next (s.toHost s.arg.a p pkt)
  | none, none => s.idle

/-- n bytes written at their home after its directory has given up every copy (R42, R167); a partial write of a poisoned
word, or one to a lost line, is refused. -/
def State.homeStore (s : State) (pkt : Pkt) (a n : Nat) : State :=
  if s.lost a || (s.agentObtain a n).partialPoison a n then s.send (pkt.ack true)
  else (s.agentWrite a n pkt.payload).send (pkt.ack false)

/-- STORE: written at its home and acknowledged (R42). One for host memory has performed once die 0's port accepts it
(R55). Argument: a the packet's place. -/
def execStore (s : State) : Out :=
  match s.arrived s.arg.a 0x02, s.atHostPort s.arg.a 0x02 with
  | some (pkt, q), _ => .next (s.atHome s.arg.a pkt q fun s a => s.homeStore pkt a (2 ^ pkt.size.toNat))
  | none, some (pkt, p) =>
    if (s.pkg p).pcieLanes = 0 then s.idle
    else
      let s := (s.dropFlight s.arg.a).memWrite (paOf hostPeer pkt.off.toNat) (2 ^ pkt.size.toNat) pkt.payload
      .next (s.send { pkt.ack false with src := BitVec.ofNat 13 (4 * p) })
  | none, none => s.idle

/-- COPYW: as a store of the payload's bytes (R42). Argument: a the packet's place. -/
def execCopyw (s : State) : Out :=
  match s.arrived s.arg.a 0x05, s.atHostPort s.arg.a 0x05 with
  | some (pkt, q), _ => .next (s.atHome s.arg.a pkt q fun s a => s.homeStore pkt a pkt.plen.toNat)
  | none, some (pkt, p) =>
    if (s.pkg p).pcieLanes = 0 then s.idle
    else
      let s := (s.dropFlight s.arg.a).memWrite (paOf hostPeer pkt.off.toNat) pkt.plen.toNat pkt.payload
      .next (s.send { pkt.ack false with src := BitVec.ofNat 13 (4 * p) })
  | none, none => s.idle

/-- An atomic at its home: indivisible, the old value answered, AFADD's flags with it (R42, R297, R298), in the places of log entry 10. A poisoned word
stays as it is (R446). -/
def State.homeAtomic (s : State) (pkt : Pkt) (a : Nat) : State :=
  let s := s.homeObtain (a / 256)
  let w := s.word a
  if s.lost a || s.poisonAt a then s.send (if pkt.tag = aorTag then pkt.resp 16 pkt.payload true else pkt.resp 8 0 true)
  else
    let fn := pkt.fn.toNat
    let r := if fn = 9 then atomFn 9 w (pkt.payload.setWidth 64) pkt.operand else atomFn fn w pkt.operand 0
    (s.memWrite a 8 r.1).send { (if pkt.tag = aorTag then pkt.resp 16 pkt.payload false else pkt.resp 8 (r.2.setWidth 2048) false) with operand := w }

/-- ATOMIC: a read-modify-write at its home (R42, R165). AADD, ASWAP and CAS of host memory go to the host (R56).
Argument: a the packet's place. -/
def execAtomic (s : State) : Out :=
  match s.arrived s.arg.a 0x03, s.atHostPort s.arg.a 0x03 with
  | some (pkt, q), _ => .next (s.atHome s.arg.a pkt q fun s a => s.homeAtomic pkt a)
  | none, some (pkt, p) => .next (s.toHost s.arg.a p pkt)
  | none, none => s.idle

/-- A full/empty operation whose condition holds performs at its home and is answered (R43, R294, R446): none where the
condition fails. -/
def State.homeFe (s : State) (pkt : Pkt) (a : Nat) : Option State :=
  let w := s.word a
  let full := s.fullAt a
  let fn := pkt.fn.toNat
  match feFn fn w full pkt.operand with
  | none => none
  | some (w', full') =>
    let po := s.poisonAt a
    let s := (s.memWrite a 8 w').setFull a full'
    let s := if fn = 2 ∨ fn = 3 then s.setPoison a false else s
    some (s.send (if feReads fn then { pkt.resp 8 0 po with operand := w, fn := (b1 full).setWidth 4 } else pkt.ack false))

/-- The entries of a home's retry list that wait for a word. -/
def State.waitersAt (s : State) (q a : Nat) : List Flight :=
  (s.die q).retryList.filter fun f => paOf q f.pkt.off.toNat / 8 == a / 8

/-- One waiting entry tested; it leaves the list when it performs (R43). -/
def State.tryEntry (s : State) (q a : Nat) (f : Flight) : State :=
  match s.homeFe f.pkt (a / 8 * 8) with
  | some s' => s'.modDie q fun d => { d with retryList := d.retryList.erase f }
  | none => s

/-- FE_RETRY_LIST: the waiting entries of a word tried in arrival order until none performs (R43). -/
def State.retryEntries (q a : Nat) : Nat → State → State
  | 0, s => s
  | n + 1, s =>
    let s' := (s.waitersAt q a).foldl (fun s f => s.tryEntry q a f) s
    if (s'.waitersAt q a).length < (s.waitersAt q a).length then State.retryEntries q a n s' else s'

/-- Does the condition of a waiting entry hold at its home? -/
def State.entryReady (s : State) (q : Nat) (f : Flight) : Bool :=
  (feFn f.pkt.fn.toNat (s.word (paOf q f.pkt.off.toNat / 8 * 8)) (s.fullAt (paOf q f.pkt.off.toNat)) f.pkt.operand).isSome

/-- The waiting entries of every home whose word's bit the last step has changed there, tried in arrival order (R43): a write-back changes a bit too. -/
def State.settleRetries (s : State) : State :=
  s.dies.foldl (fun s e => e.2.retryList.foldl (fun s f =>
    if (s.die e.1).retryList.contains f ∧ s.entryReady e.1 f then
      let a := paOf e.1 f.pkt.off.toNat
      let s := s.homeObtain (a / 256)
      State.retryEntries e.1 a (s.waitersAt e.1 a).length s
    else s) s) s

/-- A word's full/empty bit set by an agent at its home, then the waiting entries (R43, R224, R282, R374). -/
def State.fillWord (s : State) (a : Nat) (v : Word) : State :=
  let s := (s.agentWrite a 8 v).setFull a true
  State.retryEntries (paPeer a) a (s.waitersAt (paPeer a) a).length s

/-- FEOP: performs and is answered, waits in the retry list, or is answered NACK BUSY when the slice's 64 entries are taken
(R43, R44). Argument: a the packet's place. -/
def execFeop (s : State) : Out :=
  match s.arrived s.arg.a 0x04 with
  | some (pkt, q) => .next (s.atHome s.arg.a pkt q fun s a =>
      if s.lost a then s.send (if feReads pkt.fn.toNat then pkt.resp 8 0 true else pkt.ack true)
      else
        let s := s.homeObtain (a / 256)
        -- a bit that came home with the line first serves the entries that wait (R43)
        let s := State.retryEntries q a (s.waitersAt q a).length s
        match s.homeFe pkt a with
        | some s' => State.retryEntries q a (s'.waitersAt q a).length s'
        | none =>
          if ((s.die q).retryList.filter fun f => sliceOf f.pkt.off.toNat == sliceOf pkt.off.toNat).length < 64 then
            s.modDie q fun d => { d with retryList := d.retryList ++ [{ pkt := pkt, loc := .arrived q }] }
          else s.send (pkt.nack nackBusy))
  | none => s.idle

end Sys2Proof.Machine
end

