-- ==== Sys2Proof/Machine/Channel.lean ====
section
/-!
DEFINITION. Machine/Channel.lean: mailboxes, semaphores, the core queue and events (R125 to R127, R306 to R315): what each
operation does once its mask is met, and what a core does with the channel traffic that reaches it (R93, R94). Packets of
type TASK carry that traffic (R34); their fields are the model's (log entry 10): operation in `fn`, core in `off`, mailbox
or slot in `size`, value in `operand`.
-/
namespace Sys2Proof.Machine

/-- The TASK operations. -/
def taskMbox : BitVec 4 := 0
def taskPush : BitVec 4 := 1
def taskSpawn : BitVec 4 := 2
def taskMigr : BitVec 4 := 3
def taskSev : BitVec 4 := 4

/-- Does core c hold a crew of the job that runs there (R125)? -/
def State.holdsCrew (s : State) (c : Nat) (job : BitVec 12) : Bool :=
  (s.core c).crew.bind.valid && (s.core c).crew.bind.job == job

/-- Does core c hold a pre-empted crew of the job (R93)? -/
def State.holdsSaved (s : State) (c : Nat) (job : BitVec 12) : Bool :=
  match (s.core c).saved with
  | some x => x.crew.bind.job == job
  | none => false

/-- Must traffic of the job for core c go to its spill queue: its crew is pre-empted, or resumed with the queue not yet
empty (R93, R94)? -/
def State.diverts (s : State) (c : Nat) (job : BitVec 12) : Bool :=
  (s.holdsSaved c job && !s.holdsCrew c job) || (s.holdsCrew c job && (s.core c).spill != [] && !(s.core c).saved.isSome)

/-- The core that keeps the channel state of core c: the even core of a lock-step pair, else c itself (R143). -/
def State.lead (s : State) (c : Nat) : Nat := if (s.core c).crew.bind.lockstep then c / 2 * 2 else c

/-- The core that takes the channel traffic of a job at core c: of a lock-step pair, running or pre-empted, the even one (R91, R143). -/
def State.leadFor (s : State) (c : Nat) (job : BitVec 12) : Nat :=
  if s.holdsCrew c job then s.lead c
  else match (s.core c).saved with
    | some sv => if sv.crew.bind.lockstep then c / 2 * 2 else c
    | none => c

/-- Is a core address that of the thread's own core, or of either core of its lock-step pair (R143)? -/
def State.ownCore (s : State) (k : Nat) (a : Word) : Bool := s.lead a.toNat == s.lead (coreOf k)

/-- Has a resumed crew's spill queue items left, behind which channel traffic from its own threads goes too (R94)? -/
def State.spillBusy (s : State) (c : Nat) : Bool := (s.core (s.lead c)).spill != [] && (s.core (s.lead c)).saved.isNone

/-- The odd core of a lock-step pair holds what the even core holds in mailboxes, semaphores and core queue (R143). -/
def State.syncPair (s : State) (c : Nat) : State :=
  if (s.core c).crew.bind.lockstep then
    let x := (s.core (c / 2 * 2)).crew
    s.modCrew (c / 2 * 2 + 1) fun y =>
      { y with mb := x.mb, mbFull := x.mbFull, heldWrites := x.heldWrites, sems := x.sems, queue := x.queue, queueHead := x.queueHead }
  else s

/-- The cause with which a target core address is refused at the source (R40, R124). -/
def State.coreRefused (s : State) (k : Nat) (a : Word) : Option (BitVec 8) :=
  if (bits a 23 41 : BitVec 41) ≠ 0 then some 0x0A
  else if a.toNat / 1024 = peerOfSlot k then none
  else s.peerRefuses (peerOfSlot k) (s.slot k).job (a.toNat / 1024)

/-- An operation ends with a refused peer: performed for its stream, its thread to trap (R40, R290). -/
def State.refuseOp (s : State) (k : Nat) (o : Op) (cause : BitVec 8) (peer : Nat) (r : Reply) : State :=
  (s.performed k o r).trapLater k
    { cause := cause, addr := o.a, detail := BitVec.ofNat 64 peer, stream := o.stream, mask := o.mask, seq := o.seq }

/-! ### Spill queues (R92 to R94) -/

/-- A spill-queue entry's 64 bytes: the packet's header, what is promised to it, and the first 24 bytes of its payload (R92; log entry 9). -/
def Spilled.entry (e : Spilled) : List Word :=
  e.pkt.header ++ [BitVec.ofNat 64 (2 ^ 63 + match e.promised with | some i => 8 + i | none => 0)] ++ (List.range 3).map fun i => bits e.pkt.payload (64 * i) 64

/-- A core's spill queue put in place of the old one, and in its area (R92, R93). -/
def State.setSpill (s : State) (c : Nat) (l : List Spilled) : State :=
  let n := (s.core c).spill.length
  (s.modCore c fun x => { x with spill := l }).storeDwords (s.areaOf c + 0x4_8000)
    (l.flatMap (·.entry) ++ List.replicate (8 * (n - l.length)) 0)

/-- A TASK packet of an operation. -/
def State.taskPacket (s : State) (k : Nat) (o : Op) (target : Nat) (fn : BitVec 4) (size : Nat) (value : Word) : Pkt :=
  { opPacket k (s.slot k).job o 0 0x07 (target / 1024) (target % 1024) size with fn := fn, operand := value }

/-- An operation waits in a phase. -/
def State.setPhase (s : State) (k id : Nat) (ph : Phase) : State := s.modSlot k fun t => t.modOp id fun o => { o with phase := ph }

/-- Channel traffic of a thread for its own core while the spill queue is not yet empty goes behind it (R94): none where there is no room. -/
def State.spillOwn (s : State) (k : Nat) (p : Pkt) : Option State :=
  let c := s.lead (coreOf k)
  if (s.core c).spill.length < 64 then some (s.setSpill c ((s.core c).spill ++ [{ pkt := p }])) else none

/-- The QPUSHes in a core's spill queue (R93). -/
def Core.spilledPushes (x : Core) : Nat := (x.spill.filter fun e => e.pkt.fn == taskPush).length

/-! ### Mailboxes (R125, R307 to R309) -/

/-- The waiting MBXR of mailbox n that was issued first, among the core's slots (R125). -/
def firstWaiter (s : State) (c : Nat) (p : OpKind → Bool) : Option (Nat × Op) :=
  let ws := (List.range 8).flatMap fun i => ((s.slot (c * 8 + i)).ops.filter fun o => o.phase == .waiting && p o.kind).map fun o => (c * 8 + i, o)
  ws.foldl (fun (b : Option (Nat × Op)) w => match b with
    | none => some w
    | some x => if w.2.t.toNat < x.2.t.toNat then some w else b) none

/-- A mailbox write has been accepted: the sender's operation performs, or its thread goes on (R307, R308). -/
def State.writeAccepted (s : State) (c : Nat) (h : HeldWrite) : State :=
  if h.acked then s
  else match h.opId with
  | some id =>
    (match (s.slot h.sender).op id with
     | none => s
     | some o => match o.kind with
       | .mbxwi _ => (s.setPhase h.sender id .waiting).modSlot h.sender (·.wake id)
       | _ => s.performedNone h.sender o)
  | none =>
    s.send { type := 0x21, job := (s.core c).crew.bind.job, ordered := false, tag := h.tag, src := BitVec.ofNat 13 (peerOf (quadOf c)),
             dst := BitVec.ofNat 13 (peerOfSlot h.sender), req := BitVec.ofNat 13 (h.sender % 8192) }

/-- One mailbox served once: the read first, then a held write (R125). -/
def State.serveBoxOnce (s : State) (c n : Nat) : State :=
  let x := (s.core c).crew
  let s := if x.mbFull.getLsbD n then
      match firstWaiter s c fun kd => kd == .mbxr n with
      | some (k, o) =>
        (s.modCrew c fun x => { x with mbFull := putBits x.mbFull n (0 : BitVec 1) }).performed k o { value := (x.mb.get 0 n).setWidth 512 }
      | none => s
    else s
  let x := (s.core c).crew
  if x.mbFull.getLsbD n then s
  else match x.heldWrites.find? (·.box == n) with
    | some h =>
      (s.modCrew c fun x => { x with mb := x.mb.set n h.value, mbFull := putBits x.mbFull n (1 : BitVec 1), heldWrites := x.heldWrites.erase h }).writeAccepted c h
    | none => s

/-- A mailbox served until nothing more moves; each pass takes a held write or a waiting read. -/
def State.serveBoxes (c n : Nat) : Nat → State → State
  | 0, s => s
  | m + 1, s => State.serveBoxes c n m (s.serveBoxOnce c n)
def State.serveBox (s : State) (c n : Nat) : State := State.serveBoxes c n 26 s

/-- A write reaches mailbox n of core c (R125): stored, or held among 16; false where there is no room. -/
def State.boxWrite (s : State) (c : Nat) (h : HeldWrite) : State × Bool :=
  let x := (s.core c).crew
  if x.mbFull.getLsbD h.box || x.heldWrites.any (·.box == h.box) then
    if x.heldWrites.length < 16 then (s.modCrew c fun x => { x with heldWrites := x.heldWrites ++ [h] }, true)
    else (s, false)
  else
    (((s.modCrew c fun x => { x with mb := x.mb.set h.box h.value, mbFull := putBits x.mbFull h.box (1 : BitVec 1) }).writeAccepted c h).serveBox
      c h.box, true)

/-- The stream token of R192. -/
def tokenOf (s : State) (k : Nat) (o : Op) : Word :=
  (1 : BitVec 1) ++ (s.slot k).job ++ BitVec.ofNat 3 (slotOf k) ++ o.stream ++ o.scope ++ (0 : BitVec 11) ++ o.seq ++ (0 : BitVec 16)

/-- MBXW's mask is met (R307): to its own core at once, or delivered behind its spill queue (R93, R94); to another by a TASK packet. -/
def State.beginMbxw (s : State) (k : Nat) (o : Op) (n : Nat) : State :=
  let c := coreOf k
  match s.coreRefused k o.a with
  | some cause => s.refuseOp k o cause (o.a.toNat / 1024) {}
  | none =>
    if s.ownCore k o.a then
      if s.spillBusy c then
        match s.spillOwn k (s.taskPacket k o o.a.toNat taskMbox n o.b) with
        | some s => s.performedNone k o
        | none => s.setPhase k o.id .held
      else
        let r := s.boxWrite c { box := n, value := o.b, sender := k, opId := some o.id }
        if r.2 then (if ((r.1.slot k).op o.id).isSome then r.1.setPhase k o.id .waiting else r.1) else s.setPhase k o.id .held
    else (s.send (s.taskPacket k o o.a.toNat taskMbox n o.b)).setPhase k o.id .sent

/-- MBXWI's mask is met (R308): its token goes into the mailbox, or behind the core's spill queue (R94), its thread held until it is written; the operation waits for
its adoption. -/
def State.beginMbxwi (s : State) (k : Nat) (o : Op) (n : Nat) : State :=
  if s.spillBusy (coreOf k) then
    match s.spillOwn k (s.taskPacket k o (coreOf k) taskMbox n (tokenOf s k o)) with
    | some s => s.setPhase k o.id .sent
    | none => s
  else
    let r := s.boxWrite (coreOf k) { box := n, value := tokenOf s k o, sender := k, opId := some o.id }
    if r.2 then r.1.setPhase k o.id .waiting else s

/-- MBXR's mask is met (R309): it takes a full mailbox or waits. -/
def State.beginMbxr (s : State) (k : Nat) (o : Op) (n : Nat) : State :=
  (s.setPhase k o.id .waiting).serveBox (coreOf k) n

/-- The present value of an operation's destination, which a read that finds nothing leaves (R309, R313). -/
def Slot.keep (t : Slot) (o : Op) : BitVec 512 :=
  match o.dest with
  | .reg p => (t.phys.get 0 p).setWidth 512
  | _ => 0

/-- MBXT's mask is met (R309): it takes a full mailbox with its flag 1, or leaves rd with its flag 0. -/
def State.beginMbxt (s : State) (k : Nat) (o : Op) (n : Nat) : State :=
  let c := coreOf k
  let x := (s.core c).crew
  let fl := fun (b : Bool) => o.flag.map fun f => (f, some b)
  if x.mbFull.getLsbD n then
    ((s.modCrew c fun x => { x with mbFull := putBits x.mbFull n (0 : BitVec 1) }).performed k o { value := (x.mb.get 0 n).setWidth 512, flag := fl true }).serveBox c n
  else s.performed k o { value := (s.slot k).keep o, flag := fl false }

/-! ### Semaphores (R126, R311) -/

/-- SEMP's mask is met: it takes a nonzero semaphore or waits. -/
def State.beginSemp (s : State) (k : Nat) (o : Op) (n : Nat) : State :=
  let v := (s.core (coreOf k)).crew.sems.get 0 n
  if v ≠ 0 then
    (s.modCrew (coreOf k) fun x => { x with sems := x.sems.set n (v - 1) }).performed k o { value := v.setWidth 512 }
  else s.setPhase k o.id .waiting

/-- SEMV's mask is met: the value rises, saturating; the longest waiting SEMP completes (R126). -/
def State.beginSemv (s : State) (k : Nat) (o : Op) (n : Nat) : State :=
  let c := coreOf k
  let v := (s.core c).crew.sems.get 0 n
  let s := (s.modCrew c fun x => { x with sems := x.sems.set n (if v = 255 then 255 else v + 1) }).performedNone k o
  match firstWaiter s c fun kd => kd == .semp n with
  | some (j, p) => s.beginSemp j p n
  | none => s

/-! ### The core queue (R312, R313) -/

/-- A value appended to a core queue, where it holds fewer than 64. -/
def State.queuePush (s : State) (c : Nat) (v : Word) : State × Bool :=
  if (s.core c).crew.queue.length < 64 then (s.modCrew c fun x => { x with queue := x.queue ++ [v] }, true) else (s, false)

/-- QPUSH's mask is met: on its own core at once, or behind its spill queue (R93, R94); to another by a TASK packet. -/
def State.beginQpush (s : State) (k : Nat) (o : Op) : State :=
  let fl := fun (b : Bool) => o.flag.map fun f => (f, some b)
  match s.coreRefused k o.a with
  | some cause => s.refuseOp k o cause (o.a.toNat / 1024) { flag := fl false }
  | none =>
    if s.ownCore k o.a then
      if s.spillBusy (coreOf k) then
        let x := s.core (s.lead (coreOf k))
        match (if x.crew.queue.length + x.spilledPushes < 64 then s.spillOwn k (s.taskPacket k o o.a.toNat taskPush 0 o.b) else none) with
        | some s => s.performed k o { flag := fl true }
        | none => s.performed k o { flag := fl false }
      else
        let r := s.queuePush (coreOf k) o.b
        r.1.performed k o { flag := fl r.2 }
    else (s.send (s.taskPacket k o o.a.toNat taskPush 0 o.b)).setPhase k o.id .sent

/-- QPOP's mask is met: the oldest entry, or an empty queue (R313). -/
def State.beginQpop (s : State) (k : Nat) (o : Op) : State :=
  let c := coreOf k
  let fl := fun (b : Bool) => o.flag.map fun f => (f, some b)
  match (s.core c).crew.queue with
  | v :: r => (s.modCrew c fun x => { x with queue := r, queueHead := x.queueHead + 1 }).performed k o { value := v.setWidth 512, flag := fl true }
  | [] => s.performed k o { value := (s.slot k).keep o, flag := fl false }

/-! ### Events (R127, R315) -/

/-- WFE's mask is met: a set latch is cleared and it completes; else it waits. -/
def State.beginWfe (s : State) (k : Nat) (o : Op) : State :=
  if (s.slot k).latch then (s.modSlot k fun t => { t with latch := false }).performedNone k o
  else s.setPhase k o.id .waiting

/-- A latch is set; a waiting WFE completes (R127). -/
def State.setLatch (s : State) (k : Nat) : State :=
  let s := s.modSlot k fun t => { t with latch := true }
  match (s.slot k).ops.find? fun o => o.kind == .wfe && o.phase == .waiting with
  | some o => s.beginWfe k o
  | none => s

/-- SEV's mask is met. -/
def State.beginSev (s : State) (k : Nat) (o : Op) (n : Nat) : State :=
  match s.coreRefused k o.a with
  | some cause => s.refuseOp k o cause (o.a.toNat / 1024) {}
  | none =>
    if s.ownCore k o.a then ((s.twins (s.lead (coreOf k) * 8 + n)).foldl (fun s k => s.setLatch k) s).performedNone k o
    else (s.send (s.taskPacket k o o.a.toNat taskSev n 0)).setPhase k o.id .sent

/-! ### Arrivals at a core -/

/-- The answer to channel traffic: its flag's value. -/
def Pkt.outcome (k : Pkt) (ok : Bool) : Pkt := { k.resp 8 0 false with operand := zx (b1 ok) }

/-- A mailbox write of a TASK packet reaches its mailbox: held or stored, or NACK BUSY (R125). -/
def State.arriveBox (s : State) (c : Nat) (pkt : Pkt) : State :=
  let h : HeldWrite := { box := pkt.size.toNat % 8, value := pkt.operand, sender := pkt.src.toNat * 8192 + pkt.req.toNat, tag := pkt.tag }
  let r := s.boxWrite c h
  if r.2 then r.1
  else s.send (pkt.nack nackBusy)

/-- Mailbox writes, queue pushes and events that reach core c whose crew runs (R125, R313, R315). -/
def State.arriveChannel (s : State) (c : Nat) (pkt : Pkt) : State :=
  let c := s.lead c
  if pkt.fn = taskMbox then (s.arriveBox c pkt).syncPair c
  else if pkt.fn = taskPush then
    let r := s.queuePush c pkt.operand
    (r.1.send (pkt.outcome r.2)).syncPair c
  else ((s.twins (c * 8 + pkt.size.toNat % 8)).foldl (fun s k => s.setLatch k) s).send (pkt.ack false)

/-- The lowest FREE general slot of a list of slots that no spilled entry has been promised (R93, R132). -/
def freeSlot (slots : Nat → Slot) (spill : List Spilled) : Option Nat :=
  (List.range 6).find? fun i => (slots i).st == .free && !(spill.any fun e => e.promised == some i)

/-- The core or pair of cores of a pre-empted crew. -/
def State.pairOfSaved (s : State) (c : Nat) : List Nat := match (s.core c).saved with
  | some sv => if sv.crew.bind.lockstep then [c / 2 * 2, c / 2 * 2 + 1] else [c]
  | none => [c]

/-- A diverted item at a core's spill queue (R93): taken with the room it will need, or answered as the table gives. -/
def State.spillItem (s : State) (c : Nat) (pkt : Pkt) : State :=
  let x := s.core c
  let room : Bool := x.spill.length < 64
  let put := fun (s : State) (pr : Option Nat) => s.setSpill c (x.spill ++ [{ pkt := pkt, promised := pr }])
  let slots : Nat → Slot := match x.saved with
    | some sv => fun i => (sv.slots[i]?).getD {}
    | none => fun i => s.slot (c * 8 + i)
  let queued := (match x.saved with | some sv => sv.crew.queue.length | none => x.crew.queue.length) + x.spilledPushes
  if pkt.fn = taskMbox then (if room then (put s none).send (pkt.ack false) else s.send (pkt.nack nackBusy))
  else if pkt.fn = taskPush then
    (if room && queued < 64 then (put s none).send (pkt.outcome true) else s.send (pkt.outcome false))
  else if pkt.fn = taskSev then
    -- an event is no channel traffic of R93: its latch is set in the saved context
    ((s.pairOfSaved c).foldl (fun s c => (s.modCore c fun x => { x with saved := x.saved.map fun sv =>
      { sv with slots := sv.slots.modify (pkt.size.toNat % 8) fun t => { t with latch := true } } }).storeSaved c (pkt.size.toNat % 8)) s).send (pkt.ack false)
  else match (if room then freeSlot slots x.spill else none) with
    | some i => (put s (some i)).send (pkt.outcome true)
    | none => s.send (pkt.outcome false)

end Sys2Proof.Machine
end

