-- ==== Sys2Proof/Machine/Barrier.lean ====
section
/-!
DEFINITION. Machine/Barrier.lean: the named barriers of R316 to R321, one piece of logic in each instance of their scope.
The pod barrier's logic stands at the router of the partition's lowest-numbered package; arrivals and releases travel as
PBAR packets, one hop each (R32; log entry 17).
-/
namespace Sys2Proof.Machine

/-- An arrival counted (R317): the logic after it, and the waiters it releases. -/
def Barrier.arrive (b : Barrier) (p : BitVec 32) (waiter : Option (Nat × Nat)) : Barrier × List (Nat × Nat) :=
  let target := if b.count = 0 then (if p = 0 then 1 else p) else b.target
  let ws := b.waiters ++ waiter.toList
  if b.count + 1 = target then ({ b with phase := b.phase + 1, count := 0, target := target, waiters := [] }, ws)
  else ({ b with count := b.count + 1, target := target, waiters := ws }, [])

/-- A waiter released (R317): its thread goes on, on both cores of a lock-step pair. -/
def State.releaseWaiter (s : State) (w : Nat × Nat) : State :=
  (s.onOwner w.1 (fun t => t.hold == .localOp w.2) fun s => (s.twins w.1).foldl (fun s k => s.modSlot k (·.wake w.2)) s).getD s

/-- The operation's arrival has been counted: it has performed, and a waiting thread stays held (R317). -/
def State.counted (s : State) (k id : Nat) (waits : Bool) : State :=
  (s.onOwner k (fun t => (t.op id).isSome) fun s =>
    (s.twins k).foldl (fun s k => s.modSlot k fun t => t.intoFrame (if waits then t.dropOp id else (t.dropOp id).wake id)) s).getD s

/-- The key of a quad barrier: kept separately for each job (R321). -/
def quadBarrier (job : BitVec 12) (n : Nat) : Nat := job.toNat * 4 + n

/-- BARQ's mask is met (R319): it arrives at the quad barrier of its job and waits. -/
def State.beginBarq (s : State) (k : Nat) (o : Op) (n : Nat) : State :=
  let q := quadOf (coreOf k)
  let i := quadBarrier (s.slot k).job n
  let p : BitVec 32 := BitVec.ofNat 32 (min 32 (max 1 (o.a.toNat % 64)))
  let r := ((s.quad q).barriers.get {} i).arrive p (some (k, o.id))
  let s := (s.modQuad q fun x => { x with barriers := x.barriers.set i r.1 }).counted k o.id true
  r.2.foldl (fun s w => s.releaseWaiter w) s

/-- The owner register that a barrier has (R321): 16 at die scope, then 8 at pkg, then 8 at pod scope. -/
def ownerIndex (scope n : Nat) : Nat := if scope = 2 then n else if scope = 3 then 16 + n else 24 + n

/-- BARA's or BARW's mask is met (R317, R321): its arrival goes to the logic, unless its job does not own the barrier. -/
def State.beginBar (s : State) (k : Nat) (o : Op) (scope n : Nat) (waits : Bool) : State :=
  let peer := peerOfSlot k
  if (s.die peer).owners.get 0 (ownerIndex scope n) = (1 : BitVec 1) ++ (s.slot k).job then
    (s.setPhase k o.id .sent).modDie peer fun d =>
      { d with arrivals := d.arrivals ++ [{ scope := scope, num := n, slot := k, job := (s.slot k).job, opId := o.id, waits := waits, p := bits o.a 0 32 }] }
  else s.refuseOp k o 0x0B peer {}

/-- The package whose router keeps the pod barriers of a job's partition (log entry 17). -/
def State.podRoot (s : State) (p : Nat) (job : BitVec 12) : Nat := (s.partition p job).headD p

/-- The index of a pod barrier among a package's barriers. -/
def podIndex (n : Nat) : Nat := 8 + n

/-- A pod arrival counted at the root, its releases sent hop by hop to their packages (R317). -/
def State.podArrive (s : State) (root n : Nat) (job : BitVec 12) (p : BitVec 32) (k id : Nat) (waits : Bool) : State :=
  let r := ((s.pkg root).barriers.get {} (podIndex n)).arrive p (if waits then some (k, id) else none)
  let s := (s.modPkg root fun x => { x with barriers := x.barriers.set (podIndex n) r.1 }).counted k id waits
  r.2.foldl (fun s w =>
    let q := peerOfSlot w.1 / 4
    if q = root then s.releaseWaiter w
    else
      { s with net := s.net ++ [{
          pkt := { type := 0x13, job := job, fn := 1, size := BitVec.ofNat 4 n, hops := 1, operand := BitVec.ofNat 64 w.2, dst := BitVec.ofNat 13 (peerOfSlot w.1),
                   req := BitVec.ofNat 13 (w.1 % 8192), src := BitVec.ofNat 13 (4 * root) },
          loc := s.treePlace root (minimalPort root q) }] }) s

/-- BARRIER_ARRIVE: an arrival reaches its logic: the die's, the package's, or for a pod barrier the package's router,
which counts it or sends it on toward the root (R317). Arguments: a the die's peer number, b the arrival's place. -/
def execBarrierArrive (s : State) : Out :=
  let peer := s.arg.a
  match (s.die peer).arrivals[s.arg.b]? with
  | none => s.idle
  | some v =>
    let s := s.modDie peer fun d => { d with arrivals := dropAt d.arrivals s.arg.b }
    let waiter := if v.waits then some (v.slot, v.opId) else none
    if v.scope = 2 then
      let r := ((s.die peer).barriers.get {} v.num).arrive v.p waiter
      let s := (s.modDie peer fun d => { d with barriers := d.barriers.set v.num r.1 }).counted v.slot v.opId v.waits
      .next (r.2.foldl (fun s w => s.releaseWaiter w) s)
    else if v.scope = 3 then
      let p := peer / 4
      let r := ((s.pkg p).barriers.get {} v.num).arrive v.p waiter
      let s := (s.modPkg p fun x => { x with barriers := x.barriers.set v.num r.1 }).counted v.slot v.opId v.waits
      .next (r.2.foldl (fun s w => s.releaseWaiter w) s)
    else
      let p := peer / 4
      let job := v.job
      let root := s.podRoot p job
      if root = p then .next (s.podArrive p v.num job v.p v.slot v.opId v.waits)
      else
        .next ({ s with
          net := s.net ++ [{
            pkt := { type := 0x13, job := job, fn := 0, size := BitVec.ofNat 4 v.num, hops := 1, operand := zx v.p, dst := BitVec.ofNat 13 (4 * root),
                     src := BitVec.ofNat 13 (peerOfSlot v.slot), req := BitVec.ofNat 13 (v.slot % 8192),
                     payload := BitVec.ofNat 2048 (v.opId * 2 + (if v.waits then 1 else 0)), plen := 16 },
            loc := s.treePlace p (minimalPort p root) }] })

/-- PBAR: a router absorbs an arrival, counting it at the root or sending a new one a hop further, or absorbs a release and
wakes its waiter or sends it on (R32, R317); a malformed one is discarded (R35). Argument: a the packet's place. -/
def execPbar (s : State) : Out :=
  match s.net[s.arg.a]? with
  | some { pkt := pkt, loc := .router p input, came := _, held := _, stamp := _ } =>
    if pkt.type ≠ 0x13 ∨ 36 ≤ input then s.idle
    else if pkt.malformed then .next (s.dropMalformed s.arg.a p input)
    else
      let dest := pkt.dst.toNat / 4
      let s := s.dropFlight s.arg.a
      if dest = p then
        if pkt.fn = 0 then
          let x := pkt.payload.toNat
          .next (s.podArrive p pkt.size.toNat pkt.job (bits pkt.operand 0 32) (pkt.src.toNat * 8192 + pkt.req.toNat) (x / 2) (x % 2 == 1))
        else .next (s.releaseWaiter (pkt.dst.toNat * 8192 + pkt.req.toNat, pkt.operand.toNat))
      else .next (s.treeSend p (minimalPort p dest) pkt)
  | _ => s.idle

/-! ### A waiting arrival withdrawn (R318) -/

/-- Is the release of a pod BARW on its way: its phase has completed (R317, R318)? -/
def State.releaseComing (s : State) (k id : Nat) : Bool := s.net.any fun f =>
  f.pkt.type == 0x13 && f.pkt.fn == 1 && f.pkt.dst.toNat * 8192 + f.pkt.req.toNat == k && f.pkt.operand.toNat == id

/-- The arrival of an operation taken back from barrier logic: counted down where it has been counted. -/
def Barrier.withdraw (b : Barrier) (w : Nat × Nat) : Barrier :=
  if b.waiters.contains w then { b with count := b.count - 1, waiters := b.waiters.erase w } else b

/-- Every place where a BARW or BARQ of a thread may stand gives it up. -/
def State.withdrawArrival (s : State) (k id : Nat) : State :=
  let peer := peerOfSlot k
  let root := s.podRoot (peer / 4) (s.slot k).job
  let all := fun (m : NMap Barrier) => m.mapV fun _ b => b.withdraw (k, id)
  let s := s.modDie peer fun d =>
    { d with barriers := all d.barriers, arrivals := d.arrivals.filter fun v => !(v.slot == k && v.opId == id) }
  let s := s.modQuad (quadOf (coreOf k)) fun q => { q with barriers := all q.barriers }
  let s := s.modPkg (peer / 4) fun x => { x with barriers := all x.barriers }
  let s := s.modPkg root fun x => { x with barriers := all x.barriers }
  { s with net := s.net.filter fun f =>
      !(f.pkt.type == 0x13 && f.pkt.fn == 0 && f.pkt.src.toNat * 8192 + f.pkt.req.toNat == k && f.pkt.payload.toNat / 2 == id) }

end Sys2Proof.Machine
end

