-- ==== Sys2Proof/Machine/Control.lean ====
section
/-!
DEFINITION. Machine/Control.lean: branches, calls, returns and loops (R118 to R121, R128 to R130, R275 to R279).
-/
namespace Sys2Proof.Machine

/-- A transfer's target that no thread may go to: bit 0 or bit 63 set (R239). -/
def badTarget (t : Word) : Bool := t.getLsbD 0 || t.getLsbD 63

/-- Does an address lie in a level's body? -/
def Loop.holds (l : Loop) (t : Word) : Bool := l.start.toNat ≤ t.toNat && t.toNat < l.stop.toNat

/-- The levels left after a taken branch to a target (R130). -/
def branchLoops (wd : BitVec 16) (target : Word) : List Loop → List Loop
  | [] => []
  | [o] => if o.depth = wd ∧ ¬o.holds target then [] else [o]
  | o :: i :: r =>
    if i.depth = wd ∧ ¬i.holds target then (if o.depth = wd ∧ ¬o.holds target then [] else [o])
    else o :: i :: r

/-- A taken transfer within the frame: the PC at the target, levels popped by R130. -/
def Slot.jump (t : Slot) (target : Word) : Slot :=
  { t with pc := target, loops := branchLoops t.wdepth target t.loops, st := .run, hold := .none, waited := 0,
           issued := t.issued + 1 }

/-- A taken branch, or the misalignment trap (R239). -/
def State.jumpTo (s : State) (target : Word) : State :=
  if badTarget target then s.trapHere 0x05 target else s.modMe (·.jump target)

/-- BT: taken when the flag is 1 (R275). -/
def execBt (f : BitVec 3) (o : BitVec 21) (s : State) : Out :=
  s.issue (.bt f o) { flags := [f] } fun s =>
    if s.me.f f then s.jumpTo (s.me.pc + (sx o <<< 1)) else s.done (.bt f o)

/-- BF: taken when the flag is 0 (R275). -/
def execBf (f : BitVec 3) (o : BitVec 21) (s : State) : Out :=
  s.issue (.bf f o) { flags := [f] } fun s =>
    if s.me.f f then s.done (.bf f o) else s.jumpTo (s.me.pc + (sx o <<< 1))

/-- BR (R276). -/
def execBr (o : BitVec 25) (s : State) : Out :=
  s.issue (.br o) {} fun s => s.jumpTo (s.me.pc + (sx o <<< 1))

/-- JMPR (R277). -/
def execJmpr (a : BitVec 5) (s : State) : Out :=
  s.issue (.jmpr a) { regs := [a] } fun s => s.jumpTo (s.rd a)

/-- The word numbers of a spilled frame: the link, then w0 to w15 (R119). -/
def frameWord (t : Slot) (e i : Nat) : Word :=
  if i = 0 then t.links.get 0 e else t.phys.get 0 ((16 * e + (i - 1)) % 120)

/-- The depth of the oldest resident frame. -/
def Slot.oldest (t : Slot) : Nat := t.wdepth.toNat + 1 - t.resident.toNat

/-- Is a register of a frame pending? -/
def Slot.framePending (t : Slot) (e : Nat) : Bool := (List.range 16).any fun i => t.pendW.getLsbD ((16 * e + i) % 120)

/-- The places of the 17 words of a frame at an address; none where one of them faults or is refused (R121). -/
def State.framePlaces (s : State) (a : Word) (write : Bool) : Option (List (Sum Nat Nat)) :=
  (List.range 17).mapM fun i => s.spillPlace s.cur (a + BitVec.ofNat 64 (8 * i)) write

/-- The oldest frame written at an address (R119). -/
def State.spillFrame (s : State) (e : Nat) (ps : List (Sum Nat Nat)) : State :=
  let t := s.me
  (ps.zipIdx).foldl (fun s p => s.spillStore s.cur p.1 (frameWord t e p.2)) s

/-- What a spill at the current state comes to: it must wait, it traps, or the state with the frame written and ssp and
the resident count moved (R119, R121). -/
inductive Spill where
  | waits
  | traps (cause : BitVec 8) (addr : Word)
  | ok (s : State)

def State.spill (s : State) : Spill :=
  let t := s.me
  let a := t.ssp - 136
  if t.framePending t.oldest then .waits
  else if a.toNat % 8 ≠ 0 then .traps 0x05 a
  else if s.clashes s.cur t.ops a 136 then .waits
  else match s.framePlaces a true with
    | none => .traps 0x03 a
    | some ps => .ok ((s.spillFrame t.oldest ps).modMe fun t => { t with ssp := a, resident := t.resident - 1 })

/-- A new frame (R119): w0 to w7 are the caller's w16 to w23, w8 to w23 zero, the link set. -/
def Slot.newFrame (t : Slot) (link target : Word) : Slot :=
  let wd := t.wdepth + 1
  let t := { t with wdepth := wd, resident := t.resident + 1, links := t.links.set wd.toNat link, pc := target,
                    st := .run, hold := .none, waited := 0, issued := t.issued + 1 }
  (List.range 16).foldl (fun t i => t.setW (8 + i) 0) t

/-- CALL and CALLR after their target is known (R119, R277). -/
def State.call (s : State) (target : Word) : State :=
  let t := s.me
  if badTarget target then s.trapHere 0x05 target
  else if t.wdepth = 65535 then s.trapHere 0x03
  else
    let enter := fun (s : State) => s.modMe fun t => t.newFrame (t.pc + 4) target
    if t.resident = 7 then
      match s.spill with
      | .waits => s.waitHere
      | .traps c a => s.trapHere c a
      | .ok s => enter s
    else if (List.range 16).any fun i => t.pendW.getLsbD (t.phyOf (24 + i)) then s.waitHere
    else enter s

/-- CALL (R277). -/
def execCallInsn (o : BitVec 25) (s : State) : Out :=
  s.issue (.callInsn o) {} fun s => s.call (s.me.pc + (sx o <<< 1))

/-- CALLR (R277). -/
def execCallr (a : BitVec 5) (s : State) : Out :=
  s.issue (.callr a) { regs := [a] } fun s => s.call (s.rd a)

/-- The frame at sr.ssp read back as the frame of a depth (R120). -/
def State.fillFrame (s : State) (e : Nat) (ps : List (Sum Nat Nat)) : State :=
  (ps.zipIdx).foldl (fun s p =>
    let r := s.spillLoad s.myCore p.1
    r.1.modMe fun t =>
      if p.2 = 0 then { t with links := t.links.set e r.2 }
      else { t with phys := t.phys.set ((16 * e + (p.2 - 1)) % 120) r.2 }) s

/-- The current frame discarded (R120); a level of a deeper frame pops (R130). -/
def Slot.leaveFrame (t : Slot) (target : Word) : Slot :=
  let wd := t.wdepth - 1
  { t with wdepth := wd, resident := t.resident - 1, pc := target, loops := t.loops.filter fun l => l.depth.toNat ≤ wd.toNat,
           st := .run, hold := .none, waited := 0, issued := t.issued + 1 }

/-- RET (R120, R277): a fill waits while a register that it writes is pending (R115). -/
def execRet (s : State) : Out :=
  s.issue .ret {} fun s =>
    let t := s.me
    let target := t.links.get 0 t.wdepth.toNat
    if t.wdepth = 0 then s.illegal .ret
    else if badTarget target then s.trapHere 0x05 target
    else if t.resident = 1 then
      if t.framePending (t.wdepth.toNat - 1) || s.clashes s.cur t.ops t.ssp 136 then s.waitHere
      else match s.framePlaces t.ssp false with
        | none => s.trapHere 0x03 t.ssp
        | some ps =>
          (((s.fillFrame (t.wdepth.toNat - 1) ps).modMe fun t => { t with ssp := t.ssp + 136, resident := t.resident + 1 })).modMe
            (·.leaveFrame target)
    else s.modMe (·.leaveFrame target)

/-- LOOP and LOOPI after their count is known (R128, R279). -/
def State.loop (s : State) (i : Instr) (count : Nat) (len : Nat) : State :=
  let t := s.me
  let nxt := t.pc + 4
  let stop := nxt + BitVec.ofNat 64 (2 * len)
  if count = 0 then
    s.modMe fun t => { t with pc := stop, st := .run, hold := .none, waited := 0, issued := t.issued + 1 }
  else if 2 ≤ t.loops.length then s.trapHere 0x04
  else (s.modMe fun t =>
    { t with loops := t.loops ++ [{ start := nxt, stop := stop, count := BitVec.ofNat 64 count, depth := t.wdepth }] }).done i

/-- LOOP: the count is min(ra, 2^32 − 1) (R128, R279). -/
def execLoop (a : BitVec 5) (l : BitVec 15) (s : State) : Out :=
  s.issue (.loop a l) { regs := [a] } fun s => s.loop (.loop a l) (min (s.rd a).toNat 0xFFFF_FFFF) l.toNat

/-- LOOPI (R128, R279). -/
def execLoopi (c l : BitVec 10) (s : State) : Out :=
  s.issue (.loopi c l) {} fun s => s.loop (.loopi c l) c.toNat l.toNat

end Sys2Proof.Machine
end

