-- ==== Sys2Proof/Machine/Fabric.lean ====
section
/-!
DEFINITION. Machine/Fabric.lean: incast tickets (R45 to R47, R322 to R325) and Ochre collectives (R48 to R51, R326 to R329).
Ticket packets carry the class in `off`, values in `operand` and `payload`; collective packets the group in `off`, the
sequence in `payload` and the value in `operand` (log entry 10).
-/
namespace Sys2Proof.Machine

/-! ### Tickets -/

/-- Is a ticket called (R46)? -/
def Ticket.calls (t : Ticket) (n : BitVec 32) : Bool := (n - t.done).toNat < t.rows.toNat
/-- The called number: the first ticket not yet called (R46). -/
def Ticket.calledNo (t : Ticket) : BitVec 32 := t.done + t.rows.setWidth 32
/-- Does a class take requests of a job (R45, R46)? -/
def Ticket.takes (t : Ticket) (job : BitVec 12) : Bool := t.en && t.job == job
/-- The test of R47: does called number c call ticket t? -/
def calledBy (c t : BitVec 32) : Bool := c != t && (c - t).toNat ≤ 2 ^ 31

/-- Is ticket t of a class beyond the bounds of R47, where whether a CALL wakes its waiter is not defined? -/
def Ticket.beyond (k : Ticket) (t : BitVec 32) : Bool :=
  2 ^ 31 ≤ (k.next - k.done).toNat || (2 ^ 31 - 65536 < (k.done - t).toNat && (k.done - t).toNat ≤ 2 ^ 31)

/-- The key of a class at a peer. -/
def classKey (peer c : Nat) : Nat := peer * 16 + c

/-- A ticket packet of an operation. -/
def State.ticketPacket (s : State) (k : Nat) (o : Op) (type : BitVec 8) (peer c : Nat) (v : Word) : Pkt :=
  { opPacket k (s.slot k).job o 0 type peer c 0 with operand := v }

/-- The cause with which a peer is refused at the source (R40); the own die is not left. -/
def State.peerRefused (s : State) (k peer : Nat) : Option (BitVec 8) :=
  if peer = peerOfSlot k then none else s.peerRefuses (peerOfSlot k) (s.slot k).job peer

/-- TKGET's mask is met (R323): handled as a load where its peer is refused (R290). -/
def State.beginTkget (s : State) (k : Nat) (o : Op) (c : Nat) : State :=
  let peer := (bits o.a 0 13 : BitVec 13).toNat
  match s.peerRefused k peer with
  | some cause => s.refuseOp k o cause peer { value := poisonWord.setWidth 512 }
  | none => (s.send (s.ticketPacket k o 0x08 peer c 0)).setPhase k o.id .sent

/-- TKDONE's mask is met (R325): handled as a store where its peer is refused. -/
def State.beginTkdone (s : State) (k : Nat) (o : Op) (c : Nat) : State :=
  let peer := (bits o.a 0 13 : BitVec 13).toNat
  match s.peerRefused k peer with
  | some cause => s.refuseOp k o cause peer {}
  | none => (s.send (s.ticketPacket k o 0x0A peer c 0)).setPhase k o.id .sent

/-- Class, peer and ticket of a ticket word (R323). -/
def wordClass (w : Word) : Nat := (bits w 45 4 : BitVec 4).toNat
def wordPeer (w : Word) : Nat := (bits w 32 13 : BitVec 13).toNat
def wordTicket (w : Word) : BitVec 32 := bits w 0 32

/-- The waiters of a class that a die's interface holds. -/
def Die.waitersOf (d : Die) (key : Nat) : List (Nat × Nat × Word) :=
  d.tkWaiters.filter fun e => classKey (wordPeer e.2.2) (wordClass e.2.2) == key

/-- The lowest ticket that a list of waiters awaits, counted from the called number last received (R46, R47). -/
def lowestTicket (c : BitVec 32) (ws : List (Nat × Nat × Word)) : BitVec 32 :=
  ws.foldl (fun m e => if (wordTicket e.2.2 - c).toNat < (m - c).toNat then wordTicket e.2.2 else m) (c - 1)

/-- Every waiter of a class at a die ends with the trap of a refused peer (R40, R41, R47). -/
def State.failWaiters (s : State) (d key : Nat) (cause : BitVec 8) : State :=
  ((s.die d).waitersOf key).foldl (fun s e =>
    let s := s.modDie d fun x => { x with tkWaiters := x.tkWaiters.erase e.1 }
    (s.onOwner e.1 (fun t => (t.op e.2.1).isSome) fun s => match (s.slot e.1).op e.2.1 with
      | some o => s.refuseOp e.1 o cause (key / 16) {}
      | none => s).getD s) s

/-- TKREG sent for the waiters of a class, carrying the lowest ticket awaited (R46, R47), unless the peer is refused by now (R40). -/
def State.register (s : State) (peer : Nat) (job : BitVec 12) (key : Nat) : State :=
  let d := s.die peer
  match (if key / 16 = peer then none else s.peerRefuses peer job (key / 16)) with
  | some cause => s.failWaiters peer key cause
  | none =>
    s.send { type := 0x09, job := job, src := BitVec.ofNat 13 peer, dst := BitVec.ofNat 13 (key / 16), off := BitVec.ofNat 44 (key % 16),
             operand := zx (lowestTicket (d.called.get 0 key) (d.waitersOf key)) }

/-- TKWAIT's mask is met (R324): done at once, or a waiter recorded and registered. -/
def State.beginTkwait (s : State) (k : Nat) (o : Op) : State :=
  let peer := peerOfSlot k
  let key := classKey (wordPeer o.a) (wordClass o.a)
  let known := (s.die peer).called.find key
  if o.a.getLsbD 63 then s.performedNone k o
  else if (known.map fun c => calledBy c (wordTicket o.a)) = some true then s.performedNone k o
  else match s.peerRefused k (wordPeer o.a) with
    | some cause => s.refuseOp k o cause (wordPeer o.a) {}
    | none =>
      -- a slot has at most one TKWAIT outstanding (R47)
      if (s.die peer).tkWaiters.has k then s
      else
        ((s.setPhase k o.id .sent).modDie peer fun d => { d with tkWaiters := d.tkWaiters.set k (o.id, o.a) }).register peer (s.slot k).job key

/-- A waiter's operation ends and its thread goes on (R324). -/
def State.endTicketWait (s : State) (k id : Nat) : State :=
  (s.onOwner k (fun t => (t.op id).isSome) fun s => match (s.slot k).op id with
    | some o => s.performedNone k o
    | none => s).getD s

/-- TKGET arrives: the class hands out the next ticket, or refuses (R46). Argument: a the packet's place. -/
def execTkget (s : State) : Out :=
  match s.arrived s.arg.a 0x08 with
  | none => s.idle
  | some (pkt, q) =>
    let s := s.dropFlight s.arg.a
    let c := pkt.off.toNat % 16
    let t := (s.die q).tickets.get {} c
    if !s.admitted q pkt.job || !t.takes pkt.job then .next (s.send (pkt.nack nackPartition))
    else
      .next ((s.modDie q fun d => { d with tickets := d.tickets.set c { t with next := t.next + 1 } }).send
        { pkt.resp 8 (t.calledNo.setWidth 2048) false with operand := zx t.next, fn := (b1 (t.calls t.next)).setWidth 4, off := pkt.off })

/-- A CALL to a peer (R46). -/
def callPacket (sender target c : Nat) (job : BitVec 12) (n : BitVec 32) : Pkt :=
  { type := 0x23, job := job, ordered := false, src := BitVec.ofNat 13 sender, dst := BitVec.ofNat 13 target, off := BitVec.ofNat 44 c, operand := zx n }

/-- TKREG arrives: answered at once, or the source's waiter bit is set (R46). Argument: a the packet's place. -/
def execTkreg (s : State) : Out :=
  match s.arrived s.arg.a 0x09 with
  | none => s.idle
  | some (pkt, q) =>
    let s := s.dropFlight s.arg.a
    let c := pkt.off.toNat % 16
    let t := (s.die q).tickets.get {} c
    if !s.admitted q pkt.job || !t.takes pkt.job then .next (s.send (pkt.nack nackPartition))
    else if t.calls (bits pkt.operand 0 32) then .next (s.send (callPacket q pkt.src.toNat c pkt.job t.calledNo))
    else .next (s.modDie q fun d => { d with tickets := d.tickets.set c { t with waiters := t.waiters.insert pkt.src.toNat } })

/-- TKDONE arrives: done rises by 1, the waiting peers are called, the TKDONE acknowledged (R46, R325). Argument: a the
packet's place. -/
def execTkdone (s : State) : Out :=
  match s.arrived s.arg.a 0x0A with
  | none => s.idle
  | some (pkt, q) =>
    let s := s.dropFlight s.arg.a
    let c := pkt.off.toNat % 16
    let t := (s.die q).tickets.get {} c
    if !s.admitted q pkt.job || !t.takes pkt.job then .next (s.send (pkt.nack nackPartition))
    else
      let t' := { t with done := t.done + 1, waiters := [] }
      let s := s.modDie q fun d => { d with tickets := d.tickets.set c t' }
      .next (t.waiters.foldl (fun s w => s.send (callPacket q w c pkt.job t'.calledNo)) (s.send (pkt.ack false)))

/-- CALL arrives at a waiting die: every waiter of the class that the number calls goes on; TKREG goes again for the rest
(R47). Beyond the bounds of R47 an open value decides. Argument: a the packet's place. -/
def execCall (s : State) : Out :=
  match s.arrived s.arg.a 0x23 with
  | none => s.idle
  | some (pkt, q) =>
    let key := classKey pkt.src.toNat (pkt.off.toNat % 16)
    let n : BitVec 32 := bits pkt.operand 0 32
    let s := s.dropFlight s.arg.a
    let s := s.modDie q fun d => { d with called := d.called.set key n }
    let s := ((s.die q).waitersOf key).foldl (fun s e =>
      let beyond := ((s.die pkt.src.toNat).tickets.get {} (pkt.off.toNat % 16)).beyond (wordTicket e.2.2)
      let (wake, s) := if beyond then ((s.openValue).getLsbD 0, s.useOpen) else (calledBy n (wordTicket e.2.2), s)
      if wake then (s.modDie q fun d => { d with tkWaiters := d.tkWaiters.erase e.1 }).endTicketWait e.1 e.2.1 else s) s
    .next (if (s.die q).waitersOf key = [] then s else s.register q pkt.job key)

/-! ### Collectives -/

/-- The fields of a group entry (R48). -/
def Group.job (g : Group) : BitVec 12 := bits g.entry 96 12
def Group.seq (g : Group) : BitVec 32 := bits g.entry 64 32
def Group.valid (g : Group) : Bool := g.entry.getLsbD 48
def Group.op (g : Group) : Nat := (bits g.entry 45 3 : BitVec 3).toNat
def Group.member (g : Group) (d : Nat) : Bool := g.entry.getLsbD (41 + d)
def Group.child (g : Group) (i : Nat) : Bool := g.entry.getLsbD (6 + i)
def Group.parent (g : Group) : Nat := (bits g.entry 0 6 : BitVec 6).toNat
def Group.isRoot (g : Group) : Bool := g.parent == 63

def State.group (s : State) (p g : Nat) : Group := (s.pkg p).groups.get {} g
def State.setGroup (s : State) (p g : Nat) (x : Group) : State := s.modPkg p fun y => { y with groups := y.groups.set g x }

/-- One fold of a group's operation (R49). -/
def foldOp (op : Nat) (a b : Word) : Word :=
  if op = 0 then a + b
  else if op = 1 then (f64.add .rne a b).1
  else if op = 2 then (if a.slt b then b else a)
  else if op = 3 then (if b.slt a then b else a)
  else if op = 4 then a &&& b
  else a ||| b

/-- A list of values folded from the first (R49). -/
def foldValues (op : Nat) : List Word → Option Word
  | [] => none
  | v :: vs => some (vs.foldl (foldOp op) v)

/-- Has everyone reported (R49)? -/
def Group.complete (g : Group) : Bool :=
  ((List.range 4).all fun d => !g.member d || g.dies.has d) && (List.range 35).all fun i => !g.child i || g.kids.has i

/-- The combined value (R49): the children in ascending port order, the local value last. -/
def Group.combined (g : Group) : Word :=
  let dies := foldValues g.op (((List.range 4).filter g.member).map fun d => g.dies.get 0 d)
  let kids := ((List.range 35).filter g.child).map fun i => g.kids.get 0 i
  (foldValues g.op (kids ++ dies.toList)).getD 0

/-- The tree packet of a group. -/
def treePkt (type : BitVec 8) (g : Nat) (job : BitVec 12) (seq : BitVec 32) (outcome : BitVec 4) (v : Word) : Pkt :=
  { type := type, job := job, off := BitVec.ofNat 44 g, payload := seq.setWidth 2048, plen := 4, fn := outcome, operand := v }

/-- A waiting CTRES answered (R328). -/
def State.answerCtres (s : State) (k : Nat) (o : Op) (outcome : BitVec 2) (v : Word) : State :=
  s.performed k o { value := (if outcome = 0 then v else zx outcome).setWidth 512, flag := o.flag.map fun f => (f, some (outcome == 0)) }

/-- The operations of a slot that wait in CTRES for an instance of a group. -/
def Slot.ctWaits (t : Slot) (g : Nat) (seq : BitVec 32) : List Op :=
  t.ops.filter fun o => o.kind == .ctres && o.phase == .waiting && (bits o.a 0 8 : BitVec 8).toNat == g && (bits o.a 32 32 : BitVec 32) == seq

/-- The threads of a die that wait in CTRES for an instance of a group, those of pre-empted crews too. -/
def State.ctWaiters (s : State) (peer g : Nat) (seq : BitVec 32) : List (Nat × Op) :=
  ((s.slots.filter fun e => peerOfSlot e.1 == peer).flatMap fun e => (e.2.ctWaits g seq).map fun o => (e.1, o)) ++
    (s.cores.filter fun e => peerOf (quadOf e.1) == peer).flatMap fun e => match e.2.saved with
      | some sv => (sv.slots.zipIdx).flatMap fun t => (t.1.ctWaits g seq).map fun o => (e.1 * 8 + t.2, o)
      | none => []

/-- A CTDOWN at a router (R49, R50): its member dies keep the outcome and their waiters are answered, its children get it, and
the next instance opens. -/
def State.downAt (s : State) (p g : Nat) (seq : BitVec 32) (outcome : BitVec 2) (v : Word) : State :=
  let x := s.group p g
  let s := (List.range 4).foldl (fun s d => if x.member d then
      let peer := 4 * p + d
      let s := s.modDie peer fun y => { y with ctOut := y.ctOut.set g (seq, outcome, v) }
      (s.ctWaiters peer g seq).foldl (fun s w => (s.onOwner w.1 (fun t => (t.op w.2.id).isSome) fun s => s.answerCtres w.1 w.2 outcome v).getD s) s
    else s) s
  let s := (List.range 35).foldl (fun s i => if x.child i then s.treeSend p i (treePkt 0x11 g x.job seq (outcome.setWidth 4) v) else s) s
  s.setGroup p g { entry := putBits x.entry 64 (seq + 1) }

/-- A router whose dies and children have all reported sends the combined value up, or at the root the result down (R49). -/
def State.groupReady (s : State) (p g : Nat) : State :=
  let x := s.group p g
  if !x.complete || x.sentUp then s
  else if x.isRoot then s.downAt p g x.seq 0 x.combined
  else (s.setGroup p g { x with sentUp := true }).treeSend p x.parent (treePkt 0x10 g x.job x.seq 0 x.combined)

/-- An instance of a group among those that refused a thread's CTRB (R49, R328). -/
def refusedKey (g : Nat) (seq : BitVec 32) : Nat := g * 2 ^ 32 + seq.toNat

/-- The refused instances of a thread changed, on both cores of a lock-step pair. -/
def State.modRefused (s : State) (k : Nat) (f : NSet → NSet) : State :=
  (s.twins k).foldl (fun s k => s.modSlot k fun t => { t with ctRefused := f t.ctRefused }) s

/-- CTRB's mask is met (R49, R327): the router takes the die's contribution or refuses it; one from a job that does not own
the group is not sent. The manual does not speak of a group entry that is not valid, which no job owns, nor of a die that is no member: the model does not send the
first, with cause PARTITION, and refuses the second (log entry 46). -/
def State.beginCtrb (s : State) (k : Nat) (o : Op) : State :=
  let peer := peerOfSlot k
  let p := peer / 4
  let g := (bits o.a 0 8 : BitVec 8).toNat
  let seq : BitVec 32 := bits o.a 32 32
  let x := s.group p g
  if !x.valid || x.job != (s.slot k).job then s.refuseOp k o 0x0B peer {}
  else if seq ≠ x.seq ∨ x.dies.has (peer % 4) ∨ ¬x.member (peer % 4) then
    (s.modRefused k fun m => m.insert (refusedKey g seq)).performedNone k o
  else
    let s := s.modRefused k fun m => m.remove (refusedKey g seq)
    ((s.setGroup p g { x with dies := x.dies.set (peer % 4) o.b }).performedNone k o).groupReady p g

/-- CTRES's mask is met (R328): answered at once, REFUSED for every instance that refused the thread's own CTRB, or it waits for its instance. -/
def State.beginCtres (s : State) (k : Nat) (o : Op) : State :=
  let peer := peerOfSlot k
  let g := (bits o.a 0 8 : BitVec 8).toNat
  let seq : BitVec 32 := bits o.a 32 32
  let d := s.die peer
  if (s.slot k).ctRefused.mem (refusedKey g seq) then s.answerCtres k o 2 0
  else match d.ctOut.find g with
    | some (e, oc, v) =>
      if seq = e then s.answerCtres k o oc v
      else if (e - seq).toNat < 2 ^ 31 then s.answerCtres k o 2 0
      else s.setPhase k o.id .waiting
    | none => s.setPhase k o.id .waiting

/-- An abort reaches a router (R51): the root settles the open instance with an abort CTDOWN; another router sends it on. One
for an instance that has ended changes nothing. -/
def State.abortAt (s : State) (p g : Nat) (seq : BitVec 32) : State :=
  let x := s.group p g
  if !x.valid || x.seq != seq then s
  else if x.isRoot then s.downAt p g seq 1 0
  else s.treeSend p x.parent (treePkt 0x12 g x.job seq 1 0)

/-- CTABT's mask is met (R329): the request leaves the source router. The manual does not speak of a CTABT from a job that does not own the group, nor of an entry that
is not valid: the model does not send the first, with cause PARTITION, and the second does nothing (log entry 46). -/
def State.beginCtabt (s : State) (k : Nat) (o : Op) : State :=
  let peer := peerOfSlot k
  let g := (bits o.a 0 8 : BitVec 8).toNat
  let x := s.group (peer / 4) g
  if x.valid && x.job != (s.slot k).job then s.refuseOp k o 0x0B peer {}
  else (s.performedNone k o).abortAt (peer / 4) g (bits o.a 32 32)

/-- The tree packet of a type at place k of the list, with its router and input. -/
def State.treeAt (s : State) (k : Nat) (type : BitVec 8) : Option (Pkt × Nat × Nat) :=
  match s.net[k]? with
  | some { pkt := pkt, loc := .router p i, came := _, held := _, stamp := _ } => if pkt.type = type ∧ i < 36 then some (pkt, p, i) else none
  | _ => none

/-- A tree packet of a type absorbed at its router (R32), a malformed one discarded (R35). -/
def State.absorb (s : State) (type : BitVec 8) (f : State → Pkt → Nat → Nat → State) : Out :=
  match s.treeAt s.arg.a type with
  | none => s.idle
  | some (pkt, p, i) => .next (if pkt.malformed then s.dropMalformed s.arg.a p i else f (s.dropFlight s.arg.a) pkt p i)

/-- CTUP: a child's value reaches its parent's router (R49); one of another instance is ignored (R51). Argument: a the
packet's place. -/
def execCtup (s : State) : Out :=
  s.absorb 0x10 fun s pkt p i =>
    let g := pkt.off.toNat % 256
    let x := s.group p g
    if x.valid && x.job == pkt.job && x.seq == pkt.payload.setWidth 32 && x.child i then
      (s.setGroup p g { x with kids := x.kids.set i pkt.operand }).groupReady p g
    else s

/-- CTDOWN: the result or the abort of an instance reaches a router (R49, R50). Argument: a the packet's place. -/
def execCtdown (s : State) : Out :=
  s.absorb 0x11 fun s pkt p _ => s.downAt p (pkt.off.toNat % 256) (pkt.payload.setWidth 32) (pkt.fn.setWidth 2) pkt.operand

/-- CTABT: an abort request reaches a router on its way up (R51). Argument: a the packet's place. -/
def execCtabt (s : State) : Out :=
  s.absorb 0x12 fun s pkt p _ => s.abortAt p (pkt.off.toNat % 256) (pkt.payload.setWidth 32)

/-- ROUTER_GROUP_WRITE: fabric firmware writes a group entry; the read-only fields keep their values, and one with operation 6 or 7
is refused (R48). Arguments: a the package, b the group, value the entry. -/
def execRouterGroupWrite (s : State) : Out :=
  let v := s.arg.value
  let x := s.group s.arg.a (s.arg.b % 256)
  if 6 ≤ (bits v 45 3 : BitVec 3).toNat then .next s
  else
    let e : BitVec 128 := (0 : BitVec 20) ++ (bits v 96 12 : BitVec 12) ++ x.seq ++ (0 : BitVec 15) ++ (bits v 0 49 : BitVec 49)
    .next (s.setGroup s.arg.a (s.arg.b % 256) { x with entry := e })

end Sys2Proof.Machine
end

