-- ==== Sys2Proof/Machine/Task.lean ====
section
/-!
DEFINITION. Machine/Task.lean: SPAWN, MIGR, EXIT, YIELD and CKPT (R131 to R134, R143, R330 to R334), and the TASK packets that
reach a core. A SPAWN or MIGR packet carries in its payload dword 0 flags, parcel and home core, dwords 1 to 24 w0 to w23,
dwords 25 to 30 origin and extents, dword 31 the launch (log entry 10).
-/
namespace Sys2Proof.Machine

/-- A slot as dispatch sets it (R87): every register zero but those named; the counters at 0x180 to 0x182 stay (R123), and
so do the count that tells the slot's operations apart and the SPAWNs that a return to a checkpoint left behind. -/
def Slot.dispatched (t : Slot) (pc ssp : Word) (job : BitVec 12) (par : ParcelId) : Slot :=
  { st := .run, pc := pc, ssp := ssp, job := job, par := par, opId := t.opId, spawns := t.spawns, droop := t.droop, issued := t.issued, waits := t.waits,
    jsel := t.jsel, ptsel := t.ptsel, frame := t.frame }

/-- A freed slot. -/
def Slot.freed (t : Slot) : Slot :=
  { t with st := .free, hold := .none, ops := [], replies := [], trapNext := [], pendW := 0, pendV := 0, pendF := 0, loops := [], ckpt := none }

/-- Is a bind record that of a thread's parcel: its job, launch and index (R88)? -/
def Bind.counts (b : Bind) (job : BitVec 12) (par : ParcelId) : Bool := b.job == job && b.launch == par.launch && b.parcel == par.parcel

/-- live of a parcel changed, in the entry of the core that keeps it (R88). -/
def State.addLive (s : State) (job : BitVec 12) (par : ParcelId) (up : Bool) : State :=
  let f := fun (b : Bind) => { b with live := if up then b.live + 1 else b.live - 1 }
  let x := s.core par.home
  if x.crew.bind.valid && x.crew.bind.counts job par then
    s.modCrew par.home fun y => { y with bind := f y.bind }
  else
    let g := fun (sv : SavedCrew) => if sv.crew.bind.counts job par then { sv with crew := { sv.crew with bind := f sv.crew.bind } } else sv
    s.modCore par.home fun y => { y with saved := y.saved.map g }

/-- live of a parcel. -/
def State.liveOf (s : State) (job : BitVec 12) (par : ParcelId) : Nat :=
  let x := s.core par.home
  if x.crew.bind.valid && x.crew.bind.counts job par then x.crew.bind.live.toNat
  else match x.saved with
    | some sv => if sv.crew.bind.counts job par then sv.crew.bind.live.toNat else 0
    | none => 0

/-- The payload of SPAWN and MIGR: flags, parcel identity and the registers given. -/
def taskPayload (flags : BitVec 8) (par : ParcelId) (regs : Nat → Word) : BitVec 2048 :=
  let d0 : Word := (0 : BitVec 1) ++ BitVec.ofNat 23 par.home ++ par.parcel ++ flags
  let at' := fun (i : Nat) (v : Word) => v.setWidth 2048 <<< (64 * i)
  at' 0 d0 ||| ((List.range 24).foldl (fun x i => x ||| at' (1 + i) (regs i)) 0) |||
    at' 25 par.org0 ||| at' 26 par.org1 ||| at' 27 par.org2 ||| at' 28 par.len0 ||| at' 29 par.len1 ||| at' 30 par.len2 |||
    at' 31 (BitVec.ofNat 64 par.launch)

/-- Dword i of a payload. -/
def Pkt.dword (p : Pkt) (i : Nat) : Word := bits p.payload (64 * i) 64
/-- The parcel identity of a SPAWN or MIGR packet. -/
def Pkt.parcel (p : Pkt) : ParcelId :=
  { parcel := bits (p.dword 0) 8 32, home := (bits (p.dword 0) 40 23 : BitVec 23).toNat, org0 := p.dword 25, org1 := p.dword 26, org2 := p.dword 27,
    len0 := p.dword 28, len1 := p.dword 29, len2 := p.dword 30, launch := (p.dword 31).toNat }

/-- A thread placed in a slot (R132, R133): a spawned one with w0 to w3, a migrated one with its flags and w0 to w23; sr.ssp 0. -/
def Slot.placed (t : Slot) (p : Pkt) : Slot :=
  let t := t.dispatched p.operand 0 p.job p.parcel
  if p.fn = taskSpawn then (List.range 4).foldl (fun t i => t.setW i (p.dword (1 + i))) t
  else { (List.range 24).foldl (fun t i => t.setW i (p.dword (1 + i))) t with flags := bits (p.dword 0) 0 8 }

/-- The slots that run as one number their operations alike from a dispatch on (R143). -/
def State.alike (s : State) (k : Nat) : State :=
  let n := ((s.twins k).map fun k => (s.slot k).opId).foldl max 0
  (s.twins k).foldl (fun s k => s.modSlot k fun t => { t with opId := n }) s

/-- A thread placed in slot i of core c, on both cores of a lock-step pair (R143). -/
def State.place (s : State) (c i : Nat) (p : Pkt) : State :=
  (s.twins (c * 8 + i)).foldl (fun s k => s.modSlot k (·.placed p)) (s.alike (c * 8 + i))

/-! ### SPAWN (R331) -/

/-- SPAWN's mask is met: refused at the source, or sent with live raised (R88). -/
def State.beginSpawn (s : State) (k : Nat) (o : Op) : State :=
  let t := s.slot k
  let no := fun (s : State) => s.performed k o { flag := o.flag.map fun f => (f, some false) }
  if o.b.getLsbD 0 || o.b.getLsbD 63 then no s
  else match s.coreRefused k o.a with
    | some cause => s.refuseOp k o cause (o.a.toNat / 1024) { flag := o.flag.map fun f => (f, some false) }
    | none =>
      if 65535 ≤ s.liveOf t.job t.par then no s
      else
        let args := fun (i : Nat) => if i < 4 then (bits o.vec (64 * i) 64 : Word) else 0
        (((s.addLive t.job t.par true).send
          { s.taskPacket k o o.a.toNat taskSpawn 0 o.b with payload := taskPayload 0 t.par args, plen := 256 })).setPhase k o.id .sent

/-! ### MIGR (R133, R332) -/

/-- The core whose stash holds a region bound to an address of a job (R133). -/
def State.migrBound (s : State) (job : BitVec 12) (va : Word) : Option Nat :=
  (s.cores.find? fun e => e.2.crew.bind.valid && e.2.crew.bind.job == job && (s.boundAt e.1 va).isSome).map (·.1)

/-- The core that MIGR moves a thread toward: the one whose stash holds a region bound to the address, else core (line
index mod 4) of the quad that homes it (R133). -/
def State.migrTarget (s : State) (job : BitVec 12) (va : Word) (pa : Nat) : Nat :=
  match s.migrBound job va with
  | some c => c
  | none => ((paPeer pa * 256 + sliceOf (paOff pa) / 2) * 4) + va.toNat / 256 % 4

/-- The TASK packet of a migrating thread: the next PC, flags with the named one set, w0 to w23 (R133). -/
def State.migrPacket (s : State) (k : Nat) (o : Op) (target : Nat) : Pkt :=
  let t := s.slot k
  let fl := match o.flag with
    | some f => putBits t.flags f.toNat (1 : BitVec 1)
    | none => t.flags
  { s.taskPacket k o target taskMigr 0 (t.pc + 4) with payload := taskPayload fl t.par t.w, plen := 256 }

/-- MIGR_SEND: a thread held in MIGR whose streams have drained is sent toward the home of its address, or the stash that binds it; a fault parks it as a
load (R133, R332). Argument: a the slot. -/
def execMigrSend (s : State) : Out :=
  let k := s.arg.a
  let t := s.slot k
  match t.ops with
  | [o] =>
    if ¬(s.gang (peerOfSlot k / 4) t.job).phase.bars ∧ o.kind = .migr ∧ o.phase = .held ∧ t.hold = .localOp o.id ∧ (t.markF o.flag false).noPending ∧ t.replies = [] then
      match s.translateNow (coreOf k) t.job o.a false with
      | .error e => .next (s.parkOp k o.id o.a e)
      | .ok l =>
        match (if (s.migrBound t.job o.a).isSome then none else if paPeer (l.pa o.a) = hostPeer then some 0x0A else s.accessRefused k (l.pa o.a)) with
        | some cause => .next (s.refuseOp k o cause (paPeer (l.pa o.a)) { flag := o.flag.map fun f => (f, some false) })
        | none =>
          let target := s.migrTarget t.job o.a (l.pa o.a)
          match s.coreRefused k (BitVec.ofNat 64 target) with
          | some cause => .next (s.refuseOp k o cause (target / 1024) { flag := o.flag.map fun f => (f, some false) })
          | none =>
            .next ((s.twins k).foldl (fun s k => (s.setPhase k o.id .sent).modSlot k fun t => { t.markF o.flag true with hold := .reply o.id })
              (s.send (s.migrPacket k o target)))
    else s.idle
  | _ => s.idle

/-- A migrating thread has been accepted: its source slot is free (R133). -/
def State.migrated (s : State) (k : Nat) : State := s.modSlot k (·.freed)

/-! ### EXIT (R134) -/

/-- EXIT_DRAINED: an exiting slot whose streams have drained and whose scoreboard is clear is FREE; live falls by 1 (R88,
R134). Argument: a the slot. -/
def execExitDrained (s : State) : Out :=
  let k := s.arg.a
  let t := s.slot k
  if t.st = .exiting ∧ t.ops = [] ∧ t.replies = [] ∧ t.noPending then
    .next (((s.twins k).foldl (fun s k => s.modSlot k (·.freed)) s).addLive t.job t.par false)
  else s.idle

/-! ### CKPT (R143, R334) -/

/-- A context image written in a core's own stash: 320 dwords. -/
def State.writeContext (s : State) (c off : Nat) (x : NMap Word) : State :=
  (List.range 320).foldl (fun s j => s.stashStore c (off + 8 * j) 8 (x.get 0 j)) s

/-- The own-stash offset that CKPT's image lies at, in one window of the core's own stash (R147, R334). -/
def ckptPlace (c : Nat) (a : Word) : Option Nat :=
  if a.getLsbD 63 then
    match localPlace c a with
    | .stash c' off => if c' = c ∧ off + 2560 ≤ 0x4_0000 then some off else none
    | _ => none
  else none

/-- CKPT on one core: its slot's context written with the PC and the loop levels after the CKPT (R129), its address kept as the checkpoint. -/
def State.checkpoint (s : State) (k : Nat) (id : Nat) : State :=
  match (s.slot k).op id with
  | none => s
  | some o => match ckptPlace (coreOf k) o.a with
    | none => s
    | some off =>
      let t := (s.slot k).dropOp id
      let n := t.advance 4
      (s.writeContext (coreOf k) off (contextOf { t with loops := n.loops } n.pc 0 0)).modSlot k fun t => { t with ckpt := some o.a, mismatched := false }

/-- CKPT's mask is met: once every other operation has performed and no bit is pending, each core of the thread writes its
context in its own stash. -/
def State.beginCkpt (s : State) (k : Nat) (o : Op) : State :=
  let t := s.slot k
  if t.ops.length = 1 ∧ t.noPending ∧ t.replies = [] then
    ((s.twins k).foldl (fun s k => s.checkpoint k o.id) s).performedNone k o
  else s

/-! ### Lock-step (R143, R144) -/

/-- The registers that a turn has written, and the operands of the operation it has issued, as the comparison sees them. -/
def Slot.written (old new : Slot) : List (Nat × Nat) :=
  let diff := fun (base n : Nat) (f : Slot → Nat → Nat) => ((List.range n).filter fun i => f old i ≠ f new i).map fun i => (base + i, f new i)
  diff 0 120 (fun t i => (t.phys.get 0 i).toNat) ++ diff 200 16 (fun t i => (t.v i).toNat) ++ diff 300 8 (fun t i => (t.k i).toNat) ++
    diff 400 1 (fun t _ => t.flags.toNat) ++
    (if old.opId = new.opId then [] else (new.ops.getLast?.toList.flatMap fun o => [(500, o.a.toNat), (501, o.b.toNat), (502, o.t.toNat), (503, o.vec.toNat)]))

/-- A slot's context read back from its core's checkpoint (R144). Its operations after the checkpoint are forgotten (log entry 19), but for the
SPAWNs on their way, whose refusal lowers live (R88). -/
def State.toCheckpoint (s : State) (k : Nat) : State :=
  match (s.slot k).ckpt with
  | none => s
  | some a => match ckptPlace (coreOf k) a with
    | none => s
    | some off =>
      let g := fun (j : Nat) => (s.stashRead (coreOf k) (off + 8 * j) 8).setWidth 64
      s.modSlot k fun t => { t.reload g with
        st := .run, hold := .none, waited := 0, ops := [], replies := [], mismatched := true,
        spawns := t.spawns ++ if coreOf k % 2 = 0 then (t.ops.filter fun o => o.kind == .spawn && o.phase == .sent).map fun o => (tagOf o.id 0, t.par) else [] }

/-- A killed slot: out of the rotation in EXITING, its replay entries and a MIGR not yet sent dropped with their pending bits (R285). -/
def Slot.killed (t : Slot) : Slot :=
  let gone := t.ops.filter fun o => o.phase == .parked || o.phase == .full || (o.kind == .migr && o.phase != .sent)
  let t := gone.foldl (fun t o => ((t.dropOp o.id).mark o.dest false).markF o.flag false) t
  { t with st := .exiting, hold := .none, waited := 0, trapNext := [] }

/-- A mismatch of slot k of the even core (R144): both cores' slots go back to their checkpoint, or without one, or a second time before the next CKPT, are killed
with a message. -/
def State.mismatch (s : State) (k : Nat) : State :=
  let t := s.slot k
  if t.ckpt = none ∨ t.mismatched then
    let s := s.postNoPc k { cause := 0x0C }
    (s.modSlot k (·.killed)).modSlot (k + 8) (·.killed)
  else (s.toCheckpoint k).toCheckpoint (k + 8)

/-- The odd core's own part of a turn that both cores of a pair have run from the same state: its slot, its stash and its region and table configurations; what left
the pair left it once, by the even core (R143). -/
def State.mergeOdd (even odd : State) (k : Nat) : State :=
  let c := coreOf k + 1
  let mine := fun (x : Nat) => x / 2 ^ 18 == c
  let s := even.modSlot (k + 8) fun _ => odd.slot (k + 8)
  let s := s.modCore c fun x => { x with utlb := (odd.core c).utlb, crew := { x.crew with regions := (odd.core c).crew.regions, tables := (odd.core c).crew.tables } }
  { s with
    stash := (odd.stash.filter fun e => mine e.1).foldl (fun m e => m.write e.1 e.2) (s.stash.filter fun e => !mine e.1),
    stashEmpty := (odd.stashEmpty.filter mine).foldl (fun n x => n.insert x) (s.stashEmpty.filter fun x => !mine x),
    stashPoison := (odd.stashPoison.filter mine).foldl (fun n x => n.insert x) (s.stashPoison.filter fun x => !mine x) }

/-- What both cores of a pair have done from one state, each for its own slot: joined, and their write-backs compared (R143). -/
def State.joinPair (s : State) (k : Nat) (even odd : State) : State :=
  let s' := even.mergeOdd odd k
  (if (s.slot k).written (s'.slot k) = (s.slot (k + 8)).written (s'.slot (k + 8)) then s' else s'.mismatch k).syncPair (coreOf k)

/-! ### TASK -/

/-- A SPAWN or MIGR reaches core c (R132, R133): accepted into the lowest FREE general slot, refused, or for a MIGR that finds
none answered NACK BUSY. -/
def State.arriveThread (s : State) (c : Nat) (pkt : Pkt) : State :=
  if !s.holdsCrew c pkt.job then s.send (pkt.outcome false)
  else match freeSlot (fun i => s.slot (c * 8 + i)) (s.core c).spill with
    | some i => (s.place c i pkt).send (pkt.outcome true)
    | none => if pkt.fn = taskMigr then s.send (pkt.nack nackBusy) else s.send (pkt.outcome false)

/-- TASK: channel traffic reaches a core's interface (R93, R125, R132, R133). Argument: a the packet's place. -/
def execTask (s : State) : Out :=
  match s.arrived s.arg.a 0x07 with
  | none => s.idle
  | some (pkt, q) =>
    let s := s.dropFlight s.arg.a
    let c := s.leadFor (q * 1024 + pkt.off.toNat % 1024) pkt.job
    if !s.admitted q pkt.job then .next (s.send (pkt.nack nackPartition))
    else if s.diverts c pkt.job ∧ ¬(pkt.fn = taskSev ∧ s.holdsCrew c pkt.job) then .next (s.spillItem c pkt)
    else if pkt.fn = taskSpawn ∨ pkt.fn = taskMigr then .next (s.arriveThread c pkt)
    else if s.holdsCrew c pkt.job then .next (s.arriveChannel c pkt)
    else if pkt.fn = taskPush then .next (s.send (pkt.outcome false))
    else .next (s.send (pkt.nack nackPartition))

end Sys2Proof.Machine
end

