-- ==== Sys2Proof/Machine/Tile.lean ====
section
/-!
DEFINITION. Machine/Tile.lean: the accumulator store of a quad (R213 to R231): handles, allocation, the decision on a
contribution, its addition, reading and ending a tile, and the watch word. Elements and tags of the tile at unit u are keyed
u × 1,024 + i × 32 + j.
-/
namespace Sys2Proof.Machine

/-! ### Handles and status words (R217, R223) -/

def handleJob (h : Word) : BitVec 12 := bits h 52 12
/-- The quad key that a handle names. -/
def handleQuad (h : Word) : Nat := (bits h 31 21 : BitVec 21).toNat
def handleUnit (h : Word) : Nat := (bits h 24 7 : BitVec 7).toNat
def handleGen (h : Word) : BitVec 16 := bits h 8 16
/-- The handle of a tile (R217). -/
def handleOf (job : BitVec 12) (q unit : Nat) (gen : BitVec 16) : Word :=
  job ++ BitVec.ofNat 21 q ++ BitVec.ofNat 7 unit ++ gen ++ (0 : BitVec 8)

/-- The outcomes of R223. -/
def ocAccepted : BitVec 4 := 0
def ocDuplicate : BitVec 4 := 1
def ocOverlap : BitVec 4 := 2
def ocFragment : BitVec 4 := 3
def ocStale : BitVec 4 := 4
def ocCapfail : BitVec 4 := 5
def ocRange : BitVec 4 := 6
def ocNotReady : BitVec 4 := 7
def ocNanTrap : BitVec 4 := 8
def ocPeer : BitVec 4 := 9
def ocNoSlot : BitVec 4 := 10

/-- What the store answers: outcome, record entries, whether coverage is complete, flags for the issuing thread, whether the
NaN trap follows, and the watch-word fill. -/
structure Verdict where
  outcome : BitVec 4
  cnt : Nat := 0
  done : Bool := false
  fsf : BitVec 6 := 0
  nan : Bool := false
  fill : Option (Nat × Word) := none
deriving DecidableEq, Repr

/-- The status word (R223). -/
def statusWord (lo : Nat) (v : Verdict) : Word :=
  (0 : BitVec 12) ++ BitVec.ofNat 20 lo ++ (0 : BitVec 24) ++ b1 v.done ++ BitVec.ofNat 3 v.cnt ++ v.outcome

/-! ### Tiles -/

def Tile.m (t : Tile) : Nat := t.m1.toNat + 1
def Tile.n (t : Tile) : Nat := t.n1.toNat + 1
/-- Tile states (R215). -/
def stClosed : BitVec 3 := 0
def stOpen : BitVec 3 := 1
def stPartial : BitVec 3 := 2
def stComplete : BitVec 3 := 3
def stAbandoned : BitVec 3 := 4
def stHeld : BitVec 3 := 5

def Quad.tile (q : Quad) (u : Nat) : Tile := q.tiles.get {} u
def Quad.setTile (q : Quad) (u : Nat) (t : Tile) : Quad := { q with tiles := q.tiles.set u t }
def Quad.elem (q : Quad) (u i j : Nat) : BitVec 160 := q.elems.get 0 (u * 1024 + i * 32 + j)
def Quad.tag (q : Quad) (u i j : Nat) : BitVec 2 := q.tags.get 0 (u * 1024 + i * 32 + j)

/-- The tile that a handle names at its store (R220, stage 3): none gives STALE. -/
def Quad.stage3 (q : Quad) (h : Word) (contribution : Bool) : Option Tile :=
  let u := handleUnit h
  let t := q.tile u
  if (bits h 0 8 : BitVec 8) ≠ 0 ∨ 79 < u ∨ t.state = stHeld ∨ t.state = stClosed ∨ t.gen ≠ handleGen h ∨ (contribution ∧ t.state = stAbandoned) then none
  else some t

/-- Stages 3 and 4 (R220): the tile, or the verdict. -/
def Quad.checked (q : Quad) (h : Word) (key : BitVec 32) (contribution : Bool) : Except Verdict Tile :=
  match q.stage3 h contribution with
  | none => .error { outcome := ocStale }
  | some t => if t.key ≠ key then .error { outcome := ocCapfail, cnt := t.record.length } else .ok t

/-- The record after an interval that R221 accepts, or the outcome that refuses it. -/
def recordAdd (r : List (Nat × Nat)) (lo hi : Nat) : Except (BitVec 4) (List (Nat × Nat)) :=
  let cov := r.foldl (fun c e => c + (min hi e.2 - max lo e.1)) 0
  if cov = hi - lo then .error ocDuplicate
  else if 0 < cov then .error ocOverlap
  else
    let left := r.find? fun e => e.2 == lo
    let right := r.find? fun e => e.1 == hi
    let before := r.filter fun e => e.2 < lo
    let after := r.filter fun e => hi < e.1
    if left.isNone ∧ right.isNone ∧ 6 ≤ r.length then .error ocFragment
    else .ok (before ++ [((left.map (·.1)).getD lo, (right.map (·.2)).getD hi)] ++ after)

/-! ### Arithmetic (R226, R228) -/

/-- comb, with its flag (R226). -/
def comb (a b : BitVec 2) : BitVec 2 × BitVec 6 :=
  if a = 0 then (b, 0) else if b = 0 then (a, 0) else if a = b then (a, 0)
  else if a = 3 ∨ b = 3 then (3, 0) else (3, fInvalid)

/-- One product of an XACC contribution: its scaled integer, tag, clamp and flags (R226). -/
def xaccTerm (b : Int) (x y : Val) : Int × BitVec 2 × Bool × BitVec 6 :=
  match x, y with
  | .nan, _ => (0, 3, false, 0)
  | _, .nan => (0, 3, false, 0)
  | .inf s, .inf t => (0, if s = t then 1 else 2, false, 0)
  | .inf s, .fin t m _ => if m = 0 then (0, 3, false, fInvalid) else (0, if s = t then 1 else 2, false, 0)
  | .fin s m _, .inf t => if m = 0 then (0, 3, false, fInvalid) else (0, if s = t then 1 else 2, false, 0)
  | .fin s m e, .fin t n d =>
    let p : Int := if s = t then (m * n : Nat) else -((m * n : Nat) : Int)
    let sh := e + d - b
    let q := if 0 ≤ sh then p * 2 ^ sh.toNat else p / 2 ^ (-sh).toNat
    if q < -2 ^ 126 then (-2 ^ 126, 0, true, fClamp)
    else if 2 ^ 126 - 1 < q then (2 ^ 126 - 1, 0, true, fClamp)
    else (q, 0, false, 0)

/-- An XACC element's sum and tag over the terms of an interval (R226). -/
def xaccSum (b : Int) (ts : List (Val × Val)) : Int × BitVec 2 × Bool × BitVec 6 :=
  ts.foldl (fun a t =>
    let r := xaccTerm b t.1 t.2
    let c := comb a.2.1 r.2.1
    (a.1 + r.1, c.1, a.2.2.1 || r.2.2.1, a.2.2.2 ||| r.2.2.2 ||| c.2)) (0, 0, false, 0)

/-- An exact value rounded to a 48-bit significand with no exponent bound, to nearest even (R228). -/
def round48 : Val → Val
  | .fin s m e =>
    if m = 0 then .fin s 0 0
    else
      let q := e + (Nat.log2 m : Int) - 47
      .fin s (roundTo .rne s m e q).1 q
  | v => v

/-- An FACC element's partial over the terms of an interval, in groups of G (R228): FP32 and flags. -/
def faccSum (g : Nat) (ts : List (Val × Val)) : Word × BitVec 6 :=
  let r := (ts.zipIdx).foldl (fun (a : Val × BitVec 6) t =>
    let p := t.1.1.mul t.1.2
    let s := a.1.add .rne p.1
    let last := (t.2 + 1) % g = 0 ∨ t.2 + 1 = ts.length
    (if last then round48 s.1 else s.1, a.2 ||| p.2 ||| s.2)) (.fin false 0 0, 0)
  let f := f32.round .rne r.1
  (f.1, r.2 ||| f.2)

/-- One element after an addition (R226, R228): value, tag, flags, and whether it counts in satcnt. -/
def Tile.addElem (t : Tile) (old : BitVec 160) (oldTag : BitVec 2) (add : BitVec 160) (addTag : BitVec 2) :
    BitVec 160 × BitVec 2 × BitVec 6 × Bool :=
  if t.mode then
    let c := comb oldTag addTag
    (old + add, c.1, c.2, false)
  else
    let r := f32.add .rne (zx (bits old 0 32 : BitVec 32)) (zx (bits add 0 32 : BitVec 32))
    if t.sat ∧ r.2 &&& fOverflow ≠ 0 then
      ((if r.1.getLsbD 31 then 0xFF7F_FFFF else 0x7F7F_FFFF), 0, fClamp, true)
    else (r.1.setWidth 160, 0, r.2, false)

/-- Is an element NaN (R230)? -/
def Tile.nanElem (t : Tile) (v : BitVec 160) (tag : BitVec 2) : Bool :=
  if t.mode then tag == 3 else f32.unpack (zx (bits v 0 32 : BitVec 32)) == .nan

/-- satcnt raised, stopping at its top (R231). -/
def Tile.count (t : Tile) (n : Nat) : Tile :=
  if t.sat then { t with satcnt := if 2 ^ 32 ≤ t.satcnt.toNat + n then 0xFFFF_FFFF else t.satcnt + BitVec.ofNat 32 n } else t

/-- The in-extent positions of a tile. -/
def Tile.cells (t : Tile) : List (Nat × Nat) := (List.range t.m).flatMap fun i => (List.range t.n).map fun j => (i, j)

/-- An MCONT sum clamped to what hi − lo products can reach (R226). -/
def clampSum (n : Nat) (v : BitVec 160) : BitVec 160 × Bool :=
  let lim : Int := n * 2 ^ 126
  if v.toInt < -lim then (BitVec.ofInt 160 (-lim), true)
  else if lim - 1 < v.toInt then (BitVec.ofInt 160 (lim - 1), true)
  else (v, false)

/-- A contribution added into its tile's elements: the quad, the flags, the satcnt increments and whether an element turned NaN. -/
def Quad.addContrib (q : Quad) (u : Nat) (t : Tile) (c : Contrib) : Quad × BitVec 6 × Nat × Bool :=
  t.cells.foldl (fun (a : Quad × BitVec 6 × Nat × Bool) p =>
    let i := p.1 * 32 + p.2
    let raw := c.elems.get 0 i
    let (v, cl) := if t.mode && c.kind == 2 then clampSum (c.hi - c.lo) raw else (raw, false)
    let old := a.1.elem u p.1 p.2
    let ot := a.1.tag u p.1 p.2
    let r := t.addElem old ot v (c.tags.get 0 i)
    ({ a.1 with elems := a.1.elems.set (u * 1024 + i) r.1, tags := if t.mode then a.1.tags.set (u * 1024 + i) r.2.1 else a.1.tags },
     a.2.1 ||| r.2.2.1 ||| (if cl then fClamp else 0), a.2.2.1 + (if r.2.2.2 then 1 else 0) + (if cl then 1 else 0),
     a.2.2.2 || (!t.nanElem old ot && t.nanElem r.1 r.2.1))) (q, 0, c.clamped, false)

/-- The watch record of a tile (R224). -/
def Tile.record' (t : Tile) (kind : BitVec 2) : Word :=
  kind ++ (0 : BitVec 14) ++ t.gen ++ (0 : BitVec 11) ++ t.kt
/-- The fill of a tile's watch word, where it has one. -/
def Tile.fill (t : Tile) (kind : BitVec 2) : Option (Nat × Word) := if t.watch = 0 then none else some (t.watch.toNat, t.record' kind)

/-- A contribution decided by its store, stages 3 to 6, and added where it is accepted (R220, R221, R226, R228, R230). -/
def Quad.decide (q : Quad) (c : Contrib) : Quad × Verdict :=
  match q.checked c.handle c.key true with
  | .error v => (q, v)
  | .ok t =>
    let u := handleUnit c.handle
    let mismatch : Bool := c.empty || (c.kind != 2 && (c.fa != t.fa || c.fb != t.fb)) || (c.kind == 1 && (c.mode != t.mode || c.b != t.b))
    if c.hi ≤ c.lo ∨ t.kt.toNat < c.hi ∨ mismatch then (q, { outcome := ocRange, cnt := t.record.length })
    else match recordAdd t.record c.lo c.hi with
      | .error oc => (q, { outcome := oc, cnt := t.record.length })
      | .ok r =>
        let (q, fl, n, nan) := q.addContrib u t c
        let done : Bool := r == [(0, t.kt.toNat)]
        let nan := t.nant && nan
        let t' := ({ t with record := r, state := if done then stComplete else stPartial, nant := t.nant && !nan }).count n
        (q.setTile u t',
         { outcome := if nan then ocNanTrap else ocAccepted, cnt := r.length, done := done, fsf := fl ||| c.fsf, nan := nan,
           fill := if done then t.fill 1 else none })

/-! ### Opening and ending a tile (R214, R216, R218, R370, R379) -/

/-- Units that a switched job waiting to come in names (R108): no other job's MOPEN takes them. -/
def unitFree (q : Quad) (named : Nat → Bool) (u : Nat) : Bool := (q.tile u).state == stClosed && !named u

/-- The unit that MOPEN takes (R214). -/
def Quad.allocate (q : Quad) (named : Nat → Bool) (xacc : Bool) : Option Nat :=
  if xacc then ((List.range 16).map (· * 5)).find? fun u => (List.range 5).all fun i => unitFree q named (u + i)
  else (List.range 80).find? (unitFree q named)

/-- The generation after a generation, never 0 (R214). -/
def nextGen (g : BitVec 16) : BitVec 16 := if g + 1 = 0 then 1 else g + 1

/-- A tile opened at a unit: elements +0 with tag 0, the other four units of an XACC tile held (R214, R370). -/
def Quad.openTile (q : Quad) (u : Nat) (t : Tile) : Quad :=
  let n := if t.mode then 5 else 1
  let q := { q with elems := q.elems.filter fun e => !(u ≤ e.1 / 1024 && e.1 / 1024 < u + n), tags := q.tags.filter fun e => !(u ≤ e.1 / 1024 && e.1 / 1024 < u + n) }
  let q := if t.mode then (List.range 4).foldl (fun q i => q.setTile (u + 1 + i) { q.tile (u + 1 + i) with state := stHeld, job := t.job }) q else q
  q.setTile u t

/-- MABN (R218): an open or complete tile is abandoned with its watch word's record of kind 2. -/
def Quad.abandon (q : Quad) (u : Nat) (t : Tile) : Quad × Option (Nat × Word) :=
  if t.state = stAbandoned then (q, none) else (q.setTile u { t with state := stAbandoned }, t.fill 2)

/-- MCLOSE (R218): an open or partial tile is abandoned first; the units are free, the generation stays. -/
def Quad.close (q : Quad) (u : Nat) (t : Tile) : Quad × Option (Nat × Word) :=
  let fill := if t.state = stOpen ∨ t.state = stPartial then t.fill 2 else none
  let q := if t.mode then (List.range 4).foldl (fun q i => q.setTile (u + 1 + i) { q.tile (u + 1 + i) with state := stClosed }) q else q
  (q.setTile u { t with state := stClosed, record := [], watch := 0 }, fill)

/-! ### Reading a tile (R215, R227, R377, R378) -/

/-- The exact value of an element (R227). -/
def Tile.value (t : Tile) (v : BitVec 160) (tag : BitVec 2) : Val :=
  if t.mode then
    (if tag = 3 then .nan else if tag = 1 then .inf false else if tag = 2 then .inf true
     else if v = 0 then .fin false 0 0 else .fin (v.toInt < 0) v.toInt.natAbs t.b.toInt)
  else f32.unpack (zx (bits v 0 32 : BitVec 32))

/-- The width in bits of a format (R366, R377). -/
def Snap.width (f : Snap) : Nat := if f.idx.toNat < 2 then 32 else if f.idx.toNat < 4 then 16 else dW f.desc

/-- A value encoded in a format (R198, R206). -/
def Snap.encode (f : Snap) (v : Val) : Nat × BitVec 6 :=
  if f.idx.toNat < 2 then let r := f32.round .rne v; (r.1.toNat, r.2)
  else if f.idx = 2 then let r := f16.round .rne v; (r.1.toNat, r.2)
  else if f.idx = 3 then let r := bf16.round .rne v; (r.1.toNat, r.2)
  else encodeCode f.desc v

/-- A code decoded in a format; none where it is reserved (R203, R204). -/
def Snap.decode (f : Snap) (code : Nat) : Option Val :=
  if f.idx.toNat < 2 then some (f32.unpack (BitVec.ofNat 64 code))
  else if f.idx = 2 then some (f16.unpack (BitVec.ofNat 64 code))
  else if f.idx = 3 then some (bf16.unpack (BitVec.ofNat 64 code))
  else decodeCode f.desc code

/-- Row i of what MREAD writes: its length in bits, its value and flags (R377). Format 0 is the raw layout of R375. -/
def Quad.readRow (q : Quad) (u : Nat) (t : Tile) (f : Snap) (i : Nat) : Nat × Nat × BitVec 6 :=
  if f.idx = 0 then
    let w := if t.mode then 192 else 32
    (t.n * w, (List.range t.n).foldl (fun x j =>
      x + ((q.elem u i j).toNat + (if t.mode then (q.tag u i j).toNat * 2 ^ 160 else 0)) * 2 ^ (j * w)) 0, 0)
  else
    (t.n * f.width, (List.range t.n).foldl (fun (x : Nat × BitVec 6) j =>
      let r := f.encode (t.value (q.elem u i j) (q.tag u i j))
      (x.1 + r.1 * 2 ^ (j * f.width), x.2 ||| r.2)) (0, 0))

/-- The descriptor image of a tile, 64 bytes (R215); MQRY writes dw3 as zero (R378). -/
def Tile.image (t : Tile) (watch : Bool) : BitVec 512 :=
  let d0 : Word := (0 : BitVec 20) ++ t.job ++ t.gen ++ t.n1 ++ t.m1 ++ b1 t.sat ++ b1 t.nant ++ b1 t.mode ++ t.state
  let d1 : Word := t.satcnt ++ t.key
  let d2 : Word := (0 : BitVec 18) ++ BitVec.ofNat 3 t.record.length ++ t.fb ++ t.fa ++ t.b ++ t.kt
  let d3 : Word := if watch then zx t.watch else 0
  let rec' : BitVec 256 := (t.record.zipIdx).foldl (fun x e =>
    x ||| (BitVec.ofNat 256 (e.1.1 + e.1.2 * 2 ^ 21) <<< (42 * e.2))) 0
  rec' ++ d3 ++ d2 ++ d1 ++ d0

/-- The report of MFLG (R378). -/
def Tile.flagReport (t : Tile) : Word := t.satcnt ++ (0 : BitVec 26) ++ b1 t.sat ++ b1 t.nant ++ b1 t.mode ++ t.state

end Sys2Proof.Machine
end

