-- ==== Sys2Proof/Machine/Engine.lean ====
section
/-!
DEFINITION. Machine/Engine.lean: the matrix engine of a quad (R359 to R379): operand access, format snapshots (R208, R209),
acceptance, forming a contribution, its arrival at a store near or far (R219, R376), and the commands that read or end a
tile. An engine reads and writes memory in one step (log entry 11).
-/
namespace Sys2Proof.Machine

/-! ### The engines' access to memory (R364, R366) -/

/-- Why an engine's access stops: a translation fault, a refused or poisoned place, a line with a transaction under way, a limit of
R363, a reserved code. -/
inductive Stop where
  | fault (va : Word) (kind : FaultKind)
  | peer
  | busy
  | range
  | reserved (idx : BitVec 6)
deriving DecidableEq, Repr

/-- Where bytes of an engine's access lie: a stash of the quad, or a physical address, of a page that is cached or not. -/
inductive EngPlace where
  | stash (core off : Nat)
  | home (pa : Nat) (nc : Bool)
deriving DecidableEq, Repr

/-- The place of n bytes within one line (R147, R158, R366), where neither the source nor the home refuses them (R17, R40, R41). -/
def State.engPlace (s : State) (k : Nat) (a : Word) (n : Nat) (write : Bool) : Except Stop EngPlace :=
  let c := coreOf k
  let stash := fun (c' off : Nat) => match s.boundHere c' off with
    | some r =>
      if write && r.ro then Except.error (Stop.fault a .permission)
      else if (s.touchRefused c' off n).isSome then .error .peer
      else if s.lineFree ((r.pa + off % 0x8000) / 256) then .ok (.stash c' off) else .error .busy
    | none => .ok (.stash c' off)
  if a.getLsbD 63 then
    match localPlace c a with
    | .stash c' off => if off + n ≤ 0x4_0000 then stash c' off else .error .range
    | _ => .error .range
  else if (bits a 57 6 : BitVec 6) ≠ 0 then .error (.fault a .malformed)
  else match s.boundAt c a with
    | some (_, off) => stash c off
    | none => match s.translateNow c (s.slot k).job a write with
      | .error e => .error (.fault a e)
      | .ok l =>
        if (s.homeRefused k (l.pa a)).isSome then .error .peer
        else if paPeer (l.pa a) ≠ hostPeer ∧ ¬s.lineFree (l.pa a / 256) then .error .busy
        else .ok (.home (l.pa a) l.nc)

/-- n bytes within one line read by an engine for a command of scope sc. -/
def State.fetchChunk (s : State) (k : Nat) (sc : BitVec 3) (a : Word) (n : Nat) : Except Stop (Nat × State) :=
  match s.engPlace k a n false with
  | .error e => .error e
  | .ok (.stash c off) =>
    let s := s.stashTouch c off n
    if s.stashPoisoned c off n then .error .peer else .ok ((s.stashRead c off n).toNat, s)
  | .ok (.home pa nc) =>
    let r := s.quadLoad (quadOf (coreOf k)) pa n nc sc
    if r.2.1 then .error .peer else .ok (r.2.2, r.1)

/-- n bytes read, line by line, as one little-endian number. -/
def State.fetchRow (k : Nat) (sc : BitVec 3) : Nat → State → Word → Nat → Except Stop (Nat × State)
  | 0, s, _, _ => .ok (0, s)
  | f + 1, s, a, n =>
    if n = 0 then .ok (0, s)
    else
      let m := min n (256 - a.toNat % 256)
      match s.fetchChunk k sc a m with
      | .error e => .error e
      | .ok (v, s) => match State.fetchRow k sc f s (a + BitVec.ofNat 64 m) (n - m) with
        | .error e => .error e
        | .ok (w, s) => .ok (v + w * 2 ^ (8 * m), s)

def State.fetch (s : State) (k : Nat) (sc : BitVec 3) (a : Word) (n : Nat) : Except Stop (Nat × State) := State.fetchRow k sc (n + 1) s a n

/-- `n` bits from bit 0 of one line's bytes written by an engine; the other bits of the last byte stay (R377). -/
def State.storeChunk (s : State) (k : Nat) (a : Word) (n v : Nat) : Except Stop State :=
  let m := (n + 7) / 8
  match s.engPlace k a m true with
  | .error e => .error e
  | .ok (.stash c off) =>
    let s := s.stashTouch c off m
    let old := (s.stashRead c off m).toNat
    if (off % 8 ≠ 0 ∧ s.stashPoisoned c off 1) ∨ ((off + m) % 8 ≠ 0 ∧ s.stashPoisoned c (off + m - 1) 1) then .error .peer
    else .ok (s.pairStore k a c off m (BitVec.ofNat (8 * m) (v % 2 ^ n + old / 2 ^ n * 2 ^ n)))
  | .ok (.home pa nc) =>
    let q := quadOf (coreOf k)
    let new := fun (old : Nat) => BitVec.ofNat (8 * m) (v % 2 ^ n + old / 2 ^ n * 2 ^ n)
    if nc ∨ paPeer pa ≠ peerOf q then
      let s := (s.passCopies q (pa / 256)).agentObtain pa m
      if s.partialPoison pa m then .error .peer else .ok (s.agentWrite pa m (new (s.memRead pa m).toNat))
    else
      let s := s.ownLine q (pa / 256)
      let y := (s.line q (pa / 256)).getD (s.lineCopy (pa / 256) .owned)
      if y.partialPoison (pa % 256) m then .error .peer
      else .ok (s.setLine q (pa / 256) (y.put (pa % 256) m (new (y.data.extractLsb' (8 * (pa % 256)) (8 * m)).toNat)))

/-- n bits written, line by line. -/
def State.storeRow (k : Nat) : Nat → State → Word → Nat → Nat → Except Stop State
  | 0, s, _, _, _ => .ok s
  | f + 1, s, a, n, v =>
    if n = 0 then .ok s
    else
      let m := min n (8 * (256 - a.toNat % 256))
      match s.storeChunk k a m v with
      | .error e => .error e
      | .ok s => State.storeRow k f s (a + BitVec.ofNat 64 ((m + 7) / 8)) (n - m) (v / 2 ^ m)

def State.storeBits (s : State) (k : Nat) (a : Word) (n v : Nat) : Except Stop State := State.storeRow k (n + 1) s a n v

/-- Rows (address, bits, value) that follow one another without a gap joined into one, so that a word they share is written whole (R446). -/
def mergeRows : List (Word × Nat × Nat) → List (Word × Nat × Nat)
  | [] => []
  | r :: rs => match mergeRows rs with
    | [] => [r]
    | x :: xs =>
      if r.2.1 % 8 = 0 ∧ r.1 + BitVec.ofNat 64 (r.2.1 / 8) = x.1 then (r.1, r.2.1 + x.2.1, r.2.2 + x.2.2 * 2 ^ r.2.1) :: xs else r :: x :: xs

/-- Rows (address, bits, value) written in order. -/
def State.storeRows (k : Nat) : List (Word × Nat × Nat) → State → Except Stop State
  | [], s => .ok s
  | r :: rs, s => match s.storeBits k r.1 r.2.1 r.2.2 with
    | .error e => .error e
    | .ok s => State.storeRows k rs s

/-- Do n bytes, from `delta` bytes after a local base on, lie in the stash that the base lies in (R366)? Those of a global base do. -/
def inBaseStash (k : Nat) (base : Word) (delta n : Nat) : Bool :=
  !base.getLsbD 63 ||
    (match localPlace (coreOf k) base with
     | .stash _ off => off + delta + n ≤ 0x4_0000
     | _ => false)

/-! ### Formats (R200, R202, R208, R209, R366) -/

/-- The format index at an address: its region's or its page's (R366). -/
def State.fmtAt (s : State) (k : Nat) (a : Word) : Except Stop (BitVec 6) :=
  let c := coreOf k
  if a.getLsbD 63 then
    match localPlace c a with
    | .stash c' off => .ok (s.region c' (off / 0x8000)).fmt
    | _ => .error .range
  else match s.boundAt c a with
    | some (i, _) => .ok (s.region c i).fmt
    | none => match s.translateNow c (s.slot k).job a false with
      | .ok l => .ok l.fmt
      | .error e => .error (.fault a e)

/-- The key of a descriptor in a quad's cache (R209). -/
def fmtKey (job : BitVec 12) (idx : Nat) : Nat := job.toNat * 64 + idx

/-- Every descriptor cache of the job's partition drops its copy of index i (R209). -/
def State.dropFormat (s : State) (p : Nat) (job : BitVec 12) (i : Nat) : State :=
  let ps := s.partition p job
  { s with quads := s.quads.mapV fun q x =>
      if ps.contains (peerOf q / 4) then { x with formats := x.formats.erase (fmtKey job i) } else x }

/-- The descriptor of an FMTW stands at its home: the cached copies of the index in `b` go (R209). -/
def State.formatWritten (s : State) (k : Nat) (o : Op) : State :=
  s.dropFormat (peerOfSlot k / 4) (s.slot k).job (bits o.b 0 6 : BitVec 6).toNat

/-- The job virtual address of descriptor idx (R200). -/
def fmtAddr (j : Word) (idx : Nat) : Word := (zx (bits j 9 48 : BitVec 48) <<< 9) + BitVec.ofNat 64 (8 * idx)

/-- A format taken with its descriptor: from the quad's descriptor cache, else from the table's home (R202, R208, R209). A poisoned descriptor's data is used as it
stands (R446; log entry 50). -/
def State.snap (s : State) (k : Nat) (idx : BitVec 6) : Snap × State :=
  let job := (s.slot k).job
  let q := quadOf (coreOf k)
  let j := (s.die (peerOfSlot k)).jfmt.get 0 job.toNat
  if idx.toNat < 4 then ({ idx := idx }, s)
  else if !j.getLsbD 63 then ({ idx := idx, bad := some 2 }, s)
  else
    let fin := fun (d : Word) => ({ idx := idx, desc := d, bad := if illFormed d then some 0 else none } : Snap)
    match (s.quad q).formats.find (fmtKey job idx.toNat) with
    | some d => (fin d, s)
    | none => match s.translateNow (coreOf k) job (fmtAddr j idx.toNat) false with
      | .error _ => ({ idx := idx, bad := some 2 }, s)
      | .ok l =>
        let pa := l.pa (fmtAddr j idx.toNat)
        -- a home that the job may not reach (R17, R40, R41) makes the table unreachable
        if (s.homeRefused k pa).isSome then ({ idx := idx, bad := some 2 }, s)
        else
          let s := s.agentClean pa 8
          let d := s.word pa
          (fin d, s.modQuad q fun x => { x with formats := x.formats.set (fmtKey job idx.toNat) d })

/-- The detail dword of a format trap (R202). -/
def fmtDetail (idx : BitVec 6) (kind : BitVec 2) : Word := zx (kind ++ idx)

/-! ### Commands in their queues (R361, R364) -/

/-- A command's parameter lanes (R360). -/
def EngCmd.p (c : EngCmd) (i : Nat) : BitVec 32 := lane c.op.vec i
def EngCmd.p2 (c : EngCmd) (i : Nat) : Word := c.p (i + 1) ++ c.p i
def EngCmd.fn (c : EngCmd) : Nat := match c.op.kind with
  | .matrix f => f
  | _ => 0
/-- Zero in bits [31:lo] of a lane. -/
def zeroAbove (x : BitVec 32) (lo : Nat) : Bool := x.toNat < 2 ^ lo

/-- The functions of R250. -/
def fnMopen : Nat := 0
def fnMma : Nat := 1
def fnMmas : Nat := 2
def fnMmaw : Nat := 3
def fnMrot : Nat := 4
def fnMcont : Nat := 5
def fnMfwd : Nat := 6
def fnMread : Nat := 7
def fnMqry : Nat := 8
def fnMabn : Nat := 9
def fnMclose : Nat := 10
def fnMflg : Nat := 11

/-- Is it the command of a thread's operation? -/
def EngCmd.is (c : EngCmd) (k id : Nat) : Bool := c.slot == k && c.op.id == id

/-- The command of an operation, in its core's queue or the replay slot. -/
def State.engCmd (s : State) (k id : Nat) : Option EngCmd :=
  match (s.core (coreOf k)).crew.matrix.find? (·.is k id) with
  | some c => some c
  | none => ((s.quad (quadOf (coreOf k))).replay).filter (·.is k id)

def State.modCmd (s : State) (k id : Nat) (f : EngCmd → EngCmd) : State :=
  (s.modCrew (coreOf k) fun x => { x with matrix := x.matrix.map fun c => if c.is k id then f c else c }).modQuad (quadOf (coreOf k)) fun q =>
    { q with replay := q.replay.map fun c => if c.is k id then f c else c }

def State.dropCmd (s : State) (k id : Nat) : State :=
  (s.modCrew (coreOf k) fun x => { x with matrix := x.matrix.filter fun c => !c.is k id }).modQuad (quadOf (coreOf k)) fun q =>
    { q with replay := q.replay.filter fun c => !c.is k id, staged := q.staged.filter (· ≠ (k, id)) }

/-- A command ends: its status written, its flags ORed, its queue entry free; then the trap it calls for (R211, R230, R361, R365). -/
def State.endCmd (s : State) (c : EngCmd) (status : Word) (fsf : BitVec 6) (tr : Option (BitVec 8 × Word)) : State :=
  let s := (s.dropCmd c.slot c.op.id).performed c.slot c.op { value := status.setWidth 512, fsf := fsf }
  match tr with
  | none => s
  | some (cause, detail) =>
    s.trapLater c.slot { cause := cause, detail := detail, stream := c.op.stream, mask := c.op.mask, seq := c.op.seq }

def EngCmd.lo (c : EngCmd) : Nat := (c.p 3).toNat % 2 ^ 21
def EngCmd.hi (c : EngCmd) : Nat := (c.p 4).toNat % 2 ^ 21

/-- A command ends with an outcome of its own. -/
def State.endWith (s : State) (c : EngCmd) (oc : BitVec 4) (cnt : Nat) : State :=
  s.endCmd c (statusWord (if 1 ≤ c.fn ∧ c.fn ≤ 6 then c.lo else 0) { outcome := oc, cnt := cnt }) 0 none

/-- Is a byte of a destination at its home: one of a bound region homed beyond the die waits for its write-back (R189)? -/
def State.destHome (s : State) (k : Nat) (va : Word) : Bool :=
  let far := fun (c off : Nat) => match s.boundHere c off with
    | some r => paPeer r.pa != peerOf (quadOf c) && r.dirty.getLsbD (off % 0x8000 / 128)
    | none => false
  if va.getLsbD 63 then
    (match localPlace (coreOf k) va with
     | .stash c off => !far c off
     | _ => true)
  else match s.boundAt (coreOf k) va with
    | some (_, off) => !far (coreOf k) off
    | none => true

/-- Are n stash bytes at their home: none of a bound region homed beyond the die that waits for its write-back (R189)? -/
def State.placeHome (s : State) (d : Nat × Nat × Nat) : Bool :=
  (List.range ((d.2.1 % 128 + d.2.2 + 127) / 128)).all fun i =>
    let off := d.2.1 / 128 * 128 + 128 * i
    match s.boundHere d.1 off with
    | some r => paPeer r.pa == peerOf (quadOf d.1) || !r.dirty.getLsbD (off % 0x8000 / 128)
    | none => true

/-- The stash bytes among n bytes at an address of slot k. -/
def State.stashBytes (s : State) (k : Nat) (va : Word) (n : Nat) : List (Nat × Nat × Nat) :=
  (granules va n).filterMap fun g => (s.stashOf (coreOf k) g.1).map fun x => (x.1, x.2, g.2)

/-- Has all that a decided command's status follows happened (R362, R374): its deliveries made, and its writes performed at its scope? Bytes in a region bound
beyond the die have performed at a wider scope than core once they are home (R189). -/
def State.cmdOver (s : State) (c : EngCmd) : Bool :=
  c.stage == .decided && c.deliveries == 0 && (c.op.scope == 0 || c.dests.all s.placeHome)

/-- A decided command ends: with outcome PEER where a delivery met a poisoned word (R446). -/
def State.finishCmd (s : State) (c : EngCmd) : State :=
  s.endCmd c (if c.refused then putBits c.status 0 ocPeer else c.status) c.fsf c.trap

/-- A command that is decided ends, or waits until its status may be written; ENGINE_ACCEPT ends it then. -/
def State.settleCmd (s : State) (c : EngCmd) : State :=
  let s := s.modCmd c.slot c.op.id fun _ => c
  if s.cmdOver c then s.finishCmd c else s

/-- A command is decided with a status, flags and the trap that follows it. -/
def EngCmd.decideAs (c : EngCmd) (status : Word) (fsf : BitVec 6) (tr : Option (BitVec 8 × Word)) : EngCmd :=
  { c with stage := .decided, status := status, fsf := fsf, trap := tr, formed := none, got := [] }

/-- A command that wrote memory ends once its writes have performed (R362). -/
def State.endWritten (s : State) (c : EngCmd) (status : Word) (fsf : BitVec 6) (dests : List (Word × Nat)) : State :=
  s.settleCmd { c.decideAs status fsf none with dests := dests.flatMap fun d => s.stashBytes c.slot d.1 d.2 }

/-- A fault stops a command (R364): into the replay slot with a message of cause 0x10, or back to its queue's head until that slot is free. -/
def State.engFault (s : State) (c : EngCmd) (va : Word) : State :=
  let q := quadOf (coreOf c.slot)
  let tr : Trap := { cause := 0x10, addr := va, detail := zx c.op.word, stream := c.op.stream, mask := c.op.mask, seq := c.op.seq }
  let c' : EngCmd := { c with stage := .queued, formed := none }
  match (s.quad q).replay with
  | none => ((s.dropCmd c.slot c.op.id).modQuad q fun x => { x with replay := some c' }).postNoPc c.slot tr
  | some r =>
    if r.is c.slot c.op.id then (s.modQuad q fun x => { x with replay := some c' }).postNoPc c.slot tr
    else s.modCmd c.slot c.op.id fun _ => { c' with stage := .blocked }

/-- What a stop does to a command (R363 to R365, R446). A busy line leaves it to be tried again. -/
def State.engStop (s : State) (c : EngCmd) (cnt : Nat) : Stop → State
  | .fault va _ => s.engFault c va
  | .peer => s.endWith c ocPeer 0
  | .busy => s
  | .range => s.endWith c ocRange cnt
  | .reserved idx => s.endCmd c (statusWord (if 1 ≤ c.fn ∧ c.fn ≤ 6 then c.lo else 0) { outcome := ocRange, cnt := cnt }) 0 (some (0x07, fmtDetail idx 1))

/-! ### Release (R208, R361) -/

/-- The snapshots of a command at its release point: A and B of a contribution, the destination of MREAD; none where reading an index faults
(tried again at acceptance, R220). -/
def State.takeSnaps (s : State) (c : EngCmd) : List Snap × State :=
  let two := fun (x : Snap × State) (y : Snap × State) => ([x.1, y.1], y.2)
  if c.fn = fnMma ∨ c.fn = fnMmas ∨ c.fn = fnMmaw ∨ c.fn = fnMrot ∨ c.fn = fnMfwd then
    match s.fmtAt c.slot (c.p2 5), s.fmtAt c.slot (c.p2 8) with
    | .ok a, .ok b =>
      let x := s.snap c.slot a
      two x (x.2.snap c.slot b)
    | _, _ => ([], s)
  else if c.fn = fnMread then let x := s.snap c.slot (bits (c.p 7) 16 6); ([x.1], x.2)
  else ([], s)

/-- A matrix command's mask is met: released with its snapshots, it is ready for the engine (R208, R361). -/
def State.beginMatrix (s : State) (k : Nat) (o : Op) : State :=
  match s.engCmd k o.id with
  | none => s
  | some c =>
    let r := s.takeSnaps c
    (r.2.setPhase k o.id .waiting).modCmd k o.id fun c => { c with snaps := r.1, op := { c.op with phase := .waiting } }

/-! ### Forming a contribution (R226, R228, R366, R371 to R376) -/

/-- Elements fetched and decoded, each w bits at a bit offset from a byte address. -/
def State.fetchElems (k : Nat) (sc : BitVec 3) (f : Snap) : List (Word × Nat) → State → Except Stop (List Val × State)
  | [], s => .ok ([], s)
  | (a, b) :: r, s =>
    match s.fetch k sc (a + BitVec.ofNat 64 (b / 8)) ((b % 8 + f.width + 7) / 8) with
    | .error e => .error e
    | .ok (x, s) => match f.decode (x / 2 ^ (b % 8) % 2 ^ f.width) with
      | none => .error (.reserved f.idx)
      | some v => match State.fetchElems k sc f r s with
        | .error e => .error e
        | .ok (vs, s) => .ok (v :: vs, s)

/-- The contribution that the terms of each element form (R226, R228). -/
def formContrib (c : Contrib) (m n g : Nat) (terms : Nat → Nat → List (Val × Val)) : Contrib :=
  ((List.range m).flatMap fun i => (List.range n).map fun j => (i, j)).foldl (fun c p =>
    let i := p.1 * 32 + p.2
    if c.mode then
      let r := xaccSum c.b.toInt (terms p.1 p.2)
      { c with elems := c.elems.set i (BitVec.ofInt 160 r.1), tags := c.tags.set i r.2.1, clamped := c.clamped + (if r.2.2.1 then 1 else 0),
               fsf := c.fsf ||| r.2.2.2 }
    else
      let r := faccSum g (terms p.1 p.2)
      { c with elems := c.elems.set i (r.1.setWidth 160), fsf := c.fsf ||| r.2 }) c

/-- An element of a fetched matrix of rows of n. -/
def elemAt (vs : List Val) (n i j : Nat) : Val := vs.getD (i * n + j) (.fin false 0 0)

/-- Group g of the bitmap is live (R372). -/
def liveGroups (bitmap n : Nat) : List Nat := (List.range n).filter fun g => bitmap / 2 ^ g % 2 = 1

/-- The kept positions of a row's nibbles (R372). -/
def nibble (meta' n : Nat) : Nat × Nat := (meta' / 2 ^ (4 * n) % 4, meta' / 2 ^ (4 * n + 2) % 4)

/-- The rows of B that the kept positions of m metadata rows name (R372). -/
def sparseRows (live ms : List Nat) (m : Nat) : List Nat :=
  (live.zipIdx).flatMap fun g => ((List.range 4).filter fun p =>
    (List.range m).any fun i => (nibble (ms.getD i 0) g.2).1 == p || (nibble (ms.getD i 0) g.2).2 == p).map fun p => 4 * g.1 + p

/-- Where MMAW reads A's element (i, k): bytes and bits from the base, an element being w bits (R373). -/
def EngCmd.windowPlace (e : EngCmd) (w i k : Nat) : Nat × Nat :=
  let kw := (e.p 10).toNat / 2 ^ 8 % 2 ^ 8
  let stride := (e.p 10).toNat / 2 ^ 16 % 2 ^ 8
  let dil := (e.p 10).toNat / 2 ^ 24
  let ch := (e.p 11).toNat % 2 ^ 16
  (k / (kw * ch) * dil * ((e.p 7).toNat % 2 ^ 16), ((i * stride + k / ch % kw * dil) * ch + k % ch) * w)

/-- Metadata rows fetched (R372). -/
def State.fetchRows (k : Nat) (sc : BitVec 3) (n : Nat) : List Word → State → Except Stop (List Nat × State)
  | [], s => .ok ([], s)
  | a :: r, s => match s.fetch k sc a n with
    | .error e => .error e
    | .ok (x, s) => match State.fetchRows k sc n r s with
      | .error e => .error e
      | .ok (xs, s) => .ok (x :: xs, s)

/-- The index and the snapshot of each operand, its G, and the operand addresses of a contribution command (R228, R366, R368). -/
def groupOf (fa fb : Snap) : Nat := if fa.width ≤ 8 ∧ fb.width ≤ 8 then 4 else 2

/-- A and B fetched as R366 lays them out, and the contribution formed: MMA, MROT and MFWD. -/
def State.formPlain (s : State) (e : EngCmd) (c : Contrib) (m n : Nat) (fa fb : Snap) : Except Stop (Contrib × State) :=
  let kk := c.hi - c.lo
  let sa := (e.p 7).toNat % 2 ^ 16
  let sb := (e.p 7).toNat / 2 ^ 16
  match State.fetchElems e.slot e.op.scope fa ((List.range m).flatMap fun i => (List.range kk).map fun k => (e.p2 5 + BitVec.ofNat 64 (i * sa), k * fa.width)) s with
  | .error x => .error x
  | .ok (as, s) =>
    match State.fetchElems e.slot e.op.scope fb ((List.range kk).flatMap fun k => (List.range n).map fun j => (e.p2 8 + BitVec.ofNat 64 (k * sb), j * fb.width)) s with
    | .error x => .error x
    | .ok (bs, s) =>
      .ok (formContrib c m n (groupOf fa fb) fun i j => (List.range kk).map fun k => (elemAt as kk i k, elemAt bs n k j), s)

/-- MMAS (R372). -/
def State.formSparse (s : State) (e : EngCmd) (c : Contrib) (m n : Nat) (fa fb : Snap) : Except Stop (Contrib × State) :=
  let kk := c.hi - c.lo
  let sa := (e.p 7).toNat % 2 ^ 16
  let sb := (e.p 7).toNat / 2 ^ 16
  let sm := (e.p 14).toNat % 2 ^ 16
  match s.fetch e.slot e.op.scope (e.p2 10) ((kk / 4 + 7) / 8) with
  | .error x => .error x
  | .ok (bm, s) =>
    let live := liveGroups bm (kk / 4)
    match State.fetchRows e.slot e.op.scope ((live.length + 1) / 2) ((List.range m).map fun i => e.p2 12 + BitVec.ofNat 64 (i * sm)) s with
    | .error x => .error x
    | .ok (ms, s) =>
      let nib := fun i g => nibble (ms.getD i 0) g
      if (List.range m).any fun i => (List.range live.length).any fun g => (nib i g).1 == (nib i g).2 then .error .range
      else
        let used := sparseRows live ms m
        match State.fetchElems e.slot e.op.scope fa ((List.range m).flatMap fun i => (List.range (2 * live.length)).map fun k => (e.p2 5 + BitVec.ofNat 64 (i * sa), k * fa.width)) s with
        | .error x => .error x
        | .ok (as, s) =>
          match State.fetchElems e.slot e.op.scope fb (used.flatMap fun k => (List.range n).map fun j => (e.p2 8 + BitVec.ofNat 64 (k * sb), j * fb.width)) s with
          | .error x => .error x
          | .ok (bs, s) =>
            let zero : Val := .fin false 0 0
            let term := fun (i j k : Nat) =>
              match (live.zipIdx).find? fun g => g.1 == k / 4 with
              | none => (zero, zero)
              | some g =>
                let ps := nib i g.2
                let b := elemAt bs n (used.findIdx (· == k)) j
                if ps.1 = k % 4 then (elemAt as (2 * live.length) i (2 * g.2), b)
                else if ps.2 = k % 4 then (elemAt as (2 * live.length) i (2 * g.2 + 1), b)
                else (zero, zero)
            .ok (formContrib c m n (groupOf fa fb) fun i j => (List.range kk).map fun k => term i j k, s)

/-- MMAW (R373). -/
def State.formWindow (s : State) (e : EngCmd) (c : Contrib) (m n : Nat) (fa fb : Snap) : Except Stop (Contrib × State) :=
  let kk := c.hi - c.lo
  let sb := (e.p 7).toNat / 2 ^ 16
  let place := fun (i k : Nat) => let p := e.windowPlace fa.width i k; (e.p2 5 + BitVec.ofNat 64 p.1, p.2)
  match State.fetchElems e.slot e.op.scope fa ((List.range m).flatMap fun i => (List.range kk).map fun k => place i (c.lo + k)) s with
  | .error x => .error x
  | .ok (as, s) =>
    match State.fetchElems e.slot e.op.scope fb ((List.range kk).flatMap fun k => (List.range n).map fun j => (e.p2 8 + BitVec.ofNat 64 (k * sb), j * fb.width)) s with
    | .error x => .error x
    | .ok (bs, s) =>
      .ok (formContrib c m n (groupOf fa fb) fun i j => (List.range kk).map fun k => (elemAt as kk i k, elemAt bs n k j), s)

/-- The array of MCONT read from a stash (R375). -/
def State.formArray (s : State) (e : EngCmd) (c : Contrib) (m n : Nat) : Except Stop (Contrib × State) :=
  let sz := if c.mode then 24 else 4
  let cells := (List.range m).flatMap fun i => (List.range n).map fun j => i * 32 + j
  match State.fetchRows e.slot e.op.scope sz (cells.map fun i => e.p2 5 + BitVec.ofNat 64 (i * sz)) s with
  | .error x => .error x
  | .ok (xs, s) =>
    .ok ((cells.zip xs).foldl (fun (c : Contrib) p =>
      { c with elems := c.elems.set p.1 (BitVec.ofNat 160 p.2), tags := if c.mode then c.tags.set p.1 (BitVec.ofNat 2 (p.2 / 2 ^ 160)) else c.tags }) c, s)

/-! ### Limits checked at acceptance (R360, R363, R366, R370 to R378) -/

/-- The zero fields and number ranges of a command's lanes. -/
def EngCmd.lanesOk (e : EngCmd) : Bool :=
  let p := e.p
  let interval := zeroAbove (p 3) 21 && zeroAbove (p 4) 21
  if e.fn = fnMopen then
    let x := p 0
    (bits x 3 5 : BitVec 5) == 0 && (bits x 14 2 : BitVec 2) == 0 && (bits x 22 2 : BitVec 2) == 0 && (bits x 29 3 : BitVec 3) == 0 &&
      (bits (p 1) 10 6 : BitVec 6) == 0 && zeroAbove (p 1) 21 && zeroAbove (p 2) 21 && (x.getLsbD 0 || (bits (p 1) 0 10 : BitVec 10) == 0)
  else if e.fn = fnMma ∨ e.fn = fnMcont then interval
  else if e.fn = fnMmas then interval && zeroAbove (p 14) 16 && e.lo % 4 == 0 && e.hi % 4 == 0
  else if e.fn = fnMmaw then
    let b := fun i => (p 10).toNat / 2 ^ (8 * i) % 2 ^ 8
    interval && (List.range 4).all (fun i => b i != 0) && zeroAbove (p 11) 16 && p 11 != 0 && e.hi ≤ b 0 * b 1 * (p 11).toNat
  else if e.fn = fnMrot then
    interval && zeroAbove (p 10) 18 && zeroAbove (p 11) 18 && (p 10).toNat % 8 == 0 && (p 11).toNat % 8 == 0 &&
      (e.p2 5).getLsbD 63 && (e.p2 8).getLsbD 63
  else if e.fn = fnMfwd then interval && (bits (p 10) 10 6 : BitVec 6) == 0 && zeroAbove (p 10) 17
  else if e.fn = fnMread then
    let idx := (bits (p 7) 16 6 : BitVec 6)
    let stride := (p 7).toNat % 2 ^ 16
    let al := if idx = 1 then 4 else if idx = 2 ∨ idx = 3 then 2 else 1
    interval && zeroAbove (p 7) 22 && (e.p2 5).toNat % al == 0 && stride % al == 0
  else if e.fn = fnMqry then interval && (e.p2 5).toNat % 64 == 0
  else if e.fn = fnMflg then interval && (e.p2 5).toNat % 8 == 0 && zeroAbove (p 7) 1
  else true

/-- A 16-bit operand needs an even base and even strides (R366). -/
def EngCmd.aligned (e : EngCmd) (fa fb : Snap) : Bool :=
  let even := fun (f : Snap) (a : Word) (st : Nat) => f.width != 16 || (a.toNat % 2 == 0 && st % 2 == 0)
  even fa (e.p2 5) ((e.p 7).toNat % 2 ^ 16) && even fb (e.p2 8) ((e.p 7).toNat / 2 ^ 16)

/-- Do all fetched bytes of a command's operands lie in the stashes that their local bases lie in (R366, R372, R373)? Which rows MMAS fetches, its bitmap and
metadata say. -/
def State.rowsOk (s : State) (e : EngCmd) (c : Contrib) (m n : Nat) (fa fb : Snap) : Bool :=
  let kk := c.hi - c.lo
  let sa := (e.p 7).toNat % 2 ^ 16
  let sb := (e.p 7).toNat / 2 ^ 16
  let rows := fun (base : Word) (count stride len : Nat) => (List.range count).all fun i => inBaseStash e.slot base (i * stride) len
  let bRow := fun (k : Nat) => inBaseStash e.slot (e.p2 8) (k * sb) ((n * fb.width + 7) / 8)
  if e.fn = fnMmas then
    inBaseStash e.slot (e.p2 10) 0 ((kk / 4 + 7) / 8) &&
      (match s.fetch e.slot e.op.scope (e.p2 10) ((kk / 4 + 7) / 8) with
       | .error _ => true
       | .ok (bm, s) =>
         let live := liveGroups bm (kk / 4)
         let ml := (live.length + 1) / 2
         let sm := (e.p 14).toNat % 2 ^ 16
         rows (e.p2 12) m sm ml && rows (e.p2 5) m sa ((2 * live.length * fa.width + 7) / 8) &&
           (match State.fetchRows e.slot e.op.scope ml ((List.range m).map fun i => e.p2 12 + BitVec.ofNat 64 (i * sm)) s with
            | .error _ => true
            | .ok (ms, _) => (sparseRows live ms m).all bRow))
  else if e.fn = fnMmaw then
    ((List.range m).all fun i => (List.range kk).all fun k =>
      let p := e.windowPlace fa.width i (c.lo + k)
      inBaseStash e.slot (e.p2 5) (p.1 + p.2 / 8) ((p.2 % 8 + fa.width + 7) / 8)) && (List.range kk).all bRow
  else rows (e.p2 5) m sa ((kk * fa.width + 7) / 8) && (List.range kk).all bRow

/-! ### Deciding at the quad's own store, and after it -/

/-- A watch word filled (R224): full/empty at its home, a plain write in host memory. -/
def State.watchFill (s : State) (f : Option (Nat × Word)) : State :=
  match f with
  | none => s
  | some (a, w) => if paPeer a = hostPeer then s.memWrite a 8 w else s.fillWord a w
/-- May a watch word be filled now? -/
def State.watchReady (s : State) (f : Option (Nat × Word)) : Bool :=
  match f with
  | none => true
  | some (a, _) => paPeer a == hostPeer || s.lineFree (a / 256)

/-- A decision reaches its command (R224, R230, R371): the status written, or kept until an MROT's deliveries have performed (R374). -/
def State.decided (s : State) (e : EngCmd) (v : Verdict) (fsf : BitVec 6) : State :=
  s.settleCmd (e.decideAs (statusWord e.lo v) fsf (if v.nan then some (0x08, 0) else none))

/-- CONTRIBUTION_ARRIVAL: the quad's own engine's oldest formed contribution reaches the store and is decided (R219 to R221,
R224). Argument: a the quad. -/
def execContributionArrival (s : State) : Out :=
  let q := s.arg.a
  match (s.quad q).staged with
  | [] => s.idle
  | (k, id) :: rest =>
    match s.engCmd k id with
    | some e => match e.formed with
      | some c =>
        let r := (s.quad q).decide c
        if s.watchReady r.2.fill then
          let s := s.modQuad q fun _ => { r.1 with staged := rest, arrivals := r.1.arrivals + 1 }
          .next ((s.watchFill r.2.fill).decided e r.2 r.2.fsf)
        else s.idle
      | none => .next (s.modQuad q fun x => { x with staged := rest })
    | none => .next (s.modQuad q fun x => { x with staged := rest })

/-! ### Sending a contribution (R376) -/

/-- The byte string of a contribution: 32 bytes of head, the 1,024 elements, then for XACC the tag array (R376; log entry 10). -/
def Contrib.bytes (c : Contrib) (attempt : BitVec 32) : Nat × List (BitVec 8) :=
  let word := fun (v n : Nat) => (List.range n).map fun i => BitVec.ofNat 8 (v / 256 ^ i)
  let head := word c.handle.toNat 8 ++ word c.key.toNat 4 ++ word c.lo 4 ++ word c.hi 4 ++
    word ((if c.mode then 1 else 0) + c.b.toNat * 2 + c.fa.toNat * 2 ^ 11 + c.fb.toNat * 2 ^ 17 + c.kind * 2 ^ 23 + (if c.empty then 2 ^ 25 else 0)) 4 ++ word attempt.toNat 4 ++ word c.clamped 4
  let w := if c.mode then 20 else 4
  let body := (List.range 1024).flatMap fun i => word (c.elems.get 0 i).toNat w
  let tags := if c.mode then (List.range 256).map fun i => c.tags.get 0 (4 * i + 3) ++ c.tags.get 0 (4 * i + 2) ++ c.tags.get 0 (4 * i + 1) ++ c.tags.get 0 (4 * i) else []
  (if c.mode then 82 else 17, head ++ body ++ tags)

/-- Bytes as one payload. -/
def payloadOf (bs : List (BitVec 8)) : BitVec 2048 := (bs.zipIdx).foldl (fun (x : BitVec 2048) (b : BitVec 8 × Nat) => x ||| (b.1.setWidth 2048 <<< (8 * b.2))) 0

/-- The contribution that a byte string carries. -/
def contribOf (bs : List (BitVec 8)) : Contrib :=
  let num := fun (o n : Nat) => (List.range n).foldl (fun x i => x + (bs.getD (o + i) 0).toNat * 256 ^ i) 0
  let f := num 20 4
  let mode : Bool := f % 2 == 1
  let w := if mode then 20 else 4
  { handle := BitVec.ofNat 64 (num 0 8), key := BitVec.ofNat 32 (num 8 4), lo := num 12 4, hi := num 16 4, mode := mode,
    b := BitVec.ofNat 10 (f / 2), fa := BitVec.ofNat 6 (f / 2 ^ 11), fb := BitVec.ofNat 6 (f / 2 ^ 17), kind := f / 2 ^ 23 % 4, empty := f / 2 ^ 25 % 2 == 1, clamped := num 28 4,
    elems := (List.range 1024).map fun i => (i, BitVec.ofNat 160 (num (32 + i * w) w)),
    tags := if mode then (List.range 1024).map fun i => (i, BitVec.ofNat 2 ((bs.getD (32 + 20480 + i / 4) 0).toNat / 4 ^ (i % 4))) else [] }

/-- A whole attempt sent in CONTRIB packets (R376): the packet's index and the attempt stand in `operand`. -/
def State.sendContrib (s : State) (e : EngCmd) (c : Contrib) : State :=
  let q := handleQuad c.handle
  let a := e.attempt + 1
  let (n, bs) := c.bytes a
  let s := (List.range n).foldl (fun s i =>
    let part := (bs.drop (256 * i)).take 256
    s.send { opPacket e.slot (s.slot e.slot).job e.op 0 0x06 (peerOf q) (quadNo q) 8 with
             operand := a ++ BitVec.ofNat 32 i, payload := payloadOf part, plen := BitVec.ofNat 9 part.length, fn := 0 }) s
  s.modCmd e.slot e.op.id fun e => { e with stage := .sent, attempt := a, formed := some c, fsf := c.fsf }

/-! ### Tile commands at a store (R218, R377 to R379) -/

/-- What a store answers to MREAD, MQRY, MFLG, MABN or MCLOSE: a verdict, the rows it gives (bits, value) and the flags of
converting them. -/
structure TileAnswer where
  verdict : Verdict
  mode : Bool := false
  rows : List (Nat × Nat) := []
deriving DecidableEq, Repr

/-- A tile command decided by its store, stages 3 and 4 then R218. `dest` is the destination address, `l7` lane 7. -/
def Quad.tileCommand (q : Quad) (fn : Nat) (h : Word) (key : BitVec 32) (dest : Word) (l7 : BitVec 32) (f : Snap) : Quad × TileAnswer :=
  match q.checked h key false with
  | .error v => (q, { verdict := v })
  | .ok t =>
    let u := handleUnit h
    let ok : Verdict := { outcome := ocAccepted, cnt := t.record.length }
    if fn = fnMread then
      if f.idx = 0 ∧ dest.toNat % (if t.mode then 8 else 4) ≠ 0 then (q, { verdict := { ok with outcome := ocRange } })
      else if t.state = stAbandoned then (q, { verdict := { outcome := ocStale } })
      else if t.state ≠ stComplete then (q, { verdict := { ok with outcome := ocNotReady } })
      else
        let rows := (List.range t.m).map fun i => q.readRow u t f i
        (q, { verdict := { ok with fsf := rows.foldl (fun x r => x ||| r.2.2) 0 }, mode := t.mode, rows := rows.map fun r => (r.1, r.2.1) })
    else if fn = fnMqry then (q, { verdict := ok, rows := [(512, (t.image false).toNat)] })
    else if fn = fnMflg then
      (if l7.getLsbD 0 then q.setTile u { t with satcnt := 0 } else q, { verdict := ok, rows := [(64, t.flagReport.toNat)] })
    else if fn = fnMabn then
      let r := q.abandon u t
      (r.1, { verdict := { ok with fill := r.2 } })
    else
      let r := q.close u t
      (r.1, { verdict := { ok with fill := r.2 } })

/-- The address of row i of a tile command's destination; a raw row lies 32 elements after the one before it (R377). -/
def EngCmd.rowAddr (e : EngCmd) (idx : BitVec 6) (xacc : Bool) (i : Nat) : Word :=
  if e.fn = fnMread then
    e.p2 5 + BitVec.ofNat 64 (i * (if idx = 0 then 32 * (if xacc then 24 else 4) else (e.p 7).toNat % 2 ^ 16))
  else e.p2 5

end Sys2Proof.Machine
end

