-- ==== Sys2Proof/Machine/EngineRun.lean ====
section
/-!
DEFINITION. Machine/EngineRun.lean: the events of the matrix engine: ENGINE_ACCEPT (R361), contributions and tile commands that
come from afar (R369, R376 to R379), and MROT's deliveries (R374). A tile command travels as a packet of type 0x06 with its
function in `fn`; its destination, key, lane 7 and snapshot stand in the payload (log entry 10).
-/
namespace Sys2Proof.Machine

/-- Stages 1 and 2 at the source (R17, R40, R220), for a handle outside or inside the quad. -/
def State.sourceStage (s : State) (e : EngCmd) : Option Verdict :=
  let h := e.p2 0
  let q := handleQuad h
  let peer := peerOf q
  let job := (s.slot e.slot).job
  if (peer ≠ peerOfSlot e.slot ∧ (s.peerRefuses (peerOfSlot e.slot) job peer).isSome) ∨ ¬(s.die peer).quadValid (quadNo q) then some { outcome := ocPeer }
  else if handleJob h ≠ job then some { outcome := ocCapfail }
  else none

/-- The contribution of a command before its elements are formed. -/
def EngCmd.contrib (e : EngCmd) (t : Tile) (fa fb : Snap) : Contrib :=
  { handle := e.p2 0, key := e.p 2, lo := e.lo, hi := e.hi, fa := fa.idx, fb := fb.idx,
    mode := if e.fn = fnMfwd then (e.p 10).getLsbD 16 else t.mode, b := if e.fn = fnMfwd then bits (e.p 10) 0 10 else t.b,
    kind := if e.fn = fnMfwd then 1 else if e.fn = fnMcont then 2 else 0 }

/-- A formed contribution on its way: to the quad's own store in acceptance order, or in packets (R361, R376). -/
def State.ship (s : State) (e : EngCmd) (c : Contrib) : State :=
  if handleQuad c.handle = quadOf (coreOf e.slot) then
    (s.modCmd e.slot e.op.id fun e => { e with stage := .staged, formed := some c, fsf := c.fsf }).modQuad (quadOf (coreOf e.slot)) fun q =>
      { q with staged := q.staged ++ [(e.slot, e.op.id)] }
  else s.sendContrib e c

/-- The snapshots of A and B, taken at the release point or, where that read faulted, now (R208, R220). -/
def State.operandSnaps (s : State) (e : EngCmd) : Except Stop (Snap × Snap × State) :=
  match e.snaps with
  | [a, b] => .ok (a, b, s)
  | _ => match s.fmtAt e.slot (e.p2 5), s.fmtAt e.slot (e.p2 8) with
    -- a local address that the limits refuse comes before a translation fault (R363)
    | .error .range, _ => .error .range
    | _, .error .range => .error .range
    | .error x, _ => .error x
    | _, .error x => .error x
    | .ok a, .ok b =>
      let x := s.snap e.slot a
      let y := x.2.snap e.slot b
      .ok (x.1, y.1, y.2)

/-- A snapshot that cannot be used ends its command with RANGE and the format trap (R202, R365). -/
def State.endFormat (s : State) (e : EngCmd) (f : Snap) (cnt : Nat) : State :=
  s.endCmd e (statusWord (if 1 ≤ e.fn ∧ e.fn ≤ 6 then e.lo else 0) { outcome := ocRange, cnt := cnt }) 0 (some (0x07, fmtDetail f.idx (f.bad.getD 0)))

/-- The two deliveries of an MROT (R374): A to the west, B to the north. -/
def State.rotations (s : State) (e : EngCmd) (m n : Nat) (fa fb : Snap) : Except Stop (List Rot × State) :=
  let c := coreOf e.slot
  let q := quadOf c
  let n' := quadNo q
  let row := n' / 16
  let col := n' % 16
  let core := fun (x : Nat) => (peerOf q * 256 + x) * 4 + c % 4
  let kk := e.hi - e.lo
  let sa := (e.p 7).toNat % 2 ^ 16
  let sb := (e.p 7).toNat / 2 ^ 16
  -- without a reachable table an element has no width, and its rows no bytes (log entry 52)
  let la := if fa.bad = some 2 then 0 else (kk * fa.width + 7) / 8
  let lb := if fb.bad = some 2 then 0 else (n * fb.width + 7) / 8
  match State.fetchRows e.slot e.op.scope la ((List.range m).map fun i => e.p2 5 + BitVec.ofNat 64 (i * sa)) s with
  | .error x => .error x
  | .ok (as, s) => match State.fetchRows e.slot e.op.scope lb ((List.range kk).map fun k => e.p2 8 + BitVec.ofNat 64 (k * sb)) s with
    | .error x => .error x
    | .ok (bs, s) =>
      .ok ([{ slot := e.slot, opId := e.op.id, core := core (row * 16 + (col + 15) % 16), off := (e.p 10).toNat,
              rows := (as.zipIdx).map fun v => ((e.p 10).toNat + v.2 * sa, la, v.1) },
            { slot := e.slot, opId := e.op.id, core := core ((row + 15) % 16 * 16 + col), off := (e.p 11).toNat,
              rows := (bs.zipIdx).map fun v => ((e.p 11).toNat + v.2 * sb, lb, v.1) }], s)

/-- Do both deliveries of an MROT keep to their stashes? -/
def rotsFit (rs : List Rot) : Bool := rs.all fun r => r.off + 8 ≤ 0x4_0000 && r.rows.all fun x => x.1 + x.2.1 ≤ 0x4_0000

/-- The descriptor that gives a remote contribution its mode and extents: that of the unit its handle names, and whether it is the tile named (R366, R375; log
entry 18). -/
def State.namedTile (s : State) (e : EngCmd) : Tile × Bool :=
  let x := s.quad (handleQuad (e.p2 0))
  (x.tile (handleUnit (e.p2 0)), (x.stage3 (e.p2 0) false).isSome)

/-- An MROT's operands sent on, and what follows (R374): the command waits for both deliveries, and for its status until they are home. -/
def State.rotate (s : State) (e : EngCmd) (m n cnt : Nat) (fa fb : Snap) (go : State → EngCmd → State) : State :=
  match s.rotations e m n fa fb with
  | .error x => s.engStop e cnt x
  | .ok (rs, s) =>
    if !rotsFit rs then s.endWith e ocRange cnt
    else
      let e := { e with deliveries := 2, dests := rs.flatMap fun r => (r.core, r.off, 8) :: r.rows.map fun x => (r.core, x.1, x.2.1) }
      go ((s.modCmd e.slot e.op.id fun _ => e).modQuad (quadOf (coreOf e.slot)) fun q => { q with rots := q.rots ++ rs }) e

/-- A contribution command ends without reaching the store: an MROT sends its operands all the same (R374). -/
def State.refuseContrib (s : State) (e : EngCmd) (v : Verdict) (tr : Option (BitVec 8 × Word)) (m n : Nat) (fa fb : Snap) : State :=
  let st := statusWord e.lo v
  if e.fn = fnMrot then s.rotate e m n v.cnt fa fb fun s e => s.settleCmd (e.decideAs st 0 tr)
  else s.endCmd e st 0 tr

/-- A contribution is formed and shipped, or stops (R222, R364, R371 to R376); where the tile that the handle names is not there, what is shipped cannot be
added (log entry 18). -/
def State.formAndShip (s : State) (e : EngCmd) (t : Tile) (named : Bool) : State :=
  let cnt := t.record.length
  if e.fn = fnMcont then
    let c : Contrib := { e.contrib t { idx := 0 } { idx := 0 } with empty := !named }
    let sz := if t.mode then 24 else 4
    if !(e.p2 5).getLsbD 63 || (e.p2 5).toNat % (if t.mode then 8 else 4) ≠ 0 ||
        !((List.range t.m).all fun i => inBaseStash e.slot (e.p2 5) (i * 32 * sz) (t.n * sz)) then s.endWith e ocRange cnt
    else match s.formArray e c t.m t.n with
      | .error x => s.engStop e cnt x
      | .ok (c, s) => s.ship e c
  else match s.operandSnaps e with
    | .error x => s.engStop e cnt x
    | .ok (fa, fb, s) =>
      let e := { e with snaps := [fa, fb] }
      let s := s.modCmd e.slot e.op.id fun _ => e
      let c : Contrib := { e.contrib t fa fb with empty := !named }
      let differ : Bool := e.fn ≠ fnMfwd && (fa.idx != t.fa || fb.idx != t.fb)
      let limits := e.aligned fa fb && s.rowsOk e c t.m t.n fa fb
      let refuse := fun (s : State) (detail : Word) => s.refuseContrib e { outcome := ocRange, cnt := cnt } (some (0x07, detail)) t.m t.n fa fb
      if !limits && (!differ || e.fn = fnMrot) then s.endWith e ocRange cnt
      else if fa.bad.isSome && !differ then refuse s (fmtDetail fa.idx (fa.bad.getD 0))
      else if fb.bad.isSome && !differ then refuse s (fmtDetail fb.idx (fb.bad.getD 0))
      else
        let deliver := fun (s : State) (e : EngCmd) (c : Contrib) =>
          if e.fn = fnMrot then s.rotate e t.m t.n cnt fa fb fun s e => s.ship e c
          else s.ship e c
        if differ then deliver s e { c with empty := true }
        else
          let r := if e.fn = fnMmas then s.formSparse e c t.m t.n fa fb
            else if e.fn = fnMmaw then s.formWindow e c t.m t.n fa fb
            else s.formPlain e c t.m t.n fa fb
          match r with
          | .error (.reserved idx) => refuse s (fmtDetail idx 1)
          | .error x => s.engStop e cnt x
          | .ok (c, s) => deliver s e c

/-- An outcome of stages 1 to 4, or of a handle elsewhere (R220, R222, R369). An MROT sends its operands all the same, with the extents of the unit that its handle
names (R374; log entry 52). -/
def State.refuseEarly (s : State) (e : EngCmd) (v : Verdict) : State :=
  if e.fn ≠ fnMrot then s.endWith e v.outcome v.cnt
  else
    let t := (s.namedTile e).1
    match s.operandSnaps e with
    | .error x => s.engStop e v.cnt x
    | .ok (fa, fb, s) =>
      let e := { e with snaps := [fa, fb] }
      if !(e.aligned fa fb && s.rowsOk e (e.contrib t fa fb) t.m t.n fa fb) then s.endWith e ocRange v.cnt
      else (s.modCmd e.slot e.op.id fun _ => e).refuseContrib e v none t.m t.n fa fb

/-- A contribution command accepted: limits, STALE outside the quad, stages 1 to 4, then forming (R363, R369, R220, R222). -/
def State.runContrib (s : State) (e : EngCmd) : State :=
  let q := handleQuad (e.p2 0)
  let here := quadOf (coreOf e.slot)
  if !e.lanesOk then s.endWith e ocRange 0
  else if e.fn ≠ fnMcont ∧ e.fn ≠ fnMfwd ∧ q ≠ here then s.refuseEarly e { outcome := ocStale }
  else match s.sourceStage e with
    | some v => s.refuseEarly e v
    | none =>
      if q = here then
        match (s.quad q).checked (e.p2 0) (e.p 2) true with
        | .error v => s.refuseEarly e v
        | .ok t => s.formAndShip e t true
      else s.formAndShip e (s.namedTile e).1 (s.namedTile e).2

/-- Is a unit named by the save area of another job that waits to come in (R108)? -/
def State.unitNamed (s : State) (q : Nat) (job : BitVec 12) (u : Nat) : Bool :=
  (s.pkg (peerOf q / 4)).gangs.any fun g =>
    g.1 != job.toNat && g.2.order == .restore && g.2.phase == .out && ((g.2.quads.get {} q).tile u).state != stClosed

/-- MOPEN (R214, R216, R370). -/
def State.runMopen (s : State) (e : EngCmd) : State :=
  let q := quadOf (coreOf e.slot)
  let job := (s.slot e.slot).job
  let x := e.p 0
  let xacc := x.getLsbD 0
  let fa : BitVec 6 := bits x 8 6
  let fb : BitVec 6 := bits x 16 6
  let kt := (e.p 2).toNat
  let watch := e.p2 4
  let legal := fun (f : BitVec 6) => f = 2 || 4 ≤ f.toNat || (!xacc && f = 3)
  if !e.lanesOk || kt = 0 || 2 ^ 20 < kt || !legal fa || !legal fb || (watch != 0 && (watch.getLsbD 63 || watch.toNat % 8 ≠ 0)) then
    s.endCmd e (statusWord 0 { outcome := ocRange }) 0 none
  else match (s.quad q).allocate (s.unitNamed q job) xacc with
    | none => s.endCmd e (statusWord 0 { outcome := ocNoSlot }) 0 none
    | some u =>
      match (if watch = 0 then Except.ok (0 : Nat) else (s.translateNow (coreOf e.slot) job watch true).map fun l => l.pa watch) with
      | .error _ => s.engFault e watch
      | .ok pa =>
        let g := nextGen ((s.quad q).tile u).gen
        let t : Tile := { state := stOpen, mode := xacc, nant := x.getLsbD 1, sat := x.getLsbD 2, m1 := bits x 24 5, n1 := bits (e.p 1) 16 5, gen := g, job := job,
                          key := e.p 3, kt := BitVec.ofNat 21 kt, b := bits (e.p 1) 0 10, fa := fa, fb := fb, watch := BitVec.ofNat 57 pa }
        (s.modQuad q fun x => { x.openTile u t with arrivals := x.arrivals + 1 }).endCmd e (handleOf job q u g) 0 none

/-- Where the rows of a tile command's answer go: address, bits, value (R377, R378). -/
def EngCmd.placed (e : EngCmd) (idx : BitVec 6) (xacc : Bool) (rows : List (Nat × Nat)) : List (Word × Nat × Nat) :=
  mergeRows ((rows.zipIdx).map fun r => (e.rowAddr idx xacc r.2, r.1.1, r.1.2))

/-- The bytes that placed rows cover. -/
def rowBytes (rows : List (Word × Nat × Nat)) : List (Word × Nat) := rows.map fun r => (r.1, (r.2.1 + 7) / 8)

/-- The bytes of a command's destination keep to one stash where it is local (R366, R377, R378). -/
def EngCmd.destOk (e : EngCmd) (idx : BitVec 6) (t : Tile) (f : Snap) : Bool :=
  if e.fn = fnMread then
    let w := if idx = 0 then (if t.mode then 192 else 32) else f.width
    (List.range t.m).all fun i => inBaseStash e.slot (e.p2 5) ((e.rowAddr idx t.mode i - e.p2 5).toNat) ((t.n * w + 7) / 8)
  else if e.fn = fnMqry then inBaseStash e.slot (e.p2 5) 0 64
  else if e.fn = fnMflg then inBaseStash e.slot (e.p2 5) 0 8
  else true

/-- A byte of the destination of MREAD, MQRY or MFLG whose translation faults now (R364), the rows as the named tile has them. -/
def State.destFault (s : State) (e : EngCmd) (idx : BitVec 6) (t : Tile) (f : Snap) : Option Word :=
  let w := if idx = 0 then (if t.mode then 192 else 32) else f.width
  let rows : List (Word × Nat) :=
    if e.fn = fnMread then (List.range t.m).map fun i => (e.rowAddr idx t.mode i, (t.n * w + 7) / 8)
    else if e.fn = fnMqry then [(e.p2 5, 64)]
    else if e.fn = fnMflg then [(e.p2 5, 8)]
    else []
  (rows.flatMap fun r => [r.1, r.1 + BitVec.ofNat 64 (r.2 - 1)]).find? fun va => match s.engPlace e.slot va 1 true with
    | .error (.fault _ _) => true
    | _ => false

/-- What a store has answered to a tile command is written at its destination, and the command ends; where it cannot be now, the answer is kept for the next try
(R364, R377, R378). -/
def State.writeAnswer (s : State) (e : EngCmd) (a : EngAnswer) : State :=
  let rows := e.placed (bits (e.p 7) 16 6) a.mode a.rows
  match State.storeRows e.slot rows s with
  | .ok s => s.endWritten e a.status a.fsf (rowBytes rows)
  | .error .busy => s.modCmd e.slot e.op.id fun _ => { e with stage := .rerun, answer := some a, got := [] }
  | .error x => s.engStop { e with answer := some a, got := [] } 0 x

/-- MREAD, MQRY, MFLG, MABN and MCLOSE accepted (R363, R369, R377 to R379): decided at the quad's own store, or asked of a remote one. -/
def State.runTile (s : State) (e : EngCmd) : State :=
  let h := e.p2 0
  let q := handleQuad h
  let here := quadOf (coreOf e.slot)
  let idx : BitVec 6 := bits (e.p 7) 16 6
  let t := ((s.quad q).stage3 h false).getD {}
  let f : Snap := match e.snaps with
    | [f] => f
    | _ => { idx := idx }
  if let some a := e.answer then s.writeAnswer e a
  else if !e.lanesOk || !e.destOk idx t f then s.endWith e ocRange 0
  else match s.sourceStage e with
    | some v => s.endWith e v.outcome 0
    | none =>
      if e.fn = fnMread ∧ f.bad.isSome then s.endFormat e f 0
      else if q = here then
        let r := (s.quad q).tileCommand e.fn h (e.p 2) (e.p2 5) (e.p 7) f
        if s.watchReady r.2.verdict.fill then
          let rows := e.placed idx r.2.mode r.2.rows
          match State.storeRows e.slot rows s with
          | .error x => s.engStop e r.2.verdict.cnt x
          | .ok s =>
            ((s.modQuad q fun x => { r.1 with arrivals := x.arrivals + 1, lines := x.lines, notices := x.notices }).watchFill r.2.verdict.fill).endWritten e
              (statusWord 0 r.2.verdict) r.2.verdict.fsf (rowBytes rows)
        else s
      else if let some va := s.destFault e idx t f then s.engFault e va
      else
        let pl : BitVec 2048 := h.setWidth 2048 ||| ((e.p 2).setWidth 2048 <<< 64) ||| ((e.p 7).setWidth 2048 <<< 96) ||| ((e.p2 5).setWidth 2048 <<< 128) ||| (f.desc.setWidth 2048 <<< 192)
        (s.modCmd e.slot e.op.id fun e => { e with stage := .asked, attempt := e.attempt + 1, got := [] }).send
          { opPacket e.slot (s.slot e.slot).job e.op 0 0x06 (peerOf q) (quadNo q) 8 with
            operand := (e.attempt + 1) ++ (0 : BitVec 32), payload := pl, plen := 32, fn := BitVec.ofNat 4 e.fn }

/-- A command's job may go on on this package (R98). -/
def State.serves (s : State) (e : EngCmd) : Bool :=
  !(s.gang (peerOfSlot e.slot / 4) (s.slot e.slot).job).phase.bars

/-- The head of a core's queue that the engine may accept (R361, R364): the first command not yet accepted, where it is released. While a pre-emption of the core
waits, only a command in progress goes on (R91). -/
def State.readyHead (s : State) (c : Nat) : Option EngCmd :=
  Option.filter (fun (e : EngCmd) => !(s.core c).halting || e.stage == .rerun) (match (s.quad (quadOf c)).replay with
   | some r => if coreOf r.slot = c then (if r.stage = .rerun ∧ s.serves r then some r else none) else head
   | none => head)
where
  head : Option EngCmd :=
    match (s.core c).crew.matrix.find? fun e => e.stage == .queued || e.stage == .rerun || e.stage == .busy || e.stage == .blocked with
    | some e => if e.stage ≠ .busy ∧ (e.stage ≠ .blocked ∨ (s.quad (quadOf c)).replay = none) ∧ e.op.phase ≠ .held ∧ s.serves e then some e else none
    | none => none

/-- The head accepted next, in the rotation of R361. -/
def State.nextHead (s : State) (q : Nat) : Option EngCmd :=
  ([1, 2, 3, 4].map fun i => q * 4 + ((s.quad q).lastCore.toNat + i) % 4).findSome? s.readyHead

/-- A command of a quad, in a queue or the replay slot, whose deliveries and writes have performed since it was decided (R362, R374). -/
def State.finishedCmd (s : State) (q : Nat) : Option EngCmd :=
  (((List.range 4).flatMap fun i => (s.core (q * 4 + i)).crew.matrix) ++ (s.quad q).replay.toList).find? fun e => s.cmdOver e && s.serves e

/-- ENGINE_ACCEPT: a command whose writes have come home ends (R362); else the engine accepts the first ready head after the core it accepted from last and runs it (R361). Two
contributions may be staged (R371); a command that meets the store at once waits for them. Argument: a the quad. -/
def execEngineAccept (s : State) : Out :=
  let q := s.arg.a
  match s.finishedCmd q, s.nextHead q with
  | some e, _ => .next (s.finishCmd e)
  | none, none => s.idle
  | none, some e =>
    let contribution : Bool := 1 ≤ e.fn && e.fn ≤ 6
    if (contribution ∧ 2 ≤ (s.quad q).staged.length) ∨ (¬contribution ∧ (s.quad q).staged ≠ []) then s.idle
    else
      let s := s.modQuad q fun x => { x with lastCore := BitVec.ofNat 2 (coreOf e.slot) }
      if e.fn = fnMopen then .next (s.runMopen e)
      else if contribution then .next (s.runContrib e)
      else .next (s.runTile e)

/-! ### MROT's deliveries (R374) -/

/-- One row of a delivery written, word by word where words are poisoned: a part of a poisoned word is not performed (R446). The flag says that one was met. -/
def State.rotRow (s : State) (key c off n v : Nat) : State × Bool :=
  if n = 0 then (s, false)
  else
    let s := s.stashTouch c off n
    if !s.stashPoisoned c off n then (s.stashStoreBy key c off n (BitVec.ofNat (8 * n) v), false)
    else (List.range ((off % 8 + n + 7) / 8)).foldl (fun r i =>
      let a := max off (off / 8 * 8 + 8 * i)
      let m := min (off + n) (off / 8 * 8 + 8 * i + 8) - a
      if m < 8 ∧ r.1.stashPoisoned c a m then (r.1, true)
      else (r.1.stashStoreBy key c a m (BitVec.ofNat (8 * m) (v / 2 ^ (8 * (a - off)))), r.2)) (s, false)

/-- MROT_DELIVERY: a delivery whose receive word is empty writes its rows in the target stash and sets the word full last; the
command's status follows its decision and both deliveries. Arguments: a the sending quad, b the delivery's place. -/
def execMrotDelivery (s : State) : Out :=
  let q := s.arg.a
  match (s.quad q).rots[s.arg.b]? with
  | none => s.idle
  | some r =>
    if s.stashFull r.core r.off ∨ (s.gang (peerOf q / 4) (s.slot r.slot).job).phase.bars then s.idle
    else
      let s := s.modQuad q fun x => { x with rots := dropAt x.rots s.arg.b }
      let key := (s.slot r.slot).par.key
      let w := r.rows.foldl (fun (w : State × Bool) x => let y := w.1.rotRow key r.core x.1 x.2.1 x.2.2; (y.1, w.2 || y.2)) (s, false)
      let s := (((w.1.stashTouch r.core r.off 8).noteWriter key r.core r.off 8).stashDirty r.core r.off 8).setStashFull r.core (r.off / 8 * 8) true
      let s := s.stashRetry r.core r.off
      match s.engCmd r.slot r.opId with
      | none => .next s
      | some e => .next (s.settleCmd { e with deliveries := e.deliveries - 1, refused := e.refused || w.2 })

/-! ### At a store, from afar (R376, R377) -/

/-- The decision of a remote contribution or tile command in an ACK, 16 bytes of payload: flags, the NaN trap, the tile's mode, how many packets and rows were
sent, the attempt, and the bits of a row (log entry 10). -/
def Pkt.decision (k : Pkt) (lo : Nat) (a : TileAnswer) (packets : Nat) : Pkt :=
  let dw : BitVec 128 := BitVec.ofNat 64 (a.rows.headD (0, 0)).1 ++ (bits k.operand 32 32 : BitVec 32) ++ (0 : BitVec 8) ++ BitVec.ofNat 8 a.rows.length ++
    BitVec.ofNat 8 packets ++ b1 a.mode ++ b1 a.verdict.nan ++ a.verdict.fsf
  { k.ack false with operand := statusWord lo a.verdict, off := k.off, payload := dw.setWidth 2048, plen := 16, fn := 1 }

/-- The NACK of an attempt, its number in the payload (R376; log entry 10). -/
def Pkt.nackAttempt (k : Pkt) (reason : BitVec 4) : Pkt :=
  { k.nack reason with payload := (bits k.operand 32 32 : BitVec 32).setWidth 2048, plen := 4 }

/-- CONTRIB: a packet of a contribution reaches its store (R376): assembled in one of four buffers, dropped without one, and with its last
packet the contribution arrives and is decided. Argument: a the packet's place. -/
def execContrib (s : State) : Out :=
  match s.arrived s.arg.a 0x06 with
  | none => s.idle
  | some (pkt, peer) =>
    if pkt.fn ≠ 0 then s.idle
    else
      let q := quadKey peer (pkt.off.toNat % 256)
      let i := (bits pkt.operand 0 32 : BitVec 32).toNat
      let a : BitVec 32 := bits pkt.operand 32 32
      let s' := s.dropFlight s.arg.a
      if !s.admitted peer pkt.job then .next (s'.send (pkt.nackAttempt nackPartition))
      else
        let bufs := (s.quad q).buffers
        let same := fun (b : Buffer) => b.src == pkt.src && b.req == pkt.req && b.tag == pkt.tag && b.attempt == a
        if i = 0 then
          if 4 ≤ bufs.length then .next (s'.send (pkt.nackAttempt nackBusy))
          else
            let total := if (bits pkt.payload 160 1 : BitVec 1) = 1 then 82 else 17
            .next (s'.modQuad q fun x => { x with buffers := x.buffers ++ [{ src := pkt.src, req := pkt.req, tag := pkt.tag, job := pkt.job, attempt := a, total := total, data := [pkt.payload] }] })
        else match bufs.find? same with
          | none => .next s'
          | some b =>
            if b.data.length ≠ i then .next s'
            else if i + 1 < b.total then
              .next (s'.modQuad q fun x => { x with buffers := x.buffers.map fun b => if same b then { b with data := b.data ++ [pkt.payload] } else b })
            else
              let bytes := (b.data ++ [pkt.payload]).flatMap fun d => (List.range 256).map fun j => (bits d (8 * j) 8 : BitVec 8)
              let c := contribOf bytes
              let r := (s.quad q).decide c
              if s.watchReady r.2.fill then
                let s' := s'.modQuad q fun _ => { r.1 with buffers := r.1.buffers.filter fun b => !same b, arrivals := r.1.arrivals + 1 }
                .next ((s'.watchFill r.2.fill).send (pkt.decision c.lo { verdict := r.2 } 0))
              else s.idle

/-- TILE_COMMAND_ARRIVAL: MREAD, MQRY, MFLG, MABN or MCLOSE of another quad reaches the store (R369, R377 to R379): what it reads goes back in RESP
packets, the decision in an ACK. Argument: a the packet's place. -/
def execTileCommandArrival (s : State) : Out :=
  match s.arrived s.arg.a 0x06 with
  | none => s.idle
  | some (pkt, peer) =>
    if pkt.fn = 0 then s.idle
    else
      let q := quadKey peer (pkt.off.toNat % 256)
      let s' := s.dropFlight s.arg.a
      let a : BitVec 32 := bits pkt.operand 32 32
      if !s.admitted peer pkt.job then .next (s'.send (pkt.nackAttempt nackPartition))
      else
        let l7 : BitVec 32 := bits pkt.payload 96 32
        let idx : BitVec 6 := bits l7 16 6
        let r := (s.quad q).tileCommand pkt.fn.toNat (bits pkt.payload 0 64) (bits pkt.payload 64 32) (bits pkt.payload 128 64) l7 { idx := idx, desc := bits pkt.payload 192 64 }
        if !s.watchReady r.2.verdict.fill then s.idle
        else
          let s' := (s'.modQuad q fun _ => { r.1 with arrivals := r.1.arrivals + 1 }).watchFill r.2.verdict.fill
          let rows := r.2.rows.flatMap fun x => (List.range ((x.1 + 7) / 8)).map fun i => BitVec.ofNat 8 (x.2 / 256 ^ i)
          let n := (rows.length + 255) / 256
          let s' := (List.range n).foldl (fun s i =>
            s.send { pkt.resp 256 (payloadOf ((rows.drop (256 * i)).take 256)) false with
                     operand := a ++ BitVec.ofNat 32 i, fn := 1, off := pkt.off }) s'
          .next (s'.send (pkt.decision 0 r.2 n))

end Sys2Proof.Machine
end

