-- ==== Sys2Proof/Machine/Copy.lean ====
section
/-!
DEFINITION. Machine/Copy.lean: the copy engine (R175 to R179, R192, R193, R380 to R385). A copy moves the destination bytes of one memory word at a time:
through the quad cache in one step (log entry 11), or to a home beyond the die in a COPYW packet (R34, R42).
-/
namespace Sys2Proof.Machine

/-- A command's parameter lanes (R382, R383). -/
def Op.lane (o : Op) (i : Nat) : BitVec 32 := Machine.lane o.vec i
def Op.lane2 (o : Op) (i : Nat) : Word := o.lane (i + 1) ++ o.lane i
/-- The function of a copy command: 0 CPY, 1 CPY2, 2 CPYF, 3 CPYK. -/
def Op.copyFn (o : Op) : Nat := match o.kind with
  | .copy f => f
  | _ => 0
/-- The channel that a command names. -/
def Op.chan (o : Op) : Nat := (o.lane 6).toNat % 4
/-- The bytes of an element: 1 but for CPY2. -/
def Op.elem (o : Op) : Nat := if o.copyFn = 1 then 2 ^ ((o.lane 6).toNat / 4 % 4) else 1

/-- A copy's status word (R381). -/
def copyStatus (bytes ch outcome : Nat) : Word :=
  BitVec.ofNat 40 bytes ++ (0 : BitVec 14) ++ BitVec.ofNat 2 ch ++ (0 : BitVec 4) ++ BitVec.ofNat 4 outcome

def State.channel (s : State) (c ch : Nat) : Channel := (s.core c).crew.channels.get {} ch
def State.modChannel (s : State) (c ch : Nat) (f : Channel → Channel) : State :=
  s.modCrew c fun x => { x with channels := x.channels.set ch (f (x.channels.get {} ch)) }

/-! ### Where the bytes lie (R177, R178, R383) -/

/-- The geometry of a base address's page; stash is linear (R178, R383). -/
def State.geoAt (s : State) (k : Nat) (a : Word) : Except Stop (BitVec 2) :=
  if a.getLsbD 63 then .ok 0
  else match s.translateNow (coreOf k) (s.slot k).job a false with
    | .ok l => .ok l.geo
    | .error e => if (s.boundAt (coreOf k) a).isSome then .ok 0 else .error (.fault a e)

/-- The side of a blocked page's square (R178). -/
def geoSide (g : BitVec 2) : Nat := if g = 1 then 32 else 16

/-- The address of element (i, j) (R178), the quotients rounded toward −∞ (R383). -/
def geoAddr (g : BitVec 2) (base : Word) (stride e : Nat) (i j : Int) : Word :=
  if g = 0 then base + BitVec.ofInt 64 (i * stride + j * e)
  else
    let t : Int := geoSide g
    let w : Int := stride / e
    base + BitVec.ofInt 64 (((i / t) * (w / t) + j / t) * t * t * e + ((i % t) * t + j % t) * e)

/-- The conditions of R178 on a blocked page. -/
def geoOk (g : BitVec 2) (base : Word) (stride e : Nat) : Bool :=
  g == 0 || (stride / e % geoSide g == 0 && base.toNat % (geoSide g * geoSide g * e) == 0)

/-- Does a local range of n bytes keep to one stash of the quad (R384)? A global one does. -/
def localSpanOk (k : Nat) (a : Word) (n : Nat) : Bool :=
  !a.getLsbD 63 || n == 0 ||
    (match localPlace (coreOf k) a with
     | .stash _ off => off + n ≤ 0x4_0000
     | _ => false)

/-- What a copy moves: how many destination bytes, and where byte n comes from and goes to (R176, R177). -/
structure CopyPlan where
  total : Nat
  src : Nat → Word
  dst : Nat → Word

/-- The plan of a command, or the limit it breaks (R384). -/
def State.copyPlan (s : State) (k : Nat) (o : Op) : Except Stop CopyPlan :=
  let src := o.lane2 0
  let dst := o.lane2 2
  if o.copyFn ≠ 1 then
    let n := (o.lane 4).toNat + (o.lane 5).toNat * 2 ^ 32
    if !zeroAbove (o.lane 5) 8 || !zeroAbove (o.lane 6) 2 || !localSpanOk k dst n || (o.copyFn == 0 && !localSpanOk k src n) then .error .range
    else .ok { total := n, src := fun i => src + BitVec.ofNat 64 i, dst := fun i => dst + BitVec.ofNat 64 i }
  else
    let e := o.elem
    let rows := (o.lane 4).toNat % 2 ^ 16
    let cols := (o.lane 4).toNat / 2 ^ 16
    let st := (o.lane 5).toNat
    let dt := (o.lane 10).toNat
    let h := fun i => (o.lane 9).toNat / 2 ^ (8 * i) % 2 ^ 8
    if !zeroAbove (o.lane 6) 4 then .error .range
    else if rows = 0 ∨ cols = 0 then .ok { total := 0, src := fun _ => 0, dst := fun _ => 0 }
    else
      let r := rows + h 0 + h 1
      let w := cols + h 2 + h 3
      let first := src - BitVec.ofNat 64 (h 0 * st + h 2 * e)
      if st % e ≠ 0 ∨ dt % e ≠ 0 ∨ src.toNat % e ≠ 0 ∨ dst.toNat % e ≠ 0 then .error .range
      else if !localSpanOk k dst ((r - 1) * dt + w * e) || (src.getLsbD 63 && !(first.getLsbD 63 && localSpanOk k first ((r - 1) * st + w * e))) then .error .range
      else match s.geoAt k src, s.geoAt k dst with
        | .error x, _ => .error x
        | _, .error x => .error x
        | .ok gs, .ok gd =>
          if !geoOk gs src st e || !geoOk gd dst dt e then .error .range
          else
            .ok { total := r * w * e,
                  src := fun n => geoAddr gs src st e ((n / e / w : Nat) - (h 0 : Int)) ((n / e % w : Nat) - (h 2 : Int)) + BitVec.ofNat 64 (n % e),
                  dst := fun n => geoAddr gd dst dt e (n / e / w : Nat) (n / e % w : Nat) + BitVec.ofNat 64 (n % e) }

/-! ### Moving (R176, R179, R384, R446) -/

/-- How many bytes from byte p on lie together in one word of the destination and are moved as one piece, so that a word is written whole where the copy
covers it (R446). -/
def CopyPlan.pieceLen (pl : CopyPlan) (p : Nat) : Nat :=
  let d := pl.dst p
  let room := min (8 - d.toNat % 8) (pl.total - p)
  (firstFrom 8 1 fun i => i ≥ room || pl.dst (p + i) != d + BitVec.ofNat 64 i).getD room

/-- By how much a CPY's destination follows its source, where the piece at byte p overlaps it. -/
def State.pieceGap (s : State) (k : Nat) (o : Op) (pl : CopyPlan) (p : Nat) : Nat :=
  if o.copyFn = 0 then s.canon k (pl.dst p) - s.canon k (pl.src p) else 0

/-- Bytes p to p + n − 1 read from the source as far as they can be: how many, and their value. A byte that the piece itself writes before it is read is
taken from the piece: overlapping ranges get the result of ascending order (R383). -/
def State.pieceRead (k : Nat) (o : Op) (pl : CopyPlan) (p : Nat) : Nat → State → Nat × Nat × Option Stop × State
  | 0, s => (0, 0, none, s)
  | n + 1, s =>
    let r := State.pieceRead k o pl p n s
    match r.2.2.1 with
    | some _ => r
    | none =>
      if o.copyFn = 2 then
        (n + 1, r.2.1 + (bits (o.lane2 0) (8 * ((pl.dst (p + n)).toNat % 8)) 8 : BitVec 8).toNat * 2 ^ (8 * n), none, r.2.2.2)
      else
        let gap := s.pieceGap k o pl p
        if 0 < gap ∧ gap ≤ n then (n + 1, r.2.1 + r.2.1 / 2 ^ (8 * (n - gap)) % 2 ^ 8 * 2 ^ (8 * n), none, r.2.2.2)
        else match r.2.2.2.fetchChunk k o.scope (pl.src (p + n)) 1 with
          | .error x => (n, r.2.1, some x, r.2.2.2)
          | .ok (b, s) => (n + 1, r.2.1 + b * 2 ^ (8 * n), none, s)

/-- A piece sent to a home beyond the die as a COPYW packet (R34, R42). The quad's bound copies of the line go home first; a clean copy is written too and
stays clean (R171, R175). -/
def State.sendPiece (s : State) (k : Nat) (o : Op) (pa m : Nat) (nc : Bool) (v : Nat) : State :=
  let q := quadOf (coreOf k)
  let l := pa / 256
  let s := if nc then s else s.pullLine q l false
  let s := match s.line q l with
    | some y => if nc then s else s.setLine q l (y.put (pa % 256) m (BitVec.ofNat 64 v))
    | none => s
  (s.fillsPass q (· == l)).send { opPacket k (s.slot k).job o 0 0x05 (paPeer pa) (paOff pa) (Nat.log2 m) with payload := BitVec.ofNat 2048 v, plen := BitVec.ofNat 9 m }

/-- One piece moved from byte p on: how many bytes, the address at a home beyond the die that they are on their way to, or why none could be moved. A piece whose
source is busy is tried again whole, so that a word that the copy covers is written whole (R446). -/
def State.movePiece (s : State) (k : Nat) (o : Op) (pl : CopyPlan) (p : Nat) : Except Stop (Nat × Option Nat × State) :=
  let r := State.pieceRead k o pl p (pl.pieceLen p) s
  let m := r.1 - r.1 % o.elem
  let v := r.2.1 % 2 ^ (8 * m)
  if m = 0 ∨ r.2.2.1 = some .busy then .error (r.2.2.1.getD .busy)
  else
    let here := fun (s : State) => (s.storeBits k (pl.dst p) (8 * m) v).map fun s => (m, none, s)
    match r.2.2.2.engPlace k (pl.dst p) m true with
    | .error x => .error x
    | .ok (.stash _ _) => here r.2.2.2
    | .ok (.home pa nc) => if paPeer pa = peerOfSlot k then here r.2.2.2 else .ok (m, some pa, r.2.2.2.sendPiece k o pa m nc v)

/-- Up to n pieces moved from byte p on (R176): where the delivered bytes end now, how many bytes are on their way and to which address, and a stop met. -/
def State.movePieces (k : Nat) (o : Op) (pl : CopyPlan) : Nat → Nat → State → Nat × (Nat × Nat) × Option Stop × State
  | 0, p, s => (p, (0, 0), none, s)
  | n + 1, p, s =>
    if pl.total ≤ p then (p, (0, 0), none, s)
    else match s.movePiece k o pl p with
      | .error x => (p, (0, 0), some x, s)
      | .ok (m, some pa, s) => (p, (m, pa), none, s)
      | .ok (m, none, s) => State.movePieces k o pl n (p + m) s

/-! ### Commands (R193, R380, R382, R385) -/

/-- Is it the command of a thread's operation? -/
def CopyCmd.is (c : CopyCmd) (k id : Nat) : Bool := c.slot == k && c.op.id == id

/-- A command of a channel changed. -/
def State.modCopy (s : State) (c ch : Nat) (k id : Nat) (f : CopyCmd → CopyCmd) : State :=
  s.modChannel c ch fun x => { x with queue := x.queue.map fun y => if y.is k id then f y else y }

/-- The MBXWI of the issuing core that a token names and that still waits for adoption (R193). -/
def State.tokenOwner (s : State) (c : Nat) (w : Word) : Option (Nat × Nat) :=
  let k := c * 8 + (bits w 48 3 : BitVec 3).toNat
  if w.getLsbD 63 && (s.slot k).job == bits w 51 12 then
    ((s.slot k).ops.find? fun o =>
      (match o.kind with | .mbxwi _ => true | _ => false) && o.phase == .waiting && o.stream == bits w 46 2 && o.seq == bits w 16 16).map fun o => (k, o.id)
  else none

/-- A requester's MBXWI performs: its frontier passes it (R193, R382). -/
def State.passToken (s : State) (a : Option (Nat × Nat)) : State :=
  match a with
  | none => s
  | some (k, id) => match (s.slot k).op id with
    | some o => s.performedNone k o
    | none => s

/-- A command ends with an outcome: its status is written and its requester's frontier passes (R381, R382). -/
def State.endCopy (s : State) (c ch : Nat) (x : CopyCmd) (outcome : Nat) : State :=
  ((s.modChannel c ch fun y => { y with queue := y.queue.filter fun z => !z.is x.slot x.op.id }).performed x.slot x.op
    { value := (copyStatus x.bytes ch outcome).setWidth 512 }).passToken x.adopted

/-- Have the bytes of a command performed at its scope and its token's (R189, R382)? Those sent to a home beyond the die have: they were acknowledged. -/
def State.copyPerformed (s : State) (x : CopyCmd) : Bool :=
  let adopted : BitVec 3 := match x.adopted with
    | some (k, id) => (((s.slot k).op id).map (·.scope)).getD 0
    | none => 0
  if x.op.scope = 0 ∧ adopted = 0 then true
  else match s.copyPlan x.slot x.op with
    | .ok pl => (List.range x.bytes).all fun i => s.destHome x.slot (pl.dst i)
    | .error _ => true

/-- A queued command is cancelled (R385). Its status follows the bytes it delivered, as any copy's does (R382). -/
def State.cancelCopy (s : State) (c ch : Nat) (x : CopyCmd) : State :=
  if s.copyPerformed x then s.endCopy c ch x 11 else s.modCopy c ch x.slot x.op.id fun y => { y with outcome := some 11 }

/-- CPYK's mask is met (R385): the channel's earlier commands are cancelled, its count is 0, and its own status follows theirs. A piece on its way is delivered first:
the channel stops at an element boundary. A later command that a fault has stopped stays stopped. -/
def State.beginCpyk (s : State) (k : Nat) (o : Op) : State :=
  let c := coreOf k
  let ch := o.chan
  let earlier := (s.channel c ch).queue.filter fun x => x.op.id < o.id
  if !zeroAbove (o.lane 6) 2 then s.performed k o { value := (copyStatus 0 ch 6).setWidth 512 }
  else if earlier.any fun x => x.flying ≠ 0 then s
  else
    let s := earlier.foldl (fun s x => s.cancelCopy c ch x) s
    if (s.channel c ch).queue.any fun x => x.op.id < o.id then s
    else (s.modChannel c ch fun x => { x with cpwp := 0, stopped := x.stopped && earlier = [] }).performed k o { value := (copyStatus 0 ch 0).setWidth 512 }

/-- A copy command's mask is met (R361, R380): CPYK acts; another is released to its channel, and adopts the token it carries, or is STALE (R193, R382). -/
def State.beginCopy (s : State) (k : Nat) (o : Op) : State :=
  if o.copyFn = 3 then s.beginCpyk k o
  else
    let c := coreOf k
    let s := (s.setPhase k o.id .waiting).modCopy c o.chan k o.id fun x => { x with op := { x.op with phase := .waiting } }
    if o.lane2 7 = 0 then s
    else match s.tokenOwner c (o.lane2 7) with
      | none => s.modCopy c o.chan k o.id fun x => { x with outcome := some 4 }
      | some w => (s.modCopy c o.chan k o.id fun x => { x with adopted := some w }).setPhase w.1 w.2 .sent

/-- A command in progress goes on by up to n pieces (R176, R179, R384). -/
def State.runCopy (s : State) (c ch : Nat) (x : CopyCmd) (pl : CopyPlan) (n : Nat) : State :=
  let r := State.movePieces x.slot x.op pl n x.bytes s
  let s := (r.2.2.2.modCopy c ch x.slot x.op.id fun y => { y with bytes := r.1, flying := r.2.1.1, target := r.2.1.2 }).modChannel c ch fun y =>
    { y with cpwp := y.cpwp + BitVec.ofNat 64 (r.1 - x.bytes) }
  let s := if r.2.1.1 = 0 then s else s.setPhase x.slot x.op.id .sent
  match r.2.2.1 with
  | none => if pl.total ≤ r.1 then s.modCopy c ch x.slot x.op.id fun y => { y with outcome := some 0 } else s
  | some (.fault va kind) =>
    (s.modChannel c ch fun y => { y with stopped := true }).postNoPc x.slot
      { cause := 0x10, addr := va, detail := kind.code, stream := x.op.stream, mask := x.op.mask, seq := x.op.seq }
  | some .busy => s
  | some .peer => s.modCopy c ch x.slot x.op.id fun y => { y with outcome := some 9 }
  | some _ => s.modCopy c ch x.slot x.op.id fun y => { y with outcome := some 6 }

/-- The ACK or NACK of a COPYW: its bytes are delivered, or the command ends PEER (R17, R41, R176, R446). -/
def State.landCopy (s : State) (k : Nat) (o : Op) (refused : Bool) : State :=
  let c := coreOf k
  match (s.channel c o.chan).queue.find? (·.is k o.id) with
  | none => s
  | some x =>
    let s := s.setPhase k o.id .waiting
    if refused then s.modCopy c o.chan k o.id fun y => { y with flying := 0, outcome := some 9 }
    else (s.modCopy c o.chan k o.id fun y => { y with flying := 0, bytes := y.bytes + y.flying }).modChannel c o.chan fun y =>
      { y with cpwp := y.cpwp + BitVec.ofNat 64 x.flying }

/-- A channel's head goes on (R380): its limits are checked as it starts, then bytes are delivered; while a piece is on its way it waits. -/
def State.stepCopy (s : State) (c ch : Nat) (x : CopyCmd) (n : Nat) : State :=
  if x.flying ≠ 0 then s
  else match s.copyPlan x.slot x.op with
    | .error (.fault va kind) =>
      (s.modChannel c ch fun y => { y with stopped := true }).postNoPc x.slot
        { cause := 0x10, addr := va, detail := kind.code, stream := x.op.stream, mask := x.op.mask, seq := x.op.seq }
    | .error _ => s.modCopy c ch x.slot x.op.id fun y => { y with started := true, outcome := some 6 }
    | .ok pl => (s.modCopy c ch x.slot x.op.id fun y => { y with started := true }).runCopy c ch x pl n

/-- May the channel's head go on: released, the channel not stopped, its job not held in a switch (R98, R380)? -/
def State.copyHead (s : State) (c ch : Nat) : Option CopyCmd :=
  match (s.channel c ch).queue with
  | x :: _ =>
    if x.op.phase ≠ .held ∧ ¬(s.channel c ch).stopped ∧ ¬(s.gang (peerOf (quadOf c) / 4) (s.slot x.slot).job).phase.bars then some x else none
  | [] => none

/-- COPY_START: a channel starts its head command, or goes on with the one in progress (R176, R380). Arguments: a the core, b the channel, c how many pieces of at most 8 bytes are delivered now. -/
def execCopyStart (s : State) : Out :=
  match s.copyHead s.arg.a (s.arg.b % 4) with
  | none => s.idle
  | some x => if x.outcome.isSome then s.idle else .next (s.stepCopy s.arg.a (s.arg.b % 4) x s.arg.c)

/-- COPY_DONE: the last byte has performed at the copy's scope and its token's, and the status is written (R382). Arguments: a the
core, b the channel. -/
def execCopyDone (s : State) : Out :=
  match s.copyHead s.arg.a (s.arg.b % 4) with
  | none => s.idle
  | some x => match x.outcome with
    | none => s.idle
    | some oc => if s.copyPerformed x then .next (s.endCopy s.arg.a (s.arg.b % 4) x oc) else s.idle

end Sys2Proof.Machine
end

