-- ==== Sys2Proof/Machine/Response.lean ====
section
/-!
DEFINITION. Machine/Response.lean: what comes back to a thread: RESP, ACK and NACK packets with their retries (R41, R42, R44,
R91, R115, R376), replies (R115) and page walks (R152, R153, R155).
-/
namespace Sys2Proof.Machine

/-! ### Finding the operation that a response answers (R33, R41) -/

/-- A response that has arrived and is not held by a switch of its job (R98). -/
def State.response (s : State) (k : Nat) (type : BitVec 8) : Option (Pkt × Nat) :=
  match s.arrived k type with
  | some (pkt, q) => if (s.gang (q / 4) pkt.job).phase.stops then none else some (pkt, q)
  | none => none

/-- Does an operation await a response with a tag? -/
def Op.awaits (o : Op) (tag : BitVec 16) : Bool :=
  o.id % 4095 == tag.toNat / 16 &&
    (match o.kind with
     | .matrix _ => true
     | _ => if o.parts = [] then o.phase == .sent else o.parts.any fun p => p.lane % 16 == tag.toNat % 16 && p.phase == .sent)

/-- The requester's slot key (R33, R124). -/
def Pkt.requester (p : Pkt) : Nat := p.dst.toNat * 8192 + p.req.toNat

/-- The Vilam port by which packet k of the list came; 35 for one of its own package. -/
def State.cameBy (s : State) (k : Nat) : Nat := match s.net[k]? with
  | some f => if f.pkt.src.toNat / 4 = f.pkt.dst.toNat / 4 then 35 else f.came
  | none => 35

/-- A response that none awaits counted: in the error counter of the Vilam port that it came by, or of the die's own port (R41). -/
def State.countStray (s : State) (p : Pkt) (port : Nat) : State :=
  if port < 35 then s.modPkg (p.dst.toNat / 4) fun x => { x with ports := x.ports.set port { x.ports.get {} port with errors := (x.ports.get {} port).errors + 1 } }
  else s.modDie p.dst.toNat fun d => { d with errors := d.errors + 1 }

/-- The answer to a SPAWN that was sent before a return to its thread's checkpoint: a refusal lowers live (R88, R144). -/
def State.spawnAnswer (p : Pkt) (k : Nat) (s : State) : State :=
  match (s.slot k).spawns.find? (·.1 == p.tag) with
  | none => s
  | some x =>
    let s := s.modSlot k fun t => { t with spawns := t.spawns.erase x }
    if p.type = 0x22 ∨ !p.operand.getLsbD 0 then s.addLive p.job x.2 false else s

/-- A response handed to the operation that awaits it; one that none awaits is discarded and counted (R41). -/
def State.toOwner (s : State) (p : Pkt) (port : Nat) (f : Nat → Op → State → State) : State :=
  let k := p.requester
  (s.onOwner k (fun t => t.job == p.job && t.ops.any (·.awaits p.tag)) fun s =>
    match (s.slot k).ops.find? (·.awaits p.tag) with
    | some o => f k o s
    | none => s).getD ((s.onOwner k (fun t => t.spawns.any (·.1 == p.tag)) (State.spawnAnswer p k)).getD (s.countStray p port))

/-- An AOR refused at the flag word's home, or by its poison, is dropped (R212): the message names the thread whose flag was set, the packet's job, and the flag word; its
PC is the thread's where it still runs or is pre-empted, else an open value (log entry 4). -/
def State.aorDropped (s : State) (p : Pkt) (cause : BitVec 8) : State :=
  let k := p.requester
  let peer := peerOfSlot k
  let mine := fun (t : Slot) => t.st != .free && t.job == p.job && t.par.key == p.payload.toNat
  let saved : Option Slot := ((s.core (coreOf k)).saved.bind fun v => v.slots[slotOf k]?).filter mine
  let tr : Trap := { cause := cause, addr := (s.die peer).flagWord p.job, detail := zx p.src }
  let post := fun (s : State) (pc : Word) =>
    if s.posts k then s.post peer (trapMessage (s.modSlot k fun t => { t with job := p.job }) k tr pc (s.die peer).msgSeq) else s
  if mine (s.slot k) then post s (s.slot k).pc
  else match saved with
    | some t => post s t.pc
    | none => (post s s.openValue).useOpen

/-! ### RESP (R42, R115, R171, R323, R377) -/

/-- Data for one byte range. -/
def State.respPart (s : State) (k : Nat) (o : Op) (lane : Nat) (p : Pkt) : State :=
  match o.parts.find? (·.lane == lane) with
  | none => s
  | some part =>
    let pa := part.pa.getD 0
    let q := quadOf (coreOf k)
    match o.kind with
    | .atom _ =>
      let s := s.dropCopy q (pa / 256)
      if p.poison then s.partPoison k o.id lane (paPeer pa)
      else (s.modSlot k fun t => t.modOp o.id fun o => { o with vec := (bits p.payload 0 6 : BitVec 6).setWidth 512 }).partDone k o.id lane p.operand
    | .fe _ =>
      let s := (s.dropCopy q (pa / 256)).modSlot k fun t => t.modOp o.id fun o => { o with b := zx p.fn }
      if p.poison then s.partPoison k o.id lane (paPeer pa) else s.partDone k o.id lane p.operand
    | _ =>
      if p.poison then s.partPoison k o.id lane (paPeer pa)
      else if p.size = 8 then
        -- a whole line: a clean copy of a line homed beyond the die (R171)
        let l := pa / 256
        let y : Line := { state := .remote, data := p.payload, full := bits p.operand 0 32, poison := bits p.operand 32 32 }
        let s := if part.nc ∨ (s.line q l).isSome ∨ s.writing q l then s else s.installLine q l (y.touchL1 (coreOf k) false)
        if y.poisoned (pa % 256) part.size then s.partPoison k o.id lane (paPeer pa) else s.partDone k o.id lane (y.read (pa % 256) part.size)
      else s.partDone k o.id lane (p.payload.setWidth 64)

/-- The word that TKGET writes (R323). -/
def ticketWord (p : Pkt) : Word :=
  p.fn.setWidth 1 ++ (0 : BitVec 14) ++ (bits p.off 0 4 : BitVec 4) ++ p.src ++ (p.operand.setWidth 32)

/-- A RESP reaches the operation that awaits it. -/
def State.respOp (p : Pkt) (k : Nat) (o : Op) (s : State) : State :=
  let ok := p.operand.getLsbD 0
  match o.kind with
  | .qpush => s.performed k o { flag := o.flag.map fun f => (f, some ok) }
  | .spawn =>
    let s := if ok then s else s.addLive (s.slot k).job (s.slot k).par false
    s.performed k o { flag := o.flag.map fun f => (f, some ok) }
  | .migr => if ok then (s.twins k).foldl (fun s k => s.migrated k) s else s.performed k o { flag := o.flag.map fun f => (f, some false) }
  | .tkget _ => (s.modDie (peerOfSlot k) fun d => { d with called := d.called.set (classKey p.src.toNat (p.off.toNat % 16)) (p.payload.setWidth 32) }).performed
      k o { value := (ticketWord p).setWidth 512 }
  | .matrix _ =>
    if p.fn = 1 then s.modCmd k o.id fun e =>
      if e.attempt = bits p.operand 32 32 then { e with got := e.got.set (bits p.operand 0 32 : BitVec 32).toNat p.payload } else e
    else s
  | _ => s.respPart k o (p.tag.toNat % 16) p

/-- RESP: data, an old value or an outcome reaches the requester (R42, R115). Argument: a the packet's place. -/
def execResp (s : State) : Out :=
  match s.response s.arg.a 0x20 with
  | none => s.idle
  | some (p, _) =>
    let port := s.cameBy s.arg.a
    let s := s.dropFlight s.arg.a
    if p.tag = aorTag then
      .next (if p.poison then s.aorDropped p 0x0A else s)
    else .next (s.toOwner p port (State.respOp p))

/-! ### ACK (R42, R224, R325, R376, R377) -/

/-- The rows that a remote MREAD, MQRY or MFLG brought back, each of n bits, cut from the packets' bytes. -/
def gotRows (got : NMap (BitVec 2048)) (rows n : Nat) : List (Nat × Nat) :=
  let all := got.foldl (fun x e => x + e.2.toNat * 2 ^ (2048 * e.1)) 0
  (List.range rows).map fun i => (n, all / 2 ^ (8 * ((n + 7) / 8 * i)) % 2 ^ n)

/-- The decision of a matrix command comes back (R376, R377). -/
def State.matrixAck (s : State) (p : Pkt) (e : EngCmd) : State :=
  let fl : BitVec 6 := bits p.payload 0 6
  let oc : BitVec 4 := bits p.operand 0 4
  let nan := p.payload.getLsbD 6
  if e.attempt ≠ bits p.payload 32 32 then s
  else if e.stage = .asked then
    s.writeAnswer e { status := p.operand, fsf := fl, mode := p.payload.getLsbD 7,
                      rows := gotRows e.got (bits p.payload 16 8 : BitVec 8).toNat (bits p.payload 64 64 : BitVec 64).toNat }
  else if e.stage = .sent then
    let fsf := if oc = ocAccepted ∨ oc = ocNanTrap then fl ||| e.fsf else fl
    s.settleCmd (e.decideAs p.operand fsf (if nan then some (0x08, 0) else none))
  else s

/-- An ACK reaches the operation that awaits it; its poison bit says that a write was refused (R17, R446). -/
def State.ackOp (p : Pkt) (k : Nat) (o : Op) (s : State) : State :=
  match o.kind with
  | .matrix _ => match s.engCmd k o.id with
    | some e => s.matrixAck p e
    | none => s
  | .mbxw _ | .sev _ | .tkdone _ => s.performedNone k o
  | .copy _ => s.landCopy k o p.poison
  | _ =>
    let lane := p.tag.toNat % 16
    let s := match o.kind, o.parts.find? (·.lane == lane) with
      | .fe _, some x => s.dropCopy (quadOf (coreOf k)) (x.pa.getD 0 / 256)
      | _, _ => s
    if p.poison then s.partPoison k o.id lane p.src.toNat
    else (match o.kind with
      | .fmtw => s.formatWritten k o
      | _ => s).partDone k o.id lane 0

/-- Do data packets of this decision still travel? The decision waits for them, since its status follows the writes (R377). -/
def State.dataMissing (s : State) (p : Pkt) : Bool :=
  p.fn == 1 && (match (s.slot p.requester).ops.find? (·.awaits p.tag) with
    | some o => match s.engCmd p.requester o.id with
      | some e => e.stage == .asked && e.attempt == bits p.payload 32 32 && e.got.length < (bits p.payload 8 8 : BitVec 8).toNat
      | none => false
    | none => false)

/-- ACK: a write at a home, a mailbox write, an event, a TKDONE or a decision is acknowledged (R42, R125, R376). Argument: a the
packet's place. -/
def execAck (s : State) : Out :=
  match s.response s.arg.a 0x21 with
  | none => s.idle
  | some (p, _) =>
    if s.dataMissing p then s.idle
    else .next ((s.dropFlight s.arg.a).toOwner p (s.cameBy s.arg.a) (State.ackOp p))

/-! ### NACK and its retries (R41, R44, R47, R133, R376) -/

/-- The operation completes as one to a foreign peer (R40, R41). -/
def State.foreign (s : State) (k : Nat) (o : Op) (lane peer : Nat) : State :=
  let fl := o.flag.map fun f => (f, some false)
  match o.kind with
  | .matrix _ => match s.engCmd k o.id with
    | some e => s.endWith e ocPeer 0
    | none => s
  | .spawn => (s.addLive (s.slot k).job (s.slot k).par false).refuseOp k o 0x0B peer { flag := fl }
  | .copy _ => s.landCopy k o true
  | .qpush | .migr | .mbxw _ | .sev _ | .tkdone _ => s.refuseOp k o 0x0B peer { flag := fl }
  | .tkget _ => s.refuseOp k o 0x0B peer { value := poisonWord.setWidth 512 }
  | _ => s.partRefused k o.id lane 0x0B peer

/-- The delay of R44 after one more NACK: 256 cycles, then twice the last, up to 8,192. -/
def nextDelay (d : Nat) : Nat := min 8192 (2 * d)

/-- The operation waits and is sent again (R44), for both cores of a lock-step pair (R143). -/
def State.backOff (s : State) (k id lane : Nat) : State :=
  (s.twins k).foldl (fun s k => s.modSlot k fun t => t.modOp id fun o =>
    { o with phase := .waiting, parts := o.parts.map fun p => if p.lane == lane then { p with phase := .waiting } else p }) s

/-- A NACK reaches the operation that awaits it. -/
def State.nackOp (p : Pkt) (k : Nat) (o : Op) (s : State) : State :=
  let lane := p.tag.toNat % 16
  match o.kind with
  | .matrix _ => match s.engCmd k o.id with
    | none => s
    | some e =>
      if e.attempt ≠ bits p.payload 0 32 ∨ (e.stage ≠ .sent ∧ e.stage ≠ .asked) then s
      else if p.fn = nackBusy then s.modCmd k o.id fun e => { e with stage := .busy }
      else s.foreign k o lane p.src.toNat
  | .migr =>
    if p.fn ≠ nackBusy then s.foreign k o lane p.src.toNat
    -- a thread that a timeout has parked after its MIGR stays at its source (R133, R142)
    else if (s.slot k).wto.toNat ≤ (s.slot k).waited ∨ (s.slot k).hold ≠ .reply o.id then s.performed k o { flag := o.flag.map fun f => (f, some false) }
    else s.backOff k o.id lane
  | .mbxw _ =>
    if p.fn ≠ nackBusy then s.foreign k o lane p.src.toNat
    else if s.ownCore k o.a then s.setPhase k o.id .held
    else s.backOff k o.id lane
  | _ => if p.fn = nackBusy then s.backOff k o.id lane else s.foreign k o lane p.src.toNat

/-- NACK: a request was turned away, BUSY to be sent again or PARTITION as R41 completes it. Argument: a the packet's place. -/
def execNack (s : State) : Out :=
  match s.response s.arg.a 0x22 with
  | none => s.idle
  | some (p, _) =>
    let port := s.cameBy s.arg.a
    let s := s.dropFlight s.arg.a
    if p.operand = 0x09 then .next (s.failWaiters p.dst.toNat (classKey p.src.toNat (p.off.toNat % 16)) 0x0B)
    else if p.tag = aorTag then
      .next (s.aorDropped p 0x0B)
    else .next (s.toOwner p port (State.nackOp p))

/-- What is sent again when the delay has passed (R44, R133, R376). -/
def State.resend (s : State) (k : Nat) (o : Op) : State :=
  let s := s.modSlot k fun t => t.modOp o.id fun o => { o with delay := nextDelay o.delay }
  match o.kind with
  | .mbxw n => (s.send (s.taskPacket k o o.a.toNat taskMbox n o.b)).setPhase k o.id .sent
  | .migr =>
    match s.translateNow (coreOf k) (s.slot k).job o.a false with
    | .error _ => s
    | .ok l => (s.twins k).foldl (fun s k => s.setPhase k o.id .sent) (s.send (s.migrPacket k o (s.migrTarget (s.slot k).job o.a (l.pa o.a))))
  | .matrix _ => match s.engCmd k o.id with
    | none => s
    | some e =>
      if e.stage ≠ .busy then s
      else match e.formed with
        | some c => s.sendContrib e c
        | none => s.modCmd k o.id fun e => { e with stage := .rerun }
  | _ => (o.parts.filter (·.phase == .waiting)).foldl (fun s p => match p.pa with
      | some pa => s.accessPart k o p pa p.nc
      | none => s) s

/-- Does an operation wait to be sent again: one of those that BUSY turned away, and not one that waits at its own core? -/
def State.retries (s : State) (k : Nat) (o : Op) : Bool :=
  match o.kind with
  | .mbxw _ => o.phase == .waiting && !s.ownCore k o.a
  | .migr => o.phase == .waiting
  | .matrix _ => (match s.engCmd k o.id with
    | some e => e.stage == .busy
    | none => false)
  | .fe _ => o.parts.any fun p => p.phase == .waiting && p.pa.isSome
  | _ => false

/-- NACK_RETRY: the delay has passed and the operation is sent again, the next delay doubled (R44). Arguments: a the slot, b the
operation. -/
def execNackRetry (s : State) : Out :=
  let k := s.arg.a
  let mine := fun (t : Slot) => (t.op s.arg.b).isSome
  match s.onOwner k mine fun s => match (s.slot k).op s.arg.b with
      | some o => if s.retries k o ∧ ¬(s.gang (peerOfSlot k / 4) (s.slot k).job).phase.bars then s.resend k o else s
      | none => s with
  | some s' => .next s'
  | none => s.idle

/-! ### REPLY (R115, R143) -/

/-- REPLY: a result on its way reaches its thread; in a lock-step pair both threads, whose write-backs are compared. Arguments: a the slot, b the reply's place. -/
def execReply (s : State) : Out :=
  let k := s.arg.a
  if s.twins k = [k, k + 8] then .next (s.joinPair k (s.takeReplyAt k s.arg.b) (s.takeReplyAt (k + 8) s.arg.b))
  else .next (s.takeReplyAt k s.arg.b)

/-! ### WALK_COMPLETE (R152, R153, R155) -/

/-- The mark of a walk asked for by an instruction that has not issued: a fetch or a vector access. -/
def precisePart : Nat := 16

/-- May the end of a walk be served: the package does not hold the job (R98)? -/
def State.walkServable (s : State) (w : Walk) : Bool := !(s.gang (peerOf w.quad / 4) w.job).phase.bars

/-- One request of a walk served: the translation installed and the byte range going on, or the fault of its agent (R155). -/
def State.serveWalk (s : State) (w : Walk) : State :=
  let k := w.slot
  let t := s.slot k
  match walk s (peerOf w.quad) w.job w.va w.write w.fetch with
  | .ok l =>
    let s := s.tlbPut (coreOf k) w.job w.va l
    if w.part = precisePart then s
    else match t.op w.opId with
      | some o => if o.parts.any fun p => p.lane == w.part && p.phase == .walk then s.startPart k w.opId w.part else s
      | none => s
  | .error e =>
    if w.part = precisePart then
      if (if w.fetch then t.st = .run else t.st = .wait ∧ t.hold = .reissue) ∧ t.issued.toNat = w.opId then
        (s.twins k).foldl (fun s k => s.takeTrap k { cause := 0x09, addr := w.va, detail := e.code } (s.slot k).pc) s
      else s
    else match t.op w.opId with
      | some o => if o.parts.any fun p => p.lane == w.part && p.phase == .walk then s.faultPart k w.opId w.va e else s
      | none => s

/-- WALK_COMPLETE: a page walk ends; every request of its quad for the page is served, and waiting misses take the free place
(R152, R153). Arguments: a the die's peer number, b the walk's place. -/
def execWalkComplete (s : State) : Out :=
  let peer := s.arg.a
  match (s.die peer).walks[s.arg.b]? with
  | none => s.idle
  | some w =>
    let ws := ((s.die peer).walks ++ (s.die peer).walkQueue).filter (s.sharesWalk w)
    if s.walkServable w then
      let queue := (s.die peer).walkQueue.filter fun v => !s.sharesWalk w v
      let s := queue.foldl State.startWalk (s.modDie peer fun d => { d with walks := d.walks.filter fun v => !s.sharesWalk w v, walkQueue := [] })
      .next (ws.foldl (fun s v => if s.walkServable v then s.serveWalk v else s.startWalk v) s)
    else s.idle

end Sys2Proof.Machine
end

