-- ==== Sys2Proof/Machine/Cmo.lean ====
section
/-!
DEFINITION. Machine/Cmo.lean: what the cache, stash and format maintenance operations do once their mask is met (R157 to R160, R173,
R174, R209, R301 to R305). Write-backs reach their homes in the same step (log entry 11).
-/
namespace Sys2Proof.Machine

/-- The quad's own owned copy of a line written back: clean and shared, the directory naming the quad (R174). -/
def State.flushOwned (s : State) (q l : Nat) : State :=
  match s.line q l with
  | some x =>
    if x.state = .owned then
      let s := (s.writeSectors l x.dirty x.data x.full x.poison).setLine q l { x with state := .shared, dirty := 0 }
      if (s.dirEntry l).any fun e => !e.busy && e.owned && e.owner == quadNo q then s.setDir (paPeer (l * 256)) l { ptrs := [(0, BitVec.ofNat 8 (quadNo q))] } else s
    else s
  | none => s

/-- The dirty sectors of a bound region's line written back (R160, R172); those bound for a peer that refuses them, at the source or at the home, are
dropped, as its stores are (R40, R41). -/
def State.cleanRegionLine (s : State) (k i l : Nat) (keep : Bool) : State × Option (BitVec 8) :=
  let c := coreOf k
  match (if s.regionDirty c i l ≠ 0 then s.homeRefused k (l * 256) else none) with
  | some cause => (s.dropSectors c i l cause, some cause)
  | none => (s.pullRegion c i l keep, none)

/-- A whole region written back (R160). -/
def State.cleanRegion (s : State) (k i : Nat) (keep : Bool) : State × Option (BitVec 8) :=
  (List.range 128).foldl (fun r j =>
    let x := r.1.cleanRegionLine k i ((r.1.region (coreOf k) i).pa / 256 + j) keep
    (x.1, match r.2 with | some c => some c | none => x.2)) (s, none)

/-- An operation ends: performed, with the trap of a refused peer where one was met (R40). -/
def State.endCmo (r : State × Option (BitVec 8)) (k : Nat) (o : Op) (peer : Nat) : State :=
  match r.2 with
  | none => r.1.performedNone k o
  | some cause => r.1.refuseOp k o cause peer {}

/-- The virtual addresses of the lines that [a, a + n) overlaps (R301). -/
def rangeLines (a : Word) (n : Nat) : List Word :=
  if n = 0 ∨ a.getLsbD 63 then []
  else (List.range ((a.toNat % 256 + n + 255) / 256)).map fun i => a - BitVec.ofNat 64 (a.toNat % 256) + BitVec.ofNat 64 (256 * i)

/-- The lines of a range handled in order; a fault parks the whole operation at the first faulting page (R301). `r` holds the first refusal met: its cause
and its peer. -/
def State.overLines (k : Nat) (o : Op) (f : State → Word → Leaf → State × Option (BitVec 8)) (r : Option (BitVec 8 × Nat)) : List Word → State → State
  | [], s => State.endCmo (s, r.map (·.1)) k o ((r.map (·.2)).getD 0)
  | va :: vs, s => match s.translateNow (coreOf k) (s.slot k).job va false with
    | .error e => s.parkOp k o.id (if va.ult o.a then o.a else va) e
    | .ok l =>
      if l.nc then State.overLines k o f r vs s
      else
        let x := f s va l
        State.overLines k o f (match r with | some r => some r | none => x.2.map fun c => (c, paPeer (l.pa va))) vs x.1

/-- CFLUSH of one line: the core's bound sectors go home, and the quad's owned copy with what the bound regions of its other cores hold of it; the regions'
lines stay valid (R160, R162, R174). -/
def State.flushLine (k : Nat) (s : State) (va : Word) (l : Leaf) : State × Option (BitVec 8) :=
  let c := coreOf k
  let q := quadOf c
  let r := match s.boundAt c va with
    | some (i, _) => s.cleanRegionLine k i ((s.region c i).pa / 256 + (bits va 0 57 : BitVec 57).toNat % 0x8000 / 256) true
    | none => (s, none)
  let n := l.pa va / 256
  let s := if (r.1.line q n).any (·.state == .owned) then r.1.pullLine q n true else r.1
  (s.flushOwned q n, r.2)

/-- CINV of one line: a clean copy of a line homed on another die goes (R173). -/
def State.discardLine (k : Nat) (s : State) (va : Word) (l : Leaf) : State × Option (BitVec 8) :=
  (s.dropCopy (quadOf (coreOf k)) (l.pa va / 256), none)

/-- CFLUSH's mask is met (R174, R301); bound sectors for a refused peer are dropped with its trap (R40). -/
def State.beginCflush (s : State) (k : Nat) (o : Op) : State :=
  State.overLines k o (State.flushLine k) none (rangeLines o.a (bits o.b 0 32 : BitVec 32).toNat) s

/-- CINV's mask is met (R173, R301). -/
def State.beginCinv (s : State) (k : Nat) (o : Op) : State :=
  State.overLines k o (State.discardLine k) none (rangeLines o.a (bits o.b 0 32 : BitVec 32).toNat) s

/-- SUNMAP of a region: written back, then plain (R160). -/
def State.unbind (s : State) (k i : Nat) : State × Option (BitVec 8) :=
  if (s.region (coreOf k) i).bound then
    let r := s.cleanRegion k i true
    ((r.1.modRegion (coreOf k) i fun r => { fmt := r.fmt }).dropStashPoison (coreOf k) (i * 0x8000) ((i + 1) * 0x8000), r.2)
  else (s, none)

/-- SUNMAP's mask is met (R302). -/
def State.beginSunmap (s : State) (k : Nat) (o : Op) (i : Nat) : State :=
  State.endCmo (s.unbind k i) k o (paPeer (s.region (coreOf k) i).pa)

/-- SWB's mask is met (R302): lines valid and clean. -/
def State.beginSwb (s : State) (k : Nat) (o : Op) (i : Nat) : State :=
  if (s.region (coreOf k) i).bound then State.endCmo (s.cleanRegion k i true) k o (paPeer (s.region (coreOf k) i).pa)
  else s.performedNone k o

/-- Is the range at an address bound to another region of the core (R157)? -/
def State.boundElsewhere (s : State) (c n : Nat) (va : Word) : Bool :=
  (List.range 8).any fun i => i != n && (s.region c i).bound && (s.region c i).base.toNat / 0x8000 == (bits va 0 57 : BitVec 57).toNat / 0x8000

/-- An SMAP or SFMT that another thread of the core has made illegal since its issue: it leaves the region as it is and traps afterwards (R157, R303; log
entry 31). -/
def State.lateIllegal (s : State) (k : Nat) (o : Op) : State :=
  (s.performedNone k o).trapLater k { cause := 0x01, detail := zx o.word, stream := o.stream, mask := o.mask, seq := o.seq }

/-- SMAP's mask is met (R157): the region unbound, the range translated, the region bound with nothing valid. A range that another SMAP has bound since the
issue, or a page with nc = 1 where it was not known then, is not bound, the region stays as it is, and the thread traps as illegal afterwards. -/
def State.beginSmap (s : State) (k : Nat) (o : Op) (i : Nat) : State :=
  let c := coreOf k
  let leaf := s.translateNow c (s.slot k).job o.a false
  let nc : Bool := match leaf with
    | .ok l => l.nc
    | .error _ => false
  if !o.a.getLsbD 63 && (s.boundElsewhere c i o.a || nc) then s.lateIllegal k o
  else
    let peer := paPeer (s.region c i).pa
    let r := s.unbind k i
    if o.a.getLsbD 63 then r.1.parkOp k o.id o.a .malformed
    else match leaf with
      | .error e => r.1.parkOp k o.id o.a e
      | .ok l =>
        State.endCmo (r.1.modRegion c i fun _ => { bound := true, fmt := l.fmt, ro := !l.w, base := bits o.a 0 57, pa := l.pa o.a }, r.2) k o peer

/-- SFMT's mask is met (R303); on a region that is bound by then it does nothing and traps as illegal afterwards. -/
def State.beginSfmt (s : State) (k : Nat) (o : Op) (i : Nat) : State :=
  if (s.region (coreOf k) i).bound then s.lateIllegal k o
  else (s.modRegion (coreOf k) i fun r => { r with fmt := bits o.a 0 6 }).performedNone k o

/-- PREF performs at issue (R304): the quad cache asks for the line as a read would, or nothing happens. -/
def State.prefetch (s : State) (k : Nat) (o : Op) : State :=
  let q := quadOf (coreOf k)
  if o.a.getLsbD 63 || (s.boundAt (coreOf k) o.a).isSome then s
  else match s.translateNow (coreOf k) (s.slot k).job o.a false with
    | .error _ => s
    | .ok l =>
      let pa := l.pa o.a
      if l.nc || (s.accessRefused k pa).isSome || (s.line q (pa / 256)).isSome then s
      else if paPeer pa = peerOf q then s.request q (pa / 256) false
      else if o.scope.toNat ≤ 2 ∧ (paPeer pa = hostPeer ∨ s.lineFree (pa / 256)) then s.fetchLine q (pa / 256)
      else s

/-- PREF's mask is met. -/
def State.beginPref (s : State) (k : Nat) (o : Op) : State := (s.prefetch k o).performedNone k o

/-- FMTW's mask is met (R209, R305): the entry at `a` written at its home, by a STORE packet where that is not the own die (R42), then the cached copies of
the index in `b` gone. -/
def State.beginFmtw (s : State) (k : Nat) (o : Op) : State :=
  let va := o.a
  match s.translateNow (coreOf k) (s.slot k).job va true with
  | .error e => s.parkOp k o.id va e
  | .ok l =>
    let pa := l.pa va
    match s.accessRefused k pa with
    | some cause => s.refuseOp k o cause (paPeer pa) {}
    | none =>
      if paPeer pa ≠ peerOfSlot k then
        (((s.passCopies (quadOf (coreOf k)) (pa / 256)).send { opPacket k (s.slot k).job o 0 0x02 (paPeer pa) (paOff pa) 3 with
            payload := o.t.setWidth 2048, plen := 8 }).modPart k o.id 0 fun p => { p with phase := .sent, pa := some pa }).setPhase k o.id .sent
      else if ¬s.lineFree (pa / 256) then s
      else ((s.agentWrite pa 8 o.t).formatWritten k o).performedNone k o

end Sys2Proof.Machine
end

