-- ==== Sys2Proof/Machine/Stream.lean ====
section
/-!
DEFINITION. Machine/Stream.lean: how a stream operation issues and begins (R181 to R187, R208), and how a wait ends: STREAM_RELEASE,
SCOPE_SET and WAIT_TIMEOUT (R114, R142, R184, R185, R296, R318).
-/
namespace Sys2Proof.Machine

/-! ### A decoding load's snapshot and elements (R208, R350) -/

/-- The format index at a VLDD's base address (R350): a stash region's, a page's, 0 on a local page. None where the page must be walked. -/
def State.vlddIndex (s : State) (k : Nat) (a : Word) : Option (Except FaultKind (BitVec 6)) :=
  let c := coreOf k
  if a.getLsbD 63 then
    match localPlace c a with
    | .stash c' off => some (.ok (s.region c' (off / 0x8000)).fmt)
    | _ => some (.ok 0)
  else match s.boundAt c a with
    | some (i, _) => some (.ok (s.region c i).fmt)
    | none => (s.translate c (s.slot k).job a false false).map fun r => r.map fun l => l.fmt

/-- The byte ranges of a VLDD's enabled lanes (R205, R350): one of 4 or 2 bytes per lane, or one per byte that they touch. -/
def vlddParts (a : Word) (idx w : Nat) (lanes : BitVec 16) : List Part :=
  let on := (List.range 16).filter fun i => lanes.getLsbD i
  if idx < 4 then on.map fun i => { lane := i, va := a + BitVec.ofNat 64 (i * (w / 8)), size := w / 8 }
  else
    ((List.range 16).filter fun j => on.any fun i => i * w / 8 == j || (i * w + w - 1) / 8 == j).map fun j =>
      { lane := j, va := a + BitVec.ofNat 64 j, size := 1 }

/-- The alignment that a VLDD's base needs (R350). -/
def vlddAlign (idx : Nat) : Nat := if idx < 2 then 4 else if idx < 4 then 2 else 1

/-- A VLDD reaches its release point after its issue (R208): index, descriptor and byte ranges taken together, or the VLDD withdrawn. -/
def State.releaseVldd (s : State) (k : Nat) (o : Op) : State :=
  let tr := fun (cause : BitVec 8) (detail : Word) => ({ cause := cause, addr := o.a, detail := detail, stream := o.stream, mask := o.mask, seq := o.seq } : Trap)
  let idx : Except FaultKind (BitVec 6) := match s.vlddIndex k o.a with
    | some r => r
    | none => (s.translateNow (coreOf k) (s.slot k).job o.a false).map fun l => l.fmt
  match idx with
  | .error e => s.withdrawVld k o (tr 0x09 e.code)
  | .ok i =>
    let r := s.snap k i
    match r.1.bad with
    | some kind => r.2.withdrawVld k o (tr 0x07 (fmtDetail i kind))
    | none =>
      if o.a.toNat % vlddAlign i.toNat ≠ 0 then r.2.withdrawVld k o (tr 0x05 0)
      else
        r.2.modSlot k fun t => t.modOp o.id fun o =>
          { o with b := zx i, snap := some r.1.desc, parts := vlddParts o.a i.toNat (elemWidth i.toNat r.1.desc) o.lanes }

/-! ### Beginning (R185, R186) -/

/-- Does no earlier operation of the thread overlap the byte ranges of an operation (R186)? -/
def State.partsFree (s : State) (k : Nat) (o : Op) : Bool :=
  o.parts.all fun p => !s.clashes k ((s.slot k).earlier o.id) p.va p.size

/-- An operation whose mask is met does what its kind does (R181). -/
def State.beginKind (s : State) (k : Nat) (o : Op) : State :=
  match o.kind with
  | .load _ _ | .store _ | .fe _ | .atom _ | .vst => s.startParts k o.id
  | .vld dec => (if dec ∧ o.snap = none then s.releaseVldd k o else s).startParts k o.id
  | .cflush => s.beginCflush k o
  | .cinv => s.beginCinv k o
  | .smap i => s.beginSmap k o i
  | .sunmap i => s.beginSunmap k o i
  | .swb i => s.beginSwb k o i
  | .pref => s.beginPref k o
  | .fmtw => s.beginFmtw k o
  | .sfmt i => s.beginSfmt k o i
  | .mbxw n => s.beginMbxw k o n
  | .mbxwi n => s.beginMbxwi k o n
  | .mbxr n => s.beginMbxr k o n
  | .mbxt n => s.beginMbxt k o n
  | .semp n => s.beginSemp k o n
  | .semv n => s.beginSemv k o n
  | .qpush => s.beginQpush k o
  | .qpop => s.beginQpop k o
  | .wfe => s.beginWfe k o
  | .sev n => s.beginSev k o n
  | .bara sc n => s.beginBar k o sc n false
  | .barw sc n => s.beginBar k o sc n true
  | .barq n => s.beginBarq k o n
  | .tkget c => s.beginTkget k o c
  | .tkwait => s.beginTkwait k o
  | .tkdone c => s.beginTkdone k o c
  | .ctrb => s.beginCtrb k o
  | .ctres => s.beginCtres k o
  | .ctabt => s.beginCtabt k o
  | .spawn => s.beginSpawn k o
  | .migr => s
  | .ckpt => s.beginCkpt k o
  | .yield => s.performedNone k o
  | .matrix _ => s.beginMatrix k o
  | .copy _ => s.beginCopy k o

/-- Do an operation's byte ranges start one by one? -/
def OpKind.byParts : OpKind → Bool
  | .load _ _ | .store _ | .fe _ | .atom _ | .vst | .vld _ => true
  | _ => false

/-- An operation begins where its mask is met (R185) and no earlier operation overlaps it (R186); one behind a parked entry of its granule
is parked with it, with a message of its own where its own translation faults (R141). The odd core's channel state follows the even one's in a lock-step pair (R143). -/
def State.beginOp (s : State) (k id : Nat) : State :=
  match (s.slot k).op id with
  | none => s
  | some o =>
    if o.phase ≠ .held ∨ ¬(s.slot k).maskMet o then s
    else if o.kind.parks && o.parts.all (·.phase == .held) && (s.slot k).behindParked id o.a then
      (if 8 ≤ (s.slot k).replayQueue.length then s.stickOp k id
       else match s.opFault k o with
         | some e => s.parkOp k id o.a e
         | none => s.enterReplay k id)
    else if !o.kind.byParts && !s.partsFree k o then s
    else (s.beginKind k o).syncPair (coreOf k)

/-- Does an operation decode by a snapshot taken at its release point, or carry a token from then on: VLDD, matrix and copy commands (R208, R361, R382)? -/
def OpKind.snapshots : OpKind → Bool
  | .vld dec => dec
  | .matrix _ => true
  | .copy fn => fn != 3
  | _ => false

/-- The release point of such an operation. -/
def State.releaseOp (s : State) (k : Nat) (o : Op) : State :=
  match o.kind with
  | .vld true => if o.snap = none then s.releaseVldd k o else s
  | .matrix _ => s.beginMatrix k o
  | .copy fn => if fn = 3 then s else s.beginCopy k o
  | _ => s

/-- The release point of slot k's operation, where it has come: its mask is met (R208). Both cores of a lock-step pair take it together (R143). -/
def State.takeRelease (s : State) (k id : Nat) : State :=
  let go := fun (s : State) (k : Nat) => match (s.slot k).op id with
    | some o => s.releaseOp k o
    | none => s
  match (s.slot k).op id with
  | none => s
  | some o =>
    if o.phase ≠ .held ∨ !(s.slot k).maskMet o ∨ !o.kind.snapshots then s
    else if s.twins k = [k, k + 8] then s.joinPair k (go s k) (go s (k + 8))
    else go s k

/-- Has an operation of a thread come to a release point that it has not taken (R208)? -/
def Slot.releasable (t : Slot) (o : Op) : Bool :=
  o.phase == .held && t.maskMet o && o.kind.snapshots && (o.kind != .vld true || o.snap == none)

/-- The release points of a pre-empted crew's operations, each noted in its saved context (R91, R208). -/
def State.savedReleases (s : State) (c : Nat) : State :=
  match (s.core c).saved with
  | none => s
  | some sv =>
    if sv.crew.bind.lockstep && c % 2 == 1 then s
    else (sv.slots.zipIdx).foldl (fun s e => e.1.ops.foldl (fun s o =>
      if e.1.releasable o then
        let s := ((s.swapSaved c).takeRelease (c * 8 + e.2) o.id)
        let ks := s.twins (c * 8 + e.2)
        ks.foldl (fun s k => s.storeSaved (coreOf k) (slotOf k)) (s.swapSaved c)
      else s) s) s

/-- The release points that the last step has brought: each is in the step in which the last operation that the mask names performs (R208). -/
def State.takeReleases (s : State) : State :=
  s.cores.foldl (fun s e => s.savedReleases e.1) (s.slots.foldl (fun s e =>
    if (s.core (coreOf e.1)).crew.bind.lockstep && coreOf e.1 % 2 == 1 then s else e.2.ops.foldl (fun s o => s.takeRelease e.1 o.id) s) s)

/-- An operation that found its replay queue full begins again once an entry is free (R141). -/
def State.unstick (s : State) (k id : Nat) : State :=
  if ((s.slot k).op id).any (·.phase == .full) && (s.slot k).replayQueue.length < 8 then
    (s.twins k).foldl (fun s k => s.modSlot k fun t => t.modOp id fun o => { o with phase := .held }) s
  else s

/-- STREAM_RELEASE: an operation whose mask predecessors have performed goes on (R185); a job that is being switched begins none (R98).
Arguments: a the slot, b the operation. -/
def execStreamRelease (s : State) : Out :=
  let k := s.arg.a
  let go := fun (k : Nat) (s : State) => (s.unstick k s.arg.b).beginOp k s.arg.b
  if (s.gang (peerOfSlot k / 4) (s.slot k).job).phase.bars then s.idle
  else if s.twins k = [k, k + 8] then .next (s.joinPair k (go k s) (go (k + 8) s))
  else .next (go k s)

/-! ### Issuing (R114, R115, R181, R187) -/

/-- What an instruction gives its operation. -/
structure Issue where
  kind : OpKind
  st : BitVec 2
  pm : BitVec 4
  a : Word := 0
  b : Word := 0
  t : Word := 0
  vec : BitVec 512 := 0
  lanes : BitVec 16 := 0
  dest : Dest := .none
  flag : Option (BitVec 3) := none
  parts : List Part := []
  snap : Option (BitVec 64) := none
  held : Bool := false
  byReply : Bool := false

/-- The operation as it stands once it has issued. -/
def Slot.newOp (t : Slot) (i : Instr) (x : Issue) : Op :=
  { id := t.opId, kind := x.kind, word := encode i, stream := x.st, seq := (t.stream x.st.toNat).next, scope := (t.stream x.st.toNat).scope, mask := x.pm,
    need := t.needs, a := x.a, b := x.b, t := x.t, vec := x.vec, lanes := x.lanes, dest := x.dest, flag := x.flag, parts := x.parts, snap := x.snap }

/-- The thread after a stream operation's issue (R182, R185): it takes its number, its destination is pending, and it holds its thread or
the thread goes on. -/
def Slot.issueOp (t : Slot) (i : Instr) (x : Issue) : Slot :=
  let o := t.newOp i x
  let str := t.stream x.st.toNat
  let t := { t with ops := t.ops ++ [o], opId := t.opId + 1, streams := t.streams.set x.st.toNat { str with next := str.next + 1 } }
  let t := (t.mark x.dest true).markF x.flag true
  if x.held then { t with st := .wait, hold := if x.byReply then .reply o.id else .localOp o.id, issued := t.issued + 1, waited := 0 }
  else t.advance (ilen i)

/-- A full/empty operation takes its place in its quad's order of issue (R295); those that are no longer outstanding leave it. -/
def State.inOrder (s : State) (kind : OpKind) (k id : Nat) : State :=
  match kind with
  | .fe _ => s.modQuad (quadOf (coreOf k)) fun q => { q with feOrder := (q.feOrder.filter fun e => ((s.slot e.1).op e.2).isSome) ++ [(k, id)] }
  | _ => s

/-- A stream operation issues: it waits for room (R187), else it takes its number and begins where its mask is met. -/
def State.issueOp (s : State) (i : Instr) (x : Issue) : State :=
  if !s.me.hasRoom x.st.toNat then s.waitHere
  else
    let id := s.me.opId
    ((s.modMe fun t => t.issueOp i x).inOrder x.kind s.cur id).beginOp s.cur id

/-- The same with legality and pending registers first, then the traps that operand values raise (R136, R256). -/
def State.streamOp (s : State) (i : Instr) (u : Uses) (trap : State → Option State) (x : State → Issue) : Out :=
  s.issue i u fun s => match trap s with
    | some s' => s'
    | none => s.issueOp i (x s)

/-- No trap. -/
def noTrap : State → Option State := fun _ => none

/-! ### SCOPE_SET (R184) -/

/-- A stream's scope set (R184): neither its numbers nor its frontier change. -/
def Slot.setScope (t : Slot) (i : BitVec 2) (code : BitVec 3) : Slot :=
  { t with streams := t.streams.set i.toNat { t.stream i.toNat with scope := code } }

/-- SCOPE_SET: the window of the stream that a waiting MTS to sr.scfg names is 0; the scope is set and the thread goes on (R184).
Argument: a the slot. -/
def execScopeSet (s : State) : Out :=
  match (s.slot s.arg.a).hold with
  | .scope i code =>
    if (s.slot s.arg.a).st = .wait ∧ (s.slot s.arg.a).window i.toNat = 0 then
      .next ((s.twins s.arg.a).foldl (fun s k => s.modSlot k fun t => let t := (t.setScope i code).release; { t with issued := t.issued + 1 }) s)
    else s.idle
  | _ => s.idle

/-! ### WAIT_TIMEOUT (R142, R296, R318) -/

/-- The limit of a wait; 0 is taken as 1 (R123). -/
def Slot.limit (t : Slot) : Nat := max 1 t.wto.toNat

/-- A token that waits in its core's spill queue leaves it (R94, R142). -/
def State.unspill (s : State) (k id : Nat) : State :=
  let c := s.lead (coreOf k)
  let mine := fun (e : Spilled) => e.pkt.fn == taskMbox && e.pkt.src.toNat * 8192 + e.pkt.req.toNat == k && e.pkt.tag == tagOf id 0
  if ((s.slot k).op id).any (fun o => match o.kind with | .mbxwi _ => true | _ => false) && (s.core c).spill.any mine then
    s.setSpill c ((s.core c).spill.filter fun e => !mine e)
  else s

/-- A waiting operation withdrawn: it counts as performed, its destination keeps its value (R142, R296, R318). -/
def State.withdrawOp (s : State) (k id : Nat) : State :=
  let s := s.withdrawArrival k id
  let s := s.modCrew (coreOf k) fun c => { c with heldWrites := c.heldWrites.filter fun h => !(h.sender == k && h.opId == some id) }
  let s := s.unspill k id
  let s := s.modDie (peerOfSlot k) fun d => { d with walks := d.walks.filter fun w => !(w.slot == k && w.opId == id && w.part < 16) }
  s.modSlot k fun t => match t.op id with
    | some o => ((t.dropOp id).mark o.dest false).markF o.flag false
    | none => t

/-- The wait-timeout trap of one thread (R142). -/
def State.timeout (s : State) (k : Nat) : State :=
  let t := s.slot k
  let tr := fun (o : Option Op) => match o with
    | some o => ({ cause := 0x06, stream := o.stream, mask := o.mask, seq := o.seq } : Trap)
    | none => { cause := 0x06 }
  match t.hold with
  | .none => s
  | .reissue | .scope _ _ => s.takeTrap k (tr none) t.pc
  | .localOp id | .reply id =>
    let o := t.op id
    if t.waitIsLocal id then (s.withdrawOp k id).takeTrap k (tr o) t.pc
    else (s.modSlot k (·.release)).takeTrap k (tr o) ((s.slot k).release).pc

/-- The MIGR that a thread waits for, where its target has answered BUSY (R133). -/
def Slot.retrying (t : Slot) : Option Op :=
  t.ops.find? fun o => o.kind == .migr && o.phase == .waiting && (t.hold == .localOp o.id || t.hold == .reply o.id)

/-- Has what a thread waits for happened, so that only the reply or the release is still on its way to it (R142, R318)? Its operation has performed: an instruction
that has its value is not abandoned. -/
def State.waitOver (s : State) (k : Nat) : Bool :=
  let t := s.slot k
  match t.hold with
  | .localOp id => t.replies.any (fun r => r.wakes == some id) || s.releaseComing k id
  | _ => false

/-- WAIT_TIMEOUT: a thread whose wait has lasted sr.wto cycles takes the wait-timeout trap (R142). Argument: a the slot. -/
def execWaitTimeout (s : State) : Out :=
  let t := s.slot s.arg.a
  if t.st = .wait ∧ t.limit ≤ t.waited ∧ ¬s.waitOver s.arg.a then
    match t.retrying with
    -- a MIGR whose target has answered BUSY all this time goes on at its source (R133)
    | some o => .next (s.performed s.arg.a o { flag := o.flag.map fun f => (f, some false) })
    | none => .next ((s.twins s.arg.a).foldl (fun s k => s.timeout k) s)
  else s.idle

end Sys2Proof.Machine
end

