-- ==== Sys2Proof/Machine/LoadStore.lean ====
section
/-!
DEFINITION. Machine/LoadStore.lean: the meanings of scalar loads and stores, full/empty operations, atomics and the CMO group (R291 to R305).
-/
namespace Sys2Proof.Machine

/-- Does an access to a local address raise the translation trap of R148: a write or a full/empty or atomic operation on a read-only page,
or an address that the table of R147 does not list? -/
def State.localTrap (s : State) (va : Word) (changes : Bool) : Bool :=
  va.getLsbD 63 &&
    (match localPlace s.myCore va with
     | .stash _ _ => false
     | .page _ _ => changes
     | .nowhere => true)

/-- The traps of a scalar access of n bytes (R148, R149); the translation trap comes before misalignment (R136). -/
def accessTraps (va : Word) (n : Nat) (changes : Bool) (s : State) : Option State :=
  if s.localTrap va changes then some (s.trapHere 0x09 va)
  else if va.toNat % n ≠ 0 then some (s.trapHere 0x05 va)
  else none

/-- Will an access to a global address be parked: it is known to fault, or it goes behind a parked one of its granule (R141)? One whose page must be walked is
not known to. -/
def State.mayPark (s : State) (va : Word) (writes atHome : Bool) : Bool :=
  !va.getLsbD 63 &&
    (s.me.ops.any (fun o => o.phase == .parked && sameGranule o.a va) ||
      (match (if atHome then none else s.boundAt s.myCore va) with
       | some (i, _) => (bits va 57 6 : BitVec 6) != 0 || (writes && (s.region s.myCore i).ro)
       | none => match s.translate s.myCore s.me.job va writes false with
         | some (.error _) => true
         | _ => false))

/-- A scalar access issues. One that will be parked waits while its replay queue holds 8 entries (R141). -/
def State.access (s : State) (i : Instr) (regs : List (BitVec 5)) (flags : List (BitVec 3)) (va : State → Word) (n : Nat) (changes writes atHome : Bool)
    (x : State → Issue) : Out :=
  s.streamOp i { regs := regs, flags := flags }
    (fun s => match accessTraps (va s) n changes s with
      | some s' => some s'
      | none => if 8 ≤ s.me.replayQueue.length ∧ s.mayPark (va s) writes atHome then some s.waitHere else none) x

/-- The address of a scalar access (R291): ra + sext(off9) × n modulo 2^64. -/
def State.ea (s : State) (a : BitVec 5) (o : BitVec 9) (n : Nat) : Word := s.rd a + sx o * BitVec.ofNat 64 n

/-- A load of n bytes (R291, R292). -/
def State.loadInsn (s : State) (i : Instr) (t a : BitVec 5) (st : BitVec 2) (pm : BitVec 4) (o : BitVec 9) (n : Nat) (signed : Bool) : Out :=
  s.access i [t, a] [] (fun s => s.ea a o n) n false false false fun s =>
    { kind := .load n signed, st := st, pm := pm, a := s.ea a o n, dest := s.me.destOf t, parts := [{ va := s.ea a o n, size := n }] }

/-- A store of n bytes (R291, R292). -/
def State.storeInsn (s : State) (i : Instr) (t a : BitVec 5) (st : BitVec 2) (pm : BitVec 4) (o : BitVec 9) (n : Nat) : Out :=
  s.access i [t, a] [] (fun s => s.ea a o n) n true true false fun s =>
    { kind := .store n, st := st, pm := pm, a := s.ea a o n, t := s.rd t, parts := [{ va := s.ea a o n, size := n }] }

/-- A full/empty operation (R294, R295): LDFF and LDFE hold their thread, by a local condition at a stash, by a reply at a home. -/
def State.feInsn (s : State) (i : Instr) (fn : Nat) (regs : List (BitVec 5)) (dest : Option (BitVec 5)) (data : Option (BitVec 5)) (a : BitVec 5)
    (st : BitVec 2) (pm : BitVec 4) (flag : Option (BitVec 3)) : Out :=
  s.access i (a :: regs) flag.toList (fun s => s.rd a) 8 true (fn == 1 || fn == 2 || fn == 3 || fn == 5) true fun s =>
    { kind := .fe fn, st := st, pm := pm, a := s.rd a, t := (data.map s.rd).getD 0, dest := (dest.map s.me.destOf).getD .none, flag := flag,
      parts := [{ va := s.rd a, size := 8 }], held := fn == 0 || fn == 1, byReply := !(s.rd a).getLsbD 63 }

/-- An atomic (R297): `t` is CAS's compare value, `b` the operand. -/
def State.atomInsn (s : State) (i : Instr) (fn : Nat) (t a : BitVec 5) (st : BitVec 2) (pm : BitVec 4) (b : BitVec 5) : Out :=
  s.access i [t, a, b] [] (fun s => s.rd a) 8 true true true fun s =>
    { kind := .atom fn, st := st, pm := pm, a := s.rd a, b := s.rd b, t := s.rd t, dest := s.me.destOf t, parts := [{ va := s.rd a, size := 8 }] }

/-- LDB: loads a zero-extended byte (R291). -/
def execLdb (t a : BitVec 5) (st : BitVec 2) (p : BitVec 4) (o : BitVec 9) (s : State) : Out :=
  s.loadInsn (.ldb t a st p o) t a st p o 1 false

/-- LDBS: loads a sign-extended byte (R291). -/
def execLdbs (t a : BitVec 5) (st : BitVec 2) (p : BitVec 4) (o : BitVec 9) (s : State) : Out :=
  s.loadInsn (.ldbs t a st p o) t a st p o 1 true

/-- LDH: loads a zero-extended halfword (R291). -/
def execLdh (t a : BitVec 5) (st : BitVec 2) (p : BitVec 4) (o : BitVec 9) (s : State) : Out :=
  s.loadInsn (.ldh t a st p o) t a st p o 2 false

/-- LDHS: loads a sign-extended halfword (R291). -/
def execLdhs (t a : BitVec 5) (st : BitVec 2) (p : BitVec 4) (o : BitVec 9) (s : State) : Out :=
  s.loadInsn (.ldhs t a st p o) t a st p o 2 true

/-- LDW: loads a zero-extended word (R291). -/
def execLdw (t a : BitVec 5) (st : BitVec 2) (p : BitVec 4) (o : BitVec 9) (s : State) : Out :=
  s.loadInsn (.ldw t a st p o) t a st p o 4 false

/-- LDWS: loads a sign-extended word (R291). -/
def execLdws (t a : BitVec 5) (st : BitVec 2) (p : BitVec 4) (o : BitVec 9) (s : State) : Out :=
  s.loadInsn (.ldws t a st p o) t a st p o 4 true

/-- LDD: loads a doubleword (R291). -/
def execLdd (t a : BitVec 5) (st : BitVec 2) (p : BitVec 4) (o : BitVec 9) (s : State) : Out :=
  s.loadInsn (.ldd t a st p o) t a st p o 8 false

/-- STB: stores a byte (R291). -/
def execStb (t a : BitVec 5) (st : BitVec 2) (p : BitVec 4) (o : BitVec 9) (s : State) : Out :=
  s.storeInsn (.stb t a st p o) t a st p o 1

/-- STH: stores a halfword (R291). -/
def execSth (t a : BitVec 5) (st : BitVec 2) (p : BitVec 4) (o : BitVec 9) (s : State) : Out :=
  s.storeInsn (.sth t a st p o) t a st p o 2

/-- STW: stores a word (R291). -/
def execStw (t a : BitVec 5) (st : BitVec 2) (p : BitVec 4) (o : BitVec 9) (s : State) : Out :=
  s.storeInsn (.stw t a st p o) t a st p o 4

/-- STD: stores a doubleword (R291). -/
def execStd (t a : BitVec 5) (st : BitVec 2) (p : BitVec 4) (o : BitVec 9) (s : State) : Out :=
  s.storeInsn (.std t a st p o) t a st p o 8

/-- LDFF: waits for a full word, which stays full (R294). -/
def execLdff (t a : BitVec 5) (st : BitVec 2) (p : BitVec 4) (s : State) : Out :=
  s.feInsn (.ldff t a st p) 0 [t] (some t) none a st p none

/-- LDFE: waits for a full word and leaves it empty (R294). -/
def execLdfe (t a : BitVec 5) (st : BitVec 2) (p : BitVec 4) (s : State) : Out :=
  s.feInsn (.ldfe t a st p) 1 [t] (some t) none a st p none

/-- STEF: waits for an empty word, stores and fills it (R294). -/
def execStef (t a : BitVec 5) (st : BitVec 2) (p : BitVec 4) (s : State) : Out :=
  s.feInsn (.stef t a st p) 2 [t] none (some t) a st p none

/-- STFF: stores and fills the word at once (R294). -/
def execStff (t a : BitVec 5) (st : BitVec 2) (p : BitVec 4) (s : State) : Out :=
  s.feInsn (.stff t a st p) 3 [t] none (some t) a st p none

/-- LDXX: reads the word and the bit before, waiting for nothing (R294). -/
def execLdxx (t a : BitVec 5) (st : BitVec 2) (p : BitVec 4) (f : BitVec 3) (s : State) : Out :=
  s.feInsn (.ldxx t a st p f) 4 [t] (some t) none a st p (some f)

/-- SETE: empties the word (R294). -/
def execSete (a : BitVec 5) (st : BitVec 2) (p : BitVec 4) (s : State) : Out :=
  s.feInsn (.sete a st p) 5 [] none none a st p none

/-- AADD: adds; rt := the old word (R297). -/
def execAadd (t a : BitVec 5) (st : BitVec 2) (p : BitVec 4) (b : BitVec 5) (s : State) : Out :=
  s.atomInsn (.aadd t a st p b) 0 t a st p b

/-- AAND: ands; rt := the old word (R297). -/
def execAand (t a : BitVec 5) (st : BitVec 2) (p : BitVec 4) (b : BitVec 5) (s : State) : Out :=
  s.atomInsn (.aand t a st p b) 1 t a st p b

/-- AOR: ors; rt := the old word (R297). -/
def execAor (t a : BitVec 5) (st : BitVec 2) (p : BitVec 4) (b : BitVec 5) (s : State) : Out :=
  s.atomInsn (.aor t a st p b) 2 t a st p b

/-- AXOR: exclusive-ors; rt := the old word (R297). -/
def execAxor (t a : BitVec 5) (st : BitVec 2) (p : BitVec 4) (b : BitVec 5) (s : State) : Out :=
  s.atomInsn (.axor t a st p b) 3 t a st p b

/-- AMIN: keeps the signed lesser; rt := the old word (R297). -/
def execAmin (t a : BitVec 5) (st : BitVec 2) (p : BitVec 4) (b : BitVec 5) (s : State) : Out :=
  s.atomInsn (.amin t a st p b) 4 t a st p b

/-- AMAX: keeps the signed greater; rt := the old word (R297). -/
def execAmax (t a : BitVec 5) (st : BitVec 2) (p : BitVec 4) (b : BitVec 5) (s : State) : Out :=
  s.atomInsn (.amax t a st p b) 5 t a st p b

/-- AMINN: keeps the unsigned lesser; rt := the old word (R297). -/
def execAminn (t a : BitVec 5) (st : BitVec 2) (p : BitVec 4) (b : BitVec 5) (s : State) : Out :=
  s.atomInsn (.aminn t a st p b) 6 t a st p b

/-- AMAXN: keeps the unsigned greater; rt := the old word (R297). -/
def execAmaxn (t a : BitVec 5) (st : BitVec 2) (p : BitVec 4) (b : BitVec 5) (s : State) : Out :=
  s.atomInsn (.amaxn t a st p b) 7 t a st p b

/-- ASWAP: swaps in rb; rt := the old word (R297). -/
def execAswap (t a : BitVec 5) (st : BitVec 2) (p : BitVec 4) (b : BitVec 5) (s : State) : Out :=
  s.atomInsn (.aswap t a st p b) 8 t a st p b

/-- CAS: stores rb where the word is rt; rt := the old word (R297). -/
def execCas (t a : BitVec 5) (st : BitVec 2) (p : BitVec 4) (b : BitVec 5) (s : State) : Out :=
  s.atomInsn (.cas t a st p b) 9 t a st p b

/-- AFADD: adds two FP32 lanes (R298); rt := the old word (R297). -/
def execAfadd (t a : BitVec 5) (st : BitVec 2) (p : BitVec 4) (b : BitVec 5) (s : State) : Out :=
  s.atomInsn (.afadd t a st p b) 10 t a st p b

/-! ### The CMO group (R300 to R305) -/

/-- The local byte range of a region of the own stash (R147, R156). -/
def regionPart (n : BitVec 3) : Part := { va := 0x8000_0000_0000_0000 + BitVec.ofNat 64 (n.toNat * 0x8000), size := 0x8000 }

/-- The byte range of a CFLUSH or CINV (R301). -/
def rangePart (a b : Word) : Part := { va := a, size := if a.getLsbD 63 then 0 else (bits b 0 32 : BitVec 32).toNat }

/-- CFLUSH (R301). -/
def execCflush (a : BitVec 5) (st : BitVec 2) (p : BitVec 4) (b : BitVec 5) (s : State) : Out :=
  s.streamOp (.cflush a st p b) { regs := [a, b] } noTrap fun s =>
    { kind := .cflush, st := st, pm := p, a := s.rd a, b := s.rd b, parts := [rangePart (s.rd a) (s.rd b)] }

/-- CINV (R301). -/
def execCinv (a : BitVec 5) (st : BitVec 2) (p : BitVec 4) (b : BitVec 5) (s : State) : Out :=
  s.streamOp (.cinv a st p b) { regs := [a, b] } noTrap fun s =>
    { kind := .cinv, st := st, pm := p, a := s.rd a, b := s.rd b, parts := [rangePart (s.rd a) (s.rd b)] }

/-- The range that region i of the own core will be bound to once the thread's own outstanding SMAPs and SUNMAPs have performed, none where it will be plain
(R157, R186, R302). -/
def State.boundThen (s : State) (i : Nat) : Option Nat :=
  match s.me.ops.reverse.find? fun o => o.kind == .smap i || o.kind == .sunmap i with
  | some o => if o.kind == .smap i then some ((bits o.a 0 57 : BitVec 57).toNat / 0x8000) else none
  | none => if (s.region s.myCore i).bound then some ((s.region s.myCore i).base.toNat / 0x8000) else none

/-- SMAP (R157): illegal where the range is bound to another region or its page has nc = 1, misaligned off 32 KiB. -/
def execSmap (n : BitVec 3) (a : BitVec 5) (st : BitVec 2) (p : BitVec 4) (s : State) : Out :=
  s.streamOp (.smap n a st p) { regs := [a] } (fun s =>
    let va := s.rd a
    let nc : Bool := !va.getLsbD 63 && (match s.translateNow s.myCore s.me.job va false with
      | .ok l => l.nc
      | .error _ => false)
    if (!va.getLsbD 63 && (List.range 8).any fun i => i != n.toNat && s.boundThen i == some ((bits va 0 57 : BitVec 57).toNat / 0x8000)) || nc then some (s.illegal (.smap n a st p))
    else if va.toNat % 0x8000 ≠ 0 then some (s.trapHere 0x05 va)
    else if 8 ≤ s.me.replayQueue.length ∧ s.mayPark va false true then some s.waitHere
    else none) fun s =>
    { kind := .smap n.toNat, st := st, pm := p, a := s.rd a, parts := [regionPart n, { lane := 1, va := s.rd a, size := 0x8000 }] }

/-- SUNMAP (R302). -/
def execSunmap (n : BitVec 3) (st : BitVec 2) (p : BitVec 4) (s : State) : Out :=
  s.streamOp (.sunmap n st p) {} noTrap fun _ => { kind := .sunmap n.toNat, st := st, pm := p, a := (regionPart n).va, parts := [regionPart n] }

/-- SWB (R302). -/
def execSwb (n : BitVec 3) (st : BitVec 2) (p : BitVec 4) (s : State) : Out :=
  s.streamOp (.swb n st p) {} noTrap fun _ => { kind := .swb n.toNat, st := st, pm := p, a := (regionPart n).va, parts := [regionPart n] }

/-- An operation that performs at its issue, whatever its mask (R189, R333, R348). -/
def State.issueNow (s : State) (i : Instr) (x : Issue) (f : State → Op → State) : State :=
  if !s.me.hasRoom x.st.toNat then s.waitHere
  else
    let id := s.me.opId
    let s := s.modMe fun t => t.issueOp i x
    match (s.slot s.cur).op id with
    | some o => (f s o).performedNone s.cur o
    | none => s

/-- PREF: a hint to the quad cache (R304). -/
def execPref (a : BitVec 5) (st : BitVec 2) (p : BitVec 4) (s : State) : Out :=
  s.issue (.pref a st p) { regs := [a] } fun s =>
    s.issueNow (.pref a st p) { kind := .pref, st := st, pm := p, a := s.rd a } fun s o => s.prefetch s.cur o

/-- FMTW: a descriptor of the job's table (R305). -/
def execFmtw (t a : BitVec 5) (st : BitVec 2) (p : BitVec 4) (s : State) : Out :=
  let entry := fun (s : State) => fmtAddr ((s.die s.myPeer).jfmt.get 0 s.me.job.toNat) (bits (s.rd a) 0 6 : BitVec 6).toNat
  s.streamOp (.fmtw t a st p) { regs := [t, a] } (fun s =>
    if !((s.die s.myPeer).jfmt.get 0 s.me.job.toNat).getLsbD 63 then some (s.trapHere 0x07 0 (fmtDetail (bits (s.rd a) 0 6) 2))
    else if 8 ≤ s.me.replayQueue.length ∧ s.mayPark (entry s) true true then some s.waitHere
    else none) fun s =>
    { kind := .fmtw, st := st, pm := p, a := entry s, b := s.rd a, t := s.rd t, parts := [{ va := entry s, size := 8 }] }

/-- SFMT: the format index of a plain region (R303). -/
def execSfmt (n : BitVec 3) (a : BitVec 5) (st : BitVec 2) (p : BitVec 4) (s : State) : Out :=
  s.streamOp (.sfmt n a st p) { regs := [a] } (fun s =>
    if (s.boundThen n.toNat).isSome then some (s.illegal (.sfmt n a st p)) else none) fun s =>
    { kind := .sfmt n.toNat, st := st, pm := p, a := s.rd a, parts := [regionPart n] }

end Sys2Proof.Machine
end

