-- ==== Sys2Proof/Machine/SyncOps.lean ====
section
/-!
DEFINITION. Machine/SyncOps.lean: the meanings of the MBX, SYNC, FAB and TASK groups (R306 to R334): how each issues. What they do once
their mask is met stands in Channel, Barrier, Fabric and Task.
-/
namespace Sys2Proof.Machine

/-! ### MBX (R306 to R315) -/

/-- MBXW: a value to a mailbox; the thread is held until the target accepts it (R307). -/
def execMbxw (n : BitVec 3) (a b : BitVec 5) (p : BitVec 4) (st : BitVec 2) (s : State) : Out :=
  s.streamOp (.mbxw n a b p st) { regs := [a, b] } noTrap fun s =>
    { kind := .mbxw n.toNat, st := st, pm := p, a := s.rd a, b := s.rd b, held := true, byReply := !s.ownCore s.cur (s.rd a) }

/-- MBXWI: the stream token to a mailbox of the own core (R308). -/
def execMbxwi (n : BitVec 3) (p : BitVec 4) (st : BitVec 2) (s : State) : Out :=
  s.streamOp (.mbxwi n p st) {} noTrap fun _ => { kind := .mbxwi n.toNat, st := st, pm := p, held := true }

/-- MBXR: waits for a full mailbox (R309). -/
def execMbxr (d : BitVec 5) (n : BitVec 3) (p : BitVec 4) (st : BitVec 2) (s : State) : Out :=
  s.streamOp (.mbxr d n p st) { regs := [d] } noTrap fun s =>
    { kind := .mbxr n.toNat, st := st, pm := p, t := (s.core s.myCore).cycle, dest := s.me.destOf d, held := true }

/-- MBXT: reads a mailbox without waiting (R309). -/
def execMbxt (d : BitVec 5) (f n : BitVec 3) (p : BitVec 4) (st : BitVec 2) (s : State) : Out :=
  s.streamOp (.mbxt d f n p st) { regs := [d], flags := [f] } noTrap fun s =>
    { kind := .mbxt n.toNat, st := st, pm := p, dest := s.me.destOf d, flag := some f }

/-- SEMP: waits for a nonzero semaphore and takes one (R311). -/
def execSemp (d : BitVec 5) (n : BitVec 3) (p : BitVec 4) (st : BitVec 2) (s : State) : Out :=
  s.streamOp (.semp d n p st) { regs := [d] } noTrap fun s =>
    { kind := .semp n.toNat, st := st, pm := p, t := (s.core s.myCore).cycle, dest := s.me.destOf d, held := true }

/-- SEMV: adds one to a semaphore (R311). -/
def execSemv (n : BitVec 3) (p : BitVec 4) (st : BitVec 2) (s : State) : Out :=
  s.streamOp (.semv n p st) {} noTrap fun _ => { kind := .semv n.toNat, st := st, pm := p }

/-- QPUSH: appends to a core queue (R313). -/
def execQpush (f : BitVec 3) (a b : BitVec 5) (p : BitVec 4) (st : BitVec 2) (s : State) : Out :=
  s.streamOp (.qpush f a b p st) { regs := [a, b], flags := [f] } noTrap fun s =>
    { kind := .qpush, st := st, pm := p, a := s.rd a, b := s.rd b, flag := some f }

/-- QPOP: takes the oldest entry of the own core queue (R313). -/
def execQpop (d : BitVec 5) (f : BitVec 3) (p : BitVec 4) (st : BitVec 2) (s : State) : Out :=
  s.streamOp (.qpop d f p st) { regs := [d], flags := [f] } noTrap fun s =>
    { kind := .qpop, st := st, pm := p, dest := s.me.destOf d, flag := some f }

/-- WFE: waits for the slot's event latch (R315). -/
def execWfe (p : BitVec 4) (st : BitVec 2) (s : State) : Out :=
  s.streamOp (.wfe p st) {} noTrap fun _ => { kind := .wfe, st := st, pm := p, held := true }

/-- SEV: sets a slot's event latch (R315). -/
def execSev (n : BitVec 3) (a : BitVec 5) (p : BitVec 4) (st : BitVec 2) (s : State) : Out :=
  s.streamOp (.sev n a p st) { regs := [a] } noTrap fun s => { kind := .sev n.toNat, st := st, pm := p, a := s.rd a }

/-! ### SYNC (R316 to R321) -/

/-- BARA: arrives at a named barrier and goes on (R317). -/
def execBara (c : BitVec 3) (a : BitVec 5) (b : BitVec 4) (p : BitVec 4) (st : BitVec 2) (s : State) : Out :=
  s.streamOp (.bara c a b p st) { regs := [a] } noTrap fun s =>
    { kind := .bara c.toNat b.toNat, st := st, pm := p, a := s.rd a }

/-- BARW: arrives at a named barrier and waits for the phase (R317, R318). -/
def execBarw (c : BitVec 3) (a : BitVec 5) (b : BitVec 4) (p : BitVec 4) (st : BitVec 2) (s : State) : Out :=
  s.streamOp (.barw c a b p st) { regs := [a] } noTrap fun s =>
    { kind := .barw c.toNat b.toNat, st := st, pm := p, a := s.rd a, held := true }

/-- BARQ: arrives at a quad barrier and waits (R319). -/
def execBarq (a : BitVec 5) (b : BitVec 2) (p : BitVec 4) (st : BitVec 2) (s : State) : Out :=
  s.streamOp (.barq a b p st) { regs := [a] } noTrap fun s =>
    { kind := .barq b.toNat, st := st, pm := p, a := s.rd a, held := true }

/-! ### FAB (R322 to R329) -/

/-- TKGET: takes a ticket (R323). -/
def execTkgetInsn (d a : BitVec 5) (c : BitVec 4) (p : BitVec 4) (st : BitVec 2) (s : State) : Out :=
  s.streamOp (.tkgetInsn d a c p st) { regs := [d, a] } noTrap fun s =>
    { kind := .tkget c.toNat, st := st, pm := p, a := s.rd a, dest := s.me.destOf d }

/-- TKWAIT: waits until a ticket is called (R324). -/
def execTkwait (a : BitVec 5) (p : BitVec 4) (st : BitVec 2) (s : State) : Out :=
  s.streamOp (.tkwait a p st) { regs := [a] } noTrap fun s => { kind := .tkwait, st := st, pm := p, a := s.rd a, held := true, byReply := true }

/-- TKDONE: one ticket of a class is done (R325). -/
def execTkdoneInsn (a : BitVec 5) (c : BitVec 4) (p : BitVec 4) (st : BitVec 2) (s : State) : Out :=
  s.streamOp (.tkdoneInsn a c p st) { regs := [a] } noTrap fun s => { kind := .tkdone c.toNat, st := st, pm := p, a := s.rd a }

/-- CTRB: contributes to a collective (R327). -/
def execCtrb (a b : BitVec 5) (p : BitVec 4) (st : BitVec 2) (s : State) : Out :=
  s.streamOp (.ctrb a b p st) { regs := [a, b] } noTrap fun s => { kind := .ctrb, st := st, pm := p, a := s.rd a, b := s.rd b }

/-- CTRES: the outcome of a collective (R328). -/
def execCtres (d a : BitVec 5) (f : BitVec 3) (p : BitVec 4) (st : BitVec 2) (s : State) : Out :=
  s.streamOp (.ctres d a f p st) { regs := [d, a], flags := [f] } noTrap fun s =>
    { kind := .ctres, st := st, pm := p, a := s.rd a, dest := s.me.destOf d, flag := some f }

/-- CTABT: asks for the abort of a collective (R329). -/
def execCtabtInsn (a : BitVec 5) (p : BitVec 4) (st : BitVec 2) (s : State) : Out :=
  s.streamOp (.ctabtInsn a p st) { regs := [a] } noTrap fun s => { kind := .ctabt, st := st, pm := p, a := s.rd a }

/-! ### TASK (R330 to R334) -/

/-- SPAWN: a new thread on a core, with w16 to w19 as its arguments (R331). -/
def execSpawn (f : BitVec 3) (a b : BitVec 5) (p : BitVec 4) (st : BitVec 2) (s : State) : Out :=
  s.streamOp (.spawn f a b p st) { regs := [a, b, 24, 25, 26, 27], flags := [f] } noTrap fun s =>
    { kind := .spawn, st := st, pm := p, a := s.rd a, b := s.rd b, flag := some f,
      vec := (s.me.w 19 ++ s.me.w 18 ++ s.me.w 17 ++ s.me.w 16).setWidth 512 }

/-- Every resident frame but the current one spilled (R119, R133). -/
def State.spillAll : Nat → State → Spill
  | 0, s => .ok s
  | n + 1, s =>
    if s.me.resident.toNat ≤ 1 then .ok s
    else match s.spill with
      | .ok s => State.spillAll n s
      | x => x

/-- MIGR: moves the thread toward the home of an address (R133, R332). The frames are spilled as it issues; MIGR_SEND sends it. -/
def execMigr (f : BitVec 3) (a : BitVec 5) (p : BitVec 4) (st : BitVec 2) (s : State) : Out :=
  s.issue (.migr f a p st) { regs := [a], flags := [f] } fun s =>
    if s.me.loops ≠ [] || (s.rd a).getLsbD 63 then s.illegal (.migr f a p st)
    else if !s.me.hasRoom st.toNat || (8 ≤ s.me.replayQueue.length && s.mayPark (s.rd a) false true) then s.waitHere
    else match State.spillAll 7 s with
      | .waits => s.waitHere
      | .traps c v => s.trapHere c v
      | .ok s => s.issueOp (.migr f a p st) { kind := .migr, st := st, pm := p, a := s.rd a, flag := some f, held := true }

/-- EXIT: a stream operation, which takes its number and performs at its issue; then the slot drains (R134, R181, R182, R187, R333; log entry 31). -/
def execExit (p : BitVec 4) (st : BitVec 2) (s : State) : Out :=
  s.issue (.exit p st) {} fun s =>
    if s.me.hasRoom st.toNat then
      s.modMe fun t =>
        let str := t.stream st.toNat
        { t with st := .exiting, hold := .none, waited := 0, issued := t.issued + 1, streams := t.streams.set st.toNat { str with next := str.next + 1 } }
    else s.waitHere

/-- YIELD: performs at its issue; the slot is not ready for its next turn (R134, R333). -/
def execYield (p : BitVec 4) (st : BitVec 2) (s : State) : Out :=
  s.issue (.yield p st) {} fun s =>
    if s.me.hasRoom st.toNat then
      (s.issueNow (.yield p st) { kind := .yield, st := st, pm := p } fun s _ => s).modMe fun t => { t with skip := true }
    else s.waitHere

/-- CKPT: the slot's context goes to the own stash as its checkpoint (R143, R334). -/
def execCkpt (a : BitVec 5) (p : BitVec 4) (st : BitVec 2) (s : State) : Out :=
  s.streamOp (.ckpt a p st) { regs := [a] } (fun s =>
    if (ckptPlace s.myCore (s.rd a)).isNone then some (s.trapHere 0x09 (s.rd a))
    else if (s.rd a).toNat % 64 ≠ 0 then some (s.trapHere 0x05 (s.rd a))
    else none) fun s => { kind := .ckpt, st := st, pm := p, a := s.rd a, held := true }

end Sys2Proof.Machine
end

