-- ==== Sys2Proof/Machine/EngineOps.lean ====
section
/-!
DEFINITION. Machine/EngineOps.lean: how matrix and copy commands issue (R116, R359 to R361, R380, R385). Engine and Copy say what they do.
-/
namespace Sys2Proof.Machine

/-- A command issues from its slot (R116, R359): illegal first, then the illegal-engine trap, then the registers it needs, then room in its
queue and its stream; it takes its number, its destination is pending, and `put` enters it in its queue (R360). -/
def State.engineOp (s : State) (i : Instr) (slot : Nat) (d : BitVec 5) (v : BitVec 4) (room : State → Bool) (x : Issue) (put : State → Op → State) : Out :=
  if !wellFormed i then .next (s.illegal i)
  else if slotOf s.cur ≠ slot then .next (s.trapHere 0x02 0 (zx (encode i)))
  else
    s.issue i { regs := [d], vecs := [v.toNat] } fun s =>
      if !room s || !s.me.hasRoom x.st.toNat then s.waitHere
      else
        let id := s.me.opId
        let s := s.modMe fun t => t.issueOp i x
        match (s.slot s.cur).op id with
        | some o => (put s o).beginOp s.cur id
        | none => s

/-- A matrix command: into the core's dispatch queue of four entries (R360, R361). -/
def State.matrixOp (s : State) (i : Instr) (fn : Nat) (d : BitVec 5) (v : BitVec 4) (st : BitVec 2) (p : BitVec 4) : Out :=
  s.engineOp i 6 d v (fun s => s.crew.matrix.length < 4)
    { kind := .matrix fn, st := st, pm := p, vec := s.me.v v.toNat, dest := s.me.destOf d } fun s o =>
    s.modCrew s.myCore fun c => { c with matrix := c.matrix ++ [{ slot := s.cur, op := o }] }

/-- A copy command: into the queue of four of the channel it names (R360, R380); CPYK passes its channel's queue by (R385). -/
def State.copyOp (s : State) (i : Instr) (fn : Nat) (d : BitVec 5) (v : BitVec 4) (st : BitVec 2) (p : BitVec 4) : Out :=
  s.engineOp i 7 d v (fun s => fn == 3 || (s.channel s.myCore ((lane (s.me.v v.toNat) 6).toNat % 4)).queue.length < 4)
    { kind := .copy fn, st := st, pm := p, vec := s.me.v v.toNat, dest := s.me.destOf d } fun s o =>
    if fn = 3 then s
    else s.modChannel s.myCore o.chan fun c => { c with queue := c.queue ++ [{ op := o, slot := s.cur }] }

/-- MOPEN: opens a tile (R370). -/
def execMopen (d : BitVec 5) (v : BitVec 4) (st : BitVec 2) (p : BitVec 4) (s : State) : Out :=
  s.matrixOp (.mopen d v st p) 0 d v st p

/-- MMA: contributes A × B (R371). -/
def execMma (d : BitVec 5) (v : BitVec 4) (st : BitVec 2) (p : BitVec 4) (s : State) : Out :=
  s.matrixOp (.mma d v st p) 1 d v st p

/-- MMAS: contributes a sparse product (R372). -/
def execMmas (d : BitVec 5) (v : BitVec 4) (st : BitVec 2) (p : BitVec 4) (s : State) : Out :=
  s.matrixOp (.mmas d v st p) 2 d v st p

/-- MMAW: contributes a windowed product (R373). -/
def execMmaw (d : BitVec 5) (v : BitVec 4) (st : BitVec 2) (p : BitVec 4) (s : State) : Out :=
  s.matrixOp (.mmaw d v st p) 3 d v st p

/-- MROT: contributes and sends A and B on (R374). -/
def execMrot (d : BitVec 5) (v : BitVec 4) (st : BitVec 2) (p : BitVec 4) (s : State) : Out :=
  s.matrixOp (.mrot d v st p) 4 d v st p

/-- MCONT: contributes an array of a stash (R375). -/
def execMcont (d : BitVec 5) (v : BitVec 4) (st : BitVec 2) (p : BitVec 4) (s : State) : Out :=
  s.matrixOp (.mcont d v st p) 5 d v st p

/-- MFWD: contributes to any tile (R376). -/
def execMfwd (d : BitVec 5) (v : BitVec 4) (st : BitVec 2) (p : BitVec 4) (s : State) : Out :=
  s.matrixOp (.mfwd d v st p) 6 d v st p

/-- MREAD: reads a tile (R377). -/
def execMread (d : BitVec 5) (v : BitVec 4) (st : BitVec 2) (p : BitVec 4) (s : State) : Out :=
  s.matrixOp (.mread d v st p) 7 d v st p

/-- MQRY: reports a descriptor (R378). -/
def execMqry (d : BitVec 5) (v : BitVec 4) (st : BitVec 2) (p : BitVec 4) (s : State) : Out :=
  s.matrixOp (.mqry d v st p) 8 d v st p

/-- MABN: abandons a tile (R379). -/
def execMabn (d : BitVec 5) (v : BitVec 4) (st : BitVec 2) (p : BitVec 4) (s : State) : Out :=
  s.matrixOp (.mabn d v st p) 9 d v st p

/-- MCLOSE: closes a tile (R379). -/
def execMclose (d : BitVec 5) (v : BitVec 4) (st : BitVec 2) (p : BitVec 4) (s : State) : Out :=
  s.matrixOp (.mclose d v st p) 10 d v st p

/-- MFLG: reports flags and counts (R378). -/
def execMflg (d : BitVec 5) (v : BitVec 4) (st : BitVec 2) (p : BitVec 4) (s : State) : Out :=
  s.matrixOp (.mflg d v st p) 11 d v st p

/-- CPY: copies bytes (R383). -/
def execCpy (d : BitVec 5) (v : BitVec 4) (st : BitVec 2) (p : BitVec 4) (s : State) : Out :=
  s.copyOp (.cpy d v st p) 0 d v st p

/-- CPY2: copies a tile with its halo (R383). -/
def execCpy2 (d : BitVec 5) (v : BitVec 4) (st : BitVec 2) (p : BitVec 4) (s : State) : Out :=
  s.copyOp (.cpy2 d v st p) 1 d v st p

/-- CPYF: fills bytes (R383). -/
def execCpyf (d : BitVec 5) (v : BitVec 4) (st : BitVec 2) (p : BitVec 4) (s : State) : Out :=
  s.copyOp (.cpyf d v st p) 2 d v st p

/-- CPYK: stops a channel (R385). -/
def execCpyk (d : BitVec 5) (v : BitVec 4) (st : BitVec 2) (p : BitVec 4) (s : State) : Out :=
  s.copyOp (.cpyk d v st p) 3 d v st p

end Sys2Proof.Machine
end

