-- ==== Sys2Proof/Machine/System.lean ====
section
/-!
DEFINITION. Machine/System.lean: the SYS group (R280 to R289): special registers (R123, R183, R184, R253 to R255), TRAP, BKPT, HALT, NOP
and the supervisor's service calls.
-/
namespace Sys2Proof.Machine

/-! ### Special registers read (R123, R183, R254, R255) -/

/-- sr.sout of stream i (R183). -/
def Slot.sout (t : Slot) (i : Nat) : Word :=
  (0 : BitVec 48) ++ BitVec.ofNat 8 t.windows ++ b1 (t.ops.any fun o => o.stream.toNat == i && o.phase == .parked) ++ BitVec.ofNat 7 (t.window i)

/-- Dword j of a bind record (R86): the entry of core c. -/
def State.bindDword (s : State) (c j : Nat) : Word :=
  let x := s.core c
  let b := x.crew.bind
  -- both entries of a lock-step pair count the pair's threads
  let live := if b.lockstep then (s.core (c / 2 * 2)).crew.bind.live else b.live
  if j = 3 then b.entry
  else if j = 2 then b.consts
  else if j = 1 then b.parcel ++ b.job ++ b.prio ++ b.mask ++ b1 b.lockstep ++ b1 b.rerun ++ b.lslot
  else live ++ (0 : BitVec 2) ++ b.stash ++ (0 : BitVec 25) ++ b1 x.saved.isSome ++ b1 b.valid

/-- The table entry that sr.ptsel names, where it names one: its value, its width and whether it may be written (R255). -/
def State.tableEntry (s : State) (peer : Nat) (sel : Word) : Option (Word × Nat × Bool) :=
  let d := s.die peer
  let i := (bits sel 0 32 : BitVec 32).toNat
  let id := (bits sel 56 8 : BitVec 8).toNat
  if id = 0 then (if i < 8192 then some (zx (d.peerState.get 0 i), 2, true) else none)
  else if id = 1 then (if i < 4096 then some (zx (d.jobPart.get 0 i), 4, true) else none)
  else if id = 2 then (if i < 2048 then some (d.partMap.get 0 i, 64, true) else none)
  else if id = 3 then
    (if i < 16 then let t := d.tickets.get {} i; some (zx (t.job ++ b1 t.en ++ t.rows), 29, true) else none)
  else if id = 4 then (if i < 16 then let t := d.tickets.get {} i; some (t.next ++ t.done, 64, false) else none)
  else if id = 5 then (if i < 256 then some (zx (d.remapOf i), 16, false) else none)
  else if id = 6 then (if i < 4096 then some (s.bindDword (peer * 1024 + i / 4) (i % 4), 64, false) else none)
  else if id = 7 then (if i < 32 then some (zx (d.owners.get 0 i), 13, true) else none)
  else none

/-- A privileged register as the supervisor core reads it; none where no such number is listed (R254). -/
def State.privRead (s : State) (n : Nat) : Option Word :=
  let t := s.me
  let d := s.die s.myPeer
  let j := t.jsel.toNat
  if n = 0x200 then some t.jsel
  else if n = 0x201 then some (d.jroot.get 0 j)
  else if n = 0x202 then some (d.jfmt.get 0 j)
  else if n = 0x203 then some (d.jflaga.get 0 j)
  else if n = 0x204 then some (d.jsave.get 0 j)
  else if n = 0x210 then some d.supcore
  else if n = 0x211 then some d.prbase
  else if n = 0x212 then some d.tmbase
  else if n = 0x213 then some d.tmcnt
  else if n = 0x214 then some d.tmrd
  else if n = 0x220 then some t.ptsel
  else if n = 0x221 then (s.tableEntry s.myPeer t.ptsel).map (·.1)
  else none

/-- A special register as MFS reads it at issue; none is the illegal-instruction trap (R123, R253). -/
def State.sreg (s : State) (n : Nat) : Option Word :=
  let t := s.me
  let c := s.myCore
  let x := s.crew
  let count := fun (i : Nat) => match t.loops[i]? with
    | some l => l.count
    | none => 0
  if 0x200 ≤ n then (if n < 0x300 ∧ s.isSup c then s.privRead n else none)
  else if n = 0 then some (BitVec.ofNat 64 (slotOf s.cur))
  else if n = 1 then some (BitVec.ofNat 64 (c % 4))
  else if n = 2 then some (BitVec.ofNat 64 (quadNo s.myQuad))
  else if n = 3 then some (BitVec.ofNat 64 (s.myPeer % 4))
  else if n = 4 then some (zx (s.pkg (pkgOf s.myPeer)).pkgid)
  else if n = 5 then some (zx t.job)
  else if n = 6 then some (zx t.par.parcel)
  else if n = 8 then some t.par.org0
  else if n = 9 then some t.par.org1
  else if n = 0xA then some t.par.org2
  else if n = 0xC then some t.par.len0
  else if n = 0xD then some t.par.len1
  else if n = 0xE then some t.par.len2
  else if n = 0x40 then some (zx t.fcr)
  else if n = 0x41 then some (zx t.fsf)
  else if n = 0x42 then some (zx t.wto)
  else if n = 0x43 then some t.ssp
  else if n = 0x44 then some (zx (t.resident ++ t.wdepth))
  else if n = 0x45 then some (zx t.flags)
  else if n = 0x46 then some (count 0)
  else if n = 0x47 then some (count 1)
  else if n = 0x48 then some (s.core c).cycle
  else if 0x80 ≤ n ∧ n < 0x90 then
    let i := (n - 0x80) / 4
    let k := n % 4
    some (if k = 0 then zx (t.stream i).scope else if k = 1 then zx (t.stream i).next else if k = 2 then zx (t.front i) else t.sout i)
  else if n = 0xC0 then some (zx x.mbFull)
  else if n = 0xC1 then some ((List.range 8).foldl (fun w i => w ||| (zx (x.sems.get 0 i) <<< (8 * i))) 0)
  else if 0x100 ≤ n ∧ n < 0x104 then some (x.channels.get {} (n - 0x100)).cpwp
  else if n = 0x140 then
    let j := (s.die s.myPeer).jfmt.get 0 t.job.toNat
    some (if j.getLsbD 63 then zx (bits j 9 48 : BitVec 48) <<< 9 else 0)
  else if n = 0x180 then some t.droop
  else if n = 0x181 then some t.issued
  else if n = 0x182 then some t.waits
  else none

/-- f0 to f7. -/
def allFlags : List (BitVec 3) := (List.range 8).map (BitVec.ofNat 3)

/-- The flags that an access to a special register reads or writes (R115, R280). -/
def sregFlags (n : BitVec 12) : List (BitVec 3) := if n = 0x45 then allFlags else []

/-- MFS (R280). -/
def execMfs (d : BitVec 5) (n : BitVec 12) (s : State) : Out :=
  s.issue (.mfs d n) { regs := [d], flags := sregFlags n } fun s =>
    match s.sreg n.toNat with
    | none => s.illegal (.mfs d n)
    | some v => (s.wr d v).done (.mfs d n)

/-! ### Special registers written (R123, R184, R254, R255, R279) -/

/-- A table entry written through sr.ptdat: none where R255 forbids it. -/
def State.tableWrite (s : State) (peer : Nat) (sel v : Word) : Option State :=
  let i := (bits sel 0 32 : BitVec 32).toNat
  let id := (bits sel 56 8 : BitVec 8).toNat
  match s.tableEntry peer sel with
  | none => none
  | some (_, w, rw) =>
    if !rw || 2 ^ w ≤ v.toNat then none
    else some (s.modDie peer fun d =>
      if id = 0 then { d with peerState := d.peerState.set i (v.setWidth 2) }
      else if id = 1 then { d with jobPart := d.jobPart.set i (v.setWidth 4) }
      else if id = 2 then { d with partMap := d.partMap.set i v }
      else if id = 3 then
        { d with tickets := d.tickets.set i { d.tickets.get {} i with job := bits v 17 12, en := v.getLsbD 16, rows := bits v 0 16 } }
      else { d with owners := d.owners.set i (v.setWidth 13) })

/-- Are the bits of a mask zero in a value? -/
def clear (v mask : Word) : Bool := v &&& mask == 0

/-- A privileged register written by the supervisor core: none is the illegal-instruction trap (R150, R254, R255). A bit that the register's
layout gives as zero is taken for a must-be-zero bit. -/
def State.privWrite (s : State) (n : Nat) (v : Word) : Option State :=
  let j := s.me.jsel.toNat
  let die := fun (f : Die → Die) => some (s.modDie s.myPeer f)
  if n = 0x200 then (if clear v (~~~0xFFF) then some (s.modMe fun t => { t with jsel := v }) else none)
  else if n = 0x201 then (if clear v (~~~0x01FF_FFFF_FFFF_F001) then die fun d => { d with jroot := d.jroot.set j v } else none)
  else if n = 0x202 then (if clear v (~~~0x81FF_FFFF_FFFF_FE00) then die fun d => { d with jfmt := d.jfmt.set j v } else none)
  else if n = 0x203 then (if clear v (~~~0x81FF_FFFF_FFFF_FFF8) then die fun d => { d with jflaga := d.jflaga.set j v } else none)
  else if n = 0x204 then (if clear v (~~~0x8000_0FFF_FFFF_0000) then die fun d => { d with jsave := d.jsave.set j v } else none)
  else if n = 0x211 then die fun d => { d with prbase := v }
  else if n = 0x212 then (if clear v (~~~0x0000_001F_FFFF_FFC0) then die fun d => { d with tmbase := v } else none)
  else if n = 0x220 then (if clear v 0x00FF_FFFF_0000_0000 then some (s.modMe fun t => { t with ptsel := v }) else none)
  else if n = 0x221 then s.tableWrite s.myPeer s.me.ptsel v
  else none

/-- An active loop level's count written; 0 is taken as 1 (R279). -/
def Slot.setCount (t : Slot) (i : Nat) (v : Word) : Slot :=
  { t with loops := t.loops.modify i fun l => { l with count := if v.setWidth 32 = (0 : BitVec 32) then 1 else zx (v.setWidth 32 : BitVec 32) } }

/-- A special register as MTS writes it, sr.scfg, sr.ssp and sr.fsf apart: none is the illegal-instruction trap (R123, R199, R210). -/
def State.sregWrite (s : State) (n : Nat) (v : Word) : Option State :=
  if 0x200 ≤ n then (if n < 0x300 ∧ s.isSup s.myCore then s.privWrite n v else none)
  else if n = 0x40 then (if clear v (~~~3) then some (s.modMe fun t => { t with fcr := v.setWidth 2 }) else none)
  else if n = 0x42 then some (s.modMe fun t => { t with wto := v.setWidth 40 })
  else if n = 0x45 then some (s.modMe fun t => { t with flags := v.setWidth 8 })
  else if n = 0x46 then some (s.modMe (·.setCount 0 v))
  else if n = 0x47 then some (s.modMe (·.setCount 1 v))
  else none

/-- MTS to sr.scfg of stream i (R184): set at once where the stream's window is 0, else the thread waits for that. -/
def State.setScfg (s : State) (i : Instr) (st : BitVec 2) (v : Word) : State :=
  if !clear v (~~~7) || 6 ≤ v.toNat then s.illegal i
  else if s.me.window st.toNat = 0 then (s.modMe fun t => t.setScope st (v.setWidth 3)).done i
  else s.modMe fun t => { t with st := .wait, hold := .scope st (v.setWidth 3), waited := 0 }

/-- MTS (R280). -/
def execMts (a : BitVec 5) (n : BitVec 12) (s : State) : Out :=
  s.issue (.mts a n) { regs := [a], flags := sregFlags n } fun s =>
    let v := s.rd a
    if n = 0x80 ∨ n = 0x84 ∨ n = 0x88 ∨ n = 0x8C then s.setScfg (.mts a n) (bits n 2 2) v
    else if n = 0x43 then
      (if v.toNat % 8 ≠ 0 then s.trapHere 0x05 v else (s.modMe fun t => { t with ssp := v }).done (.mts a n))
    else if n = 0x41 then
      (if clear v (~~~0x3F) then
        ((s.done (.mts a n)).orFlags s.cur (v.setWidth 6)).modMe fun t => { t with fsf := v.setWidth 6 }
      else s.illegal (.mts a n))
    else match s.sregWrite n.toNat v with
      | none => s.illegal (.mts a n)
      | some s => s.done (.mts a n)

/-! ### TRAP, BKPT, HALT, NOP (R281) -/

/-- The thread parks after its instruction (R136, R137). -/
def State.trapAfter (s : State) (i : Instr) (cause : BitVec 8) (detail : Word) : State :=
  let s := s.done i
  s.takeTrap s.cur { cause := cause, detail := detail } s.me.pc

/-- TRAP (R281). -/
def execTrap (c : BitVec 12) (s : State) : Out := s.issue (.trap c) {} fun s => s.trapAfter (.trap c) 0x0E (zx c)

/-- BKPT (R281). -/
def execBkpt (c : BitVec 12) (s : State) : Out := s.issue (.bkpt c) {} fun s => s.trapAfter (.bkpt c) 0x0D (zx c)

/-- HALT: every window of the thread 0, then it parks (R281). -/
def execHalt (s : State) : Out :=
  s.issue .halt {} fun s => if s.me.drained then s.trapAfter .halt 0x0E 0x1000 else s.waitHere

/-- NOP (R281). -/
def execNop (s : State) : Out := s.issue .nop {} fun s => s.done .nop

/-- ILLEGAL_INSTRUCTION: an encoding without a legal meaning takes the illegal-instruction trap (R256). -/
def execIllegalInstruction (w : BitVec 32) (s : State) : Out := .next (s.illegal (.illegalInstruction w))

/-! ### SVC (R282, R283) -/

/-- The completion codes (R283). -/
def svcDone : BitVec 8 := 0x00
def svcNotParked : BitVec 8 := 0x01
def svcNoSlot : BitVec 8 := 0x02
def svcNoCore : BitVec 8 := 0x03
def svcBusy : BitVec 8 := 0x04
def svcBadArg : BitVec 8 := 0x05
def svcFrozen : BitVec 8 := 0x06
def svcGangOp : BitVec 8 := 0x0E
def svcGangState : BitVec 8 := 0x0F

/-- The trap that a completion address raises, where it does (R282, step 2). -/
def svcTrap (c : Nat) (wc : Word) : Option (BitVec 8) :=
  if wc = 0 then none
  else if wc.toNat % 8 ≠ 0 then some 0x05
  else match (if wc.getLsbD 63 then localPlace c wc else .nowhere) with
    | .stash c' _ => if c' = c then none else some 0x09
    | _ => some 0x09

/-- An SVC: outside the supervisor core it is illegal; it waits until the thread's streams have drained, checks its completion address, and
starts its operation as it completes (R251, R282). -/
def State.svc (s : State) (i : Instr) (c a : BitVec 5) (start : Word → Word → State → State) : Out :=
  if !s.isSup s.myCore then .next (s.illegal i)
  else s.issue i { regs := [c, a] } fun s =>
    if !s.me.drained then s.waitHere
    else match svcTrap s.myCore (s.rd c) with
      | some cause => s.trapHere cause (s.rd c)
      | none => start (s.rd a) (s.rd c) (s.done i)

/-- An operation of an SVC that runs on, or that has its code already (R282); `waits` are the accesses that it awaits. -/
def State.svcRuns (s : State) (i : Instr) (wc arg : Word) (code : Option (BitVec 8)) (waits : List OldAccess := []) : State :=
  s.modDie s.myPeer fun d =>
    { d with svcs := d.svcs ++ [{ core := s.myCore, wc := wc, op := bits (encode i) 10 12, arg := arg, code := code, waits := waits }] }

/-- The core that an argument names, on the issuing die with its quad in service (R283). -/
def State.svcCore (s : State) (arg : Word) : Option Nat :=
  let c := (bits arg 0 23 : BitVec 23).toNat
  if c / 1024 = s.myPeer ∧ (s.die s.myPeer).quadValid (quadNo (quadOf c)) then some c else none

/-- The slot that leads: the even core's of a lock-step pair, else itself (R143, R284). -/
def State.leadSlot (s : State) (k : Nat) : Nat :=
  if (s.core (coreOf k)).crew.bind.lockstep && coreOf k % 2 == 1 then k - 8 else k

/-- Is a core's crew FROZEN (R116)? -/
def State.crewFrozen (s : State) (c : Nat) : Bool := (List.range 8).any fun i => (s.slot (c * 8 + i)).st == .frozen

/-! ### RSM (R284) -/

/-- One entry of a replay queue issued again (R141, R284). -/
def State.replayEntry (s : State) (k id : Nat) : State :=
  let s := (s.twins k).foldl (fun s k => s.modSlot k fun t => t.intoFrame (t.modOp id fun o =>
    { o with phase := .held, parts := o.parts.map fun p => if p.phase == .parked then { p with phase := .held } else p })) s
  s.beginOp k id

/-- The replay of a slot: its parked operations in queue order, the engine's replay slot for slot 6, the stopped channels for slot 7 (R141,
R179, R284, R364). -/
def State.replaySlot (s : State) (k : Nat) : State :=
  let s := ((s.slot k).replayQueue.map (·.id)).foldl (fun s id => s.replayEntry k id) s
  let c := coreOf k
  if slotOf k = 6 then
    s.modQuad (quadOf c) fun q => { q with replay := q.replay.map fun e => if e.slot = k ∧ e.stage = .queued then { e with stage := .rerun } else e }
  else if slotOf k = 7 then s.modCrew c fun x => { x with channels := x.channels.mapV fun _ y => { y with stopped := false } }
  else s

/-- RSM's operation, with its code. -/
def State.rsm (s : State) (arg : Word) : State × BitVec 8 :=
  if !clear arg (~~~0x0FFF_FFFF) then (s, svcBadArg)
  else match s.svcCore arg with
    | none => (s, svcNoCore)
    | some c =>
      let k := s.leadSlot (c * 8 + (bits arg 23 3 : BitVec 3).toNat)
      let resume := arg.getLsbD 27
      if s.crewFrozen c then (s, svcFrozen)
      else if (s.slot k).st = .free then (s, svcNoSlot)
      else if resume ∧ (s.slot k).st ≠ .park then (s, svcNotParked)
      else
        let s := if arg.getLsbD 26 then s.replaySlot k else s
        (if resume then (s.twins k).foldl (fun s k => s.returnTrap k) s else s, svcDone)

/-- SVC RSM (R284). -/
def execSvcRsm (c a : BitVec 5) (s : State) : Out :=
  s.svc (.svcRsm c a) c a fun arg wc s => let r := s.rsm arg; r.1.svcRuns (.svcRsm c a) wc arg (some r.2)

/-! ### KILL (R285) -/

/-- A thread that leaves a wait for a local condition: what waits is withdrawn (R142, R285; log entry 21). -/
def State.leaveWait (s : State) (k : Nat) : State :=
  match (s.slot k).hold with
  | .localOp id | .reply id => if (s.slot k).waitIsLocal id then s.withdrawOp k id else s
  | _ => s

/-- KILL's operation: a code where it ends at once, none where it runs until the slot is FREE. -/
def State.kill (s : State) (arg : Word) : State × Option (BitVec 8) :=
  if !clear arg (~~~0x03FF_FFFF) then (s, some svcBadArg)
  else match s.svcCore arg with
    | none => (s, some svcNoCore)
    | some c =>
      let k := s.leadSlot (c * 8 + (bits arg 23 3 : BitVec 3).toNat)
      if s.crewFrozen c then (s, some svcFrozen)
      else if (s.slot k).st = .free ∨ (s.slot k).st = .exiting then (s, some svcNoSlot)
      else
        -- a trap that waited for the next boundary keeps its message (R40)
        let s := (s.slot k).trapNext.foldl (fun s tr => if (s.slot k).st = .park then s else s.postTrap k tr (s.slot k).pc) s
        ((s.twins k).foldl (fun s k => (s.leaveWait k).modSlot k (·.killed)) s, none)

/-- SVC KILL (R285). -/
def execSvcKill (c a : BitVec 5) (s : State) : Out :=
  s.svc (.svcKill c a) c a fun arg wc s => let r := s.kill arg; r.1.svcRuns (.svcKill c a) wc arg r.2

/-! ### TLBINV (R154, R286) -/

/-- Does the range of TLBINV's argument overlap n bytes at an address (R286)? -/
def inRange (arg va : Word) (n : Nat) : Bool :=
  let e := (bits arg 12 4 : BitVec 4).toNat
  let size := 2 ^ (16 + e)
  let lo := (bits arg 16 41 : BitVec 41).toNat * 2 ^ 16 / size * size
  e == 15 || overlap lo size (va.toNat % 2 ^ 57) n

/-- A TLB without the entries of a job and range. -/
def tlbDrop (arg : Word) (l : List Tlb) : List Tlb :=
  l.filter fun e => !(e.job == bits arg 0 12 && inRange arg (BitVec.ofNat 64 (e.page * 2 ^ e.shift)) (2 ^ e.shift))

/-- TLBINV's operation: every TLB of the die drops its entries (R154). A walk reads the tables when it ends, so none needs to restart. -/
def State.tlbinv (s : State) (arg : Word) : State × Option (BitVec 8) :=
  if !clear arg 0xFE00_0000_0000_0000 || ((bits arg 12 4 : BitVec 4) == 15 && (bits arg 16 41 : BitVec 41) != 0) then (s, some svcBadArg)
  else
    ({ s with
        cores := s.cores.mapV fun c x => if c / 1024 = s.myPeer then { x with utlb := tlbDrop arg x.utlb } else x,
        quads := s.quads.mapV fun q x => if peerOf q = s.myPeer then { x with tlb := tlbDrop arg x.tlb } else x }, none)

/-- Has a byte range used a translation of TLBINV's range and not yet performed (R154)? -/
def Part.usesOld (p : Part) (arg : Word) : Bool :=
  !p.va.getLsbD 63 && (p.pa.isSome || p.phase == .written) && p.phase != .done && inRange arg p.va p.size

/-- The threads of slot k: the one that is there, a pre-empted one, and those of jobs switched out. -/
def State.threadsAt (s : State) (k : Nat) : List Slot :=
  s.slot k :: ((match (s.core (coreOf k)).saved with
    | some sv => [(sv.slots[slotOf k]?).getD {}]
    | none => []) ++ (s.pkg (peerOfSlot k / 4)).gangs.flatMap fun g =>
      [g.2.slots.get {} k, ((g.2.saved.find (coreOf k)).bind fun sv => sv.slots[slotOf k]?).getD {}])

/-- The crews of core c, likewise. -/
def State.crewsAt (s : State) (c : Nat) : List Crew :=
  (s.core c).crew :: ((match (s.core c).saved with
    | some sv => [sv.crew]
    | none => []) ++ (s.pkg (c / 4096)).gangs.flatMap fun g => [g.2.crews.get {} c, ((g.2.saved.find c).map (·.crew)).getD {}])

/-- The packets of the pod, those that a switch keeps too. -/
def State.packets (s : State) : List Pkt :=
  s.net.map (·.pkt) ++ s.pkgs.flatMap fun e => e.2.gangs.flatMap fun g => (g.2.sweep ++ g.2.late).map (·.pkt)

/-- The accesses on a die that have used a translation of a job's range and not yet performed (R154). -/
def State.oldAccesses (s : State) (peer : Nat) (arg : Word) : List OldAccess :=
  let job : BitVec 12 := bits arg 0 12
  let parts := (List.range 8192).flatMap fun i =>
    let k := peer * 8192 + i
    (s.threadsAt k).flatMap fun t => if t.job == job then t.ops.flatMap fun o => (o.parts.filter (·.usesOld arg)).map fun p => .part k o.id p.va else []
  let copies := (List.range 1024).flatMap fun i => (s.crewsAt (peer * 1024 + i)).flatMap fun x => if x.bind.job == job then
    x.channels.flatMap fun y => (y.2.queue.filter (0 < ·.flying)).map fun z => .copy z.slot z.op.id (z.bytes + z.flying) else []
  let aors := if inRange arg ((s.die peer).flagWord job) 8 then
    (s.packets.filter fun p => p.tag == aorTag && p.type == 0x03 && p.job == job && p.src.toNat == peer).map fun p => .aor p.src p.req p.operand else []
  let pieces := if peer % 4 = 0 then ((s.pkg (peer / 4)).works.filter fun w => (s.pkg (peer / 4)).hostReqs.any fun r =>
      r.kind == reqCopy && r.q == w.q && r.id == w.id && (r.pkt.map (·.job)) == some job).map fun w => .piece (peer / 4) w.q w.id w.moved else []
  let asked := if peer % 4 = 0 then ((s.pkg (peer / 4)).hostReqs.filter fun r =>
      r.kind != reqThread && r.kind != reqCopy && (r.pkt.map (·.job)) == some job).map fun r => .asked (peer / 4) r.q r.id r.kind else []
  let sectors := (List.range 1024).flatMap fun i => (List.range 8).flatMap fun n =>
    let c := peer * 1024 + i
    let x := s.core c
    let r := s.region c n
    if r.bound && (if x.crew.bind.valid then x.crew.bind.job else x.lastJob) == job && paPeer r.pa != peer then
      ((List.range 256).filter fun j => r.dirty.getLsbD j && inRange arg (zx r.base + BitVec.ofNat 64 (128 * j)) 128).map fun j => .sector c n j
    else []
  parts ++ copies ++ aors ++ pieces ++ asked ++ sectors

/-- Has such an access still to perform? -/
def State.stillOld (s : State) : OldAccess → Bool
  | .part k id va => (s.threadsAt k).any fun t => t.ops.any fun o => o.id == id && o.parts.any fun p => p.va == va && p.phase != .done
  | .copy k id n => (s.crewsAt (coreOf k)).any fun x => x.channels.any fun y => y.2.queue.any fun z => z.slot == k && z.op.id == id && decide (z.bytes < n)
  | .aor src req f => s.packets.any fun p => p.tag == aorTag && p.type == 0x03 && p.src == src && p.req == req && p.operand == f
  | .piece p q id n => (s.pkg p).works.any (fun w => w.q == q && w.id == id && w.moved == n) && (s.pkg p).hostReqs.any fun r =>
      r.kind == reqCopy && r.q == q && r.id == id
  | .asked p q id kind => (s.pkg p).hostReqs.any fun r => r.kind == kind && r.q == q && r.id == id
  | .sector c n j => (s.region c n).bound && (s.region c n).dirty.getLsbD j

/-- SVC TLBINV (R286): it waits for the accesses that had used an old translation as it began. -/
def execSvcTlbinv (c a : BitVec 5) (s : State) : Out :=
  s.svc (.svcTlbinv c a) c a fun arg wc s =>
    let r := s.tlbinv arg
    r.1.svcRuns (.svcTlbinv c a) wc arg r.2 (s.oldAccesses s.myPeer arg)

/-! ### GANGCTL (R97, R287) -/

/-- The anchor of a job's switch commands: the lowest-numbered package that the job's partition admits (R97). -/
def State.anchorOf (s : State) (p : Nat) (job : BitVec 12) : Nat := (s.partition p job).headD p

/-- A switch command joins those of its job's anchor, in arrival order (R97). -/
def State.toAnchor (s : State) (p : Nat) (g : GangCmd) : State :=
  s.modPkg (s.anchorOf p g.job) fun x => { x with anchor := x.anchor ++ [g] }

/-- The operations of a GANG packet (R95). -/
def gangOut : BitVec 4 := 0
def gangIn : BitVec 4 := 1
def gangAbort : BitVec 4 := 2

/-- Does a command fail the check of code GANGOP (R95)? -/
def gangOpBad (op : BitVec 4) (save : Word) (inst : BitVec 32) : Bool :=
  3 ≤ op.toNat || save.toNat % 2 ^ 16 ≠ 0 || 2 ^ 44 ≤ save.toNat || inst == 0 || (op == gangOut && inst.getLsbD 31)

/-- GANGCTL's operation: refused with a code, or sent to the anchor. -/
def State.gangctl (s : State) (wc arg : Word) : State × Option (BitVec 8) :=
  let js := (s.die s.myPeer).jsave.get 0 (bits arg 0 12 : BitVec 12).toNat
  let save := js &&& 0x0000_0FFF_FFFF_0000
  if (bits arg 16 16 : BitVec 16) ≠ 0 then (s, some svcBadArg)
  else if !js.getLsbD 63 || gangOpBad (bits arg 12 4) save (bits arg 32 32) then (s, some svcGangOp)
  else
    (s.toAnchor (pkgOf s.myPeer) { op := bits arg 12 4, job := bits arg 0 12, save := save.setWidth 44, instId := bits arg 32 32, pkg := pkgOf s.myPeer,
                                   svc := some (s.myPeer, s.myCore, wc) }, none)

/-- SVC GANGCTL (R287): the completion word follows where a GANG packet would decrement its signal. -/
def execSvcGangctl (c a : BitVec 5) (s : State) : Out :=
  s.svc (.svcGangctl c a) c a fun arg wc s =>
    let r := s.gangctl wc arg
    match r.2 with
    | some code => r.1.svcRuns (.svcGangctl c a) wc arg (some code)
    | none => r.1

/-! ### PRMPT and MSGRD (R91, R288, R289) -/

/-- The cores of a crew: both of a lock-step pair (R91). -/
def State.pair (s : State) (c : Nat) : List Nat := if (s.core c).crew.bind.lockstep then [c / 2 * 2, c / 2 * 2 + 1] else [c]

/-- A pre-emption message on its way to a core, or to both of a pair (R91). -/
def State.sendPreempt (s : State) (c : Nat) : State := (s.pair c).foldl (fun s c => s.modCore c fun x => { x with halting := true }) s

/-- The sreg values that name an operation still running (R251). -/
def sregOf (i : Instr) : BitVec 12 := bits (encode i) 10 12

/-- A pre-emption of a core, or of a pair, has taken place, or found no bind: the PRMPTs that asked for it get their code (R283, R288). -/
def State.prmptCode (s : State) (cs : List Nat) (code : BitVec 8) : State :=
  let mine := fun (v : SvcOp) => v.code.isNone && v.op == sregOf (.svcPrmpt 0 0) && cs.contains (v.arg.toNat % 2 ^ 23)
  s.modDie (cs.headD 0 / 1024) fun d => { d with svcs := d.svcs.map fun v => if mine v then { v with code := some code } else v }

/-- PRMPT's operation. -/
def State.prmpt (s : State) (arg : Word) : State × Option (BitVec 8) :=
  if !clear arg (~~~0x007F_FFFF) then (s, some svcBadArg)
  else match s.svcCore arg with
    | none => (s, some svcNoCore)
    | some c =>
      if (s.pair c).any fun c => (s.core c).saved.isSome then (s, some svcBusy)
      else if !(s.core c).crew.bind.valid then (s, some svcNoSlot)
      else (s.sendPreempt c, none)

/-- SVC PRMPT (R288). -/
def execSvcPrmpt (c a : BitVec 5) (s : State) : Out :=
  s.svc (.svcPrmpt c a) c a fun arg wc s => let r := s.prmpt arg; r.1.svcRuns (.svcPrmpt c a) wc arg r.2

/-- MSGRD's operation (R140, R289): the read count moves on where a message stands unread, and a held poster posts. -/
def State.msgrd (s : State) : State :=
  let d := s.die s.myPeer
  if d.tmrd = d.tmcnt then s
  else
    let s := s.modDie s.myPeer fun d => { d with tmrd := d.tmrd + 1 }
    match d.heldPosts with
    | [] => s
    | m :: ms => (s.modDie s.myPeer fun d => { d with heldPosts := ms }).writeRing s.myPeer m

/-- SVC MSGRD (R289). -/
def execSvcMsgrd (s : State) : Out :=
  if !s.isSup s.myCore then .next (s.illegal .svcMsgrd)
  else s.issue .svcMsgrd {} fun s => if s.me.drained then (s.done .svcMsgrd).msgrd else s.waitHere

/-! ### SVC_COMPLETION (R282, R283) -/

/-- Is a thread leaving by EXITING, FROZEN on its way or not? -/
def Slot.leaving (t : Slot) : Bool := t.st == .exiting || (t.st == .frozen && t.was == .exiting)

/-- Is a thread that slot k held still leaving: running, pre-empted or switched out (R134, R285)? -/
def State.leavingAt (s : State) (k : Nat) : Bool :=
  (s.slot k).leaving || (match (s.core (coreOf k)).saved with
    | some sv => ((sv.slots[slotOf k]?).getD {}).leaving
    | none => false) || (s.pkg (peerOfSlot k / 4)).gangs.any fun g => (g.2.slots.get {} k).leaving

/-- The code with which a running operation ends now, where it does. That of PRMPT comes with the pre-emption (R288). -/
def State.svcEnds (s : State) (v : SvcOp) : Option (BitVec 8) :=
  let c := (bits v.arg 0 23 : BitVec 23).toNat
  match v.code with
  | some x => some x
  | none =>
    if v.op = sregOf (.svcKill 0 0) then
      (if s.leavingAt (s.leadSlot (c * 8 + (bits v.arg 23 3 : BitVec 3).toNat)) then none else some svcDone)
    else if v.op = sregOf (.svcTlbinv 0 0) then (if v.waits.any s.stillOld then none else some svcDone)
    else none

/-- The completion word written as a full/empty fill in the issuing core's stash (R282, R283). -/
def State.svcWord (s : State) (v : SvcOp) (code : BitVec 8) : State :=
  if v.wc = 0 then s
  else match localPlace v.core v.wc with
    | .stash c off => s.stashFill c off ((0 : BitVec 20) ++ v.op ++ (0 : BitVec 24) ++ code)
    | _ => s

/-- SVC_COMPLETION: an SVC's operation ends and its agent fills the completion word. Arguments: a the die's peer number, b the operation's
place. -/
def execSvcCompletion (s : State) : Out :=
  match (s.die s.arg.a).svcs[s.arg.b]? with
  | none => s.idle
  | some v => match s.svcEnds v with
    | none => s.idle
    | some code => .next ((s.modDie s.arg.a fun d => { d with svcs := dropAt d.svcs s.arg.b }).svcWord v code)

end Sys2Proof.Machine
end

