-- ==== Sys2Proof/Machine/Queue.lean ====
section
/-!
DEFINITION. Machine/Queue.lean: the packet front end of die 0 and the host's access to the package (R52 to R70): queue registers, notify,
packets, SIGNAL, COPY, DEPEND, completion signals, PCI Express completions and BAR4. Reads and writes by the front end, the command processor
and the host DMA engine reach their homes in one step; those of host memory that need an answer wait for PCIE_COMPLETION (log entry 11).
-/
namespace Sys2Proof.Machine

/-! ### Queues and their registers (R57, R58) -/

def State.queue (s : State) (p q : Nat) : Queue := (s.pkg p).queues.get {} q
def State.modQueue (s : State) (p q : Nat) (f : Queue → Queue) : State :=
  s.modPkg p fun x => { x with queues := x.queues.set q (f (x.queues.get {} q)) }

/-- The fields of QCFG. -/
def Queue.job (q : Queue) : BitVec 12 := bits q.cfg 52 12
def Queue.pceil (q : Queue) : BitVec 4 := bits q.cfg 48 4
def Queue.vector (q : Queue) : BitVec 12 := bits q.cfg 32 12
def Queue.irq (q : Queue) : Bool := q.cfg.getLsbD 8
def Queue.priv (q : Queue) : Bool := q.cfg.getLsbD 7
def Queue.enabled (q : Queue) : Bool := q.cfg.getLsbD 6
def Queue.lgn (q : Queue) : Nat := (bits q.cfg 0 5 : BitVec 5).toNat

/-- Does the front end work: the package powered, its clocks running (R25)? -/
def State.frontUp (s : State) (p : Nat) : Bool := (s.pkg p).power == .on && (s.pkg p).pstate != 3

/-- Dword i of a packet. -/
def dwOf (dw : List Word) (i : Nat) : Word := (dw[i]?).getD 0
def pktType (dw : List Word) : Nat := (bits (dwOf dw 0) 0 8 : BitVec 8).toNat
def pktBarrier (dw : List Word) : Bool := (dwOf dw 0).getLsbD 8
def pktAcquire (dw : List Word) : Nat := (bits (dwOf dw 0) 9 3 : BitVec 3).toNat
def pktRelease (dw : List Word) : BitVec 3 := bits (dwOf dw 0) 12 3
def pktJob (dw : List Word) : BitVec 12 := bits (dwOf dw 0) 32 12

/-- A consumed packet waits for its barrier (R65). -/
def Queue.barred (q : Queue) : Bool := match q.consumed with
  | some dw => pktBarrier dw && q.running != []
  | none => false

/-- QSTS.state (R58). -/
def Queue.state (q : Queue) : Nat :=
  if !q.enabled then 0
  else if q.failed then 5
  else if q.barred || q.dep.isSome then 4
  else if q.wait then 3
  else if q.full || q.consumed.isSome || q.running != [] || q.ridx != q.widx then 2
  else 1

/-- QSTS (R58). -/
def Queue.qsts (q : Queue) : Word :=
  q.ridx ++ (0 : BitVec 16) ++ (if q.enabled && !q.failed then 0 else q.err) ++ (0 : BitVec 5) ++ BitVec.ofNat 3 q.state

/-- A queue reset by a clear of enable (R58): packets not begun are abandoned, the consumed one that waits for its barrier too (DESIGN CHOICE, log
entry 57); work already started goes on. -/
def Queue.clear (q : Queue) : Queue :=
  { q with ridx := 0, widx := 0, err := 0, failed := false, wait := false, full := false, consumed := none, dep := none, running := [] }

/-- The stored bits of QCFG (R57). A vector of 2,048 to 4,095 is stored, and raised, as written (DESIGN CHOICE, log entry 56). -/
def cfgMask : Word := 0xFFFF_0FFF_0000_01DF

/-- QBASE_WRITE: stored, or discarded while the queue is enabled (R57). Arguments: a the package, b the queue, value. -/
def execQbaseWrite (s : State) : Out :=
  if (s.queue s.arg.a (s.arg.b % 4096)).enabled then s.idle
  else .next (s.modQueue s.arg.a (s.arg.b % 4096) fun q => { q with qbase := s.arg.value.setWidth 64 })

/-- QRIDX_WRITE: stored, or discarded while the queue is enabled (R57). Arguments: a the package, b the queue, value. -/
def execQridxWrite (s : State) : Out :=
  if (s.queue s.arg.a (s.arg.b % 4096)).enabled then s.idle
  else .next (s.modQueue s.arg.a (s.arg.b % 4096) fun q => { q with qridx := s.arg.value.setWidth 64 })

/-- IN commands of a queue that still wait on every package end with the queue (R108). -/
def State.endWaitingIn (s : State) (p q : Nat) : State :=
  s.pkgs.foldl (fun s e => (s.pkg e.1).current.foldl (fun s g =>
    let ps := s.partition e.1 g.2.job
    if g.2.op = gangIn ∧ g.2.pkg = p ∧ (g.2.queue.map (·.1)) = some q ∧ ps.all fun x => (s.gang x g.2.job).order == .restore && (s.gang x g.2.job).phase == .out then
      (ps.foldl (fun s x => s.modGang x g.2.job fun y => { y with order := .none }) s).modPkg e.1 fun x => { x with current := x.current.erase g.1 }
    else s) s) s

/-- QCFG_WRITE: configures the queue, enables it after its checks or sets BADCFG, or resets it as it clears enable (R57, R58, R108).
Arguments: a the package, b the queue, value. -/
def execQcfgWrite (s : State) : Out :=
  let p := s.arg.a
  let n := s.arg.b % 4096
  let v : Word := s.arg.value.setWidth 64 &&& cfgMask
  let q := s.queue p n
  if q.enabled then
    (if v.getLsbD 6 then s.idle else .next ((s.modQueue p n fun q => { q.clear with cfg := v }).endWaitingIn p n))
  else if v.getLsbD 6 then
    let lgn := (bits v 0 5 : BitVec 5).toNat
    if lgn < 1 ∨ 16 < lgn ∨ q.qbase.toNat % 64 ≠ 0 ∨ q.qridx.toNat % 8 ≠ 0 then
      .next (s.modQueue p n fun q => { q with cfg := v &&& ~~~0x40, err := 0x09 })
    else .next (s.modQueue p n fun q => { q.clear with cfg := v })
  else .next (s.modQueue p n fun q => { q with cfg := v, err := 0 })

/-- NOTIFY_WRITE: a doorbell accepted, ignored as older, or discarded and counted (R59). Arguments: a the package, b the notify page, value. -/
def execNotifyWrite (s : State) : Out :=
  let p := s.arg.a
  let n := s.arg.b % 4096
  let v : Word := s.arg.value.setWidth 64
  let wi : BitVec 32 := bits v 16 32
  let q := s.queue p n
  if (bits v 0 16 : BitVec 16).toNat ≠ n ∨ ¬q.enabled ∨ q.failed ∨ (bits v 48 16 : BitVec 16) ≠ 0 ∨ 2 ^ q.lgn < (wi - q.ridx).toNat then
    .next (s.modPkg p fun x => { x with nfydrop := x.nfydrop + 1 })
  else if (wi - q.widx).toNat < 2 ^ 31 then .next (s.modQueue p n fun q => { q with widx := wi })
  else s.idle

/-! ### The front end's access to memory -/

/-- Why an access of the front end or the command processor stops: its error code (R63), or a line under a transaction. -/
inductive FeStop where
  | code (c : BitVec 8)
  | busy
deriving DecidableEq, Repr

def codeXlate : BitVec 8 := 0x07
def codeSigfail : BitVec 8 := 0x08

/-- A job's address translated by die 0's tables; bit 63 is a fault (R57, R63, R150). -/
def State.feWalk (s : State) (p : Nat) (job : BitVec 12) (va : Word) (write : Bool) : Option Nat :=
  if va.getLsbD 63 then none
  else match walk s (4 * p) job va write false with
    | .ok l => some (l.pa va)
    | .error _ => none

/-- The place of n bytes within one line: translated, its peer not refused, the job admitted there, its line free (R40, R41, R63). -/
def State.fePlace (s : State) (p : Nat) (job : BitVec 12) (va : Word) (write : Bool) : Except FeStop Nat :=
  match s.feWalk p job va write with
  | none => .error (.code codeXlate)
  | some pa =>
    if (s.refusedAt (4 * p) job pa).isSome then .error (.code codeSigfail)
    else if paPeer pa ≠ hostPeer ∧ ¬s.lineFree (pa / 256) then .error .busy
    else .ok pa

/-! ### Reading and checking a packet (R60, R62, R63, R79, R95) -/

/-- Fails a queue with an error code (R63). -/
def State.failQueue (s : State) (p q : Nat) (code : BitVec 8) : State :=
  s.modQueue p q fun x => { x with failed := true, err := code, wait := false, full := false }

/-- A failure found after the packet was consumed: of a packet still running in its queue (R63). -/
def State.failPacket (s : State) (p q id : Nat) (code : BitVec 8) : State :=
  if (s.queue p q).running.mem id then s.failQueue p q code else s

/-- Are the zero fields of a packet zero (R62)? -/
def pktZeros (dw : List Word) : Bool :=
  let d := dwOf dw
  let t := pktType dw
  (bits (d 0) 16 16 : BitVec 16) == 0 &&
    (if t = 1 then
      !(d 2).getLsbD 63 && (bits (d 3) 58 6 : BitVec 6) == 0 && (bits (d 5) 32 32 : BitVec 32) == 0 && d 7 == 0
    else if t = 2 ∨ t = 3 then clear (d 3) (~~~3) && d 4 == 0 && d 5 == 0 && d 6 == 0 && d 7 == 0
    else if t = 4 then clear (d 3) (~~~0xFF_FFFF_FFFF) && d 4 == 0 && d 5 == 0 && d 7 == 0
    else clear (d 1) (~~~0xFFFF) && clear (d 3) (~~~0xFFFF_FFFF) && d 4 == 0 && d 5 == 0 && d 7 == 0)

/-- The signal address of a packet; 0 where it has none. -/
def pktSignal (dw : List Word) : Word := if pktType dw = 2 ∨ pktType dw = 3 then dwOf dw 1 else dwOf dw 6

/-- The grid and the parcel shape of a LAUNCH (R62). -/
def gridOf (dw : List Word) (i : Nat) : Nat := (dwOf dw 2).toNat / 2 ^ (21 * i) % 2 ^ 21
def shapeOf (dw : List Word) (i : Nat) : Nat := (dwOf dw 3).toNat / 2 ^ (16 * i) % 2 ^ 16
/-- Parcels along an axis, and in all (R78). -/
def parcelsOn (dw : List Word) (i : Nat) : Nat := (gridOf dw i + shapeOf dw i - 1) / shapeOf dw i
def parcelsOf (dw : List Word) : Nat := parcelsOn dw 0 * parcelsOn dw 1 * parcelsOn dw 2
/-- The slot mask of a LAUNCH. -/
def maskOf (dw : List Word) : BitVec 8 := bits (dwOf dw 3) 48 8
/-- Set bits of a mask. -/
def count8 (m : BitVec 8) : Nat := (List.range 8).countP fun i => m.getLsbD i

/-- The first of a LAUNCH's own checks that fails (R79). -/
def launchCode (dw : List Word) : Option (BitVec 8) :=
  if shapeOf dw 0 = 0 ∨ shapeOf dw 1 = 0 ∨ shapeOf dw 2 = 0 then some 0x0A
  else if maskOf dw = 0 ∨ 262144 - 4096 * count8 (maskOf dw) < (bits (dwOf dw 5) 0 32 : BitVec 32).toNat then some 0x0B
  else if (dwOf dw 1).getLsbD 0 || (dwOf dw 1).getLsbD 63 || (dwOf dw 4).toNat % 8 != 0 || (dwOf dw 4).getLsbD 63 then some 0x0C
  else if 2 ^ 32 - 1 < parcelsOf dw then some 0x0D
  else none

/-- The first of the checks that need no translation and that fails, in the order of R63. -/
def pktCode (q : Queue) (dw : List Word) : Option (BitVec 8) :=
  let t := pktType dw
  if t = 0 ∨ 5 < t ∨ (t = 5 ∧ ¬q.priv) then some 0x01
  else if !pktZeros dw then some 0x02
  else if 6 ≤ pktAcquire dw ∨ 6 ≤ (pktRelease dw).toNat then some 0x03
  else if (bits (dwOf dw 0) 48 16 : BitVec 16) ≠ q.ridx.setWidth 16 then some 0x04
  else if ¬q.priv ∧ pktJob dw ≠ q.job then some 0x05
  else if (pktSignal dw).toNat % 8 ≠ 0 then some 0x06
  else if t = 1 then launchCode dw
  else if t = 3 ∧ (dwOf dw 3).toNat % 4 = 3 then some 0x10
  else if t = 5 ∧ gangOpBad (bits (dwOf dw 1) 12 4) (dwOf dw 2) (bits (dwOf dw 3) 0 32) then some 0x0E
  else none

/-- Do the addresses that a packet names translate (R63, item 4): ring slot and read-index word, constants, signal, COPY operands? Those of a COPY
of length 0 are checked for bit 63 only (DESIGN CHOICE, log entry 58). -/
def State.pktXlate (s : State) (p : Nat) (q : Queue) (dw : List Word) : Bool :=
  let t := pktType dw
  let job := pktJob dw
  let slot := q.qbase + BitVec.ofNat 64 (64 * (q.ridx.toNat % 2 ^ q.lgn))
  let ok := fun (j : BitVec 12) (va : Word) (w : Bool) => (s.feWalk p j va w).isSome
  ok q.job slot true && ok q.job q.qridx true &&
    (t != 1 || (List.range 7).all fun i => ok job (dwOf dw 4 + BitVec.ofNat 64 (8 * i)) false) &&
    (if t = 2 then ok job (dwOf dw 1) false else if t = 3 then ok job (dwOf dw 1) true else pktSignal dw == 0 || ok job (pktSignal dw) true) &&
    (t != 4 || (!(dwOf dw 1).getLsbD 63 && !(dwOf dw 2).getLsbD 63 &&
      ((dwOf dw 3) == 0 || (ok job (dwOf dw 1) false && ok job (dwOf dw 2) true))))

/-- Launch slots that are taken: held by launches, or promised to LAUNCH packets consumed and not yet accepted, those of a queue that has failed too, since their
work goes on (R81; DESIGN CHOICE, log entry 48: R81 counts accepted launches). -/
def Pkg.slotsTaken (x : Pkg) : Nat :=
  x.launches.length + (x.queues.filter fun q => (q.2.consumed.map pktType) == some 1).length + (x.works.filter fun w => pktType w.dw == 1).length

/-- The packet at the read index, where it can be read: translated, its line free (R60, R61). A ring in host memory is read in one step with no completion of status
UR or CA, and with the link down too; one in device memory poisoned, lost or at a peer that refuses the job too (DESIGN CHOICE, log entries 47 and 50). -/
def State.readPacket (s : State) (p : Nat) (q : Queue) : Except FeStop (Nat × List Word) :=
  let va := q.qbase + BitVec.ofNat 64 (64 * (q.ridx.toNat % 2 ^ q.lgn))
  match s.feWalk p q.job va false with
  | none => .error (.code codeXlate)
  | some pa =>
    if paPeer pa ≠ hostPeer ∧ ¬s.lineFree (pa / 256) then .error .busy
    else
      let s := if paPeer pa = hostPeer then s else s.homeClean (pa / 256)
      .ok (pa, (List.range 8).map fun i => s.word (pa + 8 * i))

/-- May the front end read the next packet of a queue (R60, R65)? -/
def Queue.reads (q : Queue) : Bool :=
  q.enabled && !q.failed && q.ridx != q.widx && q.consumed.isNone && q.dep.isNone

/-- May the LAUNCH at a queue's head, which waits, be consumed now (R81, R98)? -/
def State.launchReady (s : State) (p n : Nat) : Bool :=
  let q := s.queue p n
  q.full && q.reads && (match s.readPacket p q with
    | .ok (_, dw) => !(s.gang p (pktJob dw)).phase.bars
    | .error _ => true)

/-- Does a LAUNCH of queue n wait: for a launch slot, for a waiting LAUNCH of a lower-numbered queue, or for its job's switch (R81, R98)? -/
def State.launchWaits (s : State) (p n : Nat) (job : BitVec 12) : Bool :=
  decide (64 ≤ (s.pkg p).slotsTaken) || ((s.pkg p).queues.any fun e => decide (e.1 < n) && s.launchReady p e.1) || (s.gang p job).phase.bars

/-- Steps 2 to 5 of R60 on a packet read whole. -/
def State.consume (s : State) (p n : Nat) : State :=
  let q := s.queue p n
  match s.readPacket p q with
  | .error .busy => s
  | .error (.code c) => s.failQueue p n c
  | .ok (pa, dw) =>
    if !(dwOf dw 0).getLsbD 15 then s.modQueue p n fun q => { q with wait := true, full := false }
    else match pktCode q dw with
      | some c => s.failQueue p n c
      | none =>
        if !s.pktXlate p q dw then s.failQueue p n codeXlate
        else if pktType dw = 1 ∧ s.launchWaits p n (pktJob dw) then
          s.modQueue p n fun q => { q with wait := false, full := true }
        else match s.feWalk p q.job q.qridx true with
          | none => s.failQueue p n codeXlate
          | some rpa =>
            let put := fun (s : State) (a : Nat) (v : Word) => if paPeer a = hostPeer then s.memWrite a 8 v else s.agentWrite a 8 v
            let s := put s pa (dwOf dw 0 &&& ~~~0x8000)
            let s := put s rpa (zx (q.ridx + 1))
            s.modQueue p n fun q => { q with ridx := q.ridx + 1, wait := false, full := false, consumed := some dw }

/-- PACKET_READ: a queue packet is received whole, waits for valid, is checked and consumed, or fails its queue (R60, R63). Arguments: a the
package, b the queue. -/
def execPacketRead (s : State) : Out :=
  let q := s.queue s.arg.a (s.arg.b % 4096)
  if s.frontUp s.arg.a ∧ q.reads ∧ ¬q.wait ∧ ¬q.full then .next (s.consume s.arg.a (s.arg.b % 4096)) else s.idle

/-- WAIT_VALID_REREAD: after 1 µs in wait-valid the packet is read again (R60). Arguments: a the package, b the queue. -/
def execWaitValidReread (s : State) : Out :=
  let q := s.queue s.arg.a (s.arg.b % 4096)
  if s.frontUp s.arg.a ∧ q.reads ∧ q.wait then
    .next ((s.modQueue s.arg.a (s.arg.b % 4096) fun q => { q with wait := false }).consume s.arg.a (s.arg.b % 4096))
  else s.idle

/-! ### Beginning (R64, R65) -/

/-- The fills under way of a package's threads, those saved for a gang switch too, leave no copy of the lines homed beyond their die that an acquire discards (R64, R70). -/
def State.acquireFills (s : State) (p scope : Nat) : State :=
  let old := fun (c l : Nat) => paPeer (l * 256) != peerOf (quadOf c) && (scope ≥ 5 || paPeer (l * 256) != hostPeer)
  let crew := fun (c : Nat) (sv : SavedCrew) => { sv with slots := sv.slots.map (·.fillsPass (old c)) }
  { s with
    slots := s.slots.mapV fun k t => if pkgOf (peerOfSlot k) = p then t.fillsPass (old (coreOf k)) else t,
    cores := s.cores.mapV fun c x => if pkgOf (peerOf (quadOf c)) = p then { x with saved := x.saved.map (crew c) } else x,
    pkgs := s.pkgs.mapV fun i x =>
      if i = p then
        { x with gangs := x.gangs.mapV fun _ g => { g with slots := g.slots.mapV (fun k t => t.fillsPass (old (coreOf k))), saved := g.saved.mapV crew } }
      else x }

/-- The acquire of a scope (R64): clean copies of lines homed on other dies go from every quad cache of the package; those of host lines
too at sys scope. A fill that is under way leaves no copy behind (R70). -/
def State.acquire (s : State) (p scope : Nat) : State :=
  if scope < 3 then s
  else
    let s := s.acquireFills p scope
    { s with quads := s.quads.mapV fun q x =>
        if peerOf q / 4 = p then
          { x with lines := x.lines.filter fun l => l.2.state != LineState.remote || (scope < 5 && paPeer (l.1 * 256) == hostPeer) }
        else x }

/-- A consumed packet begins: its acquire performed, its work named (R64, R65). A DEPEND acquires once its condition holds. -/
def State.beginPacket (s : State) (p n : Nat) (dw : List Word) : State :=
  let id := (s.queue p n).nextId
  let dep : Bool := pktType dw == 2
  let s := if dep then s else s.acquire p (pktAcquire dw)
  (s.modQueue p n fun q =>
    { q with consumed := none, nextId := id + 1, running := q.running.insert id, dep := if dep then some id else none }).modPkg p fun x =>
      { x with works := x.works ++ [{ q := n, id := id, dw := dw }] }

/-- PACKET_BEGIN: a consumed packet begins once its barrier is satisfied (R65). Arguments: a the package, b the queue. -/
def execPacketBegin (s : State) : Out :=
  let q := s.queue s.arg.a (s.arg.b % 4096)
  match q.consumed with
  | none => s.idle
  | some dw =>
    if s.frontUp s.arg.a ∧ ¬q.failed ∧ ¬q.barred ∧ q.dep = none then .next (s.beginPacket s.arg.a (s.arg.b % 4096) dw) else s.idle

/-- A work of a package's command processor that has the type asked for. -/
def State.work (s : State) (p k t : Nat) : Option Work := ((s.pkg p).works[k]?).filter fun w => pktType w.dw == t
def State.dropWork (s : State) (p : Nat) (w : Work) : State :=
  s.modPkg p fun x => { x with works := x.works.filter fun v => !(v.q == w.q && v.id == w.id) }

/-- A packet is complete (R65). -/
def State.packetDone (s : State) (p q id : Nat) : State := s.modQueue p q fun x => { x with running := x.running.remove id }

/-! ### Signals (R66, R68) -/

/-- A signal operation has left a value: the queue's vector is raised where irq is set and the value is 0 (R66, R68). -/
def State.signalled (s : State) (p q : Nat) (v : Word) : State :=
  if (s.queue p q).irq ∧ v = 0 then { s with host := s.host ++ [.msix p (s.queue p q).vector] } else s

/-- A non-posted request of the command processor to the host; at most 768 are outstanding (R52). None where there is no room or no link. -/
def State.askHost (s : State) (p q id kind : Nat) (pkt : Pkt) : Option State :=
  if (s.pkg p).pcieLanes = 0 ∨ 768 ≤ (s.pkg p).hostReqs.length then none
  else some (s.modPkg p fun x => { x with hostReqs := x.hostReqs ++ [{ pkt := some pkt, q := q, id := id, kind := kind }] })

/-- Does a DEPEND's condition hold on a value? -/
def dependHolds (dw : List Word) (v : Word) : Bool :=
  let c := dwOf dw 2
  let k := (dwOf dw 3).toNat % 4
  if k = 0 then v == c else if k = 1 then v != c else if k = 2 then v.ult c else !v.ult c

/-- A DEPEND's signal has been read: the queue goes on where its condition holds, its acquire applying to what follows. -/
def State.dependRead (s : State) (p q id : Nat) (dw : List Word) (v : Word) : State :=
  if dependHolds dw v ∧ (s.queue p q).dep = some id then
    (((s.acquire p (pktAcquire dw)).modQueue p q fun x => { x with dep := none }).packetDone p q id).modPkg p fun x =>
      { x with works := x.works.filter fun w => !(w.q == q && w.id == id) }
  else s

/-- A DEPEND reads its signal at its home, or asks the host (R65). -/
def State.dependPoll (s : State) (p n : Nat) : State :=
  match (s.pkg p).works.find? fun w => w.q == n && pktType w.dw == 2 && (s.queue p n).dep == some w.id with
  | none => s
  | some w =>
    if (s.queue p n).failed ∨ (s.pkg p).hostReqs.any (fun r => r.kind == reqDepend && r.q == n && r.id == w.id) then s
    else match s.fePlace p (pktJob w.dw) (dwOf w.dw 1) false with
      | .error .busy => s
      | .error (.code c) => s.failPacket p n w.id c
      | .ok pa =>
        if paPeer pa = hostPeer then
          (s.askHost p n w.id reqDepend { type := 0x01, size := 3, job := pktJob w.dw, off := BitVec.ofNat 44 (paOff pa), dst := BitVec.ofNat 13 hostPeer }).getD s
        else
          let s := s.homeClean (pa / 256)
          if s.poisonAt pa then s.failPacket p n w.id codeSigfail else s.dependRead p n w.id w.dw (s.word pa)

/-- Every waiting DEPEND of a package reads its signal again (R65). -/
def State.pollDepends (s : State) (p : Nat) : State :=
  ((s.pkg p).queues.filter fun e => e.2.dep.isSome).foldl (fun s e => s.dependPoll p e.1) s

/-- One 64-bit signal operation at its home (R66, R68): op 0 store, 1 add, after which the DEPENDs read again (R65); none where it must be
tried again. -/
def State.signalOp (s : State) (p q id kind : Nat) (job : BitVec 12) (va : Word) (op : Nat) (v : Word) : Option State :=
  match s.fePlace p job va true with
  | .error .busy => none
  | .error (.code c) => some (s.failPacket p q id c)
  | .ok pa =>
    if paPeer pa = hostPeer then
      (if op = 0 then
        (if (s.pkg p).pcieLanes = 0 then none
         else some (((s.memWrite pa 8 v).signalled p q v).packetDone p q id))
       else s.askHost p q id kind { type := 0x03, fn := 0, operand := v, size := 3, job := job, off := BitVec.ofNat 44 (paOff pa), dst := BitVec.ofNat 13 hostPeer })
    else
      let s := s.homeObtain (pa / 256)
      if op ≠ 0 ∧ s.poisonAt pa then some (s.failPacket p q id codeSigfail)
      else
        let new := if op = 0 then v else s.word pa + v
        let s := (((s.memWrite pa 8 new).unpoison pa 8).signalled p q new).packetDone p q id
        some (if op = 0 then s else s.pollDepends p)

/-- A SIGNAL work with an operation. -/
def State.signalWork (s : State) (p k op : Nat) : Option (Work × Word) :=
  match s.work p k 3 with
  | some w => if (dwOf w.dw 3).toNat % 4 = op then some (w, dwOf w.dw 2) else none
  | none => none

/-- SIGNAL_STORE: the operand stored in the signal word at its home (R66). Arguments: a the package, b the work's place. -/
def execSignalStore (s : State) : Out :=
  match s.signalWork s.arg.a s.arg.b 0 with
  | none => s.idle
  | some (w, v) => match (s.dropWork s.arg.a w).signalOp s.arg.a w.q w.id reqSignal (pktJob w.dw) (dwOf w.dw 1) 0 v with
    | some s => .next s
    | none => s.idle

/-- SIGNAL_ADD: the operand added at the signal's home, indivisibly (R66). Arguments: a the package, b the work's place. -/
def execSignalAdd (s : State) : Out :=
  match s.signalWork s.arg.a s.arg.b 1 with
  | none => s.idle
  | some (w, v) => match (s.dropWork s.arg.a w).signalOp s.arg.a w.q w.id reqSignal (pktJob w.dw) (dwOf w.dw 1) 1 v with
    | some s => .next s
    | none => s.idle

/-- SIGNAL_SUBTRACT: the operand subtracted at the signal's home, indivisibly (R66). Arguments: a the package, b the work's place. -/
def execSignalSubtract (s : State) : Out :=
  match s.signalWork s.arg.a s.arg.b 2 with
  | none => s.idle
  | some (w, v) => match (s.dropWork s.arg.a w).signalOp s.arg.a w.q w.id reqSignal (pktJob w.dw) (dwOf w.dw 1) 1 (-v) with
    | some s => .next s
    | none => s.idle

/-- The work of a LAUNCH, COPY or GANG is done: its completion signal decremented, or complete at once without one (R68). None where the
decrement must be tried again. -/
def State.completeWork (s : State) (p q id : Nat) (dw : List Word) : Option State :=
  if dwOf dw 6 = 0 then some (s.packetDone p q id)
  else s.signalOp p q id reqComplete (pktJob dw) (dwOf dw 6) 1 (-1)

/-- A launch slot freed with its entries in the die launch tables and the messages that still name it (R89). -/
def State.freeLaunch (s : State) (p ls : Nat) : State :=
  (List.range 4).foldl (fun s d => s.modDie (4 * p + d) fun x => { x with launches := x.launches.erase ls })
    (s.modPkg p fun x => { x with launches := x.launches.erase ls, retires := x.retires.filter fun r => r.lslot != ls })

/-- A work is complete, its signal decremented or its decrement failed: the launch slot of a LAUNCH is free from then on (R89, R444). -/
def State.endLaunch (s : State) (p q id : Nat) : State := match (s.pkg p).launches.find? fun e => e.2.q == q && e.2.id == id with
  | some e => s.freeLaunch p e.1
  | none => s

/-- The parcels of a launch have all retired: its signal is decremented, and the slot is freed once that has completed (R68, R89, R444). None where the decrement must
be tried again. -/
def State.completeLaunch (s : State) (p ls : Nat) (l : Launch) : Option State :=
  (s.completeWork p l.q l.id l.dw).map fun t =>
    if (t.pkg p).hostReqs.any fun r => r.kind == reqComplete && r.q == l.q && r.id == l.id then t else t.freeLaunch p ls

/-! ### DEPEND (R65) -/

/-- DEPEND: the packet reads its signal as it begins; later packets of its queue stop until its condition holds (R65). Arguments: a the
package, b the queue. -/
def execDepend (s : State) : Out :=
  if s.frontUp s.arg.a then .next (s.dependPoll s.arg.a (s.arg.b % 4096)) else s.idle

/-- DEPEND_POLL: a waiting DEPEND's signal is read again, every 1 µs and at each decrement of the package (R65). Arguments: a the package,
b the queue. -/
def execDependPoll (s : State) : Out :=
  if s.frontUp s.arg.a then .next (s.dependPoll s.arg.a (s.arg.b % 4096)) else s.idle

/-! ### COPY (R67) -/

/-- The length of a COPY, and of its piece at byte m (R67). -/
def copyLen (dw : List Word) : Nat := (dwOf dw 3).toNat % 2 ^ 40
def pieceOf (dw : List Word) (m : Nat) : Nat :=
  let a := (dwOf dw 1 + BitVec.ofNat 64 m).toNat
  let b := (dwOf dw 2 + BitVec.ofNat 64 m).toNat
  min (copyLen dw - m) (min (256 - a % 256) (256 - b % 256))

/-- A COPY that cannot go on fails its queue (R63, R67). -/
def State.failCopy (s : State) (p : Nat) (w : Work) (c : BitVec 8) : State := (s.dropWork p w).failPacket p w.q w.id c

/-- A piece's data is written whole (R67), to host memory at once, with the link down too (DESIGN CHOICE, log entry 59); after the last one the packet is complete. None
where it must be tried again. -/
def State.putPiece (s : State) (p : Nat) (w : Work) (n : Nat) (v : BitVec 2048) : Option State :=
  match s.fePlace p (pktJob w.dw) (dwOf w.dw 2 + BitVec.ofNat 64 w.moved) true with
  | .error .busy => none
  | .error (.code c) => some (s.failCopy p w c)
  | .ok pa =>
    if paPeer pa ≠ hostPeer ∧ (s.agentObtain pa n).partialPoison pa n then some (s.failCopy p w codeSigfail)
    else
      let s := if paPeer pa = hostPeer then s.memWrite pa n v else s.agentWrite pa n v
      if w.moved + n < copyLen w.dw then
        some (s.modPkg p fun x => { x with works := x.works.map fun y => if y.q = w.q ∧ y.id = w.id then { y with moved := w.moved + n } else y })
      else (s.dropWork p w).completeWork p w.q w.id w.dw

/-- A COPY's next piece: read and written in this step, or read from the host first (R67). -/
def State.copyPiece (s : State) (p : Nat) (w : Work) : State :=
  let n := pieceOf w.dw w.moved
  if copyLen w.dw ≤ w.moved then ((s.dropWork p w).completeWork p w.q w.id w.dw).getD s
  else if (s.pkg p).hostReqs.any (fun r => r.kind == reqCopy && r.q == w.q && r.id == w.id) then s
  else match s.fePlace p (pktJob w.dw) (dwOf w.dw 1 + BitVec.ofNat 64 w.moved) false with
    | .error .busy => s
    | .error (.code c) => s.failCopy p w c
    | .ok pa =>
      if paPeer pa = hostPeer then
        (s.askHost p w.q w.id reqCopy { type := 0x01, size := 8, plen := BitVec.ofNat 9 n, job := pktJob w.dw, off := BitVec.ofNat 44 (paOff pa), dst := BitVec.ofNat 13 hostPeer }).getD s
      else
        let s' := s.agentClean pa n
        if s'.poisonIn pa n then s.failCopy p w codeSigfail
        else (s'.putPiece p w n ((s'.memRead pa n).setWidth 2048)).getD s

/-- COPY: a COPY packet starts; one of no bytes completes, any other asks for its first piece (R67). Arguments: a the package, b the work's
place. -/
def execCopy (s : State) : Out :=
  match s.work s.arg.a s.arg.b 4 with
  | some w => if s.frontUp s.arg.a ∧ w.moved = 0 then .next (s.copyPiece s.arg.a w) else s.idle
  | none => s.idle

/-- COPY_PIECE: the next piece of a COPY is read whole and written whole (R67). Arguments: a the package, b the work's place. -/
def execCopyPiece (s : State) : Out :=
  match s.work s.arg.a s.arg.b 4 with
  | some w => if s.frontUp s.arg.a ∧ 0 < w.moved then .next (s.copyPiece s.arg.a w) else s.idle
  | none => s.idle

/-! ### PCIE_COMPLETION (R52, R55, R56, R66 to R68, R107) -/

/-- An AtomicOp or a read at the host: the value before and the memory after (R56). -/
def State.atHost (s : State) (k : Pkt) : State × Word :=
  let a := paOf hostPeer k.off.toNat
  let w := s.word a
  if k.type = 0x03 then
    (s.memWrite a 8 (if k.fn.toNat = 9 then (atomFn 9 w (k.payload.setWidth 64) k.operand).1 else (atomFn k.fn.toNat w k.operand 0).1), w)
  else (s, w)

/-- The completion of a thread's request goes back to it, or is late (R56, R99, R107). -/
def State.threadCompletion (s : State) (p : Nat) (k : Pkt) (good : Bool) : State :=
  let r := s.atHost k
  let n := 2 ^ k.size.toNat
  let ans : Pkt :=
    if !good then { k.resp (min n 8) 0 true with src := BitVec.ofNat 13 (4 * p) }
    else if k.type = 0x03 then { k.resp 8 0 false with operand := r.2, src := BitVec.ofNat 13 (4 * p) }
    else { k.resp n ((s.memRead (paOf hostPeer k.off.toNat) n).setWidth 2048) false with
           operand := if n = 256 then 0xFFFF_FFFF else 0, src := BitVec.ofNat 13 (4 * p) }
  let s := if good then r.1 else s
  let g := s.gang p k.job
  if g.marked ∧ g.phase.stops then s.late p 1093 0 ans (.source (4 * p)) else s.send ans

/-- A completion reaches what asked for it. -/
def State.completion (s : State) (p : Nat) (r : HostReq) (k : Pkt) (good : Bool) : Option State :=
  if r.kind = reqThread then some (s.threadCompletion p k good)
  else if r.kind = reqDepend then
    (match (s.pkg p).works.find? fun w => w.q == r.q && w.id == r.id with
     | none => some s
     | some w => if good then some (s.dependRead p r.q r.id w.dw (s.atHost k).2) else some (s.failPacket p r.q r.id codeSigfail))
  else if r.kind = reqCopy then
    (match (s.pkg p).works.find? fun w => w.q == r.q && w.id == r.id with
     | none => some s
     | some w =>
       if good then s.putPiece p w k.plen.toNat ((s.memRead (paOf hostPeer k.off.toNat) k.plen.toNat).setWidth 2048)
       else some (s.failCopy p w codeSigfail))
  else
    let s' := if r.kind = reqComplete then s.endLaunch p r.q r.id else s
    if !good then some (s'.failPacket p r.q r.id codeSigfail)
    else
      let x := s'.atHost k
      some (((x.1.signalled p r.q (x.2 + k.operand)).packetDone p r.q r.id).pollDepends p)

/-- PCIE_COMPLETION: a completion of an outstanding request arrives from the host; one of status UR or CA gives poison and cause PEER, or
SIGFAIL (R55, R56, R63). Arguments: a the package, b the request's place, good whether it succeeded. -/
def execPcieCompletion (s : State) : Out :=
  let p := s.arg.a
  match (s.pkg p).hostReqs[s.arg.b]? with
  | none => s.idle
  | some r => match r.pkt with
    | none => s.idle
    | some k => match (s.modPkg p fun x => { x with hostReqs := dropAt x.hostReqs s.arg.b }).completion p r k s.arg.good with
      | some s => .next s
      | none => s.idle

/-! ### BAR4 (R53, R69, R446) -/

/-- The home of a BAR4 offset: none beyond the programmed size, or where the lines are lost (R17, R53). -/
def State.barPlace (s : State) (p off n : Nat) : Option Nat :=
  let pa := paOf (4 * p + off / 2 ^ 37 % 4) (off % 2 ^ 37)
  if (s.pkg p).barSize < off + n ∨ (linesOf pa n).any (fun l => s.lost (l * 256)) then none else some pa

/-- The device logs an uncorrectable non-fatal error (R53). -/
def State.aer (s : State) (p : Nat) : State := { s with host := s.host ++ [.aer p] }

/-- Are the lines of n bytes free of transactions? -/
def State.allFree (s : State) (a n : Nat) : Bool := (linesOf a n).all s.lineFree

/-- Has a package's port posted writes of the host that it has not yet acted on (R440)? -/
def State.postedTo (s : State) (p : Nat) : Bool := s.posted.any fun e => e.2.a == p

/-- HOST_BAR4_READ: a host read reaches the home, which recalls an owned line first; poisoned data where the offset is bad, the line lost or
a word poisoned (R53, R69, R446). It does not pass a posted write (PRESUMED, log entry 53). Arguments: a the package, b the offset, c the number of bytes. -/
def execHostBar4Read (s : State) : Out :=
  let p := s.arg.a
  let n := min s.arg.c 4096
  if (s.pkg p).pcieLanes = 0 ∨ (s.pkg p).power ≠ .on ∨ s.postedTo p then s.idle
  else match s.barPlace p s.arg.b n with
    | none => .next { s.aer p with host := s.host ++ [.aer p, .read [] true] }
    | some pa =>
      if !s.allFree pa n then s.idle
      else
        let s := s.agentClean pa n
        if s.poisonIn pa n then .next { s with host := s.host ++ [.aer p, .read [] true] }
        else .next { s with host := s.host ++ [.read ((List.range n).map fun i => s.mem.read (pa + i)) false] }

/-- HOST_BAR4_WRITE: a host write is performed at the home: dirty sectors recalled, copies invalidated, the bytes written; or it is
discarded and logged (R53, R69, R446). One whose lines are under a transaction waits for them, and every posted write that comes after it waits behind it (R440). Arguments:
a the package, b the offset, bytes. -/
def execHostBar4Write (s : State) : Out :=
  let p := s.arg.a
  let n := s.arg.bytes.length
  if (s.pkg p).pcieLanes = 0 ∨ (s.pkg p).power ≠ .on ∨ n = 0 then s.idle
  else match s.barPlace p s.arg.b n with
    | none => .next (s.aer p)
    | some pa =>
      if !s.allFree pa n then .next { s with posted := s.posted ++ [(.hostBar4Write, s.arg)] }
      else
        let s' := s.agentObtain pa n
        if s'.partialPoison pa n then .next (s'.aer p)
        else .next (({ s' with mem := s'.mem.writeList pa s.arg.bytes }).unpoison pa n)

end Sys2Proof.Machine
end

