-- ==== Sys2Proof/Machine/Image.lean ====
section
/-!
DEFINITION. Machine/Image.lean: the memory images of saved state: pre-emption areas and save areas (R92, R105, R156, R213 to R215, R314, R353,
R447, R448). An image is a table of the bytes that are not 0, by their place in it (log entry 9).
-/
namespace Sys2Proof.Machine

/-- Dwords written into an image from an offset on. -/
def putDwords (m : Cells) (a : Nat) : List Word → Cells
  | [] => m
  | w :: ws => putDwords (m.writeN a 8 w) (a + 8) ws

/-- A bit string written into an image, n bytes from an offset on. -/
def putBytes {w : Nat} (m : Cells) (a n : Nat) (v : BitVec w) : Cells := m.writeN a n v

/-- n bytes at an address replaced by an image, after every copy of their lines has been given up (R42, R167). -/
def State.putImage (s : State) (a n : Nat) (img : Cells) : State :=
  let s := ((s.die (paPeer a)).dir.filter fun e => a / 256 ≤ e.1 && e.1 < (a + n + 255) / 256).foldl (fun s e => s.homeObtain e.1) s
  { s with mem := img.foldl (fun m e => m.write (a + e.1) e.2) (s.mem.filter fun e => !(a ≤ e.1 && e.1 < a + n)),
           poison := s.poison.filter fun x => !(a ≤ x && x < a + n) }

/-- n bytes at an address as an image, after every copy has been written home. -/
def State.getImage (s : State) (a n : Nat) : State × Cells :=
  let s := ((s.die (paPeer a)).dir.filter fun e => a / 256 ≤ e.1 && e.1 < (a + n + 255) / 256).foldl (fun s e => s.homeClean e.1) s
  (s, (s.mem.filter fun e => a ≤ e.1 && e.1 < a + n).map fun e => (e.1 - a, e.2))

/-- Dword j of an image. -/
def imgDword (m : Cells) (a : Nat) : Word := m.readN a 8

/-! ### A core's parts -/

/-- A region's descriptor (R156). -/
def Region.dwords (r : Region) : List Word :=
  [((bits r.base 15 42 : BitVec 42).setWidth 64 <<< 15) ||| BitVec.ofNat 64 ((if r.ro then 512 else 0) + 8 * r.fmt.toNat + (if r.bound then 1 else 0)),
   bits r.valid 0 64, bits r.valid 64 64] ++ ((List.range 4).map fun i => bits r.dirty (64 * i) 64) ++ [0]

/-- The four table configurations (R353). -/
def Crew.tableDwords (x : Crew) : List Word :=
  (List.range 4).flatMap fun i => let t := x.tables.get {} i; [t.scale ++ t.x0, b1 t.valid ++ (0 : BitVec 45) ++ t.base]

/-- The full/empty bits of a core's stash, as an image of 4 KiB: 1 full (R92). -/
def State.stashBitsImage (s : State) (c : Nat) (m : Cells) (a : Nat) : Cells :=
  let empties := (s.stashEmpty.filter fun x => x / 2 ^ 18 == c).map fun x => x % 2 ^ 18 / 8
  (List.range 4096).foldr (fun i m =>
    m.write (a + i) (((empties.filter fun w => w / 8 == i).foldl (fun (b : BitVec 8) w => b &&& ~~~((1 : BitVec 8) <<< (w % 8))) 0xFF))) m

/-- A core's stash data put into an image at an offset. -/
def State.stashImage (s : State) (c : Nat) (m : Cells) (a : Nat) : Cells :=
  (s.stash.filter fun e => e.1 / 2 ^ 18 == c).foldl (fun m e => m.write (a + e.1 % 2 ^ 18) e.2) m

/-- A core's stash and its full/empty bits read back from an image: data at offset a, bits at offset b (R92, R94, R108). -/
def State.restoreStash (s : State) (c : Nat) (m : Cells) (a b : Nat) : State :=
  let inStash := fun (x : Nat) => x / 2 ^ 18 == c
  { s with
    stash := ((m.filter fun e => a ≤ e.1 && e.1 < a + 0x4_0000).foldl (fun st e => st.write (stashKey c (e.1 - a)) e.2) (s.stash.filter fun e => !inStash e.1)),
    stashPoison := s.stashPoison.filter fun x => !inStash x,
    stashEmpty := (List.range 32768).foldl (fun (n : NSet) w =>
      if (m.read (b + w / 8)).getLsbD (w % 8) then n else n.insert (stashKey c (8 * w))) (s.stashEmpty.filter fun x => !inStash x) }

/-- A core's stash and tables as dispatch resets them (R87). -/
def State.wipeStash (s : State) (c : Nat) : State :=
  let s := { s with stash := s.stash.filter (fun e => e.1 / 2 ^ 18 != c), stashEmpty := s.stashEmpty.filter (fun x => x / 2 ^ 18 != c),
                        stashPoison := s.stashPoison.filter fun x => x / 2 ^ 18 != c }
  s.modCrew c fun x => { x with regions := [], tables := x.tables.mapV fun _ t => { t with valid := false } }

/-- A crew's part as a core-state block, region descriptors and table configurations give it back, each by its dwords (R94, R108, R156, R314, R353). What the
layouts do not hold is as it was. -/
def Crew.reread (x : Crew) (block regions tables : Nat → Word) : Crew :=
  let head := (block 11).toNat % 64
  { x with
    mb := (List.range 8).map fun i => (i, block i), mbFull := (block 8).setWidth 8,
    sems := (List.range 8).map fun i => (i, bits (block 9) (8 * i) 8), queueHead := BitVec.ofNat 6 head,
    queue := (List.range (min 64 ((block 11).toNat / 256 % 128))).map fun j => block (12 + (head + j) % 64),
    heldWrites := (List.range 16).filterMap fun i =>
      let d := fun (j : Nat) => block (76 + 8 * i + j)
      if (d 0).getLsbD 63 then
        some { (x.heldWrites[i]?).getD { box := 0, value := 0, sender := 0 } with
                 box := (d 0).toNat % 8, value := d 1, tag := bits (d 2) 32 16, sender := (d 2).toNat % 2 ^ 23 * 8 + (d 2).toNat / 2 ^ 23 % 8 }
      else none,
    regions := x.regions.mapV fun i r => { r with bound := r.bound && (regions (8 * i)).getLsbD 0, ro := (regions (8 * i)).getLsbD 9, fmt := bits (regions (8 * i)) 3 6 },
    tables := (List.range 4).map fun i =>
      (i, { x0 := bits (tables (2 * i)) 0 32, scale := bits (tables (2 * i)) 32 32, valid := (tables (2 * i + 1)).getLsbD 63, base := bits (tables (2 * i + 1)) 0 18 }) }

/-- Every bound region of a core written back; `keep` leaves its lines valid (R160). -/
def State.cleanRegions (s : State) (c : Nat) (keep : Bool) : State :=
  (List.range 8).foldl (fun s i => if (s.region c i).bound then (s.cleanRegion (c * 8) i keep).1 else s) s

/-- A crew as a saved image keeps it: its bound regions clean, each line to be touched anew (R91, R104, R158; log entry 9). -/
def Crew.cleaned (x : Crew) : Crew := { x with regions := x.regions.mapV fun _ r => { r with valid := 0, dirty := 0 } }

/-- A core's pre-emption area without its spill queue (R92). -/
def State.preemptImage (s : State) (c : Nat) (x : Crew) (ts : List Slot) (bind : List Word) : Cells :=
  let m : Cells := (ts.zipIdx).foldl (fun m t => putDwords m (2560 * t.2) t.1.image) []
  let m := putDwords m 0x5000 (x.block (latchesOf ts))
  let m := putDwords m 0x5700 x.channelEntries
  let m := putDwords m 0x5800 x.matrixEntries
  let m := putDwords m 0x5A00 bind
  let m := putDwords m 0x5FC0 x.tableDwords
  let m := s.stashBitsImage c m 0x6000
  let m := putDwords m 0x7000 ((List.range 8).flatMap fun i => (x.regions.get {} i).dwords)
  s.stashImage c m 0x8000

end Sys2Proof.Machine
end

