-- ==== Sys2Proof/Machine/Launch.lean ====
section
/-!
DEFINITION. Machine/Launch.lean: launches, Cobalt's choices, pre-emption and retirement (R78 to R94). Cobalt's loads and compare-and-swaps on the
range words of one take, its writes of one bind, and the save of one crew are one step each (log entry 11).
-/
namespace Sys2Proof.Machine

/-! ### Acceptance (R80 to R82) -/

def State.dieLaunch (s : State) (peer ls : Nat) : DieLaunch := (s.die peer).launches.get {} ls
def State.modDieLaunch (s : State) (peer ls : Nat) (f : DieLaunch → DieLaunch) : State :=
  s.modDie peer fun d => { d with launches := d.launches.set ls (f (d.launches.get {} ls)) }

/-- A range word (R82). -/
def rangeWord (lo hi : Nat) : Word := BitVec.ofNat 64 (hi * 2 ^ 32 + lo)
def DieLaunch.lo (d : DieLaunch) : Nat := (bits d.range 0 32 : BitVec 32).toNat
def DieLaunch.hi (d : DieLaunch) : Nat := (bits d.range 32 32 : BitVec 32).toNat

/-- The share of die d in a launch of P parcels (R82). -/
def shareLo (total d : Nat) : Nat := total * d / 4

/-- The seven constants of a LAUNCH read at their address (R80); those in host memory in one step, always with success (DESIGN CHOICE, log entry 47). -/
def State.readConsts (s : State) (p : Nat) (job : BitVec 12) (va : Word) : Nat → Except FeStop (State × List Word)
  | 0 => .ok (s, [])
  | n + 1 => match State.readConsts s p job va n with
    | .error e => .error e
    | .ok (s, l) => match s.fePlace p job (va + BitVec.ofNat 64 (8 * n)) false with
      | .error e => .error e
      | .ok pa =>
        let s := if paPeer pa = hostPeer then s else s.homeClean (pa / 256)
        if s.poisonAt pa then .error (.code codeSigfail) else .ok (s, l ++ [s.word pa])

/-- A LAUNCH is accepted: launch slot, constants in every die's launch table, the shares; one without parcels completes at once (R78, R80 to
R82). None where it must be tried again. -/
def State.acceptLaunch (s : State) (p : Nat) (w : Work) : Option State :=
  let dw := w.dw
  match (List.range 64).find? fun i => !(s.pkg p).launches.has i with
  | none => none
  | some ls => match s.readConsts p (pktJob dw) (dwOf dw 4) 7 with
    | .error .busy => none
    | .error (.code c) => some ((s.dropWork p w).failPacket p w.q w.id c)
    | .ok (s, consts) =>
      let total := parcelsOf dw
      if total = 0 then (s.dropWork p w).completeWork p w.q w.id dw
      else
        let s := (s.dropWork p w).modPkg p fun x =>
          { x with
            launchSeq := x.launchSeq + 1,
            launches := x.launches.set ls
              { q := w.q, id := w.id, dw := dw, job := pktJob dw, prio := BitVec.ofNat 4 (min ((dwOf dw 0).toNat / 2 ^ 44 % 16) (x.queues.get {} w.q).pceil.toNat),
                total := total, accepted := x.launchSeq } }
        some ((List.range 4).foldl (fun s d => s.modDieLaunch (4 * p + d) ls fun _ =>
          { consts := consts, range := rangeWord (shareLo total d) (shareLo total (d + 1)), share := shareLo total d < shareLo total (d + 1) }) s)

/-- The first LAUNCH of a queue that has begun and holds no launch slot yet. -/
def State.launchWork (s : State) (p n : Nat) : Option Work := (s.pkg p).works.find? fun w => w.q == n && pktType w.dw == 1

/-- LAUNCH: a LAUNCH packet that has begun is accepted (R80, R81). Arguments: a the package, b the queue. -/
def execLaunch (s : State) : Out :=
  match s.launchWork s.arg.a (s.arg.b % 4096) with
  | some w =>
    if s.frontUp s.arg.a then (match s.acceptLaunch s.arg.a w with
      | some s => .next s
      | none => s.idle)
    else s.idle
  | none => s.idle

/-- LAUNCH_ACCEPT: a launch slot is free, and the waiting LAUNCH of the lowest-numbered queue is consumed; with its barrier met it begins and is
accepted (R81). Arguments: a the package, b the queue. -/
def execLaunchAccept (s : State) : Out :=
  let p := s.arg.a
  let n := s.arg.b % 4096
  if s.frontUp p ∧ (s.pkg p).slotsTaken < 64 ∧ s.launchReady p n ∧ (s.pkg p).queues.all (fun e => n ≤ e.1 || !s.launchReady p e.1) then
    let s := s.consume p n
    match (s.queue p n).consumed with
    | none => .next s
    | some dw =>
      if (s.queue p n).barred ∨ (s.queue p n).failed then .next s
      else
        let s := s.beginPacket p n dw
        match s.launchWork p n with
        | some w => .next ((s.acceptLaunch p w).getD s)
        | none => .next s
  else s.idle

/-! ### Taking a parcel (R83) -/

/-- The die that a thief of a launch takes from: the largest range of two or more, the lowest die on ties. -/
def State.richest (s : State) (peer ls : Nat) : Option Nat :=
  let left := fun (e : Nat) => (s.dieLaunch e ls).hi - (s.dieLaunch e ls).lo
  ((List.range 4).map fun d => peer / 4 * 4 + d).foldl (fun (b : Option Nat) e =>
    if e = peer ∨ left e ≤ 1 then b
    else match b with
      | none => some e
      | some x => if left x < left e then some e else b) none

/-- take(d): the lowest lost parcel, else the lowest of the own range, else the upper half of the richest other range; a die that finds none is
DRY (R83, R110). -/
def State.take (s : State) (peer ls : Nat) : State × Option Nat :=
  let d := s.dieLaunch peer ls
  match d.redo with
  | n :: r => (s.modDieLaunch peer ls fun d => { d with redo := r }, some n)
  | [] =>
    if d.lo < d.hi then (s.modDieLaunch peer ls fun d => { d with range := rangeWord (d.lo + 1) d.hi }, some d.lo)
    else match s.richest peer ls with
      | none => (s.modDieLaunch peer ls fun d => { d with dry := true }, none)
      | some e =>
        let x := s.dieLaunch e ls
        let cut := x.hi - (x.hi - x.lo) / 2
        ((s.modDieLaunch e ls fun y => { y with range := rangeWord y.lo cut }).modDieLaunch peer ls fun y => { y with range := rangeWord (cut + 1) x.hi }, some cut)

/-! ### What to bind (R84, R85, R90) -/

/-- Does a launch stand in a die's list (R84, R98, R110)? A launch behind another of its queue waits for that one's first parcel here (R90). -/
def State.listed (s : State) (peer : Nat) (ls : Nat) (l : Launch) : Bool :=
  let d := s.dieLaunch peer ls
  ((d.share && !d.dry) || d.redo != []) && !(s.gang (peer / 4) l.job).phase.bars &&
    (s.pkg (peer / 4)).launches.all fun e => !(e.2.q == l.q && e.2.accepted < l.accepted && (s.dieLaunch peer e.1).share && !(s.dieLaunch peer e.1).started)

/-- The first launch of a die's list: highest priority, then oldest (R84). -/
def State.firstLaunch (s : State) (peer : Nat) : Option (Nat × Launch) :=
  ((s.pkg (peer / 4)).launches.filter fun e => s.listed peer e.1 e.2).foldl (fun (b : Option (Nat × Launch)) e => match b with
    | none => some e
    | some x => if x.2.prio < e.2.prio ∨ (x.2.prio = e.2.prio ∧ e.2.accepted < x.2.accepted) then some e else b) none

/-- Is a core named by what a job switched out will need while it waits to come back (R108)? -/
def State.coreNamed (s : State) (c : Nat) : Bool :=
  (s.pkg (c / 1024 / 4)).gangs.any fun g => g.2.order == .restore && g.2.phase == .out &&
    (g.2.crews.has c || g.2.saved.has c || g.2.slots.any fun e => coreOf e.1 == c)

/-- Is a core free: no parcel bound, every slot FREE, no pre-emption on its way (R84, R88)? -/
def State.coreFree (s : State) (c : Nat) : Bool :=
  !(s.core c).crew.bind.valid && !(s.core c).halting && (List.range 8).all fun i => (s.slot (c * 8 + i)).st == .free

/-- Is a block of a die being replaced: no further job gets slots there meanwhile (R15)? -/
def State.underRepair (s : State) (peer : Nat) : Bool := match (s.pkg (peer / 4)).repair with
  | some r => r.core / 1024 == peer
  | none => false

/-- May Cobalt bind to a core at all (R15, R84, R108, R135)? -/
def State.bindable (s : State) (c : Nat) : Bool :=
  (s.die (c / 1024)).quadValid (quadNo (quadOf c)) && (s.die (c / 1024)).supcore != BitVec.ofNat 64 c && !s.underRepair (c / 1024) && s.coreFree c && !s.coreNamed c

/-- Does a core's pre-empted crew come before a new parcel of a priority (R85)? -/
def State.resumesFirst (s : State) (c : Nat) (prio : BitVec 4) : Bool := match (s.core c).saved with
  | some sv => prio ≤ sv.crew.bind.prio
  | none => false

/-- Is a LAUNCH a lock-step launch, is it rerunnable (R62)? -/
def lockstepOf (dw : List Word) : Bool := (dwOf dw 3).getLsbD 56
def rerunOf (dw : List Word) : Bool := (dwOf dw 3).getLsbD 57

/-! ### Dispatch (R78, R86, R87) -/

/-- Parcel n of the LAUNCH with an acceptance number, kept by a core (R78). -/
def parcelAt (dw : List Word) (accepted n home : Nat) : ParcelId :=
  let nx := parcelsOn dw 0
  let ny := parcelsOn dw 1
  let o0 := n % nx * shapeOf dw 0
  let o1 := n / nx % ny * shapeOf dw 1
  let o2 := n / (nx * ny) * shapeOf dw 2
  { launch := accepted, parcel := BitVec.ofNat 32 n, home := home, org0 := BitVec.ofNat 64 o0, org1 := BitVec.ofNat 64 o1, org2 := BitVec.ofNat 64 o2,
    len0 := BitVec.ofNat 64 (min (shapeOf dw 0) (gridOf dw 0 - o0)), len1 := BitVec.ofNat 64 (min (shapeOf dw 1) (gridOf dw 1 - o1)),
    len2 := BitVec.ofNat 64 (min (shapeOf dw 2) (gridOf dw 2 - o2)) }

/-- The bind record that Cobalt writes (R86). -/
def bindRecord (ls : Nat) (l : Launch) (n : Nat) : Bind :=
  { launch := l.accepted, entry := dwOf l.dw 1, consts := BitVec.ofNat 64 ls, parcel := BitVec.ofNat 32 n, job := l.job, prio := l.prio, mask := maskOf l.dw,
    lockstep := lockstepOf l.dw, rerun := rerunOf l.dw, lslot := BitVec.ofNat 6 ls, live := BitVec.ofNat 16 (count8 (maskOf l.dw)),
    stash := bits (dwOf l.dw 5) 0 19, valid := true }

/-- sr.ssp of slot i at dispatch: by its rank among the mask's bits (R87). -/
def sspAt (mask : BitVec 8) (i : Nat) : Word :=
  0x8000_0000_0004_0000 - BitVec.ofNat 64 (4096 * (List.range i).countP fun j => mask.getLsbD j)

/-- One core and its slots loaded for a parcel (R87). The stash of a core that has run no crew, or whose last crew had another job, is written
back where it is bound (R160) and reset. -/
def State.dispatch (s : State) (c lead ls : Nat) (l : Launch) (n order : Nat) : State :=
  let x := s.core c
  let s := if !x.ran || x.lastJob != l.job then
      ((s.modSlot (c * 8) fun t => { t with job := x.lastJob }).cleanRegions c false).wipeStash c else s
  let k := (s.dieLaunch (c / 1024) ls).consts
  let s := s.modCore c fun x =>
    { x with
      ran := true, lastJob := l.job,
      crew := { x.crew with
        g := (List.range 7).map fun i => (i + 1, (k[i]?).getD 0), mb := [], mbFull := 0, heldWrites := [], sems := [], queueHead := 0, queue := [],
        channels := [], matrix := [], bind := bindRecord ls l n, boundAt := x.cycle, order := order } }
  (List.range 8).foldl (fun s i =>
    if (maskOf l.dw).getLsbD i then
      s.modSlot (c * 8 + i) fun t => t.dispatched (dwOf l.dw 1) (sspAt (maskOf l.dw) i) l.job (parcelAt l.dw l.accepted n lead)
    else s) s

/-- A parcel bound to a core, or to both cores of a pair (R84, R90). -/
def State.bindTo (s : State) (c ls : Nat) (l : Launch) (n : Nat) : State :=
  let peer := c / 1024
  let order := (s.die peer).binds + 1
  let s := s.modDie peer fun d => { d with binds := order }
  let s := s.modDieLaunch peer ls fun d => { d with started := true }
  if lockstepOf l.dw then (List.range 8).foldl (fun s i => s.alike (c * 8 + i)) ((s.dispatch c c ls l n order).dispatch (c + 1) c ls l n order)
  else s.dispatch c c ls l n order

/-- The choice of R84: take from the first launch of the list, dropping those that are DRY, and bind. The parcel of a lock-step launch that does not fit this core
stays where it was, for another core (R84, R85). -/
def State.choose (c : Nat) : Nat → State → State
  | 0, s => s
  | m + 1, s => match s.firstLaunch (c / 1024) with
    | none => s
    | some (ls, l) =>
      if s.resumesFirst c l.prio then s
      else
        let r := s.take (c / 1024) ls
        match r.2 with
        | some n => if lockstepOf l.dw && (c % 2 = 1 || !s.bindable (c + 1) || s.resumesFirst (c + 1) l.prio) then s else r.1.bindTo c ls l n
        | none => State.choose c m r.1

/-- Does a die's Cobalt work (R25, R71)? -/
def State.cobaltUp (s : State) (peer : Nat) : Bool := s.frontUp (peer / 4) && (s.die peer).cobalt

/-- COBALT_BIND: a free core's Cobalt chooses a launch, takes a parcel and writes the bind record; a parcel starts as it is bound (R84, R87).
Arguments: a the die's peer number, b the core of the die; of a pair the even one. -/
def execCobaltBind (s : State) : Out :=
  let c := s.arg.a * 1024 + s.arg.b % 1024
  if s.cobaltUp s.arg.a ∧ s.bindable c then .next (State.choose c 65 s) else s.idle

/-! ### Pre-emption (R85, R91, R92) -/

/-- 10 µs in cycles of the core clock (R85; log entry 15). -/
def tenMicros : Nat := 33000

/-- May Cobalt pre-empt the crew of a core for a launch of a priority (R85, R91, R98)? -/
def State.preemptible (s : State) (c : Nat) (prio : BitVec 4) : Bool :=
  let x := s.core c
  x.crew.bind.valid && x.crew.bind.prio < prio && tenMicros ≤ (x.cycle - x.crew.boundAt).toNat &&
    (!x.crew.bind.lockstep || c % 2 == 0) && (s.pair c).all (fun c => (s.core c).saved.isNone && !(s.core c).halting) &&
    !(s.gang (c / 1024 / 4) x.crew.bind.job).phase.bars

/-- Is a core's crew chosen before another's: lower priority, then bound later (R85)? -/
def State.before (s : State) (c e : Nat) : Bool :=
  let x := (s.core c).crew
  let y := (s.core e).crew
  x.bind.prio < y.bind.prio || (x.bind.prio == y.bind.prio && y.order ≤ x.order)

/-- The launch that waits: the first of the list that has a parcel to take, those found DRY passed over (R84, R85). -/
def State.waitingLaunch (peer : Nat) : Nat → State → Option Launch
  | 0, _ => none
  | m + 1, s => match s.firstLaunch peer with
    | none => none
    | some (ls, l) =>
      let r := s.take peer ls
      if r.2.isSome then some l else State.waitingLaunch peer m r.1

/-- COBALT_PREEMPT: with no core free and a launch waiting above some crew, the lowest and latest bound crew gets a pre-emption message (R85). While one is under
way its core is not free, and another may start for the same launch (DESIGN CHOICE, log entry 49). Arguments: a the die's peer number, b the core; of a pair the even one. -/
def execCobaltPreempt (s : State) : Out :=
  let peer := s.arg.a
  let c := peer * 1024 + s.arg.b % 1024
  match State.waitingLaunch peer 65 s with
  | none => s.idle
  | some l =>
    if s.cobaltUp peer ∧ s.preemptible c l.prio ∧ (List.range 1024).all (fun i => !s.bindable (peer * 1024 + i)) ∧
        (s.cores.all fun e => e.1 / 1024 != peer || !s.preemptible e.1 l.prio || s.before c e.1) then .next (s.sendPreempt c)
    else s.idle

/-- A command waits in its queue, or only for its writes in a bound region to come home: a pre-emption's save writes that region back, and the command ends then (R91,
R92, R362). -/
def EngCmd.rests (e : EngCmd) : Bool := e.stage == .queued || e.stage == .blocked || (e.stage == .decided && e.deliveries == 0)

/-- Has the engine no command of a core in progress, in its queue or in the quad's replay slot (R91)? -/
def State.engineIdle (s : State) (c : Nat) : Bool :=
  (s.core c).crew.matrix.all (·.rests) && ((s.quad (quadOf c)).replay.all fun e => coreOf e.slot != c || e.rests)

/-- A command of a core in its quad's replay slot back at the head of its queue (R91; log entry 9). -/
def State.unreplay (s : State) (c : Nat) : State :=
  match (s.quad (quadOf c)).replay with
  | none => s
  | some e =>
    if coreOf e.slot = c then
      (s.modQuad (quadOf c) fun q => { q with replay := none }).modCrew c fun x => { x with matrix := e :: x.matrix }
    else s

/-- A slot that leaves the rotation for a save: FROZEN, what it was kept (R91, R98, R116). -/
def Slot.frozen (t : Slot) : Slot := if t.st = .free ∨ t.st = .frozen then t else { t with st := .frozen, was := t.st }

/-- A slot as it was before a save, its wait begun anew (R94, R108, R142). -/
def Slot.thawed (t : Slot) : Slot := if t.st = .frozen then { t with st := t.was, was := .free, waited := 0 } else t

/-- One core's crew saved in its area, the core free for a new bind (R91, R92). -/
def State.preemptCore (s : State) (c : Nat) : State :=
  let s := (s.unreplay c).cleanRegions c true
  let s := (((s.core c).crew.matrix.filter fun e => e.stage == .decided).foldl (fun s e => s.finishCmd e) s)
  let ts := (List.range 8).map fun i => (s.slot (c * 8 + i)).frozen
  let x := (s.core c).crew
  let s := s.putImage (s.areaOf c) 0x4_8000 (s.preemptImage c x.cleaned ts ((List.range 4).map (s.bindDword c ·)))
  let s := (List.range 8).foldl (fun s i => s.modSlot (c * 8 + i) (·.freed)) s
  s.modCore c fun y =>
    { y with halting := false, saved := some { crew := x.cleaned, slots := ts }, crew := { regions := x.regions, tables := x.tables } }

/-- Does a core's pre-emption area lie at addresses that have a home (R92, R163)? -/
def State.areaOk (s : State) (c : Nat) : Bool := (s.die (c / 1024)).prbase.toNat + c % 1024 * 0x5_0000 + 0x5_0000 ≤ dramEnd

/-- PREEMPTION: a pre-emption message reaches a core: once the engine has no command of it in progress, its crew leaves the rotation and is saved,
both cores of a pair together (R91, R92). Arguments: a the core; of a pair the even one. -/
def execPreemption (s : State) : Out :=
  let c := s.arg.a
  let cs := s.pair c
  if !(s.core c).halting ∨ (cs.headD c) ≠ c then s.idle
  else if !(s.core c).crew.bind.valid then .next ((s.modCore c fun x => { x with halting := false }).prmptCode cs svcNoSlot)
  else if !cs.all s.engineIdle ∨ (s.gang (c / 1024 / 4) (s.core c).crew.bind.job).phase.bars then s.idle
  else if !cs.all s.areaOk then .fault (.noSuchAddress (s.areaOf c))
  else .next ((cs.foldl (fun s c => s.preemptCore c) s).prmptCode cs svcDone)

/-! ### Resuming (R94) -/

/-- An operation that stood at a walk, a line or a word starts again. -/
def State.restart (s : State) (k id : Nat) : State :=
  let s := s.modSlot k fun t => t.modOp id fun o =>
    { o with
      phase := if o.kind.byParts && o.phase != .parked then .held else o.phase,
      parts := o.parts.map fun p => if p.phase == .walk || p.phase == .line || p.phase == .waiting then { p with phase := .held } else p }
  match (s.slot k).op id with
  | some o =>
    if o.kind = .wfe ∧ o.phase = .waiting then s.beginWfe k o
    else if o.kind.byParts then s.beginOp k id
    else s
  | none => s

/-- The operations of a core's threads that wait for the core's own parts start again. -/
def State.restartAll (s : State) (c : Nat) : State :=
  let s := (List.range 8).foldl (fun s i => ((s.slot (c * 8 + i)).ops.map (·.id)).foldl (fun s id => s.restart (c * 8 + i) id) s) s
  (List.range 8).foldl (fun s n => s.serveBox c n) s

/-- One core's crew restored from its area (R92, R94). -/
def State.resumeCore (s : State) (c : Nat) (sv : SavedCrew) : State :=
  let r := s.getImage (s.areaOf c) 0x4_8000
  let s := r.1.cleanRegions c false
  let s := s.restoreStash c r.2 0x8000 0x6000
  let s := (List.range 8).foldl (fun s i => s.modSlot (c * 8 + i) fun now =>
    let t := (sv.slots[i]?).getD {}
    let g := fun (j : Nat) => imgDword r.2 (2560 * i + 8 * j)
    let t := if t.framed then { t with frame := (List.range 320).map fun j => (j, g j) } else if t.st = .free then t else t.fromImage g
    { t.thawed with opId := max t.opId now.opId, latch := (imgDword r.2 0x5050).getLsbD i }) s
  let g := fun (a j : Nat) => imgDword r.2 (a + 8 * j)
  let x' := sv.crew.reread (g 0x5000) (g 0x7000) (g 0x5FC0)
  s.modCore c fun x =>
    { x with
      crew := { x' with channels := x'.channels.mapV fun i y => { y with cpwp := g 0x5700 (8 * i) } },
      saved := none, ran := true, lastJob := sv.crew.bind.job }

/-- COBALT_RESUME: a pre-empted crew comes back to its free core, or pair of cores, before any new parcel of its priority or lower (R85, R94). Argument:
a the core; of a pair the even one. -/
def execCobaltResume (s : State) : Out :=
  let c := s.arg.a
  let cs := s.pairOfSaved c
  match (s.core c).saved with
  | none => s.idle
  | some sv =>
    if cs.headD c = c ∧ s.cobaltUp (c / 1024) ∧ cs.all (fun e => s.coreFree e && (s.core e).saved.isSome) ∧
        !(s.gang (c / 1024 / 4) sv.crew.bind.job).phase.bars then
      let s := cs.foldl (fun s e => match (s.core e).saved with
        | some sv => s.resumeCore e sv
        | none => s) s
      let s := (List.range 8).foldl (fun s i => s.alike (c * 8 + i)) s
      .next (cs.foldl (fun s e => s.restartAll e) s)
    else s.idle

/-- One spill-queue entry redelivered (R93, R94): what was promised at the diversion is given. None where a mailbox write finds 16 held writes. -/
def State.redeliver (s : State) (c : Nat) (e : Spilled) : Option State :=
  let pkt := e.pkt
  if pkt.fn = taskMbox then
    -- the token of an MBXWI of the crew, which still waits to be written (R308)
    let k := pkt.src.toNat * 8192 + pkt.req.toNat
    match (if s.lead (coreOf k) = c then (s.slot k).ops.find? fun o => (match o.kind with | .mbxwi _ => true | _ => false) && o.phase == .sent && tagOf o.id 0 == pkt.tag else none) with
    | some o =>
      let r := s.boxWrite c { box := pkt.size.toNat % 8, value := pkt.operand, sender := k, opId := some o.id }
      if r.2 then some (r.1.setPhase k o.id .waiting) else none
    | none =>
    let r := s.boxWrite c { box := pkt.size.toNat % 8, value := pkt.operand, sender := pkt.src.toNat * 8192 + pkt.req.toNat, tag := pkt.tag, acked := true }
    if r.2 then some r.1 else none
  else if pkt.fn = taskPush then some (s.queuePush c pkt.operand).1
  else match e.promised with
    | some i => some (s.place c i pkt)
    | none => some s

/-- SPILL_REDELIVER: the oldest spilled item reaches the crew that has come back (R94). Argument: a the core. -/
def execSpillRedeliver (s : State) : Out :=
  let c := s.arg.a
  match (s.core c).spill with
  | [] => s.idle
  | e :: r =>
    if s.holdsCrew c e.pkt.job ∧ (s.core c).saved.isNone ∧ !(s.gang (c / 1024 / 4) e.pkt.job).phase.bars then
      match s.redeliver c e with
      | some s => .next ((s.setSpill c r).syncPair c)
      | none => s.idle
    else s.idle

/-! ### Retirement (R88, R89) -/

/-- Has every flag-word AOR of a parcel's threads performed or been dropped (R88, R212)? -/
def State.aorsDone (s : State) (job : BitVec 12) (key : Nat) : Bool :=
  s.net.all fun f => !(f.pkt.tag == aorTag && (f.pkt.type == 0x03 || f.pkt.type == 0x20 || f.pkt.type == 0x22) && f.pkt.job == job && f.pkt.payload.toNat == key)

/-- Has a region sectors that a thread of a parcel wrote and that are not yet at their home beyond the die (R172, R189)? -/
def Region.owes (r : Region) (key : Nat) : Bool :=
  r.bound && r.writers.any fun e => r.dirty.getLsbD e.1 && e.2.mem key

/-- Have the writes of a parcel performed at a release scope? At core scope one in a bound region has once it is written there; at any wider one its sector has to
come home, which SWB, SUNMAP, CFLUSH, a recall or a save does and retirement does not (R68, R88, R160, R189). -/
def State.released (s : State) (scope : BitVec 3) (key : Nat) : Bool :=
  scope == 0 || s.cores.all fun e => (List.range 8).all fun i => !(s.region e.1 i).owes key

/-- A core's parcel may retire: its threads have all left, its writes have performed at the launch's release scope, its AORs have performed or been dropped (R88). -/
def State.mayRetire (s : State) (c : Nat) (b : Bind) : Bool :=
  let key := c + b.launch * 2 ^ 64
  let dw := (((s.pkg (c / 1024 / 4)).launches.find b.lslot.toNat).map (·.dw)).getD []
  b.valid && b.live == 0 && s.aorsDone b.job key && (b.retired || s.released (pktRelease dw) key) && !(s.gang (c / 1024 / 4) b.job).phase.bars

/-- The die's count of retired parcels rises, and a RETIRED message goes out (R89). -/
def State.countRetired (s : State) (c : Nat) (b : Bind) : State :=
  let peer := c / 1024
  let ls := b.lslot.toNat
  let d := s.dieLaunch peer ls
  (s.modDieLaunch peer ls fun d => { d with retired := d.retired + 1, messages := d.messages + 1 }).modPkg (peer / 4) fun x =>
    { x with retires := x.retires ++ [{ lslot := ls, die := peer % 4, seq := d.messages + 1, count := d.retired + 1 }] }

/-- Is every slot of a core and its partner FREE? -/
def State.slotsFree (s : State) (cs : List Nat) : Bool := cs.all fun e => (List.range 8).all fun i => (s.slot (e * 8 + i)).st == .free

/-- PARCEL_RETIRE: a parcel whose threads have all left and whose writes and AORs have performed retires, the die's count rises and a RETIRED message goes out;
the entry becomes invalid when every slot of its cores is FREE. The parcel of a crew that is pre-empted retires too, its entry invalid after the crew has come back
(R88, R89). Argument: a the core; of a pair the even one. -/
def execParcelRetire (s : State) : Out :=
  let c := s.arg.a
  let cs := s.pair c
  let b := (s.core c).crew.bind
  if cs.headD c = c ∧ s.mayRetire c b ∧ (¬b.retired ∨ s.slotsFree cs) then
    let s := if b.retired then s else (cs.foldl (fun s e => s.modCrew e fun x => { x with bind := { x.bind with retired := true } }) s).countRetired c b
    .next (if s.slotsFree cs then cs.foldl (fun s e => s.modCrew e fun x => { x with bind := { x.bind with valid := false } }) s else s)
  else match (s.core c).saved with
  | none => s.idle
  | some sv =>
    let b := sv.crew.bind
    let cs := s.pairOfSaved c
    if cs.headD c = c ∧ s.mayRetire c b ∧ ¬b.retired then
      .next ((cs.foldl (fun s e => s.modCore e fun x => { x with saved := x.saved.map fun sv => { sv with crew := { sv.crew with bind := { sv.crew.bind with retired := true } } } })
        s).countRetired c b)
    else s.idle

/-- RETIRED: a message reaches die 0, which keeps the count of the highest sequence number; when the counts sum to P the launch is complete (R89).
Arguments: a the package, b the message's place. -/
def execRetired (s : State) : Out :=
  let p := s.arg.a
  match (s.pkg p).retires[s.arg.b]? with
  | none => s.idle
  | some r =>
    let s' := s.modPkg p fun x => { x with retires := dropAt x.retires s.arg.b }
    match (s.pkg p).launches.find r.lslot with
    | none => .next s'
    | some l =>
      let counts := if (l.counts.get (0, 0) r.die).1 < r.seq then l.counts.set r.die (r.seq, r.count) else l.counts
      let s' := s'.modPkg p fun x => { x with launches := x.launches.set r.lslot { l with counts := counts } }
      if (counts.map fun e => e.2.2).sum = l.total then
        match s'.completeLaunch p r.lslot l with
        | some s => .next s
        | none => s.idle
      else .next s'

end Sys2Proof.Machine
end

