-- ==== Sys2Proof/Machine/Gang.lean ====
section
/-!
DEFINITION. Machine/Gang.lean: gang switch commands and their phases (R95 to R108). What the anchor sends to the packages and a package's phase are one
step each; what a package saves goes to memory, and stands beside it in the package's switch state (log entry 9).
-/
namespace Sys2Proof.Machine

/-! ### Commands (R95, R97) -/

/-- A GANG work with an operation. -/
def State.gangWork (s : State) (p k : Nat) (op : BitVec 4) : Option Work :=
  (s.work p k 5).filter fun w => bits (dwOf w.dw 1) 12 4 == op

/-- A GANG packet's command goes to its job's anchor; the packet waits for the last phase (R97). -/
def State.sendGang (s : State) (p : Nat) (w : Work) : State :=
  (s.dropWork p w).toAnchor p
    { op := bits (dwOf w.dw 1) 12 4, job := bits (dwOf w.dw 1) 0 12, save := bits (dwOf w.dw 2) 0 44, instId := bits (dwOf w.dw 3) 0 32, pkg := p,
      queue := some (w.q, w.id), signal := dwOf w.dw 6, packetJob := pktJob w.dw }

/-- GANG_OUT: a GANG packet with operation OUT goes to the anchor (R95, R97). Arguments: a the package, b the work's place. -/
def execGangOut (s : State) : Out :=
  match s.gangWork s.arg.a s.arg.b gangOut with
  | some w => .next (s.sendGang s.arg.a w)
  | none => s.idle

/-- GANG_IN: a GANG packet with operation IN goes to the anchor (R95, R97). Arguments: a the package, b the work's place. -/
def execGangIn (s : State) : Out :=
  match s.gangWork s.arg.a s.arg.b gangIn with
  | some w => .next (s.sendGang s.arg.a w)
  | none => s.idle

/-- GANG_ABORT: a GANG packet with operation ABORT goes to the anchor (R95, R97). Arguments: a the package, b the work's place. -/
def execGangAbort (s : State) : Out :=
  match s.gangWork s.arg.a s.arg.b gangAbort with
  | some w => .next (s.sendGang s.arg.a w)
  | none => s.idle

/-- Does a command fail the check of code GANGSTATE (R95), by the job's state at its anchor? -/
def GangCmd.badState (g : GangCmd) (x : Gang) : Bool :=
  if g.op = gangOut then x.phase.bars
  else if g.op = gangIn then x.phase != .out || x.instId != g.instId || x.damaged
  else x.phase != .out

/-- A finished command's answer: its queue's signal decremented, its SVC's completion word DONE, or nothing for Slate (R97, R287). None where the
decrement must be tried again. -/
def State.answerGang (s : State) (g : GangCmd) (code : Option (BitVec 8)) : Option State :=
  match g.queue, g.svc with
  | some (q, id), _ => match code with
    | some c => some (s.failPacket g.pkg q id c)
    | none => s.completeWork g.pkg q id [zx g.packetJob <<< 32, 0, 0, 0, 0, 0, g.signal, 0]
  | none, some (peer, core, wc) =>
    some (s.modDie peer fun d => { d with svcs := d.svcs ++ [{ core := core, wc := wc, op := sregOf (.svcGangctl 0 0), arg := 0, code := some (code.getD svcDone) }] })
  | none, none => some s

/-- A job's parts on a package go: threads, crews, tiles, ended with nothing kept (R95, R111). -/
def State.dropJob (s : State) (p : Nat) (job : BitVec 12) : State :=
  let s := s.slots.foldl (fun s e => if peerOfSlot e.1 / 4 = p ∧ e.2.st ≠ .free ∧ e.2.job = job ∧ !s.isSup (coreOf e.1) then
    s.modSlot e.1 (·.freed) else s) s
  let s := s.cores.foldl (fun s e => if e.1 / 4096 = p then
      let s := s.modCore e.1 fun x => { x with saved := x.saved.filter (fun sv => sv.crew.bind.job != job), spill := x.spill.filter fun i => i.pkt.job != job }
      if e.2.crew.bind.valid ∧ e.2.crew.bind.job = job then
        (s.modCore e.1 fun x => { x with halting := false, crew := { regions := x.crew.regions, tables := x.crew.tables } }).prmptCode [e.1] svcNoSlot
      else s
    else s) s
  { s with
    quads := s.quads.mapV fun q x => if peerOf q / 4 = p then
        { x with
          tiles := x.tiles.mapV fun _ t => if t.state ≠ stClosed ∧ t.job = job then { t with state := stClosed, record := [], watch := 0 } else t,
          buffers := x.buffers.filter (fun b => b.job != job),
          rots := x.rots.filter (fun r => (s.slot r.slot).job != job),
          staged := x.staged.filter (fun r => (s.slot r.1).job != job),
          replay := x.replay.filter fun r => (s.slot r.slot).job != job }
      else x }

/-- A job aborted on every package of its partition: save and late queue discarded, launch slots freed without a signal, the host told (R95,
R111). -/
def State.abortJob (s : State) (anchor : Nat) (job : BitVec 12) (why : List Nat) : State :=
  let ps := s.partition anchor job
  let s := ps.foldl (fun s p =>
    let s := s.dropJob p job
    let s := (s.pkg p).launches.foldl (fun s e => if e.2.job = job then (s.freeLaunch p e.1).packetDone p e.2.q e.2.id else s) s
    (List.range 4).foldl (fun s d => s.modDie (4 * p + d) fun x => { x with retryList := x.retryList.filter fun f => f.pkt.job != job })
      (s.modPkg p fun x => { x with gangs := x.gangs.erase job.toNat })) s
  { s with net := s.net.filter fun f => !(f.pkt.job == job && ps.contains f.loc.pkg && (f.pkt.isRequest || f.pkt.isResponse)) }.report anchor "ABORT" (job.toNat :: why)

/-- Every package of a command's partition gets an order (R97). -/
def State.orderAll (s : State) (p : Nat) (g : GangCmd) (o : GangPhase) : State :=
  (s.partition p g.job).foldl (fun s x => s.modGang x g.job fun y =>
    { y with order := o, told := false, instId := g.instId, save := if g.op = gangOut then g.save else y.save }) s

/-- Is a job under a repair on a package of its partition (R97)? -/
def State.repairing (s : State) (p : Nat) (job : BitVec 12) : Bool :=
  (s.partition p job).any fun x => match (s.pkg x).repair with
    | some r => r.jobs.mem job.toNat
    | none => false

/-- GANG_COMMAND_START: the anchor starts a job's next command, during a repair of the job Slate's own next one: GANGSTATE answered, ABORT performed, or the first
phase ordered (R95, R97, R109). One whose answer must be tried again stays first. Arguments: a the anchor package, b the job. -/
def execGangCommandStart (s : State) : Out :=
  let p := s.arg.a
  let job : BitVec 12 := BitVec.ofNat 12 s.arg.b
  let repairing := s.repairing p job
  match (s.pkg p).anchor.find? fun g => g.job == job && (g.slate || !repairing) with
  | none => s.idle
  | some g =>
    if (s.pkg p).current.has job.toNat then s.idle
    else
      let t := s.modPkg p fun x => { x with anchor := x.anchor.erase g }
      if g.badState (s.gang p job) then (match t.answerGang g (some svcGangState) with
        | some t => .next t
        | none => s.idle)
      else if g.op = gangAbort then (match (t.abortJob p job []).answerGang g none with
        | some t => .next t
        | none => s.idle)
      else .next ((t.modPkg p fun x => { x with current := x.current.set job.toNat g }).orderAll p g (if g.op = gangOut then .freeze else .restore))

/-! ### FREEZE (R98, R103, R376) -/

/-- A thread of a job on a package; the supervisor core's threads are no job's (R135). -/
def State.ofJob (s : State) (p : Nat) (job : BitVec 12) (k : Nat) : Bool :=
  peerOfSlot k / 4 == p && (s.slot k).st != .free && (s.slot k).job == job && !s.isSup (coreOf k)

/-- Does a core hold a crew of a job? -/
def Core.runs (x : Core) (job : BitVec 12) : Bool := x.crew.bind.valid && x.crew.bind.job == job
/-- Does a core hold a pre-empted crew of a job? -/
def Core.keeps (x : Core) (job : BitVec 12) : Bool := match x.saved with
  | some sv => sv.crew.bind.job == job
  | none => false

/-- A matrix command cut short (R98, R376): one whose whole attempt is out waits for its decision without its partial, one in progress else runs again from its first K
index. A MFLG, MABN or MCLOSE asked of a remote store has sent all it has to send and waits for its answer (log entry 35). -/
def EngCmd.cut (e : EngCmd) : EngCmd := match e.stage with
  | .sent => { e with formed := none }
  | .busy | .staged => { e with stage := .rerun, formed := none }
  | .asked => if e.fn = fnMread ∨ e.fn = fnMqry then { e with stage := .rerun, attempt := e.attempt + 1, got := [] } else e
  | _ => e

/-- The command of a quad that FREEZE puts into its replay slot (R98): the first that was in progress. One slot holds one; another that was in progress runs again from
its queue (log entry 35). -/
def State.toReplay (s : State) (q : Nat) (mine : Nat → Bool) : Option EngCmd :=
  if (s.quad q).replay.isSome then none
  else ((List.range 4).flatMap fun i => (s.core (q * 4 + i)).crew.matrix).find? fun e => mine e.slot && e.cut.stage == .rerun && e.stage != .rerun

/-- The NACK that ends an attempt at FREEZE (R376). -/
def Buffer.nack (b : Buffer) (peer : Nat) : Pkt :=
  { type := 0x22, ordered := false, job := b.job, tag := b.tag, src := BitVec.ofNat 13 peer, dst := b.src, req := b.req, fn := nackBusy, operand := 0x06,
    payload := b.attempt.setWidth 2048, plen := 4 }

/-- The job's groups on a package that hold an open instance. -/
def State.openGroups (s : State) (p : Nat) (job : BitVec 12) : List (Nat × Group) :=
  (s.pkg p).groups.filter fun e => e.2.valid && e.2.job == job && (e.2.dies != [] || e.2.kids != [] || e.2.sentUp)

/-- May a package freeze a job: no pre-emption of its crews is under way, no contribution of its commands is staged (R98)? -/
def State.canFreeze (s : State) (p : Nat) (job : BitVec 12) : Bool :=
  s.cores.all (fun e => !(e.1 / 4096 == p && e.2.runs job && e.2.halting)) &&
    s.quads.all fun e => !(peerOf e.1 / 4 == p && e.2.staged.any fun x => (s.slot x.1).job == job)

/-- A package freezes a job (R98). -/
def State.freezeJob (s : State) (p : Nat) (job : BitVec 12) : State :=
  let mine := fun (k : Nat) => s.ofJob p job k
  let busy := s.quads.filter fun e => peerOf e.1 / 4 == p
  let nacks := busy.flatMap fun e => (e.2.buffers.filter fun b => b.job == job).map fun b => b.nack (peerOf e.1)
  let s' : State := { s with
    slots := s.slots.mapV fun k t => if mine k then t.frozen else t,
    cores := s.cores.mapV fun c x => if c / 4096 = p then
        let first := s.toReplay (quadOf c) mine
        { x with crew := { x.crew with matrix := (x.crew.matrix.filter fun e => some e != first).map fun e => if mine e.slot then e.cut else e } } else x,
    quads := s.quads.mapV fun q x => if peerOf q / 4 = p then
        { x with
          buffers := x.buffers.filter (fun b => b.job != job),
          replay := match s.toReplay q mine with
            | some e => some e.cut
            | none => x.replay.map fun e => if mine e.slot then e.cut else e } else x }
  let s' := nacks.foldl (fun s k => s.send k) s'
  let s' := (s.openGroups p job).foldl (fun s e => s.abortAt p e.1 e.2.seq) s'
  s'.modGang p job fun g => { g with phase := .freeze, done := false, marked := false, damaged := false, marks := [], swept := [], lateFaults := 0, sweep := [], late := [] }

/-- FREEZE: the job's slots, engines, copies, injection, forwarding, binding and consumption stop on a package (R98). Arguments: a the package, b the
job. -/
def execFreeze (s : State) : Out :=
  let job : BitVec 12 := BitVec.ofNat 12 s.arg.b
  let g := s.gang s.arg.a job
  if g.order = .freeze ∧ !g.phase.bars ∧ s.canFreeze s.arg.a job then .next (s.freezeJob s.arg.a job) else s.idle

/-- The packages of a job's partition behind a package's ports that are enabled at both ends, by port. -/
def State.markedPorts (s : State) (p : Nat) (job : BitVec 12) : List Nat :=
  let ps := s.partition p job
  (List.range 35).filter fun i =>
    let q := neighbour p i
    !((s.pkg p).ports.get {} i).disabled && ps.contains q && !((s.pkg q).ports.get {} ((portTo q p).getD 0)).disabled

/-- A SWEEP marker of a channel on its way by a port (R99): job, the instance in `operand`, the channel in `fn` (log entry 10). -/
def markerBy (p i : Nat) (job : BitVec 12) (inst : BitVec 32) (c : Nat) : Flight :=
  let q := neighbour p i
  { pkt := { type := 0x30, ordered := false, job := job, operand := zx inst, fn := BitVec.ofNat 4 c, src := BitVec.ofNat 13 (4 * p), dst := BitVec.ofNat 13 (4 * q), hops := 1 },
    loc := .router q ((portTo q p).getD 0), came := (portTo q p).getD 0 }

/-- MARK: once the job's open collective instances are settled and its tree packets have drained, markers follow the job's last flits on the eight channels of every
port (R99, R103). Those of the units within the package's dies come in SWEEP's step (log entry 35). Arguments: a the package, b the job. -/
def execMark (s : State) : Out :=
  let p := s.arg.a
  let job : BitVec 12 := BitVec.ofNat 12 s.arg.b
  let g := s.gang p job
  if g.order = .mark ∧ g.phase = .freeze ∧ s.openGroups p job = [] ∧ s.net.all (fun f => !(f.pkt.isTree && f.pkt.job == job)) then
    let s := { s with net := s.net ++ (s.markedPorts p job).flatMap fun i => (List.range 8).map fun c => markerBy p i job g.instId c }
    .next (s.modGang p job fun g => { g with phase := .mark, marked := true })
  else s.idle

/-! ### SWEEP (R100 to R102) -/

/-- The unit and input that a packet is held at (R100). A packet at its source interface, at its router's own side, on the ring at its own die or come to a core stands
at the quad's mesh router; one that has crossed a boundary at that boundary. -/
def State.heldAt (s : State) (f : Flight) : Nat × Nat :=
  let req := f.pkt.req.toNat / 32
  match f.loc with
  | .source q => (q % 4 * 272 + s.blockOf q req, 4)
  | .ring p d => (match boundaryOf f.came d with
    | some (b, dir) => (1088 + b, 1 - dir)
    | none => (d * 272 + s.blockOf (4 * p + d) req, 4))
  | .router _ i => if i < 35 then (1092, i) else (f.pkt.src.toNat % 4 * 272 + s.blockOf f.pkt.src.toNat req, 4)
  | .hostPort _ => (1093, 0)
  | .arrived _ => s.comesTo f.pkt

/-- The retry list of a slice, and a core's spill queue, as sweep units (R100). -/
def State.retryUnit (s : State) (q : Nat) (k : Pkt) : Nat :=
  let sl := sliceOf k.off.toNat
  2048 + q % 4 * 544 + 2 * s.blockOf q (sl / 2) + sl % 2
def State.spillUnit (s : State) (c : Nat) : Nat := 4224 + c / 1024 % 4 * 1088 + 4 * s.blockOf (c / 1024) (c % 1024 / 4) + c % 4

/-- Insertion of a record in the order of R100: by unit, then input; those of one input keep their order. -/
def recInsert (r : SweepRec) : List SweepRec → List SweepRec
  | [] => [r]
  | x :: l => if r.unit * 64 + r.input < x.unit * 64 + x.input then r :: x :: l else x :: recInsert r l

/-- A packet added to the records of a sweep, with its arrival index. -/
def sweepAdd (l : List SweepRec) (u : Nat × Nat) (f : Flight) : List SweepRec :=
  recInsert { unit := u.1, input := u.2, vc := f.pkt.vc, index := (l.filter fun r => r.unit == u.1 && r.input == u.2).length, pkt := f.pkt, loc := f.loc, came := f.came } l

/-- Packets in the order in which they came to where they stand. -/
def stampInsert (f : Flight) : List Flight → List Flight
  | [] => [f]
  | g :: l => if f.stamp ≤ g.stamp then f :: g :: l else g :: stampInsert f l
def byStamp (l : List Flight) : List Flight := l.foldr stampInsert []

/-- Is a packet one that the sweep of a job takes on a package? -/
def Flight.sweeps (f : Flight) (p : Nat) (job : BitVec 12) : Bool := f.pkt.job == job && f.loc.pkg == p && (f.pkt.isRequest || f.pkt.isResponse)

/-- The port of a package's router that a packet stands at. -/
def Flight.atPort (f : Flight) : Option Nat := match f.loc with
  | .router _ i => if i < 35 then some i else none
  | _ => none

/-- The packets of the net that a condition names moved into a job's sweep records. -/
def State.sweepNet (s : State) (p : Nat) (job : BitVec 12) (c : Flight → Bool) : State :=
  let go := fun (f : Flight) => f.sweeps p job && c f
  let l := (byStamp (s.net.filter go)).foldl (fun l f => sweepAdd l (s.heldAt f) f) (s.gang p job).sweep
  ({ s with net := s.net.filter fun f => !go f }).modGang p job fun g => { g with sweep := l }

/-- The units within a package's dies swept: what stands anywhere but at a port of the router, the retry lists of the homes and the cores' spill queues (R100). -/
def State.sweepInside (s : State) (p : Nat) (job : BitVec 12) : State :=
  let s := s.sweepNet p job fun f => f.atPort.isNone
  let l := (s.gang p job).sweep
  let l := (List.range 4).foldl (fun l d => ((s.die (4 * p + d)).retryList.filter fun f => f.pkt.job == job).foldl
    (fun l f => sweepAdd l (s.retryUnit (4 * p + d) f.pkt, 0) f) l) l
  let l := s.cores.foldl (fun l e => if e.1 / 4096 = p then (e.2.spill.filter fun i => i.pkt.job == job).foldl
    (fun l i => sweepAdd l (s.spillUnit e.1, 0) { pkt := i.pkt, loc := .arrived (e.1 / 1024) }) l else l) l
  let s := s.modGang p job fun g => { g with sweep := l }
  let s := s.cores.foldl (fun s e => if e.1 / 4096 = p ∧ (e.2.spill.any fun i => i.pkt.job == job) then
    s.setSpill e.1 (e.2.spill.filter fun i => i.pkt.job != job) else s) s
  -- a request for a line of its own die, which is no packet, is made again when the job comes back (R98, R108)
  let of := fun (e : Nat) (m : CohMsg) => match m with
    | .read q l | .write q l => let ks := s.lineWaiters (quadKey e q) l; ks != [] && ks.all fun k => (s.slot k).job == job
    | _ => false
  (List.range 4).foldl (fun s d => s.modDie (4 * p + d) fun x =>
    { x with retryList := x.retryList.filter (fun f => f.pkt.job != job), coh := x.coh.filter fun m => !of (4 * p + d) m }) s

/-- The inputs of a package's router that can be swept now: all eight channels have carried the job's marker, or none will come (R100). -/
def State.sweptNow (s : State) (p : Nat) (job : BitVec 12) : List Nat :=
  let g := s.gang p job
  let ports := s.markedPorts p job
  (List.range 35).filter fun i => !g.swept.mem i && (!ports.contains i || (List.range 8).all fun c => g.marks.mem (i * 8 + c))

/-- Such inputs swept; with the last the package's sweep is done. -/
def State.sweepPorts (s : State) (p : Nat) (job : BitVec 12) (is : List Nat) : State :=
  (s.sweepNet p job fun f => match f.atPort with
    | some i => is.contains i
    | none => false).modGang p job fun g =>
      let l := is.foldl (fun (n : NSet) i => n.insert i) g.swept
      { g with swept := l, done := (List.range 35).all l.mem }

/-- SWEEP: the units within the dies first, and each input of the router once its markers have come on all eight channels, move the job's packets into the sweep
records (R100). Arguments: a the package, b the job. -/
def execSweep (s : State) : Out :=
  let p := s.arg.a
  let job : BitVec 12 := BitVec.ofNat 12 s.arg.b
  let g := s.gang p job
  let is := s.sweptNow p job
  if g.order ≠ .sweep then s.idle
  else if g.phase = .mark then
    .next (((s.sweepInside p job).modGang p job fun g => { g with phase := .sweep }).sweepPorts p job is)
  else if g.phase = .sweep ∧ is ≠ [] then .next (s.sweepPorts p job is)
  else s.idle

/-! ### SAVE (R104, R105, R447, R448) -/

/-- The die part that holds a unit's records (R100). -/
def partOf (u : Nat) : Nat :=
  if u < 1088 then u / 272
  else if u < 1092 then (if u = 1089 then 1 else if u = 1090 then 2 else 0)
  else if u < 1094 then 0
  else if u < 1098 then u - 1094
  else if u < 4224 then (u - 2048) / 544
  else (u - 4224) / 1088

/-- A sweep record as the save area holds it (R101). -/
def SweepRec.dwords (r : SweepRec) : List Word :=
  [BitVec.ofNat 64 (r.unit + r.input * 2 ^ 16 + r.vc * 2 ^ 22 + r.pkt.flits * 2 ^ 25), BitVec.ofNat 64 r.index, 0, 0, 0, 0, 0, 0] ++ r.pkt.header ++
    (List.range 32).map fun i => bits r.pkt.payload (64 * i) 64

/-- A list of records written from an offset on. -/
def putRecords (m : Cells) (a : Nat) : List SweepRec → Cells
  | [] => m
  | r :: l => putRecords (putDwords m a r.dwords) (a + 512) l

/-- A tile descriptor's eight dwords (R215). -/
def Tile.dwords (t : Tile) : List Word :=
  let rec' : Nat := ((t.record.zipIdx).map fun e => (e.1.1 + e.1.2 * 2 ^ 21) * 2 ^ (42 * e.2)).sum
  [(0 : BitVec 20) ++ t.job ++ t.gen ++ t.n1 ++ t.m1 ++ b1 t.sat ++ b1 t.nant ++ b1 t.mode ++ t.state, t.satcnt ++ t.key,
   (0 : BitVec 18) ++ BitVec.ofNat 3 t.record.length ++ t.fb ++ t.fa ++ t.b ++ t.kt, zx t.watch] ++
    (List.range 4).map fun i => BitVec.ofNat 64 (rec' / 2 ^ (64 * i))

/-- A barrier's entry (R447). -/
def Barrier.entry (b : Barrier) : List Word := [b.count ++ b.phase, zx b.target]
/-- A barrier with the phase, count and target of an entry. -/
def Barrier.restored (b : Barrier) (m : Cells) (a : Nat) : Barrier :=
  { b with phase := bits (imgDword m a) 0 32, count := bits (imgDword m a) 32 32, target := bits (imgDword m (a + 8)) 0 32 }

/-- Does a job own barrier n of a scope at a die (R321)? -/
def Die.ownsBarrier (d : Die) (scope n : Nat) (job : BitVec 12) : Bool := d.owners.get 0 (ownerIndex scope n) == (1 : BitVec 1) ++ job

/-- A ticket class's 130 dwords: TKCNT, TKCFG and the waiter bits (R45, R105). -/
def Ticket.dwords (t : Ticket) : List Word :=
  [t.next ++ t.done, zx (t.job ++ b1 t.en ++ t.rows)] ++
    (List.range 128).map fun i => (t.waiters.filter fun w => w / 64 == i).foldl (fun (b : Word) w => b ||| (1 <<< (w % 64))) 0
def ticketFrom (m : Cells) (a : Nat) : Ticket :=
  let n := imgDword m a
  let c := imgDword m (a + 8)
  { next := bits n 32 32, done := bits n 0 32, rows := bits c 0 16, en := c.getLsbD 16, job := bits c 17 12,
    waiters := (List.range 8192).filter fun w => (m.read (a + 16 + w / 8)).getLsbD (w % 8) }

/-- The parts of a save area (R105), and its bytes. -/
def atContext (k : Nat) : Nat := 0x1_0000 + 2560 * (k % 8192)
def atStash (c : Nat) : Nat := 0x141_0000 + 0x4_0000 * (c % 1024)
def atMeta (c : Nat) : Nat := 0x1141_0000 + 0x2000 * (c % 1024)
def atStore (q : Nat) : Nat := 0x11C1_0000 + 0x5_0000 * (q % 256)
def atEngine (q : Nat) : Nat := 0x16C1_0000 + 0x4000 * (q % 256)
def atRecords : Nat := 0x1701_0000
def atLate : Nat := 0x1781_0000
def partBytes : Nat := 0x17A1_0000

/-- n bytes of one image at another place of another. -/
def moveBytes (m src : Cells) (a n b : Nat) : Cells :=
  (src.filter fun e => a ≤ e.1 && e.1 < a + n).foldl (fun m e => m.write (b + (e.1 - a)) e.2) m

/-- The accumulator units of a quad that a job's tiles occupy, held ones too. -/
def Quad.unitsOf (q : Quad) (job : BitVec 12) : List Nat := (q.tiles.filter fun t => t.2.state != stClosed && t.2.job == job).map (·.1)

/-- A quad's accumulator store and engine block for a job (R104, R105, R213). -/
def State.quadImage (s : State) (job : BitVec 12) (q : Nat) (m : Cells) : Cells :=
  let x := s.quad q
  let us := x.unitsOf job
  let m := us.foldl (fun m u =>
    let t := x.tile u
    let m := putDwords m (atEngine q + 64 * u) t.dwords
    if t.state = stHeld then m
    else
      let es := x.elems.filter fun e => e.1 / 1024 == u
      let m := es.foldl (fun m e => if t.mode then putBytes m (atStore q + 4096 * u + 20 * (e.1 % 1024)) 20 e.2
        else putBytes m (atStore q + 4096 * u + 4 * (e.1 % 1024)) 4 e.2) m
      if t.mode then
        let bitsOf : BitVec 2048 := (x.tags.filter fun e => e.1 / 1024 == u).foldl (fun (b : BitVec 2048) (e : Nat × BitVec 2) => b ||| (e.2.setWidth 2048 <<< (2 * (e.1 % 1024)))) 0
        putBytes m (atEngine q + 0x2080 + 256 * (u / 5)) 256 bitsOf
      else m) m
  let mine := fun (e : EngCmd) => (s.slot e.slot).job == job
  let m := (List.range 4).foldl (fun m c =>
    let y := s.core (q * 4 + c)
    if y.runs job then putDwords (putDwords m (atEngine q + 0x1400 + 512 * c) y.crew.matrixEntries) (atEngine q + 0x1C80 + 256 * c) y.crew.channelEntries
    else if y.keeps job then
      let a := (s.getImage (s.areaOf (q * 4 + c)) 0x4_8000).2
      moveBytes (moveBytes m a 0x5800 512 (atEngine q + 0x1400 + 512 * c)) a 0x5700 256 (atEngine q + 0x1C80 + 256 * c)
    else m) m
  let m := match x.replay with
    | some e => if mine e then putDwords m (atEngine q + 0x1C00) e.entry else m
    | none => m
  putDwords m (atEngine q + 0x3800) ((List.range 4).flatMap fun n => (x.barriers.get {} (quadBarrier job n)).entry)

/-- A core's part of a save: the crew that runs, or the pre-empted crew from its area (R104, R105). Where a core has both, the layout has room for one: the save area
takes the crew that runs, and the area of the other is kept beside it (log entry 35). -/
def State.coreImage (s : State) (job : BitVec 12) (c : Nat) (m : Cells) : Cells :=
  let x := s.core c
  let e := atMeta c
  if x.runs job then
    let ts := (List.range 8).map fun i => s.slot (c * 8 + i)
    let m := s.stashBitsImage c m e
    let m := putDwords m (e + 0x1000) ((List.range 8).flatMap fun i => (x.crew.cleaned.regions.get {} i).dwords)
    let m := putDwords m (e + 0x1400) (x.crew.block (latchesOf ts))
    let m := putDwords m (e + 0x1FC0) x.crew.tableDwords
    s.stashImage c m (atStash c)
  else if x.keeps job then
    let a := (s.getImage (s.areaOf c) 0x4_8000).2
    let m := moveBytes m a 0 0x5000 (atContext (c * 8))
    let m := moveBytes m a 0x5000 0x660 (e + 0x1400)
    let m := moveBytes m a 0x5FC0 0x40 (e + 0x1FC0)
    let m := moveBytes m a 0x6000 0x1400 e
    moveBytes m a 0x8000 0x4_0000 (atStash c)
  else m

/-- The header of a die part (R105, R447). -/
def State.headerImage (s : State) (p d : Nat) (job : BitVec 12) (m : Cells) : Cells :=
  let g := s.gang p job
  let peer := 4 * p + d
  let x := s.die peer
  let z : Barrier := {}
  let m := putDwords m 0 [0x4756_5341, zx job, zx g.instId, if g.damaged then 2 else 1,
    BitVec.ofNat 64 (g.sweep.filter fun r => partOf r.unit == d).length, BitVec.ofNat 64 (if d = 0 then g.late.length else 0),
    BitVec.ofNat 64 (if d = 0 then g.lateFaults else 0)]
  let m := putDwords m 0x100 ((List.range 16).flatMap fun n => (if x.ownsBarrier 2 n job then x.barriers.get {} n else z).entry)
  let m := if d = 0 then
      let m := putDwords m 0x200 ((List.range 8).flatMap fun n => (if x.ownsBarrier 3 n job then (s.pkg p).barriers.get {} n else z).entry)
      putDwords m 0x6000 ((List.range 8).flatMap fun n => (if x.ownsBarrier 4 n job then (s.pkg p).barriers.get {} (podIndex n) else z).entry)
    else m
  let m := (List.range 16).foldl (fun m c => if (x.tickets.get {} c).job = job then putDwords m (0x1000 + 1040 * c) (x.tickets.get {} c).dwords else m) m
  s.cores.foldl (fun m e => if e.1 / 1024 = peer ∧ (e.2.runs job ∨ e.2.keeps job) then
    (if e.2.runs job then putDwords m (0x8000 + 32 * (e.1 % 1024)) ((List.range 4).map (s.bindDword e.1 ·))
     else moveBytes m (s.getImage (s.areaOf e.1) 0x4_8000).2 0x5A00 32 (0x8000 + 32 * (e.1 % 1024))) else m) m

/-- A die part of a job's save area (R104, R105). -/
def State.partImage (s : State) (p d : Nat) (job : BitVec 12) : Cells :=
  let peer := 4 * p + d
  let m := s.headerImage p d job []
  let m := s.slots.foldl (fun m e => if peerOfSlot e.1 = peer ∧ s.ofJob p job e.1 then putDwords m (atContext e.1) e.2.image else m) m
  let m := s.cores.foldl (fun m e => if e.1 / 1024 = peer then s.coreImage job e.1 m else m) m
  let m := s.quads.foldl (fun m e => if peerOf e.1 = peer then s.quadImage job e.1 m else m) m
  putRecords m atRecords ((s.gang p job).sweep.filter fun r => partOf r.unit == d)

/-- What a package keeps beside the images: the job's threads, crews, pre-empted crews and quads (log entry 9). -/
def State.keepJob (s : State) (p : Nat) (job : BitVec 12) : State :=
  let mine := fun (e : EngCmd) => (s.slot e.slot).job == job
  s.modGang p job fun g =>
    { g with
      phase := .save,
      slots := s.slots.filter fun e => s.ofJob p job e.1,
      crews := (s.cores.filter fun e => e.1 / 4096 == p && e.2.runs job).map fun e => (e.1, e.2.crew.cleaned),
      saved := (s.cores.filter fun e => e.1 / 4096 == p && e.2.keeps job).filterMap fun e => e.2.saved.map fun sv => (e.1, sv),
      images := (s.cores.filter fun e => e.1 / 4096 == p && e.2.keeps job).map fun e => (e.1, (s.getImage (s.areaOf e.1) 0x4_8000).2),
      quads := (s.quads.filter fun e => peerOf e.1 / 4 == p).map fun e =>
        let us := e.2.unitsOf job
        (e.1, { tiles := e.2.tiles.filter (fun t => us.contains t.1),
                elems := e.2.elems.filter (fun t => us.contains (t.1 / 1024)),
                tags := e.2.tags.filter (fun t => us.contains (t.1 / 1024)),
                rots := e.2.rots.filter (fun r => (s.slot r.slot).job == job),
                replay := e.2.replay.filter mine,
                barriers := e.2.barriers.filter fun b => b.1 / 4 == job.toNat }) }

/-- May a job be saved: are its barrier arrivals counted, those of its other packages too, and the packets of pod barriers that they sent (R103, R318)? -/
def State.arrivalsDone (s : State) (job : BitVec 12) : Bool :=
  (s.dies.all fun e => e.2.arrivals.all fun v => v.job != job) && s.net.all fun f => !(f.pkt.isTree && f.pkt.job == job)

/-- SAVE: each die of a package writes the job's state in its part of the save area (R104). Arguments: a the package, b the job. -/
def execSave (s : State) : Out :=
  let p := s.arg.a
  let job : BitVec 12 := BitVec.ofNat 12 s.arg.b
  let g := s.gang p job
  if g.order ≠ .save ∨ g.phase ≠ .sweep ∨ !s.arrivalsDone job then s.idle
  else if dramEnd < g.save.toNat + partBytes then .fault (.noSuchAddress (paOf (4 * p) g.save.toNat))
  else
    let s := s.cores.foldl (fun s e => if e.1 / 4096 = p ∧ e.2.runs job then s.cleanRegions e.1 true else s) s
    let s := s.quads.foldl (fun s e => if peerOf e.1 / 4 = p then (e.2.lines.map (·.1)).foldl (fun s l => s.flushOwned e.1 l) s else s) s
    let imgs := (List.range 4).map fun d => s.partImage p d job
    let s := (imgs.zipIdx).foldl (fun s m => s.putImage (paOf (4 * p + m.2) g.save.toNat) partBytes m.1) s
    .next (s.keepJob p job)

/-! ### RELEASE (R106) -/

/-- Host requests of a job that have no completion yet. -/
def Pkg.jobRequests (x : Pkg) (job : BitVec 12) : Bool := x.hostReqs.any fun r => r.kind == reqThread && (r.pkt.map (·.job)) == some job

/-- The late records and their counts in the save area as RELEASE leaves them (R105, R107). -/
def State.saveLate (s : State) (p : Nat) (job : BitVec 12) : State :=
  let g := s.gang p job
  let a := paOf (4 * p) g.save.toNat
  let s := s.agentWrite (a + 0x28) 8 (BitVec.ofNat 64 g.late.length)
  s.putImage (a + atLate) 0x20_0000 (putRecords [] 0 g.late)

/-- A package releases a job's slots, cores and units and marks it switched out (R106). -/
def State.releaseJob (s : State) (p : Nat) (job : BitVec 12) : State :=
  ((s.saveLate p job).dropJob p job).modGang p job fun g => { g with phase := .out, hostWait := false }

/-- RELEASE: the job's slots, cores and units are freed; the PCI Express port waits first for the job's outstanding host requests (R106). Arguments: a the
package, b the job. -/
def execRelease (s : State) : Out :=
  let p := s.arg.a
  let job : BitVec 12 := BitVec.ofNat 12 s.arg.b
  let g := s.gang p job
  if g.order ≠ .release ∨ g.phase ≠ .save then s.idle
  else if (s.pkg p).jobRequests job then (if g.hostWait then s.idle else .next (s.modGang p job fun g => { g with hostWait := true }))
  else .next (s.releaseJob p job)

/-- RELEASE_HOST_WAIT_EXPIRY: the 1 ms of waiting for the job's host requests ends (R106). Arguments: a the package, b the job. -/
def execReleaseHostWaitExpiry (s : State) : Out :=
  let p := s.arg.a
  let job : BitVec 12 := BitVec.ofNat 12 s.arg.b
  let g := s.gang p job
  if g.order = .release ∧ g.phase = .save ∧ g.hostWait then .next (s.releaseJob p job) else s.idle

/-! ### Switching in (R108) -/

/-- Is everything that a save area names free on its package? -/
def State.namedFree (s : State) (p : Nat) (job : BitVec 12) : Bool :=
  let g := s.gang p job
  let free := fun (c : Nat) => s.coreFree c && (s.core c).saved.isNone
  g.crews.all (fun e => free e.1) && g.saved.all (fun e => free e.1) && g.slots.all (fun e => (s.slot e.1).st == .free) &&
    g.quads.all fun e => e.2.tiles.all (fun t => ((s.quad e.1).tile t.1).state == stClosed) && (e.2.replay.isNone || (s.quad e.1).replay.isNone)

/-- A thread with the registers that its saved context holds now (R108). -/
def Slot.fromContext (t : Slot) (m : Cells) (a : Nat) : Slot :=
  let g := fun (j : Nat) => imgDword m (a + 8 * j)
  if t.framed then { t with frame := (List.range 320).map fun j => (j, g j) } else t.fromImage g

/-- A pre-empted crew's area put together again from the save area (R104, R108). -/
def areaFrom (m : Cells) (c : Nat) : Cells :=
  let e := atMeta c
  let q := quadOf c
  let a := moveBytes [] m (atContext (c * 8)) 0x5000 0
  let a := moveBytes a m (e + 0x1400) 0x660 0x5000
  let a := moveBytes a m (atEngine q + 0x1C80 + 256 * (c % 4)) 256 0x5700
  let a := moveBytes a m (atEngine q + 0x1400 + 512 * (c % 4)) 512 0x5800
  let a := moveBytes a m (0x8000 + 32 * (c % 1024)) 32 0x5A00
  let a := moveBytes a m (e + 0x1FC0) 0x40 0x5FC0
  let a := moveBytes a m e 0x1400 0x6000
  moveBytes a m (atStash c) 0x4_0000 0x8000

/-- A crew with what the save area gives back of it (R108, R314). -/
def Crew.fromSave (x : Crew) (m : Cells) (c : Nat) : Crew :=
  let g := fun (a j : Nat) => imgDword m (a + 8 * j)
  let y := x.reread (g (atMeta c + 0x1400)) (g (atMeta c + 0x1000)) (g (atMeta c + 0x1FC0))
  { y with channels := y.channels.mapV fun i z => { z with cpwp := imgDword m (atEngine (quadOf c) + 0x1C80 + 256 * (c % 4) + 64 * i) } }

/-- The barriers and ticket classes that a job owns read back (R104, R105, R447). -/
def State.restoreFabric (s : State) (p d : Nat) (job : BitVec 12) (m : Cells) : State :=
  let peer := 4 * p + d
  let x := s.die peer
  let s := s.modDie peer fun y =>
    { y with
      barriers := (List.range 16).foldl (fun b n => if x.ownsBarrier 2 n job then b.set n ((b.get {} n).restored m (0x100 + 16 * n)) else b) y.barriers,
      tickets := (List.range 16).foldl (fun b c => if (x.tickets.get {} c).job = job then b.set c (ticketFrom m (0x1000 + 1040 * c)) else b) y.tickets }
  if d = 0 then
    s.modPkg p fun y =>
      { y with barriers := (List.range 8).foldl (fun b n =>
          let b := if x.ownsBarrier 3 n job then b.set n ((b.get {} n).restored m (0x200 + 16 * n)) else b
          if x.ownsBarrier 4 n job then b.set (podIndex n) ((b.get {} (podIndex n)).restored m (0x6000 + 16 * n)) else b) y.barriers }
  else s

/-- A die's part of a job restored into the same logical positions (R108, step 2). -/
def State.restorePart (s : State) (p d : Nat) (job : BitVec 12) : State :=
  let peer := 4 * p + d
  let g := s.gang p job
  let r := s.getImage (paOf peer g.save.toNat) partBytes
  let m := r.2
  let s := r.1.restoreFabric p d job m
  let s := g.slots.foldl (fun s e => if peerOfSlot e.1 = peer then
    s.modSlot e.1 fun now =>
      { e.2.fromContext m (atContext e.1) with
        opId := max e.2.opId now.opId, latch := (imgDword m (atMeta (coreOf e.1) + 0x1450)).getLsbD (slotOf e.1) } else s) s
  let s := g.crews.foldl (fun s e => if e.1 / 1024 = peer then
    ((s.cleanRegions e.1 false).restoreStash e.1 m (atStash e.1) (atMeta e.1)).modCore e.1 fun x => { x with crew := e.2.fromSave m e.1, ran := true, lastJob := job } else s) s
  let s := g.saved.foldl (fun s e => if e.1 / 1024 = peer then
    (s.putImage (s.areaOf e.1) 0x4_8000 (if g.crews.has e.1 then g.images.get [] e.1 else areaFrom m e.1)).modCore e.1 fun x => { x with saved := some e.2 } else s) s
  g.quads.foldl (fun s e => if peerOf e.1 = peer then
    s.modQuad e.1 fun x =>
      { x with
        tiles := e.2.tiles.foldl (fun t u => t.set u.1 u.2) x.tiles,
        elems := e.2.elems.foldl (fun t u => t.set u.1 u.2) (x.elems.filter fun t => !e.2.tiles.has (t.1 / 1024)),
        tags := e.2.tags.foldl (fun t u => t.set u.1 u.2) (x.tags.filter fun t => !e.2.tiles.has (t.1 / 1024)),
        rots := x.rots ++ e.2.rots,
        replay := match e.2.replay with
          | some r => some r
          | none => x.replay,
        barriers := (List.range 4).foldl (fun b n => b.set (quadBarrier job n)
          ((e.2.barriers.get {} (quadBarrier job n)).restored m (atEngine e.1 + 0x3800 + 16 * n))) x.barriers } else s) s

/-- A record re-injected where it was held (R108, steps 3 and 4): a home's retry list, a core's spill queue, or on its way. -/
def State.reinject (s : State) (r : SweepRec) : State :=
  if 4224 ≤ r.unit then
    let c := r.pkt.dst.toNat * 1024 + r.pkt.off.toNat % 1024
    let slots : Nat → Slot := match (s.core c).saved with
      | some sv => fun i => (sv.slots[i]?).getD {}
      | none => fun i => s.slot (c * 8 + i)
    let pr := if r.pkt.fn = taskSpawn ∨ r.pkt.fn = taskMigr then freeSlot slots (s.core c).spill else none
    s.setSpill c ((s.core c).spill ++ [{ pkt := r.pkt, promised := pr }])
  else if 2048 ≤ r.unit ∧ r.input = 0 then
    s.modDie r.pkt.dst.toNat fun d => { d with retryList := d.retryList ++ [{ pkt := r.pkt, loc := r.loc, came := r.came }] }
  else { s with net := s.net ++ [{ pkt := r.pkt, loc := r.loc, came := r.came }] }

/-- A record that a package may put back next: the first of its unit among the sweep records left, which keep their order; with none left, the first of the late queue
(R108, R437). -/
def Gang.nextBack (g : Gang) (i : Nat) : Option (SweepRec × Gang) :=
  match g.sweep[i]? with
  | some r => if (g.sweep.take i).any fun e => e.unit == r.unit then none else some (r, { g with sweep := g.sweep.eraseIdx i })
  | none => match g.sweep, g.late with
    | [], r :: l => some (r, { g with late := l })
    | _, _ => none

/-- Is everything of a job back in its place? -/
def Gang.allBack (g : Gang) : Gang := { g with done := g.sweep == [] && g.late == [] }

/-- IN_RESTORE: once everything the job's save area names is free, a package restores its state; then it re-injects its sweep records, each unit in record order, and last
its late queue (R108, R437). Arguments: a the package, b the job, c the record's place among those left. -/
def execInRestore (s : State) : Out :=
  let p := s.arg.a
  let job : BitVec 12 := BitVec.ofNat 12 s.arg.b
  let g := s.gang p job
  if g.order = .restore ∧ g.phase = .out ∧ s.namedFree p job then
    let s := (List.range 4).foldl (fun s d => s.restorePart p d job) s
    .next (s.modGang p job fun g => { g with phase := .restore, slots := [], crews := [], saved := [], images := [], quads := [] }.allBack)
  else if g.order = .restore ∧ g.phase = .restore then
    match g.nextBack s.arg.c with
    | some (r, g') => .next ((s.reinject r).modGang p job fun _ => g'.allBack)
    | none => s.idle
  else s.idle

/-- IN_ADMIT: the job's slots go on and the restrictions of FREEZE are lifted (R108, step 5). Arguments: a the package, b the job. -/
def execInAdmit (s : State) : Out :=
  let p := s.arg.a
  let job : BitVec 12 := BitVec.ofNat 12 s.arg.b
  let g := s.gang p job
  if g.order = .admitted ∧ g.phase = .restore ∧ g.done then
    let cs := (s.cores.filter fun e => e.1 / 4096 == p && e.2.runs job).map (·.1)
    let s := { s with slots := s.slots.mapV fun k t => if s.ofJob p job k then t.thawed else t }
    let s := s.modGang p job fun g => { g with phase := .admitted, done := false, marked := false, watched := false }
    .next (cs.foldl (fun s c => s.restartAll c) s)
  else s.idle

/-! ### PHASE_COMPLETE (R97) -/

/-- Has a package completed what it was last ordered? -/
def Gang.complete (g : Gang) : Bool := match g.order with
  | .none => false
  | .freeze => g.phase == .freeze
  | .mark => g.phase == .mark
  | .sweep => g.phase == .sweep && g.done
  | .save => g.phase == .save
  | .release => g.phase == .out
  | .restore => g.phase == .restore && g.done
  | .admitted => g.phase == .admitted
  | .out => false

/-- The order that follows one, none after the last (R95, R97). -/
def nextOrder : GangPhase → GangPhase
  | .freeze => .mark
  | .mark => .sweep
  | .sweep => .save
  | .save => .release
  | .restore => .admitted
  | _ => .none

/-- Does Slate's repair hold a job between SAVE and RELEASE (R109)? -/
def State.heldForRepair (s : State) (anchor : Nat) (job : BitVec 12) : Bool :=
  (s.partition anchor job).any fun x => match (s.pkg x).repair with
    | some r => r.jobs.mem job.toNat && !r.retired
    | none => false

/-- PHASE_COMPLETE: a package reports its phase complete; when every package has, the anchor orders the next phase, or after the last answers the command's
queue or SVC (R97); where that must be tried again, the report is. Arguments: a the reporting package, b the job. -/
def execPhaseComplete (s : State) : Out :=
  let p := s.arg.a
  let job : BitVec 12 := BitVec.ofNat 12 s.arg.b
  let o := (s.gang p job).order
  let a := s.anchorOf p job
  match (s.pkg a).current.find job.toNat with
  | none => s.idle
  | some g =>
    if !(s.gang p job).complete ∨ (s.gang p job).told then s.idle
    else
      let t := s.modGang p job fun g => { g with told := true }
      if !(t.partition a job).all (fun x => (t.gang x job).told) ∨ (o = .save ∧ t.heldForRepair a job) then .next t
      else if nextOrder o = .none then
        let t := (t.modPkg a fun x => { x with current := x.current.erase job.toNat }).orderAll a g .none
        (match t.answerGang g none with
         | some t => .next t
         | none => s.idle)
      else .next (t.orderAll a g (nextOrder o))

end Sys2Proof.Machine
end

