-- ==== Sys2Proof/Machine/Slate.lean ====
section
/-!
DEFINITION. Machine/Slate.lean: Slate: power, boot and recovery, attestation, lifetime counters, watchdog and repair (R21 to R26, R71 to R77, R109 to
R112). The boot flash is outside the package: what it returns comes with the event that reads it (log entry 6).
-/
namespace Sys2Proof.Machine

/-! ### Power (R21 to R26) -/

/-- POWER_ON: the module raises the rails of one of the pod's packages, of which it has at most 1,058; Slate holds every other core in reset (R3, R21, R27).
Argument: a the package. -/
def execPowerOn (s : State) : Out :=
  if s.arg.a < 1058 ∧ (s.pkg s.arg.a).power = .off then .next (s.modPkg s.arg.a fun x => { x with power := .rising }) else s.idle

/-- RAILS_SETTLED: Slate begins to boot: the fuse hash in MREG0, then stage 1 (R21, R71). Argument: a the package. -/
def execRailsSettled (s : State) : Out :=
  if s.arg.a < 1058 ∧ (s.pkg s.arg.a).power = .rising then
    .next (s.modPkg s.arg.a fun x =>
      { x with power := .on, boot := { x.boot with stage := 1, loading := true, mreg := x.boot.mreg.set 0 (Config.shake512 (Config.fuses s.arg.a)) } })
  else s.idle

/-- What a package keeps without power: its flash, the fused versions that were raised, Slate's non-volatile counters (R74, R77, R112). -/
def Pkg.unpowered (x : Pkg) : Pkg :=
  { boot := { flash := x.boot.flash, minVersion := x.boot.minVersion }, life := x.committed, committed := x.committed, slateN := x.slateN }

/-- POWER_OFF: the rails go in reverse order; everything on the package but non-volatile storage is lost (R21, R22). Argument: a the package. -/
def execPowerOff (s : State) : Out :=
  let p := s.arg.a
  if (s.pkg p).power = .off then s.idle
  else
    .next { s with
      pkgs := s.pkgs.set p (s.pkg p).unpowered,
      dies := s.dies.filter (fun e => e.1 / 4 != p),
      quads := s.quads.filter (fun e => peerOf e.1 / 4 != p),
      cores := s.cores.filter (fun e => e.1 / 4096 != p),
      slots := s.slots.filter (fun e => peerOfSlot e.1 / 4 != p),
      mem := s.mem.filter (fun e => paPeer e.1 / 4 != p),
      empty := s.empty.filter (fun a => paPeer a / 4 != p),
      poison := s.poison.filter (fun a => paPeer a / 4 != p),
      stash := s.stash.filter (fun e => e.1 / 2 ^ 18 / 4096 != p),
      stashEmpty := s.stashEmpty.filter (fun a => a / 2 ^ 18 / 4096 != p),
      stashPoison := s.stashPoison.filter (fun a => a / 2 ^ 18 / 4096 != p),
      net := s.net.filter (fun f => f.loc.pkg != p),
      posted := s.posted.filter fun e => e.2.a != p }

/-- Is a slot of the package bound (R26)? The supervisor core's threads are not bound (R135). A pre-empted crew's are: the manual does not say (DESIGN CHOICE, log
entry 43). -/
def State.anyBound (s : State) (p : Nat) : Bool :=
  s.cores.any (fun e => e.1 / 4096 == p && (e.2.crew.bind.valid || e.2.saved.isSome)) ||
    s.slots.any fun e => peerOfSlot e.1 / 4 == p && e.2.st != .free && !s.isSup (coreOf e.1)

/-- The fields of a PWRCTL command (R23). -/
def pwrSeq (v : Word) : BitVec 16 := bits v 16 16
def pwrState (v : Word) : BitVec 2 := bits v 0 2

/-- A PWRCTL command that no transition keeps waiting: refused, or a transition begins; a P3 that is taken commits the lifetime counters (R26, R77; DESIGN
CHOICE for one refused or replaced, log entry 60). -/
def State.startPower (s : State) (p : Nat) (v : Word) : State :=
  if (bits v 2 14 : BitVec 14) ≠ 0 ∨ (pwrState v = 3 ∧ s.anyBound p) then s.modPkg p fun x => { x with prefused := true, pseq := pwrSeq v }
  else s.modPkg p fun x => { x with pbusy := true, ptarget := v, committed := if pwrState v = 3 then x.life else x.committed }

/-- A PWRCTL write: refused, held while a transition goes on, or started (R26). -/
def State.pwrctl (s : State) (v : Word) (want : BitVec 2) : Out :=
  let p := s.arg.a
  if (s.pkg p).power ≠ .on ∨ pwrState v ≠ want then s.idle
  else if (s.pkg p).pbusy ∧ (bits v 2 14 : BitVec 14) = 0 then .next (s.modPkg p fun x => { x with pheld := some v })
  else .next (s.startPower p v)

/-- PWRCTL_P0 (R23, R26). Arguments: a the package, value. -/
def execPwrctlP0 (s : State) : Out := s.pwrctl (s.arg.value.setWidth 64) 0
/-- PWRCTL_P1 (R23, R26). Arguments: a the package, value. -/
def execPwrctlP1 (s : State) : Out := s.pwrctl (s.arg.value.setWidth 64) 1
/-- PWRCTL_P2 (R23, R26). Arguments: a the package, value. -/
def execPwrctlP2 (s : State) : Out := s.pwrctl (s.arg.value.setWidth 64) 2
/-- PWRCTL_P3 (R23, R26). Arguments: a the package, value. -/
def execPwrctlP3 (s : State) : Out := s.pwrctl (s.arg.value.setWidth 64) 3

/-- POWER_TRANSITION_DONE: PWRSTS shows the new state and seq; the write held last is applied (R24, R26). Argument: a the package. -/
def execPowerTransitionDone (s : State) : Out :=
  let p := s.arg.a
  if !(s.pkg p).pbusy then s.idle
  else
    let v := (s.pkg p).ptarget
    let s' := s.modPkg p fun x => { x with pbusy := false, prefused := false, pstate := pwrState v, pseq := pwrSeq v, pheld := none }
    match (s.pkg p).pheld with
    | some h => .next (s'.startPower p h)
    | none => .next s'

/-- PWRSTS (R24). -/
def Pkg.pwrsts (x : Pkg) : Word :=
  (0 : BitVec 32) ++ x.pseq ++ (0 : BitVec 11) ++ b1 (x.alert != 0) ++ b1 x.prefused ++ b1 x.pbusy ++ x.pstate

/-- The lifetime counter of a thermal excursion (R77). -/
def heatBand (celsius : Nat) : Nat := min 4 ((celsius - 100) / 5)

/-- THERMAL_ALERT: a junction sensor reads 100 °C or more: the alert bit, and the seconds in the lifetime counter (R22, R24, R77). Arguments: a the package,
b the die, c the temperature in °C, value the seconds. -/
def execThermalAlert (s : State) : Out :=
  let d := s.arg.b % 4
  if (s.pkg s.arg.a).power ≠ .on ∨ s.arg.c < 100 then s.idle
  else .next (s.modPkg s.arg.a fun x =>
    let i := d * 5 + heatBand s.arg.c
    { x with alert := x.alert ||| (1 <<< d), life := { x.life with thermal := x.life.thermal.set i (x.life.thermal.get 0 i + s.arg.value.setWidth 64) } })

/-- THERMAL_ALERT_CLEAR: a die's sensors all read below 100 °C (R24). Arguments: a the package, b the die. -/
def execThermalAlertClear (s : State) : Out :=
  .next (s.modPkg s.arg.a fun x => { x with alert := x.alert &&& ~~~((1 : BitVec 4) <<< (s.arg.b % 4)) })

/-- THERMTRIP: a sensor reads 120 °C or more, and the output goes active (R22). Arguments: a the package, b the die, c the temperature in °C. -/
def execThermtrip (s : State) : Out :=
  if (s.pkg s.arg.a).power = .on ∧ 120 ≤ s.arg.c then .next (s.modPkg s.arg.a fun x => { x with thermtrip := true }) else s.idle

/-! ### Boot (R71 to R74) -/

/-- A field of n bytes of an image, little-endian (R4, R72). -/
def imgField (b : List Byte) (off n : Nat) : Nat := ((b.drop off).take n).foldr (fun x v => x.toNat + 256 * v) 0
/-- The body length that a header gives. -/
def imgBody (b : List Byte) : Nat := imgField b 24 8

/-- The code of the first check that an image of a type fails (R72, R73). -/
def State.imageFails (s : State) (p t : Nat) (b : List Byte) : Option (BitVec 4) :=
  let pk := (b.drop 40).take 1952
  if imgField b 0 4 ≠ 0x4C45_534B ∨ imgField b 4 4 ≠ t ∨ 2 ^ 28 < imgBody b ∨ imgField b 5301 3 ≠ 0 ∨ b.length ≠ 5304 + imgBody b then some 2
  else if !(List.range 4).any fun i => Config.keyIntact p i && Config.keyHash p i == Config.shake256 pk then some 3
  else if !Config.mldsaVerifies pk (b.take 1992 ++ b.drop 5304) ((b.drop 1992).take 3309) then some 4
  else if imgField b 8 8 < ((s.pkg p).boot.minVersion.get (Config.fusedMin p t) t).toNat then some 5
  else none

/-- The lowest logical core of a die whose remap entry is valid (R135). -/
def Die.firstCore (d : Die) : Nat := (((List.range 256).find? fun q => d.quadValid q).getD 0) * 4

/-- A die's Cobalt starts and chooses the supervisor core (R135). -/
def State.startCobalt (s : State) (peer : Nat) : State :=
  s.modDie peer fun d => { d with cobalt := true, supcore := BitVec.ofNat 64 (peer * 1024 + d.firstCore) }

/-- The supervisor core released at an entry address: slot 0 in RUN (R71; log entry 5). -/
def State.startSup (s : State) (peer : Nat) (entry : Word) : State :=
  let s := s.modDie peer fun d => { d with supRun := true }
  s.modSlot ((s.die peer).supcore.toNat * 8) fun t => t.dispatched entry 0 0 {}

/-- The routing tables that fabric firmware fills (R30, R36): every entry valid but the package's own (DESIGN CHOICE, log entry 38). -/
def bootRoutes (p : Nat) : NMap (BitVec 128) :=
  (List.range 1058).map fun d => (d, if d = p then 63 else BitVec.ofNat 128 (128 + minimalPort p d))

/-- The dies that a stage's image is written to: every die has its own Cobalt and supervisor; the fabric firmware runs at die 0 (log entry 5). -/
def stageDies (p t : Nat) : List Nat := if t = 3 then [4 * p] else (List.range 4).map (4 * p + ·)

/-- An image written to its load address on a die. -/
def State.loadImage (s : State) (peer : Nat) (b : List Byte) : State :=
  s.putImage (paOf peer (imgField b 16 8)) b.length (Cells.writeList [] 0 b)

/-- A stage accepted (R71, R74): hashed, written to its load address, its cores released; after stage 3 the boot is done. Where a die boots again, `who`, it alone takes the
image, and the package's own boot stands as it was (R75). Slate waits no more for the image of what it was. -/
def State.acceptStage (s : State) (p : Nat) (who : Option Nat) (t : Nat) (b : List Byte) : State :=
  let entry : Word := BitVec.ofNat 64 (imgField b 32 8)
  let own := who.isNone
  let dies := match who with
    | none => stageDies p t
    | some d => [d]
  let s := dies.foldl (fun s d => s.loadImage d b) s
  let s := if t = 1 then dies.foldl (fun s d => s.startCobalt d) s
    else if t = 2 then dies.foldl (fun s d => s.startSup d entry) s
    else s.modPkg p fun x => { x with routes := bootRoutes p }
  let raise := if t = 2 then Config.versionUpdates b else []
  s.modPkg p fun x =>
    { x with boot := { x.boot with
        mreg := x.boot.mreg.set t (Config.shake512 b), stageEntry := x.boot.stageEntry.set t entry, fail := 0,
        recover := x.boot.recover && x.boot.awaited != who, awaited := if x.boot.awaited = who then none else x.boot.awaited,
        stage := if own then BitVec.ofNat 4 (min 3 (t + 1)) else x.boot.stage, done := if own then t == 3 else x.boot.done,
        loading := if own then t != 3 else x.boot.loading,
        minVersion := raise.foldl (fun m u => let old := m.get (Config.fusedMin p u.1) u.1; m.set u.1 (if old < u.2 then u.2 else old)) x.boot.minVersion } }

/-- A stage refused: it and the later ones stay in reset, and Slate waits for a recovery image of it (R74). -/
def State.refuseStage (s : State) (p : Nat) (who : Option Nat) (code : BitVec 4) : State :=
  s.modPkg p fun x => { x with boot := { x.boot with fail := code, recover := true, awaited := who, nextPiece := 0, length := 0, busy := false, pending := none } }

/-- Does an image lie at addresses that have a home (R163)? -/
def imgFits (b : List Byte) : Bool := imgField b 16 8 + b.length ≤ dramEnd

/-- What the next image is for: what Slate waits for, else the package's own stage. -/
def Boot.who (x : Boot) : Option Nat := if x.recover then x.awaited else none
/-- The stage that a die which boots again needs next (R75). -/
def State.dieStage (s : State) (d : Nat) : Nat := if (s.die d).cobalt then 2 else 1
/-- The stage that a package checks an image for. -/
def State.stageNow (s : State) (p : Nat) : Nat := match (s.pkg p).boot.who with
  | none => (s.pkg p).boot.stage.toNat
  | some d => s.dieStage d

/-- A die that boots again takes its next stage from the flash as it was read (log entry 6); with both running it is done. One whose image fails its check waits for a
recovery image, where Slate waits for another already after that one (R74, R75). A package that has not come to stage 2 itself starts the supervisors in its own boot. -/
def State.bootAgain (s : State) (p d : Nat) : State :=
  let t := s.dieStage d
  let x := (s.pkg p).boot
  let b := x.flash.get [] t
  if !x.again.contains d || x.who == some d then s
  else if (s.die d).supRun || (t == 2 && !x.done && x.stage != 3) then
    s.modPkg p fun y => { y with boot := { y.boot with again := y.boot.again.filter (· != d) } }
  else match s.imageFails p t b with
    | some code => if x.recover then s else s.refuseStage p (some d) code
    | none =>
      if imgFits b then (s.acceptStage p (some d) t b).modPkg p fun x => { x with boot := { x.boot with fail := 6 } }
      else if x.recover then s else s.refuseStage p (some d) 2

/-- The dies of a package that boot again load stages 1 and 2, one after the other (R75). -/
def State.reboot (s : State) (p : Nat) : State :=
  (s.pkg p).boot.again.foldl (fun s d => ((s.bootAgain p d).bootAgain p d).bootAgain p d) s

/-- An image checked at the stage that it is for, and accepted or refused; one that would lie outside the dies' DRAM stops the machine. -/
def State.checkStage (s : State) (p : Nat) (b : List Byte) : Out :=
  let t := s.stageNow p
  let who := (s.pkg p).boot.who
  match s.imageFails p t b with
  | some code => .next (s.refuseStage p who code)
  | none =>
    if !imgFits b then .fault (.noSuchAddress (imgField b 16 8))
    else .next ((s.acceptStage p who t b).reboot p)

/-- BOOT_STAGE_LOAD: the image of the next stage comes from the flash and is checked (R71, R72). Arguments: a the package, bytes what the flash returns, good
whether the read succeeded. -/
def execBootStageLoad (s : State) : Out :=
  let p := s.arg.a
  let x := (s.pkg p).boot
  if (s.pkg p).power ≠ .on ∨ !x.loading ∨ x.recover then s.idle
  else if !s.arg.good then .next (s.refuseStage p none 1)
  else (s.modPkg p fun y => { y with boot := { y.boot with flash := y.boot.flash.set x.stage.toNat s.arg.bytes } }).checkStage p s.arg.bytes

/-- The recovery window and buffer (R74). -/
def windowBytes : Nat := 0x40_0000
def bufferAt : Nat := 0x1F_E000_0000
def bufferBytes : Nat := 0x2000_0000

/-- RECOVERY_WINDOW_WRITE: stored, or discarded while busy (R54, R74). Arguments: a the package, b the window offset, bytes. -/
def execRecoveryWindowWrite (s : State) : Out :=
  let x := (s.pkg s.arg.a).boot
  if (s.pkg s.arg.a).power ≠ .on ∨ x.busy ∨ windowBytes < s.arg.b + s.arg.bytes.length then s.idle
  else .next (s.modPkg s.arg.a fun y => { y with boot := { y.boot with window := y.boot.window.writeList s.arg.b s.arg.bytes } })

/-- A recovery sequence error: fail = 7, the pieces received discarded (R74). -/
def State.badSequence (s : State) (p : Nat) : State := s.refuseStage p (s.pkg p).boot.awaited 7

/-- RECOVCTL_WRITE: hands Slate a piece, or fails the sequence (R74). It does nothing while Slate waits for no image. Arguments: a the package, value. -/
def execRecovctlWrite (s : State) : Out :=
  let p := s.arg.a
  let v : Word := s.arg.value.setWidth 64
  let x := (s.pkg p).boot
  let n := (bits v 0 32 : BitVec 32).toNat
  if (s.pkg p).power ≠ .on ∨ !x.recover then s.idle
  else if x.busy ∨ (bits v 32 16 : BitVec 16).toNat ≠ x.nextPiece ∨ 64 < x.nextPiece ∨ n = 0 ∨ windowBytes < n ∨ (!v.getLsbD 63 ∧ n ≠ windowBytes) then
    .next (s.badSequence p)
  else .next (s.modPkg p fun y => { y with boot := { y.boot with busy := true, pending := some v } })

/-- The recovery buffer written to zero, its words full (R74). -/
def State.clearBuffer (s : State) (p : Nat) : State :=
  let a := paOf (4 * p) bufferAt
  let s := s.putImage a bufferBytes []
  { s with empty := s.empty.filter fun x => !(a ≤ x && x < a + bufferBytes) }

/-- RECOVERY_PIECE_COPIED: a piece stands in the recovery buffer; after the last the image is checked (R74). Argument: a the package. -/
def execRecoveryPieceCopied (s : State) : Out :=
  let p := s.arg.a
  let x := (s.pkg p).boot
  match x.pending with
  | none => s.idle
  | some v =>
    let n := (bits v 0 32 : BitVec 32).toNat
    let a := paOf (4 * p) bufferAt
    let s := s.putImage (a + x.nextPiece * windowBytes) n (x.window.filter fun e => e.1 < n)
    let s := s.modPkg p fun y => { y with boot := { y.boot with busy := false, pending := none, nextPiece := x.nextPiece + 1, length := x.length + n } }
    if !v.getLsbD 63 then .next s
    else
      let b := (List.range (x.length + n)).map fun i => s.mem.read (a + i)
      (s.clearBuffer p).checkStage p b

/-- BOOTSTS (R73), and what RECOVCTL reads (R74). -/
def Boot.bootsts (x : Boot) : Word := (0 : BitVec 48) ++ x.stage ++ x.fail ++ (0 : BitVec 7) ++ b1 x.done
def Boot.recovctl (x : Boot) : Word := (0 : BitVec 1) ++ b1 x.busy ++ (0 : BitVec 62)

/-! ### Attestation (R76) -/

/-- n bytes of a value, little-endian. -/
def bytesOf {w : Nat} (v : BitVec w) (n : Nat) : List Byte := (List.range n).map fun i => bits v (8 * i) 8

/-- ATTGO_WRITE: a 1 starts a report; a write while ATTGO reads 1 is discarded (R76). Arguments: a the package, value. -/
def execAttgoWrite (s : State) : Out :=
  if (s.pkg s.arg.a).power = .on ∧ !(s.pkg s.arg.a).attgo ∧ s.arg.value = 1 then .next (s.modPkg s.arg.a fun x => { x with attgo := true })
  else s.idle

/-- The remap tables of a package's four dies, in die order (R76). -/
def State.remapBytes (s : State) (p : Nat) : List Byte :=
  (List.range 4).flatMap fun d => (List.range 256).flatMap fun q => bytesOf ((s.die (4 * p + d)).remapOf q) 2

/-- Bytes 0 to 415 of a report (R76). -/
def State.reportBytes (s : State) (p : Nat) : List Byte :=
  let x := s.pkg p
  bytesOf (1 : BitVec 32) 4 ++ bytesOf (0 : BitVec 32) 4 ++ bytesOf (Config.serial p) 16 ++ bytesOf x.attreq 32 ++
    ((List.range 4).flatMap fun i => bytesOf (x.boot.mreg.get 0 i) 64) ++
    ((List.range 4).flatMap fun t => bytesOf (x.boot.minVersion.get (Config.fusedMin p t) t) 8) ++
    bytesOf (Config.shake512 (s.remapBytes p)) 64 ++ bytesOf x.life.hours 8

/-- ATTESTATION_REPORT_DONE: the signed report stands in the report buffer and ATTGO is clear (R76). Argument: a the package. -/
def execAttestationReportDone (s : State) : Out :=
  let p := s.arg.a
  if (s.pkg p).attgo then
    let b := s.reportBytes p
    .next (s.modPkg p fun x => { x with attgo := false, report := Cells.writeList [] 0 (b ++ (Config.mldsaSign p b).take 3309) })
  else s.idle

/-! ### Lifetime counters (R77) -/

/-- LIFETIME_COMMIT: powered hours pass, up to the next multiple of 24, at which the counters are committed (R77). Arguments: a the package, c the hours, where 0 or more
than there are left stand for all that are left. -/
def execLifetimeCommit (s : State) : Out :=
  if (s.pkg s.arg.a).power = .on then
    .next (s.modPkg s.arg.a fun x =>
      let rest := 24 - x.life.hours.toNat % 24
      let all : Bool := s.arg.c = 0 || rest ≤ s.arg.c
      let l := { x.life with hours := x.life.hours + BitVec.ofNat 64 (if all then rest else s.arg.c) }
      { x with life := l, committed := if all then l else x.committed })
  else s.idle

/-- MONTH_ADVANCE: with 720 more powered hours behind it the ring index moves to the next of 60 slots, whose counters begin at 0 (R77). Argument: a the package. -/
def execMonthAdvance (s : State) : Out :=
  if (s.pkg s.arg.a).power = .on ∧ (s.pkg s.arg.a).life.hours.toNat / 720 % 60 ≠ (s.pkg s.arg.a).life.monthIndex.toNat then
    .next (s.modPkg s.arg.a fun x =>
      let m := (x.life.monthIndex.toNat + 1) % 60
      { x with life := { x.life with monthIndex := BitVec.ofNat 64 m, ecc := x.life.ecc.filter fun e => e.1 / 1088 != m } })
  else s.idle

/-- The lifetime counter window, by 64-bit words (R77). -/
def Lifetime.window (l : Lifetime) (off : Nat) : Word :=
  let ofBytes := fun (f : Nat → Byte) => (List.range 8).foldl (fun (w : Word) i => w ||| ((f i).setWidth 64 <<< (8 * i))) 0
  if off = 0 then l.monthIndex
  else if off = 8 then l.hours
  else if 0x1000 ≤ off ∧ off < 0x1000 + 2 * 65280 then ofBytes fun i => bits (l.ecc.get 0 ((off - 0x1000 + i) / 2)) (8 * (i % 2)) 8
  else if 0x8_0000 ≤ off ∧ off < 0x8_0000 + 2176 then ofBytes fun i => l.spareRows.get 0 (off - 0x8_0000 + i)
  else if 0x8_1000 ≤ off ∧ off < 0x8_1000 + 160 then ofBytes fun i => bits (l.retrains.get 0 ((off - 0x8_1000 + i) / 4)) (8 * (i % 4)) 8
  else if 0x8_2000 ≤ off ∧ off < 0x8_2000 + 160 then l.thermal.get 0 ((off - 0x8_2000) / 8)
  else if 0x8_3000 ≤ off ∧ off < 0x8_3000 + 96 then l.bubbles.get 0 ((off - 0x8_3000) / 8)
  else if 0x8_4000 ≤ off ∧ off < 0x8_4000 + 16 then
    ofBytes fun i => let j := (off - 0x8_4000 + i) / 4
      bits (if i / 2 % 2 = 0 then l.retired.get 0 j else l.left.get 16 j) (8 * (i % 2)) 8
  else 0

/-! ### Freezes of Slate's own (R75, R109, R112) -/

/-- The jobs that hold slots on a die; the supervisor core's threads are no job's. -/
def State.jobsOn (s : State) (peer : Nat) : NSet :=
  let n := s.slots.foldl (fun (n : NSet) e => if peerOfSlot e.1 = peer ∧ e.2.st ≠ .free ∧ !s.isSup (coreOf e.1) then n.insert e.2.job.toNat else n) []
  s.cores.foldl (fun (n : NSet) e => if e.1 / 1024 = peer then
    let n := match e.2.saved with
      | some sv => n.insert sv.crew.bind.job.toNat
      | none => n
    if e.2.crew.bind.valid then n.insert e.2.crew.bind.job.toNat else n else n) n

/-- The next switch instance of Slate's, and the count after it (R112). -/
def slateInst (n : BitVec 31) : BitVec 32 := (1 : BitVec 1) ++ n
def nextN (n : BitVec 31) : BitVec 31 := if n = 0x7FFF_FFFF then 1 else n + 1

/-- Slate freezes a job into its JSAVE area, or aborts one that has none and so cannot be saved; the host is told (R109, R112). R109 says so of a repair, and the model
does the same for the watchdog, whose OUT runs to its end too (R75, R112; DESIGN CHOICE, log entry 36). `cause`: 6 for the watchdog, 1 for a repair. -/
def State.slateFreeze (s : State) (peer : Nat) (job : BitVec 12) (cause : Nat) : State :=
  let p := peer / 4
  let js := (s.die peer).jsave.get 0 job.toNat
  if js.getLsbD 63 then
    let i := slateInst (s.pkg p).slateN
    let s := s.modPkg p fun x => { x with slateN := nextN x.slateN }
    let s := if cause = 6 then s.modGang p job fun g => { g with watched := true } else s
    (s.toAnchor p { op := gangOut, job := job, save := (js &&& 0x0000_0FFF_FFFF_0000).setWidth 44, instId := i, pkg := p, slate := true }).report p "FREEZE"
      [job.toNat, i.toNat, cause]
  else s.abortJob (s.anchorOf p job) job [cause]

/-- HEARTBEAT_MISSED: a die's Cobalt or supervisor misses its heartbeat: the die's jobs are frozen, its stages 1 and 2 booted again, fail = 6 (R75). Argument: a
the die's peer number. -/
def execHeartbeatMissed (s : State) : Out :=
  let peer := s.arg.a
  let p := peer / 4
  if (s.pkg p).power ≠ .on ∨ !(s.die peer).cobalt then s.idle
  else
    let s := (s.jobsOn peer).foldl (fun s j => s.slateFreeze peer (BitVec.ofNat 12 j) 6) s
    let sup := (s.die peer).supcore.toNat
    let s := if (s.die peer).supRun then (List.range 8).foldl (fun s i => s.modSlot (sup * 8 + i) (·.freed)) s else s
    let s := (s.modDie peer fun d => { d with cobalt := false, supRun := false }).modPkg p fun x =>
      { x with boot := { x.boot with
          fail := 6, again := x.boot.again.filter (· != peer) ++ [peer], recover := x.boot.recover && x.boot.awaited != some peer,
          awaited := x.boot.awaited.filter (· != peer) } }
    .next ((s.report p "WATCHDOG" [peer]).reboot p)

/-! ### Repair (R15 to R17, R109 to R111) -/

/-- A parcel by its home core, its launch's acceptance number and its index, as a thread and a bind record of its core name it; of a pair the even core. -/
def Slot.ofParcel (t : Slot) : Nat × Nat × Nat := (t.par.home, t.par.launch, t.par.parcel.toNat)
def Bind.atHome (b : Bind) (c : Nat) : Nat × Nat × Nat := (if b.lockstep then c / 2 * 2 else c, b.launch, b.parcel.toNat)

/-- The parcels of a frozen job lost with a failing core: of its crew, its pre-empted crew and the threads that stood in its slots (R109, R110). -/
def Gang.lost (g : Gang) (cores : List Nat) : List (Nat × Nat × Nat) :=
  let ofCrew := (g.crews.filter fun e => cores.contains e.1 && e.2.bind.valid && !e.2.bind.retired).map fun e => e.2.bind.atHome e.1
  let ofSaved := (g.saved.filter fun e => cores.contains e.1 && !e.2.crew.bind.retired).map fun e => e.2.crew.bind.atHome e.1
  let ofSlots := (g.slots.filter fun e => cores.contains (coreOf e.1)).map fun e => e.2.ofParcel
  let inSaved := (g.saved.filter fun e => cores.contains e.1).flatMap fun e => (e.2.slots.filter fun t => t.st != .free).map (·.ofParcel)
  (ofCrew ++ ofSaved ++ ofSlots ++ inSaved).eraseDups

/-- Does a thread belong to one of the parcels named? -/
def Slot.inParcels (t : Slot) (l : List (Nat × Nat × Nat)) : Bool := l.contains t.ofParcel

/-- The bind record of a parcel that a job's save holds on any package. -/
def State.savedBind (s : State) (ps : List Nat) (job : BitVec 12) (e : Nat × Nat × Nat) : Option Bind :=
  ps.findSome? fun p =>
    let g := s.gang p job
    let ok := fun (b : Bind) => if b.atHome e.1 = e then some b else none
    match (g.crews.find e.1).bind fun x => ok x.bind with
    | some b => some b
    | none => (g.saved.find e.1).bind fun x => ok x.crew.bind

/-- The threads of a save's pre-empted crews, by their slots. -/
def Gang.savedThreads (g : Gang) : NMap Slot := g.saved.flatMap fun e => (e.2.slots.zipIdx).map fun t => (e.1 * 8 + t.2, t.1)

/-- The threads that a save loses, by their slots: those of some parcels and those of the failing cores, pre-empted ones too (R109, R110). -/
def Gang.dead (g : Gang) (l : List (Nat × Nat × Nat)) (cores : List Nat) : NMap Slot :=
  (g.slots ++ g.savedThreads).filter fun e => e.2.st != .free && (e.2.inParcels l || cores.contains (coreOf e.1))

/-- A pre-empted crew without the threads of some parcels; its own parcel, where it is one of them, counts as retired. None of it is left where no thread is (R110). -/
def SavedCrew.without (sv : SavedCrew) (c : Nat) (l : List (Nat × Nat × Nat)) : Option SavedCrew :=
  let ts := sv.slots.map fun t => if t.inParcels l then t.freed else t
  if !l.contains (sv.crew.bind.atHome c) then some { sv with slots := ts }
  else if ts.all (·.st == .free) then none
  else some { crew := { sv.crew with bind := { sv.crew.bind with retired := true, live := 0 } }, slots := ts }

/-- A save without the threads of some parcels, without what the failing cores held, and without the responses for and the packets of removed threads, `dead` of any
package (R109, R110). -/
def Gang.without (g : Gang) (l : List (Nat × Nat × Nat)) (cores : List Nat) (dead : NMap Slot) : Gang :=
  let answers := fun (k : Pkt) => k.isResponse && dead.any fun e => e.1 == k.requester && e.2.ops.any fun o => o.awaits k.tag
  let keep := fun (r : SweepRec) => !answers r.pkt &&
    !(r.pkt.type == 0x07 && (r.pkt.fn == taskSpawn || r.pkt.fn == taskMigr) && l.contains (r.pkt.parcel.home, r.pkt.parcel.launch, r.pkt.parcel.parcel.toNat))
  { g with
    slots := g.slots.filter (fun e => !(e.2.inParcels l || cores.contains (coreOf e.1))),
    crews := (g.crews.filter fun e => !cores.contains e.1).map (fun e =>
      if l.contains (e.2.bind.atHome e.1) then (e.1, { e.2 with bind := { e.2.bind with retired := true, live := 0 } }) else e),
    saved := (g.saved.filter fun e => !cores.contains e.1).filterMap (fun e => (e.2.without e.1 l).map fun sv => (e.1, sv)),
    images := g.images.mapV fun c m => (g.savedThreads.filter fun e => coreOf e.1 == c && e.2.inParcels l).foldl (fun m e =>
      m.filter fun b => !(2560 * slotOf e.1 ≤ b.1 && b.1 < 2560 * slotOf e.1 + 2560)) m,
    sweep := g.sweep.filter keep, late := g.late.filter keep }

/-- The places in a job's save area of the contexts of removed threads: those of running crews, and those of pre-empted crews whose core's part the area gives to them
(R105, R110). -/
def Gang.contexts (g : Gang) (dead : NMap Slot) : List Nat :=
  ((g.slots ++ g.savedThreads.filter fun e => !g.crews.has (coreOf e.1)).map (·.1)).filter fun k => dead.has k

/-- One frozen job after the loss of a core: its lost parcels removed on every package, their contexts cleared in the save area, those of a rerunnable launch on the redo list of the die that ran them; a job
with another lost parcel is to be aborted (R110, R111). -/
def State.loseParcels (s : State) (p : Nat) (cores : List Nat) (job : BitVec 12) : State :=
  let ps := s.partition p job
  let l := (s.gang p job).lost cores
  let binds := l.filterMap fun e => (s.savedBind ps job e).map fun b => (e, b)
  let mine := fun (x : Nat) => if x = p then cores else []
  let dead := ps.flatMap fun x => (s.gang x job).dead l (mine x)
  let s := ps.foldl (fun s x => ((s.gang x job).contexts dead).foldl (fun s k =>
    s.putImage (paOf (peerOfSlot k) ((s.gang x job).save.toNat + atContext k)) 2560 []) s) s
  let s := ps.foldl (fun s x => s.modGang x job fun g => g.without l (mine x) dead) s
  binds.foldl (fun s e =>
    let ls := e.2.lslot.toNat
    if e.2.rerun then s.modDieLaunch (e.1.1 / 1024) ls fun d => { d with redo := d.redo.insert e.1.2.2 }
    else s.modPkg p fun x => { x with repair := x.repair.map fun r => { r with aborts := r.aborts ++ [(job.toNat, ls, e.1.2.2)] } }) s

/-- The spare block that replaces the next that fails: the lowest row of column 16 not in use (R13, R15). The manual does not say which is taken (DESIGN CHOICE, log
entry 42). -/
def Die.spareRow (d : Die) : Option Nat := (List.range 16).find? fun r => !d.spares.mem r

/-- A quad retired (R15 to R17, R109): its caches give up their lines, the entry names a spare block or becomes invalid. The words that the copy cannot read are left
empty and poisoned, and their addresses reported (R16). -/
def State.retireQuad (s : State) (q : Nat) (bad : List Nat) : State :=
  let peer := peerOf q
  let n := quadNo q
  let s := (((s.die peer).dir.filter fun e => e.1 / 2 % 256 == n).map (·.1)).foldl (fun s l => s.homeObtain l) s
  let s := ((s.quad q).lines.map (·.1)).foldl (fun s l => if paPeer (l * 256) = peer then s.homeObtain l else s.dropLine q l) s
  let d := s.die peer
  let s := s.modPkg (peer / 4) fun x =>
    { x with life := { x.life with retired := x.life.retired.set (peer % 4) (x.life.retired.get 0 (peer % 4) + 1),
                                   left := x.life.left.set (peer % 4) (BitVec.ofNat 16 (15 - min 15 d.spares.length)) } }
  match d.spareRow with
  | some r =>
    let s := s.modDie peer fun d =>
      { d with spares := d.spares.insert r, remap := d.remap.set n ((1 : BitVec 1) ++ (0 : BitVec 6) ++ (16 : BitVec 5) ++ BitVec.ofNat 4 r) }
    let bad := bad.filter fun off => off < dramEnd && sliceOf off / 2 == n
    if bad = [] then s
    else (bad.foldl (fun s off => (s.setFull (paOf peer off / 8 * 8) false).setPoison (paOf peer off / 8 * 8) true) s).report (peer / 4) "VAULT COPY" (peer :: bad)
  | none => (s.modDie peer fun d => { d with remap := d.remap.set n (d.remapOf n &&& ~~~0x8000) }).report (peer / 4) "QUAD LOST" [peer, n]

/-- The tile of a unit saved as ABANDONED (R109). -/
def Quad.abandonAt (q : Quad) (u : Nat) : Quad :=
  let u := if (q.tile u).state = stHeld then u / 5 * 5 else u
  if (q.tile u).state = stClosed then q else q.setTile u { q.tile u with state := stAbandoned }

/-- Jobs of a die frozen for its repair, those with a valid JSAVE to be handled at its end (R15, R109). -/
def State.freezeFor (s : State) (peer : Nat) (jobs : NSet) : State :=
  let kept := jobs.filter fun j => ((s.die peer).jsave.get 0 j).getLsbD 63
  let s := s.modPkg (peer / 4) fun x => { x with repair := x.repair.map fun r => { r with jobs := kept.foldl (fun (n : NSet) j => n.insert j) r.jobs } }
  jobs.foldl (fun s j => s.slateFreeze peer (BitVec.ofNat 12 j) 1) s

/-- Step 1 of R109: the failing core's threads stop, the die's jobs are frozen. -/
def State.startRepair (s : State) (c : Nat) (unit : Option Nat) : State :=
  let peer := c / 1024
  let jobs := s.jobsOn peer
  let s := match unit with
    | some u => s.modQuad (quadOf c) (·.abandonAt u)
    | none => (List.range 8).foldl (fun s i => s.modSlot (c * 8 + i) (·.frozen)) s
  (s.modPkg (peer / 4) fun x => { x with repair := some { core := c, unit := unit, jobs := [] } }).freezeFor peer jobs

/-- Is a job saved on every package of its partition, and told so, or past it (R97, R109)? -/
def State.savedAll (s : State) (p : Nat) (job : BitVec 12) : Bool :=
  (s.partition p job).all fun x => let g := s.gang x job
    (g.phase == .save && (g.told || g.order == .release)) || g.phase == .out

/-- Is a job out on every package of its partition? -/
def State.outAll (s : State) (p : Nat) (job : BitVec 12) : Bool := (s.partition p job).all fun x => (s.gang x job).phase == .out

/-- Steps 2 to 4 of R109, then RELEASE ordered (step 5). -/
def State.middleRepair (s : State) (p : Nat) (r : Repair) (bad : List Nat) : State :=
  let cores := if r.unit.isSome then [] else if (s.core r.core).crew.bind.lockstep then [r.core / 2 * 2, r.core / 2 * 2 + 1] else [r.core]
  let s := if r.unit.isSome then s
    else (r.jobs.foldl (fun s j => s.loseParcels p cores (BitVec.ofNat 12 j)) s).retireQuad (quadOf r.core) bad
  let s := if r.unit.isSome then s else s.wipeStash r.core
  let s := s.modPkg p fun x => { x with repair := x.repair.map fun r => { r with retired := true } }
  r.jobs.foldl (fun s j =>
    let job : BitVec 12 := BitVec.ofNat 12 j
    let a := s.anchorOf p job
    match (s.pkg a).current.find j with
    | some g => s.orderAll a g .release
    | none => s) s

/-- The end of R109: each job aborted or switched in again under the instance of its freeze; one that the watchdog froze stays frozen (R110, R111). -/
def State.endRepair (s : State) (p : Nat) (r : Repair) : State :=
  let s := s.modPkg p fun x => { x with repair := none }
  r.jobs.foldl (fun s j =>
    let job : BitVec 12 := BitVec.ofNat 12 j
    let a := s.anchorOf p job
    let lost := r.aborts.filter fun e => e.1 == j
    if lost ≠ [] then s.abortJob a job (lost.flatMap fun e => [e.2.1, e.2.2])
    else if (s.gang p job).watched then s
    else
      let g := s.gang p job
      s.modPkg a fun x => { x with anchor := { op := gangIn, job := job, save := g.save, instId := g.instId, pkg := p, slate := true } :: x.anchor }) s

/-- UNCORRECTABLE_ERROR: a core, or a unit of its quad's accumulator store, reports an uncorrectable error: Slate freezes the die's jobs; once all are saved it retires and
remaps the quad and lets them be released; once all are out it resumes or aborts each (R109 to R111). The event stands for each of the three. A job that
holds slots on the die and is not yet frozen for the repair is frozen first (R15). Arguments: a the core, b the unit, good whether the core failed (else the unit), bytes the
offsets at which the vault copy meets an uncorrectable error, eight bytes each (R16). -/
def execUncorrectableError (s : State) : Out :=
  let c := s.arg.a
  let p := c / 4096
  match (s.pkg p).repair with
  | none => if (s.pkg p).power = .on then .next (s.startRepair c (if s.arg.good then none else some (s.arg.b % 80))) else s.idle
  | some r =>
    if r.core ≠ c then s.idle
    else if !r.retired then
      let more := (s.jobsOn (c / 1024)).filter fun j => !r.jobs.mem j
      if more ≠ [] then .next (s.freezeFor (c / 1024) more)
      else if r.jobs.all fun j => s.savedAll p (BitVec.ofNat 12 j) then
        .next (s.middleRepair p r ((List.range (s.arg.bytes.length / 8)).map fun i => imgField s.arg.bytes (8 * i) 8))
      else s.idle
    else if r.jobs.all fun j => s.outAll p (BitVec.ofNat 12 j) && !(s.pkg (s.anchorOf p (BitVec.ofNat 12 j))).current.has j then .next (s.endRepair p r)
    else s.idle

end Sys2Proof.Machine
end

