-- ==== Sys2Proof/Machine/Links.lean ====
section
/-!
DEFINITION. Machine/Links.lean: what happens to links, vaults, routes and the PCI Express port (R9 to R12, R19, R31, R38, R52), and the BAR0 map (R54). A replay changes
nothing but a count: no packet is lost or reordered by it.
-/
namespace Sys2Proof.Machine

/-! ### DRAM vaults (R18, R19, R77) -/

/-- The physical block of an offset's home (R13, R163), as the lifetime counters index it. -/
def State.vaultBlock (s : State) (peer off : Nat) : Nat := peer % 4 * 272 + s.blockOf peer (sliceOf off / 2)

/-- A counter of 16 bits that saturates (R77). -/
def sat16 (v : BitVec 16) : BitVec 16 := if v = 0xFFFF then v else v + 1

/-- DRAM_ECC_CORRECT: a vault read meets a correctable error: the count rises; a row that is replaced by a spare counts too (R19, R77). Arguments: a the die's peer
number, b the per-die offset, good whether a spare row was taken. -/
def execDramEccCorrect (s : State) : Out :=
  let peer := s.arg.a
  let off := s.arg.b
  if (s.pkg (peer / 4)).power ≠ .on ∨ dramEnd ≤ off then s.idle
  else
    let b := s.vaultBlock peer off
    .next (s.modPkg (peer / 4) fun x =>
      let i := x.life.monthIndex.toNat % 60 * 1088 + b
      let v := b * 2 + sliceOf off % 2
      { x with life := { x.life with
          ecc := x.life.ecc.set i (sat16 (x.life.ecc.get 0 i)),
          spareRows := if s.arg.good then x.life.spareRows.set v (x.life.spareRows.get 0 v + 1) else x.life.spareRows } })

/-- DRAM_ECC_POISON: a vault read meets an uncorrectable error: the word is poisoned (R19, R446). Arguments: a the die's peer number, b the per-die offset. -/
def execDramEccPoison (s : State) : Out :=
  if (s.pkg (s.arg.a / 4)).power ≠ .on ∨ dramEnd ≤ s.arg.b then s.idle else .next (s.setPoison (paOf s.arg.a s.arg.b) true)

/-! ### Tarmel (R9 to R12) -/

def State.modBoundary (s : State) (p b : Nat) (f : Boundary → Boundary) : State :=
  s.modPkg p fun x => { x with boundaries := x.boundaries.set b (f (x.boundaries.get {} b)) }
def State.boundary (s : State) (p b : Nat) : Boundary := (s.pkg p).boundaries.get {} b

/-- A link's retrain counted (R11, R31, R77). -/
def State.countRetrain (s : State) (p link : Nat) : State :=
  s.modPkg p fun x => { x with life := { x.life with retrains := x.life.retrains.set link (x.life.retrains.get 0 link + 1) } }

/-- TARMEL_FLIT_REPLAY: a flit fails its CRC and is replayed (R10). Arguments: a the package, b the boundary. -/
def execTarmelFlitReplay (s : State) : Out :=
  .next (s.modBoundary s.arg.a (s.arg.b % 4) fun x => { x with replays := x.replays + 1 })

/-- TARMEL_LANE_SPARE: a failed lane is replaced by one of its group's four spares; the group stops sending while it retrains (R9, R11). Arguments: a the package, b the
boundary, c the group of 48: 24 of each direction. -/
def execTarmelLaneSpare (s : State) : Out :=
  let b := s.arg.b % 4
  let g := s.arg.c % 48
  if (s.boundary s.arg.a b).failed.get 0 g < 4 ∧ !(s.boundary s.arg.a b).disabled.mem g then
    .next ((s.modBoundary s.arg.a b fun x => { x with failed := x.failed.set g (x.failed.get 0 g + 1), retraining := x.retraining.insert g }).countRetrain s.arg.a b)
  else s.idle

/-- TARMEL_RETRAIN_DONE: the group sends again, what it held first (R11). Arguments: a the package, b the boundary, c the group. -/
def execTarmelRetrainDone (s : State) : Out :=
  .next (s.modBoundary s.arg.a (s.arg.b % 4) fun x => { x with retraining := x.retraining.remove (s.arg.c % 48) })

/-- TARMEL_GROUP_DISABLE: a fifth failed lane disables a group; with none left the boundary is down and Slate reports it, and what its retry buffers held goes the other
way round before anything later of its source dies (R12). Arguments: a the package, b the boundary, c the group. -/
def execTarmelGroupDisable (s : State) : Out :=
  let b := s.arg.b % 4
  let g := s.arg.c % 48
  if (s.boundary s.arg.a b).failed.get 0 g = 4 ∧ !(s.boundary s.arg.a b).disabled.mem g then
    let t := s.modBoundary s.arg.a b fun x => { x with failed := x.failed.set g 5, disabled := x.disabled.insert g, retraining := x.retraining.remove g }
    if (t.pkg s.arg.a).boundaryDown b (g / 24) then
      let net := s.net.map fun f => if s.crossing f = some (s.arg.a, b, g / 24) then { f with held := true } else f
      .next ({ t with net := net }.report s.arg.a "BOUNDARY DOWN" [b])
    else .next t
  else s.idle

/-! ### Vilam (R31, R38) -/

/-- VILAM_FLIT_REPLAY: a flit fails its CRC and is replayed (R31). Arguments: a the package, b the port. -/
def execVilamFlitReplay (s : State) : Out :=
  .next (s.modPkg s.arg.a fun x =>
    let i := s.arg.b % 35
    { x with ports := x.ports.set i { x.ports.get {} i with replays := (x.ports.get {} i).replays + 1 } })

/-- VILAM_PORT_DEGRADE: lanes of a port fail: up to four leave it 4 lanes, more disable it; it counts as a retrain and is reported (R31). A further failed
lane of a port already degraded counts again: the manual does not say (DESIGN CHOICE, log entry 45). Arguments: a the package, b the port, c the lanes now failed. -/
def execVilamPortDegrade (s : State) : Out :=
  let p := s.arg.a
  let i := s.arg.b % 35
  let x := (s.pkg p).ports.get {} i
  if s.arg.c ≤ x.failed ∨ 8 < s.arg.c ∨ x.disabled then s.idle
  else
    let s := s.modPkg p fun y => { y with ports := y.ports.set i { x with failed := s.arg.c, disabled := 4 < s.arg.c } }
    .next ((s.countRetrain p (4 + i)).report p "PORT" [i, s.arg.c])

/-- The first port toward a destination over the links that stand: R30's, else a neighbour of the destination as firmware chooses, else none (R38). -/
def State.newPort (s : State) (p d : Nat) : Option Nat :=
  let ok := fun (i : Nat) => i < 35 && s.linkStands p i &&
    (neighbour p i == d || (match portTo (neighbour p i) d with
      | some j => s.linkStands (neighbour p i) j
      | none => false))
  if ok (minimalPort p d) then some (minimalPort p d)
  else match Config.detourPort p d with
    | some i => if ok i then some i else (List.range 35).find? ok
    | none => (List.range 35).find? ok

/-- The packages whose entries for d lead to a package in one hop. -/
def State.feeders (s : State) (d x : Nat) : List Nat :=
  ((List.range 35).map (neighbour x)).filter fun y => y != d && routePort ((s.pkg y).route d) < 35 && neighbour y (routePort ((s.pkg y).route d)) == x

/-- The packages whose requests to d go by package p: itself, and those whose entries lead to it in up to three hops, which the four hops of a path leave (R36 to R38). -/
def State.sendersBy (s : State) (p d : Nat) : List Nat :=
  let one := s.feeders d p
  let two := one.flatMap (s.feeders d)
  p :: one ++ two ++ two.flatMap (s.feeders d)

/-- ROUTE_REWRITE: fabric firmware rewrites an entry whose port is disabled; every source die whose path it is stops sending new requests to its destination (R38; log
entry 38). Arguments: a the package, b the destination, value the entry's alternates (bits 111 to 16) as firmware gives them. -/
def execRouteRewrite (s : State) : Out :=
  let p := s.arg.a
  let d := s.arg.b
  if 1058 ≤ d ∨ d = p ∨ (s.pkg p).power ≠ .on ∨ !(s.pkg p).boot.done then s.idle
  else
    let alts : BitVec 128 := s.arg.value &&& 0x0000_FFFF_FFFF_FFFF_FFFF_FFFF_FFFF_0000
    let e : BitVec 128 := match s.newPort p d with
      | some i => alts ||| BitVec.ofNat 128 (128 + i)
      | none => alts ||| BitVec.ofNat 128 (routePort ((s.pkg p).route d))
    let s := (s.sendersBy p d).foldl (fun s x => s.modPkg x fun y => { y with heldDest := y.heldDest.insert d }) s
    .next (s.modPkg p fun x => { x with routes := x.routes.set d e })

/-- Is a request packet of a package to another, or its answer, on the way, or one kept at a home's retry list (R38)? -/
def State.requestOut (s : State) (p d : Nat) : Bool :=
  s.net.any (fun f =>
    (f.pkt.isRequest && f.pkt.src.toNat / 4 == p && f.pkt.dst.toNat / 4 == d && (match f.loc with | .source _ => false | _ => true)) ||
    (f.pkt.isResponse && f.pkt.src.toNat / 4 == d && f.pkt.dst.toNat / 4 == p)) ||
    (List.range 4).any fun i => (s.die (4 * d + i)).retryList.any fun f => f.pkt.src.toNat / 4 == p

/-- Does a mailbox write of a package's thread wait unacknowledged at a core of another, a TKREG of its dies unanswered at a ticket unit there, or an attempt of its engines
at a store (R38)? -/
def State.requestKept (s : State) (p d : Nat) : Bool :=
  let out := fun (e : EngCmd) => (e.stage == .sent || e.stage == .asked) && peerOf (handleQuad (e.p2 0)) / 4 == d
  s.cores.any (fun e => (e.1 / 4096 == d && e.2.crew.heldWrites.any fun h => !h.acked && h.opId.isNone && peerOfSlot h.sender / 4 == p) ||
    (e.1 / 4096 == p && e.2.crew.matrix.any out)) ||
    s.dies.any (fun e => e.1 / 4 == d && e.2.tickets.any fun t => t.2.waiters.any fun w => w / 4 == p) || s.quads.any (fun e => peerOf e.1 / 4 == p && e.2.replay.any out)

/-- Is a request of a package to another still unanswered (R38)? -/
def State.unanswered (s : State) (p d : Nat) : Bool := s.requestOut p d || s.requestKept p d

/-- ROUTE_RESUME: every request sent to a destination has been answered, and its source dies inject again (R38). Arguments: a the package, b the destination. -/
def execRouteResume (s : State) : Out :=
  if s.unanswered s.arg.a s.arg.b then s.idle else .next (s.modPkg s.arg.a fun x => { x with heldDest := x.heldDest.remove s.arg.b })

/-! ### The PCI Express port and BAR0 (R52 to R54) -/

/-- The sizes that BAR4 can be programmed to (R52). -/
def barSizes : List Nat := (List.range 10).map fun i => 2 ^ (30 + i)

/-- PCIE_LINK_TRAIN: the port trains to a generation and width; a later training counts as a retrain. The host programs BAR4's size with it (R52, R77). Arguments: a the
package, b the generation, c the lanes, value the size of BAR4 (another number leaves it). -/
def execPcieLinkTrain (s : State) : Out :=
  let p := s.arg.a
  if (s.pkg p).power ≠ .on ∨ s.arg.b < 1 ∨ 7 < s.arg.b ∨ !([1, 2, 4, 8, 16].contains s.arg.c) then s.idle
  else
    let s' := if (s.pkg p).pcieLanes = 0 then s else s.countRetrain p 39
    .next (s'.modPkg p fun x =>
      { x with pcieGen := s.arg.b, pcieLanes := s.arg.c, barSize := if barSizes.contains s.arg.value.toNat then s.arg.value.toNat else x.barSize })

/-- REGISTER_WRITE: PKGID and the nonce of ATTREQ store what is written; an offset that is read-only or not listed discards it (R54). With c = 1 fabric firmware writes
ADBIAS (R37). Arguments: a the package, b the BAR0 offset, value. -/
def execRegisterWrite (s : State) : Out :=
  let v : Word := s.arg.value.setWidth 64
  if (s.pkg s.arg.a).power ≠ .on then s.idle
  else if s.arg.c = 1 then .next (s.modPkg s.arg.a fun x => { x with adbias := v })
  else if s.arg.b = 0x8 then .next (s.modPkg s.arg.a fun x => { x with pkgid := bits v 0 11 })
  else if 0x3000 ≤ s.arg.b ∧ s.arg.b < 0x3020 ∧ s.arg.b % 8 = 0 then
    .next (s.modPkg s.arg.a fun x => { x with attreq := putBits x.attreq (8 * (s.arg.b - 0x3000)) v })
  else s.idle

/-- Byte i of the identity window (R76): the key, the certificate's length, which is at most 6,136, and the certificate; the rest zero. -/
def identityByte (p i : Nat) : Byte :=
  let n := Config.certLength p % 6137
  if i < 1952 then Config.identityWindow p i
  else if i < 2048 then 0
  else if i < 2052 then BitVec.ofNat 8 (n / 2 ^ (8 * (i - 2048)))
  else if i < 2056 then 0
  else if i < 2056 + n then Config.identityWindow p i
  else 0

/-- What a read of a notify page in BAR2 returns (R59). -/
def State.bar2 (_ : State) (_p _page _off : Nat) : Word := 0

/-- What a 64-bit read of BAR0 at an offset returns (R54, R57, R58, R73, R76, R77); PWRCTL reads 0 (DESIGN CHOICE, log entry 61). -/
def State.bar0 (s : State) (p off : Nat) : Word :=
  let x := s.pkg p
  let ofBytes := fun (f : Nat → Byte) => (List.range 8).foldl (fun (w : Word) i => w ||| ((f i).setWidth 64 <<< (8 * i))) 0
  if off = 0 then (0x4B04 : BitVec 16) ++ Config.stepping p ++ (0 : BitVec 32)
  else if off = 0x8 then zx x.pkgid
  else if off = 0x10 then zx x.nfydrop
  else if off = 0x1000 then 0
  else if off = 0x1008 then x.pwrsts
  else if off = 0x2000 then x.boot.bootsts
  else if off = 0x2008 then x.boot.recovctl
  else if 0x3000 ≤ off ∧ off < 0x3020 then bits x.attreq (8 * (off - 0x3000)) 64
  else if off = 0x3020 then zx (b1 x.attgo)
  else if 0x1_0000 ≤ off ∧ off < 0x1_1000 then ofBytes fun i => x.report.read (off - 0x1_0000 + i)
  else if 0x1_1000 ≤ off ∧ off < 0x1_3000 then ofBytes fun i => identityByte p (off - 0x1_1000 + i)
  else if 0x10_0000 ≤ off ∧ off < 0x12_0000 then
    let q := x.queues.get {} ((off - 0x10_0000) / 32)
    let r := off % 32
    if r = 0 then q.qbase else if r = 8 then q.qridx else if r = 16 then q.cfg else q.qsts
  else if 0x40_0000 ≤ off ∧ off < 0x50_0000 then x.life.window (off - 0x40_0000)
  else if 0x80_0000 ≤ off ∧ off < 0xC0_0000 then ofBytes fun i => x.boot.window.read (off - 0x80_0000 + i)
  else 0

end Sys2Proof.Machine
end

