-- ==== Sys2Proof/Machine/Scalar.lean ====
section
/-!
DEFINITION. Machine/Scalar.lean: the meanings of the scalar integer, constant, compare and floating-point instructions
(R257 to R274).
-/
namespace Sys2Proof.Machine

/-- A shift amount: bits [5:0] (R258). -/
def amount (b : Word) : Nat := b.toNat % 64

/-- The signed quotient with its corners (R260). -/
def divS (a b : Word) : Word × BitVec 6 := if b = 0 then (BitVec.allOnes 64, fDz) else (a.sdiv b, 0)
/-- The unsigned quotient (R260). -/
def divU (a b : Word) : Word × BitVec 6 := if b = 0 then (BitVec.allOnes 64, fDz) else (a / b, 0)
/-- The remainder with the sign of the dividend (R260). -/
def remS (a b : Word) : Word × BitVec 6 := if b = 0 then (a, fDz) else (a.srem b, 0)
/-- The unsigned remainder (R260). -/
def remU (a b : Word) : Word × BitVec 6 := if b = 0 then (a, fDz) else (a % b, 0)

/-- Zero bits above the highest set bit of the low n bits (R259). -/
def leadingZeros (x : Word) : Nat → Nat
  | 0 => 0
  | n + 1 => if x.getLsbD n then 0 else leadingZeros x n + 1
def clz64 (x : Word) : Word := BitVec.ofNat 64 (leadingZeros x 64)
/-- The number of set bits (R259). -/
def popcount {n : Nat} (x : BitVec n) : Word := BitVec.ofNat 64 ((List.range n).countP fun i => x.getLsbD i)

/-- The low w bits extended to 64 (R259). -/
def extend (signed : Bool) (w : Nat) (x : Word) : Word :=
  if signed then sx (x.setWidth w) else zx (x.setWidth w)

/-- FCVT's source value (R272). -/
def cvtSource (c : BitVec 3) (x : Word) : Val :=
  if c.getLsbD 2 then (if c.getLsbD 0 then ofInt x.toNat else ofInt x.toInt) else (fmtOf (bits c 0 2)).unpack x

/-- FTOI's result (R273): u = 0 signed, 1 unsigned. -/
def ftoi (u : BitVec 1) (r : Rnd) (v : Val) : Word × BitVec 6 :=
  let x := if u = 0 then toInt r (-(2 ^ 63)) (2 ^ 63 - 1) v else toInt r 0 (2 ^ 64 - 1) v
  (BitVec.ofInt 64 x.1, x.2)

/-- ADD: the sum modulo 2^64 (R258). -/
def execAdd (d a b : BitVec 5) (s : State) : Out :=
  s.scalar (.add d a b) d [a, b] (s.rd a + s.rd b)

/-- SUB: the difference modulo 2^64 (R258). -/
def execSub (d a b : BitVec 5) (s : State) : Out :=
  s.scalar (.sub d a b) d [a, b] (s.rd a - s.rd b)

/-- MUL: the low 64 bits of the product (R258). -/
def execMul (d a b : BitVec 5) (s : State) : Out :=
  s.scalar (.mul d a b) d [a, b] (s.rd a * s.rd b)

/-- MULH: bits [127:64] of the signed product (R258). -/
def execMulh (d a b : BitVec 5) (s : State) : Out :=
  s.scalar (.mulh d a b) d [a, b] (bits ((s.rd a).signExtend 128 * (s.rd b).signExtend 128) 64 64)

/-- MULHN: bits [127:64] of the unsigned product (R258). -/
def execMulhn (d a b : BitVec 5) (s : State) : Out :=
  s.scalar (.mulhn d a b) d [a, b] (bits ((s.rd a).setWidth 128 * (s.rd b).setWidth 128) 64 64)

/-- AND (R258). -/
def execAnd (d a b : BitVec 5) (s : State) : Out :=
  s.scalar (.and d a b) d [a, b] (s.rd a &&& s.rd b)

/-- OR (R258). -/
def execOr (d a b : BitVec 5) (s : State) : Out :=
  s.scalar (.or d a b) d [a, b] (s.rd a ||| s.rd b)

/-- XOR (R258). -/
def execXor (d a b : BitVec 5) (s : State) : Out :=
  s.scalar (.xor d a b) d [a, b] (s.rd a ^^^ s.rd b)

/-- ANDN: ra and not rb (R258). -/
def execAndn (d a b : BitVec 5) (s : State) : Out :=
  s.scalar (.andn d a b) d [a, b] (s.rd a &&& ~~~(s.rd b))

/-- SHL by rb[5:0] (R258). -/
def execShl (d a b : BitVec 5) (s : State) : Out :=
  s.scalar (.shl d a b) d [a, b] (s.rd a <<< amount (s.rd b))

/-- SHR by rb[5:0], zeros in (R258). -/
def execShr (d a b : BitVec 5) (s : State) : Out :=
  s.scalar (.shr d a b) d [a, b] (s.rd a >>> amount (s.rd b))

/-- SRA by rb[5:0], copies of the sign in (R258). -/
def execSra (d a b : BitVec 5) (s : State) : Out :=
  s.scalar (.sra d a b) d [a, b] ((s.rd a).sshiftRight (amount (s.rd b)))

/-- ROL by rb[5:0] (R258). -/
def execRol (d a b : BitVec 5) (s : State) : Out :=
  s.scalar (.rol d a b) d [a, b] ((s.rd a).rotateLeft (amount (s.rd b)))

/-- MIN, signed (R258). -/
def execMin (d a b : BitVec 5) (s : State) : Out :=
  s.scalar (.min d a b) d [a, b] (if (s.rd a).slt (s.rd b) then s.rd a else s.rd b)

/-- MAX, signed (R258). -/
def execMax (d a b : BitVec 5) (s : State) : Out :=
  s.scalar (.max d a b) d [a, b] (if (s.rd a).slt (s.rd b) then s.rd b else s.rd a)

/-- MINN, unsigned (R258). -/
def execMinn (d a b : BitVec 5) (s : State) : Out :=
  s.scalar (.minn d a b) d [a, b] (if (s.rd a).ult (s.rd b) then s.rd a else s.rd b)

/-- MAXN, unsigned (R258). -/
def execMaxn (d a b : BitVec 5) (s : State) : Out :=
  s.scalar (.maxn d a b) d [a, b] (if (s.rd a).ult (s.rd b) then s.rd b else s.rd a)

/-- DIV: the signed quotient toward zero, by a reply (R260). -/
def execDiv (d a b : BitVec 5) (s : State) : Out :=
  s.latent (.div d a b) d [a, b] (divS (s.rd a) (s.rd b))

/-- DIVN: the unsigned quotient, by a reply (R260). -/
def execDivn (d a b : BitVec 5) (s : State) : Out :=
  s.latent (.divn d a b) d [a, b] (divU (s.rd a) (s.rd b))

/-- REM: the signed remainder, by a reply (R260). -/
def execRem (d a b : BitVec 5) (s : State) : Out :=
  s.latent (.rem d a b) d [a, b] (remS (s.rd a) (s.rd b))

/-- REMN: the unsigned remainder, by a reply (R260). -/
def execRemn (d a b : BitVec 5) (s : State) : Out :=
  s.latent (.remn d a b) d [a, b] (remU (s.rd a) (s.rd b))

/-- CLZ: zero bits above the highest set bit (R259). -/
def execClz (d a : BitVec 5) (s : State) : Out :=
  s.scalar (.clz d a) d [a] (clz64 (s.rd a))

/-- POPC: the number of set bits (R259). -/
def execPopc (d a : BitVec 5) (s : State) : Out :=
  s.scalar (.popc d a) d [a] (popcount (s.rd a))

/-- SEXT from 8, 16 or 32 bits (R259). -/
def execSext (d a : BitVec 5) (w : BitVec 2) (s : State) : Out :=
  s.scalar (.sext d a w) d [a] (extend true (8 * 2 ^ w.toNat) (s.rd a))

/-- ZEXT from 8, 16 or 32 bits (R259). -/
def execZext (d a : BitVec 5) (w : BitVec 2) (s : State) : Out :=
  s.scalar (.zext d a w) d [a] (extend false (8 * 2 ^ w.toNat) (s.rd a))

/-- SEL: ra where the flag is 1, else rb (R262). -/
def execSel (d a b : BitVec 5) (f : BitVec 3) (s : State) : Out :=
  s.issue (.sel d a b f) { regs := [d, a, b], flags := [f] } fun s =>
    (s.wr d (if s.me.f f then s.rd a else s.rd b)).done (.sel d a b f)

/-- CMP (R261). -/
def execCmp (m : BitVec 2) (f : BitVec 3) (a b : BitVec 5) (c : BitVec 3) (s : State) : Out :=
  s.compare (.cmp m f a b c) m f [a, b] (cond c (s.rd a) (s.rd b))

/-- CMPI, against sext(imm12) (R263). -/
def execCmpi (m : BitVec 2) (f : BitVec 3) (a : BitVec 5) (c : BitVec 3) (i : BitVec 12) (s : State) : Out :=
  s.compare (.cmpi m f a c i) m f [a] (cond c (s.rd a) (sx i))

/-- ADDI with sext(imm15) (R264). -/
def execAddi (d a : BitVec 5) (i : BitVec 15) (s : State) : Out :=
  s.scalar (.addi d a i) d [a] (s.rd a + sx i)

/-- ANDI with sext(imm15) (R264). -/
def execAndi (d a : BitVec 5) (i : BitVec 15) (s : State) : Out :=
  s.scalar (.andi d a i) d [a] (s.rd a &&& sx i)

/-- ORI with sext(imm15) (R264). -/
def execOri (d a : BitVec 5) (i : BitVec 15) (s : State) : Out :=
  s.scalar (.ori d a i) d [a] (s.rd a ||| sx i)

/-- XORI with sext(imm15) (R264). -/
def execXori (d a : BitVec 5) (i : BitVec 15) (s : State) : Out :=
  s.scalar (.xori d a i) d [a] (s.rd a ^^^ sx i)

/-- SHLI by n (R265). -/
def execShli (d a : BitVec 5) (n : BitVec 6) (s : State) : Out :=
  s.scalar (.shli d a n) d [a] (s.rd a <<< n.toNat)

/-- SHRI by n (R265). -/
def execShri (d a : BitVec 5) (n : BitVec 6) (s : State) : Out :=
  s.scalar (.shri d a n) d [a] (s.rd a >>> n.toNat)

/-- SRAI by n (R265). -/
def execSrai (d a : BitVec 5) (n : BitVec 6) (s : State) : Out :=
  s.scalar (.srai d a n) d [a] ((s.rd a).sshiftRight n.toNat)

/-- ROLI by n (R265). -/
def execRoli (d a : BitVec 5) (n : BitVec 6) (s : State) : Out :=
  s.scalar (.roli d a n) d [a] ((s.rd a).rotateLeft n.toNat)

/-- LI: sext(imm20) (R266). -/
def execLi (d : BitVec 5) (i : BitVec 20) (s : State) : Out :=
  s.scalar (.li d i) d [] (sx i)

/-- LUI: rd[63:20] := sext(imm20), rd[19:0] kept (R266). -/
def execLui (d : BitVec 5) (i : BitVec 20) (s : State) : Out :=
  s.scalar (.lui d i) d [] (i.signExtend 44 ++ (bits (s.rd d) 0 20 : BitVec 20))

/-- LTOP: rd[63:40] := sext(imm20), rd[39:0] kept (R266). -/
def execLtop (d : BitVec 5) (i : BitVec 20) (s : State) : Out :=
  s.scalar (.ltop d i) d [] (i.signExtend 24 ++ (bits (s.rd d) 0 40 : BitVec 40))

/-- FADD, rounded once by sr.fcr (R268). -/
def execFadd (d a b : BitVec 5) (p : BitVec 2) (s : State) : Out :=
  s.scalarF (.fadd d a b p) d [a, b] ((fmtOf p).add s.rnd (s.rd a) (s.rd b))

/-- FSUB, rounded once by sr.fcr (R268). -/
def execFsub (d a b : BitVec 5) (p : BitVec 2) (s : State) : Out :=
  s.scalarF (.fsub d a b p) d [a, b] ((fmtOf p).sub s.rnd (s.rd a) (s.rd b))

/-- FMUL, rounded once by sr.fcr (R268). -/
def execFmul (d a b : BitVec 5) (p : BitVec 2) (s : State) : Out :=
  s.scalarF (.fmul d a b p) d [a, b] ((fmtOf p).mul s.rnd (s.rd a) (s.rd b))

/-- FFMA: ra × rb + rd, one rounding (R268). -/
def execFfma (d a b : BitVec 5) (p : BitVec 2) (s : State) : Out :=
  s.scalarF (.ffma d a b p) d [a, b] ((fmtOf p).fma s.rnd (s.rd a) (s.rd b) (s.rd d))

/-- FDIV, by a reply (R268). -/
def execFdiv (d a b : BitVec 5) (p : BitVec 2) (s : State) : Out :=
  s.latent (.fdiv d a b p) d [a, b] ((fmtOf p).div s.rnd (s.rd a) (s.rd b))

/-- FSQRT, by a reply (R268). -/
def execFsqrt (d a : BitVec 5) (p : BitVec 2) (s : State) : Out :=
  s.latent (.fsqrt d a p) d [a] ((fmtOf p).sqrt s.rnd (s.rd a))

/-- FMIN (R269). -/
def execFmin (d a b : BitVec 5) (p : BitVec 2) (s : State) : Out :=
  s.scalar (.fmin d a b p) d [a, b] ((fmtOf p).min (s.rd a) (s.rd b))

/-- FMAX (R269). -/
def execFmax (d a b : BitVec 5) (p : BitVec 2) (s : State) : Out :=
  s.scalar (.fmax d a b p) d [a, b] ((fmtOf p).max (s.rd a) (s.rd b))

/-- FABS (R269). -/
def execFabs (d a : BitVec 5) (p : BitVec 2) (s : State) : Out :=
  s.scalar (.fabs d a p) d [a] ((fmtOf p).exact ((fmtOf p).unpack (s.rd a)).abs)

/-- FNEG (R269). -/
def execFneg (d a : BitVec 5) (p : BitVec 2) (s : State) : Out :=
  s.scalar (.fneg d a p) d [a] ((fmtOf p).exact ((fmtOf p).unpack (s.rd a)).neg)

/-- FCLASS (R270). -/
def execFclass (d a : BitVec 5) (p : BitVec 2) (s : State) : Out :=
  s.scalar (.fclass d a p) d [a] ((fmtOf p).classOf (s.rd a))

/-- FRND: an integral value by sr.fcr (R271). -/
def execFrnd (d a : BitVec 5) (p : BitVec 2) (s : State) : Out :=
  s.scalarF (.frnd d a p) d [a] ((fmtOf p).rnd s.rnd (s.rd a))

/-- FCVT from another precision or a 64-bit integer (R272). -/
def execFcvt (d a : BitVec 5) (c : BitVec 3) (p : BitVec 2) (s : State) : Out :=
  s.scalarF (.fcvt d a c p) d [a] ((fmtOf p).round s.rnd (cvtSource c (s.rd a)))

/-- FTOI to a signed or unsigned 64-bit integer (R273). -/
def execFtoi (d a : BitVec 5) (u : BitVec 1) (p : BitVec 2) (s : State) : Out :=
  s.scalarF (.ftoi d a u p) d [a] (ftoi u s.rnd ((fmtOf p).unpack (s.rd a)))

/-- FCMP (R274). -/
def execFcmp (m : BitVec 2) (f : BitVec 3) (a b : BitVec 5) (p : BitVec 2) (c : BitVec 3) (s : State) : Out :=
  s.compare (.fcmp m f a b p c) m f [a, b] (fcond (fmtOf p) c (s.rd a) (s.rd b))

end Sys2Proof.Machine
end

