-- ==== Sys2Proof/Machine/Vector.lean ====
section
/-!
DEFINITION. Machine/Vector.lean: the vector, mask and table instructions and the vector memory accesses (R335 to R358), with the 16-bit
forms (R252).
-/
namespace Sys2Proof.Machine

/-! ### Elements (R335) -/

/-- Bits of an element of type ty: 0 .i32, 1 .n32, 2 .f32, 3 .h2, 4 .b2, 5 .i16x2, 6 .i8x4 (R248, R335). -/
def elemBits (ty : BitVec 3) : Nat := if ty.toNat ≤ 2 then 32 else if ty.toNat ≤ 5 then 16 else 8
/-- Elements in a lane. -/
def perLane (ty : BitVec 3) : Nat := 32 / elemBits ty
/-- Is a type one of floating point, and its format? -/
def isFloat (ty : BitVec 3) : Bool := ty == 2 || ty == 3 || ty == 4
def tyFmt (ty : BitVec 3) : Fmt := if ty = 2 then f32 else if ty = 3 then f16 else bf16

/-- Element j of a lane, as its bits. -/
def elem (ty : BitVec 3) (x : BitVec 32) (j : Nat) : Nat := x.toNat / 2 ^ (j * elemBits ty) % 2 ^ elemBits ty
/-- An element as the integer its type gives it. -/
def intOf (ty : BitVec 3) (x : Nat) : Int :=
  if ty = 1 ∨ x < 2 ^ (elemBits ty - 1) then x else (x : Int) - 2 ^ elemBits ty
/-- The bits of an integer in an element. -/
def bitsOf (w : Nat) (x : Int) : Nat := (x % 2 ^ w).toNat

/-- A lane computed element by element: its bits and its flags. -/
def laneOf (ty : BitVec 3) (f : Nat → Nat × BitVec 6) : BitVec 32 × BitVec 6 :=
  (List.range (perLane ty)).foldl (fun r j =>
    let x := f j
    (r.1 ||| BitVec.ofNat 32 (x.1 * 2 ^ (j * elemBits ty)), r.2 ||| x.2)) (0, 0)

/-- The least and greatest integer of an element type. -/
def tyMin (ty : BitVec 3) : Int := if ty = 1 then 0 else -(2 ^ (elemBits ty - 1))
def tyMax (ty : BitVec 3) : Int := if ty = 1 then 2 ^ 32 - 1 else 2 ^ (elemBits ty - 1) - 1

/-- An integer limited to a type, clamp set where it is limited (R338, R341). -/
def clampTo (ty : BitVec 3) (x : Int) : Nat × BitVec 6 :=
  let w := elemBits ty
  if x < tyMin ty then (bitsOf w (tyMin ty), fClamp)
  else if tyMax ty < x then (bitsOf w (tyMax ty), fClamp)
  else (bitsOf w x, 0)

/-- A result of an integer operation: 32-bit elements wrap, narrower ones saturate (R338). -/
def intResult (ty : BitVec 3) (x : Int) : Nat × BitVec 6 := if elemBits ty = 32 then (bitsOf 32 x, 0) else clampTo ty x

/-- A result of a floating-point operation. -/
def fpResult (r : Res) : Nat × BitVec 6 := (r.1.toNat, r.2)

/-- A typed operation of two elements: its integer form and its floating-point form (R338, R339). -/
def twoOp (ty : BitVec 3) (int : Int → Int → Int) (fp : Fmt → Word → Word → Res) (a b : BitVec 32) : BitVec 32 × BitVec 6 :=
  laneOf ty fun j =>
    if isFloat ty then fpResult (fp (tyFmt ty) (BitVec.ofNat 64 (elem ty a j)) (BitVec.ofNat 64 (elem ty b j)))
    else intResult ty (int (intOf ty (elem ty a j)) (intOf ty (elem ty b j)))

/-- The same of one element. -/
def oneOp (ty : BitVec 3) (int : Int → Int) (fp : Fmt → Word → Res) (a : BitVec 32) : BitVec 32 × BitVec 6 :=
  laneOf ty fun j =>
    if isFloat ty then fpResult (fp (tyFmt ty) (BitVec.ofNat 64 (elem ty a j)))
    else intResult ty (int (intOf ty (elem ty a j)))

/-- VFMA and VFMS: a × b + d and d − a × b, one rounding (R339). -/
def fmaOp (ty : BitVec 3) (sub : Bool) (a b d : BitVec 32) : BitVec 32 × BitVec 6 :=
  laneOf ty fun j =>
    let f := tyFmt ty
    let x := f.unpack (BitVec.ofNat 64 (elem ty a j))
    fpResult (f.finish .rne ((if sub then x.neg else x).fma .rne (f.unpack (BitVec.ofNat 64 (elem ty b j))) (f.unpack (BitVec.ofNat 64 (elem ty d j)))))

/-- Shifts: the amount is the low bits of the element of b (R338). -/
def shiftOp (ty : BitVec 3) (f : Nat → Nat → Nat) (a b : BitVec 32) : BitVec 32 × BitVec 6 :=
  laneOf ty fun j => (f (elem ty a j) (elem ty b j % elemBits ty) % 2 ^ elemBits ty, 0)

/-- VMULH: the upper half of the product (R338). -/
def mulhOp (ty : BitVec 3) (a b : BitVec 32) : BitVec 32 × BitVec 6 :=
  laneOf ty fun j => (bitsOf (elemBits ty) (intOf ty (elem ty a j) * intOf ty (elem ty b j) / 2 ^ elemBits ty), 0)

/-- 1 ÷ √a of a positive value, with a last bit that says whether any remainder is left (R340). -/
def rsqrt : Val → Val × BitVec 6
  | .nan => (.nan, 0)
  | .inf s => if s then (.nan, fInvalid) else (.fin false 0 0, 0)
  | .fin s m e =>
    if m = 0 then (.inf s, fDz)
    else if s then (.nan, fInvalid)
    else
      let n := if e % 2 = 0 then m else 2 * m
      let h : Int := (e - (if e % 2 = 0 then 0 else 1)) / 2
      let x := 2 ^ 96 / n
      let y := isqrt x 49 0
      (.fin false (2 * y + (if y * y * n = 2 ^ 96 then 0 else 1)) (-h - 48 - 1), 0)

/-- The value conversion of VCVT (R207, R341). -/
def cvtElem (src dst : BitVec 3) (x : Nat) : Nat × BitVec 6 :=
  if isFloat src then
    let v := (tyFmt src).unpack (BitVec.ofNat 64 x)
    if isFloat dst then fpResult ((tyFmt dst).round .rne v)
    else let r := toInt .rne (tyMin dst) (tyMax dst) v; (bitsOf (elemBits dst) r.1, r.2)
  else
    let n := intOf src x
    if isFloat dst then fpResult ((tyFmt dst).round .rne (ofInt n)) else clampTo dst n

/-! ### The VOP group (R336 to R342) -/

/-- A VOP instruction under its write mask: f gives each enabled lane's bits and flags (R335). -/
def State.vop (s : State) (i : Instr) (d : BitVec 4) (srcs : List (BitVec 4)) (k : BitVec 3) (f : Nat → BitVec 32 × BitVec 6) : Out :=
  let m := s.me.k k.toNat
  s.vector i d srcs (vecMasked m (s.me.v d.toNat) fun l => (f l).1)
    ((List.range 16).foldl (fun x l => if m.getLsbD l then x ||| (f l).2 else x) 0)

/-- Lane l of vector register v. -/
def State.vl (s : State) (v : BitVec 4) (l : Nat) : BitVec 32 := lane (s.me.v v.toNat) l

/-- A two-source typed operation. -/
def State.vop2 (s : State) (i : Instr) (d a b : BitVec 4) (k : BitVec 3) (f : BitVec 32 → BitVec 32 → BitVec 32 × BitVec 6) : Out :=
  s.vop i d [a, b] k fun l => f (s.vl a l) (s.vl b l)

/-- A one-source operation. -/
def State.vop1 (s : State) (i : Instr) (d a : BitVec 4) (k : BitVec 3) (f : BitVec 32 → BitVec 32 × BitVec 6) : Out :=
  s.vop i d [a] k fun l => f (s.vl a l)

def vaddOp (ty : BitVec 3) : BitVec 32 → BitVec 32 → BitVec 32 × BitVec 6 := twoOp ty (· + ·) fun f => f.add .rne
def vsubOp (ty : BitVec 3) : BitVec 32 → BitVec 32 → BitVec 32 × BitVec 6 := twoOp ty (· - ·) fun f => f.sub .rne
def vmulOp (ty : BitVec 3) : BitVec 32 → BitVec 32 → BitVec 32 × BitVec 6 := twoOp ty (· * ·) fun f => f.mul .rne
def vmaxOp (ty : BitVec 3) : BitVec 32 → BitVec 32 → BitVec 32 × BitVec 6 := twoOp ty (fun a b => if a < b then b else a) fun f a b => (f.max a b, 0)
def vminOp (ty : BitVec 3) : BitVec 32 → BitVec 32 → BitVec 32 × BitVec 6 := twoOp ty (fun a b => if b < a then b else a) fun f a b => (f.min a b, 0)
/-- VSEL: the selector chooses in all 16 lanes (R337). -/
def State.vselect (s : State) (i : Instr) (d a b : BitVec 4) (k : BitVec 3) : Out :=
  s.vop i d [a, b] 0 fun l => (if (s.me.k k.toNat).getLsbD l then s.vl a l else s.vl b l, 0)

/-- VMOV: copies lanes (R337). -/
def execVmov (d a : BitVec 4) (k : BitVec 3) (s : State) : Out :=
  s.vop1 (.vmov d a k) d a k fun a => (a, 0)

/-- VADD: sums (R338, R339). -/
def execVadd (d a b : BitVec 4) (k y : BitVec 3) (s : State) : Out :=
  s.vop2 (.vadd d a b k y) d a b k (vaddOp y)

/-- VSUB: differences (R338, R339). -/
def execVsub (d a b : BitVec 4) (k y : BitVec 3) (s : State) : Out :=
  s.vop2 (.vsub d a b k y) d a b k (vsubOp y)

/-- VMUL: products (R338, R339). -/
def execVmul (d a b : BitVec 4) (k y : BitVec 3) (s : State) : Out :=
  s.vop2 (.vmul d a b k y) d a b k (vmulOp y)

/-- VFMA: a × b + d (R339). -/
def execVfma (d a b : BitVec 4) (k y : BitVec 3) (s : State) : Out :=
  s.vop (.vfma d a b k y) d [a, b] k fun l => fmaOp y false (s.vl a l) (s.vl b l) (s.vl d l)

/-- VFMS: d − a × b (R339). -/
def execVfms (d a b : BitVec 4) (k y : BitVec 3) (s : State) : Out :=
  s.vop (.vfms d a b k y) d [a, b] k fun l => fmaOp y true (s.vl a l) (s.vl b l) (s.vl d l)

/-- VMAX: the greater (R338, R339). -/
def execVmax (d a b : BitVec 4) (k y : BitVec 3) (s : State) : Out :=
  s.vop2 (.vmax d a b k y) d a b k (vmaxOp y)

/-- VMIN: the lesser (R338, R339). -/
def execVmin (d a b : BitVec 4) (k y : BitVec 3) (s : State) : Out :=
  s.vop2 (.vmin d a b k y) d a b k (vminOp y)

/-- VABS: absolute values (R338, R339). -/
def execVabs (d a : BitVec 4) (k y : BitVec 3) (s : State) : Out :=
  s.vop1 (.vabs d a k y) d a k (oneOp y (fun a => if a < 0 then -a else a) fun f a => (f.exact (f.unpack a).abs, 0))

/-- VNEG: negations (R338, R339). -/
def execVneg (d a : BitVec 4) (k y : BitVec 3) (s : State) : Out :=
  s.vop1 (.vneg d a k y) d a k (oneOp y (fun a => -a) fun f a => (f.exact (f.unpack a).neg, 0))

/-- VAND: and of whole lanes (R337). -/
def execVand (d a b : BitVec 4) (k : BitVec 3) (s : State) : Out :=
  s.vop2 (.vand d a b k) d a b k fun a b => (a &&& b, 0)

/-- VOR: or of whole lanes (R337). -/
def execVor (d a b : BitVec 4) (k : BitVec 3) (s : State) : Out :=
  s.vop2 (.vor d a b k) d a b k fun a b => (a ||| b, 0)

/-- VXOR: exclusive or of whole lanes (R337). -/
def execVxor (d a b : BitVec 4) (k : BitVec 3) (s : State) : Out :=
  s.vop2 (.vxor d a b k) d a b k fun a b => (a ^^^ b, 0)

/-- VANDN: and not of whole lanes (R337). -/
def execVandn (d a b : BitVec 4) (k : BitVec 3) (s : State) : Out :=
  s.vop2 (.vandn d a b k) d a b k fun a b => (a &&& ~~~b, 0)

/-- VSHL: left shifts (R338). -/
def execVshl (d a b : BitVec 4) (k y : BitVec 3) (s : State) : Out :=
  s.vop2 (.vshl d a b k y) d a b k (shiftOp y fun a n => a * 2 ^ n)

/-- VSHR: right shifts, zeros in (R338). -/
def execVshr (d a b : BitVec 4) (k y : BitVec 3) (s : State) : Out :=
  s.vop2 (.vshr d a b k y) d a b k (shiftOp y fun a n => a / 2 ^ n)

/-- VSRA: right shifts, copies of the sign in (R338). -/
def execVsra (d a b : BitVec 4) (k y : BitVec 3) (s : State) : Out :=
  s.vop2 (.vsra d a b k y) d a b k (shiftOp y fun a n => bitsOf (elemBits y) (intOf y a / 2 ^ n))

/-- VMULH: upper halves of products (R338). -/
def execVmulh (d a b : BitVec 4) (k y : BitVec 3) (s : State) : Out :=
  s.vop2 (.vmulh d a b k y) d a b k (mulhOp y)

/-- VCLZ: zero bits above the highest set bit (R338). -/
def execVclz (d a : BitVec 4) (k y : BitVec 3) (s : State) : Out :=
  s.vop1 (.vclz d a k y) d a k fun a => (BitVec.ofNat 32 (leadingZeros (zx a) 32), 0)

/-- VPOPC: set bits (R338). -/
def execVpopc (d a : BitVec 4) (k y : BitVec 3) (s : State) : Out :=
  s.vop1 (.vpopc d a k y) d a k fun a => ((popcount a).setWidth 32, 0)

/-- VCVT: source elements converted in order, elements past the source's number zero (R341). -/
def execVcvt (d : BitVec 4) (c : BitVec 3) (b : BitVec 4) (k y : BitVec 3) (s : State) : Out :=
  s.vop (.vcvt d c b k y) d [b] k fun l => laneOf y fun j =>
    let n := l * perLane y + j
    if n < 16 * perLane c then cvtElem c y (elem c (s.vl b (n / perLane c)) (n % perLane c)) else (0, 0)

/-- VRCP: 1 ÷ a (R340). -/
def execVrcp (d a : BitVec 4) (k : BitVec 3) (s : State) : Out :=
  s.vop1 (.vrcp d a k) d a k fun a => let r := f32.div .rne 0x3F80_0000 (zx a); (r.1.setWidth 32, r.2)

/-- VRSQ: 1 ÷ √a (R340). -/
def execVrsq (d a : BitVec 4) (k : BitVec 3) (s : State) : Out :=
  s.vop1 (.vrsq d a k) d a k fun a => let r := f32.finish .rne (rsqrt (f32.unpack (zx a))); (r.1.setWidth 32, r.2)

/-- VPERM: a permutation of lanes (R337). -/
def execVperm (d a b : BitVec 4) (k : BitVec 3) (s : State) : Out :=
  s.vop (.vperm d a b k) d [a, b] k fun l => (s.vl a ((s.vl b l).toNat % 16), 0)

/-- VSEL: lanes chosen by a mask (R337). -/
def execVsel (d a b : BitVec 4) (k : BitVec 3) (s : State) : Out :=
  s.vselect (.vsel d a b k) d a b k

/-- The comparison of VCMP in one lane (R342). -/
def vcond (ty o : BitVec 3) (a b : BitVec 32) : Bool :=
  if ty = 2 then
    let x := f32.unpack (zx a)
    let y := f32.unpack (zx b)
    let un := x.isNan || y.isNan
    if o = 0 then x.eq y
    else if o = 1 then !x.eq y
    else if o = 2 then x.lt y
    else if o = 3 then x.lt y || x.eq y
    else if o = 4 then y.lt x
    else if o = 5 then y.lt x || x.eq y
    else if o = 6 then un
    else !un
  else
    let x := intOf ty a.toNat
    let y := intOf ty b.toNat
    if o = 0 then decide (x = y)
    else if o = 1 then decide (x ≠ y)
    else if o = 2 then decide (x < y)
    else if o = 3 then decide (x ≤ y)
    else if o = 4 then decide (y < x)
    else decide (y ≤ x)

/-- VCMP: the mask bits of the enabled lanes, combined by and where g is 1 (R342). -/
def execVcmp (g : BitVec 1) (m : BitVec 3) (a b : BitVec 4) (k y o : BitVec 3) (s : State) : Out :=
  s.issue (.vcmp g m a b k y o) { vecs := [a.toNat, b.toNat] } fun s =>
    let on := s.me.k k.toNat
    let old := s.me.k m.toNat
    let new := (List.range 16).foldl (fun (x : BitVec 16) l =>
      if on.getLsbD l then putBits x l (b1 (vcond y o (s.vl a l) (s.vl b l) && (g = 0 || old.getLsbD l))) else x) old
    (s.modMe (·.setK m.toNat new)).done (.vcmp g m a b k y o)

/-! ### The 16-bit forms (R252) -/

/-- VMOV, short: VMOV (R252). -/
def execVmovShort (k : BitVec 3) (a d : BitVec 4) (s : State) : Out :=
  s.vop1 (.vmovShort k a d) d a k fun a => (a, 0)

/-- VADD.f32, short: VADD.f32 with va = vd (R252). -/
def execVaddF32Short (k : BitVec 3) (a d : BitVec 4) (s : State) : Out :=
  s.vop2 (.vaddF32Short k a d) d d a k (vaddOp 2)

/-- VSUB.f32, short: VSUB.f32 with va = vd (R252). -/
def execVsubF32Short (k : BitVec 3) (a d : BitVec 4) (s : State) : Out :=
  s.vop2 (.vsubF32Short k a d) d d a k (vsubOp 2)

/-- VMUL.f32, short: VMUL.f32 with va = vd (R252). -/
def execVmulF32Short (k : BitVec 3) (a d : BitVec 4) (s : State) : Out :=
  s.vop2 (.vmulF32Short k a d) d d a k (vmulOp 2)

/-- VMAX.f32, short: VMAX.f32 with va = vd (R252). -/
def execVmaxF32Short (k : BitVec 3) (a d : BitVec 4) (s : State) : Out :=
  s.vop2 (.vmaxF32Short k a d) d d a k (vmaxOp 2)

/-- VMIN.f32, short: VMIN.f32 with va = vd (R252). -/
def execVminF32Short (k : BitVec 3) (a d : BitVec 4) (s : State) : Out :=
  s.vop2 (.vminF32Short k a d) d d a k (vminOp 2)

/-- VADD.i32, short: VADD.i32 with va = vd (R252). -/
def execVaddI32Short (k : BitVec 3) (a d : BitVec 4) (s : State) : Out :=
  s.vop2 (.vaddI32Short k a d) d d a k (vaddOp 0)

/-- VSUB.i32, short: VSUB.i32 with va = vd (R252). -/
def execVsubI32Short (k : BitVec 3) (a d : BitVec 4) (s : State) : Out :=
  s.vop2 (.vsubI32Short k a d) d d a k (vsubOp 0)

/-- VAND, short: VAND with va = vd (R252). -/
def execVandShort (k : BitVec 3) (a d : BitVec 4) (s : State) : Out :=
  s.vop2 (.vandShort k a d) d d a k fun a b => (a &&& b, 0)

/-- VOR, short: VOR with va = vd (R252). -/
def execVorShort (k : BitVec 3) (a d : BitVec 4) (s : State) : Out :=
  s.vop2 (.vorShort k a d) d d a k fun a b => (a ||| b, 0)

/-- VXOR, short: VXOR with va = vd (R252). -/
def execVxorShort (k : BitVec 3) (a d : BitVec 4) (s : State) : Out :=
  s.vop2 (.vxorShort k a d) d d a k fun a b => (a ^^^ b, 0)

/-- VADD.b2, short: VADD.b2 with va = vd (R252). -/
def execVaddB2Short (k : BitVec 3) (a d : BitVec 4) (s : State) : Out :=
  s.vop2 (.vaddB2Short k a d) d d a k (vaddOp 4)

/-- VMUL.b2, short: VMUL.b2 with va = vd (R252). -/
def execVmulB2Short (k : BitVec 3) (a d : BitVec 4) (s : State) : Out :=
  s.vop2 (.vmulB2Short k a d) d d a k (vmulOp 4)

/-- VSHL.i32, short: VSHL.i32 with va = vd (R252). -/
def execVshlI32Short (k : BitVec 3) (a d : BitVec 4) (s : State) : Out :=
  s.vop2 (.vshlI32Short k a d) d d a k (shiftOp 0 fun a n => a * 2 ^ n)

/-- VSHR.n32, short: VSHR.n32 with va = vd (R252). -/
def execVshrN32Short (k : BitVec 3) (a d : BitVec 4) (s : State) : Out :=
  s.vop2 (.vshrN32Short k a d) d d a k (shiftOp 1 fun a n => a / 2 ^ n)

/-- VSEL, short: VSEL with va = vs and vb = vd (R252). -/
def execVselShort (k : BitVec 3) (a d : BitVec 4) (s : State) : Out :=
  s.vselect (.vselShort k a d) d a d k

/-! ### Moves and reductions (R343 to R346) -/

/-- VBCAST (R344). -/
def execVbcast (d : BitVec 4) (a : BitVec 5) (k : BitVec 3) (s : State) : Out :=
  s.issue (.vbcast d a k) { regs := [a], vecs := [d.toNat] } fun s =>
    (s.modMe fun t => t.setV d.toNat (vecMasked (t.k k.toNat) (t.v d.toNat) fun _ => (s.rd a).setWidth 32)).done (.vbcast d a k)

/-- VEXT (R344). -/
def execVext (d : BitVec 5) (a : BitVec 4) (b : BitVec 5) (s : State) : Out :=
  s.issue (.vext d a b) { regs := [d, b], vecs := [a.toNat] } fun s =>
    (s.wr d (zx (s.vl a ((s.rd b).toNat % 16)))).done (.vext d a b)

/-- VINS (R344). -/
def execVins (d : BitVec 4) (a b : BitVec 5) (s : State) : Out :=
  s.issue (.vins d a b) { regs := [a, b], vecs := [d.toNat] } fun s =>
    (s.modMe fun t => t.setV d.toNat (setLane (t.v d.toNat) ((s.rd b).toNat % 16) ((s.rd a).setWidth 32))).done (.vins d a b)

/-- VIOTA (R344): each enabled lane counts the mask bits below it. -/
def execViota (d : BitVec 4) (a : BitVec 5) (k : BitVec 3) (s : State) : Out :=
  s.issue (.viota d a k) { regs := [a], vecs := [d.toNat] } fun s =>
    (s.modMe fun t => t.setV d.toNat (vecMasked (t.k k.toNat) (t.v d.toNat) fun l =>
      (s.rd a).setWidth 32 + BitVec.ofNat 32 ((List.range l).countP fun j => (t.k k.toNat).getLsbD j))).done (.viota d a k)

/-- The enabled lanes of a vector, in order. -/
def enabledLanes (m : BitVec 16) (x : Vec) : List (BitVec 32) := ((List.range 16).filter fun l => m.getLsbD l).map (lane x)

/-- A lane as a 64-bit value of its type (R345). -/
def wide (ty : BitVec 2) (x : BitVec 32) : Word := if ty = 0 then sx x else zx x

/-- A reduction to a scalar (R345). -/
def State.reduce (s : State) (i : Instr) (d : BitVec 5) (a : BitVec 4) (k : BitVec 3) (f : List (BitVec 32) → Word × BitVec 6) : Out :=
  s.issue i { regs := [d], vecs := [a.toNat] } fun s =>
    let r := f (enabledLanes (s.me.k k.toNat) (s.me.v a.toNat))
    ((s.wr d r.1).done i).orFlags s.cur r.2

/-- The greatest or least of a list by R269; the infinity given where it is empty. -/
def fpFold (f : Word → Word → Word) (none : Word) : List (BitVec 32) → Word
  | [] => none
  | x :: xs => xs.foldl (fun m y => f m (zx y)) (f (zx x) (zx x))

/-- VREDADD (R345). -/
def execVredadd (d : BitVec 5) (a : BitVec 4) (y : BitVec 2) (k : BitVec 3) (s : State) : Out :=
  s.reduce (.vredadd d a y k) d a k fun xs => (xs.foldl (fun m x => m + wide y x) 0, 0)

/-- VREDMAX (R345). -/
def execVredmax (d : BitVec 5) (a : BitVec 4) (y : BitVec 2) (k : BitVec 3) (s : State) : Out :=
  s.reduce (.vredmax d a y k) d a k fun xs =>
    (if y = 2 then fpFold f32.max 0xFF80_0000 xs
     else if y = 0 then xs.foldl (fun m x => if m.slt (sx x) then sx x else m) 0xFFFF_FFFF_8000_0000
     else xs.foldl (fun m x => if m.ult (zx x) then zx x else m) 0, 0)

/-- VREDMIN (R345). -/
def execVredmin (d : BitVec 5) (a : BitVec 4) (y : BitVec 2) (k : BitVec 3) (s : State) : Out :=
  s.reduce (.vredmin d a y k) d a k fun xs =>
    (if y = 2 then fpFold f32.min 0x7F80_0000 xs
     else if y = 0 then xs.foldl (fun m x => if (sx x).slt m then sx x else m) 0x7FFF_FFFF
     else xs.foldl (fun m x => if (zx x).ult m then zx x else m) 0xFFFF_FFFF, 0)

/-- One level of the pairwise tree (R346): the rounded sums of neighbours, and their flags. -/
def pairSums : List Word → List Word × BitVec 6
  | a :: b :: r =>
    let x := f32.add .rne a b
    let y := pairSums r
    (x.1 :: y.1, x.2 ||| y.2)
  | l => (l, 0)

/-- The fixed pairwise tree over 16 lanes (R346). -/
def treeSum (l : List Word) : Word × BitVec 6 :=
  let a := pairSums l
  let b := pairSums a.1
  let c := pairSums b.1
  let d := pairSums c.1
  (d.1.headD 0, a.2 ||| b.2 ||| c.2 ||| d.2)

/-- VREDFADD: FP32 lanes summed in a fixed tree, −0 for a lane that is off (R346). -/
def execVredfadd (d : BitVec 5) (a : BitVec 4) (k : BitVec 3) (s : State) : Out :=
  s.issue (.vredfadd d a k) { regs := [d], vecs := [a.toNat] } fun s =>
    let r := treeSum ((List.range 16).map fun l => if (s.me.k k.toNat).getLsbD l then zx (s.vl a l) else 0x8000_0000)
    ((s.wr d r.1).done (.vredfadd d a k)).orFlags s.cur r.2

/-! ### Masks (R352) -/

/-- An instruction that writes a mask. -/
def State.maskOp (s : State) (i : Instr) (d : BitVec 3) (regs : List (BitVec 5)) (v : BitVec 16) : Out :=
  s.issue i { regs := regs } fun s => (s.modMe (·.setK d.toNat v)).done i

/-- KAND (R352). -/
def execKand (d a b : BitVec 3) (s : State) : Out := s.maskOp (.kand d a b) d [] (s.me.k a.toNat &&& s.me.k b.toNat)

/-- KOR (R352). -/
def execKor (d a b : BitVec 3) (s : State) : Out := s.maskOp (.kor d a b) d [] (s.me.k a.toNat ||| s.me.k b.toNat)

/-- KXOR (R352). -/
def execKxor (d a b : BitVec 3) (s : State) : Out := s.maskOp (.kxor d a b) d [] (s.me.k a.toNat ^^^ s.me.k b.toNat)

/-- KNOT (R352). -/
def execKnot (d a : BitVec 3) (s : State) : Out := s.maskOp (.knot d a) d [] (~~~(s.me.k a.toNat))

/-- KSET (R352). -/
def execKset (d : BitVec 3) (a : BitVec 5) (s : State) : Out := s.maskOp (.kset d a) d [a] ((s.rd a).setWidth 16)

/-- KLEN: the lowest min(wa, 16) bits set (R352). -/
def execKlen (d : BitVec 3) (a : BitVec 5) (s : State) : Out :=
  s.maskOp (.klen d a) d [a] (BitVec.ofNat 16 (2 ^ min (s.rd a).toNat 16 - 1))

/-- KGET (R352). -/
def execKget (d : BitVec 5) (a : BitVec 3) (s : State) : Out := s.scalar (.kget d a) d [] (zx (s.me.k a.toNat))

/-- KPOP (R352). -/
def execKpop (d : BitVec 5) (a : BitVec 3) (s : State) : Out := s.scalar (.kpop d a) d [] (popcount (s.me.k a.toNat))

/-- KFIRST: the lowest set bit's index, 16 if none (R352). -/
def execKfirst (d : BitVec 5) (a : BitVec 3) (s : State) : Out :=
  s.scalar (.kfirst d a) d [] (BitVec.ofNat 64 ((firstFrom 16 0 fun i => (s.me.k a.toNat).getLsbD i).getD 16))

/-- KANY (R352). -/
def execKany (f a : BitVec 3) (s : State) : Out :=
  s.issue (.kany f a) { flags := [f] } fun s => (s.modMe fun t => t.setF f (t.k a.toNat != 0)).done (.kany f a)

/-! ### The table-interpolation engine (R353 to R358) -/

/-- The region that a table's 768 bytes lie in is bound (R355). -/
def State.tableBound (s : State) (base : BitVec 18) : Bool := (s.region s.myCore (base.toNat / 0x8000)).bound

/-- May a table's configuration be used (R355, R357, R358)? -/
def State.tableOk (s : State) (t : BitVec 2) : Bool :=
  let x := s.crew.tables.get {} t.toNat
  x.valid && !s.tableBound x.base

/-- VTLCFG (R356): an origin, a scale and a base. -/
def execVtlcfg (t : BitVec 2) (a b : BitVec 5) (s : State) : Out :=
  s.issue (.vtlcfg t a b) { regs := [a, b] } fun s =>
    let x := s.rd a
    let y := s.rd b
    let far : Bool := (bits y 18 46 : BitVec 46) ≠ 0 || 32000 < y.toNat % 32768
    if (bits y 18 46 : BitVec 46) = 0 ∧ s.tableBound (y.setWidth 18) then s.illegal (.vtlcfg t a b)
    else if far then s.trapHere 0x09 y
    else if y.toNat % 64 ≠ 0 then s.trapHere 0x05 y
    else (s.modCrew s.myCore fun c =>
      { c with tables := c.tables.set t.toNat { x0 := x.setWidth 32, scale := bits x 32 32, valid := true, base := y.setWidth 18 } }).done (.vtlcfg t a b)

/-- The local address of byte o of a table (R353). -/
def tableAddr (base : BitVec 18) (o : Nat) : Word := 0x8000_0000_0000_0000 + BitVec.ofNat 64 (base.toNat + o)

/-- VTBLW (R357): up to five segments written in the stash. -/
def execVtblw (t : BitVec 2) (a : BitVec 5) (b : BitVec 4) (s : State) : Out :=
  s.issue (.vtblw t a b) { regs := [a], vecs := [b.toNat] } fun s =>
    let x := s.crew.tables.get {} t.toNat
    let n := (s.rd a).toNat % 64
    let m := min 5 (64 - n)
    if !s.tableOk t then s.illegal (.vtblw t a b)
    else if s.clashes s.cur s.me.ops (tableAddr x.base (12 * n)) (12 * m) then s.waitHere
    else ((List.range (3 * m)).foldl (fun s l => s.stashWrite s.myCore (x.base.toNat + 12 * n + 4 * l) 4 (s.vl b l)) s).done (.vtblw t a b)

/-- The segment of a table that VTLERP reads for one lane and the place in it, none for a NaN (R358), with the flags of the two roundings. -/
def tablePoint (x : Table) (v : BitVec 32) : Option (Nat × Word) × BitVec 6 :=
  let d := f32.add .rne (zx v) (f32.exact (f32.unpack (zx x.x0)).neg)
  let u := f32.mul .rne d.1 (zx x.scale)
  let uv := f32.unpack u.1
  (if (f32.unpack (zx v)).isNan || uv.isNan then none
   else if !(Val.lt (.fin false 0 0) uv) then some (0, 0)
   else if !uv.lt (.fin false 64 0) then some (63, 0x3F80_0000)
   else
     let j := (toInt .rdn 0 63 uv).1.toNat
     some (j, (f32.sub .rne u.1 (f32.exact (ofInt j))).1), d.2 ||| u.2)

/-- VTLERP of one lane (R358): the value and the flags of its four roundings. -/
def State.interpolate (s : State) (x : Table) (v : BitVec 32) : BitVec 32 × BitVec 6 :=
  let fl := (tablePoint x v).2
  match (tablePoint x v).1 with
  | none => (0x7FC0_0000, fl)
  | some jt =>
    let c := fun (i : Nat) => (s.stashRead s.myCore (x.base.toNat + 12 * jt.1 + 4 * i) 4).setWidth 64
    let r := f32.fma .rne (c 2) jt.2 (c 1)
    let q := f32.fma .rne r.1 jt.2 (c 0)
    (q.1.setWidth 32, fl ||| r.2 ||| q.2)

/-- Does an operation of the thread that has not performed name a byte that VTLERP reads for this lane (R186, R355)? -/
def State.segmentBusy (s : State) (x : Table) (v : BitVec 32) : Bool :=
  match (tablePoint x v).1 with
  | none => false
  | some jt => s.clashes s.cur s.me.ops (tableAddr x.base (12 * jt.1)) 12

/-- VTLERP (R358). -/
def execVtlerp (d a : BitVec 4) (t : BitVec 2) (k : BitVec 3) (s : State) : Out :=
  s.issue (.vtlerp d a t k) { vecs := [d.toNat, a.toNat] } fun s =>
    let x := s.crew.tables.get {} t.toNat
    let m := s.me.k k.toNat
    if !s.tableOk t then s.illegal (.vtlerp d a t k)
    else if (List.range 16).any fun l => m.getLsbD l && s.segmentBusy x (s.vl a l) then s.waitHere
    else
      let f := fun l => s.interpolate x (s.vl a l)
      ((s.modMe fun u => u.setV d.toNat (vecMasked m (u.v d.toNat) fun l => (f l).1)).done (.vtlerp d a t k)).orFlags s.cur
        ((List.range 16).foldl (fun y l => if m.getLsbD l then y ||| (f l).2 else y) 0)

/-! ### Vector memory access (R347 to R351) -/

/-- What the check of an access's byte ranges comes to (R348): the ranges with their translations, a trap, or walks to wait for. -/
inductive VecCheck where
  | ok (ps : List Part)
  | trap (addr : Word) (detail : Word)
  | walk

/-- One byte range checked (R147, R148, R152, R159). -/
def State.vecPart (s : State) (p : Part) (writes : Bool) : VecCheck :=
  let c := s.myCore
  let stash := fun (c' off : Nat) => match s.boundHere c' off with
    | some r => if writes && r.ro then VecCheck.trap p.va FaultKind.permission.code else .ok [p]
    | none => .ok [p]
  if p.va.getLsbD 63 then
    match localPlace c p.va with
    | .stash c' off => stash c' off
    | .page _ _ => if writes then .trap p.va 0 else .ok [p]
    | .nowhere => .trap p.va 0
  else if (bits p.va 57 6 : BitVec 6) ≠ 0 then .trap p.va FaultKind.malformed.code
  else match s.boundAt c p.va with
    | some (_, off) => stash c off
    | none => match s.translate c s.me.job p.va writes false with
      | some (.ok l) => .ok [{ p with pa := some (l.pa p.va), nc := l.nc }]
      | some (.error e) => .trap p.va e.code
      | none => .walk

/-- Every byte range checked, in lane order; a range that needs a walk is found before a later one's fault. -/
def State.vecCheck (s : State) (writes : Bool) : List Part → VecCheck
  | [] => .ok []
  | p :: ps => match s.vecPart p writes with
    | .ok q => (match s.vecCheck writes ps with
      | .ok qs => .ok (q ++ qs)
      | x => x)
    | x => x

/-- The walks that an access waits for (R153), asked for by an instruction that has not issued. -/
def State.vecWalks (s : State) (writes : Bool) (ps : List Part) : State :=
  (ps.foldl (fun s p => match s.vecPart p writes with
    | .walk => s.startWalk { quad := s.myQuad, slot := s.cur, opId := s.me.issued.toNat, part := precisePart, job := s.me.job, va := p.va, write := writes, fetch := false }
    | _ => s) s).waitHere

/-- A vector access after its byte ranges are known (R348): faults first, then misalignment, then its issue. -/
def State.vecAccess (s : State) (i : Instr) (writes : Bool) (ps : List Part) (aligned : Bool) (x : List Part → Issue) : State :=
  match s.vecCheck writes ps with
  | .walk => s.vecWalks writes ps
  | .trap va d => s.trapHere 0x09 va d
  | .ok qs => if !aligned then s.trapHere 0x05 (((ps.find? fun p => p.va.toNat % p.size != 0).map (·.va)).getD 0) else s.issueOp i (x qs)

/-- With no lane enabled an access does nothing and performs at its issue (R348). -/
def State.vecNone (s : State) (i : Instr) (kind : OpKind) (st : BitVec 2) (p : BitVec 4) : State :=
  s.issueNow i { kind := kind, st := st, pm := p } fun s _ => s

/-- Does a byte's 64-bit word carry poison, as its stash, its quad's copy or its home has it (R446)? -/
def State.poisonSeen (s : State) (p : Part) : Bool :=
  match s.stashOf s.myCore p.va with
  | some (c, off) => s.stashPoisoned c off 1
  | none => match p.pa with
    | none => false
    | some pa => match s.line s.myQuad (pa / 256) with
      | some y => y.poisoned (pa % 256) 1
      | none => s.poisonAt pa

/-- The lanes of a vector store as its byte ranges. Of lanes that name the same bytes, by whichever address, the highest stands (R351). Two lanes that cover a
poisoned 64-bit word go as one write of the whole word, which clears the poison (R446; log entry 26). -/
def State.storeParts (s : State) : List Part → List Part
  | [] => []
  | p :: ps =>
    let rest := s.storeParts ps
    let a := s.canon s.cur p.va
    if rest.any (fun q => overlap (s.canon s.cur q.va) q.size a p.size) then rest
    else match rest.find? fun q => q.size == 4 && s.canon s.cur q.va / 8 == a / 8 && s.poisonSeen p with
      | none => p :: rest
      | some q =>
        let lo := if p.va.toNat % 8 = 0 then p else q
        let hi := if p.va.toNat % 8 = 0 then q else p
        { lo with size := 8, value := lo.value ||| hi.value <<< 32 } :: rest.filter fun x => x.lane != q.lane

/-- A raw vector load or store at 16 lane addresses (R349, R351). -/
def State.vecInsn (s : State) (i : Instr) (store : Bool) (d : BitVec 4) (regs : List (BitVec 5)) (vecs : List Nat) (st : BitVec 2) (p : BitVec 4)
    (k : BitVec 3) (addr : State → Nat → Word) : Out :=
  s.issue i { regs := regs, vecs := d.toNat :: vecs } fun s =>
    let m := s.me.k k.toNat
    let kind : OpKind := if store then .vst else .vld false
    let ps : List Part := ((List.range 16).filter fun l => m.getLsbD l).map fun l =>
      { lane := l, va := addr s l, size := 4, value := if store then zx (s.vl d l) else 0 }
    if m = 0 then s.vecNone i kind st p
    else s.vecAccess i store ps (ps.all fun p => p.va.toNat % 4 == 0) fun qs =>
      { kind := kind, st := st, pm := p, a := addr s 0, lanes := m, dest := if store then .none else .vec d.toNat, parts := if store then s.storeParts qs else qs }

/-- The base address of VLD, VST and VLDD (R347). -/
def State.vecBase (s : State) (a : BitVec 5) (o : BitVec 7) : Word := s.rd a + sx o * 64

/-- VLD (R349). -/
def execVld (d : BitVec 4) (a : BitVec 5) (st : BitVec 2) (p : BitVec 4) (k : BitVec 3) (o : BitVec 7) (s : State) : Out :=
  s.vecInsn (.vld d a st p k o) false d [a] [] st p k fun s l => s.vecBase a o + BitVec.ofNat 64 (4 * l)

/-- VST (R349). -/
def execVst (d : BitVec 4) (a : BitVec 5) (st : BitVec 2) (p : BitVec 4) (k : BitVec 3) (o : BitVec 7) (s : State) : Out :=
  s.vecInsn (.vst d a st p k o) true d [a] [] st p k fun s l => s.vecBase a o + BitVec.ofNat 64 (4 * l)

/-- A lane address of VLDX and VSTX (R347). -/
def State.laneAddr (s : State) (v : BitVec 4) (a : BitVec 5) (c : BitVec 3) (l : Nat) : Word := s.rd a + (sx (s.vl v l) <<< c.toNat)

/-- VLDX (R351). -/
def execVldx (d v : BitVec 4) (a : BitVec 5) (st : BitVec 2) (p : BitVec 4) (k c : BitVec 3) (s : State) : Out :=
  s.vecInsn (.vldx d v a st p k c) false d [a] [v.toNat] st p k fun s l => s.laneAddr v a c l

/-- VSTX (R351). -/
def execVstx (d v : BitVec 4) (a : BitVec 5) (st : BitVec 2) (p : BitVec 4) (k c : BitVec 3) (s : State) : Out :=
  s.vecInsn (.vstx d v a st p k c) true d [a] [v.toNat] st p k fun s l => s.laneAddr v a c l

/-- Has a format a reserved code (R204)? -/
def hasReserved (d : Word) : Bool := (dPol d == 0 || dPol d == 2) && dSg d == 1

/-- Is a VLDD's release point its issue (R208): has every operation that its mask names performed? -/
def State.releasedNow (s : State) (p : BitVec 4) : Bool := (List.range 4).all fun i => !p.getLsbD i || s.me.window i == 0

/-- Does an operation of the thread that has not performed change the format of a VLDD's base: the index of its region, or the descriptor of the index (R208, R350)? -/
def State.formatMoves (s : State) (va : Word) (idx : BitVec 6) : Bool :=
  s.me.ops.any fun o => match o.kind with
    | .sfmt n | .smap n | .sunmap n => (s.stashOf s.myCore va).any fun x => x.1 == s.myCore && x.2 / 0x8000 == n
    | .fmtw => (bits o.b 0 6 : BitVec 6) == idx
    | _ => false

/-- The bytes that a VLDD may read before its format is known: no element is wider than 4 bytes (R205, R350). -/
def vlddSpan (va : Word) (m : BitVec 16) : Part :=
  { va := va, size := 4 * (((List.range 16).filter fun i => m.getLsbD i).getLastD 0 + 1) }

/-- VLDD (R350): 16 elements decoded to FP32 by the format of its base address. Translation and alignment are checked at issue for the lanes that the format gives then,
before the format itself (R136, R348), but for one that is released later and whose format the thread's own operations change before: of that only the base is. Until its
release it keeps the thread's later operations from every byte that it may read (R186). Released at its issue, it holds its thread where an element may be a reserved code, so that the trap is precise (R204; log
entry 28). -/
def execVldd (d : BitVec 4) (a : BitVec 5) (st : BitVec 2) (p : BitVec 4) (k : BitVec 3) (o : BitVec 7) (s : State) : Out :=
  let i : Instr := .vldd d a st p k o
  s.issue i { regs := [a], vecs := [d.toNat] } fun s =>
    let m := s.me.k k.toNat
    let va := s.vecBase a o
    let base : Part := { va := va, size := 1 }
    if m = 0 then s.vecNone i (.vld true) st p
    else match s.vecPart base false with
      | .walk => s.vecWalks false [base]
      | .trap va d => s.trapHere 0x09 va d
      | .ok _ => match s.vlddIndex s.cur va with
        | some (.ok idx) =>
          let later : Issue := { kind := .vld true, st := st, pm := p, a := va, lanes := m, dest := .vec d.toNat, parts := [vlddSpan va m] }
          let r := s.snap s.cur idx
          if !s.releasedNow p && s.formatMoves va idx then s.issueOp i later else
          let ps := if r.1.bad = some 2 then [base] else vlddParts va idx.toNat (elemWidth idx.toNat r.1.desc) m
          (match s.vecCheck false ps with
           | .walk => s.vecWalks false ps
           | .trap va d => s.trapHere 0x09 va d
           | .ok qs =>
             if va.toNat % vlddAlign idx.toNat ≠ 0 then s.trapHere 0x05 va
             else if !s.releasedNow p then s.issueOp i later
             else match r.1.bad with
               | some kind => s.trapHere 0x07 0 (fmtDetail idx kind)
               | none =>
                 r.2.issueOp i { kind := .vld true, st := st, pm := p, a := va, b := zx idx, lanes := m, dest := .vec d.toNat, parts := qs, snap := some r.1.desc,
                                 held := 4 ≤ idx.toNat && hasReserved r.1.desc, byReply := true })
        | _ => s.waitHere

end Sys2Proof.Machine
end

