-- ==== Sys2Proof/Machine/Dispatch.lean ====
section
/-!
DEFINITION. Machine/Dispatch.lean: what every row of the opcode table does: one arm per constructor, each a call of its meaning.
-/
namespace Sys2Proof.Machine

/-- The meaning of an instruction or event. -/
def exec (i : Instr) (s : State) : Host.Outcome State Fault Refusal :=
  match i with
  | .add d a b => Sys2Proof.Machine.execAdd d a b s
  | .sub d a b => Sys2Proof.Machine.execSub d a b s
  | .mul d a b => Sys2Proof.Machine.execMul d a b s
  | .mulh d a b => Sys2Proof.Machine.execMulh d a b s
  | .mulhn d a b => Sys2Proof.Machine.execMulhn d a b s
  | .div d a b => Sys2Proof.Machine.execDiv d a b s
  | .divn d a b => Sys2Proof.Machine.execDivn d a b s
  | .rem d a b => Sys2Proof.Machine.execRem d a b s
  | .remn d a b => Sys2Proof.Machine.execRemn d a b s
  | .and d a b => Sys2Proof.Machine.execAnd d a b s
  | .or d a b => Sys2Proof.Machine.execOr d a b s
  | .xor d a b => Sys2Proof.Machine.execXor d a b s
  | .andn d a b => Sys2Proof.Machine.execAndn d a b s
  | .shl d a b => Sys2Proof.Machine.execShl d a b s
  | .shr d a b => Sys2Proof.Machine.execShr d a b s
  | .sra d a b => Sys2Proof.Machine.execSra d a b s
  | .rol d a b => Sys2Proof.Machine.execRol d a b s
  | .min d a b => Sys2Proof.Machine.execMin d a b s
  | .max d a b => Sys2Proof.Machine.execMax d a b s
  | .minn d a b => Sys2Proof.Machine.execMinn d a b s
  | .maxn d a b => Sys2Proof.Machine.execMaxn d a b s
  | .clz d a => Sys2Proof.Machine.execClz d a s
  | .popc d a => Sys2Proof.Machine.execPopc d a s
  | .sext d a w => Sys2Proof.Machine.execSext d a w s
  | .zext d a w => Sys2Proof.Machine.execZext d a w s
  | .sel d a b f => Sys2Proof.Machine.execSel d a b f s
  | .cmp m f a b c => Sys2Proof.Machine.execCmp m f a b c s
  | .addi d a im => Sys2Proof.Machine.execAddi d a im s
  | .andi d a im => Sys2Proof.Machine.execAndi d a im s
  | .ori d a im => Sys2Proof.Machine.execOri d a im s
  | .xori d a im => Sys2Proof.Machine.execXori d a im s
  | .shli d a n => Sys2Proof.Machine.execShli d a n s
  | .shri d a n => Sys2Proof.Machine.execShri d a n s
  | .srai d a n => Sys2Proof.Machine.execSrai d a n s
  | .roli d a n => Sys2Proof.Machine.execRoli d a n s
  | .cmpi m f a c im => Sys2Proof.Machine.execCmpi m f a c im s
  | .li d im => Sys2Proof.Machine.execLi d im s
  | .lui d im => Sys2Proof.Machine.execLui d im s
  | .ltop d im => Sys2Proof.Machine.execLtop d im s
  | .fadd d a b p => Sys2Proof.Machine.execFadd d a b p s
  | .fsub d a b p => Sys2Proof.Machine.execFsub d a b p s
  | .fmul d a b p => Sys2Proof.Machine.execFmul d a b p s
  | .ffma d a b p => Sys2Proof.Machine.execFfma d a b p s
  | .fdiv d a b p => Sys2Proof.Machine.execFdiv d a b p s
  | .fsqrt d a p => Sys2Proof.Machine.execFsqrt d a p s
  | .fmin d a b p => Sys2Proof.Machine.execFmin d a b p s
  | .fmax d a b p => Sys2Proof.Machine.execFmax d a b p s
  | .fabs d a p => Sys2Proof.Machine.execFabs d a p s
  | .fneg d a p => Sys2Proof.Machine.execFneg d a p s
  | .fclass d a p => Sys2Proof.Machine.execFclass d a p s
  | .frnd d a p => Sys2Proof.Machine.execFrnd d a p s
  | .fcvt d a st p => Sys2Proof.Machine.execFcvt d a st p s
  | .ftoi d a u p => Sys2Proof.Machine.execFtoi d a u p s
  | .fcmp m f a b p c => Sys2Proof.Machine.execFcmp m f a b p c s
  | .bt f o => Sys2Proof.Machine.execBt f o s
  | .bf f o => Sys2Proof.Machine.execBf f o s
  | .br o => Sys2Proof.Machine.execBr o s
  | .callr a => Sys2Proof.Machine.execCallr a s
  | .jmpr a => Sys2Proof.Machine.execJmpr a s
  | .ret => Sys2Proof.Machine.execRet s
  | .loop a l => Sys2Proof.Machine.execLoop a l s
  | .loopi c l => Sys2Proof.Machine.execLoopi c l s
  | .ldb t a st p o => Sys2Proof.Machine.execLdb t a st p o s
  | .ldbs t a st p o => Sys2Proof.Machine.execLdbs t a st p o s
  | .ldh t a st p o => Sys2Proof.Machine.execLdh t a st p o s
  | .ldhs t a st p o => Sys2Proof.Machine.execLdhs t a st p o s
  | .ldw t a st p o => Sys2Proof.Machine.execLdw t a st p o s
  | .ldws t a st p o => Sys2Proof.Machine.execLdws t a st p o s
  | .ldd t a st p o => Sys2Proof.Machine.execLdd t a st p o s
  | .stb t a st p o => Sys2Proof.Machine.execStb t a st p o s
  | .sth t a st p o => Sys2Proof.Machine.execSth t a st p o s
  | .stw t a st p o => Sys2Proof.Machine.execStw t a st p o s
  | .std t a st p o => Sys2Proof.Machine.execStd t a st p o s
  | .ldff t a st p => Sys2Proof.Machine.execLdff t a st p s
  | .ldfe t a st p => Sys2Proof.Machine.execLdfe t a st p s
  | .stef t a st p => Sys2Proof.Machine.execStef t a st p s
  | .stff t a st p => Sys2Proof.Machine.execStff t a st p s
  | .ldxx t a st p f => Sys2Proof.Machine.execLdxx t a st p f s
  | .sete a st p => Sys2Proof.Machine.execSete a st p s
  | .aadd t a st p b => Sys2Proof.Machine.execAadd t a st p b s
  | .aand t a st p b => Sys2Proof.Machine.execAand t a st p b s
  | .aor t a st p b => Sys2Proof.Machine.execAor t a st p b s
  | .axor t a st p b => Sys2Proof.Machine.execAxor t a st p b s
  | .amin t a st p b => Sys2Proof.Machine.execAmin t a st p b s
  | .amax t a st p b => Sys2Proof.Machine.execAmax t a st p b s
  | .aminn t a st p b => Sys2Proof.Machine.execAminn t a st p b s
  | .amaxn t a st p b => Sys2Proof.Machine.execAmaxn t a st p b s
  | .aswap t a st p b => Sys2Proof.Machine.execAswap t a st p b s
  | .cas t a st p b => Sys2Proof.Machine.execCas t a st p b s
  | .afadd t a st p b => Sys2Proof.Machine.execAfadd t a st p b s
  | .cflush a st p b => Sys2Proof.Machine.execCflush a st p b s
  | .cinv a st p b => Sys2Proof.Machine.execCinv a st p b s
  | .smap n a st p => Sys2Proof.Machine.execSmap n a st p s
  | .sunmap n st p => Sys2Proof.Machine.execSunmap n st p s
  | .swb n st p => Sys2Proof.Machine.execSwb n st p s
  | .pref a st p => Sys2Proof.Machine.execPref a st p s
  | .fmtw t a st p => Sys2Proof.Machine.execFmtw t a st p s
  | .sfmt n a st p => Sys2Proof.Machine.execSfmt n a st p s
  | .mbxw n a b p st => Sys2Proof.Machine.execMbxw n a b p st s
  | .mbxwi n p st => Sys2Proof.Machine.execMbxwi n p st s
  | .mbxr d n p st => Sys2Proof.Machine.execMbxr d n p st s
  | .mbxt d f n p st => Sys2Proof.Machine.execMbxt d f n p st s
  | .semp d n p st => Sys2Proof.Machine.execSemp d n p st s
  | .semv n p st => Sys2Proof.Machine.execSemv n p st s
  | .qpush f a b p st => Sys2Proof.Machine.execQpush f a b p st s
  | .qpop d f p st => Sys2Proof.Machine.execQpop d f p st s
  | .wfe p st => Sys2Proof.Machine.execWfe p st s
  | .sev n a p st => Sys2Proof.Machine.execSev n a p st s
  | .bara c a b p st => Sys2Proof.Machine.execBara c a b p st s
  | .barw c a b p st => Sys2Proof.Machine.execBarw c a b p st s
  | .barq a b p st => Sys2Proof.Machine.execBarq a b p st s
  | .tkgetInsn d a c p st => Sys2Proof.Machine.execTkgetInsn d a c p st s
  | .tkwait a p st => Sys2Proof.Machine.execTkwait a p st s
  | .tkdoneInsn a c p st => Sys2Proof.Machine.execTkdoneInsn a c p st s
  | .ctrb a b p st => Sys2Proof.Machine.execCtrb a b p st s
  | .ctres d a f p st => Sys2Proof.Machine.execCtres d a f p st s
  | .ctabtInsn a p st => Sys2Proof.Machine.execCtabtInsn a p st s
  | .spawn f a b p st => Sys2Proof.Machine.execSpawn f a b p st s
  | .migr f a p st => Sys2Proof.Machine.execMigr f a p st s
  | .exit p st => Sys2Proof.Machine.execExit p st s
  | .yield p st => Sys2Proof.Machine.execYield p st s
  | .ckpt a p st => Sys2Proof.Machine.execCkpt a p st s
  | .vmov d a k => Sys2Proof.Machine.execVmov d a k s
  | .vadd d a b k y => Sys2Proof.Machine.execVadd d a b k y s
  | .vsub d a b k y => Sys2Proof.Machine.execVsub d a b k y s
  | .vmul d a b k y => Sys2Proof.Machine.execVmul d a b k y s
  | .vfma d a b k y => Sys2Proof.Machine.execVfma d a b k y s
  | .vfms d a b k y => Sys2Proof.Machine.execVfms d a b k y s
  | .vmax d a b k y => Sys2Proof.Machine.execVmax d a b k y s
  | .vmin d a b k y => Sys2Proof.Machine.execVmin d a b k y s
  | .vabs d a k y => Sys2Proof.Machine.execVabs d a k y s
  | .vneg d a k y => Sys2Proof.Machine.execVneg d a k y s
  | .vand d a b k => Sys2Proof.Machine.execVand d a b k s
  | .vor d a b k => Sys2Proof.Machine.execVor d a b k s
  | .vxor d a b k => Sys2Proof.Machine.execVxor d a b k s
  | .vandn d a b k => Sys2Proof.Machine.execVandn d a b k s
  | .vshl d a b k y => Sys2Proof.Machine.execVshl d a b k y s
  | .vshr d a b k y => Sys2Proof.Machine.execVshr d a b k y s
  | .vsra d a b k y => Sys2Proof.Machine.execVsra d a b k y s
  | .vmulh d a b k y => Sys2Proof.Machine.execVmulh d a b k y s
  | .vclz d a k y => Sys2Proof.Machine.execVclz d a k y s
  | .vpopc d a k y => Sys2Proof.Machine.execVpopc d a k y s
  | .vcvt d st b k y => Sys2Proof.Machine.execVcvt d st b k y s
  | .vrcp d a k => Sys2Proof.Machine.execVrcp d a k s
  | .vrsq d a k => Sys2Proof.Machine.execVrsq d a k s
  | .vperm d a b k => Sys2Proof.Machine.execVperm d a b k s
  | .vsel d a b k => Sys2Proof.Machine.execVsel d a b k s
  | .vcmp g m a b k y o => Sys2Proof.Machine.execVcmp g m a b k y o s
  | .vmovShort k st d => Sys2Proof.Machine.execVmovShort k st d s
  | .vaddF32Short k st d => Sys2Proof.Machine.execVaddF32Short k st d s
  | .vsubF32Short k st d => Sys2Proof.Machine.execVsubF32Short k st d s
  | .vmulF32Short k st d => Sys2Proof.Machine.execVmulF32Short k st d s
  | .vmaxF32Short k st d => Sys2Proof.Machine.execVmaxF32Short k st d s
  | .vminF32Short k st d => Sys2Proof.Machine.execVminF32Short k st d s
  | .vaddI32Short k st d => Sys2Proof.Machine.execVaddI32Short k st d s
  | .vsubI32Short k st d => Sys2Proof.Machine.execVsubI32Short k st d s
  | .vandShort k st d => Sys2Proof.Machine.execVandShort k st d s
  | .vorShort k st d => Sys2Proof.Machine.execVorShort k st d s
  | .vxorShort k st d => Sys2Proof.Machine.execVxorShort k st d s
  | .vaddB2Short k st d => Sys2Proof.Machine.execVaddB2Short k st d s
  | .vmulB2Short k st d => Sys2Proof.Machine.execVmulB2Short k st d s
  | .vshlI32Short k st d => Sys2Proof.Machine.execVshlI32Short k st d s
  | .vshrN32Short k st d => Sys2Proof.Machine.execVshrN32Short k st d s
  | .vselShort k st d => Sys2Proof.Machine.execVselShort k st d s
  | .vbcast d a k => Sys2Proof.Machine.execVbcast d a k s
  | .vext d a b => Sys2Proof.Machine.execVext d a b s
  | .vins d a b => Sys2Proof.Machine.execVins d a b s
  | .vredadd d a y k => Sys2Proof.Machine.execVredadd d a y k s
  | .vredmax d a y k => Sys2Proof.Machine.execVredmax d a y k s
  | .vredmin d a y k => Sys2Proof.Machine.execVredmin d a y k s
  | .viota d a k => Sys2Proof.Machine.execViota d a k s
  | .vredfadd d a k => Sys2Proof.Machine.execVredfadd d a k s
  | .vtblw t a b => Sys2Proof.Machine.execVtblw t a b s
  | .vtlerp d a t k => Sys2Proof.Machine.execVtlerp d a t k s
  | .vtlcfg t a b => Sys2Proof.Machine.execVtlcfg t a b s
  | .kand d a b => Sys2Proof.Machine.execKand d a b s
  | .kor d a b => Sys2Proof.Machine.execKor d a b s
  | .kxor d a b => Sys2Proof.Machine.execKxor d a b s
  | .knot d a => Sys2Proof.Machine.execKnot d a s
  | .kset d a => Sys2Proof.Machine.execKset d a s
  | .kget d a => Sys2Proof.Machine.execKget d a s
  | .kpop d a => Sys2Proof.Machine.execKpop d a s
  | .kfirst d a => Sys2Proof.Machine.execKfirst d a s
  | .kany f a => Sys2Proof.Machine.execKany f a s
  | .klen d a => Sys2Proof.Machine.execKlen d a s
  | .vld d a st p k o => Sys2Proof.Machine.execVld d a st p k o s
  | .vst d a st p k o => Sys2Proof.Machine.execVst d a st p k o s
  | .vldd d a st p k o => Sys2Proof.Machine.execVldd d a st p k o s
  | .vldx d v a st p k c => Sys2Proof.Machine.execVldx d v a st p k c s
  | .vstx d v a st p k c => Sys2Proof.Machine.execVstx d v a st p k c s
  | .mopen d v st p => Sys2Proof.Machine.execMopen d v st p s
  | .mma d v st p => Sys2Proof.Machine.execMma d v st p s
  | .mmas d v st p => Sys2Proof.Machine.execMmas d v st p s
  | .mmaw d v st p => Sys2Proof.Machine.execMmaw d v st p s
  | .mrot d v st p => Sys2Proof.Machine.execMrot d v st p s
  | .mcont d v st p => Sys2Proof.Machine.execMcont d v st p s
  | .mfwd d v st p => Sys2Proof.Machine.execMfwd d v st p s
  | .mread d v st p => Sys2Proof.Machine.execMread d v st p s
  | .mqry d v st p => Sys2Proof.Machine.execMqry d v st p s
  | .mabn d v st p => Sys2Proof.Machine.execMabn d v st p s
  | .mclose d v st p => Sys2Proof.Machine.execMclose d v st p s
  | .mflg d v st p => Sys2Proof.Machine.execMflg d v st p s
  | .cpy d v st p => Sys2Proof.Machine.execCpy d v st p s
  | .cpy2 d v st p => Sys2Proof.Machine.execCpy2 d v st p s
  | .cpyf d v st p => Sys2Proof.Machine.execCpyf d v st p s
  | .cpyk d v st p => Sys2Proof.Machine.execCpyk d v st p s
  | .mfs d st => Sys2Proof.Machine.execMfs d st s
  | .mts a st => Sys2Proof.Machine.execMts a st s
  | .trap c => Sys2Proof.Machine.execTrap c s
  | .halt => Sys2Proof.Machine.execHalt s
  | .nop => Sys2Proof.Machine.execNop s
  | .bkpt c => Sys2Proof.Machine.execBkpt c s
  | .svcRsm c a => Sys2Proof.Machine.execSvcRsm c a s
  | .svcKill c a => Sys2Proof.Machine.execSvcKill c a s
  | .svcTlbinv c a => Sys2Proof.Machine.execSvcTlbinv c a s
  | .svcGangctl c a => Sys2Proof.Machine.execSvcGangctl c a s
  | .svcPrmpt c a => Sys2Proof.Machine.execSvcPrmpt c a s
  | .svcMsgrd => Sys2Proof.Machine.execSvcMsgrd s
  | .callInsn o => Sys2Proof.Machine.execCallInsn o s
  | .illegalInstruction word => Sys2Proof.Machine.execIllegalInstruction word s
  | .powerOn => Sys2Proof.Machine.execPowerOn s
  | .railsSettled => Sys2Proof.Machine.execRailsSettled s
  | .powerOff => Sys2Proof.Machine.execPowerOff s
  | .bootStageLoad => Sys2Proof.Machine.execBootStageLoad s
  | .recoveryWindowWrite => Sys2Proof.Machine.execRecoveryWindowWrite s
  | .recovctlWrite => Sys2Proof.Machine.execRecovctlWrite s
  | .recoveryPieceCopied => Sys2Proof.Machine.execRecoveryPieceCopied s
  | .heartbeatMissed => Sys2Proof.Machine.execHeartbeatMissed s
  | .attgoWrite => Sys2Proof.Machine.execAttgoWrite s
  | .attestationReportDone => Sys2Proof.Machine.execAttestationReportDone s
  | .lifetimeCommit => Sys2Proof.Machine.execLifetimeCommit s
  | .monthAdvance => Sys2Proof.Machine.execMonthAdvance s
  | .pwrctlP0 => Sys2Proof.Machine.execPwrctlP0 s
  | .pwrctlP1 => Sys2Proof.Machine.execPwrctlP1 s
  | .pwrctlP2 => Sys2Proof.Machine.execPwrctlP2 s
  | .pwrctlP3 => Sys2Proof.Machine.execPwrctlP3 s
  | .powerTransitionDone => Sys2Proof.Machine.execPowerTransitionDone s
  | .thermalAlert => Sys2Proof.Machine.execThermalAlert s
  | .thermtrip => Sys2Proof.Machine.execThermtrip s
  | .dramEccCorrect => Sys2Proof.Machine.execDramEccCorrect s
  | .dramEccPoison => Sys2Proof.Machine.execDramEccPoison s
  | .tarmelFlitReplay => Sys2Proof.Machine.execTarmelFlitReplay s
  | .tarmelLaneSpare => Sys2Proof.Machine.execTarmelLaneSpare s
  | .tarmelRetrainDone => Sys2Proof.Machine.execTarmelRetrainDone s
  | .tarmelGroupDisable => Sys2Proof.Machine.execTarmelGroupDisable s
  | .vilamFlitReplay => Sys2Proof.Machine.execVilamFlitReplay s
  | .vilamPortDegrade => Sys2Proof.Machine.execVilamPortDegrade s
  | .routeRewrite => Sys2Proof.Machine.execRouteRewrite s
  | .routeResume => Sys2Proof.Machine.execRouteResume s
  | .pcieLinkTrain => Sys2Proof.Machine.execPcieLinkTrain s
  | .packetForward => Sys2Proof.Machine.execPacketForward s
  | .load => Sys2Proof.Machine.execLoad s
  | .store => Sys2Proof.Machine.execStore s
  | .atomic => Sys2Proof.Machine.execAtomic s
  | .feop => Sys2Proof.Machine.execFeop s
  | .copyw => Sys2Proof.Machine.execCopyw s
  | .contrib => Sys2Proof.Machine.execContrib s
  | .task => Sys2Proof.Machine.execTask s
  | .tkget => Sys2Proof.Machine.execTkget s
  | .tkreg => Sys2Proof.Machine.execTkreg s
  | .tkdone => Sys2Proof.Machine.execTkdone s
  | .resp => Sys2Proof.Machine.execResp s
  | .ack => Sys2Proof.Machine.execAck s
  | .nack => Sys2Proof.Machine.execNack s
  | .nackRetry => Sys2Proof.Machine.execNackRetry s
  | .call => Sys2Proof.Machine.execCall s
  | .ctup => Sys2Proof.Machine.execCtup s
  | .ctdown => Sys2Proof.Machine.execCtdown s
  | .ctabt => Sys2Proof.Machine.execCtabt s
  | .pbar => Sys2Proof.Machine.execPbar s
  | .barrierArrive => Sys2Proof.Machine.execBarrierArrive s
  | .hostBar4Read => Sys2Proof.Machine.execHostBar4Read s
  | .hostBar4Write => Sys2Proof.Machine.execHostBar4Write s
  | .qbaseWrite => Sys2Proof.Machine.execQbaseWrite s
  | .qridxWrite => Sys2Proof.Machine.execQridxWrite s
  | .qcfgWrite => Sys2Proof.Machine.execQcfgWrite s
  | .notifyWrite => Sys2Proof.Machine.execNotifyWrite s
  | .registerWrite => Sys2Proof.Machine.execRegisterWrite s
  | .packetRead => Sys2Proof.Machine.execPacketRead s
  | .waitValidReread => Sys2Proof.Machine.execWaitValidReread s
  | .packetBegin => Sys2Proof.Machine.execPacketBegin s
  | .launch => Sys2Proof.Machine.execLaunch s
  | .launchAccept => Sys2Proof.Machine.execLaunchAccept s
  | .depend => Sys2Proof.Machine.execDepend s
  | .dependPoll => Sys2Proof.Machine.execDependPoll s
  | .signalStore => Sys2Proof.Machine.execSignalStore s
  | .signalAdd => Sys2Proof.Machine.execSignalAdd s
  | .signalSubtract => Sys2Proof.Machine.execSignalSubtract s
  | .copy => Sys2Proof.Machine.execCopy s
  | .copyPiece => Sys2Proof.Machine.execCopyPiece s
  | .pcieCompletion => Sys2Proof.Machine.execPcieCompletion s
  | .gangOut => Sys2Proof.Machine.execGangOut s
  | .gangIn => Sys2Proof.Machine.execGangIn s
  | .gangAbort => Sys2Proof.Machine.execGangAbort s
  | .gangCommandStart => Sys2Proof.Machine.execGangCommandStart s
  | .freeze => Sys2Proof.Machine.execFreeze s
  | .mark => Sys2Proof.Machine.execMark s
  | .sweep => Sys2Proof.Machine.execSweep s
  | .save => Sys2Proof.Machine.execSave s
  | .release => Sys2Proof.Machine.execRelease s
  | .releaseHostWaitExpiry => Sys2Proof.Machine.execReleaseHostWaitExpiry s
  | .phaseComplete => Sys2Proof.Machine.execPhaseComplete s
  | .inRestore => Sys2Proof.Machine.execInRestore s
  | .inAdmit => Sys2Proof.Machine.execInAdmit s
  | .uncorrectableError => Sys2Proof.Machine.execUncorrectableError s
  | .cobaltBind => Sys2Proof.Machine.execCobaltBind s
  | .cobaltPreempt => Sys2Proof.Machine.execCobaltPreempt s
  | .preemption => Sys2Proof.Machine.execPreemption s
  | .cobaltResume => Sys2Proof.Machine.execCobaltResume s
  | .spillRedeliver => Sys2Proof.Machine.execSpillRedeliver s
  | .parcelRetire => Sys2Proof.Machine.execParcelRetire s
  | .retired => Sys2Proof.Machine.execRetired s
  | .reply => Sys2Proof.Machine.execReply s
  | .streamRelease => Sys2Proof.Machine.execStreamRelease s
  | .waitTimeout => Sys2Proof.Machine.execWaitTimeout s
  | .exitDrained => Sys2Proof.Machine.execExitDrained s
  | .walkComplete => Sys2Proof.Machine.execWalkComplete s
  | .stashLineFill => Sys2Proof.Machine.execStashLineFill s
  | .homeRead => Sys2Proof.Machine.execHomeRead s
  | .homeWrite => Sys2Proof.Machine.execHomeWrite s
  | .quadInvalidate => Sys2Proof.Machine.execQuadInvalidate s
  | .quadRecall => Sys2Proof.Machine.execQuadRecall s
  | .invalidationAck => Sys2Proof.Machine.execInvalidationAck s
  | .writeGrant => Sys2Proof.Machine.execWriteGrant s
  | .evictionNotice => Sys2Proof.Machine.execEvictionNotice s
  | .engineAccept => Sys2Proof.Machine.execEngineAccept s
  | .contributionArrival => Sys2Proof.Machine.execContributionArrival s
  | .mrotDelivery => Sys2Proof.Machine.execMrotDelivery s
  | .copyStart => Sys2Proof.Machine.execCopyStart s
  | .copyDone => Sys2Proof.Machine.execCopyDone s
  | .svcCompletion => Sys2Proof.Machine.execSvcCompletion s
  | .routerGroupWrite => Sys2Proof.Machine.execRouterGroupWrite s
  | .migrSend => Sys2Proof.Machine.execMigrSend s
  | .scopeSet => Sys2Proof.Machine.execScopeSet s
  | .tileCommandArrival => Sys2Proof.Machine.execTileCommandArrival s
  | .thermalAlertClear => Sys2Proof.Machine.execThermalAlertClear s

end Sys2Proof.Machine
end

