-- ==== Sys2Proof/Machine/Turn.lean ====
section
/-!
DEFINITION. Machine/Turn.lean: one turn of a core's rotation: whose turn it is, traps at an instruction boundary, fetch and decode, the instruction, and a
lock-step pair's comparison (R113 to R115, R143 to R145, R232 to R234). A fetch reads the bytes as the quad cache or their home has them (log entry 7).
-/
namespace Sys2Proof.Machine

/-! ### Fetch and decode (R232 to R234) -/

/-- What a fetch comes to: the instruction, or a turn that ends without one. -/
inductive Fetched where
  | run (s : State) (i : Instr)
  | stop (s : State)

/-- A halfword at an address for slot k: translated for fetch, through the quad cache (R153, R161, R171); else the state in which the turn ends. A refused peer
or a poisoned word stops the thread at the instruction (log entry 7). -/
def State.fetch16 (s : State) (k : Nat) (va : Word) : Except State (State × BitVec 16) :=
  let c := coreOf k
  let q := quadOf c
  let t := s.slot k
  let trap := fun (cause : BitVec 8) (detail : Word) => s.takeTrap k { cause := cause, addr := va, detail := detail } t.pc
  if va.getLsbD 63 then .error (trap 0x09 FaultKind.malformed.code)
  else match s.translate c t.job va false true with
    | some (.error e) => .error (trap 0x09 e.code)
    | none =>
      .error (s.startWalk { quad := q, slot := k, opId := t.issued.toNat, part := precisePart, job := t.job, va := va, write := false, fetch := true })
    | some (.ok l) =>
      let pa := l.pa va
      match s.accessRefused k pa with
      | some cause => .error (trap cause (BitVec.ofNat 64 (paPeer pa)))
      | none =>
        if paPeer pa = hostPeer ∨ l.nc then
          (let s := if paPeer pa = hostPeer then s else s.homeClean (pa / 256)
           if s.poisonAt pa then .error (trap 0x0A (BitVec.ofNat 64 (paPeer pa))) else .ok (s, s.memRead pa 2))
        else if !(s.quad q).lines.has (pa / 256) && !s.lineFree (pa / 256) then .error s
        else
          let s' := (s.pullLine q (pa / 256) false).fetchLine q (pa / 256)
          match s'.line q (pa / 256) with
          | none => .error s
          | some x =>
            if x.poisoned (pa % 256) 2 then .error (trap 0x0A (BitVec.ofNat 64 (paPeer pa)))
            else .ok (s'.setLine q (pa / 256) { x with l1i := x.l1i ||| (1 <<< (c % 4)) }, (x.read (pa % 256) 2).setWidth 16)

/-- The next instruction of slot k (R233): what has no legal meaning comes as ILLEGAL_INSTRUCTION with its word. -/
def State.nextInstr (s : State) (k : Nat) : Fetched :=
  let pc := (s.slot k).pc
  match s.fetch16 k pc with
  | .error s => .stop s
  | .ok (s, h0) =>
    match firstReject h0 with
    | some _ => .run s (.illegalInstruction (h0.setWidth 32))
    | none =>
      if isLong h0 then
        match s.fetch16 k (pc + 2) with
        | .error s => .stop s
        | .ok (s, h1) => .run s (match decode32 (h1 ++ h0) with
          | .ok i => i
          | .error _ => .illegalInstruction (h1 ++ h0))
      else .run s (match decode16 h0 with
        | .ok i => i
        | .error _ => .illegalInstruction (h0.setWidth 32))

/-! ### One slot's turn (R113, R115, R145) -/

/-- A change of the next state of an outcome. -/
def outMap (f : State → State) : Out → Out
  | .next s => .next (f s)
  | .fault e => .fault e
  | .refused e => .refused e

/-- The traps kept for a thread's next boundary: the first parks it, the others give their messages (R40, R137). -/
def State.boundaryTraps (s : State) (k : Nat) : State :=
  match (s.slot k).trapNext with
  | [] => s
  | tr :: rest =>
    let pc := (s.slot k).pc
    let s := rest.foldl (fun s tr => s.postTrap k tr pc) (s.modSlot k fun t => { t with trapNext := [] })
    s.takeTrap k tr pc

/-- The thread of slot k fetches and runs its next instruction; a turn in which it cannot issue counts in sr.wait (R113, R123). -/
def State.runSlot (s : State) (k : Nat) : Out :=
  match ({ s with cur := k }).nextInstr k with
  | .stop s => .next s
  | .run s i => outMap (fun s => s.modSlot k fun t => if t.st = .wait ∧ (t.hold = .reissue ∨ t.hold = .none) then { t with waits := t.waits + 1 } else t) (exec i { s with cur := k })

/-- A turn of slot k: a trap due is taken; a waiting thread's wait goes on, one that has not issued tries again; a skipped turn and a turn that the droop governor
takes are bubbles (R113 to R115, R142, R145, R333). -/
def State.slotTurn (s : State) (k : Nat) (bubble : Bool) : Out :=
  let t := s.slot k
  match t.st with
  | .run =>
    if t.trapNext ≠ [] then .next (s.boundaryTraps k)
    else if t.skip then .next (s.modSlot k fun t => { t with skip := false })
    else if bubble then .next (s.modSlot k fun t => { t with droop := t.droop + 1 })
    else s.runSlot k
  | .wait =>
    if t.hold = .reissue then
      if t.trapNext ≠ [] then .next (s.boundaryTraps k)
      else (s.modSlot k fun t => { t with st := .run, hold := .none, waited := t.waited + 8 }).runSlot k
    else .next (s.modSlot k fun t => { t with waited := t.waited + 8, waits := t.waits + 1 })
  | _ => .next s

/-! ### Lock-step (R143) -/

/-- A turn of slot k of a lock-step pair's even core: both cores run it, their write-backs are compared (R143). -/
def State.pairTurn (s : State) (k : Nat) (bubble : Bool) : Out :=
  match s.slotTurn k bubble with
  | .fault e => .fault e
  | .refused e => .refused e
  | .next even => match s.slotTurn (k + 8) bubble with
    | .fault e => .fault e
    | .refused e => .refused e
    | .next odd =>
      .next (s.joinPair k even odd)

/-! ### The rotation (R113) -/

/-- A core's cycle ends; both of a pair count together. -/
def State.tick (s : State) (cs : List Nat) : State := cs.foldl (fun s c => s.modCore c fun x => { x with cycle := x.cycle + 1 }) s

/-- The slot whose turn a core's cycle is. -/
def State.turnOf (s : State) (c : Nat) : Nat := c * 8 + (s.core c).cycle.toNat % 8

/-- May the droop governor take a turn: under a cap, from a thread that would run (R25, R145)? -/
def State.droops (s : State) (c : Nat) (bubble : Bool) : Bool :=
  bubble && (s.pkg (c / 4096)).pstate != 0 && (s.slot (s.turnOf c)).st == .run

/-- The package's count of droop bubbles (R77). -/
def State.countDroop (s : State) (c : Nat) (b : Bool) : State :=
  if b then s.modPkg (c / 4096) fun x =>
    let i := c / 1024 % 4 * 3 + x.pstate.toNat
    { x with life := { x.life with bubbles := x.life.bubbles.set i (x.life.bubbles.get 0 i + 1) } }
  else s

/-- One cycle of a core: the turn of slot (cycle mod 8). Without power or in P3 no clock runs; the odd core of a pair runs with the even one (R25, R113, R143). -/
def State.turn (s : State) (c : Nat) (bubble : Bool) : Out :=
  if (s.pkg (c / 4096)).power ≠ .on ∨ (s.pkg (c / 4096)).pstate = 3 then .next s
  else
    let k := s.turnOf c
    let b := s.droops c bubble
    if (s.core c).crew.bind.lockstep then
      if c % 2 = 1 then .next s
      else outMap (fun s => (s.countDroop c b).tick [c, c + 1]) (s.pairTurn k b)
    else outMap (fun s => (s.countDroop c b).tick [c]) (s.slotTurn k b)

/-! ### Events and the world outside (log entries 3 and 6) -/

/-- Is a row of the opcode table an event of another agent, not an instruction of a thread? -/
def isEvent (i : Instr) : Bool := match i with
  | .illegalInstruction _ | .vmovShort _ _ _ => false
  | i => encode i == 0

/-- The host stores into its own memory. -/
def State.hostStores (s : State) (addr : Nat) (bytes : List Byte) : State :=
  { s with mem := s.mem.writeList (paOf hostPeer (addr % (2 ^ 44 - bytes.length))) bytes }

/-- A supervisor's edit of a dword of a parked thread's trap frame, of both cores' in a lock-step pair (R137, R143, R282; log entry 8). -/
def State.frameStores (s : State) (k j : Nat) (v : Word) : State :=
  (s.twins k).foldl (fun s k => s.modSlot k fun t => if t.framed && j < 312 then ({ t with frame := t.frame.set j v }).edited else t) s

/-- The package whose core, mesh, engine, DRAM and link clocks an event needs, where it needs any: Slate's and the host interface's go on in P3 (R20, R25). -/
def State.clockOf (s : State) (i : Instr) : Option Nat :=
  let a := s.arg.a
  match i with
  | .packetForward | .load | .store | .atomic | .feop | .copyw | .contrib | .tileCommandArrival | .task | .tkget | .tkreg | .tkdone | .resp | .ack | .nack | .call |
    .ctup | .ctdown | .ctabt | .pbar => (s.net[a]?).bind fun f => match f.loc with
      | .hostPort _ => none
      | l => some l.pkg
  | .nackRetry | .reply | .streamRelease | .scopeSet | .waitTimeout | .exitDrained | .migrSend => some (peerOfSlot a / 4)
  | .preemption | .cobaltResume | .spillRedeliver | .parcelRetire | .stashLineFill | .copyStart | .copyDone => some (a / 4096)
  | .engineAccept | .contributionArrival | .mrotDelivery => some (peerOf a / 4)
  | .walkComplete | .homeRead | .homeWrite | .quadInvalidate | .quadRecall | .invalidationAck | .writeGrant | .evictionNotice | .barrierArrive | .svcCompletion |
    .cobaltBind | .cobaltPreempt | .dramEccCorrect | .dramEccPoison | .heartbeatMissed => some (a / 4)
  | .packetRead | .waitValidReread | .packetBegin | .launch | .launchAccept | .depend | .dependPoll | .signalStore | .signalAdd | .signalSubtract | .copy | .copyPiece |
    .pcieCompletion | .hostBar4Read | .hostBar4Write | .retired | .gangOut | .gangIn | .gangAbort | .gangCommandStart | .freeze | .mark | .sweep | .save | .release |
    .releaseHostWaitExpiry | .phaseComplete | .inRestore | .inAdmit | .routerGroupWrite | .routeRewrite | .routeResume | .tarmelFlitReplay | .tarmelLaneSpare |
    .tarmelRetrainDone | .tarmelGroupDisable | .vilamFlitReplay | .vilamPortDegrade => some a
  | _ => none

/-- May an event happen: an event of the table, the clocks that it needs running (R20, R25)? -/
def State.happens (s : State) (i : Instr) : Bool :=
  isEvent i && match s.clockOf i with
    | some p => (s.pkg p).pstate != 3
    | none => true

/-- Is an event a posted write of the host: to BAR4, to a notify page, or to a register of BAR0 (R440)? -/
def isPosted (i : Instr) : Bool := match i with
  | .hostBar4Write | .notifyWrite | .qbaseWrite | .qridxWrite | .qcfgWrite | .registerWrite | .recoveryWindowWrite | .recovctlWrite | .attgoWrite | .pwrctlP0 | .pwrctlP1 |
    .pwrctlP2 | .pwrctlP3 => true
  | _ => false

/-- Does an event wait behind a posted write that came before it (R440)? -/
def State.behindPosted (s : State) (i : Instr) (a : Arg) : Bool := isPosted i && s.postedTo a.a

/-- What happens next in the pod: an event, a turn, a store of the host's, or an edit of a trap frame. -/
def State.move (s : State) : Move → Out
  | .event i a =>
    if s.behindPosted i a then .next { s with posted := s.posted ++ [(i, a)] }
    else if ({ s with arg := a }).happens i then exec i { s with arg := a } else .next s
  | .turn c b => s.turn c b
  | .hostStore addr bytes => .next (s.hostStores addr bytes)
  | .frameStore k j v => .next (s.frameStores k j v)

/-- One posted write that waits: acted on once no earlier one of its package waits; a BAR4 write whose lines are still under a transaction goes on waiting (R440). -/
def State.settlePosted (s : State) (e : Instr × Arg) : State :=
  if s.postedTo e.2.a then { s with posted := s.posted ++ [e] }
  else if ({ s with arg := e.2 }).happens e.1 then (match exec e.1 { s with arg := e.2 } with
    | .next t => { t with arg := s.arg }
    | _ => s)
  else s

/-- What a step brings about at once: release points (R208), waiting entries of the homes whose words it has filled or emptied (R43), and posted writes that waited for a
line (R440). -/
def State.settle (s : State) : State :=
  let s := s.takeReleases.settleRetries
  s.posted.foldl (fun s e => s.settlePosted e) { s with posted := [] }

/-- One step: the next move of the agenda, or where it is empty a turn of the core that ran last (log entry 3), and what follows at once. -/
def State.stepOn (s : State) : Out :=
  outMap State.settle (match s.agenda with
    | [] => s.turn (coreOf s.cur) false
    | m :: r => ({ s with agenda := r }).move m)

/-! ### Placing an instruction (log entry 5) -/

/-- The slot that may run an instruction placed for a test: the supervisor core's slot 0 for an SVC, slot 6 for a matrix command, slot 7 for a copy command,
slot 0 of another core for the rest (R116, R251). -/
def placeSlot (i : Instr) : Nat :=
  let w := encode i
  let major : BitVec 6 := bits w 1 6
  if isShort i then 32
  else if major = 0x3F ∧ (bits w 7 3 : BitVec 3) = 7 then 0
  else if major = 0x2A then 38
  else if major = 0x2B then 39
  else 32

/-- Where the placed instruction's page lies: 64 KiB at 0x1_0000 of die 0. -/
def placeFrame : Nat := 0x1_0000

/-- Instruction bytes placed where the thread of slot k fetches next, and its turn next (R113, R153, R233): the package powered, the supervisor core running for
slot 0 of core 0, the thread in RUN, a translation of its page, the bytes at the page's home and in no cache. -/
def State.placeAt (s : State) (k : Nat) (bytes : List Byte) : State :=
  let c := coreOf k
  let t := s.slot k
  let pc : Word := t.pc &&& 0x01FF_FFFF_FFFF_FFFC
  let pa := placeFrame + pc.toNat % 2 ^ 16
  let s := s.modPkg 0 fun x => { x with power := .on, pstate := if x.pstate = 3 then 2 else x.pstate }
  let s := if k = 0 then s.modDie 0 fun d => { d with supRun := true, supcore := 0 } else s
  let s := s.modCore c fun x =>
    { x with
      cycle := BitVec.ofNat 64 (slotOf k), crew := { x.crew with bind := { x.crew.bind with lockstep := false } },
      utlb := { job := t.job, page := pc.toNat % 2 ^ 57 / 2 ^ 16, shift := 16, frame := placeFrame, x := true, w := true, nc := false, geo := 0, fmt := 0 } :: x.utlb }
  let s := s.modSlot k fun t => { t with st := .run, hold := .none, pc := pc, trapNext := [], skip := false }
  let s := s.modQuad (quadOf c) fun q => { q with lines := q.lines.erase (pa / 256) }
  let s := s.modDie 0 fun d => { d with dir := d.dir.erase (pa / 256) }
  { s with
    mem := s.mem.writeList pa bytes, poison := s.poison.filter fun a => !(pa / 8 * 8 ≤ a && a < pa + 8), cur := k,
    agenda := .turn c false :: s.agenda }

end Sys2Proof.Machine
end

