-- ==== Sys2Proof/Machine/Step.lean ====
section
/-!
DEFINITION. Machine/Step.lean: one step of the pod, and an instruction placed to be the next that a step runs.
-/
namespace Sys2Proof.Machine

/-- One step of the pod (log entry 3). -/
def step (s : State) : Host.Outcome State Fault Refusal := s.stepOn

/-- The state with an instruction stored where the next step fetches it (log entry 5): `w` as the opcode table numbers its bits, zero above `nbits`. -/
def State.withFetchWord (s : State) (nbits w : Nat) : State :=
  s.placeAt (match decodeTableWord nbits w with
    | some i => placeSlot i
    | none => 32) (tableBytes (w % 2 ^ nbits) (max 4 (nbits / 8)))

end Sys2Proof.Machine
end

