-- ==== Sys2Proof/Safety.lean ====
section
/-!
DEFINITION. Safety.lean: the terms that claims are stated in: what a run must keep, and what statements say of an instruction's
effect and of all that it leaves unchanged.
-/
namespace Sys2Proof.Machine

/-- Memory and stash in their one canonical form: addresses strictly rising and no byte that an unlisted address reads as; the sets of
empty and of poisoned words strictly rising (R164, R446; log entry 2). -/
def State.memoryOk (s : State) : Bool :=
  s.mem.wf && s.stash.wf && s.empty.wf && s.poison.wf && s.stashEmpty.wf && s.stashPoison.wf

/-- The pod with the current thread replaced and nothing else changed. -/
def State.withMe (s : State) (t : Slot) : State := { s with slots := s.slots.set s.cur t }

/-- What an instruction of n bytes that writes one scalar register and ORs flags into sr.fsf leaves: the register's value, every other register
of the thread, every byte, and that nothing else changed but the program counter and loop levels, by R129. A destination g0 is discarded (R117). -/
structure Writes (s t : State) (d : BitVec 5) (v : Word) (f : BitVec 6) (n : Nat) : Prop where
  value : 8 ≤ d.toNat → t.rd d = v
  others : ∀ c : BitVec 5, c ≠ d ∨ d.toNat < 8 → t.rd c = s.rd c
  registers : ∀ p, (8 ≤ d.toNat → p ≠ s.me.phyOf (d.toNat - 8)) → t.me.phys.get 0 p = s.me.phys.get 0 p
  memory : ∀ a, t.mem.read a = s.mem.read a ∧ t.stash.read a = s.stash.read a
  rest : t = s.withMe { s.me.advance n with phys := t.me.phys, fsf := s.me.fsf ||| f }

/-- An instruction completes with one scalar register written. -/
def Gives (s : State) (i : Instr) (d : BitVec 5) (v : Word) : Prop := ∃ t, exec i s = .next t ∧ Writes s t d v 0 (ilen i)

/-- An instruction completes with one scalar register written and flags of sr.fsf set (R211). -/
def GivesF (s : State) (i : Instr) (d : BitVec 5) (r : Word × BitVec 6) : Prop := ∃ t, exec i s = .next t ∧ Writes s t d r.1 r.2 (ilen i)

/-- Flags that set no new bit of sr.fsf, or a job without a flag word: no AOR goes out (R211, R212). -/
def State.quiet (s : State) (f : BitVec 6) : Prop :=
  f &&& ~~~s.me.fsf = 0 ∨ ((s.die s.myPeer).jflaga.get 0 s.me.job.toNat).getLsbD 63 = false

/-- An instruction completes with its result as a reply on its way and its destination pending, and nothing else changed (R114, R115). -/
def Replies (s : State) (i : Instr) (d : BitVec 5) (r : Word × BitVec 6) : Prop :=
  exec i s = .next (s.withMe { (s.me.mark (s.me.destOf d) true).advance 4 with
    replies := s.me.replies ++ [{ dest := s.me.destOf d, value := r.1.setWidth 512, fsf := r.2 }] })

/-- An instruction completes with one flag written and nothing else changed (R261). -/
def GivesFlag (s : State) (i : Instr) (f : BitVec 3) (b : Bool) : Prop :=
  ∃ t, exec i s = .next t ∧ t.me.f f = b ∧ (∀ g, g ≠ f → t.me.f g = s.me.f g) ∧ t = s.withMe { s.me.advance 4 with flags := t.me.flags }

/-- A transfer taken by the current thread (R130, R275 to R277). -/
def Jumps (s : State) (i : Instr) (target : Word) : Prop :=
  exec i s = .next (s.withMe { s.me with
    pc := target, loops := branchLoops s.me.wdepth target s.me.loops, st := .run, hold := .none, waited := 0, issued := s.me.issued + 1 })

/-- An address that no thread may go to (R239). -/
def badAddr (t : Word) : Prop := t.toNat % 2 = 1 ∨ 2 ^ 63 ≤ t.toNat

/-- The current thread parks with a trap of a cause, address and detail at its instruction, which is not performed (R136, R137). -/
def Traps (s : State) (i : Instr) (cause : BitVec 8) (addr detail : Word) : Prop :=
  exec i s = .next (s.takeTrap s.cur { cause := cause, addr := addr, detail := detail } s.me.pc)

/-- The condition of a compare (R261). -/
def holds (c : BitVec 3) (x y : Word) : Prop :=
  match c.toNat with
  | 0 => x = y
  | 1 => x ≠ y
  | 2 => x.toInt < y.toInt
  | 3 => y.toInt ≤ x.toInt
  | 4 => x.toNat < y.toNat
  | 5 => y.toNat ≤ x.toNat
  | 6 => x &&& y ≠ 0
  | _ => x &&& y = 0

/-- An instruction completes with one vector register written lane by lane under a mask, with the flags of the enabled lanes (R211, R335); every other register and
everything else is as before but the program counter and loop levels. -/
def GivesV (s : State) (i : Instr) (d : BitVec 4) (m : BitVec 16) (f : Nat → BitVec 32 × BitVec 6) : Prop :=
  ∃ t, exec i s = .next t ∧ (∀ l, l < 16 → lane (t.me.v d.toNat) l = if m.getLsbD l then (f l).1 else lane (s.me.v d.toNat) l) ∧
    (∀ r, r ≠ d.toNat → t.me.v r = s.me.v r) ∧
    t = s.withMe { s.me.advance (ilen i) with
      vregs := t.me.vregs, fsf := s.me.fsf ||| (List.range 16).foldl (fun x l => if m.getLsbD l then x ||| (f l).2 else x) 0 }

/-- An instruction completes with one mask register written and nothing else changed (R117, R352). -/
def GivesK (s : State) (i : Instr) (d : BitVec 3) (v : BitVec 16) : Prop :=
  ∃ t, exec i s = .next t ∧ t.me.k d.toNat = v ∧ (∀ r, r ≠ d.toNat → t.me.k r = s.me.k r) ∧
    t = s.withMe { s.me.advance (ilen i) with kregs := t.me.kregs }

/-- The thread once a vector load has issued and performed in the same step: its vector on its way by a reply (R115, R348). -/
def Slot.endedV (t : Slot) (st : BitVec 2) (d : BitVec 4) (x : Vec) (lanes : BitVec 16) (fsf : BitVec 6) : Slot :=
  { ({ t with opId := t.opId + 1, streams := t.streams.set st.toNat { t.stream st.toNat with next := (t.stream st.toNat).next + 1 }, pendV := putBits t.pendV d.toNat (b1 true) } :
      Slot).advance 4 with replies := t.replies ++ [{ dest := .vec d.toNat, value := x, lanes := lanes, fsf := fsf, wakes := some t.opId }] }

/-! ### Operations on streams -/

/-- The current thread has no operation outstanding, and its core is of no lock-step pair. -/
def State.fresh (s : State) : Prop := s.me.ops = [] ∧ (s.core s.myCore).crew.bind.lockstep = false

/-- A local address names n bytes at an offset of the stash of a core of the quad (R147): aligned, in a region that is not bound, not poisoned. -/
def State.atStash (s : State) (va : Word) (n c off : Nat) : Prop :=
  localPlace s.myCore va = .stash c off ∧ va.toNat % n = 0 ∧ s.boundHere c off = none ∧ s.stashPoisoned c off n = false

/-- The thread after an operation of stream `st` has taken its number and performed (R182). -/
def Slot.took (t : Slot) (st : BitVec 2) : Slot :=
  { t with opId := t.opId + 1, streams := t.streams.set st.toNat { t.stream st.toNat with next := (t.stream st.toNat).next + 1 } }

/-- The reply that brings a value to a scalar register, and to a flag; a destination g0 without a flag needs none (R115). -/
def replyFor (t : Slot) (d : BitVec 5) (v : Word) (flag : Option (BitVec 3 × Bool)) (fsf : BitVec 6) : List Reply :=
  if d.toNat < 8 ∧ flag = none ∧ fsf = 0 then []
  else [{ dest := t.destOf d, value := v.setWidth 512, flag := flag.map fun f => (f.1, some f.2), fsf := fsf, wakes := some t.opId }]

/-- The thread once a stream operation has issued and performed in the same step (R114, R115, R182): its number taken, its result on its way by a
reply; a held thread with a result waits for that reply, any other goes on. -/
def Slot.ended (t : Slot) (st : BitVec 2) (d : BitVec 5) (v : Word) (flag : Option (BitVec 3 × Bool)) (fsf : BitVec 6) (held : Bool) : Slot :=
  let r := replyFor t d v flag fsf
  let u := ((t.took st).mark (t.destOf d) true).markF (flag.map (·.1)) true
  { (if held ∧ r ≠ [] then { u with st := .wait, hold := .localOp t.opId, issued := t.issued + 1, waited := 0 } else u.advance 4) with replies := t.replies ++ r }

/-- The thread once a stream operation has issued and is outstanding: it goes on, or is held as `hold` says (R114, R181). -/
def Slot.began (t : Slot) (st : BitVec 2) (d : BitVec 5) (flag : Option (BitVec 3)) (hold : Hold) (o : Op) : Slot :=
  let u := ((t.took st).mark (t.destOf d) true).markF flag true
  { (if hold = .none then u.advance 4 else { u with st := .wait, hold := hold, issued := t.issued + 1, waited := 0 }) with ops := [o] }

/-- An operation as the current thread issued it: the stream's number and scope, the mask, and how far it has come (R182, R184, R185). -/
def State.outstanding (s : State) (o : Op) (st : BitVec 2) (p : BitVec 4) (phase : Phase) : Prop :=
  o.id = s.me.opId ∧ o.stream = st ∧ o.seq = (s.me.stream st.toNat).next ∧ o.scope = (s.me.stream st.toNat).scope ∧ o.mask = p ∧ o.phase = phase

/-- No thread of the current core has an operation outstanding, the core is of no lock-step pair, no mailbox write is held there and its spill queue is empty. -/
def State.quietCore (s : State) : Prop :=
  s.fresh ∧ (∀ i, i < 8 → (s.slot (s.myCore * 8 + i)).ops = []) ∧ s.crew.heldWrites = [] ∧ (s.core s.myCore).spill = []

/-- The crew of the current core has been resumed and its spill queue still holds items (R94). -/
def State.behindSpill (s : State) : Prop := (s.core s.myCore).spill ≠ [] ∧ (s.core s.myCore).saved = none

/-- A channel packet of the current thread to a core of its own die, where it has arrived at the interface. -/
def State.sendsTask (s : State) (o : Op) (c : Nat) (fn : BitVec 4) (size : Nat) (w : Word) : State :=
  { s with net := s.net ++ [{ pkt := { opPacket s.cur s.me.job o 0 0x07 s.myPeer (c % 1024) size with fn := fn, operand := w }, loc := .arrived s.myPeer }] }

/-- A packet of the current thread's operation `o` (R33). -/
def State.packetOf (s : State) (o : Op) (lane : Nat) (type : BitVec 8) (dst off size : Nat) : Pkt := opPacket s.cur s.me.job o lane type dst off size

/-- The TLBs of the current core hold the translation of a global address (R153). -/
def State.known (s : State) (va : Word) (l : Leaf) : Prop := va.toNat < 2 ^ 57 ∧ s.tlbFind s.myCore s.me.job va = some l

/-- The current thread may not be refused at a physical address (R40), which lies at another die or at its own. -/
def State.reaches (s : State) (pa : Nat) : Prop := s.accessRefused s.cur pa = none ∧ s.myPeer < 2 ^ 13

/-- A packet sent by the current thread's die: at its own die it has arrived, else it starts at the interface. -/
def State.sends (s : State) (k : Pkt) : State := { s with net := s.net ++ [{ pkt := k, loc := if k.dst.toNat = s.myPeer then .arrived s.myPeer else .source s.myPeer }] }

/-- An operation of a thread that stands in no trap frame and in no lock-step pair has not performed, and its result goes to a register. -/
def State.awaits (s : State) (k : Nat) (o : Op) : Prop :=
  (s.slot k).ops.any (·.id == o.id) = true ∧ (s.slot k).st ≠ .park ∧ (s.slot k).st ≠ .frozen ∧ (s.core (coreOf k)).crew.bind.lockstep = false ∧ o.flag = none ∧
    ∃ r, o.dest = .reg r

/-- The thread once an operation of its has performed with a value: its result is on its way by a reply (R115). -/
def Slot.answered (t : Slot) (o : Op) (v : Word) (fsf : BitVec 6) : Slot :=
  { t with ops := t.ops.filter (·.id != o.id), replies := t.replies ++ [{ dest := o.dest, value := v.setWidth 512, fsf := fsf, wakes := some o.id }] }

/-- The quads of a state but for the order of issue of the full/empty operations that wait there (R295). -/
def State.sameQuads (s t : State) : Prop := ∀ q, t.quad q = { s.quad q with feOrder := (t.quad q).feOrder }

/-- What an access of n bytes at a stash leaves: the bytes, the full/empty bit, the thread as given, and nothing else changed; a full/empty operation takes a place in
its quad's order of issue (R295). -/
structure StashChange (s t : State) (c off n : Nat) (v : BitVec (8 * n)) (full : Bool) (me : Slot) (fe : Bool := false) : Prop where
  value : s.memoryOk = true → t.stashRead c off n = v
  bytes : ∀ k, k < stashKey c off ∨ stashKey c off + n ≤ k → t.stash.read k = s.stash.read k
  bit : t.stashFull c off = full
  bits : ∀ k, k ≠ stashKey c (off / 8 * 8) → t.stashEmpty.mem k = s.stashEmpty.mem k
  quads : if fe then s.sameQuads t else t.quads = s.quads
  rest : t = { s with stash := t.stash, stashEmpty := t.stashEmpty, quads := t.quads, slots := s.slots.set s.cur me }

end Sys2Proof.Machine
end

