-- ==== Sys2Proof/Certificates/Slice0/Obligations.lean ====
section
/-!
DEFINITION. Obligations.lean: what is claimed of the machine, from the rules of the manual. A statement about an instruction is about the state's current thread
(`cur`), whatever else the pod does; an event's statement is about the argument that the event reads (log entries 3 and 6).
-/
open Sys2Proof Sys2Proof.Machine

/-- Integer register and immediate instructions (R117, R129, R257 to R259, R264 to R268): with no operand pending and a destination that is g0 or a window register, each
goes on with the value of its row in rd (none in g0), every other register, every byte and everything else as before but the program counter and loop levels. CLZ counts
the zero bits above the highest set bit, POPC the set bits. -/
def Obligations.IntegerResults : Prop :=
  (∀ (s : State) (d a b : BitVec 5), okD d = true → s.me.busy { regs := [d, a, b] } = false →
      let x := s.rd a
      let y := s.rd b
      let n := y.toNat % 64
      Gives s (.add d a b) d (x + y) ∧
      Gives s (.sub d a b) d (x - y) ∧
      Gives s (.mul d a b) d (x * y) ∧
      Gives s (.mulh d a b) d (BitVec.ofInt 64 (x.toInt * y.toInt / 2 ^ 64)) ∧
      Gives s (.mulhn d a b) d (BitVec.ofNat 64 (x.toNat * y.toNat / 2 ^ 64)) ∧
      Gives s (.and d a b) d (x &&& y) ∧
      Gives s (.or d a b) d (x ||| y) ∧
      Gives s (.xor d a b) d (x ^^^ y) ∧
      Gives s (.andn d a b) d (x &&& ~~~y) ∧
      Gives s (.shl d a b) d (BitVec.ofNat 64 (x.toNat * 2 ^ n)) ∧
      Gives s (.shr d a b) d (BitVec.ofNat 64 (x.toNat / 2 ^ n)) ∧
      Gives s (.sra d a b) d (BitVec.ofInt 64 (x.toInt / 2 ^ n)) ∧
      Gives s (.rol d a b) d (x <<< n ||| x >>> (64 - n)) ∧
      Gives s (.min d a b) d (if x.toInt ≤ y.toInt then x else y) ∧
      Gives s (.max d a b) d (if x.toInt ≤ y.toInt then y else x) ∧
      Gives s (.minn d a b) d (if x.toNat ≤ y.toNat then x else y) ∧
      Gives s (.maxn d a b) d (if x.toNat ≤ y.toNat then y else x)) ∧
  (∀ (s : State) (d a : BitVec 5), okD d = true → s.me.busy { regs := [d, a] } = false →
      let x := s.rd a
      (∃ n : Nat, n ≤ 64 ∧ (∀ i, i < 64 → 64 ≤ i + n → x.getLsbD i = false) ∧ (n < 64 → x.getLsbD (63 - n) = true) ∧
        Gives s (.clz d a) d (BitVec.ofNat 64 n)) ∧
      Gives s (.popc d a) d (BitVec.ofNat 64 ((List.range 64).filter fun i => x.getLsbD i).length) ∧
      Gives s (.sext d a 0) d ((x.setWidth 8).signExtend 64) ∧
      Gives s (.sext d a 1) d ((x.setWidth 16).signExtend 64) ∧
      Gives s (.sext d a 2) d ((x.setWidth 32).signExtend 64) ∧
      Gives s (.zext d a 0) d (x &&& 0xFF) ∧
      Gives s (.zext d a 1) d (x &&& 0xFFFF) ∧
      Gives s (.zext d a 2) d (x &&& 0xFFFF_FFFF)) ∧
  (∀ (s : State) (d a : BitVec 5) (i : BitVec 15) (n : BitVec 6) (j : BitVec 20), okD d = true → s.me.busy { regs := [d, a] } = false →
      let x := s.rd a
      let y := i.signExtend 64
      Gives s (.addi d a i) d (x + y) ∧
      Gives s (.andi d a i) d (x &&& y) ∧
      Gives s (.ori d a i) d (x ||| y) ∧
      Gives s (.xori d a i) d (x ^^^ y) ∧
      Gives s (.shli d a n) d (BitVec.ofNat 64 (x.toNat * 2 ^ n.toNat)) ∧
      Gives s (.shri d a n) d (BitVec.ofNat 64 (x.toNat / 2 ^ n.toNat)) ∧
      Gives s (.srai d a n) d (BitVec.ofInt 64 (x.toInt / 2 ^ n.toNat)) ∧
      Gives s (.roli d a n) d (x <<< n.toNat ||| x >>> (64 - n.toNat)) ∧
      Gives s (.li d j) d (j.signExtend 64) ∧
      Gives s (.lui d j) d (j.signExtend 44 ++ (s.rd d).setWidth 20) ∧
      Gives s (.ltop d j) d (j.signExtend 24 ++ (s.rd d).setWidth 40))

/-- Divisions (R114, R115, R260): each goes on with rd pending and its result on its way by a reply: quotient rounded toward zero, remainder with the dividend's sign,
unsigned for DIVN and REMN; for a divisor 0, all ones or the dividend, with dz. -/
def Obligations.DivisionReplies : Prop :=
  ∀ (s : State) (d a b : BitVec 5), okD d = true → s.me.busy { regs := [d, a, b] } = false →
    let x := s.rd a
    let y := s.rd b
    (y = 0 →
      Replies s (.div d a b) d (0xFFFF_FFFF_FFFF_FFFF, fDz) ∧ Replies s (.divn d a b) d (0xFFFF_FFFF_FFFF_FFFF, fDz) ∧
      Replies s (.rem d a b) d (x, fDz) ∧ Replies s (.remn d a b) d (x, fDz)) ∧
    (y ≠ 0 →
      Replies s (.div d a b) d (BitVec.ofInt 64 (x.toInt.tdiv y.toInt), 0) ∧ Replies s (.divn d a b) d (BitVec.ofNat 64 (x.toNat / y.toNat), 0) ∧
      Replies s (.rem d a b) d (BitVec.ofInt 64 (x.toInt.tmod y.toInt), 0) ∧ Replies s (.remn d a b) d (BitVec.ofNat 64 (x.toNat % y.toNat), 0))

/-- CMP, CMPI and SEL (R261 to R263): CMP and CMPI write their flag from the comparison, alone or combined with the old flag, and nothing else; SEL has fn = 32 + N and
writes ra where its flag is 1, else rb. -/
def Obligations.CompareAndSelect : Prop :=
  ∀ (s : State) (f : BitVec 3) (a b d : BitVec 5) (c : BitVec 3) (i : BitVec 12) (v : Bool),
    (s.me.busy { regs := [a, b], flags := [f] } = false → (v = true ↔ holds c (s.rd a) (s.rd b)) →
      GivesFlag s (.cmp 0 f a b c) f v ∧ GivesFlag s (.cmp 1 f a b c) f (s.me.f f && v) ∧
      GivesFlag s (.cmp 2 f a b c) f (s.me.f f || v) ∧ GivesFlag s (.cmp 3 f a b c) f (s.me.f f && !v)) ∧
    (s.me.busy { regs := [a], flags := [f] } = false → (v = true ↔ holds c (s.rd a) (i.signExtend 64)) →
      GivesFlag s (.cmpi 0 f a c i) f v ∧ GivesFlag s (.cmpi 1 f a c i) f (s.me.f f && v) ∧
      GivesFlag s (.cmpi 2 f a c i) f (s.me.f f || v) ∧ GivesFlag s (.cmpi 3 f a c i) f (s.me.f f && !v)) ∧
    (bits (encode (.sel d a b f)) 7 10 : BitVec 10) = 32 + f.setWidth 10 ∧
    (okD d = true → s.me.busy { regs := [d, a, b], flags := [f] } = false → Gives s (.sel d a b f) d (if s.me.f f then s.rd a else s.rd b))

/-- Scalar floating point (R207, R211, R269 to R274): with no operand pending, and with no AOR to send for a flag newly set, each precision's result and flags by one
rounding of sr.fcr; FDIV and FSQRT by a reply; FMIN, FMAX, FABS, FNEG and FCLASS with no flag; FCMP writes its flag, alone or combined, an unordered pair holding only for
ne and un, no flag of sr.fsf set. -/
def Obligations.FloatResults : Prop :=
  (∀ (s : State) (d a b : BitVec 5) (p : BitVec 2), okD d = true → s.me.busy { regs := [d, a, b] } = false → (∀ g, s.quiet g) →
      let f := fmtOf p
      let r := rndOf s.me.fcr
      let x := f.unpack (s.rd a)
      let y := f.unpack (s.rd b)
      GivesF s (.fadd d a b p) d (f.finish r (x.add r y)) ∧
      GivesF s (.fsub d a b p) d (f.finish r (x.add r y.neg)) ∧
      GivesF s (.fmul d a b p) d (f.finish r (x.mul y)) ∧
      GivesF s (.ffma d a b p) d (f.finish r (x.fma r y (f.unpack (s.rd d)))) ∧
      Replies s (.fdiv d a b p) d (f.finish r (x.div (f.fb + 3) y)) ∧
      Replies s (.fsqrt d a p) d (f.finish r (x.sqrt (f.fb + 3))) ∧
      Gives s (.fmin d a b p) d (f.exact (if x.isNan then y else if y.isNan then x else if x.lt y || (x.eq y && x.sign) then x else y)) ∧
      Gives s (.fmax d a b p) d (f.exact (if x.isNan then y else if y.isNan then x else if y.lt x || (x.eq y && !x.sign) then x else y)) ∧
      Gives s (.fabs d a p) d (f.exact x.abs) ∧
      Gives s (.fneg d a p) d (f.exact x.neg) ∧
      Gives s (.fclass d a p) d (f.classOf (s.rd a)) ∧
      GivesF s (.frnd d a p) d (f.rnd r (s.rd a)) ∧
      (∀ c : BitVec 3, okCvt c p = true → GivesF s (.fcvt d a c p) d (f.round r (if c = 4 then ofInt (s.rd a).toInt else if c = 5 then ofInt (s.rd a).toNat
        else (fmtOf (c.setWidth 2)).unpack (s.rd a)))) ∧
      GivesF s (.ftoi d a 0 p) d (BitVec.ofInt 64 (toInt r (-2 ^ 63) (2 ^ 63 - 1) x).1, (toInt r (-2 ^ 63) (2 ^ 63 - 1) x).2) ∧
      GivesF s (.ftoi d a 1 p) d (BitVec.ofInt 64 (toInt r 0 (2 ^ 64 - 1) x).1, (toInt r 0 (2 ^ 64 - 1) x).2)) ∧
  (∀ (s : State) (f : BitVec 3) (a b : BitVec 5) (p : BitVec 2) (c : BitVec 3), s.me.busy { regs := [a, b], flags := [f] } = false →
      let x := (fmtOf p).unpack (s.rd a)
      let y := (fmtOf p).unpack (s.rd b)
      let v : Bool := if x.isNan || y.isNan then c == 1 || c == 6
        else match c.toNat with
          | 0 => x.eq y
          | 1 => !x.eq y
          | 2 => x.lt y
          | 3 => x.lt y || x.eq y
          | 4 => y.lt x
          | 5 => y.lt x || x.eq y
          | 6 => false
          | _ => true
      GivesFlag s (.fcmp 0 f a b p c) f v ∧ GivesFlag s (.fcmp 1 f a b p c) f (s.me.f f && v) ∧
      GivesFlag s (.fcmp 2 f a b p c) f (s.me.f f || v) ∧ GivesFlag s (.fcmp 3 f a b p c) f (s.me.f f && !v))

/-- BT, BF, BR and JMPR (R130, R239, R275 to R278): a taken transfer goes to its target and pops loop levels, one not taken goes on; a target with bit 0 or bit 63 set, of
BC, BR, CALL, CALLR, JMPR or RET, takes the misalignment trap at the transfer, which is not performed. -/
def Obligations.Branches : Prop :=
  ∀ (s : State) (f : BitVec 3) (o : BitVec 21) (p : BitVec 25) (a : BitVec 5),
    let near := s.me.pc + BitVec.ofInt 64 (2 * o.toInt)
    let far := s.me.pc + BitVec.ofInt 64 (2 * p.toInt)
    let to' := s.rd a
    let link := s.me.links.get 0 s.me.wdepth.toNat
    (s.me.busy { flags := [f] } = false →
      (s.me.f f = true → ¬badAddr near → Jumps s (.bt f o) near) ∧ (s.me.f f = true → badAddr near → Traps s (.bt f o) 0x05 near 0) ∧
      (s.me.f f = false → exec (.bt f o) s = .next (s.withMe (s.me.advance 4))) ∧
      (s.me.f f = false → ¬badAddr near → Jumps s (.bf f o) near) ∧ (s.me.f f = false → badAddr near → Traps s (.bf f o) 0x05 near 0) ∧
      (s.me.f f = true → exec (.bf f o) s = .next (s.withMe (s.me.advance 4)))) ∧
    (s.me.busy {} = false → (¬badAddr far → Jumps s (.br p) far) ∧ (badAddr far → Traps s (.br p) 0x05 far 0)) ∧
    (s.me.busy { regs := [a] } = false → (¬badAddr to' → Jumps s (.jmpr a) to') ∧ (badAddr to' → Traps s (.jmpr a) 0x05 to' 0 ∧ Traps s (.callr a) 0x05 to' 0)) ∧
    (s.me.busy {} = false → (badAddr far → Traps s (.callInsn p) 0x05 far 0) ∧ (s.me.wdepth ≠ 0 → badAddr link → Traps s .ret 0x05 link 0))

/-- Loops (R128 to R130, R279): the loop unit after a sequential instruction; LOOP takes min(ra, 0xFFFF_FFFF) passes, LOOPI its count; a count of 0 goes to E and pushes
no level, another count pushes a level or, with both active, takes the loop-depth trap; a length of 0 is illegal. -/
def Obligations.Loops : Prop :=
  ((∀ wd nxt, loopStep wd nxt [] = (nxt, [])) ∧
    (∀ wd nxt (o : Loop), (o.depth ≠ wd ∨ o.stop ≠ nxt → loopStep wd nxt [o] = (nxt, [o])) ∧
      (o.depth = wd → o.stop = nxt → 1 < o.count.toNat → loopStep wd nxt [o] = (o.start, [{ o with count := o.count - 1 }])) ∧
      (o.depth = wd → o.stop = nxt → o.count.toNat ≤ 1 → loopStep wd nxt [o] = (nxt, []))) ∧
    (∀ wd nxt (o i : Loop), (i.depth ≠ wd ∨ i.stop ≠ nxt → loopStep wd nxt [o, i] = (nxt, [o, i])) ∧
      (i.depth = wd → i.stop = nxt → 1 < i.count.toNat → loopStep wd nxt [o, i] = (i.start, [o, { i with count := i.count - 1 }])) ∧
      (i.depth = wd → i.stop = nxt → i.count.toNat ≤ 1 → loopStep wd nxt [o, i] = loopStep wd nxt [o]))) ∧
  (∀ (s : State) (a : BitVec 5) (l : BitVec 15) (c m : BitVec 10),
      let nxt := s.me.pc + 4
      let level := fun (n : Nat) (len : Nat) => ({ start := nxt, stop := nxt + BitVec.ofNat 64 (2 * len), count := BitVec.ofNat 64 n, depth := s.me.wdepth } : Loop)
      let skips := fun (len : Nat) => ({ s.me with pc := nxt + BitVec.ofNat 64 (2 * len), st := .run, hold := .none, waited := 0, issued := s.me.issued + 1 } : Slot)
      let enters := fun (n len : Nat) => ({ s.me with loops := s.me.loops ++ [level n len] } : Slot).advance 4
      (l ≠ 0 → s.me.busy { regs := [a] } = false →
        let n := min (s.rd a).toNat 0xFFFF_FFFF
        (n = 0 → exec (.loop a l) s = .next (s.withMe (skips l.toNat))) ∧
        (n ≠ 0 → s.me.loops.length < 2 → exec (.loop a l) s = .next (s.withMe (enters n l.toNat))) ∧
        (n ≠ 0 → 2 ≤ s.me.loops.length → Traps s (.loop a l) 0x04 0 0)) ∧
      (m ≠ 0 → s.me.busy {} = false →
        (c = 0 → exec (.loopi c m) s = .next (s.withMe (skips m.toNat))) ∧
        (c ≠ 0 → s.me.loops.length < 2 → exec (.loopi c m) s = .next (s.withMe (enters c.toNat m.toNat))) ∧
        (c ≠ 0 → 2 ≤ s.me.loops.length → Traps s (.loopi c m) 0x04 0 0)) ∧
      Traps s (.loop a 0) 0x01 0 (zx (encode (.loop a 0))) ∧ Traps s (.loopi c 0) 0x01 0 (zx (encode (.loopi c 0))))

/-- CALL, CALLR and RET without spill or fill (R118 to R121, R277): the new frame shares eight registers with its caller, its other sixteen are 0, the link is the address
after the call; depth 65,535 takes the window trap; RET goes back to the link and the caller's registers; RET from depth 0 takes the illegal-instruction trap. -/
def Obligations.CallsAndReturns : Prop :=
  ∀ (s : State) (p : BitVec 25) (a : BitVec 5),
    let far := s.me.pc + BitVec.ofInt 64 (2 * p.toInt)
    let ok := fun t : Word => t.toNat % 2 = 0 ∧ t.toNat < 2 ^ 63
    let fresh := fun (t : State) (target : Word) =>
      (∀ i, i < 8 → t.me.w i = s.me.w (16 + i)) ∧ (∀ i, 8 ≤ i → i < 24 → t.me.w i = 0) ∧
      (∀ q, (∀ i, 8 ≤ i → i < 24 → q ≠ t.me.phyOf i) → t.me.phys.get 0 q = s.me.phys.get 0 q) ∧
      t = s.withMe { s.me with
        phys := t.me.phys, links := s.me.links.set (s.me.wdepth + 1).toNat (s.me.pc + 4), wdepth := s.me.wdepth + 1, resident := s.me.resident + 1,
        pc := target, st := .run, hold := .none, waited := 0, issued := s.me.issued + 1 }
    (s.me.busy {} = false → s.me.wdepth ≠ 65535 → s.me.resident ≠ 7 → s.me.pendW = 0 →
      (ok far → ∃ t, exec (.callInsn p) s = .next t ∧ fresh t far) ∧ (ok (s.rd a) → ∃ t, exec (.callr a) s = .next t ∧ fresh t (s.rd a))) ∧
    (s.me.busy {} = false → s.me.wdepth = 65535 → s.me.pendW = 0 → (ok far → Traps s (.callInsn p) 0x03 0 0) ∧ (ok (s.rd a) → Traps s (.callr a) 0x03 0 0)) ∧
    (s.me.busy {} = false → s.me.wdepth ≠ 0 → s.me.resident ≠ 1 → ok (s.me.links.get 0 s.me.wdepth.toNat) → ∃ t, exec .ret s = .next t ∧
      (∀ i, i < 8 → t.me.w (16 + i) = s.me.w i) ∧
      t = s.withMe { s.me with
        wdepth := s.me.wdepth - 1, resident := s.me.resident - 1, pc := s.me.links.get 0 s.me.wdepth.toNat,
        loops := s.me.loops.filter fun l => l.depth.toNat ≤ (s.me.wdepth - 1).toNat, st := .run, hold := .none, waited := 0, issued := s.me.issued + 1 }) ∧
    (s.me.busy {} = false → s.me.wdepth = 0 → Traps s .ret 0x01 0 (zx (encode .ret)))

/-- Spill and fill (R119 to R121): a call with seven frames resident and no register of the oldest pending stores that frame's link and sixteen registers below the spill
pointer, here in a plain region of the own stash, changes no other byte, and enters the new frame; a RET of the only resident frame fills the caller's from the spill
pointer and stores nothing. -/
def Obligations.CallSpills : Prop :=
  (∀ (s : State) (p : BitVec 25) (off : Nat),
      let target := s.me.pc + BitVec.ofInt 64 (2 * p.toInt)
      let e := s.me.wdepth.toNat - 6
      ¬badAddr target → s.me.wdepth ≠ 65535 → 6 ≤ s.me.wdepth.toNat → s.me.resident = 7 → s.me.pendW = 0 → s.me.ops = [] → s.memoryOk = true → s.stashPoison = [] →
      (s.core s.myCore).crew.bind.lockstep = false → s.me.ssp = 0x8000_0000_0000_0000 + BitVec.ofNat 64 (off + 136) → off % 8 = 0 → off + 136 ≤ 0x4_0000 →
      (∀ i, i < 17 → s.boundHere s.myCore (off + 8 * i) = none) →
      ∃ t, exec (.callInsn p) s = .next t ∧ t.me.ssp = s.me.ssp - 136 ∧ t.me.resident = 7 ∧ t.me.wdepth = s.me.wdepth + 1 ∧ t.me.pc = target ∧
        t.me.links.get 0 (s.me.wdepth.toNat + 1) = s.me.pc + 4 ∧
        t.stashRead s.myCore off 8 = s.me.links.get 0 e ∧
        (∀ i, i < 16 → t.stashRead s.myCore (off + 8 + 8 * i) 8 = s.me.phys.get 0 ((16 * e + i) % 120)) ∧
        (∀ i, i < 8 → t.me.w i = s.me.w (16 + i)) ∧ (∀ i, 8 ≤ i → i < 24 → t.me.w i = 0) ∧
        (∀ k, k < stashKey s.myCore off ∨ stashKey s.myCore off + 136 ≤ k → t.stash.read k = s.stash.read k) ∧
        t = { s with stash := t.stash, slots := s.slots.set s.cur t.me }) ∧
  (∀ (s : State) (off : Nat),
      let target := s.me.links.get 0 s.me.wdepth.toNat
      let e := s.me.wdepth.toNat - 1
      s.me.wdepth ≠ 0 → ¬badAddr target → s.me.resident = 1 → s.me.pendW = 0 → s.me.ops = [] → s.stashPoison = [] → s.me.ssp = 0x8000_0000_0000_0000 + BitVec.ofNat 64 off → off % 8 = 0 → off + 136 ≤ 0x4_0000 →
      (∀ i, i < 17 → s.boundHere s.myCore (off + 8 * i) = none) →
      ∃ t, exec .ret s = .next t ∧ t.me.ssp = s.me.ssp + 136 ∧ t.me.resident = 1 ∧ t.me.wdepth = s.me.wdepth - 1 ∧ t.me.pc = target ∧
        t.me.links.get 0 e = s.stashRead s.myCore off 8 ∧
        (∀ i, i < 16 → t.me.phys.get 0 ((16 * e + i) % 120) = s.stashRead s.myCore (off + 8 + 8 * i) 8) ∧
        (∀ q, (∀ i, i < 16 → q ≠ (16 * e + i) % 120) → t.me.phys.get 0 q = s.me.phys.get 0 q) ∧ t = s.withMe t.me)

/-- MFS (R123, R183, R253, R255, R280): the value of every special register of a thread, as it stands when the MFS issues. -/
def Obligations.SpecialRegisterReads : Prop :=
  ∀ (s : State) (d : BitVec 5), okD d = true → s.me.busy { regs := [d], flags := allFlags } = false →
    let t := s.me
    let x := s.crew
    let gives := fun (n : BitVec 12) (v : Word) => Gives s (.mfs d n) d v
    let count := fun (i : Nat) => match t.loops[i]? with
      | some l => l.count
      | none => 0
    gives 0x000 (BitVec.ofNat 64 (s.cur % 8)) ∧ gives 0x001 (BitVec.ofNat 64 (s.myCore % 4)) ∧ gives 0x002 (BitVec.ofNat 64 (s.myQuad % 256)) ∧
    gives 0x003 (BitVec.ofNat 64 (s.myPeer % 4)) ∧ gives 0x004 ((s.pkg (s.myPeer / 4)).pkgid.setWidth 64) ∧ gives 0x005 (t.job.setWidth 64) ∧
    gives 0x006 (t.par.parcel.setWidth 64) ∧ gives 0x008 t.par.org0 ∧ gives 0x009 t.par.org1 ∧ gives 0x00A t.par.org2 ∧
    gives 0x00C t.par.len0 ∧ gives 0x00D t.par.len1 ∧ gives 0x00E t.par.len2 ∧
    gives 0x040 (t.fcr.setWidth 64) ∧ gives 0x041 (t.fsf.setWidth 64) ∧ gives 0x042 (t.wto.setWidth 64) ∧ gives 0x043 t.ssp ∧
    gives 0x044 ((t.resident ++ t.wdepth).setWidth 64) ∧ gives 0x045 (t.flags.setWidth 64) ∧ gives 0x046 (count 0) ∧ gives 0x047 (count 1) ∧
    gives 0x048 (s.core s.myCore).cycle ∧
    (∀ i : Nat, i < 4 →
      gives (BitVec.ofNat 12 (0x80 + 4 * i)) ((t.stream i).scope.setWidth 64) ∧ gives (BitVec.ofNat 12 (0x81 + 4 * i)) ((t.stream i).next.setWidth 64) ∧
      gives (BitVec.ofNat 12 (0x82 + 4 * i)) ((t.front i).setWidth 64) ∧
      gives (BitVec.ofNat 12 (0x83 + 4 * i)) (BitVec.ofNat 64 (t.window i % 128 + 128 * (if t.ops.any (fun o => o.stream.toNat == i && o.phase == .parked) then 1 else 0) + 256 * (t.windows % 256))) ∧
      gives (BitVec.ofNat 12 (0x100 + i)) (x.channels.get {} i).cpwp) ∧
    gives 0x0C0 (x.mbFull.setWidth 64) ∧
    gives 0x0C1 ((x.sems.get 0 7) ++ (x.sems.get 0 6) ++ (x.sems.get 0 5) ++ (x.sems.get 0 4) ++ (x.sems.get 0 3) ++ (x.sems.get 0 2) ++ (x.sems.get 0 1) ++ (x.sems.get 0 0)) ∧
    gives 0x140 (let j := (s.die s.myPeer).jfmt.get 0 t.job.toNat; if j.getLsbD 63 then j &&& 0x01FF_FFFF_FFFF_FE00 else 0) ∧
    gives 0x180 t.droop ∧ gives 0x181 t.issued ∧ gives 0x182 t.waits ∧
    (∀ n : BitVec 12, 0x300 ≤ n.toNat → Traps s (.mfs d n) 0x01 0 ((encode (.mfs d n)).setWidth 64))

/-- MTS and the privileged registers (R123, R135, R150, R184, R199, R210, R251, R253 to R255, R279, R280): MTS writes the writable special registers of a thread; a
must-be-zero bit or a register that no thread writes is illegal; the privileged registers are read and written by the supervisor core, and anywhere else the access is
illegal. That a must-be-zero bit of the job registers traps is the model's reading (log entry 21). -/
def Obligations.SpecialRegisterWrites : Prop :=
  (∀ (s : State) (a : BitVec 5), s.me.busy { regs := [a], flags := allFlags } = false →
      let v := s.rd a
      let leaves := fun (n : BitVec 12) (t : Slot) => exec (.mts a n) s = .next (s.withMe (t.advance 4))
      let illegal := fun (n : BitVec 12) => Traps s (.mts a n) 0x01 0 ((encode (.mts a n)).setWidth 64)
      let counted := fun (i : Nat) => ({ s.me with loops := s.me.loops.modify i fun l => { l with count := BitVec.ofNat 64 (max 1 (v.toNat % 2 ^ 32)) } } : Slot)
      (v.toNat < 4 → leaves 0x040 { s.me with fcr := v.setWidth 2 }) ∧ (4 ≤ v.toNat → illegal 0x040) ∧
      (v.toNat < 64 → s.quiet (v.setWidth 6) → leaves 0x041 { s.me with fsf := v.setWidth 6 }) ∧ (64 ≤ v.toNat → illegal 0x041) ∧
      leaves 0x042 { s.me with wto := v.setWidth 40 } ∧
      (v.toNat % 8 = 0 → leaves 0x043 { s.me with ssp := v }) ∧ (v.toNat % 8 ≠ 0 → Traps s (.mts a 0x043) 0x05 v 0) ∧
      leaves 0x045 { s.me with flags := v.setWidth 8 } ∧ leaves 0x046 (counted 0) ∧ leaves 0x047 (counted 1) ∧
      (∀ i : Nat, i < 4 →
        let n := BitVec.ofNat 12 (0x80 + 4 * i)
        let st := BitVec.ofNat 2 i
        (6 ≤ v.toNat → illegal n) ∧
        (v.toNat < 6 → s.me.window i = 0 → leaves n { s.me with streams := s.me.streams.set i { s.me.stream i with scope := v.setWidth 3 } }) ∧
        (v.toNat < 6 → s.me.window i ≠ 0 → exec (.mts a n) s = .next (s.withMe { s.me with st := .wait, hold := .scope st (v.setWidth 3), waited := 0 }))) ∧
      illegal 0x000 ∧ illegal 0x005 ∧ illegal 0x044 ∧ illegal 0x048 ∧ illegal 0x081 ∧ illegal 0x082 ∧ illegal 0x083 ∧ illegal 0x0C0 ∧ illegal 0x100 ∧ illegal 0x140 ∧ illegal 0x181) ∧
  (∀ (s : State) (d a : BitVec 5), okD d = true → s.me.busy { regs := [d, a] } = false →
      let v := s.rd a
      let j := s.me.jsel.toNat
      let x := s.die s.myPeer
      let die := fun (n : BitVec 12) (f : Die → Die) => exec (.mts a n) s = .next ((s.modDie s.myPeer f).withMe (s.me.advance 4))
      let i := s.me.ptsel.toNat % 2 ^ 32
      let id := s.me.ptsel.toNat / 2 ^ 56
      (s.isSup s.myCore = false → ∀ n : BitVec 12, 0x200 ≤ n.toNat →
        Traps s (.mfs d n) 0x01 0 ((encode (.mfs d n)).setWidth 64) ∧ Traps s (.mts a n) 0x01 0 ((encode (.mts a n)).setWidth 64)) ∧
      (s.isSup s.myCore = true →
        Gives s (.mfs d 0x200) d s.me.jsel ∧ Gives s (.mfs d 0x201) d (x.jroot.get 0 j) ∧ Gives s (.mfs d 0x202) d (x.jfmt.get 0 j) ∧
        Gives s (.mfs d 0x203) d (x.jflaga.get 0 j) ∧ Gives s (.mfs d 0x204) d (x.jsave.get 0 j) ∧ Gives s (.mfs d 0x210) d x.supcore ∧
        Gives s (.mfs d 0x211) d x.prbase ∧ Gives s (.mfs d 0x212) d x.tmbase ∧ Gives s (.mfs d 0x213) d x.tmcnt ∧ Gives s (.mfs d 0x214) d x.tmrd ∧
        Gives s (.mfs d 0x220) d s.me.ptsel ∧
        (id = 0 → i < 8192 → Gives s (.mfs d 0x221) d ((x.peerState.get 0 i).setWidth 64) ∧
          (v.toNat < 4 → die 0x221 fun y => { y with peerState := y.peerState.set i (v.setWidth 2) })) ∧
        (id = 1 → i < 4096 → Gives s (.mfs d 0x221) d ((x.jobPart.get 0 i).setWidth 64) ∧
          (v.toNat < 16 → die 0x221 fun y => { y with jobPart := y.jobPart.set i (v.setWidth 4) })) ∧
        (id = 2 → i < 2048 → Gives s (.mfs d 0x221) d (x.partMap.get 0 i) ∧ die 0x221 fun y => { y with partMap := y.partMap.set i v }) ∧
        (id = 7 → i < 32 → Gives s (.mfs d 0x221) d ((x.owners.get 0 i).setWidth 64) ∧
          (v.toNat < 2 ^ 13 → die 0x221 fun y => { y with owners := y.owners.set i (v.setWidth 13) })) ∧
        (8 ≤ id → Traps s (.mfs d 0x221) 0x01 0 ((encode (.mfs d 0x221)).setWidth 64)) ∧
        (v.toNat < 4096 → exec (.mts a 0x200) s = .next (s.withMe ({ s.me with jsel := v }.advance 4))) ∧
        (4096 ≤ v.toNat → Traps s (.mts a 0x200) 0x01 0 ((encode (.mts a 0x200)).setWidth 64)) ∧
        (v &&& ~~~0x01FF_FFFF_FFFF_F001 = 0 → die 0x201 fun y => { y with jroot := y.jroot.set j v }) ∧
        (v &&& ~~~0x81FF_FFFF_FFFF_FE00 = 0 → die 0x202 fun y => { y with jfmt := y.jfmt.set j v }) ∧
        (v &&& ~~~0x81FF_FFFF_FFFF_FFF8 = 0 → die 0x203 fun y => { y with jflaga := y.jflaga.set j v }) ∧
        (v &&& ~~~0x8000_0FFF_FFFF_0000 = 0 → die 0x204 fun y => { y with jsave := y.jsave.set j v }) ∧
        die 0x211 (fun y => { y with prbase := v }) ∧
        (v &&& ~~~0x0000_001F_FFFF_FFC0 = 0 → die 0x212 fun y => { y with tmbase := v }) ∧
        (v &&& 0x00FF_FFFF_0000_0000 = 0 → exec (.mts a 0x220) s = .next (s.withMe ({ s.me with ptsel := v }.advance 4)))))

/-- TRAP, BKPT and HALT park the thread after their instruction, HALT once the four windows are 0; an encoding of no instruction parks it there; NOP goes on and changes
nothing else (R136, R256, R281). -/
def Obligations.TrapInstructions : Prop :=
  (∀ (s : State) (c : BitVec 12) (w : BitVec 32),
      let next := s.withMe (s.me.advance 4)
      let parks := fun (i : Instr) (cause : BitVec 8) (detail : Word) =>
        exec i s = .next (next.takeTrap s.cur { cause := cause, detail := detail } (s.me.advance 4).pc)
      (s.me.busy {} = false → parks (.trap c) 0x0E (c.setWidth 64) ∧ parks (.bkpt c) 0x0D (c.setWidth 64) ∧ (s.me.drained = true → parks .halt 0x0E 0x1000)) ∧
      (s.me.drained = false → exec .halt s = .next s.waitHere) ∧ Traps s (.illegalInstruction w) 0x01 0 (w.setWidth 64)) ∧
  (∀ s : State, s.me.busy {} = false → exec .nop s = .next (s.withMe (s.me.advance 4)))

/-- Taking a trap (R135 to R140): the thread of the slot parks, and its frame, laid out as R138 says, holds the frame PC, the header, the faulting address and every
register; everything else of the thread stays, its outstanding operations too. Where the ring has room the message stands there, is counted and sets the event latch of
slot 0 of the supervisor core; where it has none, it is held. No other thread changes, nor does any byte outside the message's line. A trap on a supervisor core is
reported as a missed heartbeat (R135, R75); that HEARTBEAT_MISSED is the very next event is log entry 33's choice. -/
def Obligations.TrapEntry : Prop :=
  ∀ (s : State) (k : Nat) (tr : Trap) (pc : Word),
    let t := s.takeTrap k tr pc
    let u := s.slot k
    let d := s.die (peerOfSlot k)
    let d' := t.die (peerOfSlot k)
    let ring := d.tmbase.toNat + 64 * (d.tmcnt.toNat % 4096)
    let at' := paOf (peerOfSlot k) ring
    let room := d.heldPosts = [] ∧ (d.tmcnt - d.tmrd).toNat < 4096
    let bell := d.supcore.toNat * 8
    let parked := { u with st := .park, hold := .none, waited := 0, frame := (t.slot k).frame }
    let msg : Message := [
      (0 : BitVec 20) ++ u.job ++ (0 : BitVec 9) ++ BitVec.ofNat 2 (peerOfSlot k) ++ BitVec.ofNat 8 (quadOf (coreOf k)) ++ BitVec.ofNat 2 (coreOf k) ++
        BitVec.ofNat 3 (slotOf k) ++ tr.cause,
      pc, tr.addr,
      (0 : BitVec 28) ++ b1 tr.entry.isSome ++ (tr.entry.getD 0) ++ tr.seq ++ (0 : BitVec 10) ++ tr.mask ++ tr.stream,
      d.msgSeq.setWidth 64, tr.detail, 0, 0]
    let frame := fun (offset : Nat) => (t.slot k).frame.get 0 (offset / 8)
    let loop := fun (at' : Nat) (l : Option Loop) => match l with
      | none => frame at' = 0 ∧ frame (at' + 8) = 0
      | some l => frame at' = l.start ∧
          frame (at' + 8) = b1 true ++ l.depth ++ ((l.stop - l.start).extractLsb' 1 15 : BitVec 15) ++ (l.count.extractLsb' 0 32 : BitVec 32)
    ((s.posts k = false ∨ ¬room → t.slot k = parked) ∧ (s.posts k = true → room → t.slot k = if k = bell then parked.rung else parked)) ∧
    (∀ j, j ≠ k → t.slot j = if s.posts k = true ∧ room ∧ j = bell then (s.slot j).rung else s.slot j) ∧
    (frame 0x000 = pc ∧ frame 0x008 = d.msgSeq ++ tr.seq ++ (0 : BitVec 6) ++ tr.stream ++ tr.cause ∧ frame 0x010 = tr.addr ∧
      frame 0x018 = (0 : BitVec 42) ++ u.fsf ++ (0 : BitVec 6) ++ u.fcr ++ u.flags ∧ frame 0x020 = u.wto.setWidth 64 ∧ frame 0x028 = u.ssp ∧
      frame 0x030 = (0 : BitVec 44) ++ u.resident ++ u.wdepth ∧ frame 0x038 = 0 ∧ loop 0x040 u.loops[0]? ∧ loop 0x050 u.loops[1]? ∧
      (∀ i, i < 8 → (frame (0x060 + i / 4 * 8)).extractLsb' (16 * (i % 4)) 16 = u.k i) ∧ frame 0x070 = 0 ∧ frame 0x078 = 0 ∧
      (∀ i, i < 4 → frame (0x080 + 16 * i) = (0 : BitVec 16) ++ u.front i ++ (u.stream i).next ++ (0 : BitVec 13) ++ (u.stream i).scope ∧
        frame (0x088 + 16 * i) = BitVec.ofNat 64 ((u.ops.filter fun o => o.stream.toNat == i).length)) ∧
      (∀ i, i < 8 → frame (0x0C0 + 8 * i) = u.w (16 + i)) ∧
      (∀ f, f < 7 → frame (0x100 + 136 * f) = (if f < u.resident.toNat then u.links.get 0 (u.wdepth.toNat - f) else 0) ∧
        ∀ i, i < 16 → frame (0x108 + 136 * f + 8 * i) = if f < u.resident.toNat then u.phys.get 0 ((16 * (u.wdepth.toNat - f) + i) % 120) else 0) ∧
      frame 0x4B8 = 0 ∧ (∀ i, i < 16 → ∀ m, m < 8 → frame (0x4C0 + 64 * i + 8 * m) = (u.v i).extractLsb' (64 * m) 64) ∧
      (∀ e, e < 8 → ∀ m, m < 4 → frame (0x8C0 + 32 * e + 8 * m) = (((u.ops.filter (·.phase == .parked))[e]?.map replayEntry).getD [])[m]?.getD 0) ∧
      frame 0x9C0 = u.pendW.extractLsb' 0 64 ∧ frame 0x9C8 = (u.pendW.extractLsb' 64 56).setWidth 64 ∧ frame 0x9D0 = (0 : BitVec 40) ++ u.pendF ++ u.pendV ∧
      ∀ n, n < 5 → frame (0x9D8 + 8 * n) = 0) ∧
    (s.posts k = false → t.dies = s.dies ∧ t.mem = s.mem) ∧
    (s.posts k = true → d'.msgSeq = d.msgSeq + 1 ∧ (¬room → d'.heldPosts = d.heldPosts ++ [msg] ∧ d'.tmcnt = d.tmcnt ∧ t.mem = s.mem) ∧
      (room → d'.heldPosts = [] ∧ d'.tmcnt = d.tmcnt + 1 ∧
        (s.memoryOk = true → d.tmbase.toNat % 64 = 0 → d.tmbase.toNat < 2 ^ 40 →
          (List.range 8).map (fun i => (t.mem.readN (at' + 8 * i) 8 : Word)) = msg ∧ ∀ a, a / 256 ≠ at' / 256 → t.mem.read a = s.mem.read a))) ∧
    (s.isSup (coreOf k) = true → t.agenda = .event .heartbeatMissed { a := peerOfSlot k } :: s.agenda) ∧
    (s.isSup (coreOf k) = false → t.agenda = s.agenda)

/-- Return from a trap (R137, R138, R284): from the frame that a trap of thread t wrote, every register that the context holds is as t had it, those of older resident
frames and the loop levels too, and the thread runs at the frame PC. Where the frame sets no flag of sr.fsf anew, or the job has no flag word (R212), nothing else
changes. -/
def Obligations.TrapReturn : Prop :=
  ∀ (s : State) (k : Nat) (t : Slot) (pc hdr addr : Word), (s.slot k).frame = contextOf t pc hdr addr →
    1 ≤ t.resident.toNat → t.resident.toNat ≤ 7 → t.resident.toNat ≤ t.wdepth.toNat + 1 →
    let u := s.returnTrap k
    let r := u.slot k
    r.st = .run ∧ r.hold = .none ∧ r.pc = pc ∧ r.flags = t.flags ∧ r.fcr = t.fcr ∧ r.fsf = t.fsf ∧ r.wto = t.wto ∧ r.ssp = t.ssp ∧ r.wdepth = t.wdepth ∧ r.resident = t.resident ∧
    r.pendW = t.pendW ∧ r.pendV = t.pendV ∧ r.pendF = t.pendF ∧
    (t.loops.length ≤ 2 → (∀ l ∈ t.loops, (l.stop - l.start).toNat % 2 = 0 ∧ (l.stop - l.start).toNat < 2 ^ 16 ∧ l.count.toNat < 2 ^ 32) → r.loops = t.loops) ∧
    (∀ i, i < 24 → r.w i = t.w i) ∧ (∀ i, i < 8 → r.k i = t.k i) ∧ (∀ i, i < 16 → r.v i = t.v i) ∧
    (∀ i, i < 4 → (r.stream i).scope = (t.stream i).scope ∧ (r.stream i).next = (t.stream i).next) ∧
    (∀ f, f < t.resident.toNat → r.links.get 0 (t.wdepth.toNat - f) = t.links.get 0 (t.wdepth.toNat - f) ∧
      ∀ i, i < 16 → r.phys.get 0 ((16 * (t.wdepth.toNat - f) + i) % 120) = t.phys.get 0 ((16 * (t.wdepth.toNat - f) + i) % 120)) ∧
    (t.fsf &&& ~~~(s.slot k).fsf = 0 ∨ ((s.die (peerOfSlot k)).jflaga.get 0 (s.slot k).job.toNat).getLsbD 63 = false →
      u = { s with slots := u.slots } ∧ (∀ c, c ≠ k → u.slot c = s.slot c) ∧
      r = { s.slot k with st := .run, hold := .none, waited := 0, pc := r.pc, flags := r.flags, fcr := r.fcr, fsf := r.fsf, wto := r.wto, ssp := r.ssp, wdepth := r.wdepth,
                          resident := r.resident, pendW := r.pendW, pendV := r.pendV, pendF := r.pendF, loops := r.loops, phys := r.phys, links := r.links,
                          kregs := r.kregs, vregs := r.vregs, streams := r.streams })

/-- The supervisor's service calls (R251, R282 to R289). That the trap of a completion address with no translation has detail 0 is the reading of log entry 33. -/
def Obligations.SupervisorCalls : Prop :=
  ∀ (s : State) (c a : BitVec 5) (x : Nat), s.me.busy { regs := [c, a] } = false →
    let wc := s.rd c
    let arg := s.rd a
    let base := s.withMe (s.me.advance 4)
    let on := fun (i : Instr) (u : State) (code : Option (BitVec 8)) =>
      u.modDie s.myPeer fun d => { d with svcs := d.svcs ++ [{ core := s.myCore, wc := wc, op := (encode i).extractLsb' 10 12, arg := arg, code := code }] }
    let target := s.svcCore arg = some x
    let i := ((arg >>> 23).setWidth 3 : BitVec 3).toNat
    let u := s.slot (x * 8 + i)
    (s.isSup s.myCore = false → ∀ j ∈ [Instr.svcRsm c a, .svcKill c a, .svcTlbinv c a, .svcGangctl c a, .svcPrmpt c a, .svcMsgrd], Traps s j 0x01 0 ((encode j).setWidth 64)) ∧
    (s.isSup s.myCore = true → s.me.drained = true →
      (wc ≠ 0 → wc.toNat % 8 ≠ 0 → Traps s (.svcRsm c a) 0x05 wc 0 ∧ Traps s (.svcKill c a) 0x05 wc 0) ∧
      (wc ≠ 0 → wc.toNat % 8 = 0 → wc.toNat < 2 ^ 63 → Traps s (.svcRsm c a) 0x09 wc 0 ∧ Traps s (.svcPrmpt c a) 0x09 wc 0) ∧
      ((s.die s.myPeer).tmrd ≠ (s.die s.myPeer).tmcnt → (s.die s.myPeer).heldPosts = [] →
        exec .svcMsgrd s = .next (base.modDie s.myPeer fun d => { d with tmrd := d.tmrd + 1 })) ∧
      ((s.die s.myPeer).tmrd = (s.die s.myPeer).tmcnt → exec .svcMsgrd s = .next base) ∧
      (wc = 0 →
        (arg &&& ~~~0x0FFF_FFFF ≠ 0 → exec (.svcRsm c a) s = .next (on (.svcRsm c a) base (some 0x05))) ∧
        (arg &&& ~~~0x03FF_FFFF ≠ 0 → exec (.svcKill c a) s = .next (on (.svcKill c a) base (some 0x05))) ∧
        (target → x * 8 + i ≠ s.cur → base.crewFrozen x = false → (s.core x).crew.bind.lockstep = false →
          (arg &&& ~~~0x0FFF_FFFF = 0 → arg.getLsbD 27 = true → arg.getLsbD 26 = false →
            (u.st = .park → exec (.svcRsm c a) s = .next (on (.svcRsm c a) (base.returnTrap (x * 8 + i)) (some 0x00))) ∧
            (u.st = .run → exec (.svcRsm c a) s = .next (on (.svcRsm c a) base (some 0x01))) ∧
            (u.st = .free → exec (.svcRsm c a) s = .next (on (.svcRsm c a) base (some 0x02)))) ∧
          (arg &&& ~~~0x03FF_FFFF = 0 →
            (u.st = .run → u.hold = .none → u.ops = [] → u.trapNext = [] → exec (.svcKill c a) s =
              .next (on (.svcKill c a) (base.modSlot (x * 8 + i) fun t => { t with st := .exiting, hold := .none, waited := 0, trapNext := [] }) none)) ∧
            (u.st = .free → exec (.svcKill c a) s = .next (on (.svcKill c a) base (some 0x02))))) ∧
        (target → arg &&& ~~~0x007F_FFFF = 0 → (s.core x).crew.bind.lockstep = false →
          ((s.core x).saved = none → (s.core x).crew.bind.valid = true →
            exec (.svcPrmpt c a) s = .next (on (.svcPrmpt c a) (base.modCore x fun y => { y with halting := true }) none)) ∧
          ((s.core x).saved = none → (s.core x).crew.bind.valid = false → exec (.svcPrmpt c a) s = .next (on (.svcPrmpt c a) base (some 0x02))) ∧
          ((s.core x).saved ≠ none → exec (.svcPrmpt c a) s = .next (on (.svcPrmpt c a) base (some 0x04)))) ∧
        (arg &&& 0xFE00_0000_0000_0000 = 0 → (arg >>> 12).setWidth 4 ≠ (15 : BitVec 4) → ∃ t : State, exec (.svcTlbinv c a) s = .next (t.modDie s.myPeer fun d => { d with
            svcs := d.svcs ++ [{ core := s.myCore, wc := wc, op := (encode (.svcTlbinv c a)).extractLsb' 10 12, arg := arg, waits := base.oldAccesses s.myPeer arg }] }) ∧
          t.slots = base.slots ∧ t.dies = s.dies ∧ t.mem = s.mem ∧ t.stash = s.stash ∧ t.net = s.net ∧
          (∀ y, y / 1024 ≠ s.myPeer → t.core y = s.core y) ∧
          ∀ y, y / 1024 = s.myPeer → ∀ e, e ∈ (t.core y).utlb ↔
            e ∈ (s.core y).utlb ∧ ¬(e.job = arg.setWidth 12 ∧ inRange arg (BitVec.ofNat 64 (e.page * 2 ^ e.shift)) (2 ^ e.shift) = true)) ∧
        (let js := (s.die s.myPeer).jsave.get 0 ((arg.setWidth 12 : BitVec 12)).toNat
         (arg >>> 16).setWidth 16 = (0 : BitVec 16) →
          (js.getLsbD 63 = false → exec (.svcGangctl c a) s = .next (on (.svcGangctl c a) base (some 0x0E))) ∧
          (js.getLsbD 63 = true → gangOpBad ((arg >>> 12).setWidth 4) (js &&& 0x0000_0FFF_FFFF_0000) ((arg >>> 32).setWidth 32) = false →
            ∃ t, exec (.svcGangctl c a) s = .next t ∧ t = base.modPkg (base.anchorOf (s.myPeer / 4) (arg.setWidth 12)) fun y => { y with
              anchor := y.anchor ++ [{ op := (arg >>> 12).setWidth 4, job := arg.setWidth 12, save := (js &&& 0x0000_0FFF_FFFF_0000).setWidth 44, instId := (arg >>> 32).setWidth 32, pkg := s.myPeer / 4, svc := some (s.myPeer, s.myCore, wc) }] }))))

/-- Illegal and pending (R114, R115, R236, R256): every instruction whose fields its encoding does not admit (a destination g1 to g7 and the other illegal words), in
whatever state, takes the illegal-instruction trap with its word and is not performed; one that names a register or flag whose result is on its way waits at itself, every
register as it was, for the forms listed. -/
def Obligations.IllegalAndPending : Prop :=
  ∀ (s : State),
    (∀ i : Instr, wellFormed i = false → isEvent i = false → Traps s i 0x01 0 (zx (encode i))) ∧
    (let waits := fun (u : Uses) (i : Instr) => wellFormed i = true → s.me.busy u = true → exec i s = .next (s.withMe { s.me with st := .wait, hold := .reissue })
     ∀ (d a b : BitVec 5) (f : BitVec 3) (m p : BitVec 2) (c : BitVec 3) (n : BitVec 15) (o : BitVec 9) (q : BitVec 4),
      (∀ i ∈ [Instr.add d a b, .sub d a b, .mul d a b, .mulh d a b, .mulhn d a b, .div d a b, .divn d a b, .rem d a b, .remn d a b, .and d a b, .or d a b, .xor d a b, .andn d a b, .shl d a b, .shr d a b, .sra d a b,
        .rol d a b, .min d a b, .max d a b, .minn d a b, .maxn d a b, .fadd d a b p, .fsub d a b p, .fmul d a b p, .ffma d a b p, .fdiv d a b p, .fmin d a b p, .fmax d a b p, .aadd d a m q b, .cas d a m q b, .afadd d a m q b],
        waits { regs := [d, a, b] } i) ∧
      (∀ i ∈ [Instr.clz d a, .popc d a, .addi d a n, .andi d a n, .ori d a n, .xori d a n, .fabs d a p, .fneg d a p, .fclass d a p, .frnd d a p, .fsqrt d a p, .ldb d a m q o, .ldd d a m q o, .stb d a m q o, .std d a m q o, .ldff d a m q, .stef d a m q],
        waits { regs := [d, a] } i) ∧
      waits { regs := [a, b], flags := [f] } (.cmp m f a b c) ∧ waits { regs := [a, b], flags := [f] } (.fcmp m f a b p c) ∧ waits { regs := [d, a, b], flags := [f] } (.sel d a b f) ∧
      waits { flags := [f] } (.bt f 0) ∧ waits { flags := [f] } (.bf f 0) ∧ waits { regs := [a] } (.jmpr a) ∧ waits { regs := [a] } (.loop a 1))

/-- When a stream operation issues and begins (R115, R182, R185, R187): a pending register or a full window holds it back, and one whose mask names a stream with an
operation outstanding takes its number and stays deferred. -/
def Obligations.StreamNumbers : Prop :=
  ∀ (s : State) (n : BitVec 3) (p : BitVec 4) (st : BitVec 2) (i : Nat),
    (s.me.hasRoom st.toNat = false → exec (.semv n p st) s = .next s.waitHere ∧ exec (.mbxwi n p st) s = .next s.waitHere ∧ exec (.wfe p st) s = .next s.waitHere) ∧
    (s.me.hasRoom st.toNat = true → s.me.busy {} = false → i < 4 → p.getLsbD i = true → s.me.window i ≠ 0 →
      (∀ o ∈ s.me.ops, o.id < s.me.opId) →
      ∃ o, exec (.semv n p st) s = .next (s.withMe { (s.me.took st).advance 4 with ops := s.me.ops ++ [o] }) ∧ s.outstanding o st p .held) ∧
    (∀ (t a : BitVec 5) (o : BitVec 9), okD t = true → s.me.busy { regs := [t, a] } = true → exec (.ldd t a st p o) s = .next s.waitHere) ∧
    (∀ (d a b : BitVec 5), okD d = true → s.me.busy { regs := [d, a, b] } = true → exec (.add d a b) s = .next s.waitHere)

/-- Scalar loads and stores of a plain stash word (R147, R182, R291, R292): a load brings the bytes, extended as the mnemonic says, as a reply on its way, and nothing
else changes; a store writes the low bytes of rt at the address the load of that width would read, every other byte and every full/empty bit as before. -/
def Obligations.StashAccess : Prop :=
  (∀ (s : State) (t a : BitVec 5) (st : BitVec 2) (p : BitVec 4) (o : BitVec 9) (c off : Nat),
      okD t = true → s.me.busy { regs := [t, a] } = false → s.fresh →
      let va := fun (n : Nat) => s.rd a + o.signExtend 64 * BitVec.ofNat 64 n
      let gives := fun (i : Instr) (v : Word) => exec i s = .next (s.withMe (s.me.ended st t v none 0 false))
      (s.atStash (va 1) 1 c off → gives (.ldb t a st p o) ((s.stashRead c off 1).setWidth 64) ∧ gives (.ldbs t a st p o) ((s.stashRead c off 1).signExtend 64)) ∧
      (s.atStash (va 2) 2 c off → gives (.ldh t a st p o) ((s.stashRead c off 2).setWidth 64) ∧ gives (.ldhs t a st p o) ((s.stashRead c off 2).signExtend 64)) ∧
      (s.atStash (va 4) 4 c off → gives (.ldw t a st p o) ((s.stashRead c off 4).setWidth 64) ∧ gives (.ldws t a st p o) ((s.stashRead c off 4).signExtend 64)) ∧
      (s.atStash (va 8) 8 c off → gives (.ldd t a st p o) (s.stashRead c off 8))) ∧
  (∀ (s : State) (t a : BitVec 5) (st : BitVec 2) (p : BitVec 4) (o : BitVec 9) (c off : Nat),
      s.me.busy { regs := [t, a] } = false → s.fresh →
      let va := fun (n : Nat) => s.rd a + o.signExtend 64 * BitVec.ofNat 64 n
      let stores := fun (i : Instr) (n : Nat) => ∃ t', exec i s = .next t' ∧
        StashChange s t' c off n ((s.rd t).setWidth (8 * n)) (s.stashFull c off) (s.me.ended st 0 0 none 0 false)
      (s.atStash (va 1) 1 c off → stores (.stb t a st p o) 1) ∧ (s.atStash (va 2) 2 c off → stores (.sth t a st p o) 2) ∧
      (s.atStash (va 4) 4 c off → stores (.stw t a st p o) 4) ∧ (s.atStash (va 8) 8 c off → stores (.std t a st p o) 8))

/-- Full/empty operations at a stash word that no thread waits for (R164, R294, R295): what each needs, reads and leaves, and that one whose condition fails waits as the
last of its quad to have issued. -/
def Obligations.FullEmptyAtStash : Prop :=
  ∀ (s : State) (t a : BitVec 5) (st : BitVec 2) (p : BitVec 4) (f : BitVec 3) (c off : Nat),
    okD t = true → s.me.busy { regs := [t, a], flags := [f] } = false → s.fresh → s.atStash (s.rd a) 8 c off → s.stashWaiters c off = [] →
    let w : Word := s.stashRead c off 8
    let does := fun (i : Instr) (v : Word) (full : Bool) (me : Slot) => ∃ t', exec i s = .next t' ∧ StashChange s t' c off 8 v full me true
    let stored := s.me.ended st 0 0 none 0 false
    let waits := fun (i : Instr) (d : BitVec 5) (hold : Hold) => ∃ o t', exec i s = .next t' ∧ s.sameQuads t' ∧
      t' = { s with quads := t'.quads, slots := s.slots.set s.cur (s.me.began st d none hold o) } ∧ s.outstanding o st p .held ∧ (t'.quad s.myQuad).feOrder.getLast? = some (s.cur, s.me.opId) ∧
      ∃ q, o.parts = [q] ∧ q.va = s.rd a ∧ q.phase = .waiting
    (s.stashFull c off = true → does (.ldff t a st p) w true (s.me.ended st t w none 0 true) ∧ does (.ldfe t a st p) w false (s.me.ended st t w none 0 true) ∧
      waits (.stef t a st p) 0 .none) ∧
    (s.stashFull c off = false → waits (.ldff t a st p) t (.localOp s.me.opId) ∧ waits (.ldfe t a st p) t (.localOp s.me.opId) ∧
      does (.stef t a st p) (s.rd t) true stored) ∧
    does (.stff t a st p) (s.rd t) true stored ∧
    does (.ldxx t a st p f) w (s.stashFull c off) (s.me.ended st t w (some (f, s.stashFull c off)) 0 false) ∧
    does (.sete a st p) w false stored

/-- Atomics at a stash word (R296 to R298): the new word, and the old word as a reply on its way; AFADD adds two FP32 lanes, −0 as the operand leaving a lane. -/
def Obligations.AtomicsAtStash : Prop :=
  ∀ (s : State) (t a b : BitVec 5) (st : BitVec 2) (p : BitVec 4) (c off : Nat),
    okD t = true → s.me.busy { regs := [t, a, b] } = false → s.fresh → s.atStash (s.rd a) 8 c off →
    let w : Word := s.stashRead c off 8
    let y := s.rd b
    let does := fun (i : Instr) (v : Word) (fsf : BitVec 6) => ∃ t', exec i s = .next t' ∧
      StashChange s t' c off 8 v (s.stashFull c off) (s.me.ended st t w none fsf false)
    let add := fun (x y : BitVec 32) => if y = 0x8000_0000 then (x.setWidth 64, (0 : BitVec 6)) else f32.add .rne (x.setWidth 64) (y.setWidth 64)
    let lo := add (w.setWidth 32) (y.setWidth 32)
    let hi := add (w.extractLsb' 32 32) (y.extractLsb' 32 32)
    does (.aadd t a st p b) (w + y) 0 ∧ does (.aand t a st p b) (w &&& y) 0 ∧ does (.aor t a st p b) (w ||| y) 0 ∧ does (.axor t a st p b) (w ^^^ y) 0 ∧
    does (.amin t a st p b) (if w.toInt < y.toInt then w else y) 0 ∧ does (.amax t a st p b) (if w.toInt < y.toInt then y else w) 0 ∧
    does (.aminn t a st p b) (if w.toNat < y.toNat then w else y) 0 ∧ does (.amaxn t a st p b) (if w.toNat < y.toNat then y else w) 0 ∧
    does (.aswap t a st p b) y 0 ∧ does (.cas t a st p b) (if w = s.rd t then y else w) 0 ∧
    does (.afadd t a st p b) (hi.1.setWidth 32 ++ lo.1.setWidth 32) (lo.2 ||| hi.2)

/-- The traps of scalar accesses (R136, R147, R148, R149): an address of no local place, and a write of a read-only page, take 0x09; else a misaligned address takes 0x05;
nothing is read or written. That the trap of R148 has detail 0 is the reading of log entry 31. -/
def Obligations.AccessTraps : Prop :=
  ∀ (s : State) (t a b : BitVec 5) (st : BitVec 2) (p : BitVec 4) (o : BitVec 9) (f : BitVec 3),
    okD t = true → s.me.busy { regs := [t, a, b], flags := [f] } = false →
    let va := fun (n : Nat) => s.rd a + o.signExtend 64 * BitVec.ofNat 64 n
    let nowhere := fun (v : Word) => 2 ^ 63 ≤ v.toNat ∧ localPlace s.myCore v = .nowhere
    let readOnly := fun (v : Word) => 2 ^ 63 ≤ v.toNat ∧ ∃ n off, localPlace s.myCore v = .page n off
    let legal := fun (v : Word) => v.toNat < 2 ^ 63 ∨ ∃ c off, localPlace s.myCore v = .stash c off
    (nowhere (va 8) → Traps s (.ldd t a st p o) 0x09 (va 8) 0 ∧ Traps s (.std t a st p o) 0x09 (va 8) 0) ∧
    (readOnly (va 8) → Traps s (.std t a st p o) 0x09 (va 8) 0) ∧
    (readOnly (s.rd a) → Traps s (.stff t a st p) 0x09 (s.rd a) 0 ∧ Traps s (.cas t a st p b) 0x09 (s.rd a) 0) ∧
    (legal (va 8) → (va 8).toNat % 8 ≠ 0 → Traps s (.ldd t a st p o) 0x05 (va 8) 0 ∧ Traps s (.std t a st p o) 0x05 (va 8) 0) ∧
    (legal (va 4) → (va 4).toNat % 4 ≠ 0 → Traps s (.ldw t a st p o) 0x05 (va 4) 0 ∧ Traps s (.ldws t a st p o) 0x05 (va 4) 0 ∧ Traps s (.stw t a st p o) 0x05 (va 4) 0) ∧
    (legal (va 2) → (va 2).toNat % 2 ≠ 0 → Traps s (.ldh t a st p o) 0x05 (va 2) 0 ∧ Traps s (.ldhs t a st p o) 0x05 (va 2) 0 ∧ Traps s (.sth t a st p o) 0x05 (va 2) 0) ∧
    (legal (s.rd a) → (s.rd a).toNat % 8 ≠ 0 → Traps s (.ldff t a st p) 0x05 (s.rd a) 0 ∧ Traps s (.stef t a st p) 0x05 (s.rd a) 0 ∧ Traps s (.ldxx t a st p f) 0x05 (s.rd a) 0 ∧
      Traps s (.aadd t a st p b) 0x05 (s.rd a) 0 ∧ Traps s (.cas t a st p b) 0x05 (s.rd a) 0)

/-- Accesses beyond the quad (R33, R42, R153, R171, R293, R297): with a translation in the TLBs, a load or store of a range homed on another die, and every atomic and
full/empty operation on a global address, goes out as one packet and stays outstanding. -/
def Obligations.GlobalAccess : Prop :=
  ∀ (s : State) (t a b : BitVec 5) (st : BitVec 2) (p : BitVec 4) (f : BitVec 3) (l : Leaf),
    okD t = true → s.me.busy { regs := [t, a, b], flags := [f] } = false → s.fresh →
    let va := s.rd a
    let pa := l.pa va
    let peer := paPeer pa
    let scope := (s.me.stream st.toNat).scope
    let part : Part := { va := va, size := 8, pa := some pa, nc := l.nc, phase := .sent }
    let out := fun (i : Instr) (d : BitVec 5) (flag : Option (BitVec 3)) (hold : Hold) (base : State) (type : BitVec 8) (off size : Nat) (fill : Pkt → Pkt) =>
      ∃ o, exec i s = .next (((base.sends (fill (s.packetOf o 0 type peer off size)))).withMe (s.me.began st d flag hold o)) ∧
        s.outstanding o st p .held ∧ o.parts = [part]
    let outFE := fun (i : Instr) (d : BitVec 5) (flag : Option (BitVec 3)) (hold : Hold) (base : State) (fn : BitVec 4) (x : Word) =>
      ∃ o t', let u := (base.sends { s.packetOf o 0 0x04 peer (paOff pa) 3 with fn := fn, operand := x }).withMe (s.me.began st d flag hold o)
        exec i s = .next t' ∧ u.sameQuads t' ∧ t' = { u with quads := t'.quads } ∧ s.outstanding o st p .held ∧ o.parts = [part]
    s.known va l → va.toNat % 8 = 0 → s.reaches pa → peer ≠ hostPeer →
    let passed := s.fillsPass s.myQuad (· == pa / 256)
    (peer ≠ s.myPeer → s.boundAt s.myCore va = none → s.line s.myQuad (pa / 256) = none →
      (l.w = true → out (.std t a st p 0) 0 none .none passed 0x02 (paOff pa) 3 fun k => { k with payload := (s.rd t).setWidth 2048, plen := 8 }) ∧
      (l.nc = false → scope.toNat ≤ 2 → out (.ldd t a st p 0) t none .none s 0x01 (paOff (pa / 256 * 256)) 8 id) ∧
      (l.nc = true ∨ 3 ≤ scope.toNat → out (.ldd t a st p 0) t none .none s 0x01 (paOff pa) 3 id)) ∧
    (l.w = true →
      out (.aadd t a st p b) t none .none passed 0x03 (paOff pa) 3 (fun k => { k with fn := 0, operand := s.rd b }) ∧
      out (.cas t a st p b) t none .none passed 0x03 (paOff pa) 3 (fun k => { k with fn := 9, operand := s.rd t, payload := (s.rd b).setWidth 2048, plen := 8 }) ∧
      outFE (.stef t a st p) 0 none .none passed 2 (s.rd t) ∧
      outFE (.stff t a st p) 0 none .none passed 3 (s.rd t) ∧
      outFE (.ldfe t a st p) t none (.reply s.me.opId) passed 1 0 ∧
      outFE (.sete a st p) 0 none .none passed 5 0) ∧
    outFE (.ldff t a st p) t none (.reply s.me.opId) passed 0 0 ∧
    outFE (.ldxx t a st p f) t (some f) .none passed 4 0

/-- A translation fault of a scalar access (R141, R152, R155): the operation is parked in the replay queue, one message of its die is numbered, and the thread goes on. -/
def Obligations.ParkedFault : Prop :=
  ∀ (s : State) (t a : BitVec 5) (st : BitVec 2) (p : BitVec 4) (l : Leaf),
    okD t = true → s.me.busy { regs := [t, a] } = false → s.fresh → (s.rd a).toNat % 8 = 0 → s.boundAt s.myCore (s.rd a) = none →
    let parks := fun (i : Instr) (dest : Dest) => ∃ t', exec i s = .next t' ∧ t'.me.pc = (s.me.advance 4).pc ∧ t'.me.st = .run ∧
      (∃ o, t'.me.ops = [o] ∧ s.outstanding o st p .parked ∧ o.a = s.rd a ∧ o.dest = dest) ∧ (t'.die s.myPeer).msgSeq = (s.die s.myPeer).msgSeq + 1
    (s.known (s.rd a) l → l.w = false → parks (.std t a st p 0) .none) ∧
    (2 ^ 57 ≤ (s.rd a).toNat → (s.rd a).toNat < 2 ^ 63 → parks (.std t a st p 0) .none ∧ parks (.ldd t a st p 0) (s.me.destOf t))

/-- Maintenance of the stash and the caches (R156, R157, R160, R173, R174, R301 to R305): on plain and on bound regions, and at lines of the quad cache; SMAP of a
misaligned local address takes 0x05. That SUNMAP keeps the region's format index is the reading of log entry 31. -/
def Obligations.CacheMaintenance : Prop :=
  ∀ (s : State) (n : BitVec 3) (a b : BitVec 5) (st : BitVec 2) (p : BitVec 4) (l : Leaf),
    s.me.busy { regs := [a, b] } = false → s.fresh →
    let c := s.myCore
    let r := s.region c n.toNat
    let va := s.rd a
    let ended := s.me.ended st 0 0 none 0 false
    let line := l.pa va / 256
    (r.bound = false →
      exec (.sfmt n a st p) s = .next ((s.modRegion c n.toNat fun r => { r with fmt := va.setWidth 6 }).withMe ended) ∧
      exec (.sunmap n st p) s = .next (s.withMe ended) ∧ exec (.swb n st p) s = .next (s.withMe ended)) ∧
    (r.bound = true →
      Traps s (.sfmt n a st p) 0x01 0 ((encode (.sfmt n a st p)).setWidth 64) ∧
      (r.dirty = 0 →
        exec (.sunmap n st p) s = .next (((s.modRegion c n.toNat fun r => { fmt := r.fmt }).dropStashPoison c (n.toNat * 0x8000) ((n.toNat + 1) * 0x8000)).withMe ended) ∧
        exec (.swb n st p) s = .next ((s.modRegion c n.toNat id).withMe ended))) ∧
    (s.known va l → va.toNat % 0x8000 = 0 → l.nc = false → s.boundElsewhere c n.toNat va = false → r.bound = false →
      exec (.smap n a st p) s = .next ((s.modRegion c n.toNat fun _ => { bound := true, fmt := l.fmt, ro := !l.w, base := va.setWidth 57, pa := l.pa va }).withMe ended)) ∧
    (va.toNat % 0x8000 ≠ 0 → 2 ^ 63 ≤ va.toNat → Traps s (.smap n a st p) 0x05 va 0) ∧
    ((s.rd b).setWidth 32 = (0 : BitVec 32) ∨ 2 ^ 63 ≤ va.toNat → exec (.cflush a st p b) s = .next (s.withMe ended) ∧ exec (.cinv a st p b) s = .next (s.withMe ended)) ∧
    (s.rd b = 1 → s.known va l → va.toNat % 256 = 0 → l.nc = false → ∀ x, s.line s.myQuad line = some x →
      (x.state = .remote → exec (.cinv a st p b) s = .next ((s.dropLine s.myQuad line).withMe ended)) ∧
      (x.state ≠ .remote → exec (.cinv a st p b) s = .next (s.withMe ended)) ∧
      (x.state = .owned → s.boundAt c va = none →
        (∀ i j, i < 4 → j < 8 → let y := s.region (s.myQuad * 4 + i) j
          y.bound = false ∨ line < y.pa / 256 ∨ y.pa / 256 + 128 ≤ line ∨ y.valid.getLsbD (line - y.pa / 256) = false) → ∃ t, exec (.cflush a st p b) s = .next t ∧ t.me = ended ∧
        t.line s.myQuad line = some { x with state := .shared, dirty := 0 } ∧
        (∀ k, (k < line * 256 ∨ line * 256 + 256 ≤ k) → t.mem.read k = s.mem.read k) ∧
        (s.memoryOk = true → ∀ j, j < 2 → x.dirty.getLsbD j = true → t.mem.readN (line * 256 + 128 * j) 128 = (x.data.extractLsb' (1024 * j) 1024).setWidth (8 * 128)))) ∧
    (2 ^ 63 ≤ va.toNat → exec (.pref a st p) s = .next (s.withMe ended)) ∧
    (s.known va l → l.nc = false → s.boundAt c va = none → s.reaches (l.pa va) → s.line s.myQuad line = none → paPeer (l.pa va) = s.myPeer →
      CohMsg.read (quadNo s.myQuad) line ∉ (s.die s.myPeer).coh →
      exec (.pref a st p) s = .next ((s.modDie s.myPeer fun d => { d with coh := d.coh ++ [.read (quadNo s.myQuad) line] }).withMe ended))

/-- FMTW (R42, R201, R209, R305): with a valid table base and a writable entry homed on the own die, the descriptor is in memory, and every cache of the die has dropped
the index; one homed elsewhere goes there as a STORE and stays outstanding; with no valid table the format trap is taken. -/
def Obligations.FormatWrite : Prop :=
  ∀ (s : State) (t a : BitVec 5) (st : BitVec 2) (p : BitVec 4) (l : Leaf), s.me.busy { regs := [t, a] } = false → s.fresh →
    let base := (s.die s.myPeer).jfmt.get 0 s.me.job.toNat
    let i := (s.rd a).setWidth 6
    let va := fmtAddr base i.toNat
    (base.getLsbD 63 = false → Traps s (.fmtw t a st p) 0x07 0 (fmtDetail i 2)) ∧
    (base.getLsbD 63 = true → s.known va l → l.w = true → s.reaches (l.pa va) → paPeer (l.pa va) ≠ s.myPeer →
      ∃ o, exec (.fmtw t a st p) s = .next (((s.passCopies s.myQuad (l.pa va / 256)).sends
          { s.packetOf o 0 0x02 (paPeer (l.pa va)) (paOff (l.pa va)) 3 with payload := (s.rd t).setWidth 2048, plen := 8 }).withMe (s.me.began st 0 none .none o)) ∧
        s.outstanding o st p .sent ∧ o.parts = [{ va := va, size := 8, pa := some (l.pa va), phase := .sent }]) ∧
    (base.getLsbD 63 = true → s.known va l → l.w = true → s.reaches (l.pa va) → paPeer (l.pa va) = s.myPeer → s.lineFree (l.pa va / 256) = true →
      s.memoryOk = true → (l.pa va) % 8 = 0 →
      ∃ t', exec (.fmtw t a st p) s = .next t' ∧ t'.mem.readN (l.pa va) 8 = s.rd t ∧ t'.me = s.me.ended st 0 0 none 0 false ∧
        ∀ q, peerOf q = s.myPeer → (t'.quad q).formats.find (fmtKey s.me.job i.toNat) = none)

/-- Mailboxes (R94, R125, R307 to R309): on a core where nothing else is outstanding, a read takes a full mailbox or waits, a write to the own core fills an empty one or
is held, one to another core of the die goes out as a packet, and MBXWI leaves the token of R192; behind a resumed crew's spill queue with room a write and a push to the
own core and MBXWI's token join that queue. -/
def Obligations.Mailboxes : Prop :=
  (∀ (s : State) (d a b : BitVec 5) (f n : BitVec 3) (p : BitVec 4) (st : BitVec 2),
      okD d = true → s.me.busy { regs := [d, a, b], flags := [f] } = false → s.quietCore →
      let c := s.myCore
      let v := s.crew.mb.get 0 n.toNat
      let token : Word := (1 : BitVec 1) ++ s.me.job ++ BitVec.ofNat 3 (slotOf s.cur) ++ st ++ (s.me.stream st.toNat).scope ++ (0 : BitVec 11) ++
        (s.me.stream st.toNat).next ++ (0 : BitVec 16)
      let emptied := s.modCrew c fun x => { x with mbFull := putBits x.mbFull n.toNat (0 : BitVec 1) }
      let filled := fun (w : Word) => s.modCrew c fun x => { x with mb := x.mb.set n.toNat w, mbFull := putBits x.mbFull n.toNat (1 : BitVec 1) }
      let kept := fun (w : Word) => s.modCrew c fun x => { x with heldWrites := [{ box := n.toNat, value := w, sender := s.cur, opId := some s.me.opId }] }
      (s.crew.mbFull.getLsbD n.toNat = true →
        exec (.mbxr d n p st) s = .next (emptied.withMe (s.me.ended st d v none 0 true)) ∧
        exec (.mbxt d f n p st) s = .next (emptied.withMe (s.me.ended st d v (some (f, true)) 0 false)) ∧
        (s.rd a = BitVec.ofNat 64 c → c < 2 ^ 23 → ∃ o, exec (.mbxw n a b p st) s = .next ((kept (s.rd b)).withMe (s.me.began st 0 none (.localOp s.me.opId) o)) ∧
          s.outstanding o st p .waiting) ∧
        ∃ o, exec (.mbxwi n p st) s = .next ((kept token).withMe (s.me.began st 0 none (.localOp s.me.opId) o)) ∧ s.outstanding o st p .waiting) ∧
      (s.crew.mbFull.getLsbD n.toNat = false →
        (∃ o, exec (.mbxr d n p st) s = .next (s.withMe (s.me.began st d none (.localOp s.me.opId) o)) ∧ s.outstanding o st p .waiting) ∧
        exec (.mbxt d f n p st) s = .next (s.withMe (s.me.ended st d (s.rd d) (some (f, false)) 0 false)) ∧
        (s.rd a = BitVec.ofNat 64 c → c < 2 ^ 23 → exec (.mbxw n a b p st) s = .next ((filled (s.rd b)).withMe (s.me.ended st 0 0 none 0 true))) ∧
        ∃ o, exec (.mbxwi n p st) s = .next ((filled token).withMe (s.me.began st 0 none .none o)) ∧ s.outstanding o st p .waiting) ∧
      (∀ m, m < 1024 → s.lead (s.myPeer * 1024 + m) ≠ c → s.rd a = BitVec.ofNat 64 (s.myPeer * 1024 + m) → s.myPeer < 2 ^ 13 →
        ∃ o, exec (.mbxw n a b p st) s = .next ((s.sendsTask o m taskMbox n.toNat (s.rd b)).withMe (s.me.began st 0 none (.reply s.me.opId) o)) ∧ s.outstanding o st p .sent)) ∧
  (∀ (s : State) (a b : BitVec 5) (f n : BitVec 3) (p : BitVec 4) (st : BitVec 2), s.me.busy { regs := [a, b], flags := [f] } = false → s.fresh → s.behindSpill →
    let x := s.core s.myCore
    let token : Word := (1 : BitVec 1) ++ s.me.job ++ BitVec.ofNat 3 (slotOf s.cur) ++ st ++ (s.me.stream st.toNat).scope ++ (0 : BitVec 11) ++
      (s.me.stream st.toNat).next ++ (0 : BitVec 16)
    let joins := fun (i : Instr) (phase : Phase) (fn : BitVec 4) (size : Nat) (w : Word) (me : Op → Slot) => ∃ o t, exec i s = .next t ∧ s.outstanding o st p phase ∧ t.me = me o ∧
      (t.core s.myCore).spill = x.spill ++ [{ pkt := { s.packetOf o 0 0x07 s.myPeer (s.myCore % 1024) size with fn := fn, operand := w } }] ∧
      t.net = s.net ∧ t.pkgs = s.pkgs ∧ ∀ j, j ≠ s.cur → t.slot j = s.slot j
    x.spill.length < 64 →
    (s.rd a = BitVec.ofNat 64 s.myCore → s.myCore < 2 ^ 23 →
      joins (.mbxw n a b p st) .held taskMbox n.toNat (s.rd b) (fun _ => s.me.ended st 0 0 none 0 true) ∧
      (x.crew.queue.length + (x.spill.filter fun e => e.pkt.fn == taskPush).length < 64 →
        joins (.qpush f a b p st) .held taskPush 0 (s.rd b) (fun _ => s.me.ended st 0 0 (some (f, true)) 0 false))) ∧
    joins (.mbxwi n p st) .sent taskMbox n.toNat token (fun o => s.me.began st 0 none (.localOp s.me.opId) o))

/-- Semaphores, core queues and events (R126, R127, R311, R313, R315), on a core where nothing else is outstanding. -/
def Obligations.SemaphoresQueuesEvents : Prop :=
  ∀ (s : State) (d a b : BitVec 5) (f n : BitVec 3) (p : BitVec 4) (st : BitVec 2),
    okD d = true → s.me.busy { regs := [d, a, b], flags := [f] } = false → s.quietCore →
    let c := s.myCore
    let v := s.crew.sems.get 0 n.toNat
    let sem := fun (w : BitVec 8) => s.modCrew c fun x => { x with sems := x.sems.set n.toNat w }
    let rung := s.modSlot (c * 8 + n.toNat) fun t => { t with latch := true }
    (v ≠ 0 → exec (.semp d n p st) s = .next ((sem (v - 1)).withMe (s.me.ended st d (v.setWidth 64) none 0 true))) ∧
    (v = 0 → ∃ o, exec (.semp d n p st) s = .next (s.withMe (s.me.began st d none (.localOp s.me.opId) o)) ∧ s.outstanding o st p .waiting) ∧
    exec (.semv n p st) s = .next ((sem (if v = 255 then 255 else v + 1)).withMe (s.me.ended st 0 0 none 0 false)) ∧
    (s.rd a = BitVec.ofNat 64 c → c < 2 ^ 23 →
      (s.crew.queue.length < 64 →
        exec (.qpush f a b p st) s = .next ((s.modCrew c fun x => { x with queue := x.queue ++ [s.rd b] }).withMe (s.me.ended st 0 0 (some (f, true)) 0 false))) ∧
      (64 ≤ s.crew.queue.length → exec (.qpush f a b p st) s = .next (s.withMe (s.me.ended st 0 0 (some (f, false)) 0 false))) ∧
      exec (.sev n a p st) s = .next (rung.withMe (rung.me.ended st 0 0 none 0 false))) ∧
    (∀ w r, s.crew.queue = w :: r → exec (.qpop d f p st) s =
      .next ((s.modCrew c fun x => { x with queue := r, queueHead := x.queueHead + 1 }).withMe (s.me.ended st d w (some (f, true)) 0 false))) ∧
    (s.crew.queue = [] → exec (.qpop d f p st) s = .next (s.withMe (s.me.ended st d (s.rd d) (some (f, false)) 0 false))) ∧
    (s.me.latch = true → exec (.wfe p st) s = .next (s.withMe { s.me.ended st 0 0 none 0 true with latch := false })) ∧
    (s.me.latch = false → ∃ o, exec (.wfe p st) s = .next (s.withMe (s.me.began st 0 none (.localOp s.me.opId) o)) ∧ s.outstanding o st p .waiting)

/-- Named barriers (R317, R319, R321): BARQ counts at the quad barrier of its job and waits for the target; BARA and BARW send an arrival to the logic of their scope
where the job owns the barrier, and trap 0x0B at their next boundary where it does not. -/
def Obligations.Barriers : Prop :=
  ∀ (s : State) (c : BitVec 3) (a : BitVec 5) (b : BitVec 4) (q : BitVec 2) (p : BitVec 4) (st : BitVec 2), s.me.busy { regs := [a] } = false → s.fresh →
    let i := s.me.job.toNat * 4 + q.toNat
    let bar := (s.quad s.myQuad).barriers.get {} i
    let want : BitVec 32 := BitVec.ofNat 32 (min 32 (max 1 ((s.rd a).toNat % 64)))
    let target := if bar.count = 0 then want else bar.target
    let set := fun (x : Barrier) => s.modQuad s.myQuad fun y => { y with barriers := y.barriers.set i x }
    (bar.waiters = [] → bar.count + 1 = target →
      exec (.barq a q p st) s = .next ((set { bar with phase := bar.phase + 1, count := 0, target := target, waiters := [] }).withMe (s.me.ended st 0 0 none 0 true))) ∧
    (bar.count + 1 ≠ target → exec (.barq a q p st) s =
      .next ((set { bar with count := bar.count + 1, target := target, waiters := bar.waiters ++ [(s.cur, s.me.opId)] }).withMe
        { s.me.took st with st := .wait, hold := .localOp s.me.opId, issued := s.me.issued + 1, waited := 0 })) ∧
    (wellFormed (.bara c a b p st) = true →
      let own := (s.die s.myPeer).owners.get 0 (if c = 2 then b.toNat else if c = 3 then 16 + b.toNat else 24 + b.toNat) = (1 : BitVec 1) ++ s.me.job
      let sent := fun (w : Bool) => s.modDie s.myPeer fun d => { d with
        arrivals := d.arrivals ++ [{ scope := c.toNat, num := b.toNat, slot := s.cur, job := s.me.job, opId := s.me.opId, waits := w, p := (s.rd a).setWidth 32 }] }
      let refused : Trap := { cause := 0x0B, addr := s.rd a, detail := BitVec.ofNat 64 s.myPeer, stream := st, mask := p, seq := (s.me.stream st.toNat).next }
      (own → (∃ o, exec (.bara c a b p st) s = .next ((sent false).withMe (s.me.began st 0 none .none o)) ∧ s.outstanding o st p .sent) ∧
        ∃ o, exec (.barw c a b p st) s = .next ((sent true).withMe (s.me.began st 0 none (.localOp s.me.opId) o)) ∧ s.outstanding o st p .sent) ∧
      (¬own → exec (.bara c a b p st) s = .next (s.withMe { s.me.ended st 0 0 none 0 false with trapNext := s.me.trapNext ++ [refused] }) ∧
        exec (.barw c a b p st) s = .next (s.withMe { s.me.ended st 0 0 none 0 true with trapNext := s.me.trapNext ++ [refused] })))

/-- Tickets (R46, R47, R323 to R325): TKGET and TKDONE send their packet to the class, TKWAIT of a word already called goes on, one of another word registers a waiter and
is held. -/
def Obligations.Tickets : Prop :=
  ∀ (s : State) (d a : BitVec 5) (c : BitVec 4) (p : BitVec 4) (st : BitVec 2), okD d = true → s.me.busy { regs := [d, a] } = false → s.fresh →
    let peer := ((s.rd a).setWidth 13).toNat
    let hop := fun (k : Pkt) => ({ pkt := k, loc := if s.myPeer = peer then .arrived peer else .source s.myPeer } : Flight)
    let word := s.rd a
    let from' := ((word >>> 32).setWidth 13).toNat
    let key := from' * 16 + ((word >>> 45).setWidth 4).toNat
    let n : BitVec 32 := word.setWidth 32
    s.myPeer < 2 ^ 13 →
    ((peer = s.myPeer ∨ s.peerRefuses s.myPeer s.me.job peer = none) →
      (∃ o, exec (.tkgetInsn d a c p st) s = .next (({ s with net := s.net ++ [hop { s.packetOf o 0 0x08 peer c.toNat 0 with operand := 0 }] } : State).withMe
        (s.me.began st d none .none o)) ∧ s.outstanding o st p .sent) ∧
      ∃ o, exec (.tkdoneInsn a c p st) s = .next (({ s with net := s.net ++ [hop { s.packetOf o 0 0x0A peer c.toNat 0 with operand := 0 }] } : State).withMe
        (s.me.began st 0 none .none o)) ∧ s.outstanding o st p .sent) ∧
    (word.getLsbD 63 = true → exec (.tkwait a p st) s = .next (s.withMe (s.me.ended st 0 0 none 0 true))) ∧
    (word.getLsbD 63 = false → (s.die s.myPeer).called.find key = none → from' = s.myPeer → (s.die s.myPeer).tkWaiters = [] →
      ∃ o, exec (.tkwait a p st) s = .next (({ s.modDie s.myPeer (fun x => { x with tkWaiters := [(s.cur, (s.me.opId, word))] }) with
          net := s.net ++ [{ pkt := { type := 0x09, job := s.me.job, src := BitVec.ofNat 13 s.myPeer, dst := BitVec.ofNat 13 s.myPeer, off := BitVec.ofNat 44 (key % 16), operand := n.setWidth 64 }, loc := .arrived s.myPeer }] } : State).withMe (s.me.began st 0 none (.reply s.me.opId) o)) ∧ s.outstanding o st p .sent)

/-- Collectives at their thread (R48, R49, R51, R327 to R329): a contribution of the open instance is kept by the router; one of another instance, or a second of the die,
is refused; every CTRES of an instance that refused the thread's own contribution returns REFUSED, any other the outcome kept at the die, or it waits; an abort request
for the open instance goes toward the root, one for another changes nothing; a contribution to a group of another job traps 0x0B. That one to an entry that is not valid
traps too is log entry 46's choice. -/
def Obligations.Collectives : Prop :=
  ∀ (s : State) (d a b : BitVec 5) (f : BitVec 3) (p : BitVec 4) (st : BitVec 2), okD d = true → s.me.busy { regs := [d, a, b], flags := [f] } = false → s.fresh →
    let k := s.myPeer / 4
    let g := ((s.rd a).setWidth 8).toNat
    let seq : BitVec 32 := ((s.rd a) >>> 32).setWidth 32
    let x := (s.pkg k).groups.get {} g
    let die := s.myPeer % 4
    let mine := x.valid = true ∧ x.job = s.me.job
    let notMine : Trap := { cause := 0x0B, addr := s.rd a, detail := BitVec.ofNat 64 s.myPeer, stream := st, mask := p, seq := (s.me.stream st.toNat).next }
    let y : Group := { x with dies := x.dies.set die (s.rd b) }
    let key := refusedKey g seq
    let refuses := s.withMe { s.me.ended st 0 0 none 0 false with ctRefused := s.me.ctRefused.insert key }
    (mine → seq = x.seq → x.member die = true → x.dies.has die = false → y.complete = false →
      exec (.ctrb a b p st) s = .next ((s.modPkg k fun e => { e with groups := e.groups.set g y }).withMe
        { s.me.ended st 0 0 none 0 false with ctRefused := s.me.ctRefused.remove key })) ∧
    (mine → seq ≠ x.seq ∨ x.dies.has die = true → exec (.ctrb a b p st) s = .next refuses) ∧
    (¬mine → exec (.ctrb a b p st) s = .next (s.withMe { s.me.ended st 0 0 none 0 false with trapNext := s.me.trapNext ++ [notMine] })) ∧
    (s.me.ctRefused.mem key = true → exec (.ctres d a f p st) s = .next (s.withMe (s.me.ended st d 2 (some (f, false)) 0 false))) ∧
    (∀ v, s.me.ctRefused.mem key = false → (s.die s.myPeer).ctOut.find g = some (seq, 0, v) →
      exec (.ctres d a f p st) s = .next (s.withMe (s.me.ended st d v (some (f, true)) 0 false))) ∧
    (∀ v, s.me.ctRefused.mem key = false → (s.die s.myPeer).ctOut.find g = some (seq, 1, v) →
      exec (.ctres d a f p st) s = .next (s.withMe (s.me.ended st d 1 (some (f, false)) 0 false))) ∧
    (s.me.ctRefused.mem key = false → (s.die s.myPeer).ctOut.find g = none →
      ∃ o, exec (.ctres d a f p st) s = .next (s.withMe (s.me.began st d (some f) .none o)) ∧ s.outstanding o st p .waiting) ∧
    (mine → seq ≠ x.seq → exec (.ctabtInsn a p st) s = .next (s.withMe (s.me.ended st 0 0 none 0 false))) ∧
    (mine → seq = x.seq → x.isRoot = false →
      exec (.ctabtInsn a p st) s = .next (({ s with net := s.net ++ [{
        pkt := { type := 0x12, job := x.job, off := BitVec.ofNat 44 g, payload := seq.setWidth 2048, plen := 4, hops := 1, fn := 1, operand := 0 },
        loc := s.treePlace k x.parent }] } : State).withMe (s.me.ended st 0 0 none 0 false)))

/-- Threads (R88, R132 to R134, R138, R143, R331 to R334): SPAWN counts a live thread and sends its packet, or clears its flag where the start address is bad; MIGR holds
its thread for MIGR_SEND; EXIT takes the next number of its stream and drains; YIELD passes its next turn; CKPT, in a plain region of the own stash, writes the 320 dwords
of the context with the PC after it and keeps the address, changes no other byte, and the thread goes on. That EXIT's own number never counts as outstanding is the
reading of log entry 31, and the places in a SPAWN packet's payload are log entry 10's choice. -/
def Obligations.TaskInstructions : Prop :=
  (∀ (s : State) (f : BitVec 3) (a b : BitVec 5) (p : BitVec 4) (st : BitVec 2),
      s.me.busy { regs := [a, b, 24, 25, 26, 27], flags := [f] } = false → s.fresh →
      let pc := s.rd b
      let live := s.liveOf s.me.job s.me.par
      let fails := ∃ o, exec (.spawn f a b p st) s = .next (s.withMe { s.me.began st 0 (some f) .none o with
          replies := s.me.replies ++ [{ dest := .none, flag := some (f, some false), wakes := some s.me.opId }] }) ∧ s.outstanding o st p .done
      (badAddr pc → fails) ∧
      (∀ m, m < 1024 → s.rd a = BitVec.ofNat 64 (s.myPeer * 1024 + m) → s.myPeer < 2 ^ 13 → ¬badAddr pc →
        (65535 ≤ live → fails) ∧
        (live < 65535 → ∃ o k, exec (.spawn f a b p st) s =
            .next (({ s.addLive s.me.job s.me.par true with net := s.net ++ [{ pkt := k, loc := .arrived s.myPeer }] } : State).withMe (s.me.began st 0 (some f) .none o)) ∧
          s.outstanding o st p .sent ∧ k.type = 0x07 ∧ k.fn = taskSpawn ∧ k.off = BitVec.ofNat 44 m ∧ k.operand = pc ∧ k.job = s.me.job ∧
          (∀ i, i < 4 → k.dword (1 + i) = s.me.w (16 + i)) ∧ k.parcel.parcel = s.me.par.parcel)) ∧
      (s.me.loops = [] → (s.rd a).getLsbD 63 = false → s.me.resident.toNat ≤ 1 →
        ∃ o, exec (.migr f a p st) s = .next (s.withMe (s.me.began st 0 (some f) (.localOp s.me.opId) o)) ∧ s.outstanding o st p .held) ∧
      (s.me.loops ≠ [] ∨ (s.rd a).getLsbD 63 = true → Traps s (.migr f a p st) 0x01 0 ((encode (.migr f a p st)).setWidth 64)) ∧
      exec (.exit p st) s = .next (s.withMe { s.me with
        st := .exiting, hold := .none, waited := 0, issued := s.me.issued + 1,
        streams := s.me.streams.set st.toNat { s.me.stream st.toNat with next := (s.me.stream st.toNat).next + 1 } }) ∧
      exec (.yield p st) s = .next (s.withMe { s.me.ended st 0 0 none 0 false with skip := true })) ∧
  (∀ (s : State) (a : BitVec 5) (p : BitVec 4) (st : BitVec 2) (off : Nat), s.me.busy { regs := [a] } = false → s.fresh → s.me.noPending = true → s.me.replies = [] →
      localPlace s.myCore (s.rd a) = .stash s.myCore off → off % 64 = 0 → off + 2560 ≤ 0x4_0000 → s.memoryOk = true → s.stashPoison = [] →
      (∀ i, i < 320 → s.boundHere s.myCore (off + 8 * i) = none) →
      let after := loopStep s.me.wdepth (s.me.pc + 4) s.me.loops
      let me := { s.me.ended st 0 0 none 0 true with ckpt := some (s.rd a), mismatched := false }
      ∃ t, exec (.ckpt a p st) s = .next t ∧ t = { s with stash := t.stash, slots := s.slots.set s.cur me } ∧
        (∀ j, j < 320 → t.stashRead s.myCore (off + 8 * j) 8 = contextDword { s.me.took st with loops := after.2 } after.1 0 0 j) ∧
        (∀ k, k < stashKey s.myCore off ∨ stashKey s.myCore off + 2560 ≤ k → t.stash.read k = s.stash.read k))

/-- Vector moves and logic (R117, R335, R337): each of the untyped operations, with its fn, its short form, its lanes under the write mask, VSEL in all 16 lanes; every
other register and everything else as before. -/
def Obligations.VectorMoves : Prop :=
  ∀ (s : State) (d a b : BitVec 4) (k : BitVec 3),
    (∀ i n, (i, n) ∈ [(Instr.vmov d a k, (0 : BitVec 7)), (.vand d a b k, 10), (.vor d a b k, 11), (.vxor d a b k, 12), (.vandn d a b k, 13), (.vperm d a b k, 23), (.vsel d a b k, 24)] →
      bits (encode i) 7 7 = n) ∧
    (s.me.busy { vecs := [d.toNat, a.toNat, b.toNat] } = false → (∀ g, s.quiet g) →
    let m := s.me.k k.toNat
    let x := fun (l : Nat) => lane (s.me.v a.toNat) l
    let y := fun (l : Nat) => lane (s.me.v b.toNat) l
    let z := fun (l : Nat) => lane (s.me.v d.toNat) l
    GivesV s (.vmov d a k) d m (fun l => (x l, 0)) ∧ GivesV s (.vand d a b k) d m (fun l => (x l &&& y l, 0)) ∧ GivesV s (.vor d a b k) d m (fun l => (x l ||| y l, 0)) ∧
    GivesV s (.vxor d a b k) d m (fun l => (x l ^^^ y l, 0)) ∧ GivesV s (.vandn d a b k) d m (fun l => (x l &&& ~~~y l, 0)) ∧
    GivesV s (.vperm d a b k) d m (fun l => (x ((y l).toNat % 16), 0)) ∧ GivesV s (.vsel d a b k) d 0xFFFF (fun l => (if m.getLsbD l then x l else y l, 0)) ∧
    (k ≠ 0 ∨ a ≠ 0 ∨ d ≠ 0 → GivesV s (.vmovShort k a d) d m (fun l => (x l, 0))) ∧ GivesV s (.vandShort k a d) d m (fun l => (z l &&& x l, 0)) ∧ GivesV s (.vorShort k a d) d m (fun l => (z l ||| x l, 0)) ∧
    GivesV s (.vxorShort k a d) d m (fun l => (z l ^^^ x l, 0)) ∧ GivesV s (.vselShort k a d) d 0xFFFF (fun l => (if m.getLsbD l then x l else z l, 0)))

/-- Vector arithmetic on 32-bit integers, which wraps (R252, R335, R338): the .i32 and .n32 forms and the short ones. -/
def Obligations.VectorIntegers : Prop :=
  ∀ (s : State) (d a b : BitVec 4) (k : BitVec 3), s.me.busy { vecs := [d.toNat, a.toNat, b.toNat] } = false → (∀ g, s.quiet g) →
    let m := s.me.k k.toNat
    let x := fun (l : Nat) => lane (s.me.v a.toNat) l
    let y := fun (l : Nat) => lane (s.me.v b.toNat) l
    let z := fun (l : Nat) => lane (s.me.v d.toNat) l
    let n := fun (l : Nat) => (y l).toNat % 32
    (∀ t : BitVec 3, t = 0 ∨ t = 1 → GivesV s (.vadd d a b k t) d m (fun l => (x l + y l, 0)) ∧ GivesV s (.vsub d a b k t) d m (fun l => (x l - y l, 0)) ∧
      GivesV s (.vmul d a b k t) d m (fun l => (x l * y l, 0)) ∧ GivesV s (.vshl d a b k t) d m (fun l => (x l <<< n l, 0)) ∧
      GivesV s (.vshr d a b k t) d m (fun l => (x l >>> n l, 0))) ∧
    GivesV s (.vsra d a b k 0) d m (fun l => ((x l).sshiftRight (n l), 0)) ∧
    GivesV s (.vmulh d a b k 0) d m (fun l => (BitVec.ofInt 32 ((x l).toInt * (y l).toInt / 2 ^ 32), 0)) ∧
    GivesV s (.vmulh d a b k 1) d m (fun l => (BitVec.ofNat 32 ((x l).toNat * (y l).toNat / 2 ^ 32), 0)) ∧
    GivesV s (.vmax d a b k 0) d m (fun l => (if (x l).toInt < (y l).toInt then y l else x l, 0)) ∧
    GivesV s (.vmin d a b k 0) d m (fun l => (if (y l).toInt < (x l).toInt then y l else x l, 0)) ∧
    GivesV s (.vmax d a b k 1) d m (fun l => (if (x l).toNat < (y l).toNat then y l else x l, 0)) ∧
    GivesV s (.vmin d a b k 1) d m (fun l => (if (y l).toNat < (x l).toNat then y l else x l, 0)) ∧
    GivesV s (.vabs d a k 0) d m (fun l => (if (x l).toInt < 0 then -x l else x l, 0)) ∧ GivesV s (.vneg d a k 0) d m (fun l => (-x l, 0)) ∧
    (∀ t : BitVec 3, t = 0 ∨ t = 1 → GivesV s (.vclz d a k t) d m (fun l => (BitVec.ofNat 32 (leadingZeros ((x l).setWidth 64) 32), 0)) ∧
      GivesV s (.vpopc d a k t) d m (fun l => (BitVec.ofNat 32 ((List.range 32).filter fun i => (x l).getLsbD i).length, 0))) ∧
    GivesV s (.vaddI32Short k a d) d m (fun l => (z l + x l, 0)) ∧ GivesV s (.vsubI32Short k a d) d m (fun l => (z l - x l, 0)) ∧
    GivesV s (.vshlI32Short k a d) d m (fun l => (z l <<< ((x l).toNat % 32), 0)) ∧ GivesV s (.vshrN32Short k a d) d m (fun l => (z l >>> ((x l).toNat % 32), 0))

/-- Vector arithmetic on FP32 lanes (R252, R335, R339, R340): each lane's rounded result and flags. -/
def Obligations.VectorFloats : Prop :=
  ∀ (s : State) (d a b : BitVec 4) (k : BitVec 3), s.me.busy { vecs := [d.toNat, a.toNat, b.toNat] } = false → (∀ g, s.quiet g) →
    let m := s.me.k k.toNat
    let x := fun (l : Nat) => (lane (s.me.v a.toNat) l).setWidth 64
    let y := fun (l : Nat) => (lane (s.me.v b.toNat) l).setWidth 64
    let z := fun (l : Nat) => (lane (s.me.v d.toNat) l).setWidth 64
    let low := fun (r : Res) => (r.1.setWidth 32, r.2)
    let v := f32.unpack
    GivesV s (.vadd d a b k 2) d m (fun l => low (f32.finish .rne ((v (x l)).add .rne (v (y l))))) ∧
    GivesV s (.vsub d a b k 2) d m (fun l => low (f32.finish .rne ((v (x l)).add .rne (v (y l)).neg))) ∧
    GivesV s (.vmul d a b k 2) d m (fun l => low (f32.finish .rne ((v (x l)).mul (v (y l))))) ∧
    GivesV s (.vfma d a b k 2) d m (fun l => low (f32.finish .rne ((v (x l)).fma .rne (v (y l)) (v (z l))))) ∧
    GivesV s (.vfms d a b k 2) d m (fun l => low (f32.finish .rne ((v (x l)).neg.fma .rne (v (y l)) (v (z l))))) ∧
    GivesV s (.vmax d a b k 2) d m (fun l => low (f32.max (x l) (y l), 0)) ∧ GivesV s (.vmin d a b k 2) d m (fun l => low (f32.min (x l) (y l), 0)) ∧
    GivesV s (.vabs d a k 2) d m (fun l => low (f32.exact (v (x l)).abs, 0)) ∧ GivesV s (.vneg d a k 2) d m (fun l => low (f32.exact (v (x l)).neg, 0)) ∧
    GivesV s (.vrcp d a k) d m (fun l => low (f32.finish .rne ((v 0x3F80_0000).div 26 (v (x l))))) ∧
    GivesV s (.vrsq d a k) d m (fun l => low (f32.finish .rne (rsqrt (v (x l))))) ∧
    GivesV s (.vaddF32Short k a d) d m (fun l => low (f32.finish .rne ((v (z l)).add .rne (v (x l))))) ∧
    GivesV s (.vsubF32Short k a d) d m (fun l => low (f32.finish .rne ((v (z l)).add .rne (v (x l)).neg))) ∧
    GivesV s (.vmulF32Short k a d) d m (fun l => low (f32.finish .rne ((v (z l)).mul (v (x l))))) ∧
    GivesV s (.vmaxF32Short k a d) d m (fun l => low (f32.max (z l) (x l), 0)) ∧ GivesV s (.vminF32Short k a d) d m (fun l => low (f32.min (z l) (x l), 0))

/-- Vector arithmetic on packed elements (R248, R252, R335, R338, R339, R341): two 16-bit or four 8-bit elements in a lane, integers saturating, and conversion in element
order. -/
def Obligations.VectorPacked : Prop :=
  ∀ (s : State) (d a b : BitVec 4) (k y c : BitVec 3), s.me.busy { vecs := [d.toNat, a.toNat, b.toNat] } = false → (∀ g, s.quiet g) →
    let m := s.me.k k.toNat
    let f := tyFmt y
    let w := elemBits y
    let at' := fun (r : BitVec 4) (l j : Nat) => (lane (s.me.v r.toNat) l).toNat / 2 ^ (j * w) % 2 ^ w
    let fp := fun (g : Val → Val → Val × BitVec 6) (l j : Nat) => fpResult (f.finish .rne (g (f.unpack (BitVec.ofNat 64 (at' a l j))) (f.unpack (BitVec.ofNat 64 (at' b l j)))))
    let int := fun (g : Int → Int → Int) (l j : Nat) => clampTo y (g (intOf y (at' a l j)) (intOf y (at' b l j)))
    let both := fun (i : Instr) (g : Nat → Nat → Nat × BitVec 6) => GivesV s i d m fun l => laneOf y (g l)
    (y = 3 ∨ y = 4 →
      both (.vadd d a b k y) (fp (fun p q => p.add .rne q)) ∧ both (.vsub d a b k y) (fp (fun p q => p.add .rne q.neg)) ∧ both (.vmul d a b k y) (fp (fun p q => p.mul q)) ∧
      both (.vfma d a b k y) (fun l j => fp (fun p q => p.fma .rne q (f.unpack (BitVec.ofNat 64 (at' d l j)))) l j) ∧
      both (.vfms d a b k y) (fun l j => fp (fun p q => p.neg.fma .rne q (f.unpack (BitVec.ofNat 64 (at' d l j)))) l j)) ∧
    (y = 5 ∨ y = 6 →
      both (.vadd d a b k y) (int (· + ·)) ∧ both (.vsub d a b k y) (int (· - ·)) ∧ both (.vmul d a b k y) (int (· * ·)) ∧
      both (.vmax d a b k y) (int max) ∧ both (.vmin d a b k y) (int min) ∧ both (.vabs d a k y) (int fun p _ => if p < 0 then -p else p) ∧ both (.vneg d a k y) (int fun p _ => -p)) ∧
    (y = 4 → both (.vaddB2Short k a d) (fun l j => fpResult (bf16.finish .rne ((bf16.unpack (BitVec.ofNat 64 (at' d l j))).add .rne (bf16.unpack (BitVec.ofNat 64 (at' a l j)))))) ∧
      both (.vmulB2Short k a d) (fun l j => fpResult (bf16.finish .rne ((bf16.unpack (BitVec.ofNat 64 (at' d l j))).mul (bf16.unpack (BitVec.ofNat 64 (at' a l j))))))) ∧
    (wellFormed (.vcvt d c b k y) = true → both (.vcvt d c b k y) fun l j =>
      let n := l * perLane y + j
      if n < 16 * perLane c then cvtElem c y ((lane (s.me.v b.toNat) (n / perLane c)).toNat / 2 ^ (n % perLane c * elemBits c) % 2 ^ elemBits c) else (0, 0))

/-- Moves between scalar and vector registers, and reductions (R343 to R346). -/
def Obligations.VectorScalars : Prop :=
  ∀ (s : State) (d : BitVec 4) (a b r : BitVec 5) (k : BitVec 3), okD r = true → s.me.busy { regs := [a, b, r], vecs := [d.toNat] } = false → (∀ g, s.quiet g) →
    let m := s.me.k k.toNat
    let x := fun (l : Nat) => lane (s.me.v d.toNat) l
    let on := ((List.range 16).filter fun l => m.getLsbD l).map x
    GivesV s (.vbcast d a k) d m (fun _ => ((s.rd a).setWidth 32, 0)) ∧
    GivesV s (.viota d a k) d m (fun l => ((s.rd a).setWidth 32 + BitVec.ofNat 32 ((List.range l).filter fun j => m.getLsbD j).length, 0)) ∧
    GivesV s (.vins d a b) d (1 <<< ((s.rd b).toNat % 16)) (fun _ => ((s.rd a).setWidth 32, 0)) ∧
    Gives s (.vext r d b) r ((x ((s.rd b).toNat % 16)).setWidth 64) ∧
    Gives s (.vredadd r d 0 k) r (BitVec.ofInt 64 (on.map BitVec.toInt).sum) ∧ Gives s (.vredadd r d 1 k) r (BitVec.ofNat 64 (on.map BitVec.toNat).sum) ∧
    Gives s (.vredmax r d 0 k) r (BitVec.ofInt 64 (on.foldl (fun p q => max p q.toInt) (-2 ^ 31))) ∧
    Gives s (.vredmin r d 0 k) r (BitVec.ofInt 64 (on.foldl (fun p q => min p q.toInt) (2 ^ 31 - 1))) ∧
    Gives s (.vredmax r d 1 k) r (BitVec.ofNat 64 (on.foldl (fun p q => max p q.toNat) 0)) ∧
    Gives s (.vredmin r d 1 k) r (BitVec.ofNat 64 (on.foldl (fun p q => min p q.toNat) (2 ^ 32 - 1))) ∧
    (m = 0 → Gives s (.vredmax r d 2 k) r 0xFF80_0000 ∧ Gives s (.vredmin r d 2 k) r 0x7F80_0000) ∧
    (∀ l, l < 16 → m = 1 <<< l → Gives s (.vredmax r d 2 k) r (f32.max ((x l).setWidth 64) ((x l).setWidth 64)) ∧ Gives s (.vredmin r d 2 k) r (f32.min ((x l).setWidth 64) ((x l).setWidth 64))) ∧
    (let p := fun (l : Nat) => if m.getLsbD l then (x l).setWidth 64 else (0x8000_0000 : Word)
     let add := fun (u v : Res) => let q := f32.add .rne u.1 v.1; (q.1, u.2 ||| v.2 ||| q.2)
     let two := fun (l : Nat) => add (p l, 0) (p (l + 1), 0)
     let four := fun (l : Nat) => add (two l) (two (l + 2))
     let eight := fun (l : Nat) => add (four l) (four (l + 4))
     GivesF s (.vredfadd r d k) r (add (eight 0) (eight 8)))

/-- Masks, comparisons into them and tables (R117, R236, R342, R352 to R358): k0 reads all ones and is no destination; VTLCFG sets an aligned table of the own stash,
VTBLW writes up to five of its segments, VTLERP interpolates each enabled lane. -/
def Obligations.MasksAndTables : Prop :=
  (∀ (s : State) (d a b : BitVec 3) (r : BitVec 5) (f : BitVec 3) (u v : BitVec 4) (y o : BitVec 3), okD r = true →
      s.me.busy { regs := [r], vecs := [u.toNat, v.toNat], flags := [f] } = false →
      let x := s.me.k a.toNat
      let z := s.me.k b.toNat
      (d ≠ 0 → GivesK s (.kand d a b) d (x &&& z) ∧ GivesK s (.kor d a b) d (x ||| z) ∧ GivesK s (.kxor d a b) d (x ^^^ z) ∧ GivesK s (.knot d a) d (~~~x) ∧
        GivesK s (.kset d r) d ((s.rd r).setWidth 16) ∧ GivesK s (.klen d r) d (BitVec.ofNat 16 (2 ^ min (s.rd r).toNat 16 - 1))) ∧
      (d = 0 → Traps s (.kand d a b) 0x01 0 ((encode (.kand d a b)).setWidth 64) ∧ Traps s (.kset d r) 0x01 0 ((encode (.kset d r)).setWidth 64)) ∧
      Gives s (.kget r a) r (x.setWidth 64) ∧ Gives s (.kpop r a) r (BitVec.ofNat 64 ((List.range 16).filter fun i => x.getLsbD i).length) ∧
      (∃ n, n ≤ 16 ∧ (∀ i, i < n → x.getLsbD i = false) ∧ (n < 16 → x.getLsbD n = true) ∧ Gives s (.kfirst r a) r (BitVec.ofNat 64 n)) ∧
      GivesFlag s (.kany f a) f (decide (x ≠ 0)) ∧
      (∀ (g : BitVec 1), wellFormed (.vcmp g d u v a y o) = true → ∃ t, exec (.vcmp g d u v a y o) s = .next t ∧
        (∀ r, r ≠ d.toNat → t.me.k r = s.me.k r) ∧ t = s.withMe { s.me.advance 4 with kregs := t.me.kregs } ∧
        ∀ l, l < 16 → (t.me.k d.toNat).getLsbD l = if x.getLsbD l then
            (g = 0 || (s.me.k d.toNat).getLsbD l) && vcond y o (lane (s.me.v u.toNat) l) (lane (s.me.v v.toNat) l) else (s.me.k d.toNat).getLsbD l)) ∧
  (∀ (s : State) (t : BitVec 2) (a b : BitVec 5) (d x : BitVec 4) (k : BitVec 3), s.me.busy { regs := [a, b], vecs := [d.toNat, x.toNat] } = false → (∀ g, s.quiet g) →
      let y := s.rd b
      let table := s.crew.tables.get {} t.toNat
      let base := stashKey s.myCore (table.base.toNat)
      let i := (s.rd a).toNat % 64
      let n := 3 * min 5 (64 - i)
      let m := s.me.k k.toNat
      (y.toNat < 2 ^ 18 → y.toNat % 32768 ≤ 32000 → y.toNat % 64 = 0 → (s.region s.myCore (y.toNat / 0x8000)).bound = false → exec (.vtlcfg t a b) s =
        .next ((s.modCrew s.myCore fun c => { c with tables := c.tables.set t.toNat { x0 := (s.rd a).setWidth 32, scale := (s.rd a).extractLsb' 32 32, valid := true, base := y.setWidth 18 } }).withMe
          (s.me.advance 4))) ∧
      (2 ^ 18 ≤ y.toNat → Traps s (.vtlcfg t a b) 0x09 y 0) ∧
      (y.toNat < 2 ^ 18 → y.toNat % 32768 ≤ 32000 → y.toNat % 64 ≠ 0 → (s.region s.myCore (y.toNat / 0x8000)).bound = false → Traps s (.vtlcfg t a b) 0x05 y 0) ∧
      (table.valid = false → Traps s (.vtblw t a x) 0x01 0 ((encode (.vtblw t a x)).setWidth 64) ∧ Traps s (.vtlerp d x t k) 0x01 0 ((encode (.vtlerp d x t k)).setWidth 64)) ∧
      (table.valid = true → (s.region s.myCore (table.base.toNat / 0x8000)).bound = false → s.me.ops = [] →
        (s.memoryOk = true → ∃ u, exec (.vtblw t a x) s = .next u ∧ (∀ l, l < n → u.stash.readN (base + 12 * i + 4 * l) 4 = lane (s.me.v x.toNat) l) ∧
          (∀ j, j < base + 12 * i ∨ base + 12 * i + 4 * n ≤ j → u.stash.read j = s.stash.read j) ∧
          u = { s with stash := u.stash, slots := s.slots.set s.cur (s.me.advance 4) }) ∧
        GivesV s (.vtlerp d x t k) d m fun l =>
          let v : Word := (lane (s.me.v x.toNat) l).setWidth 64
          let e := f32.add .rne v (f32.exact (f32.unpack (table.x0.setWidth 64)).neg)
          let u := f32.mul .rne e.1 (table.scale.setWidth 64)
          let flags := e.2 ||| u.2
          let w := f32.unpack u.1
          if (f32.unpack v).isNan || w.isNan then (0x7FC0_0000, flags)
          else
            let j := if !(Val.lt (.fin false 0 0) w) then 0 else if !(w.lt (.fin false 64 0)) then 63 else (toInt .rdn 0 63 w).1.toNat
            let p := if !(Val.lt (.fin false 0 0) w) then 0 else if !(w.lt (.fin false 64 0)) then 0x3F80_0000 else (f32.sub .rne u.1 (f32.exact (ofInt j))).1
            let c := fun (q : Nat) => (s.stash.readN (base + 12 * j + 4 * q) 4).setWidth 64
            let r := f32.fma .rne (c 2) p (c 1)
            let q := f32.fma .rne r.1 p (c 0)
            (q.1.setWidth 32, flags ||| r.2 ||| q.2)))

/-- Vector accesses to plain stash words with nothing outstanding (R147, R189, R347 to R351): a load brings the enabled lanes by a reply, a store writes them and no other
byte; with no lane enabled nothing is accessed; VLD and VST of a lane at an address of no local place trap before anything is read or written. That this trap has detail 0
is the reading of log entry 31. -/
def Obligations.VectorMemory : Prop :=
  ∀ (s : State) (d v : BitVec 4) (a : BitVec 5) (st : BitVec 2) (p : BitVec 4) (k c : BitVec 3) (o : BitVec 7) (off : Nat),
    s.me.busy { regs := [a], vecs := [d.toNat, v.toNat] } = false → s.fresh → s.stashPoison = [] → s.memoryOk = true →
    let m := s.me.k k.toNat
    let va := s.rd a + o.signExtend 64 * 64
    let lanes := fun (g : Nat → Word) (q : Nat → Nat) => ∀ l, l < 16 → m.getLsbD l = true → (g l) = 0x8000_0000_0000_0000 + BitVec.ofNat 64 (q l) ∧ q l < 0x4_0000 ∧ q l % 4 = 0 ∧ s.boundHere s.myCore (q l) = none
    let row := fun (l : Nat) => va + BitVec.ofNat 64 (4 * l)
    let each := fun (l : Nat) => s.rd a + ((lane (s.me.v v.toNat) l).signExtend 64 <<< c.toNat)
    let loads := fun (i : Instr) (q : Nat → Nat) (f : BitVec 32 → BitVec 32) => ∃ x : Vec, exec i s = .next (s.withMe (s.me.endedV st d x m 0)) ∧
      ∀ l, l < 16 → m.getLsbD l = true → lane x l = f (s.stashRead s.myCore (q l) 4)
    let stores := fun (i : Instr) (q : Nat → Nat) => ∃ t, exec i s = .next t ∧
      (∀ l, l < 16 → m.getLsbD l = true → (∀ j, l < j → j < 16 → m.getLsbD j = true → q j ≠ q l) → t.stashRead s.myCore (q l) 4 = lane (s.me.v d.toNat) l) ∧
      (∀ x, (∀ l, l < 16 → m.getLsbD l = true → x < stashKey s.myCore (q l) ∨ stashKey s.myCore (q l) + 4 ≤ x) → t.stash.read x = s.stash.read x) ∧
      t = { s with stash := t.stash, slots := s.slots.set s.cur (s.me.ended st 0 0 none 0 false) }
    (m = 0 → exec (.vld d a st p k o) s = .next (s.withMe (s.me.ended st 0 0 none 0 false)) ∧ exec (.vst d a st p k o) s = .next (s.withMe (s.me.ended st 0 0 none 0 false)) ∧
      exec (.vldd d a st p k o) s = .next (s.withMe (s.me.ended st 0 0 none 0 false)) ∧
      (c ≠ 7 → exec (.vldx d v a st p k c) s = .next (s.withMe (s.me.ended st 0 0 none 0 false)) ∧ exec (.vstx d v a st p k c) s = .next (s.withMe (s.me.ended st 0 0 none 0 false)))) ∧
    (m ≠ 0 → lanes row (fun l => off + 4 * l) →
      loads (.vld d a st p k o) (fun l => off + 4 * l) id ∧ stores (.vst d a st p k o) (fun l => off + 4 * l) ∧
      (va = 0x8000_0000_0000_0000 + BitVec.ofNat 64 off → off + 64 ≤ 0x4_0000 →
        ((s.region s.myCore (off / 0x8000)).fmt = 0 → loads (.vldd d a st p k o) (fun l => off + 4 * l) id) ∧
        ((s.region s.myCore (off / 0x8000)).fmt = 1 → loads (.vldd d a st p k o) (fun l => off + 4 * l) fun x => if (f32.unpack (x.setWidth 64)).isNan then 0x7FC0_0000 else x))) ∧
    (∀ q : Nat → Nat, c ≠ 7 → m ≠ 0 → lanes each q → loads (.vldx d v a st p k c) q id ∧ stores (.vstx d v a st p k c) q) ∧
    (∀ l, l < 16 → m.getLsbD l = true → (∀ j, j < l → m.getLsbD j = true → ∃ x y, localPlace s.myCore (row j) = .stash x y ∧ s.boundHere x y = none) → 2 ^ 63 ≤ (row l).toNat →
      localPlace s.myCore (row l) = .nowhere → Traps s (.vld d a st p k o) 0x09 (row l) 0 ∧ Traps s (.vst d a st p k o) 0x09 (row l) 0)

/-- Matrix commands (R116, R359 to R361, R370 to R379): a thread that is not in slot 6 takes the illegal-engine trap with its encoding, a full dispatch queue makes it
wait, else the command enters its core's queue with its function, parameters and destination, is released with the snapshots of R208, and the thread goes on. -/
def Obligations.MatrixIssue : Prop :=
  ∀ (s : State) (d : BitVec 5) (v : BitVec 4) (st : BitVec 2) (p : BitVec 4) (f : Nat) (i : Instr),
    okD d = true → s.me.busy { regs := [d], vecs := [v.toNat] } = false →
    (f, i) ∈ [(0, .mopen d v st p), (1, .mma d v st p), (2, .mmas d v st p), (3, .mmaw d v st p), (4, .mrot d v st p), (5, .mcont d v st p), (6, .mfwd d v st p),
      (7, .mread d v st p), (8, .mqry d v st p), (9, .mabn d v st p), (10, .mclose d v st p), (11, .mflg d v st p)] →
    (slotOf s.cur ≠ 6 → Traps s i 0x02 0 (zx (encode i))) ∧
    (slotOf s.cur = 6 → 4 ≤ s.crew.matrix.length → exec i s = .next (s.withMe { s.me with st := .wait, hold := .reissue })) ∧
    (slotOf s.cur = 6 → s.crew.matrix.length < 4 → s.fresh → (∀ e ∈ s.crew.matrix, e.slot ≠ s.cur) →
      ∃ o, s.outstanding o st p .held ∧ o.kind = .matrix f ∧ o.vec = s.me.v v.toNat ∧ o.word = encode i ∧ o.dest = s.me.destOf d ∧
        let c : EngCmd := { slot := s.cur, op := o }
        let x := (s.withMe (s.me.began st d none .none o)).modCrew s.myCore fun y => { y with matrix := y.matrix ++ [c] }
        let r := x.takeSnaps c
        exec i s = .next ((r.2.setPhase s.cur o.id .waiting).modCmd s.cur o.id fun c => { c with snaps := r.1, op := { c.op with phase := .waiting } }) ∧
        (f ∈ [0, 5, 8, 9, 10, 11] → r = ([], x)) ∧
        (f = 7 → (bits (lane o.vec 7) 16 6 : BitVec 6).toNat < 4 → r = ([{ idx := bits (lane o.vec 7) 16 6 }], x)))

/-- Copy commands and their channels (R116, R176, R359, R360, R380 to R385): a thread that is not in slot 7 takes the illegal-engine trap, a full channel makes CPY, CPY2
and CPYF wait, else the command enters its channel's queue; CPYK, which no queue holds up, ends the channel's earlier command with CANCELLED, clears sr.cpwp and answers
OK; COPY_START of a CPYF of one word in a plain region writes the pattern and no other byte, moves sr.cpwp on and ends the command, which COPY_DONE answers with its
status. -/
def Obligations.CopyCommands : Prop :=
  (∀ (s : State) (d : BitVec 5) (v : BitVec 4) (st : BitVec 2) (p : BitVec 4) (f : Nat) (i : Instr),
      okD d = true → s.me.busy { regs := [d], vecs := [v.toNat] } = false →
      (f, i) ∈ [(0, .cpy d v st p), (1, .cpy2 d v st p), (2, .cpyf d v st p), (3, .cpyk d v st p)] →
      let lane6 := lane (s.me.v v.toNat) 6
      let ch := lane6.toNat % 4
      let queue := (s.channel s.myCore ch).queue
      let status := fun (bytes outcome : Nat) => BitVec.ofNat 40 bytes ++ (0 : BitVec 14) ++ BitVec.ofNat 2 ch ++ (0 : BitVec 4) ++ BitVec.ofNat 4 outcome
      let stopped := s.modChannel s.myCore ch fun _ => {}
      (slotOf s.cur ≠ 7 → Traps s i 0x02 0 (zx (encode i))) ∧
      (slotOf s.cur = 7 → f ≠ 3 → 4 ≤ queue.length → exec i s = .next (s.withMe { s.me with st := .wait, hold := .reissue })) ∧
      (slotOf s.cur = 7 → f ≠ 3 → queue.length < 4 → s.fresh → (∀ c ∈ queue, c.slot ≠ s.cur) →
        ∃ o, s.outstanding o st p .waiting ∧ o.kind = .copy f ∧ o.vec = s.me.v v.toNat ∧ o.dest = s.me.destOf d ∧
          exec i s = .next ((s.withMe (s.me.began st d none .none o)).modChannel s.myCore ch fun c => { c with queue := c.queue ++ [{ slot := s.cur, op := o }] })) ∧
      (slotOf s.cur = 7 → f = 3 → s.fresh → lane6.toNat < 4 → queue = [] → exec i s = .next (stopped.withMe (s.me.ended st d (status 0 0) none 0 false))) ∧
      (slotOf s.cur = 7 → f = 3 → s.fresh → 4 ≤ lane6.toNat → exec i s = .next (s.withMe (s.me.ended st d (status 0 6) none 0 false))) ∧
      (∀ (o : Op) (bytes : Nat) (r : Nat), slotOf s.cur = 7 → f = 3 → lane6.toNat < 4 → s.me.ops = [o] → s.me.hasRoom st.toNat = true → (s.core s.myCore).crew.bind.lockstep = false → p = 0 →
        queue = [{ slot := s.cur, op := o, bytes := bytes, started := true }] → o.id < s.me.opId → o.parts = [] → o.dest = .reg r → o.flag = none → 8 ≤ d.toNat → s.me.st = .run →
        s.me.hold = .none →
        exec i s = .next (stopped.withMe { ((s.me.took st).mark (s.me.destOf d) true).advance 4 with
          ops := [], replies := s.me.replies ++ [{ dest := o.dest, value := (status bytes 11).setWidth 512, wakes := some o.id },
            { dest := s.me.destOf d, value := (status 0 0).setWidth 512, wakes := some s.me.opId }] }))) ∧
  (∀ (s : State) (x : CopyCmd) (rest : List CopyCmd) (c off : Nat),
      let ch := s.arg.b % 4
      let chan := s.channel s.arg.a ch
      s.copyHead s.arg.a ch = some x → chan.queue = x :: rest → (∀ y ∈ rest, y.slot ≠ x.slot ∨ y.op.id ≠ x.op.id) →
      (x.outcome = none → x.started = false → x.bytes = 0 → x.flying = 0 → x.op.copyFn = 2 → x.op.lane 4 = 8 → x.op.lane 5 = 0 → (x.op.lane 6).toNat < 4 → x.op.lane2 7 = 0 → 1 ≤ s.arg.c →
        localPlace (coreOf x.slot) (x.op.lane2 2) = .stash c off → off % 8 = 0 → s.boundHere c off = none → (s.core (coreOf x.slot)).crew.bind.lockstep = false → s.memoryOk = true →
        ∃ t, exec .copyStart s = .next t ∧ t.stashRead c off 8 = x.op.lane2 0 ∧
          (∀ k, k < stashKey c off ∨ stashKey c off + 8 ≤ k → t.stash.read k = s.stash.read k) ∧ t.mem = s.mem ∧ t.stashEmpty = s.stashEmpty ∧
          t.channel s.arg.a ch = { chan with queue := { x with started := true, bytes := 8, outcome := some 0 } :: rest, cpwp := chan.cpwp + 8 }) ∧
      (∀ oc, x.outcome = some oc → x.adopted = none → s.copyPerformed x = true → s.awaits x.slot x.op →
        exec .copyDone s = .next ((s.modChannel s.arg.a ch fun y => { y with queue := rest }).modSlot x.slot fun t => t.answered x.op (copyStatus x.bytes ch oc) 0)))

/-- The matrix engine and a store reached from afar (R41, R214, R216 to R219, R221, R224, R226, R228, R361, R369, R370, R374, R376, R379): ENGINE_ACCEPT opens a tile with
elements zero and answers its handle, or NOSLOT, and answers STALE to a contribution outside its quad; CONTRIBUTION_ARRIVAL records an accepted interval and adds its
elements, and refuses a covered one with nothing added; MROT_DELIVERY writes its rows and fills its receive word; CONTRIB takes a buffer for the first packet of an
attempt, answers NACK BUSY without one, NACK PARTITION for a job that the package does not serve; TILE_COMMAND_ARRIVAL abandons the tile that MABN names and answers
ACCEPTED, and answers STALE for a handle that names none. -/
def Obligations.EngineEvents : Prop :=
  (∀ (s : State),
      let q := s.arg.a
      let qd := s.quad q
      (∀ e, s.nextHead q = some e → s.finishedCmd q = none → quadOf (coreOf e.slot) = q → qd.staged = [] → s.awaits e.slot e.op → e.lanesOk = true →
        let job := (s.slot e.slot).job
        let x := e.p 0
        let tile : Tile := { state := stOpen, mode := x.getLsbD 0, nant := x.getLsbD 1, sat := x.getLsbD 2, m1 := bits x 24 5, n1 := bits (e.p 1) 16 5, job := job, key := e.p 3, kt := (e.p 2).setWidth 21, b := bits (e.p 1) 0 10, fa := bits x 8 6, fb := bits x 16 6, gen := 0 }
        let unit := qd.allocate (s.unitNamed q job) (x.getLsbD 0)
        (e.fn = 0 → 1 ≤ (e.p 2).toNat → (e.p 2).toNat ≤ 2 ^ 20 → tile.fa.toNat ∉ [0, 1, 3] → tile.fb.toNat ∉ [0, 1, 3] → e.p2 4 = 0 →
          (unit = none → ∃ t, exec .engineAccept s = .next t ∧ t.slot e.slot = (s.slot e.slot).answered e.op (statusWord 0 { outcome := ocNoSlot }) 0 ∧
            (t.quad q).tiles = qd.tiles) ∧
          (∀ u, unit = some u → ∃ t, exec .engineAccept s = .next t ∧ t.slot e.slot = (s.slot e.slot).answered e.op (handleOf job q u (nextGen (qd.tile u).gen)) 0 ∧
            (t.quad q).tile u = { tile with gen := nextGen (qd.tile u).gen } ∧ ∀ i j, i < 32 → j < 32 → (t.quad q).elem u i j = 0 ∧ (t.quad q).tag u i j = 0)) ∧
        (1 ≤ e.fn → e.fn ≤ 4 → handleQuad (e.p2 0) ≠ q →
          ∃ t, exec .engineAccept s = .next t ∧ t.slot e.slot = (s.slot e.slot).answered e.op (statusWord e.lo { outcome := ocStale }) 0 ∧ (t.quad q).tiles = qd.tiles)) ∧
      (∀ k id rest e c x, qd.staged = (k, id) :: rest → s.engCmd k id = some e → e.formed = some c → e.deliveries = 0 → s.awaits k e.op →
        qd.checked c.handle c.key true = .ok x → c.lo < c.hi → c.hi ≤ x.kt.toNat → c.empty = false → c.kind = 0 → c.fa = x.fa → c.fb = x.fb → x.watch = 0 → x.nant = false →
        let u := handleUnit c.handle
        let add := fun (i j : Nat) => x.addElem (qd.elem u i j) (qd.tag u i j) (c.elems.get 0 (i * 32 + j)) (c.tags.get 0 (i * 32 + j))
        let fsf := x.cells.foldl (fun (y : BitVec 6) p => y ||| (add p.1 p.2).2.2.1) 0
        (∀ r, recordAdd x.record c.lo c.hi = .ok r → ∃ t, exec .contributionArrival s = .next t ∧ ((t.quad q).tile u).record = r ∧
          ((t.quad q).tile u).state = (if r = [(0, x.kt.toNat)] then stComplete else stPartial) ∧
          (∀ i j, i < x.m → j < x.n → (t.quad q).elem u i j = (add i j).1) ∧ (∀ v, v ≠ u → (t.quad q).tile v = qd.tile v) ∧
          (∀ v i j, i < 32 → j < 32 → v ≠ u ∨ x.m ≤ i ∨ x.n ≤ j → (t.quad q).elem v i j = qd.elem v i j) ∧
          t.slot k = (s.slot k).answered e.op (statusWord e.lo { outcome := ocAccepted, cnt := r.length, done := r == [(0, x.kt.toNat)] }) (fsf ||| c.fsf)) ∧
        (∀ oc, recordAdd x.record c.lo c.hi = .error oc → ∃ t, exec .contributionArrival s = .next t ∧ (t.quad q).tiles = qd.tiles ∧ (t.quad q).elems = qd.elems ∧
          t.slot k = (s.slot k).answered e.op (statusWord e.lo { outcome := oc, cnt := x.record.length }) 0)) ∧
      (∀ r rows o n v e, qd.rots[s.arg.b]? = some r → r.rows = rows ++ [(o, n, v)] → s.stashFull r.core r.off = false → s.stashWaiters r.core r.off = [] →
        (s.gang (peerOf q / 4) (s.slot r.slot).job).phase.bars = false → s.memoryOk = true →
        (∀ x ∈ r.rows, x.1 + x.2.1 ≤ 0x4_0000 ∧ ∀ j, j < x.2.1 → s.boundHere r.core (x.1 + j) = none) →
        s.engCmd r.slot r.opId = some e → e.deliveries = 1 → e.stage = .decided → e.trap = none → e.refused = false → e.dests = [] → s.stashPoison = [] → s.awaits r.slot e.op →
        ∃ t, exec .mrotDelivery s = .next t ∧ t.stashFull r.core r.off = true ∧ t.stashRead r.core o n = BitVec.ofNat (8 * n) v ∧
          (∀ k, (∀ x ∈ r.rows, k < stashKey r.core x.1 ∨ stashKey r.core x.1 + x.2.1 ≤ k) → t.stash.read k = s.stash.read k) ∧
          (t.quad q).rots = qd.rots.eraseIdx s.arg.b ∧ t.slot r.slot = (s.slot r.slot).answered e.op e.status e.fsf)) ∧
  (∀ (s : State) (k : Pkt) (peer : Nat), s.arrived s.arg.a 0x06 = some (k, peer) →
      let q := quadKey peer (k.off.toNat % 256)
      let attempt : BitVec 32 := bits k.operand 32 32
      let left := { s with net := s.net.eraseIdx s.arg.a }
      let nack := fun (r : BitVec 4) => ({ k.nack r with payload := attempt.setWidth 2048, plen := 4 } : Pkt)
      (s.admitted peer k.job = false → (k.fn = 0 → exec .contrib s = .next (left.send (nack 2))) ∧ (k.fn ≠ 0 → exec .tileCommandArrival s = .next (left.send (nack 2)))) ∧
      (s.admitted peer k.job = true → k.fn = 0 → (bits k.operand 0 32 : BitVec 32) = 0 →
        (4 ≤ (s.quad q).buffers.length → exec .contrib s = .next (left.send (nack 1))) ∧
        ((s.quad q).buffers.length < 4 → exec .contrib s = .next (left.modQuad q fun x => { x with buffers := x.buffers ++ [{ src := k.src, req := k.req, tag := k.tag, job := k.job, attempt := attempt, total := if k.payload.getLsbD 160 then 82 else 17, data := [k.payload] }] }))) ∧
      (s.admitted peer k.job = true →
        let h : Word := bits k.payload 0 64
        let answer := fun (v : Verdict) (d : Pkt) => d.type = 0x21 ∧ d.src = k.dst ∧ d.dst = k.src ∧ d.tag = k.tag ∧ d.req = k.req ∧ d.job = k.job ∧ d.fn = 1 ∧
          d.operand = statusWord 0 v ∧ (bits d.payload 32 32 : BitVec 32) = attempt
        (∀ x, (s.quad q).checked h (bits k.payload 64 32) false = .ok x → k.fn = 9 → x.state ≠ stAbandoned → x.watch = 0 →
          ∃ t d, exec .tileCommandArrival s = .next t ∧ answer { outcome := ocAccepted, cnt := x.record.length } d ∧
            t = (left.modQuad q fun y => { y.setTile (handleUnit h) { x with state := stAbandoned } with arrivals := y.arrivals + 1 }).send d) ∧
        ((s.quad q).stage3 h false = none → 1 ≤ k.fn.toNat →
          ∃ t d, exec .tileCommandArrival s = .next t ∧ answer { outcome := ocStale } d ∧ t = (left.modQuad q fun y => { y with arrivals := y.arrivals + 1 }).send d)))

/-- Requests at their home (R41 to R44, R55, R164, R294, R297): one of a job that the die does not admit is answered NACK PARTITION; at an idle line that no quad holds,
LOAD answers the bytes, STORE and COPYW write them and answer ACK, ATOMIC writes the new word and answers the old, FEOP performs where its condition holds and else waits
in the retry list, or is answered NACK BUSY where its slice's 64 entries are taken; a write to host memory performs at die 0's port. -/
def Obligations.HomeRequests : Prop :=
  ∀ (s : State) (k : Pkt) (peer : Nat),
    let a := paOf peer k.off.toNat
    let n := 2 ^ k.size.toNat
    let left := { s with net := s.net.eraseIdx s.arg.a }
    let here := fun (ty : BitVec 8) => s.arrived s.arg.a ty = some (k, peer)
    let same := fun (t : State) => t.slots = s.slots ∧ t.cores = s.cores ∧ t.quads = s.quads ∧ t.pkgs = s.pkgs ∧ t.stash = s.stash
    (s.admitted peer k.job = false → ∀ ty i, (ty, i) ∈ [((1 : BitVec 8), Instr.load), (2, .store), (3, .atomic), (4, .feop), (5, .copyw)] → here ty →
      exec i s = .next (left.send (k.nack 2))) ∧
    (s.admitted peer k.job = true → s.lineFree (a / 256) = true → s.lost a = false → s.holders (paPeer (a / 256 * 256)) (a / 256) = [] →
      (here 1 → k.size.toNat < 8 → a % n = 0 → s.poisonIn a n = false → exec .load s = .next (left.send (k.resp n ((s.memRead a n).setWidth 2048) false))) ∧
      (here 2 → k.size.toNat ≤ 8 → a % n = 0 → s.partialPoison a n = false →
        ∃ t, exec .store s = .next t ∧ t.mem = s.mem.writeN a n k.payload ∧ t.empty = s.empty ∧ t.net = (left.send (k.ack false)).net ∧ same t) ∧
      (here 5 → 1 ≤ k.plen.toNat → a % 256 + k.plen.toNat ≤ 256 → s.partialPoison a k.plen.toNat = false →
        ∃ t, exec .copyw s = .next t ∧ t.mem = s.mem.writeN a k.plen.toNat k.payload ∧ t.empty = s.empty ∧ t.net = (left.send (k.ack false)).net ∧ same t) ∧
      (here 3 → k.fn ≠ 9 → k.tag ≠ 0xFFFF → s.poisonAt a = false → let r := atomFn k.fn.toNat (s.word a) k.operand 0
        ∃ t, exec .atomic s = .next t ∧ t.mem = s.mem.writeN a 8 r.1 ∧ t.empty = s.empty ∧
          t.net = (left.send { k.resp 8 (r.2.setWidth 2048) false with operand := s.word a }).net ∧ same t) ∧
      (here 4 → a % 8 = 0 →
        (∀ w full, feFn k.fn.toNat (s.word a) (s.fullAt a) k.operand = some (w, full) → s.waitersAt peer a = [] → s.poisonAt a = false →
          ∃ t, exec .feop s = .next t ∧ t.mem = s.mem.writeN a 8 w ∧ t.fullAt a = full ∧ (∀ b, b ≠ a → t.empty.mem b = s.empty.mem b) ∧ same t ∧
            t.net = (left.send (if k.fn = 0 ∨ k.fn = 1 ∨ k.fn = 4 then { k.resp 8 0 false with operand := s.word a, fn := (b1 (s.fullAt a)).setWidth 4 } else k.ack false)).net) ∧
        (feFn k.fn.toNat (s.word a) (s.fullAt a) k.operand = none → (∀ f ∈ s.waitersAt peer a, s.entryReady peer f = false) →
          let mine := (s.die peer).retryList.filter fun f => sliceOf f.pkt.off.toNat == sliceOf k.off.toNat
          (mine.length < 64 → ∃ t, exec .feop s = .next t ∧ t.mem = s.mem ∧ t.empty = s.empty ∧ t.net = left.net ∧ same t ∧
            (t.die peer).retryList = (s.die peer).retryList ++ [{ pkt := k, loc := .arrived peer }]) ∧
          (64 ≤ mine.length → ∃ t, exec .feop s = .next t ∧ t.mem = s.mem ∧ t.net = (left.send (k.nack 1)).net ∧ same t)))) ∧
    (∀ p, (s.pkg p).pcieLanes ≠ 0 → let b := paOf hostPeer k.off.toNat
      let ack : Pkt := { k.ack false with src := BitVec.ofNat 13 (4 * p) }
      (s.atHostPort s.arg.a 2 = some (k, p) → exec .store s = .next ((left.memWrite b n k.payload).send ack)) ∧
      (s.atHostPort s.arg.a 5 = some (k, p) → exec .copyw s = .next ((left.memWrite b k.plen.toNat k.payload).send ack)) ∧
      ((s.pkg p).hostReqs.length < 768 → ∀ ty i, (ty, i) ∈ [((1 : BitVec 8), Instr.load), (3, .atomic)] → s.atHostPort s.arg.a ty = some (k, p) →
        exec i s = .next (left.modPkg p fun x => { x with hostReqs := x.hostReqs ++ [{ pkt := some k }] })))

/-- Packets on their way (R8, R12, R31, R35, R37, R87, R93, R125, R132, R315): PACKET_FORWARD takes one a place further, along its package's ring or by the routing table
over a link that neither end has disabled, and it is then the last to have come to its place; TASK sets an event latch, pushes into a queue, and places a spawned thread
in the lowest free general slot with w0 to w3 given, sr.ssp 0 and every other register as dispatch sets it. -/
def Obligations.PacketArrivals : Prop :=
  ∀ (s : State) (f : Flight) (k : Pkt) (peer : Nat),
    let i := s.arg.a
    let job := f.pkt.job
    -- a packet that moves is the latest to have come to where it stands (R100; log entry 35)
    let latest := s.net.foldl (fun n g => max n g.stamp) 0 + 1
    let moves := fun (g : Flight) => exec .packetForward s = .next { s with net := s.net.set i { g with stamp := latest } }
    let onRing := fun (p n came : Nat) => exec .packetForward s = .next { s with net := s.net.eraseIdx i ++ [{ f with loc := .ring p n, held := false, came := came, stamp := latest }] }
    let open' := fun (p unit input : Nat) (g : Pkt) => (s.gang p job).closed unit input g.vc = false
    let c := peer * 1024 + k.off.toNat % 1024
    let left := { s with net := s.net.eraseIdx i }
    (s.net[i]? = some f → s.stopped f = false → s.overtakes i f = false → s.ringBlocked i f = false → s.behindHeld f = false →
      (∀ q, f.loc = .source q → (f.pkt.dst.toNat = hostPeer ∨ f.pkt.dst.toNat / 4 = q / 4 → onRing (q / 4) (q % 4) f.came) ∧
        (f.pkt.dst.toNat ≠ hostPeer → f.pkt.dst.toNat / 4 ≠ q / 4 → (s.pkg (q / 4)).heldDest.mem (f.pkt.dst.toNat / 4) = false →
          moves { f with loc := .router (q / 4) 35, held := false })) ∧
      (∀ p d, f.loc = .ring p d → open' (f.pkt.dst.toNat / 4) (s.comesTo f.pkt).1 (s.comesTo f.pkt).2 f.pkt → f.pkt.dst.toNat ≠ hostPeer →
        f.pkt.dst.toNat % 4 = d → moves { f with loc := .arrived f.pkt.dst.toNat, held := false }) ∧
      (∀ p d n b dir, f.loc = .ring p d → open' p (1088 + b) (1 - dir) f.pkt → f.pkt.dst.toNat ≠ hostPeer → f.pkt.dst.toNat % 4 ≠ d →
        (s.pkg p).ringNext d (f.pkt.dst.toNat % 4) = some n → boundaryOf d n = some (b, dir) → (s.pkg p).boundarySends b dir = true → onRing p n d) ∧
      (∀ p r, f.loc = .router p r → f.pkt.malformed = false → f.pkt.isTree = false → f.pkt.type ≠ 0x30 → f.pkt.phase = true →
        (f.pkt.dst.toNat / 4 = p → open' p 1092 r f.pkt → moves { f with loc := .arrived f.pkt.dst.toNat, held := false, came := r }) ∧
        (f.pkt.dst.toNat / 4 ≠ p → r ≠ 35 ∨ f.pkt.hops ≠ 0 → f.pkt.hops.toNat < 4 →
          let e := (s.pkg p).route (f.pkt.dst.toNat / 4)
          let q := neighbour p (routePort e)
          let hop := { f.pkt with hops := f.pkt.hops + 1 }
          ∀ back, portTo q p = some back → routeValid e = true → routePort e < 35 →
          ((s.pkg p).ports.get {} (routePort e)).disabled = false → ((s.pkg q).ports.get {} back).disabled = false → open' q 1092 back hop →
          ∃ t, exec .packetForward s = .next t ∧
            t.net = s.net.set i { f with pkt := hop, loc := .router q back, held := false, came := back, stamp := latest } ∧ t.slots = s.slots ∧ t.dies = s.dies ∧ t.mem = s.mem))) ∧
    (s.arrived i 0x07 = some (k, peer) →
      (s.admitted peer k.job = false → exec .task s = .next (left.send (k.nack 2))) ∧
      (s.admitted peer k.job = true → s.leadFor c k.job = c → s.diverts c k.job = false → (s.core c).crew.bind.lockstep = false →
        (s.holdsCrew c k.job = true → k.fn = taskPush → (s.core c).crew.queue.length < 64 →
          exec .task s = .next ((left.modCrew c fun x => { x with queue := x.queue ++ [k.operand] }).send { k.resp 8 0 false with operand := 1 })) ∧
        (s.holdsCrew c k.job = false → k.fn = taskPush → exec .task s = .next (left.send { k.resp 8 0 false with operand := 0 })) ∧
        (s.holdsCrew c k.job = true → k.fn = taskSev → (s.slot (c * 8 + k.size.toNat % 8)).ops = [] →
          exec .task s = .next ((left.modSlot (c * 8 + k.size.toNat % 8) fun x => { x with latch := true }).send (k.ack false))) ∧
        (∀ j, s.holdsCrew c k.job = true → k.fn = taskSpawn → freeSlot (fun j => s.slot (c * 8 + j)) (s.core c).spill = some j →
          ∃ t, exec .task s = .next t ∧ t.net = (left.send { k.resp 8 0 false with operand := 1 }).net ∧
            let x := t.slot (c * 8 + j)
            x.st = .run ∧ x.hold = .none ∧ x.pc = k.operand ∧ x.job = k.job ∧ x.par = k.parcel ∧ x.ssp = 0 ∧ x.flags = 0 ∧ x.wdepth = 0 ∧ x.resident = 1 ∧
              x.fcr = 0 ∧ x.fsf = 0 ∧ x.wto = 2 ^ 32 ∧ x.loops = [] ∧ x.ops = [] ∧ x.replies = [] ∧ x.trapNext = [] ∧ x.latch = false ∧ x.ckpt = none ∧
              x.pendW = 0 ∧ x.pendV = 0 ∧ x.pendF = 0 ∧ (∀ n, n < 16 → x.v n = 0) ∧ (∀ n, n < 8 → x.k n = if n = 0 then 0xFFFF else 0) ∧
              (∀ n, n < 4 → x.stream n = { scope := 2, next := 0 }) ∧ (∀ r, r < 24 → x.w r = if r < 4 then bits k.payload (64 * (1 + r)) 64 else 0) ∧
              (∀ p, 4 ≤ p → x.phys.get 0 p = 0) ∧ t.cores = s.cores ∧ (∀ m, m ≠ c * 8 + j → t.slot m = s.slot m))))

/-- Incast tickets at their class (R45 to R47, R323 to R325): TKGET hands out the next ticket with the called number, TKREG is answered by a CALL where its ticket is
called and else remembered, TKDONE raises `done`, calls the waiting peers and is acknowledged, a job that the class does not take is refused; a CALL without waiters is
remembered. -/
def Obligations.TicketEvents : Prop :=
  ∀ (s : State) (k : Pkt) (peer : Nat),
    let c := k.off.toNat % 16
    let t := (s.die peer).tickets.get {} c
    let left := { s with net := s.net.eraseIdx s.arg.a }
    let here := fun (ty : BitVec 8) => s.arrived s.arg.a ty = some (k, peer)
    let set := fun (x : Ticket) => left.modDie peer fun d => { d with tickets := d.tickets.set c x }
    let called : BitVec 32 := t.done + t.rows.setWidth 32
    let calls := fun (n : BitVec 32) => (n - t.done).toNat < t.rows.toNat
    (s.admitted peer k.job = false ∨ t.en = false ∨ t.job ≠ k.job → ∀ ty i, (ty, i) ∈ [((8 : BitVec 8), Instr.tkget), (9, .tkreg), (10, .tkdone)] → here ty →
      exec i s = .next (left.send (k.nack 2))) ∧
    (s.admitted peer k.job = true → t.en = true → t.job = k.job →
      (here 8 → exec .tkget s = .next ((set { t with next := t.next + 1 }).send
        { k.resp 8 (called.setWidth 2048) false with operand := t.next.setWidth 64, fn := if calls t.next then 1 else 0, off := k.off })) ∧
      (here 9 → let n : BitVec 32 := k.operand.setWidth 32
        (calls n → exec .tkreg s = .next (left.send (callPacket peer k.src.toNat c k.job called))) ∧
        (¬calls n → exec .tkreg s = .next (set { t with waiters := t.waiters.insert k.src.toNat }))) ∧
      (here 10 → t.waiters = [] → exec .tkdone s = .next ((set { t with done := t.done + 1 }).send (k.ack false))) ∧
      (∀ w, here 10 → t.waiters = [w] →
        exec .tkdone s = .next (((set { t with done := t.done + 1, waiters := [] }).send (k.ack false)).send (callPacket peer w c k.job (called + 1))))) ∧
    (here 0x23 → (s.die peer).waitersOf (classKey k.src.toNat c) = [] →
      exec .call s = .next (left.modDie peer fun d => { d with called := d.called.set (classKey k.src.toNat c) (k.operand.setWidth 32) }))

/-- Collectives and barriers in the routers (R32, R48 to R51, R317): an arrival is counted in its logic, the last of a phase releases its waiter and resets the count, a
pod barrier's packets go a hop toward their router; CTUP is kept until every child has reported and then goes up combined, CTDOWN leaves its outcome at the member dies
and opens the next instance, CTABT goes up and the root settles the instance; ROUTER_GROUP_WRITE keeps the sequence and refuses operations 6 and 7. -/
def Obligations.TreeEvents : Prop :=
  ∀ (s : State) (k : Pkt) (p input : Nat),
    let i := s.arg.a
    let left := { s with net := s.net.eraseIdx i }
    let g := k.off.toNat % 256
    let x := s.group p g
    let seq : BitVec 32 := k.payload.setWidth 32
    let here := fun (ty : BitVec 8) => (∃ f : Flight, s.net[i]? = some f ∧ f.pkt = k ∧ f.loc = .router p input) ∧ input < 36 ∧ k.malformed = false ∧ k.type = ty
    let onward := fun (q : Nat) => ({ left with net := left.net ++ [{ pkt := { k with hops := 1 }, loc := s.treePlace p (minimalPort p q) }] } : State)
    let settles := fun (ev : Instr) (oc : BitVec 2) (v : Word) => (∀ d, s.ctWaiters (4 * p + d) g seq = []) → (∀ j, j < 35 → x.child j = false) →
      ∃ t, exec ev s = .next t ∧ t.net = left.net ∧ t.slots = s.slots ∧ t.group p g = { entry := putBits x.entry 64 (seq + 1) } ∧
        (∀ d, d < 4 → (t.die (4 * p + d)).ctOut.find g = if x.member d then some (seq, oc, v) else (s.die (4 * p + d)).ctOut.find g)
    (here 0x10 →
      let y := { x with kids := x.kids.set input k.operand }
      (x.valid = true → x.job = k.job → x.seq = seq → x.child input = true →
        (y.complete = false → exec .ctup s = .next (left.setGroup p g y)) ∧
        (y.complete = true → x.sentUp = false → x.isRoot = false →
          exec .ctup s = .next ((left.setGroup p g { y with sentUp := true }).treeSend p x.parent (treePkt 0x10 g x.job x.seq 0 y.combined)))) ∧
      (x.seq ≠ seq → exec .ctup s = .next left)) ∧
    (here 0x11 → settles .ctdown (k.fn.setWidth 2) k.operand) ∧
    (here 0x12 → (x.valid = true → x.seq = seq → (x.isRoot = true → settles .ctabt 1 0) ∧
        (x.isRoot = false → exec .ctabt s = .next (left.treeSend p x.parent (treePkt 0x12 g x.job seq 1 0)))) ∧
      (x.seq ≠ seq → exec .ctabt s = .next left)) ∧
    (let e := s.arg.value
      let z := s.group i (s.arg.b % 256)
      (6 ≤ (bits e 45 3 : BitVec 3).toNat → exec .routerGroupWrite s = .next s) ∧
      ((bits e 45 3 : BitVec 3).toNat < 6 → ∃ y : BitVec 128, exec .routerGroupWrite s = .next (s.setGroup i (s.arg.b % 256) { z with entry := y }) ∧
        (bits y 0 49 : BitVec 49) = bits e 0 49 ∧ (bits y 96 12 : BitVec 12) = bits e 96 12 ∧ (bits y 64 32 : BitVec 32) = bits z.entry 64 32 ∧ (bits y 108 20 : BitVec 20) = 0)) ∧
    (here 0x13 → k.dst.toNat / 4 ≠ p → exec .pbar s = .next (onward (k.dst.toNat / 4))) ∧
    (here 0x13 → k.dst.toNat / 4 = p → k.fn = 1 → let w := k.dst.toNat * 8192 + k.req.toNat
      (s.slot w).hold = .localOp k.operand.toNat → (s.core (coreOf w)).crew.bind.lockstep = false → exec .pbar s = .next (left.modSlot w fun t => t.release)) ∧
    (∀ v, (s.die i).arrivals[s.arg.b]? = some v → v.waits = false → (s.core (coreOf v.slot)).crew.bind.lockstep = false → (s.slot v.slot).ops.any (·.id == v.opId) = true →
      (s.slot v.slot).st = .run → (s.slot v.slot).hold = .none →
      let done := (s.modDie i fun d => { d with arrivals := d.arrivals.eraseIdx s.arg.b }).modSlot v.slot fun t => { t with ops := t.ops.filter (·.id != v.opId) }
      let b := if v.scope = 2 then (s.die i).barriers.get {} v.num else (s.pkg (i / 4)).barriers.get {} v.num
      let set := fun (t : State) => if v.scope = 2 then (t.die i).barriers.get {} v.num else (t.pkg (i / 4)).barriers.get {} v.num
      let target := if b.count = 0 then (if v.p = 0 then 1 else v.p) else b.target
      v.scope = 2 ∨ v.scope = 3 →
      (b.count + 1 ≠ target → ∃ t, exec .barrierArrive s = .next t ∧ set t = { b with count := b.count + 1, target := target } ∧ t.slots = done.slots ∧
        (t.die i).arrivals = (done.die i).arrivals) ∧
      (∀ w, b.count + 1 = target → b.waiters = [w] → w.1 ≠ v.slot → (s.slot w.1).hold = .localOp w.2 → (s.core (coreOf w.1)).crew.bind.lockstep = false →
        ∃ t, exec .barrierArrive s = .next t ∧ set t = { phase := b.phase + 1, count := 0, target := target, waiters := [] } ∧
          t.slots = (done.modSlot w.1 fun t => t.release).slots))

/-- What reaches a thread (R114, R115, R134, R142, R152, R153, R182, R184, R185, R282, R283): a reply writes its register and lets a held thread go on; a released
operation performs; the scope of a drained stream is set; a wait that reaches its limit traps, its operation withdrawn; an exiting thread that has drained is free; a
walk's translation is installed; the operation of an SVC fills its completion word. -/
def Obligations.ThreadEvents : Prop :=
  ∀ (s : State),
    let k := s.arg.a
    let t := s.slot k
    (t.st ≠ .park → t.st ≠ .frozen → (s.core (coreOf k)).crew.bind.lockstep = false →
      (∀ r p id, t.replies[s.arg.b]? = some r → r.dest = .reg p → r.flag = none → r.fsf = 0 → r.wakes = some id →
        let u := { t with replies := t.replies.eraseIdx s.arg.b, phys := t.phys.set p (r.value.setWidth 64), pendW := putBits t.pendW p (0 : BitVec 1), ops := t.ops.filter fun o => o.id != id }
        exec .reply s = .next (s.modSlot k fun _ => if t.hold = .localOp id ∨ t.hold = .reply id then u.release else u)) ∧
      (t.st = .exiting → t.ops = [] → t.replies = [] → t.noPending = true → let b := (s.core t.par.home).crew.bind
        b.valid = true → b.job = t.job → b.launch = t.par.launch → b.parcel = t.par.parcel →
        exec .exitDrained s = .next ((s.modSlot k fun t => t.freed).modCrew t.par.home fun y => { y with bind := { y.bind with live := y.bind.live - 1 } })) ∧
      (∀ i c, t.hold = .scope i c → t.st = .wait → t.window i.toNat = 0 →
        exec .scopeSet s = .next (s.modSlot k fun t => { ({ t with streams := t.streams.set i.toNat { t.stream i.toNat with scope := c } } : Slot).release with issued := t.issued + 1 })) ∧
      (t.st = .wait → t.hold = .reissue → max 1 t.wto.toNat ≤ t.waited → exec .waitTimeout s = .next (s.takeTrap k { cause := 0x06 } t.pc)) ∧
      (t.waited < max 1 t.wto.toNat → exec .waitTimeout s = .next s) ∧
      (∀ o p, t.st = .wait → t.hold = .localOp o.id → s.waitOver k = false → t.ops = [o] → o.kind ≠ .migr → o.dest = .reg p → o.flag = none → max 1 t.wto.toNat ≤ t.waited →
        ∃ u, exec .waitTimeout s = .next u ∧ (u.slot k).st = .park ∧ (u.slot k).ops = [] ∧ (u.slot k).pendW = putBits t.pendW p (0 : BitVec 1) ∧
          (u.slot k).phys = t.phys ∧ (u.slot k).frame.get 0 0 = t.pc ∧ (bits ((u.slot k).frame.get 0 1) 0 8 : BitVec 8) = 0x06) ∧
      (∀ o n, (s.gang (peerOfSlot k / 4) t.job).phase.bars = false → t.ops = [o] → o.kind = .semv n → o.phase = .held → o.dest = .none → o.flag = none → s.arg.b = o.id →
        t.hold = .none → (∀ j, j < 8 → coreOf k * 8 + j ≠ k → (s.slot (coreOf k * 8 + j)).ops = []) → let v := (s.core (coreOf k)).crew.sems.get 0 n
        (t.maskMet o = true → exec .streamRelease s = .next ((s.modCrew (coreOf k) fun x => { x with sems := x.sems.set n (if v = 255 then 255 else v + 1) }).modSlot k fun t => { t with ops := [] })) ∧
        (t.maskMet o = false → exec .streamRelease s = .next s)) ∧
      (∀ o l f, t.ops = [o] → (s.gang (peerOfSlot k / 4) t.job).phase.bars = false → o.kind = .migr → o.phase = .held → o.flag = some f → t.hold = .localOp o.id →
        (t.markF (some f) false).noPending = true → t.replies = [] → s.translateNow (coreOf k) t.job o.a false = .ok l → paPeer (l.pa o.a) ≠ hostPeer →
        s.accessRefused k (l.pa o.a) = none → let c := s.migrTarget t.job o.a (l.pa o.a)
        s.coreRefused k (BitVec.ofNat 64 c) = none →
        ∃ u q, exec .migrSend s = .next u ∧ u.net = s.net ++ [q] ∧ q.pkt.type = 0x07 ∧ q.pkt.fn = taskMigr ∧ q.pkt.operand = t.pc + 4 ∧ q.pkt.job = t.job ∧
          (∀ r, r < 24 → (bits q.pkt.payload (64 * (1 + r)) 64 : Word) = t.w r) ∧ (u.slot k).hold = .reply o.id ∧ (u.slot k).ops = [{ o with phase := .sent }])) ∧
    (∀ w l, (s.die k).walks = [w] → (s.die k).walkQueue = [] → s.arg.b = 0 → peerOf w.quad = k → w.quad = quadOf (coreOf w.slot) → w.part = 16 → walk s k w.job w.va w.write w.fetch = .ok l →
      (s.gang (k / 4) w.job).phase.bars = false →
      ∃ u, exec .walkComplete s = .next u ∧ (u.die k).walks = [] ∧ u.slots = s.slots ∧ u.mem = s.mem ∧
        u.tlbFind (coreOf w.slot) w.job w.va = some l) ∧
    (∀ v code, (s.die k).svcs[s.arg.b]? = some v → v.code = some code → let left := s.modDie k fun d => { d with svcs := d.svcs.eraseIdx s.arg.b }
      (v.wc = 0 → exec .svcCompletion s = .next left) ∧
      (∀ c off, v.wc ≠ 0 → localPlace v.core v.wc = .stash c off → off % 8 = 0 → s.boundHere c off = none → s.stashWaiters c off = [] → s.memoryOk = true →
        (s.core c).crew.bind.lockstep = false →
        ∃ u, exec .svcCompletion s = .next u ∧ u.stashRead c off 8 = (0 : BitVec 20) ++ v.op ++ (0 : BitVec 24) ++ code ∧ u.stashFull c off = true ∧ u.slots = s.slots ∧ u.dies = left.dies))

/-- Responses (R41, R42, R44, R115): a RESP or an ACK ends the operation whose tag it bears, NACK BUSY makes it wait and be sent again after a delay that doubles up to
8,192 cycles, NACK PARTITION ends it with the trap of a foreign peer, and a response that no operation awaits is counted on the port that it came by, or at its die, and
changes nothing else. -/
def Obligations.Responses : Prop :=
  ∀ (s : State) (k : Pkt) (peer : Nat),
    let left := { s with net := s.net.eraseIdx s.arg.a }
    let here := fun (ty : BitVec 8) => s.response s.arg.a ty = some (k, peer)
    let j := k.requester
    let t := s.slot j
    (k.tag ≠ 0xFFFF → k.operand ≠ 9 → t.job ≠ k.job → (∀ e ∈ t.spawns, e.1 ≠ k.tag) → (s.core (coreOf j)).saved = none →
      let port := s.cameBy s.arg.a
      let counted := if port < 35 then left.modPkg (k.dst.toNat / 4) fun x => { x with ports := x.ports.set port { x.ports.get {} port with errors := (x.ports.get {} port).errors + 1 } }
        else left.modDie k.dst.toNat fun d => { d with errors := d.errors + 1 }
      (here 0x20 → exec .resp s = .next counted) ∧ (here 0x21 → k.fn ≠ 1 → exec .ack s = .next counted) ∧ (here 0x22 → exec .nack s = .next counted)) ∧
    (∀ o, k.tag ≠ 0xFFFF → k.operand ≠ 9 → t.job = k.job → t.ops = [o] → o.awaits k.tag = true → t.st ≠ .park → t.st ≠ .frozen → (s.core (coreOf j)).crew.bind.lockstep = false →
      (∀ f, here 0x20 → o.kind = .qpush → o.dest = .none → o.flag = some f → exec .resp s = .next (left.modSlot j fun t => { t with
        ops := [], replies := t.replies ++ [{ flag := some (f, some (k.operand.getLsbD 0)), wakes := some o.id }] })) ∧
      (∀ n sg x r, here 0x20 → o.kind = .load n sg → n ∈ [1, 2, 4, 8] → o.dest = .reg r → o.flag = none → o.parts = [x] → x.lane = k.tag.toNat % 16 → k.poison = false → k.size ≠ 8 →
        (k.payload.setWidth 64 : Word) ≠ poisonWord →
        exec .resp s = .next (left.modSlot j fun t => { t with
          ops := [], replies := t.replies ++ [{ dest := .reg r, value := (loadValue n sg (k.payload.setWidth 64)).setWidth 512, wakes := some o.id }] })) ∧
      (∀ n, o.kind = .mbxw n → o.dest = .none → o.flag = none → o.parts = [] →
        (here 0x21 → k.fn ≠ 1 → exec .ack s = .next (left.modSlot j fun t => let u := { t with ops := [] }
          if t.hold = .localOp o.id ∨ t.hold = .reply o.id then u.release else u)) ∧
        (here 0x22 → k.fn = 1 → s.ownCore j o.a = false → exec .nack s = .next (left.modSlot j fun t => { t with ops := [{ o with phase := .waiting }] })) ∧
        (here 0x22 → k.fn = 2 → t.hold = .none → t.st = .run → exec .nack s = .next (left.modSlot j fun t => { t with
          ops := [], trapNext := t.trapNext ++ [{ cause := 0x0B, addr := o.a, detail := k.src.setWidth 64, stream := o.stream, mask := o.mask, seq := o.seq }] })))) ∧
    (∀ o n, let j := s.arg.a
      (s.slot j).ops = [o] → s.arg.b = o.id → o.kind = .mbxw n → o.phase = .waiting → s.ownCore j o.a = false → (s.gang (peerOfSlot j / 4) (s.slot j).job).phase.bars = false →
      exec .nackRetry s = .next ((s.send (opPacket j (s.slot j).job o 0 0x07 (o.a.toNat / 1024) (o.a.toNat % 1024) n |> fun p => { p with fn := taskMbox, operand := o.b })).modSlot j fun t =>
        { t with ops := [{ o with phase := .sent, delay := min 8192 (2 * o.delay) }] }))

/-- Coherence within a die, one message at a time (R158, R162, R164 to R170), at a line that no bound region holds and no thread of the quad waits for: a read at an
unowned line makes a sharer with the home's data, one at another quad's line recalls it; a write is granted at once or after its invalidations or recall; an invalidation
and a recall are acknowledged, a recall writes the dirty sectors; the last acknowledgement grants the write; the grant makes the writer's line owned; a notice ends its
quad's pointer; the first touch of a bound region's line fills it from the quad's line, its full/empty bits with it, and fills nothing where the line's home refuses the
crew's job. -/
def Obligations.CoherenceEvents : Prop :=
  (∀ (s : State) (q l : Nat),
      let p := s.arg.a
      let key := quadKey p q
      let d := s.die p
      let e := d.dir.get {} l
      let taken := s.modDie p fun d => { d with coh := d.coh.eraseIdx s.arg.b }
      let dir := fun (t : State) (x : DirEntry) => t.modDie p fun d => { d with dir := d.dir.set l x }
      let send := fun (t : State) (ms : List CohMsg) => t.modDie p fun d => { d with coh := d.coh ++ ms }
      let here := fun (m : CohMsg) => d.coh[s.arg.b]? = some m
      let others := e.invalidationSet q
      let mine : DirEntry := { owned := true, ptrs := [(0, BitVec.ofNat 8 q)] }
      (∀ c i, quadOf c = key → (s.region c i).bound = false) → (∀ n, n < 32 → (s.slot (key * 32 + n)).ops = []) →
      (here (.read q l) → s.mustWait p q l = false →
        (e.owned = true → e.owner ≠ q → exec .homeRead s = .next (send (dir taken { e with busy := true, waitAcks := [e.owner], req := some (q, false) }) [.recall e.owner l false])) ∧
        (e.owned = false → (∀ x ∈ (s.quad key).lines, x.1 % 256 ≠ l % 256) → exec .homeRead s = .next ((dir taken (e.addSharer q)).setLine key l (s.lineCopy l .shared)))) ∧
      (here (.write q l) → s.mustWait p q l = false →
        (e.owned = true → e.owner ≠ q → exec .homeWrite s = .next (send (dir taken { e with busy := true, waitAcks := [e.owner], req := some (q, true) }) [.recall e.owner l true])) ∧
        (e.owned = false → others = [] → exec .homeWrite s = .next (send (dir taken mine) [.grant q l])) ∧
        (e.owned = false → others ≠ [] → exec .homeWrite s =
          .next (send (dir taken { e with busy := true, waitAcks := others.foldl NSet.insert [], req := some (q, true) }) (others.map fun r => .inval r l)))) ∧
      (here (.inval q l) → exec .quadInvalidate s = .next (send ((s.dropLine key l).modDie p fun d => { d with coh := d.coh.eraseIdx s.arg.b }) [.ack q l])) ∧
      (∀ inv, here (.recall q l inv) →
        (s.line key l = none → exec .quadRecall s = .next (send taken [.ack q l])) ∧
        (∀ x, s.line key l = some x → ∃ t, exec .quadRecall s = .next t ∧ t.line key l = (if inv then none else some { x with state := .shared, dirty := 0 }) ∧
          (t.die p).coh = d.coh.eraseIdx s.arg.b ++ [.ack q l] ∧ t.slots = s.slots ∧
          (s.mem.wf = true → ∀ j, j < 2 → t.memRead (l * 256 + 128 * j) 128 = if x.dirty.getLsbD j then (x.data >>> (1024 * j)).setWidth 1024 else s.memRead (l * 256 + 128 * j) 128))) ∧
      (here (.ack q l) → (s.quad key).notices.mem l = false → d.dir.find l = some e →
        (e.waitAcks.remove q ≠ [] → exec .invalidationAck s = .next (dir taken { e with waitAcks := e.waitAcks.remove q })) ∧
        (∀ w, e.waitAcks.remove q = [] → e.evicting = false → e.req = some (w, true) →
          exec .invalidationAck s = .next (send (dir taken { owned := true, ptrs := [(0, BitVec.ofNat 8 w)] }) [.grant w l])) ∧
        (e.waitAcks.remove q = [] → e.evicting = true → exec .invalidationAck s = .next (taken.modDie p fun d => { d with dir := d.dir.erase l }))) ∧
      (∀ x, here (.grant q l) → s.line key l = some x → exec .writeGrant s = .next (taken.setLine key l { x with state := .owned })) ∧
      (here (.notice q l) → let left := taken.modQuad key fun x => { x with notices := x.notices.remove l }
        let ptrs := e.ptrs.filter fun p => p.2.toNat ≠ q
        (d.dir.find l = some e → e.busy = false → e.coarse = false →
          exec .evictionNotice s = .next (if ptrs = [] then left.modDie p fun d => { d with dir := d.dir.erase l } else dir left { e with ptrs := ptrs })) ∧
        (d.dir.find l = some e → e.busy = false → e.coarse = true → exec .evictionNotice s = .next left))) ∧
  (∀ (s : State) (i j : Nat) (x : Line),
      let c := s.arg.a
      let r := s.region c i
      let l := r.pa / 256 + j
      let off := i * 0x8000 + 256 * j
      i < 8 → j < 128 → s.arg.b = 128 * i + j → r.bound = true → s.lineFree l = true → (∀ n, n < 32 → (s.slot (quadOf c * 32 + n)).ops = []) →
      (s.fillRefused c i j ≠ none → exec .stashLineFill s = .next s) ∧
      (s.fillRefused c i j = none → (∀ c' i', quadOf c' = quadOf c → c' ≠ c → (s.region c' i').bound = false) →
      (paPeer (l * 256) ≠ peerOf (quadOf c) → s.writing (quadOf c) l = false) → s.line (quadOf c) l = some x → x.poison = 0 → s.stashPoison = [] → s.memoryOk = true →
      ∃ t, exec .stashLineFill s = .next t ∧ t.stashRead c off 256 = x.data ∧ (∀ n, n < 32 → t.stashFull c (off + 8 * n) = x.full.getLsbD n) ∧
        t.region c i = { r with valid := r.valid ||| ((1 : BitVec 128) <<< j) } ∧
        (∀ k, k < stashKey c off ∨ stashKey c off + 256 ≤ k → t.stash.read k = s.stash.read k) ∧ t.mem = s.mem ∧ t.slots = s.slots ∧ t.quads = s.quads))

/-- The host's window and registers (R17, R37, R53, R54, R57 to R59, R69): BAR4 reads and writes DRAM beyond the caches and logs a bad offset, a write that finds a line
under a transaction waits (R440), and a read passes no write (log entry 53's choice); queue registers are stored while the queue is disabled, QCFG enables after its
checks, a notify moves the write index on or is dropped and counted; a completion goes to the thread that asked. -/
def Obligations.HostAccess : Prop :=
  ∀ (s : State),
    let p := s.arg.a
    let x := s.pkg p
    let n := s.arg.b % 4096
    let q := s.queue p n
    let v : Word := s.arg.value.setWidth 64
    let quietAt := fun (pa m : Nat) => (∀ l ∈ linesOf pa m, s.holders (paPeer (l * 256)) l = []) ∧ s.allFree pa m = true
    (x.pcieLanes ≠ 0 → x.power = .on →
      (let m := min s.arg.c 4096;
        s.postedTo p = false → (s.barPlace p s.arg.b m = none → exec .hostBar4Read s = .next { s with host := s.host ++ [.aer p, .read [] true] }) ∧
        (∀ pa, s.barPlace p s.arg.b m = some pa → quietAt pa m → s.poisonIn pa m = false →
          exec .hostBar4Read s = .next { s with host := s.host ++ [.read ((List.range m).map fun i => s.mem.read (pa + i)) false] })) ∧
      (let bs := s.arg.bytes;
        bs ≠ [] → (s.barPlace p s.arg.b bs.length = none → exec .hostBar4Write s = .next { s with host := s.host ++ [.aer p] }) ∧
        (∀ pa, s.barPlace p s.arg.b bs.length = some pa → quietAt pa bs.length → s.partialPoison pa bs.length = false →
          ∃ t, exec .hostBar4Write s = .next t ∧ t.mem = s.mem.writeList pa bs ∧ t.empty = s.empty ∧ t.slots = s.slots ∧ t.host = s.host) ∧
        (∀ pa, s.barPlace p s.arg.b bs.length = some pa → s.allFree pa bs.length = false → exec .hostBar4Write s = .next { s with posted := s.posted ++ [(.hostBar4Write, s.arg)] }))) ∧
    (q.enabled = true → exec .qbaseWrite s = .next s ∧ exec .qridxWrite s = .next s) ∧
    (q.enabled = false → exec .qbaseWrite s = .next (s.modQueue p n fun q => { q with qbase := v }) ∧ exec .qridxWrite s = .next (s.modQueue p n fun q => { q with qridx := v }) ∧
      let w := v &&& 0xFFFF_0FFF_0000_01DF
      let lgn := w.toNat % 32
      (v.getLsbD 6 = true → 1 ≤ lgn → lgn ≤ 16 → q.qbase.toNat % 64 = 0 → q.qridx.toNat % 8 = 0 → exec .qcfgWrite s = .next (s.modQueue p n fun q => { q.clear with cfg := w })) ∧
      (v.getLsbD 6 = true → lgn < 1 ∨ 16 < lgn ∨ q.qbase.toNat % 64 ≠ 0 ∨ q.qridx.toNat % 8 ≠ 0 →
        exec .qcfgWrite s = .next (s.modQueue p n fun q => { q with cfg := w &&& ~~~0x40, err := 9 })) ∧
      (v.getLsbD 6 = false → exec .qcfgWrite s = .next (s.modQueue p n fun q => { q with cfg := w, err := 0 }))) ∧
    (let wi : BitVec 32 := bits v 16 32;
      let good := (bits v 0 16 : BitVec 16).toNat = n ∧ q.enabled = true ∧ q.failed = false ∧ (bits v 48 16 : BitVec 16) = 0 ∧ (wi - q.ridx).toNat ≤ 2 ^ q.lgn
      (¬good → exec .notifyWrite s = .next (s.modPkg p fun x => { x with nfydrop := x.nfydrop + 1 })) ∧
      (good → (wi - q.widx).toNat < 2 ^ 31 → exec .notifyWrite s = .next (s.modQueue p n fun q => { q with widx := wi })) ∧
      (good → 2 ^ 31 ≤ (wi - q.widx).toNat → exec .notifyWrite s = .next s)) ∧
    (x.power = .on → (s.arg.c = 1 → exec .registerWrite s = .next (s.modPkg p fun x => { x with adbias := v })) ∧
      (s.arg.c ≠ 1 → s.arg.b = 8 → exec .registerWrite s = .next (s.modPkg p fun x => { x with pkgid := v.setWidth 11 })) ∧
      (s.arg.c ≠ 1 → s.arg.b = 0x1008 → exec .registerWrite s = .next s)) ∧
    (∀ r k, x.hostReqs[s.arg.b]? = some r → r.pkt = some k → r.kind = 0 → k.type = 0x01 → k.size.toNat < 8 → (s.gang p k.job).marked = false →
      let left := s.modPkg p fun x => { x with hostReqs := x.hostReqs.eraseIdx s.arg.b }
      let m := 2 ^ k.size.toNat
      exec .pcieCompletion s = .next (left.send { k.resp (if s.arg.good then m else min m 8)
        (if s.arg.good then (s.memRead (paOf hostPeer k.off.toNat) m).setWidth 2048 else 0) (!s.arg.good) with src := BitVec.ofNat 13 (4 * p) }))

/-- Queue packets (R60, R62 to R68, R80 to R82): a packet without its valid bit waits, one that fails a check fails its queue, a valid one is consumed with its read
index; it begins after its barrier, its acquire done; SIGNAL stores, adds or subtracts at the home; after a subtraction, and by log entry 54's choice after an addition,
the waiting DEPENDs read again; DEPEND holds its queue until its condition holds; COPY moves a piece; LAUNCH takes a launch slot with the shares of the four dies. -/
def Obligations.QueuePackets : Prop :=
  ∀ (s : State), let p := s.arg.a
    s.frontUp p = true →
    let n := s.arg.b % 4096
    let q := s.queue p n
    let home := fun (pa : Nat) => paPeer pa ≠ hostPeer ∧ s.lineFree (pa / 256) = true ∧ s.holders (paPeer (pa / 256 * 256)) (pa / 256) = []
    (∀ ev pa dw, (ev = Instr.packetRead ∧ q.wait = false) ∨ (ev = .waitValidReread ∧ q.wait = true) → q.reads = true → q.full = false → s.readPacket p q = .ok (pa, dw) →
      ((dwOf dw 0).getLsbD 15 = false → exec ev s = .next (s.modQueue p n fun q => { q with wait := true })) ∧
      (∀ c, (dwOf dw 0).getLsbD 15 = true → pktCode q dw = some c → exec ev s = .next (s.modQueue p n fun q => { q with failed := true, err := c, wait := false, full := false })) ∧
      (∀ rpa, (dwOf dw 0).getLsbD 15 = true → pktCode q dw = none → s.pktXlate p q dw = true → pktType dw ≠ 1 → s.feWalk p q.job q.qridx true = some rpa →
        paPeer pa = hostPeer → paPeer rpa = hostPeer →
        ∃ t, exec ev s = .next t ∧ t.queue p n = { q with ridx := q.ridx + 1, wait := false, full := false, consumed := some dw } ∧
          t.mem = (s.mem.writeN pa 8 (dwOf dw 0 &&& ~~~0x8000)).writeN rpa 8 ((q.ridx + 1).setWidth 64 : Word))) ∧
    (∀ dw, q.consumed = some dw → q.failed = false → q.barred = false → q.dep = none →
      let id := q.nextId
      let dep : Bool := pktType dw == 2
      exec .packetBegin s = .next (((if dep then s else s.acquire p (pktAcquire dw)).modQueue p n fun q =>
        { q with consumed := none, nextId := id + 1, running := q.running.insert id, dep := if dep then some id else none }).modPkg p fun x =>
          { x with works := x.works ++ [{ q := n, id := id, dw := dw }] })) ∧
    (∀ w ev op pa, (s.pkg p).works[s.arg.b]? = some w → pktType w.dw = 3 → (ev, op) ∈ [(Instr.signalStore, 0), (.signalAdd, 1), (.signalSubtract, 2)] → (dwOf w.dw 3).toNat % 4 = op →
      s.fePlace p (pktJob w.dw) (dwOf w.dw 1) true = .ok pa → home pa → s.poisonAt pa = false →
      let v := dwOf w.dw 2
      let old := s.word pa
      let new := if op = 0 then v else if op = 1 then old + v else old - v
      let y := s.queue p w.q
      ∃ t, exec ev s = .next (if op = 0 then t else t.pollDepends p) ∧ t.mem = s.mem.writeN pa 8 new ∧ (t.queue p w.q).running = y.running.remove w.id ∧
        (t.pkg p).works = (s.pkg p).works.filter (fun v => !(v.q == w.q && v.id == w.id)) ∧
        t.host = s.host ++ (if y.irq = true ∧ new = 0 then [.msix p y.vector] else [])) ∧
    (∀ w pa ev, ev ∈ [Instr.depend, .dependPoll] → (s.pkg p).works = [w] → w.q = n → pktType w.dw = 2 → q.dep = some w.id → q.failed = false → (s.pkg p).hostReqs = [] → pktAcquire w.dw < 3 →
      s.fePlace p (pktJob w.dw) (dwOf w.dw 1) false = .ok pa → home pa → s.poisonAt pa = false →
      let holds : Prop := match (dwOf w.dw 3).toNat % 4 with
        | 0 => s.word pa = dwOf w.dw 2
        | 1 => s.word pa ≠ dwOf w.dw 2
        | 2 => (s.word pa).toNat < (dwOf w.dw 2).toNat
        | _ => (dwOf w.dw 2).toNat ≤ (s.word pa).toNat
      (holds → exec ev s = .next ((s.modQueue p n fun x => { x with dep := none, running := x.running.remove w.id }).modPkg p fun x => { x with works := [] })) ∧
      (¬holds → exec ev s = .next s)) ∧
    (∀ w ev pa pb, (s.pkg p).works[s.arg.b]? = some w → (s.pkg p).works = [w] → pktType w.dw = 4 → (ev = Instr.copy ∧ w.moved = 0) ∨ (ev = .copyPiece ∧ 0 < w.moved) →
      let m := pieceOf w.dw w.moved
      w.moved + m < copyLen w.dw → (s.pkg p).hostReqs = [] → s.fePlace p (pktJob w.dw) (dwOf w.dw 1 + BitVec.ofNat 64 w.moved) false = .ok pa →
      s.fePlace p (pktJob w.dw) (dwOf w.dw 2 + BitVec.ofNat 64 w.moved) true = .ok pb → home pa → home pb → pa % 256 + m ≤ 256 → pb % 256 + m ≤ 256 → s.poison = [] →
      ∃ t, exec ev s = .next t ∧ t.mem = s.mem.writeN pb m ((s.memRead pa m).setWidth 2048) ∧ (t.pkg p).works = [{ w with moved := w.moved + m }] ∧ t.queue p w.q = s.queue p w.q) ∧
    (let accepts := fun (u t : State) (w : Work) (consts : List Word) => let total := parcelsOf w.dw
        ∃ l, (t.pkg p).launches = [(0, l)] ∧ l.q = w.q ∧ l.id = w.id ∧ l.dw = w.dw ∧ l.job = pktJob w.dw ∧ l.total = total ∧ (t.pkg p).works = [] ∧
          l.prio.toNat = min ((dwOf w.dw 0).toNat / 2 ^ 44 % 16) (u.queue p w.q).pceil.toNat ∧
          ∀ d, d < 4 → (t.dieLaunch (4 * p + d) 0).consts = consts ∧
            (t.dieLaunch (4 * p + d) 0).range = BitVec.ofNat 64 (total * (d + 1) / 4 * 2 ^ 32 + total * d / 4);
      (∀ w consts, (s.pkg p).works = [w] → w.q = n → pktType w.dw = 1 → 0 < parcelsOf w.dw → (s.pkg p).launches = [] → s.readConsts p (pktJob w.dw) (dwOf w.dw 4) 7 = .ok (s, consts) →
        ∃ t, exec .launch s = .next t ∧ accepts s t w consts) ∧
      (∀ pa rpa dw consts, s.readPacket p q = .ok (pa, dw) → q.full = true → q.reads = true → (dwOf dw 0).getLsbD 15 = true → pktType dw = 1 → pktCode q dw = none → s.pktXlate p q dw = true →
        s.feWalk p q.job q.qridx true = some rpa → paPeer pa = hostPeer → paPeer rpa = hostPeer → pktBarrier dw = false → pktAcquire dw < 3 → 0 < parcelsOf dw →
        (s.gang p (pktJob dw)).phase.bars = false → (s.pkg p).works = [] → (s.pkg p).launches = [] → (∀ e ∈ (s.pkg p).queues, n ≤ e.1 ∨ s.launchReady p e.1 = false) →
        (s.pkg p).slotsTaken < 64 →
        let w : Work := { q := n, id := q.nextId, dw := dw }
        let read := s.modQueue p n fun q => { q with ridx := q.ridx + 1, wait := false, full := false, nextId := q.nextId + 1, running := q.running.insert w.id }
        let u := { read.modPkg p fun x => { x with works := [w] } with mem := (s.mem.writeN pa 8 (dwOf dw 0 &&& ~~~0x8000)).writeN rpa 8 ((q.ridx + 1).setWidth 64 : Word) }
        u.readConsts p (pktJob dw) (dwOf dw 4) 7 = .ok (u, consts) → ∃ t, exec .launchAccept s = .next t ∧ accepts u t w consts ∧ (t.queue p n).ridx = q.ridx + 1))

/-- Gang switches and repair (R95 to R111): a GANG packet's command goes to its anchor, which refuses it with GANGSTATE, aborts, or orders the first phase; FREEZE freezes
the job's threads, MARK sends its markers and SWEEP records the job's packets, each port of the router once its markers have come, SAVE writes the area or faults where it
has no home, RELEASE frees the threads after the host's requests, each phase's completion orders the next, IN restores, puts the records back one by one, those of a unit
in their order and the late ones last, and admits; an uncorrectable error freezes the core's threads, remaps the quad to a spare block, and ends. The model's choices
here: an area whose images the model writes beyond DRAM stops SAVE with a fault (log entry 9), an order reaches every package in one step and markers within a package are
met there (35), the spare row taken is the lowest (42), the failing quad's words come back empty and poisoned (36). -/
def Obligations.GangEvents : Prop :=
  ∀ (s : State),
    let p := s.arg.a
    let job : BitVec 12 := BitVec.ofNat 12 s.arg.b
    let g := s.gang p job
    let a := s.anchorOf p job
    let mine := fun (k : Nat) => s.ofJob p job k = true
    let c := s.arg.a
    (∀ w ev op, (s.pkg p).works[s.arg.b]? = some w → pktType w.dw = 5 → (ev, op) ∈ [(Instr.gangOut, (0 : BitVec 4)), (.gangIn, 1), (.gangAbort, 2)] → (bits (dwOf w.dw 1) 12 4 : BitVec 4) = op →
      let j : BitVec 12 := bits (dwOf w.dw 1) 0 12
      let cmd : GangCmd := { op := op, job := j, save := bits (dwOf w.dw 2) 0 44, instId := bits (dwOf w.dw 3) 0 32, pkg := p, queue := some (w.q, w.id), signal := dwOf w.dw 6, packetJob := pktJob w.dw }
      exec ev s = .next ((s.modPkg p fun x => { x with works := x.works.filter fun v => !(v.q == w.q && v.id == w.id) }).modPkg (s.anchorOf p j) fun x => { x with anchor := x.anchor ++ [cmd] })) ∧
    (∀ v r, (s.pkg p).anchor = v :: r → v.job = job → (s.pkg p).current.has job.toNat = false → s.repairing p job = false →
      (∀ d k wc, v.badState g = true → v.queue = none → v.svc = some (d, k, wc) → exec .gangCommandStart s = .next ((s.modPkg p fun x => { x with anchor := r }).modDie d fun x =>
        { x with svcs := x.svcs ++ [{ core := k, wc := wc, op := sregOf (.svcGangctl 0 0), arg := 0, code := some 0x0F }] })) ∧
      (v.badState g = false → v.op ≠ 2 → ∃ t, exec .gangCommandStart s = .next t ∧ (t.pkg p).current.find job.toNat = some v ∧ (t.pkg p).anchor = r ∧
        ∀ x ∈ s.partition p job, let y := t.gang x job
          y.order = (if v.op = 0 then .freeze else .restore) ∧ y.told = false ∧ y.instId = v.instId ∧ y.phase = (s.gang x job).phase ∧ (v.op = 0 → y.save = v.save)) ∧
      (v.badState g = false → v.op = 2 → v.queue = none → v.svc = none → ∃ t, exec .gangCommandStart s = .next t ∧ ∀ x ∈ s.partition p job, t.gang x job = {})) ∧
    (g.order = .freeze → g.phase.bars = false → s.canFreeze p job = true → s.openGroups p job = [] →
      ∃ t, exec .freeze s = .next t ∧ (t.gang p job).phase = .freeze ∧ (t.gang p job).damaged = false ∧ (∀ k, mine k → t.slot k = (s.slot k).frozen) ∧ (∀ k, ¬mine k → t.slot k = s.slot k)) ∧
    (let marker := fun (i c : Nat) => ({ pkt := { type := 0x30, ordered := false, job := job, operand := g.instId.setWidth 64, fn := BitVec.ofNat 4 c, src := BitVec.ofNat 13 (4 * p), dst := BitVec.ofNat 13 (4 * neighbour p i), hops := 1 }, loc := .router (neighbour p i) ((portTo (neighbour p i) p).getD 0), came := (portTo (neighbour p i) p).getD 0 } : Flight);
      g.order = .mark → g.phase = .freeze → s.openGroups p job = [] → (∀ f ∈ s.net, f.pkt.isTree = true → f.pkt.job ≠ job) →
        let ms := (s.markedPorts p job).flatMap fun i => (List.range 8).map fun c => marker i c;
        exec .mark s = .next (({ s with net := s.net ++ ms } : State).modGang p job fun g => { g with phase := .mark, marked := true })) ∧
    (let is := s.sweptNow p job;
      let takes := fun (f : Flight) => f.sweeps p job && (match f.atPort with
        | none => g.phase == .mark
        | some i => is.contains i);
      g.order = .sweep → g.phase = .mark ∨ (g.phase = .sweep ∧ is ≠ []) → ∃ t, exec .sweep s = .next t ∧ (t.gang p job).phase = .sweep ∧ t.net = s.net.filter (fun f => !takes f) ∧
        t.slots = s.slots ∧ (∀ i, i < 35 → (t.gang p job).swept.mem i = (g.swept.mem i || is.contains i)) ∧ (t.gang p job).done = (List.range 35).all (t.gang p job).swept.mem ∧
        (g.phase = .mark → ∀ d, d < 4 → (t.die (4 * p + d)).retryList = (s.die (4 * p + d)).retryList.filter fun f => f.pkt.job != job) ∧
        ∀ f ∈ s.net, takes f = true → ∃ r ∈ (t.gang p job).sweep, r.pkt = f.pkt ∧ r.loc = f.loc ∧ r.came = f.came) ∧
    (g.order = .save → g.phase = .sweep → s.arrivalsDone job = true →
      (g.save.toNat + partBytes ≤ dramEnd → ∃ t, exec .save s = .next t ∧ (t.gang p job).phase = .save) ∧
      (dramEnd < g.save.toNat + partBytes → exec .save s = .fault (.noSuchAddress (paOf (4 * p) g.save.toNat)))) ∧
    (g.order = .release → g.phase = .save →
      ((s.pkg p).jobRequests job = true → g.hostWait = false → exec .release s = .next (s.modGang p job fun g => { g with hostWait := true })) ∧
      (∀ ev, (ev = Instr.release ∧ (s.pkg p).jobRequests job = false) ∨ (ev = .releaseHostWaitExpiry ∧ g.hostWait = true) →
        ∃ t, exec ev s = .next t ∧ (t.gang p job).phase = .out ∧ ∀ k, mine k → (t.slot k).st = .free)) ∧
    (∀ v, (s.pkg a).current.find job.toNat = some v → v.job = job → g.complete = true → g.told = false →
      ((∃ x ∈ s.partition a job, x ≠ p ∧ (s.gang x job).told = false) → exec .phaseComplete s = .next (s.modGang p job fun g => { g with told := true })) ∧
      (∀ o, a = p → s.partition p job = [p] → s.heldForRepair p job = false →
        (g.order, o) ∈ [(GangPhase.freeze, GangPhase.mark), (.mark, .sweep), (.sweep, .save), (.save, .release), (.restore, .admitted)] →
        ∃ t, exec .phaseComplete s = .next t ∧ (t.gang p job).order = o ∧ (t.gang p job).told = false ∧ (t.gang p job).phase = g.phase)) ∧
    (let returns := fun (r : SweepRec) (g' : Gang) => ∃ t, exec .inRestore s = .next t ∧ t.gang p job = { g' with done := g'.sweep == [] && g'.late == [] } ∧ t.slots = s.slots ∧
        (r.unit < 2048 → t.net = s.net ++ [{ pkt := r.pkt, loc := r.loc, came := r.came }]);
      (g.order = .restore → g.phase = .out → s.namedFree p job = true → ∃ t, exec .inRestore s = .next t ∧ (t.gang p job).phase = .restore ∧
        (t.gang p job).sweep = g.sweep ∧ (t.gang p job).late = g.late ∧ (t.gang p job).done = (g.sweep == [] && g.late == [])) ∧
      (∀ r, g.order = .restore → g.phase = .restore → g.sweep[s.arg.c]? = some r → (∀ j x, j < s.arg.c → g.sweep[j]? = some x → x.unit ≠ r.unit) →
        returns r { g with sweep := g.sweep.eraseIdx s.arg.c }) ∧
      (∀ r l, g.order = .restore → g.phase = .restore → g.sweep = [] → g.late = r :: l → returns r { g with late := l })) ∧
    (g.order = .admitted → g.phase = .restore → g.done = true → (∀ e ∈ s.cores, e.2.runs job = false) →
      ∃ t, exec .inAdmit s = .next t ∧ (t.gang p job).phase = .admitted ∧ (∀ k, mine k → t.slot k = (s.slot k).thawed) ∧ (∀ k, ¬mine k → t.slot k = s.slot k)) ∧
    (let n := quadNo (quadOf c)
      let peer := c / 1024
      let pk := c / 4096
      ((s.pkg pk).repair = none → (s.pkg pk).power = .on → s.jobsOn peer = [] → s.arg.good = true →
        ∃ t, exec .uncorrectableError s = .next t ∧ (t.pkg pk).repair = some { core := c, jobs := [] } ∧ ∀ i, i < 8 → t.slot (c * 8 + i) = (s.slot (c * 8 + i)).frozen) ∧
      (∀ r x, (s.pkg pk).repair = some r → r.core = c → r.unit = none → r.jobs = [] → r.retired = false → s.jobsOn peer = [] → (s.core c).crew.bind.lockstep = false →
        (s.quad (quadOf c)).lines = [] → (s.die peer).dir = [] → (s.die peer).spareRow = some x →
        ∃ t, exec .uncorrectableError s = .next t ∧ (t.die peer).remap.find n = some (BitVec.ofNat 16 (0x8000 + 16 * 16 + x)) ∧ (t.die peer).spares.mem x = true ∧
          (t.pkg pk).repair = some { r with retired := true } ∧
          ∀ i, i < s.arg.bytes.length / 8 → let off := imgField s.arg.bytes (8 * i) 8
            off < dramEnd → sliceOf off / 2 = n → t.poisonAt (paOf peer off) = true ∧ t.fullAt (paOf peer off) = false) ∧
      (∀ r, (s.pkg pk).repair = some r → r.core = c → r.jobs = [] → r.retired = true → exec .uncorrectableError s = .next (s.modPkg pk fun x => { x with repair := none })))

/-- Cobalt (R78, R83 to R94): a free core takes the first launch's next parcel and starts its threads with their registers; the crew chosen is told to go, is saved and
its slots freed, comes back with its bind record, gets what was spilled; a parcel whose threads have left and whose writes have performed retires, that of a pre-empted
crew too, and the launch whose counts sum to its parcels is complete. -/
def Obligations.CobaltEvents : Prop :=
  ∀ (s : State),
    let peer := s.arg.a
    let b := s.arg.a * 1024 + s.arg.b % 1024
    let c := s.arg.a
    let x := s.core c
    let solo := x.crew.bind.lockstep = false
    (∀ ls l, s.cobaltUp peer = true → s.bindable b = true → s.firstLaunch peer = some (ls, l) → lockstepOf l.dw = false → s.resumesFirst b l.prio = false →
      let d := s.dieLaunch peer ls
      d.redo = [] → d.lo < d.hi → (s.core b).ran = true → (s.core b).lastJob = l.job → b / 1024 = peer →
      ∃ t, exec .cobaltBind s = .next t ∧ (t.core b).crew.bind = bindRecord ls l d.lo ∧ (t.dieLaunch peer ls).range = BitVec.ofNat 64 (d.hi * 2 ^ 32 + d.lo + 1) ∧ (t.dieLaunch peer ls).started = true ∧
        (∀ i, i < 7 → (t.core b).crew.g.get 0 (i + 1) = (d.consts[i]?).getD 0) ∧
        ∀ i, i < 8 → t.slot (b * 8 + i) = if (maskOf l.dw).getLsbD i then
          (s.slot (b * 8 + i)).dispatched (dwOf l.dw 1) (sspAt (maskOf l.dw) i) l.job (parcelAt l.dw l.accepted d.lo b) else s.slot (b * 8 + i)) ∧
    (∀ l, State.waitingLaunch peer 65 s = some l → s.cobaltUp peer = true → s.preemptible b l.prio = true → (s.core b).crew.bind.lockstep = false → (∀ i, i < 1024 → s.bindable (peer * 1024 + i) = false) →
      (∀ e ∈ s.cores, e.1 / 1024 = peer → s.preemptible e.1 l.prio = true → s.before b e.1 = true) →
      exec .cobaltPreempt s = .next (s.modCore b fun y => { y with halting := true })) ∧
    (x.halting = true → x.crew.bind.valid = true → solo → x.crew.matrix = [] → s.areaOk c = true → (s.gang (c / 1024 / 4) x.crew.bind.job).phase.bars = false →
      (s.quad (quadOf c)).replay = none → (∀ i, (s.region c i).bound = false) →
      ∃ t, exec .preemption s = .next t ∧ (t.core c).halting = false ∧ (t.core c).crew.bind.valid = false ∧ (∀ i, i < 8 → (t.slot (c * 8 + i)).st = .free) ∧
        ∃ sv, (t.core c).saved = some sv ∧ sv.crew.bind = x.crew.bind ∧ sv.slots = (List.range 8).map fun i => (s.slot (c * 8 + i)).frozen) ∧
    (∀ sv, x.saved = some sv → sv.crew.bind.lockstep = false → s.cobaltUp (c / 1024) = true → s.coreFree c = true → (s.gang (c / 1024 / 4) sv.crew.bind.job).phase.bars = false →
      (∀ i, (s.region c i).bound = false) → (∀ t ∈ sv.slots, t.ops = []) → sv.crew.heldWrites = [] →
      ∃ t, exec .cobaltResume s = .next t ∧ (t.core c).saved = none ∧ (t.core c).crew.bind = sv.crew.bind ∧ (t.core c).lastJob = sv.crew.bind.job) ∧
    (∀ e r, x.spill = e :: r → s.holdsCrew c e.pkt.job = true → x.saved = none → (s.gang (c / 1024 / 4) e.pkt.job).phase.bars = false → solo → e.pkt.fn = taskPush → x.crew.queue.length < 64 →
      ∃ t, exec .spillRedeliver s = .next t ∧ (t.core c).spill = r ∧ (t.core c).crew.queue = x.crew.queue ++ [e.pkt.operand] ∧ t.slots = s.slots ∧ t.net = s.net) ∧
    (let pk := c / 1024 / 4
      let gone := fun (b : Bind) => b.valid = true ∧ b.lockstep = false ∧ b.live = 0 ∧ b.retired = false ∧ s.aorsDone b.job (c + b.launch * 2 ^ 64) = true ∧ (s.gang pk b.job).phase.bars = false ∧
        (pktRelease ((((s.pkg pk).launches.find b.lslot.toNat).map (·.dw)).getD []) = 0 ∨ ∀ e ∈ s.cores, ∀ i, i < 8 → (s.region e.1 i).owes (c + b.launch * 2 ^ 64) = false)
      let counted := fun (t : State) (b : Bind) =>
        let ls := b.lslot.toNat
        let d := s.dieLaunch (c / 1024) ls
        t.slots = s.slots ∧ (t.dieLaunch (c / 1024) ls).retired = d.retired + 1 ∧
          (t.pkg pk).retires = (s.pkg pk).retires ++ [{ lslot := ls, die := c / 1024 % 4, seq := d.messages + 1, count := d.retired + 1 }];
      (gone x.crew.bind → ∃ t, exec .parcelRetire s = .next t ∧ counted t x.crew.bind ∧
        (t.core c).crew.bind = { x.crew.bind with retired := true, valid := !(List.range 8).all fun i => (s.slot (c * 8 + i)).st == .free }) ∧
      (∀ sv, x.crew.bind.valid = false → x.saved = some sv → gone sv.crew.bind → ∃ t, exec .parcelRetire s = .next t ∧ counted t sv.crew.bind ∧ (t.core c).crew = x.crew ∧
        (t.core c).saved = some { sv with crew := { sv.crew with bind := { sv.crew.bind with retired := true } } })) ∧
    (∀ r l, (s.pkg peer).retires[s.arg.b]? = some r → (s.pkg peer).launches.find r.lslot = some l →
      let left := s.modPkg peer fun x => { x with retires := x.retires.eraseIdx s.arg.b }
      let counts := if (l.counts.get (0, 0) r.die).1 < r.seq then l.counts.set r.die (r.seq, r.count) else l.counts
      let done := (counts.map fun e => e.2.2).sum
      (done ≠ l.total → exec .retired s = .next (left.modPkg peer fun x => { x with launches := x.launches.set r.lslot { l with counts := counts } })) ∧
      (done = l.total → dwOf l.dw 6 = 0 → (s.pkg peer).hostReqs = [] → ∃ t, exec .retired s = .next t ∧ (t.pkg peer).launches.find r.lslot = none ∧ (t.queue peer l.q).running = (s.queue peer l.q).running.remove l.id ∧
        ∀ d, d < 4 → (t.die (4 * peer + d)).launches.find r.lslot = none))

/-- Power, boot and attestation (R21 to R26, R71 to R77): each event of Slate on a powered package: the rails, the stages that are checked, loaded and released, recovery,
the watchdog, power states with their held write, thermal alerts, reports and lifetime counters. The model's choices here: a second boot of a die takes the flash's
earlier images (log entry 36), PWRCTL's zero bits are checked at the write (37), and a stage whose load address has no home stops BOOT_STAGE_LOAD with a fault (NOTES,
Stops). -/
def Obligations.PowerEvents : Prop :=
  ∀ (s : State),
    let p := s.arg.a
    let x := s.pkg p
    let boot := fun (f : Boot → Boot) => s.modPkg p fun y => { y with boot := f y.boot }
    let v : Word := s.arg.value.setWidth 64
    let fails := fun (u : State) (q : Nat) (who : Option Nat) (c : BitVec 4) => u.modPkg q fun y =>
      { y with boot := { y.boot with fail := c, recover := true, awaited := who, nextPiece := 0, length := 0, busy := false, pending := none } }
    (p < 1058 → x.power = .off → exec .powerOn s = .next (s.modPkg p fun y => { y with power := .rising })) ∧
    (p < 1058 → x.power = .rising → exec .railsSettled s = .next (s.modPkg p fun y => { y with
      power := .on, boot := { y.boot with stage := 1, loading := true, mreg := y.boot.mreg.set 0 (Config.shake512 (Config.fuses p)) } })) ∧
    (1058 ≤ p → exec .powerOn s = .next s ∧ exec .railsSettled s = .next s) ∧
    (x.power ≠ .off → ∃ t, exec .powerOff s = .next t ∧ t.pkg p = x.unpowered ∧ (t.pkg p).power = .off ∧ (∀ k, peerOfSlot k / 4 = p → t.slot k = {}) ∧ (∀ k, peerOfSlot k / 4 ≠ p → t.slot k = s.slot k) ∧
      (∀ a, t.mem.read a = if paPeer a / 4 = p then 0 else s.mem.read a) ∧ ∀ q, q ≠ p → t.pkg q = s.pkg q) ∧
    (x.power = .on → x.boot.loading = true → x.boot.recover = false →
      (s.arg.good = false → exec .bootStageLoad s = .next (fails s p none 1)) ∧
      (s.arg.good = true →
        let u := boot fun y => { y with flash := y.flash.set y.stage.toNat s.arg.bytes }
        (∀ c, s.imageFails p (s.stageNow p) s.arg.bytes = some c → exec .bootStageLoad s = .next (fails u p none c)) ∧
        (s.imageFails p (s.stageNow p) s.arg.bytes = none →
          (dramEnd < imgField s.arg.bytes 16 8 + s.arg.bytes.length → exec .bootStageLoad s = .fault (.noSuchAddress (imgField s.arg.bytes 16 8))) ∧
          (x.boot.again = [] → imgField s.arg.bytes 16 8 + s.arg.bytes.length ≤ dramEnd → ∃ t, exec .bootStageLoad s = .next t ∧ let y := (t.pkg p).boot
            y.fail = 0 ∧ y.recover = false ∧ y.stage.toNat = min 3 (x.boot.stage.toNat + 1) ∧ y.done = (x.boot.stage == 3) ∧ y.loading = (x.boot.stage != 3) ∧
              y.mreg = x.boot.mreg.set x.boot.stage.toNat (Config.shake512 s.arg.bytes))))) ∧
    (x.power = .on → x.boot.busy = false → s.arg.b + s.arg.bytes.length ≤ 0x40_0000 →
      exec .recoveryWindowWrite s = .next (boot fun y => { y with window := y.window.writeList s.arg.b s.arg.bytes })) ∧
    (x.power = .on → x.boot.recover = true →
      let n : BitVec 32 := bits v 0 32
      let good := x.boot.busy = false ∧ (bits v 32 16 : BitVec 16).toNat = x.boot.nextPiece ∧ x.boot.nextPiece ≤ 64 ∧ 0 < n.toNat ∧ n.toNat ≤ 0x40_0000 ∧ (v.getLsbD 63 = true ∨ n.toNat = 0x40_0000)
      (good → exec .recovctlWrite s = .next (boot fun y => { y with busy := true, pending := some v })) ∧ (¬good → exec .recovctlWrite s = .next (fails s p x.boot.awaited 7))) ∧
    (∀ w : Word, x.boot.pending = some w → w.getLsbD 63 = false → ∃ t, exec .recoveryPieceCopied s = .next t ∧
      (t.pkg p).boot = { x.boot with busy := false, pending := none, nextPiece := x.boot.nextPiece + 1, length := x.boot.length + (bits w 0 32 : BitVec 32).toNat } ∧ t.slots = s.slots) ∧
    (let b := (s.pkg (p / 4)).boot
      let waits : Bool := b.recover && b.awaited != some p
      let image := b.flash.get [] 1
      let u : State := { ((s.modDie p fun d => { d with cobalt := false, supRun := false }).modPkg (p / 4) fun y => { y with boot := { y.boot with
          fail := 6, again := b.again.filter (· != p) ++ [p], recover := waits, awaited := b.awaited.filter (· != p) } }) with host := s.host ++ [.slate (p / 4) "WATCHDOG" [p]] };
      (s.pkg (p / 4)).power = .on → (s.die p).cobalt = true → s.jobsOn p = [] → (s.die p).supRun = false → b.again.filter (· != p) = [] →
      (∀ c, s.imageFails (p / 4) 1 image = some c → exec .heartbeatMissed s = .next (if waits then u else fails u (p / 4) (some p) c)) ∧
      (s.imageFails (p / 4) 1 image = none → imgField image 16 8 + image.length ≤ dramEnd → ∃ t, exec .heartbeatMissed s = .next t ∧ (t.die p).cobalt = true)) ∧
    (x.power = .on → x.attgo = false → s.arg.value = 1 → exec .attgoWrite s = .next (s.modPkg p fun y => { y with attgo := true })) ∧
    (x.attgo = true → ∃ t, exec .attestationReportDone s = .next t ∧ t = s.modPkg p (fun y => { y with attgo := false, report := (t.pkg p).report }) ∧ ∀ i, i < 416 →
      (t.pkg p).report.read i = ((s.reportBytes p)[i]?).getD 0) ∧
    (let rest := 24 - x.life.hours.toNat % 24;
      x.power = .on →
      (s.arg.c = 0 ∨ rest ≤ s.arg.c → let l := { x.life with hours := x.life.hours + BitVec.ofNat 64 rest }
        exec .lifetimeCommit s = .next (s.modPkg p fun y => { y with life := l, committed := l })) ∧
      (0 < s.arg.c → s.arg.c < rest → exec .lifetimeCommit s = .next (s.modPkg p fun y => { y with life := { y.life with hours := y.life.hours + BitVec.ofNat 64 s.arg.c } }))) ∧
    (x.life.hours.toNat / 720 % 60 = x.life.monthIndex.toNat → exec .monthAdvance s = .next s) ∧
    (x.power = .on → x.life.hours.toNat / 720 % 60 ≠ x.life.monthIndex.toNat → ∃ t, exec .monthAdvance s = .next t ∧ (t.pkg p).life.monthIndex.toNat = (x.life.monthIndex.toNat + 1) % 60 ∧
      ∀ i, (t.pkg p).life.ecc.get 0 i = if i / 1088 = (x.life.monthIndex.toNat + 1) % 60 then 0 else x.life.ecc.get 0 i) ∧
    (∀ ev ps, (ev, ps) ∈ [(Instr.pwrctlP0, (0 : BitVec 2)), (.pwrctlP1, 1), (.pwrctlP2, 2), (.pwrctlP3, 3)] → x.power = .on → (bits v 0 2 : BitVec 2) = ps →
      let seq : BitVec 16 := bits v 16 16
      ((bits v 2 14 : BitVec 14) = 0 → x.pbusy = true → exec ev s = .next (s.modPkg p fun y => { y with pheld := some v })) ∧
      ((bits v 2 14 : BitVec 14) ≠ 0 ∨ (x.pbusy = false ∧ ps = 3 ∧ s.anyBound p = true) → exec ev s = .next (s.modPkg p fun y => { y with prefused := true, pseq := seq })) ∧
      ((bits v 2 14 : BitVec 14) = 0 → x.pbusy = false → ¬(ps = 3 ∧ s.anyBound p = true) → exec ev s = .next (s.modPkg p fun y => { y with
        pbusy := true, ptarget := v, committed := if ps = 3 then y.life else y.committed }))) ∧
    (x.pbusy = true → x.pheld = none → exec .powerTransitionDone s = .next (s.modPkg p fun y => { y with
      pbusy := false, prefused := false, pstate := bits x.ptarget 0 2, pseq := bits x.ptarget 16 16, pheld := none })) ∧
    (let d := s.arg.b % 4
      let i := d * 5 + min 4 ((s.arg.c - 100) / 5)
      (x.power = .on → 100 ≤ s.arg.c → exec .thermalAlert s = .next (s.modPkg p fun y => { y with
        alert := y.alert ||| (1 <<< d), life := { y.life with thermal := y.life.thermal.set i (y.life.thermal.get 0 i + v) } })) ∧
      (∃ t, exec .thermalAlertClear s = .next t ∧ (t.pkg p).alert.getLsbD d = false ∧ (∀ e, e ≠ d → (t.pkg p).alert.getLsbD e = x.alert.getLsbD e) ∧ t.slots = s.slots ∧ t.mem = s.mem)) ∧
    (x.power = .on → 120 ≤ s.arg.c → exec .thermtrip s = .next (s.modPkg p fun y => { y with thermtrip := true }))

/-- Links, vaults and routes (R9 to R12, R19, R31, R38, R52): corrected and uncorrected errors, lanes spared and groups disabled with what a boundary held kept first,
ports degraded, routes rewritten while the senders through the package hold their requests, and resumed once all are answered, and the PCI Express port's training. The
model's choices here: the new entry is written as the hold begins, and which dies hold (log entry 38), each direction of a boundary is judged by itself (41), each further
failed lane counts (45). -/
def Obligations.LinkEvents : Prop :=
  ∀ (s : State),
    let p := s.arg.a
    let b := s.arg.b % 4
    let g := s.arg.c % 48
    let y := s.boundary p b
    let edge := fun (f : Boundary → Boundary) => s.modPkg p fun x => { x with boundaries := x.boundaries.set b (f (x.boundaries.get {} b)) }
    let counted := fun (u : State) (q link : Nat) => u.modPkg q fun x => { x with life := { x.life with retrains := x.life.retrains.set link (x.life.retrains.get 0 link + 1) } }
    let i := s.arg.b % 35
    let o := (s.pkg p).ports.get {} i
    ((s.pkg (p / 4)).power = .on → s.arg.b < dramEnd →
      let k := (s.pkg (p / 4)).life.monthIndex.toNat % 60 * 1088 + s.vaultBlock p s.arg.b
      (∃ t, exec .dramEccCorrect s = .next t ∧ (t.pkg (p / 4)).life.ecc.get 0 k = (if (s.pkg (p / 4)).life.ecc.get 0 k = 0xFFFF then 0xFFFF else (s.pkg (p / 4)).life.ecc.get 0 k + 1) ∧
        (s.arg.good = false → (t.pkg (p / 4)).life.spareRows = (s.pkg (p / 4)).life.spareRows) ∧ t.mem = s.mem ∧ t.slots = s.slots) ∧
      exec .dramEccPoison s = .next { s with poison := s.poison.insert (paOf p s.arg.b / 8 * 8) }) ∧
    exec .tarmelFlitReplay s = .next (edge fun x => { x with replays := x.replays + 1 }) ∧
    (y.failed.get 0 g < 4 → y.disabled.mem g = false →
      exec .tarmelLaneSpare s = .next (counted (edge fun x => { x with failed := x.failed.set g (x.failed.get 0 g + 1), retraining := x.retraining.insert g }) p b)) ∧
    exec .tarmelRetrainDone s = .next (edge fun x => { x with retraining := x.retraining.remove g }) ∧
    (y.failed.get 0 g = 4 → y.disabled.mem g = false → ∃ t, exec .tarmelGroupDisable s = .next t ∧ (t.boundary p b).disabled.mem g = true ∧ (t.boundary p b).retraining.mem g = false ∧ t.slots = s.slots ∧
      t.host = s.host ++ (if (t.pkg p).boundaryDown b (g / 24) then [.slate p "BOUNDARY DOWN" [b]] else []) ∧
      t.net = if (t.pkg p).boundaryDown b (g / 24) then s.net.map fun f => if s.crossing f = some (p, b, g / 24) then { f with held := true } else f else s.net) ∧
    exec .vilamFlitReplay s = .next (s.modPkg p fun x => { x with ports := x.ports.set i { o with replays := o.replays + 1 } }) ∧
    (o.failed < s.arg.c → s.arg.c ≤ 8 → o.disabled = false →
      exec .vilamPortDegrade s = .next { counted (s.modPkg p fun x => { x with ports := x.ports.set i { o with failed := s.arg.c, disabled := decide (4 < s.arg.c) } }) p (4 + i) with
        host := s.host ++ [.slate p "PORT" [i, s.arg.c]] }) ∧
    (s.arg.b < 1058 → s.arg.b ≠ p → (s.pkg p).power = .on → (s.pkg p).boot.done = true → ∃ t, exec .routeRewrite s = .next t ∧ (t.pkg p).heldDest.mem s.arg.b = true ∧ (∀ q ∈ s.sendersBy p s.arg.b, (t.pkg q).heldDest.mem s.arg.b = true) ∧
      (∀ d, d ≠ s.arg.b → (t.pkg p).route d = (s.pkg p).route d) ∧
      (routeValid ((t.pkg p).route s.arg.b) = true ↔ (s.newPort p s.arg.b).isSome) ∧ (∀ j, s.newPort p s.arg.b = some j → routePort ((t.pkg p).route s.arg.b) = j)) ∧
    (s.unanswered p s.arg.b = false → exec .routeResume s = .next (s.modPkg p fun x => { x with heldDest := x.heldDest.remove s.arg.b })) ∧
    ((s.pkg p).power = .on → 1 ≤ s.arg.b → s.arg.b ≤ 7 → s.arg.c ∈ [1, 2, 4, 8, 16] →
      exec .pcieLinkTrain s = .next ((if (s.pkg p).pcieLanes = 0 then s else counted s p 39).modPkg p fun x => { x with
        pcieGen := s.arg.b, pcieLanes := s.arg.c, barSize := if s.arg.value.toNat ∈ barSizes then s.arg.value.toNat else x.barSize }))

/-- Decoding undoes encoding (R232 to R252): the bytes of every well-formed instruction decode to it, with every operand at every value its encoding admits, and to its
length, whatever bytes follow. -/
def Obligations.DecodeEncode : Prop :=
  ∀ (i : Instr) (rest : List Byte), wellFormed i = true → decode (tableBytes (encode i).toNat (ilen i) ++ rest) = .ok (i, ilen i)

/-- Encoding undoes decoding (R232 to R252): bytes that decode are the bytes of the instruction they decode to, so an instruction has one encoding and every fixed and
must-be-zero bit is checked. -/
def Obligations.EncodeDecode : Prop :=
  ∀ (bytes : List Byte) (i : Instr) (n : Nat), decode bytes = .ok (i, n) → n = ilen i ∧ bytes.take n = tableBytes (encode i).toNat n

/-- Words written out from the encodings (R233, R236 to R252), one or more of each family, and what is refused: the zero halfword, a reserved major, a must-be-zero bit,
an unlisted function. -/
def Obligations.DecodeWords : Prop :=
  decode32 0x12540001 = .ok (.add 2 9 10) ∧ decode32 0x52800083 = .ok (.addi 10 10 1) ∧ decode32 0x4800040D = .ok (.li 9 8) ∧ decode32 0x4A701E0B = .ok (.roli 9 9 60) ∧
  decode32 0x50000217 = .ok (.bt 2 4) ∧ decode32 0x00060321 = .ok (.loopi 3 6) ∧ decode32 0x5A40002F = .ok (.ldd 11 9 0 0 0) ∧ decode32 0x62406CBB = .ok (.cas 12 9 0 0 13) ∧
  decode32 0x6006013F = .ok (.mbxr 12 3 0 0) ∧ decode32 0x6A880059 = .ok (.tkgetInsn 13 10 4 0 0) ∧ decode32 0x41208243 = .ok (.vfma 4 1 2 0 2) ∧ decode32 0x24A20147 = .ok (.vld 2 9 1 1 0 2) ∧
  decode32 0x130004D3 = .ok (.klen 2 12) ∧ decode32 0x610000D5 = .ok (.mma 12 2 0 0) ∧ decode32 0x81A200D7 = .ok (.cpy2 16 3 1 1) ∧ decode32 0x4800047F = .ok (.mfs 9 1) ∧
  decode32 0x844003FF = .ok (.svcRsm 16 17) ∧ decode32 0x0000015B = .ok (.exit 0 0) ∧ decode16 0x4622 = .ok (.vaddF32Short 2 3 1) ∧
  decode [0, 0, 1, 2] = .error .zeroHalfword ∧ decode32 0x0000005D = .error .reservedMajor ∧ decode32 0x00020A81 = .error .mustBeZero ∧ decode32 0x00000C81 = .error .unlistedFunction

/-- A step runs the decoded instruction (R113, R232, R233): with nothing on the agenda and the turn of a thread in RUN that no trap, skip or lock-step pair holds up, a
step is exec of the instruction that the thread's next one or two halfwords decode to, or of ILLEGAL_INSTRUCTION with the word that decodes to none; then a thread that
could not issue counts its turn, the core's cycle ends, and what the step brings about at once follows. A fetch that gives no halfword ends the turn. An event first on
the agenda is exec of it where the clocks that it needs run, but a host's posted write waits behind an earlier one that its package has not yet acted on (R440). -/
def Obligations.StepRunsDecoded : Prop :=
  ∀ (s : State),
    let c := coreOf s.cur
    let k := s.turnOf c
    let at' := { s with cur := k }
    let pc := (s.slot k).pc
    let ended := fun (t : State) => (t.modCore c fun x => { x with cycle := x.cycle + 1 }).settle
    let ran := fun (u : State) (i : Instr) => outMap (fun t => ended (t.modSlot k fun x => if x.st = .wait ∧ (x.hold = .reissue ∨ x.hold = .none) then { x with waits := x.waits + 1 } else x)) (exec i { u with cur := k })
    let bytes := fun (h : BitVec 16) => [h.setWidth 8, (h >>> 8).setWidth 8]
    (∀ i a r, s.agenda = .event i a :: r → let u : State := { s with agenda := r }
      step s = if u.behindPosted i a then .next ({ u with posted := u.posted ++ [(i, a)] } : State).settle
        else if ({ u with arg := a } : State).happens i then outMap State.settle (exec i { u with arg := a }) else .next u.settle) ∧
    (s.agenda = [] → (s.pkg (c / 4096)).power = .on → (s.pkg (c / 4096)).pstate ≠ 3 → (s.core c).crew.bind.lockstep = false →
    (s.slot k).st = .run → (s.slot k).trapNext = [] → (s.slot k).skip = false →
    (∀ u, at'.fetch16 k pc = .error u → step s = .next (ended u)) ∧
    (∀ u h, at'.fetch16 k pc = .ok (u, h) →
      (∀ i, decode (bytes h) = .ok (i, 2) → step s = ran u i) ∧
      (∀ e, decode (bytes h) = .error e → e ≠ .truncated → step s = ran u (.illegalInstruction (h.setWidth 32))) ∧
      (decode (bytes h) = .error .truncated →
        (∀ v, u.fetch16 k (pc + 2) = .error v → step s = .next (ended v)) ∧
        (∀ v h', u.fetch16 k (pc + 2) = .ok (v, h') →
          (∀ i, decode (bytes h ++ bytes h') = .ok (i, 4) → step s = ran v i) ∧
          (∀ e, decode (bytes h ++ bytes h') = .error e → step s = ran v (.illegalInstruction (h' ++ h)))))))

/-- A fetch reads the bytes at its address (R153, R161, R171, R233, R234; log entry 7): with a translation that allows execution, from the quad's line, or from the home
where no quad of its die holds the line; without one a walk starts; a page that does not allow it takes the page trap. -/
def Obligations.Fetch : Prop :=
  ∀ (s : State) (k : Nat) (va : Word),
    let c := coreOf k
    let q := quadOf c
    let t := s.slot k
    va.toNat < 2 ^ 57 →
    (s.tlbFind c t.job va = none → s.fetch16 k va = .error (s.startWalk { quad := q, slot := k, opId := t.issued.toNat, part := precisePart, job := t.job, va := va, write := false, fetch := true })) ∧
    ∀ l, s.tlbFind c t.job va = some l →
      let pa := l.pa va
      (l.x = false → s.fetch16 k va = .error (s.takeTrap k { cause := 0x09, addr := va, detail := FaultKind.permission.code } t.pc)) ∧
      (l.x = true → s.accessRefused k pa = none → paPeer pa ≠ hostPeer →
        (∀ x, l.nc = false → s.line q (pa / 256) = some x → x.poisoned (pa % 256) 2 = false → (∀ d i, d < 4 → i < 8 → (s.region (q * 4 + d) i).bound = false) →
          ∃ u, s.fetch16 k va = .ok (u, (x.read (pa % 256) 2).setWidth 16) ∧ u.mem = s.mem ∧ u.slots = s.slots) ∧
        ((∀ e ∈ s.quads, e.2.lines = []) → s.dirEntry (pa / 256) = none → (s.die (paPeer pa)).coh = [] → (∀ d i, d < 4 → i < 8 → (s.region (q * 4 + d) i).bound = false) → s.poison = [] → pa % 2 = 0 →
          ∃ u, s.fetch16 k va = .ok (u, s.memRead pa 2) ∧ u.mem = s.mem ∧ u.slots = s.slots))

/-- Every step keeps memory and stash in their one canonical form (R164, R446; log entry 2). -/
def Obligations.StepKeepsMemoryForm : Prop := ∀ (s t : State), s.memoryOk = true → step s = .next t → t.memoryOk = true

/-- The pod after reset (R21, R24, R71; log entries 1 and 2 where the values are the model's): every package without power, no thread bound, no tile open, every queue
disabled, nothing on its way, memory in its canonical form and, by the model's choice, every byte 0 and every word full. -/
def Obligations.ResetState : Prop :=
  let r := State.reset
  r.memoryOk = true ∧ r.net = [] ∧ r.agenda = [] ∧ (∀ p, (r.pkg p).power = .off ∧ (r.pkg p).boot.done = false ∧ (r.pkg p).pbusy = false) ∧ (∀ p n, (r.queue p n).enabled = false) ∧
    (∀ k, (r.slot k).st = .free ∧ (r.slot k).ops = []) ∧ (∀ q u, ((r.quad q).tile u).state = stClosed) ∧ (∀ a, r.mem.read a = 0 ∧ r.stash.read a = 0 ∧ r.empty.mem a = false ∧ r.poison.mem a = false)
end

