-- ==== Sys2Proof/Laws/Map.lean ====
section
/-!
SUPPORT. Laws/Map.lean: what reading a table, a memory or a set gives after an update, and that updates keep the sorted and canonical forms.
-/
namespace Sys2Proof

/-! ### Tables -/

theorem NMap.find_set_self {V : Type} (m : NMap V) (k : Nat) (v : V) : (m.set k v).find k = some v := by
  induction m with
  | nil => simp [NMap.set, NMap.find]
  | cons e m ih =>
    obtain ⟨j, w⟩ := e
    unfold NMap.set
    split
    · simp [NMap.find]
    · split
      · simp [NMap.find]
      · rename_i h1 h2
        simp [NMap.find, Ne.symm h2, ih]

theorem NMap.find_set_ne {V : Type} (m : NMap V) {k j : Nat} (v : V) (h : j ≠ k) : (m.set k v).find j = m.find j := by
  induction m with
  | nil => simp [NMap.set, NMap.find, Ne.symm h]
  | cons e m ih =>
    obtain ⟨i, w⟩ := e
    unfold NMap.set
    split
    · simp [NMap.find, Ne.symm h]
    · split
      · rename_i h1 h2
        subst h2
        simp [NMap.find, Ne.symm h]
      · simp [NMap.find, ih]

@[simp] theorem NMap.get_set_self {V : Type} (m : NMap V) (d : V) (k : Nat) (v : V) : (m.set k v).get d k = v := by
  simp [NMap.get, NMap.find_set_self]

theorem NMap.get_set_ne {V : Type} (m : NMap V) (d : V) {k j : Nat} (v : V) (h : j ≠ k) : (m.set k v).get d j = m.get d j := by
  simp [NMap.get, NMap.find_set_ne m v h]

theorem NMap.get_set {V : Type} (m : NMap V) (d : V) (k j : Nat) (v : V) : (m.set k v).get d j = if j = k then v else m.get d j := by
  split
  · subst_vars; simp
  · exact NMap.get_set_ne m d v ‹_›

@[simp] theorem NMap.set_set {V : Type} (m : NMap V) (k : Nat) (v w : V) : (m.set k v).set k w = m.set k w := by
  induction m with
  | nil => simp [NMap.set]
  | cons e m ih =>
    obtain ⟨j, u⟩ := e
    by_cases h1 : k < j
    · simp [NMap.set, h1]
    · by_cases h2 : k = j
      · simp [NMap.set, h2]
      · simp [NMap.set, h1, h2, ih]

theorem NMap.find_mapV {V : Type} (m : NMap V) (f : Nat → V → V) (k : Nat) : (m.mapV f).find k = (m.find k).map (f k) := by
  induction m with
  | nil => simp [NMap.mapV, NMap.find]
  | cons e m ih =>
    obtain ⟨j, u⟩ := e
    by_cases h : j = k
    · subst h; simp [NMap.mapV, NMap.find]
    · simp only [NMap.mapV, List.map_cons, NMap.find, h, if_false] at ih ⊢
      exact ih

@[simp] theorem NMap.get_nil {V : Type} (d : V) (k : Nat) : NMap.get [] d k = d := rfl

theorem NMap.mem_set {V : Type} {m : NMap V} {k : Nat} {v : V} {e : Nat × V} (h : e ∈ m.set k v) : e = (k, v) ∨ e ∈ m := by
  induction m with
  | nil => simpa [NMap.set] using h
  | cons x m ih =>
    obtain ⟨j, u⟩ := x
    unfold NMap.set at h
    split at h
    · simpa using h
    · split at h
      · rcases List.mem_cons.mp h with h | h
        · exact .inl h
        · exact .inr (List.mem_cons_of_mem _ h)
      · rcases List.mem_cons.mp h with h | h
        · exact .inr (by simp [h])
        · rcases ih h with h | h
          · exact .inl h
          · exact .inr (List.mem_cons_of_mem _ h)

theorem NMap.wf_set {V : Type} {m : NMap V} (k : Nat) (v : V) (h : m.wf = true) : (m.set k v).wf = true := by
  induction m with
  | nil => simp [NMap.set, NMap.wf]
  | cons e m ih =>
    obtain ⟨j, u⟩ := e
    simp only [NMap.wf, Bool.and_eq_true, List.all_eq_true, decide_eq_true_eq] at h
    unfold NMap.set
    split
    · rename_i hk
      simp only [NMap.wf, Bool.and_eq_true, List.all_eq_true, decide_eq_true_eq, List.mem_cons]
      refine ⟨?_, h.1, h.2⟩
      rintro x (rfl | hx)
      · exact hk
      · exact Nat.lt_trans hk (h.1 x hx)
    · split
      · rename_i hk
        subst hk
        simp only [NMap.wf, Bool.and_eq_true, List.all_eq_true, decide_eq_true_eq]
        exact h
      · rename_i h1 h2
        simp only [NMap.wf, Bool.and_eq_true, List.all_eq_true, decide_eq_true_eq]
        refine ⟨fun x hx => ?_, ih h.2⟩
        rcases NMap.mem_set hx with rfl | hx
        · simp only; omega
        · exact h.1 x hx

/-! ### Memory -/

theorem Cells.mem_write {m : Cells} {k : Nat} {v : Byte} {e : Host.Cell} (h : e ∈ m.write k v) : e = (k, v) ∨ e ∈ m := by
  induction m with
  | nil =>
    unfold Cells.write at h
    split at h <;> simp_all
  | cons x m ih =>
    obtain ⟨j, u⟩ := x
    unfold Cells.write at h
    split at h
    · split at h
      · exact .inr h
      · simpa using h
    · split at h
      · split at h
        · exact .inr (List.mem_cons_of_mem _ h)
        · rcases List.mem_cons.mp h with h | h
          · exact .inl h
          · exact .inr (List.mem_cons_of_mem _ h)
      · rcases List.mem_cons.mp h with h | h
        · exact .inr (by simp [h])
        · rcases ih h with h | h
          · exact .inl h
          · exact .inr (List.mem_cons_of_mem _ h)

/-- A write keeps memory's canonical form. -/
theorem Cells.wf_write {m : Cells} (k : Nat) (v : Byte) (h : m.wf = true) : (m.write k v).wf = true := by
  induction m with
  | nil =>
    unfold Cells.write
    split <;> simp_all [Cells.wf]
  | cons e m ih =>
    obtain ⟨j, u⟩ := e
    have h' := h
    simp only [Cells.wf, Bool.and_eq_true, List.all_eq_true, decide_eq_true_eq] at h
    obtain ⟨ha, hu, hm⟩ := h
    unfold Cells.write
    split
    · rename_i hk
      split
      · exact h'
      · rename_i hv
        simp only [Cells.wf, Bool.and_eq_true, List.all_eq_true, decide_eq_true_eq, List.mem_cons]
        refine ⟨?_, hv, ha, hu, hm⟩
        rintro x (rfl | hx)
        · exact hk
        · exact Nat.lt_trans hk (ha x hx)
    · split
      · rename_i hk
        split
        · exact hm
        · rename_i hv
          subst hk
          simp only [Cells.wf, Bool.and_eq_true, List.all_eq_true, decide_eq_true_eq]
          exact ⟨ha, hv, hm⟩
      · rename_i h1 h2
        simp only [Cells.wf, Bool.and_eq_true, List.all_eq_true, decide_eq_true_eq]
        refine ⟨fun x hx => ?_, hu, ih hm⟩
        rcases Cells.mem_write hx with rfl | hx
        · simp only; omega
        · exact ha x hx

/-- A write leaves every other byte. -/
theorem Cells.read_write_ne (m : Cells) {k a : Nat} (v : Byte) (h : a ≠ k) : (m.write k v).read a = m.read a := by
  induction m with
  | nil =>
    unfold Cells.write
    split <;> simp [Cells.read, Ne.symm h]
  | cons e m ih =>
    obtain ⟨j, u⟩ := e
    unfold Cells.write
    split
    · split
      · rfl
      · simp [Cells.read, Ne.symm h]
    · split
      · rename_i hk
        subst hk
        split <;> simp [Cells.read, Ne.symm h]
      · simp [Cells.read, ih]

theorem Cells.read_of_lt (m : Cells) (k : Nat) (h : ∀ e ∈ m, k < e.1) : m.read k = 0 := by
  induction m with
  | nil => rfl
  | cons e m ih =>
    obtain ⟨j, u⟩ := e
    have h1 : k < j := h (j, u) List.mem_cons_self
    simp only [Cells.read, show ¬j = k by omega, if_false]
    exact ih fun e he => h e (List.mem_cons_of_mem _ he)

/-- A read after a write of a canonical memory gives the byte written. -/
theorem Cells.read_write_self {m : Cells} (k : Nat) (v : Byte) (h : m.wf = true) : (m.write k v).read k = v := by
  induction m with
  | nil =>
    unfold Cells.write
    split <;> simp_all [Cells.read]
  | cons e m ih =>
    obtain ⟨j, u⟩ := e
    simp only [Cells.wf, Bool.and_eq_true, List.all_eq_true, decide_eq_true_eq] at h
    obtain ⟨ha, hu, hm⟩ := h
    unfold Cells.write
    split
    · rename_i hk
      split
      · rename_i hv
        subst hv
        apply Cells.read_of_lt
        intro x hx
        rcases List.mem_cons.mp hx with rfl | hx
        · exact hk
        · exact Nat.lt_trans hk (ha x hx)
      · simp [Cells.read]
    · split
      · rename_i hk
        subst hk
        split
        · rename_i hv
          subst hv
          exact Cells.read_of_lt m k ha
        · simp [Cells.read]
      · rename_i h1 h2
        simp [Cells.read, Ne.symm h2, ih hm]

theorem Cells.wf_writeN {m : Cells} (a n : Nat) {w : Nat} (v : BitVec w) (h : m.wf = true) : (m.writeN a n v).wf = true := by
  induction n with
  | zero => exact h
  | succ n ih => exact Cells.wf_write _ _ ih

theorem Cells.wf_writeList {m : Cells} (a : Nat) (bs : List Byte) (h : m.wf = true) : (m.writeList a bs).wf = true := by
  induction bs generalizing m a with
  | nil => exact h
  | cons b bs ih => exact ih (a + 1) (Cells.wf_write a b h)

/-- A wide write leaves every byte outside it. -/
theorem Cells.read_writeN_out (m : Cells) (a n : Nat) {w : Nat} (v : BitVec w) (k : Nat) (h : k < a ∨ a + n ≤ k) : (m.writeN a n v).read k = m.read k := by
  induction n with
  | zero => rfl
  | succ n ih =>
    simp only [Cells.writeN]
    rw [Cells.read_write_ne _ _ (by omega), ih (by omega)]

/-- Byte j of a wide write is byte j of the value. -/
theorem Cells.read_writeN_in {m : Cells} (a n : Nat) {w : Nat} (v : BitVec w) (j : Nat) (hj : j < n) (h : m.wf = true) :
    (m.writeN a n v).read (a + j) = v.extractLsb' (8 * j) 8 := by
  induction n with
  | zero => omega
  | succ n ih =>
    simp only [Cells.writeN]
    by_cases hjn : j = n
    · subst hjn
      exact Cells.read_write_self _ _ (Cells.wf_writeN a j v h)
    · rw [Cells.read_write_ne _ _ (by omega), ih (by omega)]

theorem Cells.readN_congr (m m' : Cells) (a n : Nat) (h : ∀ j < n, m.read (a + j) = m'.read (a + j)) : m.readN a n = m'.readN a n := by
  induction n with
  | zero => rfl
  | succ n ih =>
    simp only [Cells.readN]
    rw [ih fun j hj => h j (by omega), h n (by omega)]

/-- Bit i of a wide read is bit i % 8 of byte i / 8. -/
theorem Cells.getLsbD_readN (m : Cells) (a n i : Nat) : (m.readN a n).getLsbD i = (decide (i < 8 * n) && (m.read (a + i / 8)).getLsbD (i % 8)) := by
  induction n with
  | zero => simp [Cells.readN]
  | succ n ih =>
    simp only [Cells.readN, BitVec.getLsbD_or, BitVec.getLsbD_setWidth, BitVec.getLsbD_shiftLeft, ih]
    by_cases h1 : i < 8 * n
    · have h2 : i < 8 * (n + 1) := by omega
      simp [h1, h2]
    · by_cases h2 : i < 8 * (n + 1)
      · have h3 : i / 8 = n := by omega
        have h4 : i - 8 * n = i % 8 := by omega
        have h5 : i % 8 < 8 * (n + 1) := by omega
        simp [h1, h2, h3, h4, h5]
      · simp [h1, h2]

/-- n bytes read back after they were written: the value's low bytes. -/
theorem Cells.readN_writeN {m : Cells} (a n : Nat) {w : Nat} (v : BitVec w) (h : m.wf = true) : (m.writeN a n v).readN a n = v.setWidth (8 * n) := by
  apply BitVec.eq_of_getLsbD_eq
  intro i hi
  rw [Cells.getLsbD_readN, Cells.read_writeN_in a n v (i / 8) (by omega) h]
  have h8 : 8 * (i / 8) + i % 8 = i := by omega
  simp [hi, h8, Nat.mod_lt]

/-! ### Sets -/

@[simp] theorem NSet.mem_insert (s : NSet) (k j : Nat) : (s.insert k).mem j = (j == k || s.mem j) := by
  induction s with
  | nil => simp [NSet.insert, NSet.mem, eq_comm, Bool.beq_eq_decide_eq]
  | cons x s ih =>
    unfold NSet.insert
    split
    · simp [NSet.mem, eq_comm, Bool.beq_eq_decide_eq]
    · split
      · rename_i h
        subst h
        by_cases hj : j = k
        · simp [NSet.mem, hj]
        · simp [NSet.mem, hj]
      · simp only [NSet.mem, List.any_cons] at ih ⊢
        rw [ih]
        cases (x == j) <;> cases (j == k) <;> rfl

@[simp] theorem NSet.mem_remove (s : NSet) (k j : Nat) : (s.remove k).mem j = (j != k && s.mem j) := by
  induction s with
  | nil => simp [NSet.remove, NSet.mem]
  | cons x s ih =>
    simp only [NSet.remove, NSet.mem] at ih ⊢
    by_cases hx : x = k
    · subst hx
      rw [List.filter_cons_of_neg (by simp), ih, List.any_cons]
      cases hj : (j == x)
      · have h2 : (x == j) = false := by
          rw [beq_eq_false_iff_ne] at hj ⊢
          exact Ne.symm hj
        rw [h2, Bool.false_or]
      · simp only [bne, hj, Bool.not_true, Bool.false_and]
    · rw [List.filter_cons_of_pos (by simp [hx]), List.any_cons, ih, List.any_cons]
      cases hj : (x == j)
      · rw [Bool.false_or, Bool.false_or]
      · have h2 : x = j := eq_of_beq hj
        have h3 : (j == k) = false := by
          rw [beq_eq_false_iff_ne]
          exact h2 ▸ hx
        simp only [bne, h3, Bool.not_false, Bool.true_and, Bool.true_or]

theorem NSet.mem_put (s : NSet) (k j : Nat) (b : Bool) : (s.put k b).mem j = if j = k then b else s.mem j := by
  unfold NSet.put
  by_cases h : j = k <;> cases b <;> simp [h]

theorem NSet.mem_of_insert {s : NSet} {k j : Nat} (h : j ∈ s.insert k) : j = k ∨ j ∈ s := by
  induction s with
  | nil => simpa [NSet.insert] using h
  | cons x s ih =>
    unfold NSet.insert at h
    split at h
    · simpa using h
    · split at h
      · exact .inr h
      · rcases List.mem_cons.mp h with h | h
        · exact .inr (by simp [h])
        · rcases ih h with h | h
          · exact .inl h
          · exact .inr (List.mem_cons_of_mem _ h)

theorem NSet.wf_insert {s : NSet} (k : Nat) (h : s.wf = true) : (s.insert k).wf = true := by
  induction s with
  | nil => simp [NSet.insert, NSet.wf]
  | cons x s ih =>
    have h' := h
    simp only [NSet.wf, Bool.and_eq_true, List.all_eq_true, decide_eq_true_eq] at h
    unfold NSet.insert
    split
    · rename_i hk
      simp only [NSet.wf, Bool.and_eq_true, List.all_eq_true, decide_eq_true_eq, List.mem_cons]
      refine ⟨?_, h.1, h.2⟩
      rintro y (rfl | hy)
      · exact hk
      · exact Nat.lt_trans hk (h.1 y hy)
    · split
      · exact h'
      · simp only [NSet.wf, Bool.and_eq_true, List.all_eq_true, decide_eq_true_eq]
        refine ⟨fun y hy => ?_, ih h.2⟩
        rcases NSet.mem_of_insert hy with rfl | hy
        · omega
        · exact h.1 y hy

theorem NSet.wf_filter {s : NSet} (p : Nat → Bool) (h : s.wf = true) : NSet.wf (s.filter p) = true := by
  induction s with
  | nil => exact h
  | cons x s ih =>
    simp only [NSet.wf, Bool.and_eq_true, List.all_eq_true, decide_eq_true_eq] at h
    rw [List.filter_cons]
    split
    · simp only [NSet.wf, Bool.and_eq_true, List.all_eq_true, decide_eq_true_eq]
      exact ⟨fun y hy => h.1 y (List.mem_filter.mp hy).1, ih h.2⟩
    · exact ih h.2

theorem NSet.wf_remove {s : NSet} (k : Nat) (h : s.wf = true) : (s.remove k).wf = true := NSet.wf_filter _ h

theorem NSet.wf_put {s : NSet} (k : Nat) (b : Bool) (h : s.wf = true) : (s.put k b).wf = true := by
  unfold NSet.put
  split
  · exact NSet.wf_insert k h
  · exact NSet.wf_remove k h

theorem Cells.wf_filter {m : Cells} (p : Host.Cell → Bool) (h : m.wf = true) : Cells.wf (m.filter p) = true := by
  induction m with
  | nil => exact h
  | cons e m ih =>
    obtain ⟨j, u⟩ := e
    simp only [Cells.wf, Bool.and_eq_true, List.all_eq_true, decide_eq_true_eq] at h
    rw [List.filter_cons]
    split
    · simp only [Cells.wf, Bool.and_eq_true, List.all_eq_true, decide_eq_true_eq]
      exact ⟨fun y hy => h.1 y (List.mem_filter.mp hy).1, h.2.1, ih h.2.2⟩
    · exact ih h.2.2

end Sys2Proof
end

