-- ==== Sys2Proof/Laws/State.lean ====
section
/-!
SUPPORT. Laws/State.lean: one lemma per field and update of the state, and what its parts read as after an update, so that proofs need not
unfold a record update.
-/
namespace Sys2Proof.Machine

/-! ### The parts of the pod changed one at a time -/

@[simp] theorem State.modSlot_pkgs (s : State) (k : Nat) (f : Slot → Slot) : (s.modSlot k f).pkgs = s.pkgs := rfl
@[simp] theorem State.modSlot_dies (s : State) (k : Nat) (f : Slot → Slot) : (s.modSlot k f).dies = s.dies := rfl
@[simp] theorem State.modSlot_quads (s : State) (k : Nat) (f : Slot → Slot) : (s.modSlot k f).quads = s.quads := rfl
@[simp] theorem State.modSlot_cores (s : State) (k : Nat) (f : Slot → Slot) : (s.modSlot k f).cores = s.cores := rfl
@[simp] theorem State.modSlot_mem (s : State) (k : Nat) (f : Slot → Slot) : (s.modSlot k f).mem = s.mem := rfl
@[simp] theorem State.modSlot_empty (s : State) (k : Nat) (f : Slot → Slot) : (s.modSlot k f).empty = s.empty := rfl
@[simp] theorem State.modSlot_poison (s : State) (k : Nat) (f : Slot → Slot) : (s.modSlot k f).poison = s.poison := rfl
@[simp] theorem State.modSlot_stash (s : State) (k : Nat) (f : Slot → Slot) : (s.modSlot k f).stash = s.stash := rfl
@[simp] theorem State.modSlot_stashEmpty (s : State) (k : Nat) (f : Slot → Slot) : (s.modSlot k f).stashEmpty = s.stashEmpty := rfl
@[simp] theorem State.modSlot_stashPoison (s : State) (k : Nat) (f : Slot → Slot) : (s.modSlot k f).stashPoison = s.stashPoison := rfl
@[simp] theorem State.modSlot_net (s : State) (k : Nat) (f : Slot → Slot) : (s.modSlot k f).net = s.net := rfl
@[simp] theorem State.modSlot_cur (s : State) (k : Nat) (f : Slot → Slot) : (s.modSlot k f).cur = s.cur := rfl
@[simp] theorem State.modSlot_arg (s : State) (k : Nat) (f : Slot → Slot) : (s.modSlot k f).arg = s.arg := rfl
@[simp] theorem State.modSlot_agenda (s : State) (k : Nat) (f : Slot → Slot) : (s.modSlot k f).agenda = s.agenda := rfl
@[simp] theorem State.modSlot_posted (s : State) (k : Nat) (f : Slot → Slot) : (s.modSlot k f).posted = s.posted := rfl
@[simp] theorem State.modSlot_opens (s : State) (k : Nat) (f : Slot → Slot) : (s.modSlot k f).opens = s.opens := rfl
@[simp] theorem State.modSlot_host (s : State) (k : Nat) (f : Slot → Slot) : (s.modSlot k f).host = s.host := rfl
@[simp] theorem State.core_modSlot (s : State) (k j : Nat) (f : Slot → Slot) : (s.modSlot k f).core j = s.core j := rfl
@[simp] theorem State.quad_modSlot (s : State) (k j : Nat) (f : Slot → Slot) : (s.modSlot k f).quad j = s.quad j := rfl
@[simp] theorem State.die_modSlot (s : State) (k j : Nat) (f : Slot → Slot) : (s.modSlot k f).die j = s.die j := rfl
@[simp] theorem State.pkg_modSlot (s : State) (k j : Nat) (f : Slot → Slot) : (s.modSlot k f).pkg j = s.pkg j := rfl
@[simp] theorem State.slot_modSlot_self (s : State) (k : Nat) (f : Slot → Slot) : (s.modSlot k f).slot k = f (s.slot k) := NMap.get_set_self _ _ _ _
theorem State.slot_modSlot_ne (s : State) {k j : Nat} (f : Slot → Slot) (h : j ≠ k) : (s.modSlot k f).slot j = s.slot j := NMap.get_set_ne _ _ _ h
theorem State.slot_modSlot (s : State) (k j : Nat) (f : Slot → Slot) : (s.modSlot k f).slot j = if j = k then f (s.slot k) else s.slot j := NMap.get_set _ _ _ _ _
@[simp] theorem State.modSlot_modSlot (s : State) (k : Nat) (f g : Slot → Slot) : (s.modSlot k f).modSlot k g = s.modSlot k fun x => g (f x) := by
  simp [State.modSlot, State.slot]

@[simp] theorem State.modCore_pkgs (s : State) (k : Nat) (f : Core → Core) : (s.modCore k f).pkgs = s.pkgs := rfl
@[simp] theorem State.modCore_dies (s : State) (k : Nat) (f : Core → Core) : (s.modCore k f).dies = s.dies := rfl
@[simp] theorem State.modCore_quads (s : State) (k : Nat) (f : Core → Core) : (s.modCore k f).quads = s.quads := rfl
@[simp] theorem State.modCore_slots (s : State) (k : Nat) (f : Core → Core) : (s.modCore k f).slots = s.slots := rfl
@[simp] theorem State.modCore_mem (s : State) (k : Nat) (f : Core → Core) : (s.modCore k f).mem = s.mem := rfl
@[simp] theorem State.modCore_empty (s : State) (k : Nat) (f : Core → Core) : (s.modCore k f).empty = s.empty := rfl
@[simp] theorem State.modCore_poison (s : State) (k : Nat) (f : Core → Core) : (s.modCore k f).poison = s.poison := rfl
@[simp] theorem State.modCore_stash (s : State) (k : Nat) (f : Core → Core) : (s.modCore k f).stash = s.stash := rfl
@[simp] theorem State.modCore_stashEmpty (s : State) (k : Nat) (f : Core → Core) : (s.modCore k f).stashEmpty = s.stashEmpty := rfl
@[simp] theorem State.modCore_stashPoison (s : State) (k : Nat) (f : Core → Core) : (s.modCore k f).stashPoison = s.stashPoison := rfl
@[simp] theorem State.modCore_net (s : State) (k : Nat) (f : Core → Core) : (s.modCore k f).net = s.net := rfl
@[simp] theorem State.modCore_cur (s : State) (k : Nat) (f : Core → Core) : (s.modCore k f).cur = s.cur := rfl
@[simp] theorem State.modCore_arg (s : State) (k : Nat) (f : Core → Core) : (s.modCore k f).arg = s.arg := rfl
@[simp] theorem State.modCore_agenda (s : State) (k : Nat) (f : Core → Core) : (s.modCore k f).agenda = s.agenda := rfl
@[simp] theorem State.modCore_posted (s : State) (k : Nat) (f : Core → Core) : (s.modCore k f).posted = s.posted := rfl
@[simp] theorem State.modCore_opens (s : State) (k : Nat) (f : Core → Core) : (s.modCore k f).opens = s.opens := rfl
@[simp] theorem State.modCore_host (s : State) (k : Nat) (f : Core → Core) : (s.modCore k f).host = s.host := rfl
@[simp] theorem State.slot_modCore (s : State) (k j : Nat) (f : Core → Core) : (s.modCore k f).slot j = s.slot j := rfl
@[simp] theorem State.quad_modCore (s : State) (k j : Nat) (f : Core → Core) : (s.modCore k f).quad j = s.quad j := rfl
@[simp] theorem State.die_modCore (s : State) (k j : Nat) (f : Core → Core) : (s.modCore k f).die j = s.die j := rfl
@[simp] theorem State.pkg_modCore (s : State) (k j : Nat) (f : Core → Core) : (s.modCore k f).pkg j = s.pkg j := rfl
@[simp] theorem State.core_modCore_self (s : State) (k : Nat) (f : Core → Core) : (s.modCore k f).core k = f (s.core k) := NMap.get_set_self _ _ _ _
theorem State.core_modCore_ne (s : State) {k j : Nat} (f : Core → Core) (h : j ≠ k) : (s.modCore k f).core j = s.core j := NMap.get_set_ne _ _ _ h
theorem State.core_modCore (s : State) (k j : Nat) (f : Core → Core) : (s.modCore k f).core j = if j = k then f (s.core k) else s.core j := NMap.get_set _ _ _ _ _
@[simp] theorem State.modCore_modCore (s : State) (k : Nat) (f g : Core → Core) : (s.modCore k f).modCore k g = s.modCore k fun x => g (f x) := by
  simp [State.modCore, State.core]

@[simp] theorem State.modQuad_pkgs (s : State) (k : Nat) (f : Quad → Quad) : (s.modQuad k f).pkgs = s.pkgs := rfl
@[simp] theorem State.modQuad_dies (s : State) (k : Nat) (f : Quad → Quad) : (s.modQuad k f).dies = s.dies := rfl
@[simp] theorem State.modQuad_cores (s : State) (k : Nat) (f : Quad → Quad) : (s.modQuad k f).cores = s.cores := rfl
@[simp] theorem State.modQuad_slots (s : State) (k : Nat) (f : Quad → Quad) : (s.modQuad k f).slots = s.slots := rfl
@[simp] theorem State.modQuad_mem (s : State) (k : Nat) (f : Quad → Quad) : (s.modQuad k f).mem = s.mem := rfl
@[simp] theorem State.modQuad_empty (s : State) (k : Nat) (f : Quad → Quad) : (s.modQuad k f).empty = s.empty := rfl
@[simp] theorem State.modQuad_poison (s : State) (k : Nat) (f : Quad → Quad) : (s.modQuad k f).poison = s.poison := rfl
@[simp] theorem State.modQuad_stash (s : State) (k : Nat) (f : Quad → Quad) : (s.modQuad k f).stash = s.stash := rfl
@[simp] theorem State.modQuad_stashEmpty (s : State) (k : Nat) (f : Quad → Quad) : (s.modQuad k f).stashEmpty = s.stashEmpty := rfl
@[simp] theorem State.modQuad_stashPoison (s : State) (k : Nat) (f : Quad → Quad) : (s.modQuad k f).stashPoison = s.stashPoison := rfl
@[simp] theorem State.modQuad_net (s : State) (k : Nat) (f : Quad → Quad) : (s.modQuad k f).net = s.net := rfl
@[simp] theorem State.modQuad_cur (s : State) (k : Nat) (f : Quad → Quad) : (s.modQuad k f).cur = s.cur := rfl
@[simp] theorem State.modQuad_arg (s : State) (k : Nat) (f : Quad → Quad) : (s.modQuad k f).arg = s.arg := rfl
@[simp] theorem State.modQuad_agenda (s : State) (k : Nat) (f : Quad → Quad) : (s.modQuad k f).agenda = s.agenda := rfl
@[simp] theorem State.modQuad_posted (s : State) (k : Nat) (f : Quad → Quad) : (s.modQuad k f).posted = s.posted := rfl
@[simp] theorem State.modQuad_opens (s : State) (k : Nat) (f : Quad → Quad) : (s.modQuad k f).opens = s.opens := rfl
@[simp] theorem State.modQuad_host (s : State) (k : Nat) (f : Quad → Quad) : (s.modQuad k f).host = s.host := rfl
@[simp] theorem State.slot_modQuad (s : State) (k j : Nat) (f : Quad → Quad) : (s.modQuad k f).slot j = s.slot j := rfl
@[simp] theorem State.core_modQuad (s : State) (k j : Nat) (f : Quad → Quad) : (s.modQuad k f).core j = s.core j := rfl
@[simp] theorem State.die_modQuad (s : State) (k j : Nat) (f : Quad → Quad) : (s.modQuad k f).die j = s.die j := rfl
@[simp] theorem State.pkg_modQuad (s : State) (k j : Nat) (f : Quad → Quad) : (s.modQuad k f).pkg j = s.pkg j := rfl
@[simp] theorem State.quad_modQuad_self (s : State) (k : Nat) (f : Quad → Quad) : (s.modQuad k f).quad k = f (s.quad k) := NMap.get_set_self _ _ _ _
theorem State.quad_modQuad_ne (s : State) {k j : Nat} (f : Quad → Quad) (h : j ≠ k) : (s.modQuad k f).quad j = s.quad j := NMap.get_set_ne _ _ _ h
theorem State.quad_modQuad (s : State) (k j : Nat) (f : Quad → Quad) : (s.modQuad k f).quad j = if j = k then f (s.quad k) else s.quad j := NMap.get_set _ _ _ _ _
@[simp] theorem State.modQuad_modQuad (s : State) (k : Nat) (f g : Quad → Quad) : (s.modQuad k f).modQuad k g = s.modQuad k fun x => g (f x) := by
  simp [State.modQuad, State.quad]

@[simp] theorem State.modDie_pkgs (s : State) (k : Nat) (f : Die → Die) : (s.modDie k f).pkgs = s.pkgs := rfl
@[simp] theorem State.modDie_quads (s : State) (k : Nat) (f : Die → Die) : (s.modDie k f).quads = s.quads := rfl
@[simp] theorem State.modDie_cores (s : State) (k : Nat) (f : Die → Die) : (s.modDie k f).cores = s.cores := rfl
@[simp] theorem State.modDie_slots (s : State) (k : Nat) (f : Die → Die) : (s.modDie k f).slots = s.slots := rfl
@[simp] theorem State.modDie_mem (s : State) (k : Nat) (f : Die → Die) : (s.modDie k f).mem = s.mem := rfl
@[simp] theorem State.modDie_empty (s : State) (k : Nat) (f : Die → Die) : (s.modDie k f).empty = s.empty := rfl
@[simp] theorem State.modDie_poison (s : State) (k : Nat) (f : Die → Die) : (s.modDie k f).poison = s.poison := rfl
@[simp] theorem State.modDie_stash (s : State) (k : Nat) (f : Die → Die) : (s.modDie k f).stash = s.stash := rfl
@[simp] theorem State.modDie_stashEmpty (s : State) (k : Nat) (f : Die → Die) : (s.modDie k f).stashEmpty = s.stashEmpty := rfl
@[simp] theorem State.modDie_stashPoison (s : State) (k : Nat) (f : Die → Die) : (s.modDie k f).stashPoison = s.stashPoison := rfl
@[simp] theorem State.modDie_net (s : State) (k : Nat) (f : Die → Die) : (s.modDie k f).net = s.net := rfl
@[simp] theorem State.modDie_cur (s : State) (k : Nat) (f : Die → Die) : (s.modDie k f).cur = s.cur := rfl
@[simp] theorem State.modDie_arg (s : State) (k : Nat) (f : Die → Die) : (s.modDie k f).arg = s.arg := rfl
@[simp] theorem State.modDie_agenda (s : State) (k : Nat) (f : Die → Die) : (s.modDie k f).agenda = s.agenda := rfl
@[simp] theorem State.modDie_posted (s : State) (k : Nat) (f : Die → Die) : (s.modDie k f).posted = s.posted := rfl
@[simp] theorem State.modDie_opens (s : State) (k : Nat) (f : Die → Die) : (s.modDie k f).opens = s.opens := rfl
@[simp] theorem State.modDie_host (s : State) (k : Nat) (f : Die → Die) : (s.modDie k f).host = s.host := rfl
@[simp] theorem State.slot_modDie (s : State) (k j : Nat) (f : Die → Die) : (s.modDie k f).slot j = s.slot j := rfl
@[simp] theorem State.core_modDie (s : State) (k j : Nat) (f : Die → Die) : (s.modDie k f).core j = s.core j := rfl
@[simp] theorem State.quad_modDie (s : State) (k j : Nat) (f : Die → Die) : (s.modDie k f).quad j = s.quad j := rfl
@[simp] theorem State.pkg_modDie (s : State) (k j : Nat) (f : Die → Die) : (s.modDie k f).pkg j = s.pkg j := rfl
@[simp] theorem State.die_modDie_self (s : State) (k : Nat) (f : Die → Die) : (s.modDie k f).die k = f (s.die k) := NMap.get_set_self _ _ _ _
theorem State.die_modDie_ne (s : State) {k j : Nat} (f : Die → Die) (h : j ≠ k) : (s.modDie k f).die j = s.die j := NMap.get_set_ne _ _ _ h
theorem State.die_modDie (s : State) (k j : Nat) (f : Die → Die) : (s.modDie k f).die j = if j = k then f (s.die k) else s.die j := NMap.get_set _ _ _ _ _
@[simp] theorem State.modDie_modDie (s : State) (k : Nat) (f g : Die → Die) : (s.modDie k f).modDie k g = s.modDie k fun x => g (f x) := by
  simp [State.modDie, State.die]

@[simp] theorem State.modPkg_dies (s : State) (k : Nat) (f : Pkg → Pkg) : (s.modPkg k f).dies = s.dies := rfl
@[simp] theorem State.modPkg_quads (s : State) (k : Nat) (f : Pkg → Pkg) : (s.modPkg k f).quads = s.quads := rfl
@[simp] theorem State.modPkg_cores (s : State) (k : Nat) (f : Pkg → Pkg) : (s.modPkg k f).cores = s.cores := rfl
@[simp] theorem State.modPkg_slots (s : State) (k : Nat) (f : Pkg → Pkg) : (s.modPkg k f).slots = s.slots := rfl
@[simp] theorem State.modPkg_mem (s : State) (k : Nat) (f : Pkg → Pkg) : (s.modPkg k f).mem = s.mem := rfl
@[simp] theorem State.modPkg_empty (s : State) (k : Nat) (f : Pkg → Pkg) : (s.modPkg k f).empty = s.empty := rfl
@[simp] theorem State.modPkg_poison (s : State) (k : Nat) (f : Pkg → Pkg) : (s.modPkg k f).poison = s.poison := rfl
@[simp] theorem State.modPkg_stash (s : State) (k : Nat) (f : Pkg → Pkg) : (s.modPkg k f).stash = s.stash := rfl
@[simp] theorem State.modPkg_stashEmpty (s : State) (k : Nat) (f : Pkg → Pkg) : (s.modPkg k f).stashEmpty = s.stashEmpty := rfl
@[simp] theorem State.modPkg_stashPoison (s : State) (k : Nat) (f : Pkg → Pkg) : (s.modPkg k f).stashPoison = s.stashPoison := rfl
@[simp] theorem State.modPkg_net (s : State) (k : Nat) (f : Pkg → Pkg) : (s.modPkg k f).net = s.net := rfl
@[simp] theorem State.modPkg_cur (s : State) (k : Nat) (f : Pkg → Pkg) : (s.modPkg k f).cur = s.cur := rfl
@[simp] theorem State.modPkg_arg (s : State) (k : Nat) (f : Pkg → Pkg) : (s.modPkg k f).arg = s.arg := rfl
@[simp] theorem State.modPkg_agenda (s : State) (k : Nat) (f : Pkg → Pkg) : (s.modPkg k f).agenda = s.agenda := rfl
@[simp] theorem State.modPkg_posted (s : State) (k : Nat) (f : Pkg → Pkg) : (s.modPkg k f).posted = s.posted := rfl
@[simp] theorem State.modPkg_opens (s : State) (k : Nat) (f : Pkg → Pkg) : (s.modPkg k f).opens = s.opens := rfl
@[simp] theorem State.modPkg_host (s : State) (k : Nat) (f : Pkg → Pkg) : (s.modPkg k f).host = s.host := rfl
@[simp] theorem State.slot_modPkg (s : State) (k j : Nat) (f : Pkg → Pkg) : (s.modPkg k f).slot j = s.slot j := rfl
@[simp] theorem State.core_modPkg (s : State) (k j : Nat) (f : Pkg → Pkg) : (s.modPkg k f).core j = s.core j := rfl
@[simp] theorem State.quad_modPkg (s : State) (k j : Nat) (f : Pkg → Pkg) : (s.modPkg k f).quad j = s.quad j := rfl
@[simp] theorem State.die_modPkg (s : State) (k j : Nat) (f : Pkg → Pkg) : (s.modPkg k f).die j = s.die j := rfl
@[simp] theorem State.pkg_modPkg_self (s : State) (k : Nat) (f : Pkg → Pkg) : (s.modPkg k f).pkg k = f (s.pkg k) := NMap.get_set_self _ _ _ _
theorem State.pkg_modPkg_ne (s : State) {k j : Nat} (f : Pkg → Pkg) (h : j ≠ k) : (s.modPkg k f).pkg j = s.pkg j := NMap.get_set_ne _ _ _ h
theorem State.pkg_modPkg (s : State) (k j : Nat) (f : Pkg → Pkg) : (s.modPkg k f).pkg j = if j = k then f (s.pkg k) else s.pkg j := NMap.get_set _ _ _ _ _
@[simp] theorem State.modPkg_modPkg (s : State) (k : Nat) (f g : Pkg → Pkg) : (s.modPkg k f).modPkg k g = s.modPkg k fun x => g (f x) := by
  simp [State.modPkg, State.pkg]

/-! ### Updates of one field -/

@[simp] theorem State.memWrite_pkgs {w : Nat} (s : State) (a n : Nat) (v : BitVec w) : (s.memWrite a n v).pkgs = s.pkgs := rfl
@[simp] theorem State.memWrite_dies {w : Nat} (s : State) (a n : Nat) (v : BitVec w) : (s.memWrite a n v).dies = s.dies := rfl
@[simp] theorem State.memWrite_quads {w : Nat} (s : State) (a n : Nat) (v : BitVec w) : (s.memWrite a n v).quads = s.quads := rfl
@[simp] theorem State.memWrite_cores {w : Nat} (s : State) (a n : Nat) (v : BitVec w) : (s.memWrite a n v).cores = s.cores := rfl
@[simp] theorem State.memWrite_slots {w : Nat} (s : State) (a n : Nat) (v : BitVec w) : (s.memWrite a n v).slots = s.slots := rfl
@[simp] theorem State.memWrite_empty {w : Nat} (s : State) (a n : Nat) (v : BitVec w) : (s.memWrite a n v).empty = s.empty := rfl
@[simp] theorem State.memWrite_poison {w : Nat} (s : State) (a n : Nat) (v : BitVec w) : (s.memWrite a n v).poison = s.poison := rfl
@[simp] theorem State.memWrite_stash {w : Nat} (s : State) (a n : Nat) (v : BitVec w) : (s.memWrite a n v).stash = s.stash := rfl
@[simp] theorem State.memWrite_stashEmpty {w : Nat} (s : State) (a n : Nat) (v : BitVec w) : (s.memWrite a n v).stashEmpty = s.stashEmpty := rfl
@[simp] theorem State.memWrite_stashPoison {w : Nat} (s : State) (a n : Nat) (v : BitVec w) : (s.memWrite a n v).stashPoison = s.stashPoison := rfl
@[simp] theorem State.memWrite_net {w : Nat} (s : State) (a n : Nat) (v : BitVec w) : (s.memWrite a n v).net = s.net := rfl
@[simp] theorem State.memWrite_cur {w : Nat} (s : State) (a n : Nat) (v : BitVec w) : (s.memWrite a n v).cur = s.cur := rfl
@[simp] theorem State.memWrite_arg {w : Nat} (s : State) (a n : Nat) (v : BitVec w) : (s.memWrite a n v).arg = s.arg := rfl
@[simp] theorem State.memWrite_agenda {w : Nat} (s : State) (a n : Nat) (v : BitVec w) : (s.memWrite a n v).agenda = s.agenda := rfl
@[simp] theorem State.memWrite_posted {w : Nat} (s : State) (a n : Nat) (v : BitVec w) : (s.memWrite a n v).posted = s.posted := rfl
@[simp] theorem State.memWrite_opens {w : Nat} (s : State) (a n : Nat) (v : BitVec w) : (s.memWrite a n v).opens = s.opens := rfl
@[simp] theorem State.memWrite_host {w : Nat} (s : State) (a n : Nat) (v : BitVec w) : (s.memWrite a n v).host = s.host := rfl
@[simp] theorem State.slot_memWrite {w : Nat} (s : State) (a n : Nat) (v : BitVec w) (j : Nat) : (s.memWrite a n v).slot j = s.slot j := rfl
@[simp] theorem State.core_memWrite {w : Nat} (s : State) (a n : Nat) (v : BitVec w) (j : Nat) : (s.memWrite a n v).core j = s.core j := rfl
@[simp] theorem State.quad_memWrite {w : Nat} (s : State) (a n : Nat) (v : BitVec w) (j : Nat) : (s.memWrite a n v).quad j = s.quad j := rfl
@[simp] theorem State.die_memWrite {w : Nat} (s : State) (a n : Nat) (v : BitVec w) (j : Nat) : (s.memWrite a n v).die j = s.die j := rfl
@[simp] theorem State.pkg_memWrite {w : Nat} (s : State) (a n : Nat) (v : BitVec w) (j : Nat) : (s.memWrite a n v).pkg j = s.pkg j := rfl

@[simp] theorem State.setFull_pkgs (s : State) (a : Nat) (b : Bool) : (s.setFull a b).pkgs = s.pkgs := rfl
@[simp] theorem State.setFull_dies (s : State) (a : Nat) (b : Bool) : (s.setFull a b).dies = s.dies := rfl
@[simp] theorem State.setFull_quads (s : State) (a : Nat) (b : Bool) : (s.setFull a b).quads = s.quads := rfl
@[simp] theorem State.setFull_cores (s : State) (a : Nat) (b : Bool) : (s.setFull a b).cores = s.cores := rfl
@[simp] theorem State.setFull_slots (s : State) (a : Nat) (b : Bool) : (s.setFull a b).slots = s.slots := rfl
@[simp] theorem State.setFull_mem (s : State) (a : Nat) (b : Bool) : (s.setFull a b).mem = s.mem := rfl
@[simp] theorem State.setFull_poison (s : State) (a : Nat) (b : Bool) : (s.setFull a b).poison = s.poison := rfl
@[simp] theorem State.setFull_stash (s : State) (a : Nat) (b : Bool) : (s.setFull a b).stash = s.stash := rfl
@[simp] theorem State.setFull_stashEmpty (s : State) (a : Nat) (b : Bool) : (s.setFull a b).stashEmpty = s.stashEmpty := rfl
@[simp] theorem State.setFull_stashPoison (s : State) (a : Nat) (b : Bool) : (s.setFull a b).stashPoison = s.stashPoison := rfl
@[simp] theorem State.setFull_net (s : State) (a : Nat) (b : Bool) : (s.setFull a b).net = s.net := rfl
@[simp] theorem State.setFull_cur (s : State) (a : Nat) (b : Bool) : (s.setFull a b).cur = s.cur := rfl
@[simp] theorem State.setFull_arg (s : State) (a : Nat) (b : Bool) : (s.setFull a b).arg = s.arg := rfl
@[simp] theorem State.setFull_agenda (s : State) (a : Nat) (b : Bool) : (s.setFull a b).agenda = s.agenda := rfl
@[simp] theorem State.setFull_posted (s : State) (a : Nat) (b : Bool) : (s.setFull a b).posted = s.posted := rfl
@[simp] theorem State.setFull_opens (s : State) (a : Nat) (b : Bool) : (s.setFull a b).opens = s.opens := rfl
@[simp] theorem State.setFull_host (s : State) (a : Nat) (b : Bool) : (s.setFull a b).host = s.host := rfl
@[simp] theorem State.slot_setFull (s : State) (a : Nat) (b : Bool) (j : Nat) : (s.setFull a b).slot j = s.slot j := rfl
@[simp] theorem State.core_setFull (s : State) (a : Nat) (b : Bool) (j : Nat) : (s.setFull a b).core j = s.core j := rfl
@[simp] theorem State.quad_setFull (s : State) (a : Nat) (b : Bool) (j : Nat) : (s.setFull a b).quad j = s.quad j := rfl
@[simp] theorem State.die_setFull (s : State) (a : Nat) (b : Bool) (j : Nat) : (s.setFull a b).die j = s.die j := rfl
@[simp] theorem State.pkg_setFull (s : State) (a : Nat) (b : Bool) (j : Nat) : (s.setFull a b).pkg j = s.pkg j := rfl

@[simp] theorem State.setPoison_pkgs (s : State) (a : Nat) (b : Bool) : (s.setPoison a b).pkgs = s.pkgs := rfl
@[simp] theorem State.setPoison_dies (s : State) (a : Nat) (b : Bool) : (s.setPoison a b).dies = s.dies := rfl
@[simp] theorem State.setPoison_quads (s : State) (a : Nat) (b : Bool) : (s.setPoison a b).quads = s.quads := rfl
@[simp] theorem State.setPoison_cores (s : State) (a : Nat) (b : Bool) : (s.setPoison a b).cores = s.cores := rfl
@[simp] theorem State.setPoison_slots (s : State) (a : Nat) (b : Bool) : (s.setPoison a b).slots = s.slots := rfl
@[simp] theorem State.setPoison_mem (s : State) (a : Nat) (b : Bool) : (s.setPoison a b).mem = s.mem := rfl
@[simp] theorem State.setPoison_empty (s : State) (a : Nat) (b : Bool) : (s.setPoison a b).empty = s.empty := rfl
@[simp] theorem State.setPoison_stash (s : State) (a : Nat) (b : Bool) : (s.setPoison a b).stash = s.stash := rfl
@[simp] theorem State.setPoison_stashEmpty (s : State) (a : Nat) (b : Bool) : (s.setPoison a b).stashEmpty = s.stashEmpty := rfl
@[simp] theorem State.setPoison_stashPoison (s : State) (a : Nat) (b : Bool) : (s.setPoison a b).stashPoison = s.stashPoison := rfl
@[simp] theorem State.setPoison_net (s : State) (a : Nat) (b : Bool) : (s.setPoison a b).net = s.net := rfl
@[simp] theorem State.setPoison_cur (s : State) (a : Nat) (b : Bool) : (s.setPoison a b).cur = s.cur := rfl
@[simp] theorem State.setPoison_arg (s : State) (a : Nat) (b : Bool) : (s.setPoison a b).arg = s.arg := rfl
@[simp] theorem State.setPoison_agenda (s : State) (a : Nat) (b : Bool) : (s.setPoison a b).agenda = s.agenda := rfl
@[simp] theorem State.setPoison_posted (s : State) (a : Nat) (b : Bool) : (s.setPoison a b).posted = s.posted := rfl
@[simp] theorem State.setPoison_opens (s : State) (a : Nat) (b : Bool) : (s.setPoison a b).opens = s.opens := rfl
@[simp] theorem State.setPoison_host (s : State) (a : Nat) (b : Bool) : (s.setPoison a b).host = s.host := rfl
@[simp] theorem State.slot_setPoison (s : State) (a : Nat) (b : Bool) (j : Nat) : (s.setPoison a b).slot j = s.slot j := rfl
@[simp] theorem State.core_setPoison (s : State) (a : Nat) (b : Bool) (j : Nat) : (s.setPoison a b).core j = s.core j := rfl
@[simp] theorem State.quad_setPoison (s : State) (a : Nat) (b : Bool) (j : Nat) : (s.setPoison a b).quad j = s.quad j := rfl
@[simp] theorem State.die_setPoison (s : State) (a : Nat) (b : Bool) (j : Nat) : (s.setPoison a b).die j = s.die j := rfl
@[simp] theorem State.pkg_setPoison (s : State) (a : Nat) (b : Bool) (j : Nat) : (s.setPoison a b).pkg j = s.pkg j := rfl

@[simp] theorem State.stashWrite_pkgs {w : Nat} (s : State) (c off n : Nat) (v : BitVec w) : (s.stashWrite c off n v).pkgs = s.pkgs := rfl
@[simp] theorem State.stashWrite_dies {w : Nat} (s : State) (c off n : Nat) (v : BitVec w) : (s.stashWrite c off n v).dies = s.dies := rfl
@[simp] theorem State.stashWrite_quads {w : Nat} (s : State) (c off n : Nat) (v : BitVec w) : (s.stashWrite c off n v).quads = s.quads := rfl
@[simp] theorem State.stashWrite_cores {w : Nat} (s : State) (c off n : Nat) (v : BitVec w) : (s.stashWrite c off n v).cores = s.cores := rfl
@[simp] theorem State.stashWrite_slots {w : Nat} (s : State) (c off n : Nat) (v : BitVec w) : (s.stashWrite c off n v).slots = s.slots := rfl
@[simp] theorem State.stashWrite_mem {w : Nat} (s : State) (c off n : Nat) (v : BitVec w) : (s.stashWrite c off n v).mem = s.mem := rfl
@[simp] theorem State.stashWrite_empty {w : Nat} (s : State) (c off n : Nat) (v : BitVec w) : (s.stashWrite c off n v).empty = s.empty := rfl
@[simp] theorem State.stashWrite_poison {w : Nat} (s : State) (c off n : Nat) (v : BitVec w) : (s.stashWrite c off n v).poison = s.poison := rfl
@[simp] theorem State.stashWrite_stashEmpty {w : Nat} (s : State) (c off n : Nat) (v : BitVec w) : (s.stashWrite c off n v).stashEmpty = s.stashEmpty := rfl
@[simp] theorem State.stashWrite_stashPoison {w : Nat} (s : State) (c off n : Nat) (v : BitVec w) : (s.stashWrite c off n v).stashPoison = s.stashPoison := rfl
@[simp] theorem State.stashWrite_net {w : Nat} (s : State) (c off n : Nat) (v : BitVec w) : (s.stashWrite c off n v).net = s.net := rfl
@[simp] theorem State.stashWrite_cur {w : Nat} (s : State) (c off n : Nat) (v : BitVec w) : (s.stashWrite c off n v).cur = s.cur := rfl
@[simp] theorem State.stashWrite_arg {w : Nat} (s : State) (c off n : Nat) (v : BitVec w) : (s.stashWrite c off n v).arg = s.arg := rfl
@[simp] theorem State.stashWrite_agenda {w : Nat} (s : State) (c off n : Nat) (v : BitVec w) : (s.stashWrite c off n v).agenda = s.agenda := rfl
@[simp] theorem State.stashWrite_posted {w : Nat} (s : State) (c off n : Nat) (v : BitVec w) : (s.stashWrite c off n v).posted = s.posted := rfl
@[simp] theorem State.stashWrite_opens {w : Nat} (s : State) (c off n : Nat) (v : BitVec w) : (s.stashWrite c off n v).opens = s.opens := rfl
@[simp] theorem State.stashWrite_host {w : Nat} (s : State) (c off n : Nat) (v : BitVec w) : (s.stashWrite c off n v).host = s.host := rfl
@[simp] theorem State.slot_stashWrite {w : Nat} (s : State) (c off n : Nat) (v : BitVec w) (j : Nat) : (s.stashWrite c off n v).slot j = s.slot j := rfl
@[simp] theorem State.core_stashWrite {w : Nat} (s : State) (c off n : Nat) (v : BitVec w) (j : Nat) : (s.stashWrite c off n v).core j = s.core j := rfl
@[simp] theorem State.quad_stashWrite {w : Nat} (s : State) (c off n : Nat) (v : BitVec w) (j : Nat) : (s.stashWrite c off n v).quad j = s.quad j := rfl
@[simp] theorem State.die_stashWrite {w : Nat} (s : State) (c off n : Nat) (v : BitVec w) (j : Nat) : (s.stashWrite c off n v).die j = s.die j := rfl
@[simp] theorem State.pkg_stashWrite {w : Nat} (s : State) (c off n : Nat) (v : BitVec w) (j : Nat) : (s.stashWrite c off n v).pkg j = s.pkg j := rfl

@[simp] theorem State.setStashFull_pkgs (s : State) (c off : Nat) (b : Bool) : (s.setStashFull c off b).pkgs = s.pkgs := rfl
@[simp] theorem State.setStashFull_dies (s : State) (c off : Nat) (b : Bool) : (s.setStashFull c off b).dies = s.dies := rfl
@[simp] theorem State.setStashFull_quads (s : State) (c off : Nat) (b : Bool) : (s.setStashFull c off b).quads = s.quads := rfl
@[simp] theorem State.setStashFull_cores (s : State) (c off : Nat) (b : Bool) : (s.setStashFull c off b).cores = s.cores := rfl
@[simp] theorem State.setStashFull_slots (s : State) (c off : Nat) (b : Bool) : (s.setStashFull c off b).slots = s.slots := rfl
@[simp] theorem State.setStashFull_mem (s : State) (c off : Nat) (b : Bool) : (s.setStashFull c off b).mem = s.mem := rfl
@[simp] theorem State.setStashFull_empty (s : State) (c off : Nat) (b : Bool) : (s.setStashFull c off b).empty = s.empty := rfl
@[simp] theorem State.setStashFull_poison (s : State) (c off : Nat) (b : Bool) : (s.setStashFull c off b).poison = s.poison := rfl
@[simp] theorem State.setStashFull_stash (s : State) (c off : Nat) (b : Bool) : (s.setStashFull c off b).stash = s.stash := rfl
@[simp] theorem State.setStashFull_stashPoison (s : State) (c off : Nat) (b : Bool) : (s.setStashFull c off b).stashPoison = s.stashPoison := rfl
@[simp] theorem State.setStashFull_net (s : State) (c off : Nat) (b : Bool) : (s.setStashFull c off b).net = s.net := rfl
@[simp] theorem State.setStashFull_cur (s : State) (c off : Nat) (b : Bool) : (s.setStashFull c off b).cur = s.cur := rfl
@[simp] theorem State.setStashFull_arg (s : State) (c off : Nat) (b : Bool) : (s.setStashFull c off b).arg = s.arg := rfl
@[simp] theorem State.setStashFull_agenda (s : State) (c off : Nat) (b : Bool) : (s.setStashFull c off b).agenda = s.agenda := rfl
@[simp] theorem State.setStashFull_posted (s : State) (c off : Nat) (b : Bool) : (s.setStashFull c off b).posted = s.posted := rfl
@[simp] theorem State.setStashFull_opens (s : State) (c off : Nat) (b : Bool) : (s.setStashFull c off b).opens = s.opens := rfl
@[simp] theorem State.setStashFull_host (s : State) (c off : Nat) (b : Bool) : (s.setStashFull c off b).host = s.host := rfl
@[simp] theorem State.slot_setStashFull (s : State) (c off : Nat) (b : Bool) (j : Nat) : (s.setStashFull c off b).slot j = s.slot j := rfl
@[simp] theorem State.core_setStashFull (s : State) (c off : Nat) (b : Bool) (j : Nat) : (s.setStashFull c off b).core j = s.core j := rfl
@[simp] theorem State.quad_setStashFull (s : State) (c off : Nat) (b : Bool) (j : Nat) : (s.setStashFull c off b).quad j = s.quad j := rfl
@[simp] theorem State.die_setStashFull (s : State) (c off : Nat) (b : Bool) (j : Nat) : (s.setStashFull c off b).die j = s.die j := rfl
@[simp] theorem State.pkg_setStashFull (s : State) (c off : Nat) (b : Bool) (j : Nat) : (s.setStashFull c off b).pkg j = s.pkg j := rfl

@[simp] theorem State.setStashPoison_pkgs (s : State) (c off : Nat) (b : Bool) : (s.setStashPoison c off b).pkgs = s.pkgs := rfl
@[simp] theorem State.setStashPoison_dies (s : State) (c off : Nat) (b : Bool) : (s.setStashPoison c off b).dies = s.dies := rfl
@[simp] theorem State.setStashPoison_quads (s : State) (c off : Nat) (b : Bool) : (s.setStashPoison c off b).quads = s.quads := rfl
@[simp] theorem State.setStashPoison_cores (s : State) (c off : Nat) (b : Bool) : (s.setStashPoison c off b).cores = s.cores := rfl
@[simp] theorem State.setStashPoison_slots (s : State) (c off : Nat) (b : Bool) : (s.setStashPoison c off b).slots = s.slots := rfl
@[simp] theorem State.setStashPoison_mem (s : State) (c off : Nat) (b : Bool) : (s.setStashPoison c off b).mem = s.mem := rfl
@[simp] theorem State.setStashPoison_empty (s : State) (c off : Nat) (b : Bool) : (s.setStashPoison c off b).empty = s.empty := rfl
@[simp] theorem State.setStashPoison_poison (s : State) (c off : Nat) (b : Bool) : (s.setStashPoison c off b).poison = s.poison := rfl
@[simp] theorem State.setStashPoison_stash (s : State) (c off : Nat) (b : Bool) : (s.setStashPoison c off b).stash = s.stash := rfl
@[simp] theorem State.setStashPoison_stashEmpty (s : State) (c off : Nat) (b : Bool) : (s.setStashPoison c off b).stashEmpty = s.stashEmpty := rfl
@[simp] theorem State.setStashPoison_net (s : State) (c off : Nat) (b : Bool) : (s.setStashPoison c off b).net = s.net := rfl
@[simp] theorem State.setStashPoison_cur (s : State) (c off : Nat) (b : Bool) : (s.setStashPoison c off b).cur = s.cur := rfl
@[simp] theorem State.setStashPoison_arg (s : State) (c off : Nat) (b : Bool) : (s.setStashPoison c off b).arg = s.arg := rfl
@[simp] theorem State.setStashPoison_agenda (s : State) (c off : Nat) (b : Bool) : (s.setStashPoison c off b).agenda = s.agenda := rfl
@[simp] theorem State.setStashPoison_posted (s : State) (c off : Nat) (b : Bool) : (s.setStashPoison c off b).posted = s.posted := rfl
@[simp] theorem State.setStashPoison_opens (s : State) (c off : Nat) (b : Bool) : (s.setStashPoison c off b).opens = s.opens := rfl
@[simp] theorem State.setStashPoison_host (s : State) (c off : Nat) (b : Bool) : (s.setStashPoison c off b).host = s.host := rfl
@[simp] theorem State.slot_setStashPoison (s : State) (c off : Nat) (b : Bool) (j : Nat) : (s.setStashPoison c off b).slot j = s.slot j := rfl
@[simp] theorem State.core_setStashPoison (s : State) (c off : Nat) (b : Bool) (j : Nat) : (s.setStashPoison c off b).core j = s.core j := rfl
@[simp] theorem State.quad_setStashPoison (s : State) (c off : Nat) (b : Bool) (j : Nat) : (s.setStashPoison c off b).quad j = s.quad j := rfl
@[simp] theorem State.die_setStashPoison (s : State) (c off : Nat) (b : Bool) (j : Nat) : (s.setStashPoison c off b).die j = s.die j := rfl
@[simp] theorem State.pkg_setStashPoison (s : State) (c off : Nat) (b : Bool) (j : Nat) : (s.setStashPoison c off b).pkg j = s.pkg j := rfl

@[simp] theorem State.dropStashPoison_pkgs (s : State) (c a b : Nat) : (s.dropStashPoison c a b).pkgs = s.pkgs := rfl
@[simp] theorem State.dropStashPoison_dies (s : State) (c a b : Nat) : (s.dropStashPoison c a b).dies = s.dies := rfl
@[simp] theorem State.dropStashPoison_quads (s : State) (c a b : Nat) : (s.dropStashPoison c a b).quads = s.quads := rfl
@[simp] theorem State.dropStashPoison_cores (s : State) (c a b : Nat) : (s.dropStashPoison c a b).cores = s.cores := rfl
@[simp] theorem State.dropStashPoison_slots (s : State) (c a b : Nat) : (s.dropStashPoison c a b).slots = s.slots := rfl
@[simp] theorem State.dropStashPoison_mem (s : State) (c a b : Nat) : (s.dropStashPoison c a b).mem = s.mem := rfl
@[simp] theorem State.dropStashPoison_empty (s : State) (c a b : Nat) : (s.dropStashPoison c a b).empty = s.empty := rfl
@[simp] theorem State.dropStashPoison_poison (s : State) (c a b : Nat) : (s.dropStashPoison c a b).poison = s.poison := rfl
@[simp] theorem State.dropStashPoison_stash (s : State) (c a b : Nat) : (s.dropStashPoison c a b).stash = s.stash := rfl
@[simp] theorem State.dropStashPoison_stashEmpty (s : State) (c a b : Nat) : (s.dropStashPoison c a b).stashEmpty = s.stashEmpty := rfl
@[simp] theorem State.dropStashPoison_net (s : State) (c a b : Nat) : (s.dropStashPoison c a b).net = s.net := rfl
@[simp] theorem State.dropStashPoison_cur (s : State) (c a b : Nat) : (s.dropStashPoison c a b).cur = s.cur := rfl
@[simp] theorem State.dropStashPoison_arg (s : State) (c a b : Nat) : (s.dropStashPoison c a b).arg = s.arg := rfl
@[simp] theorem State.dropStashPoison_agenda (s : State) (c a b : Nat) : (s.dropStashPoison c a b).agenda = s.agenda := rfl
@[simp] theorem State.dropStashPoison_posted (s : State) (c a b : Nat) : (s.dropStashPoison c a b).posted = s.posted := rfl
@[simp] theorem State.dropStashPoison_opens (s : State) (c a b : Nat) : (s.dropStashPoison c a b).opens = s.opens := rfl
@[simp] theorem State.dropStashPoison_host (s : State) (c a b : Nat) : (s.dropStashPoison c a b).host = s.host := rfl
@[simp] theorem State.slot_dropStashPoison (s : State) (c a b : Nat) (j : Nat) : (s.dropStashPoison c a b).slot j = s.slot j := rfl
@[simp] theorem State.core_dropStashPoison (s : State) (c a b : Nat) (j : Nat) : (s.dropStashPoison c a b).core j = s.core j := rfl
@[simp] theorem State.quad_dropStashPoison (s : State) (c a b : Nat) (j : Nat) : (s.dropStashPoison c a b).quad j = s.quad j := rfl
@[simp] theorem State.die_dropStashPoison (s : State) (c a b : Nat) (j : Nat) : (s.dropStashPoison c a b).die j = s.die j := rfl
@[simp] theorem State.pkg_dropStashPoison (s : State) (c a b : Nat) (j : Nat) : (s.dropStashPoison c a b).pkg j = s.pkg j := rfl

@[simp] theorem State.useOpen_pkgs (s : State) : (s.useOpen).pkgs = s.pkgs := rfl
@[simp] theorem State.useOpen_dies (s : State) : (s.useOpen).dies = s.dies := rfl
@[simp] theorem State.useOpen_quads (s : State) : (s.useOpen).quads = s.quads := rfl
@[simp] theorem State.useOpen_cores (s : State) : (s.useOpen).cores = s.cores := rfl
@[simp] theorem State.useOpen_slots (s : State) : (s.useOpen).slots = s.slots := rfl
@[simp] theorem State.useOpen_mem (s : State) : (s.useOpen).mem = s.mem := rfl
@[simp] theorem State.useOpen_empty (s : State) : (s.useOpen).empty = s.empty := rfl
@[simp] theorem State.useOpen_poison (s : State) : (s.useOpen).poison = s.poison := rfl
@[simp] theorem State.useOpen_stash (s : State) : (s.useOpen).stash = s.stash := rfl
@[simp] theorem State.useOpen_stashEmpty (s : State) : (s.useOpen).stashEmpty = s.stashEmpty := rfl
@[simp] theorem State.useOpen_stashPoison (s : State) : (s.useOpen).stashPoison = s.stashPoison := rfl
@[simp] theorem State.useOpen_net (s : State) : (s.useOpen).net = s.net := rfl
@[simp] theorem State.useOpen_cur (s : State) : (s.useOpen).cur = s.cur := rfl
@[simp] theorem State.useOpen_arg (s : State) : (s.useOpen).arg = s.arg := rfl
@[simp] theorem State.useOpen_agenda (s : State) : (s.useOpen).agenda = s.agenda := rfl
@[simp] theorem State.useOpen_posted (s : State) : (s.useOpen).posted = s.posted := rfl
@[simp] theorem State.useOpen_host (s : State) : (s.useOpen).host = s.host := rfl
@[simp] theorem State.slot_useOpen (s : State) (j : Nat) : (s.useOpen).slot j = s.slot j := rfl
@[simp] theorem State.core_useOpen (s : State) (j : Nat) : (s.useOpen).core j = s.core j := rfl
@[simp] theorem State.quad_useOpen (s : State) (j : Nat) : (s.useOpen).quad j = s.quad j := rfl
@[simp] theorem State.die_useOpen (s : State) (j : Nat) : (s.useOpen).die j = s.die j := rfl
@[simp] theorem State.pkg_useOpen (s : State) (j : Nat) : (s.useOpen).pkg j = s.pkg j := rfl

/-! ### A thread changed in one of its parts -/

@[simp] theorem Slot.advance_was (t : Slot) (n : Nat) : (t.advance n).was = t.was := rfl
@[simp] theorem Slot.advance_phys (t : Slot) (n : Nat) : (t.advance n).phys = t.phys := rfl
@[simp] theorem Slot.advance_links (t : Slot) (n : Nat) : (t.advance n).links = t.links := rfl
@[simp] theorem Slot.advance_wdepth (t : Slot) (n : Nat) : (t.advance n).wdepth = t.wdepth := rfl
@[simp] theorem Slot.advance_resident (t : Slot) (n : Nat) : (t.advance n).resident = t.resident := rfl
@[simp] theorem Slot.advance_vregs (t : Slot) (n : Nat) : (t.advance n).vregs = t.vregs := rfl
@[simp] theorem Slot.advance_kregs (t : Slot) (n : Nat) : (t.advance n).kregs = t.kregs := rfl
@[simp] theorem Slot.advance_flags (t : Slot) (n : Nat) : (t.advance n).flags = t.flags := rfl
@[simp] theorem Slot.advance_fcr (t : Slot) (n : Nat) : (t.advance n).fcr = t.fcr := rfl
@[simp] theorem Slot.advance_fsf (t : Slot) (n : Nat) : (t.advance n).fsf = t.fsf := rfl
@[simp] theorem Slot.advance_wto (t : Slot) (n : Nat) : (t.advance n).wto = t.wto := rfl
@[simp] theorem Slot.advance_ssp (t : Slot) (n : Nat) : (t.advance n).ssp = t.ssp := rfl
@[simp] theorem Slot.advance_streams (t : Slot) (n : Nat) : (t.advance n).streams = t.streams := rfl
@[simp] theorem Slot.advance_pendW (t : Slot) (n : Nat) : (t.advance n).pendW = t.pendW := rfl
@[simp] theorem Slot.advance_pendV (t : Slot) (n : Nat) : (t.advance n).pendV = t.pendV := rfl
@[simp] theorem Slot.advance_pendF (t : Slot) (n : Nat) : (t.advance n).pendF = t.pendF := rfl
@[simp] theorem Slot.advance_ops (t : Slot) (n : Nat) : (t.advance n).ops = t.ops := rfl
@[simp] theorem Slot.advance_opId (t : Slot) (n : Nat) : (t.advance n).opId = t.opId := rfl
@[simp] theorem Slot.advance_replies (t : Slot) (n : Nat) : (t.advance n).replies = t.replies := rfl
@[simp] theorem Slot.advance_droop (t : Slot) (n : Nat) : (t.advance n).droop = t.droop := rfl
@[simp] theorem Slot.advance_waits (t : Slot) (n : Nat) : (t.advance n).waits = t.waits := rfl
@[simp] theorem Slot.advance_latch (t : Slot) (n : Nat) : (t.advance n).latch = t.latch := rfl
@[simp] theorem Slot.advance_skip (t : Slot) (n : Nat) : (t.advance n).skip = t.skip := rfl
@[simp] theorem Slot.advance_job (t : Slot) (n : Nat) : (t.advance n).job = t.job := rfl
@[simp] theorem Slot.advance_par (t : Slot) (n : Nat) : (t.advance n).par = t.par := rfl
@[simp] theorem Slot.advance_ckpt (t : Slot) (n : Nat) : (t.advance n).ckpt = t.ckpt := rfl
@[simp] theorem Slot.advance_ctRefused (t : Slot) (n : Nat) : (t.advance n).ctRefused = t.ctRefused := rfl
@[simp] theorem Slot.advance_mismatched (t : Slot) (n : Nat) : (t.advance n).mismatched = t.mismatched := rfl
@[simp] theorem Slot.advance_jsel (t : Slot) (n : Nat) : (t.advance n).jsel = t.jsel := rfl
@[simp] theorem Slot.advance_ptsel (t : Slot) (n : Nat) : (t.advance n).ptsel = t.ptsel := rfl
@[simp] theorem Slot.advance_trapNext (t : Slot) (n : Nat) : (t.advance n).trapNext = t.trapNext := rfl
@[simp] theorem Slot.advance_frame (t : Slot) (n : Nat) : (t.advance n).frame = t.frame := rfl

@[simp] theorem Slot.setW_st (t : Slot) (i : Nat) (v : Word) : (t.setW i v).st = t.st := rfl
@[simp] theorem Slot.setW_was (t : Slot) (i : Nat) (v : Word) : (t.setW i v).was = t.was := rfl
@[simp] theorem Slot.setW_hold (t : Slot) (i : Nat) (v : Word) : (t.setW i v).hold = t.hold := rfl
@[simp] theorem Slot.setW_pc (t : Slot) (i : Nat) (v : Word) : (t.setW i v).pc = t.pc := rfl
@[simp] theorem Slot.setW_links (t : Slot) (i : Nat) (v : Word) : (t.setW i v).links = t.links := rfl
@[simp] theorem Slot.setW_wdepth (t : Slot) (i : Nat) (v : Word) : (t.setW i v).wdepth = t.wdepth := rfl
@[simp] theorem Slot.setW_resident (t : Slot) (i : Nat) (v : Word) : (t.setW i v).resident = t.resident := rfl
@[simp] theorem Slot.setW_vregs (t : Slot) (i : Nat) (v : Word) : (t.setW i v).vregs = t.vregs := rfl
@[simp] theorem Slot.setW_kregs (t : Slot) (i : Nat) (v : Word) : (t.setW i v).kregs = t.kregs := rfl
@[simp] theorem Slot.setW_flags (t : Slot) (i : Nat) (v : Word) : (t.setW i v).flags = t.flags := rfl
@[simp] theorem Slot.setW_fcr (t : Slot) (i : Nat) (v : Word) : (t.setW i v).fcr = t.fcr := rfl
@[simp] theorem Slot.setW_fsf (t : Slot) (i : Nat) (v : Word) : (t.setW i v).fsf = t.fsf := rfl
@[simp] theorem Slot.setW_wto (t : Slot) (i : Nat) (v : Word) : (t.setW i v).wto = t.wto := rfl
@[simp] theorem Slot.setW_ssp (t : Slot) (i : Nat) (v : Word) : (t.setW i v).ssp = t.ssp := rfl
@[simp] theorem Slot.setW_loops (t : Slot) (i : Nat) (v : Word) : (t.setW i v).loops = t.loops := rfl
@[simp] theorem Slot.setW_streams (t : Slot) (i : Nat) (v : Word) : (t.setW i v).streams = t.streams := rfl
@[simp] theorem Slot.setW_pendW (t : Slot) (i : Nat) (v : Word) : (t.setW i v).pendW = t.pendW := rfl
@[simp] theorem Slot.setW_pendV (t : Slot) (i : Nat) (v : Word) : (t.setW i v).pendV = t.pendV := rfl
@[simp] theorem Slot.setW_pendF (t : Slot) (i : Nat) (v : Word) : (t.setW i v).pendF = t.pendF := rfl
@[simp] theorem Slot.setW_ops (t : Slot) (i : Nat) (v : Word) : (t.setW i v).ops = t.ops := rfl
@[simp] theorem Slot.setW_opId (t : Slot) (i : Nat) (v : Word) : (t.setW i v).opId = t.opId := rfl
@[simp] theorem Slot.setW_replies (t : Slot) (i : Nat) (v : Word) : (t.setW i v).replies = t.replies := rfl
@[simp] theorem Slot.setW_waited (t : Slot) (i : Nat) (v : Word) : (t.setW i v).waited = t.waited := rfl
@[simp] theorem Slot.setW_droop (t : Slot) (i : Nat) (v : Word) : (t.setW i v).droop = t.droop := rfl
@[simp] theorem Slot.setW_issued (t : Slot) (i : Nat) (v : Word) : (t.setW i v).issued = t.issued := rfl
@[simp] theorem Slot.setW_waits (t : Slot) (i : Nat) (v : Word) : (t.setW i v).waits = t.waits := rfl
@[simp] theorem Slot.setW_latch (t : Slot) (i : Nat) (v : Word) : (t.setW i v).latch = t.latch := rfl
@[simp] theorem Slot.setW_skip (t : Slot) (i : Nat) (v : Word) : (t.setW i v).skip = t.skip := rfl
@[simp] theorem Slot.setW_job (t : Slot) (i : Nat) (v : Word) : (t.setW i v).job = t.job := rfl
@[simp] theorem Slot.setW_par (t : Slot) (i : Nat) (v : Word) : (t.setW i v).par = t.par := rfl
@[simp] theorem Slot.setW_ckpt (t : Slot) (i : Nat) (v : Word) : (t.setW i v).ckpt = t.ckpt := rfl
@[simp] theorem Slot.setW_ctRefused (t : Slot) (i : Nat) (v : Word) : (t.setW i v).ctRefused = t.ctRefused := rfl
@[simp] theorem Slot.setW_mismatched (t : Slot) (i : Nat) (v : Word) : (t.setW i v).mismatched = t.mismatched := rfl
@[simp] theorem Slot.setW_jsel (t : Slot) (i : Nat) (v : Word) : (t.setW i v).jsel = t.jsel := rfl
@[simp] theorem Slot.setW_ptsel (t : Slot) (i : Nat) (v : Word) : (t.setW i v).ptsel = t.ptsel := rfl
@[simp] theorem Slot.setW_trapNext (t : Slot) (i : Nat) (v : Word) : (t.setW i v).trapNext = t.trapNext := rfl
@[simp] theorem Slot.setW_frame (t : Slot) (i : Nat) (v : Word) : (t.setW i v).frame = t.frame := rfl

@[simp] theorem Slot.setV_st (t : Slot) (i : Nat) (x : Vec) : (t.setV i x).st = t.st := rfl
@[simp] theorem Slot.setV_was (t : Slot) (i : Nat) (x : Vec) : (t.setV i x).was = t.was := rfl
@[simp] theorem Slot.setV_hold (t : Slot) (i : Nat) (x : Vec) : (t.setV i x).hold = t.hold := rfl
@[simp] theorem Slot.setV_pc (t : Slot) (i : Nat) (x : Vec) : (t.setV i x).pc = t.pc := rfl
@[simp] theorem Slot.setV_phys (t : Slot) (i : Nat) (x : Vec) : (t.setV i x).phys = t.phys := rfl
@[simp] theorem Slot.setV_links (t : Slot) (i : Nat) (x : Vec) : (t.setV i x).links = t.links := rfl
@[simp] theorem Slot.setV_wdepth (t : Slot) (i : Nat) (x : Vec) : (t.setV i x).wdepth = t.wdepth := rfl
@[simp] theorem Slot.setV_resident (t : Slot) (i : Nat) (x : Vec) : (t.setV i x).resident = t.resident := rfl
@[simp] theorem Slot.setV_kregs (t : Slot) (i : Nat) (x : Vec) : (t.setV i x).kregs = t.kregs := rfl
@[simp] theorem Slot.setV_flags (t : Slot) (i : Nat) (x : Vec) : (t.setV i x).flags = t.flags := rfl
@[simp] theorem Slot.setV_fcr (t : Slot) (i : Nat) (x : Vec) : (t.setV i x).fcr = t.fcr := rfl
@[simp] theorem Slot.setV_fsf (t : Slot) (i : Nat) (x : Vec) : (t.setV i x).fsf = t.fsf := rfl
@[simp] theorem Slot.setV_wto (t : Slot) (i : Nat) (x : Vec) : (t.setV i x).wto = t.wto := rfl
@[simp] theorem Slot.setV_ssp (t : Slot) (i : Nat) (x : Vec) : (t.setV i x).ssp = t.ssp := rfl
@[simp] theorem Slot.setV_loops (t : Slot) (i : Nat) (x : Vec) : (t.setV i x).loops = t.loops := rfl
@[simp] theorem Slot.setV_streams (t : Slot) (i : Nat) (x : Vec) : (t.setV i x).streams = t.streams := rfl
@[simp] theorem Slot.setV_pendW (t : Slot) (i : Nat) (x : Vec) : (t.setV i x).pendW = t.pendW := rfl
@[simp] theorem Slot.setV_pendV (t : Slot) (i : Nat) (x : Vec) : (t.setV i x).pendV = t.pendV := rfl
@[simp] theorem Slot.setV_pendF (t : Slot) (i : Nat) (x : Vec) : (t.setV i x).pendF = t.pendF := rfl
@[simp] theorem Slot.setV_ops (t : Slot) (i : Nat) (x : Vec) : (t.setV i x).ops = t.ops := rfl
@[simp] theorem Slot.setV_opId (t : Slot) (i : Nat) (x : Vec) : (t.setV i x).opId = t.opId := rfl
@[simp] theorem Slot.setV_replies (t : Slot) (i : Nat) (x : Vec) : (t.setV i x).replies = t.replies := rfl
@[simp] theorem Slot.setV_waited (t : Slot) (i : Nat) (x : Vec) : (t.setV i x).waited = t.waited := rfl
@[simp] theorem Slot.setV_droop (t : Slot) (i : Nat) (x : Vec) : (t.setV i x).droop = t.droop := rfl
@[simp] theorem Slot.setV_issued (t : Slot) (i : Nat) (x : Vec) : (t.setV i x).issued = t.issued := rfl
@[simp] theorem Slot.setV_waits (t : Slot) (i : Nat) (x : Vec) : (t.setV i x).waits = t.waits := rfl
@[simp] theorem Slot.setV_latch (t : Slot) (i : Nat) (x : Vec) : (t.setV i x).latch = t.latch := rfl
@[simp] theorem Slot.setV_skip (t : Slot) (i : Nat) (x : Vec) : (t.setV i x).skip = t.skip := rfl
@[simp] theorem Slot.setV_job (t : Slot) (i : Nat) (x : Vec) : (t.setV i x).job = t.job := rfl
@[simp] theorem Slot.setV_par (t : Slot) (i : Nat) (x : Vec) : (t.setV i x).par = t.par := rfl
@[simp] theorem Slot.setV_ckpt (t : Slot) (i : Nat) (x : Vec) : (t.setV i x).ckpt = t.ckpt := rfl
@[simp] theorem Slot.setV_ctRefused (t : Slot) (i : Nat) (x : Vec) : (t.setV i x).ctRefused = t.ctRefused := rfl
@[simp] theorem Slot.setV_mismatched (t : Slot) (i : Nat) (x : Vec) : (t.setV i x).mismatched = t.mismatched := rfl
@[simp] theorem Slot.setV_jsel (t : Slot) (i : Nat) (x : Vec) : (t.setV i x).jsel = t.jsel := rfl
@[simp] theorem Slot.setV_ptsel (t : Slot) (i : Nat) (x : Vec) : (t.setV i x).ptsel = t.ptsel := rfl
@[simp] theorem Slot.setV_trapNext (t : Slot) (i : Nat) (x : Vec) : (t.setV i x).trapNext = t.trapNext := rfl
@[simp] theorem Slot.setV_frame (t : Slot) (i : Nat) (x : Vec) : (t.setV i x).frame = t.frame := rfl

@[simp] theorem Slot.setF_st (t : Slot) (i : BitVec 3) (b : Bool) : (t.setF i b).st = t.st := rfl
@[simp] theorem Slot.setF_was (t : Slot) (i : BitVec 3) (b : Bool) : (t.setF i b).was = t.was := rfl
@[simp] theorem Slot.setF_hold (t : Slot) (i : BitVec 3) (b : Bool) : (t.setF i b).hold = t.hold := rfl
@[simp] theorem Slot.setF_pc (t : Slot) (i : BitVec 3) (b : Bool) : (t.setF i b).pc = t.pc := rfl
@[simp] theorem Slot.setF_phys (t : Slot) (i : BitVec 3) (b : Bool) : (t.setF i b).phys = t.phys := rfl
@[simp] theorem Slot.setF_links (t : Slot) (i : BitVec 3) (b : Bool) : (t.setF i b).links = t.links := rfl
@[simp] theorem Slot.setF_wdepth (t : Slot) (i : BitVec 3) (b : Bool) : (t.setF i b).wdepth = t.wdepth := rfl
@[simp] theorem Slot.setF_resident (t : Slot) (i : BitVec 3) (b : Bool) : (t.setF i b).resident = t.resident := rfl
@[simp] theorem Slot.setF_vregs (t : Slot) (i : BitVec 3) (b : Bool) : (t.setF i b).vregs = t.vregs := rfl
@[simp] theorem Slot.setF_kregs (t : Slot) (i : BitVec 3) (b : Bool) : (t.setF i b).kregs = t.kregs := rfl
@[simp] theorem Slot.setF_fcr (t : Slot) (i : BitVec 3) (b : Bool) : (t.setF i b).fcr = t.fcr := rfl
@[simp] theorem Slot.setF_fsf (t : Slot) (i : BitVec 3) (b : Bool) : (t.setF i b).fsf = t.fsf := rfl
@[simp] theorem Slot.setF_wto (t : Slot) (i : BitVec 3) (b : Bool) : (t.setF i b).wto = t.wto := rfl
@[simp] theorem Slot.setF_ssp (t : Slot) (i : BitVec 3) (b : Bool) : (t.setF i b).ssp = t.ssp := rfl
@[simp] theorem Slot.setF_loops (t : Slot) (i : BitVec 3) (b : Bool) : (t.setF i b).loops = t.loops := rfl
@[simp] theorem Slot.setF_streams (t : Slot) (i : BitVec 3) (b : Bool) : (t.setF i b).streams = t.streams := rfl
@[simp] theorem Slot.setF_pendW (t : Slot) (i : BitVec 3) (b : Bool) : (t.setF i b).pendW = t.pendW := rfl
@[simp] theorem Slot.setF_pendV (t : Slot) (i : BitVec 3) (b : Bool) : (t.setF i b).pendV = t.pendV := rfl
@[simp] theorem Slot.setF_pendF (t : Slot) (i : BitVec 3) (b : Bool) : (t.setF i b).pendF = t.pendF := rfl
@[simp] theorem Slot.setF_ops (t : Slot) (i : BitVec 3) (b : Bool) : (t.setF i b).ops = t.ops := rfl
@[simp] theorem Slot.setF_opId (t : Slot) (i : BitVec 3) (b : Bool) : (t.setF i b).opId = t.opId := rfl
@[simp] theorem Slot.setF_replies (t : Slot) (i : BitVec 3) (b : Bool) : (t.setF i b).replies = t.replies := rfl
@[simp] theorem Slot.setF_waited (t : Slot) (i : BitVec 3) (b : Bool) : (t.setF i b).waited = t.waited := rfl
@[simp] theorem Slot.setF_droop (t : Slot) (i : BitVec 3) (b : Bool) : (t.setF i b).droop = t.droop := rfl
@[simp] theorem Slot.setF_issued (t : Slot) (i : BitVec 3) (b : Bool) : (t.setF i b).issued = t.issued := rfl
@[simp] theorem Slot.setF_waits (t : Slot) (i : BitVec 3) (b : Bool) : (t.setF i b).waits = t.waits := rfl
@[simp] theorem Slot.setF_latch (t : Slot) (i : BitVec 3) (b : Bool) : (t.setF i b).latch = t.latch := rfl
@[simp] theorem Slot.setF_skip (t : Slot) (i : BitVec 3) (b : Bool) : (t.setF i b).skip = t.skip := rfl
@[simp] theorem Slot.setF_job (t : Slot) (i : BitVec 3) (b : Bool) : (t.setF i b).job = t.job := rfl
@[simp] theorem Slot.setF_par (t : Slot) (i : BitVec 3) (b : Bool) : (t.setF i b).par = t.par := rfl
@[simp] theorem Slot.setF_ckpt (t : Slot) (i : BitVec 3) (b : Bool) : (t.setF i b).ckpt = t.ckpt := rfl
@[simp] theorem Slot.setF_ctRefused (t : Slot) (i : BitVec 3) (b : Bool) : (t.setF i b).ctRefused = t.ctRefused := rfl
@[simp] theorem Slot.setF_mismatched (t : Slot) (i : BitVec 3) (b : Bool) : (t.setF i b).mismatched = t.mismatched := rfl
@[simp] theorem Slot.setF_jsel (t : Slot) (i : BitVec 3) (b : Bool) : (t.setF i b).jsel = t.jsel := rfl
@[simp] theorem Slot.setF_ptsel (t : Slot) (i : BitVec 3) (b : Bool) : (t.setF i b).ptsel = t.ptsel := rfl
@[simp] theorem Slot.setF_trapNext (t : Slot) (i : BitVec 3) (b : Bool) : (t.setF i b).trapNext = t.trapNext := rfl
@[simp] theorem Slot.setF_frame (t : Slot) (i : BitVec 3) (b : Bool) : (t.setF i b).frame = t.frame := rfl

@[simp] theorem Slot.dropOp_st (t : Slot) (id : Nat) : (t.dropOp id).st = t.st := rfl
@[simp] theorem Slot.dropOp_was (t : Slot) (id : Nat) : (t.dropOp id).was = t.was := rfl
@[simp] theorem Slot.dropOp_hold (t : Slot) (id : Nat) : (t.dropOp id).hold = t.hold := rfl
@[simp] theorem Slot.dropOp_pc (t : Slot) (id : Nat) : (t.dropOp id).pc = t.pc := rfl
@[simp] theorem Slot.dropOp_phys (t : Slot) (id : Nat) : (t.dropOp id).phys = t.phys := rfl
@[simp] theorem Slot.dropOp_links (t : Slot) (id : Nat) : (t.dropOp id).links = t.links := rfl
@[simp] theorem Slot.dropOp_wdepth (t : Slot) (id : Nat) : (t.dropOp id).wdepth = t.wdepth := rfl
@[simp] theorem Slot.dropOp_resident (t : Slot) (id : Nat) : (t.dropOp id).resident = t.resident := rfl
@[simp] theorem Slot.dropOp_vregs (t : Slot) (id : Nat) : (t.dropOp id).vregs = t.vregs := rfl
@[simp] theorem Slot.dropOp_kregs (t : Slot) (id : Nat) : (t.dropOp id).kregs = t.kregs := rfl
@[simp] theorem Slot.dropOp_flags (t : Slot) (id : Nat) : (t.dropOp id).flags = t.flags := rfl
@[simp] theorem Slot.dropOp_fcr (t : Slot) (id : Nat) : (t.dropOp id).fcr = t.fcr := rfl
@[simp] theorem Slot.dropOp_fsf (t : Slot) (id : Nat) : (t.dropOp id).fsf = t.fsf := rfl
@[simp] theorem Slot.dropOp_wto (t : Slot) (id : Nat) : (t.dropOp id).wto = t.wto := rfl
@[simp] theorem Slot.dropOp_ssp (t : Slot) (id : Nat) : (t.dropOp id).ssp = t.ssp := rfl
@[simp] theorem Slot.dropOp_loops (t : Slot) (id : Nat) : (t.dropOp id).loops = t.loops := rfl
@[simp] theorem Slot.dropOp_streams (t : Slot) (id : Nat) : (t.dropOp id).streams = t.streams := rfl
@[simp] theorem Slot.dropOp_pendW (t : Slot) (id : Nat) : (t.dropOp id).pendW = t.pendW := rfl
@[simp] theorem Slot.dropOp_pendV (t : Slot) (id : Nat) : (t.dropOp id).pendV = t.pendV := rfl
@[simp] theorem Slot.dropOp_pendF (t : Slot) (id : Nat) : (t.dropOp id).pendF = t.pendF := rfl
@[simp] theorem Slot.dropOp_opId (t : Slot) (id : Nat) : (t.dropOp id).opId = t.opId := rfl
@[simp] theorem Slot.dropOp_replies (t : Slot) (id : Nat) : (t.dropOp id).replies = t.replies := rfl
@[simp] theorem Slot.dropOp_waited (t : Slot) (id : Nat) : (t.dropOp id).waited = t.waited := rfl
@[simp] theorem Slot.dropOp_droop (t : Slot) (id : Nat) : (t.dropOp id).droop = t.droop := rfl
@[simp] theorem Slot.dropOp_issued (t : Slot) (id : Nat) : (t.dropOp id).issued = t.issued := rfl
@[simp] theorem Slot.dropOp_waits (t : Slot) (id : Nat) : (t.dropOp id).waits = t.waits := rfl
@[simp] theorem Slot.dropOp_latch (t : Slot) (id : Nat) : (t.dropOp id).latch = t.latch := rfl
@[simp] theorem Slot.dropOp_skip (t : Slot) (id : Nat) : (t.dropOp id).skip = t.skip := rfl
@[simp] theorem Slot.dropOp_job (t : Slot) (id : Nat) : (t.dropOp id).job = t.job := rfl
@[simp] theorem Slot.dropOp_par (t : Slot) (id : Nat) : (t.dropOp id).par = t.par := rfl
@[simp] theorem Slot.dropOp_ckpt (t : Slot) (id : Nat) : (t.dropOp id).ckpt = t.ckpt := rfl
@[simp] theorem Slot.dropOp_ctRefused (t : Slot) (id : Nat) : (t.dropOp id).ctRefused = t.ctRefused := rfl
@[simp] theorem Slot.dropOp_mismatched (t : Slot) (id : Nat) : (t.dropOp id).mismatched = t.mismatched := rfl
@[simp] theorem Slot.dropOp_jsel (t : Slot) (id : Nat) : (t.dropOp id).jsel = t.jsel := rfl
@[simp] theorem Slot.dropOp_ptsel (t : Slot) (id : Nat) : (t.dropOp id).ptsel = t.ptsel := rfl
@[simp] theorem Slot.dropOp_trapNext (t : Slot) (id : Nat) : (t.dropOp id).trapNext = t.trapNext := rfl
@[simp] theorem Slot.dropOp_frame (t : Slot) (id : Nat) : (t.dropOp id).frame = t.frame := rfl

@[simp] theorem Slot.modOp_st (t : Slot) (id : Nat) (f : Op → Op) : (t.modOp id f).st = t.st := rfl
@[simp] theorem Slot.modOp_was (t : Slot) (id : Nat) (f : Op → Op) : (t.modOp id f).was = t.was := rfl
@[simp] theorem Slot.modOp_hold (t : Slot) (id : Nat) (f : Op → Op) : (t.modOp id f).hold = t.hold := rfl
@[simp] theorem Slot.modOp_pc (t : Slot) (id : Nat) (f : Op → Op) : (t.modOp id f).pc = t.pc := rfl
@[simp] theorem Slot.modOp_phys (t : Slot) (id : Nat) (f : Op → Op) : (t.modOp id f).phys = t.phys := rfl
@[simp] theorem Slot.modOp_links (t : Slot) (id : Nat) (f : Op → Op) : (t.modOp id f).links = t.links := rfl
@[simp] theorem Slot.modOp_wdepth (t : Slot) (id : Nat) (f : Op → Op) : (t.modOp id f).wdepth = t.wdepth := rfl
@[simp] theorem Slot.modOp_resident (t : Slot) (id : Nat) (f : Op → Op) : (t.modOp id f).resident = t.resident := rfl
@[simp] theorem Slot.modOp_vregs (t : Slot) (id : Nat) (f : Op → Op) : (t.modOp id f).vregs = t.vregs := rfl
@[simp] theorem Slot.modOp_kregs (t : Slot) (id : Nat) (f : Op → Op) : (t.modOp id f).kregs = t.kregs := rfl
@[simp] theorem Slot.modOp_flags (t : Slot) (id : Nat) (f : Op → Op) : (t.modOp id f).flags = t.flags := rfl
@[simp] theorem Slot.modOp_fcr (t : Slot) (id : Nat) (f : Op → Op) : (t.modOp id f).fcr = t.fcr := rfl
@[simp] theorem Slot.modOp_fsf (t : Slot) (id : Nat) (f : Op → Op) : (t.modOp id f).fsf = t.fsf := rfl
@[simp] theorem Slot.modOp_wto (t : Slot) (id : Nat) (f : Op → Op) : (t.modOp id f).wto = t.wto := rfl
@[simp] theorem Slot.modOp_ssp (t : Slot) (id : Nat) (f : Op → Op) : (t.modOp id f).ssp = t.ssp := rfl
@[simp] theorem Slot.modOp_loops (t : Slot) (id : Nat) (f : Op → Op) : (t.modOp id f).loops = t.loops := rfl
@[simp] theorem Slot.modOp_streams (t : Slot) (id : Nat) (f : Op → Op) : (t.modOp id f).streams = t.streams := rfl
@[simp] theorem Slot.modOp_pendW (t : Slot) (id : Nat) (f : Op → Op) : (t.modOp id f).pendW = t.pendW := rfl
@[simp] theorem Slot.modOp_pendV (t : Slot) (id : Nat) (f : Op → Op) : (t.modOp id f).pendV = t.pendV := rfl
@[simp] theorem Slot.modOp_pendF (t : Slot) (id : Nat) (f : Op → Op) : (t.modOp id f).pendF = t.pendF := rfl
@[simp] theorem Slot.modOp_opId (t : Slot) (id : Nat) (f : Op → Op) : (t.modOp id f).opId = t.opId := rfl
@[simp] theorem Slot.modOp_replies (t : Slot) (id : Nat) (f : Op → Op) : (t.modOp id f).replies = t.replies := rfl
@[simp] theorem Slot.modOp_waited (t : Slot) (id : Nat) (f : Op → Op) : (t.modOp id f).waited = t.waited := rfl
@[simp] theorem Slot.modOp_droop (t : Slot) (id : Nat) (f : Op → Op) : (t.modOp id f).droop = t.droop := rfl
@[simp] theorem Slot.modOp_issued (t : Slot) (id : Nat) (f : Op → Op) : (t.modOp id f).issued = t.issued := rfl
@[simp] theorem Slot.modOp_waits (t : Slot) (id : Nat) (f : Op → Op) : (t.modOp id f).waits = t.waits := rfl
@[simp] theorem Slot.modOp_latch (t : Slot) (id : Nat) (f : Op → Op) : (t.modOp id f).latch = t.latch := rfl
@[simp] theorem Slot.modOp_skip (t : Slot) (id : Nat) (f : Op → Op) : (t.modOp id f).skip = t.skip := rfl
@[simp] theorem Slot.modOp_job (t : Slot) (id : Nat) (f : Op → Op) : (t.modOp id f).job = t.job := rfl
@[simp] theorem Slot.modOp_par (t : Slot) (id : Nat) (f : Op → Op) : (t.modOp id f).par = t.par := rfl
@[simp] theorem Slot.modOp_ckpt (t : Slot) (id : Nat) (f : Op → Op) : (t.modOp id f).ckpt = t.ckpt := rfl
@[simp] theorem Slot.modOp_ctRefused (t : Slot) (id : Nat) (f : Op → Op) : (t.modOp id f).ctRefused = t.ctRefused := rfl
@[simp] theorem Slot.modOp_mismatched (t : Slot) (id : Nat) (f : Op → Op) : (t.modOp id f).mismatched = t.mismatched := rfl
@[simp] theorem Slot.modOp_jsel (t : Slot) (id : Nat) (f : Op → Op) : (t.modOp id f).jsel = t.jsel := rfl
@[simp] theorem Slot.modOp_ptsel (t : Slot) (id : Nat) (f : Op → Op) : (t.modOp id f).ptsel = t.ptsel := rfl
@[simp] theorem Slot.modOp_trapNext (t : Slot) (id : Nat) (f : Op → Op) : (t.modOp id f).trapNext = t.trapNext := rfl
@[simp] theorem Slot.modOp_frame (t : Slot) (id : Nat) (f : Op → Op) : (t.modOp id f).frame = t.frame := rfl

@[simp] theorem Slot.mark_st (t : Slot) (d : Dest) (b : Bool) : (t.mark d b).st = t.st := by cases d <;> rfl
@[simp] theorem Slot.mark_was (t : Slot) (d : Dest) (b : Bool) : (t.mark d b).was = t.was := by cases d <;> rfl
@[simp] theorem Slot.mark_hold (t : Slot) (d : Dest) (b : Bool) : (t.mark d b).hold = t.hold := by cases d <;> rfl
@[simp] theorem Slot.mark_pc (t : Slot) (d : Dest) (b : Bool) : (t.mark d b).pc = t.pc := by cases d <;> rfl
@[simp] theorem Slot.mark_phys (t : Slot) (d : Dest) (b : Bool) : (t.mark d b).phys = t.phys := by cases d <;> rfl
@[simp] theorem Slot.mark_links (t : Slot) (d : Dest) (b : Bool) : (t.mark d b).links = t.links := by cases d <;> rfl
@[simp] theorem Slot.mark_wdepth (t : Slot) (d : Dest) (b : Bool) : (t.mark d b).wdepth = t.wdepth := by cases d <;> rfl
@[simp] theorem Slot.mark_resident (t : Slot) (d : Dest) (b : Bool) : (t.mark d b).resident = t.resident := by cases d <;> rfl
@[simp] theorem Slot.mark_vregs (t : Slot) (d : Dest) (b : Bool) : (t.mark d b).vregs = t.vregs := by cases d <;> rfl
@[simp] theorem Slot.mark_kregs (t : Slot) (d : Dest) (b : Bool) : (t.mark d b).kregs = t.kregs := by cases d <;> rfl
@[simp] theorem Slot.mark_flags (t : Slot) (d : Dest) (b : Bool) : (t.mark d b).flags = t.flags := by cases d <;> rfl
@[simp] theorem Slot.mark_fcr (t : Slot) (d : Dest) (b : Bool) : (t.mark d b).fcr = t.fcr := by cases d <;> rfl
@[simp] theorem Slot.mark_fsf (t : Slot) (d : Dest) (b : Bool) : (t.mark d b).fsf = t.fsf := by cases d <;> rfl
@[simp] theorem Slot.mark_wto (t : Slot) (d : Dest) (b : Bool) : (t.mark d b).wto = t.wto := by cases d <;> rfl
@[simp] theorem Slot.mark_ssp (t : Slot) (d : Dest) (b : Bool) : (t.mark d b).ssp = t.ssp := by cases d <;> rfl
@[simp] theorem Slot.mark_loops (t : Slot) (d : Dest) (b : Bool) : (t.mark d b).loops = t.loops := by cases d <;> rfl
@[simp] theorem Slot.mark_streams (t : Slot) (d : Dest) (b : Bool) : (t.mark d b).streams = t.streams := by cases d <;> rfl
@[simp] theorem Slot.mark_pendF (t : Slot) (d : Dest) (b : Bool) : (t.mark d b).pendF = t.pendF := by cases d <;> rfl
@[simp] theorem Slot.mark_ops (t : Slot) (d : Dest) (b : Bool) : (t.mark d b).ops = t.ops := by cases d <;> rfl
@[simp] theorem Slot.mark_opId (t : Slot) (d : Dest) (b : Bool) : (t.mark d b).opId = t.opId := by cases d <;> rfl
@[simp] theorem Slot.mark_replies (t : Slot) (d : Dest) (b : Bool) : (t.mark d b).replies = t.replies := by cases d <;> rfl
@[simp] theorem Slot.mark_waited (t : Slot) (d : Dest) (b : Bool) : (t.mark d b).waited = t.waited := by cases d <;> rfl
@[simp] theorem Slot.mark_droop (t : Slot) (d : Dest) (b : Bool) : (t.mark d b).droop = t.droop := by cases d <;> rfl
@[simp] theorem Slot.mark_issued (t : Slot) (d : Dest) (b : Bool) : (t.mark d b).issued = t.issued := by cases d <;> rfl
@[simp] theorem Slot.mark_waits (t : Slot) (d : Dest) (b : Bool) : (t.mark d b).waits = t.waits := by cases d <;> rfl
@[simp] theorem Slot.mark_latch (t : Slot) (d : Dest) (b : Bool) : (t.mark d b).latch = t.latch := by cases d <;> rfl
@[simp] theorem Slot.mark_skip (t : Slot) (d : Dest) (b : Bool) : (t.mark d b).skip = t.skip := by cases d <;> rfl
@[simp] theorem Slot.mark_job (t : Slot) (d : Dest) (b : Bool) : (t.mark d b).job = t.job := by cases d <;> rfl
@[simp] theorem Slot.mark_par (t : Slot) (d : Dest) (b : Bool) : (t.mark d b).par = t.par := by cases d <;> rfl
@[simp] theorem Slot.mark_ckpt (t : Slot) (d : Dest) (b : Bool) : (t.mark d b).ckpt = t.ckpt := by cases d <;> rfl
@[simp] theorem Slot.mark_ctRefused (t : Slot) (d : Dest) (b : Bool) : (t.mark d b).ctRefused = t.ctRefused := by cases d <;> rfl
@[simp] theorem Slot.mark_mismatched (t : Slot) (d : Dest) (b : Bool) : (t.mark d b).mismatched = t.mismatched := by cases d <;> rfl
@[simp] theorem Slot.mark_jsel (t : Slot) (d : Dest) (b : Bool) : (t.mark d b).jsel = t.jsel := by cases d <;> rfl
@[simp] theorem Slot.mark_ptsel (t : Slot) (d : Dest) (b : Bool) : (t.mark d b).ptsel = t.ptsel := by cases d <;> rfl
@[simp] theorem Slot.mark_trapNext (t : Slot) (d : Dest) (b : Bool) : (t.mark d b).trapNext = t.trapNext := by cases d <;> rfl
@[simp] theorem Slot.mark_frame (t : Slot) (d : Dest) (b : Bool) : (t.mark d b).frame = t.frame := by cases d <;> rfl
@[simp] theorem Slot.markF_st (t : Slot) (f : Option (BitVec 3)) (b : Bool) : (t.markF f b).st = t.st := by cases f <;> rfl
@[simp] theorem Slot.markF_was (t : Slot) (f : Option (BitVec 3)) (b : Bool) : (t.markF f b).was = t.was := by cases f <;> rfl
@[simp] theorem Slot.markF_hold (t : Slot) (f : Option (BitVec 3)) (b : Bool) : (t.markF f b).hold = t.hold := by cases f <;> rfl
@[simp] theorem Slot.markF_pc (t : Slot) (f : Option (BitVec 3)) (b : Bool) : (t.markF f b).pc = t.pc := by cases f <;> rfl
@[simp] theorem Slot.markF_phys (t : Slot) (f : Option (BitVec 3)) (b : Bool) : (t.markF f b).phys = t.phys := by cases f <;> rfl
@[simp] theorem Slot.markF_links (t : Slot) (f : Option (BitVec 3)) (b : Bool) : (t.markF f b).links = t.links := by cases f <;> rfl
@[simp] theorem Slot.markF_wdepth (t : Slot) (f : Option (BitVec 3)) (b : Bool) : (t.markF f b).wdepth = t.wdepth := by cases f <;> rfl
@[simp] theorem Slot.markF_resident (t : Slot) (f : Option (BitVec 3)) (b : Bool) : (t.markF f b).resident = t.resident := by cases f <;> rfl
@[simp] theorem Slot.markF_vregs (t : Slot) (f : Option (BitVec 3)) (b : Bool) : (t.markF f b).vregs = t.vregs := by cases f <;> rfl
@[simp] theorem Slot.markF_kregs (t : Slot) (f : Option (BitVec 3)) (b : Bool) : (t.markF f b).kregs = t.kregs := by cases f <;> rfl
@[simp] theorem Slot.markF_flags (t : Slot) (f : Option (BitVec 3)) (b : Bool) : (t.markF f b).flags = t.flags := by cases f <;> rfl
@[simp] theorem Slot.markF_fcr (t : Slot) (f : Option (BitVec 3)) (b : Bool) : (t.markF f b).fcr = t.fcr := by cases f <;> rfl
@[simp] theorem Slot.markF_fsf (t : Slot) (f : Option (BitVec 3)) (b : Bool) : (t.markF f b).fsf = t.fsf := by cases f <;> rfl
@[simp] theorem Slot.markF_wto (t : Slot) (f : Option (BitVec 3)) (b : Bool) : (t.markF f b).wto = t.wto := by cases f <;> rfl
@[simp] theorem Slot.markF_ssp (t : Slot) (f : Option (BitVec 3)) (b : Bool) : (t.markF f b).ssp = t.ssp := by cases f <;> rfl
@[simp] theorem Slot.markF_loops (t : Slot) (f : Option (BitVec 3)) (b : Bool) : (t.markF f b).loops = t.loops := by cases f <;> rfl
@[simp] theorem Slot.markF_streams (t : Slot) (f : Option (BitVec 3)) (b : Bool) : (t.markF f b).streams = t.streams := by cases f <;> rfl
@[simp] theorem Slot.markF_pendW (t : Slot) (f : Option (BitVec 3)) (b : Bool) : (t.markF f b).pendW = t.pendW := by cases f <;> rfl
@[simp] theorem Slot.markF_pendV (t : Slot) (f : Option (BitVec 3)) (b : Bool) : (t.markF f b).pendV = t.pendV := by cases f <;> rfl
@[simp] theorem Slot.markF_ops (t : Slot) (f : Option (BitVec 3)) (b : Bool) : (t.markF f b).ops = t.ops := by cases f <;> rfl
@[simp] theorem Slot.markF_opId (t : Slot) (f : Option (BitVec 3)) (b : Bool) : (t.markF f b).opId = t.opId := by cases f <;> rfl
@[simp] theorem Slot.markF_replies (t : Slot) (f : Option (BitVec 3)) (b : Bool) : (t.markF f b).replies = t.replies := by cases f <;> rfl
@[simp] theorem Slot.markF_waited (t : Slot) (f : Option (BitVec 3)) (b : Bool) : (t.markF f b).waited = t.waited := by cases f <;> rfl
@[simp] theorem Slot.markF_droop (t : Slot) (f : Option (BitVec 3)) (b : Bool) : (t.markF f b).droop = t.droop := by cases f <;> rfl
@[simp] theorem Slot.markF_issued (t : Slot) (f : Option (BitVec 3)) (b : Bool) : (t.markF f b).issued = t.issued := by cases f <;> rfl
@[simp] theorem Slot.markF_waits (t : Slot) (f : Option (BitVec 3)) (b : Bool) : (t.markF f b).waits = t.waits := by cases f <;> rfl
@[simp] theorem Slot.markF_latch (t : Slot) (f : Option (BitVec 3)) (b : Bool) : (t.markF f b).latch = t.latch := by cases f <;> rfl
@[simp] theorem Slot.markF_skip (t : Slot) (f : Option (BitVec 3)) (b : Bool) : (t.markF f b).skip = t.skip := by cases f <;> rfl
@[simp] theorem Slot.markF_job (t : Slot) (f : Option (BitVec 3)) (b : Bool) : (t.markF f b).job = t.job := by cases f <;> rfl
@[simp] theorem Slot.markF_par (t : Slot) (f : Option (BitVec 3)) (b : Bool) : (t.markF f b).par = t.par := by cases f <;> rfl
@[simp] theorem Slot.markF_ckpt (t : Slot) (f : Option (BitVec 3)) (b : Bool) : (t.markF f b).ckpt = t.ckpt := by cases f <;> rfl
@[simp] theorem Slot.markF_ctRefused (t : Slot) (f : Option (BitVec 3)) (b : Bool) : (t.markF f b).ctRefused = t.ctRefused := by cases f <;> rfl
@[simp] theorem Slot.markF_mismatched (t : Slot) (f : Option (BitVec 3)) (b : Bool) : (t.markF f b).mismatched = t.mismatched := by cases f <;> rfl
@[simp] theorem Slot.markF_jsel (t : Slot) (f : Option (BitVec 3)) (b : Bool) : (t.markF f b).jsel = t.jsel := by cases f <;> rfl
@[simp] theorem Slot.markF_ptsel (t : Slot) (f : Option (BitVec 3)) (b : Bool) : (t.markF f b).ptsel = t.ptsel := by cases f <;> rfl
@[simp] theorem Slot.markF_trapNext (t : Slot) (f : Option (BitVec 3)) (b : Bool) : (t.markF f b).trapNext = t.trapNext := by cases f <;> rfl
@[simp] theorem Slot.markF_frame (t : Slot) (f : Option (BitVec 3)) (b : Bool) : (t.markF f b).frame = t.frame := by cases f <;> rfl
@[simp] theorem Slot.setK_st (t : Slot) (i : Nat) (x : BitVec 16) : (t.setK i x).st = t.st := by unfold Slot.setK; split <;> rfl
@[simp] theorem Slot.setK_was (t : Slot) (i : Nat) (x : BitVec 16) : (t.setK i x).was = t.was := by unfold Slot.setK; split <;> rfl
@[simp] theorem Slot.setK_hold (t : Slot) (i : Nat) (x : BitVec 16) : (t.setK i x).hold = t.hold := by unfold Slot.setK; split <;> rfl
@[simp] theorem Slot.setK_pc (t : Slot) (i : Nat) (x : BitVec 16) : (t.setK i x).pc = t.pc := by unfold Slot.setK; split <;> rfl
@[simp] theorem Slot.setK_phys (t : Slot) (i : Nat) (x : BitVec 16) : (t.setK i x).phys = t.phys := by unfold Slot.setK; split <;> rfl
@[simp] theorem Slot.setK_links (t : Slot) (i : Nat) (x : BitVec 16) : (t.setK i x).links = t.links := by unfold Slot.setK; split <;> rfl
@[simp] theorem Slot.setK_wdepth (t : Slot) (i : Nat) (x : BitVec 16) : (t.setK i x).wdepth = t.wdepth := by unfold Slot.setK; split <;> rfl
@[simp] theorem Slot.setK_resident (t : Slot) (i : Nat) (x : BitVec 16) : (t.setK i x).resident = t.resident := by unfold Slot.setK; split <;> rfl
@[simp] theorem Slot.setK_vregs (t : Slot) (i : Nat) (x : BitVec 16) : (t.setK i x).vregs = t.vregs := by unfold Slot.setK; split <;> rfl
@[simp] theorem Slot.setK_flags (t : Slot) (i : Nat) (x : BitVec 16) : (t.setK i x).flags = t.flags := by unfold Slot.setK; split <;> rfl
@[simp] theorem Slot.setK_fcr (t : Slot) (i : Nat) (x : BitVec 16) : (t.setK i x).fcr = t.fcr := by unfold Slot.setK; split <;> rfl
@[simp] theorem Slot.setK_fsf (t : Slot) (i : Nat) (x : BitVec 16) : (t.setK i x).fsf = t.fsf := by unfold Slot.setK; split <;> rfl
@[simp] theorem Slot.setK_wto (t : Slot) (i : Nat) (x : BitVec 16) : (t.setK i x).wto = t.wto := by unfold Slot.setK; split <;> rfl
@[simp] theorem Slot.setK_ssp (t : Slot) (i : Nat) (x : BitVec 16) : (t.setK i x).ssp = t.ssp := by unfold Slot.setK; split <;> rfl
@[simp] theorem Slot.setK_loops (t : Slot) (i : Nat) (x : BitVec 16) : (t.setK i x).loops = t.loops := by unfold Slot.setK; split <;> rfl
@[simp] theorem Slot.setK_streams (t : Slot) (i : Nat) (x : BitVec 16) : (t.setK i x).streams = t.streams := by unfold Slot.setK; split <;> rfl
@[simp] theorem Slot.setK_pendW (t : Slot) (i : Nat) (x : BitVec 16) : (t.setK i x).pendW = t.pendW := by unfold Slot.setK; split <;> rfl
@[simp] theorem Slot.setK_pendV (t : Slot) (i : Nat) (x : BitVec 16) : (t.setK i x).pendV = t.pendV := by unfold Slot.setK; split <;> rfl
@[simp] theorem Slot.setK_pendF (t : Slot) (i : Nat) (x : BitVec 16) : (t.setK i x).pendF = t.pendF := by unfold Slot.setK; split <;> rfl
@[simp] theorem Slot.setK_ops (t : Slot) (i : Nat) (x : BitVec 16) : (t.setK i x).ops = t.ops := by unfold Slot.setK; split <;> rfl
@[simp] theorem Slot.setK_opId (t : Slot) (i : Nat) (x : BitVec 16) : (t.setK i x).opId = t.opId := by unfold Slot.setK; split <;> rfl
@[simp] theorem Slot.setK_replies (t : Slot) (i : Nat) (x : BitVec 16) : (t.setK i x).replies = t.replies := by unfold Slot.setK; split <;> rfl
@[simp] theorem Slot.setK_waited (t : Slot) (i : Nat) (x : BitVec 16) : (t.setK i x).waited = t.waited := by unfold Slot.setK; split <;> rfl
@[simp] theorem Slot.setK_droop (t : Slot) (i : Nat) (x : BitVec 16) : (t.setK i x).droop = t.droop := by unfold Slot.setK; split <;> rfl
@[simp] theorem Slot.setK_issued (t : Slot) (i : Nat) (x : BitVec 16) : (t.setK i x).issued = t.issued := by unfold Slot.setK; split <;> rfl
@[simp] theorem Slot.setK_waits (t : Slot) (i : Nat) (x : BitVec 16) : (t.setK i x).waits = t.waits := by unfold Slot.setK; split <;> rfl
@[simp] theorem Slot.setK_latch (t : Slot) (i : Nat) (x : BitVec 16) : (t.setK i x).latch = t.latch := by unfold Slot.setK; split <;> rfl
@[simp] theorem Slot.setK_skip (t : Slot) (i : Nat) (x : BitVec 16) : (t.setK i x).skip = t.skip := by unfold Slot.setK; split <;> rfl
@[simp] theorem Slot.setK_job (t : Slot) (i : Nat) (x : BitVec 16) : (t.setK i x).job = t.job := by unfold Slot.setK; split <;> rfl
@[simp] theorem Slot.setK_par (t : Slot) (i : Nat) (x : BitVec 16) : (t.setK i x).par = t.par := by unfold Slot.setK; split <;> rfl
@[simp] theorem Slot.setK_ckpt (t : Slot) (i : Nat) (x : BitVec 16) : (t.setK i x).ckpt = t.ckpt := by unfold Slot.setK; split <;> rfl
@[simp] theorem Slot.setK_ctRefused (t : Slot) (i : Nat) (x : BitVec 16) : (t.setK i x).ctRefused = t.ctRefused := by unfold Slot.setK; split <;> rfl
@[simp] theorem Slot.setK_mismatched (t : Slot) (i : Nat) (x : BitVec 16) : (t.setK i x).mismatched = t.mismatched := by unfold Slot.setK; split <;> rfl
@[simp] theorem Slot.setK_jsel (t : Slot) (i : Nat) (x : BitVec 16) : (t.setK i x).jsel = t.jsel := by unfold Slot.setK; split <;> rfl
@[simp] theorem Slot.setK_ptsel (t : Slot) (i : Nat) (x : BitVec 16) : (t.setK i x).ptsel = t.ptsel := by unfold Slot.setK; split <;> rfl
@[simp] theorem Slot.setK_trapNext (t : Slot) (i : Nat) (x : BitVec 16) : (t.setK i x).trapNext = t.trapNext := by unfold Slot.setK; split <;> rfl
@[simp] theorem Slot.setK_frame (t : Slot) (i : Nat) (x : BitVec 16) : (t.setK i x).frame = t.frame := by unfold Slot.setK; split <;> rfl

@[simp] theorem Slot.advance_st (t : Slot) (n : Nat) : (t.advance n).st = .run := rfl
@[simp] theorem Slot.advance_hold (t : Slot) (n : Nat) : (t.advance n).hold = .none := rfl
@[simp] theorem Slot.advance_waited (t : Slot) (n : Nat) : (t.advance n).waited = 0 := rfl
@[simp] theorem Slot.advance_issued (t : Slot) (n : Nat) : (t.advance n).issued = t.issued + 1 := rfl
@[simp] theorem Slot.setW_phys (t : Slot) (i : Nat) (v : Word) : (t.setW i v).phys = t.phys.set (t.phyOf i) v := rfl
@[simp] theorem Slot.setV_vregs (t : Slot) (i : Nat) (x : Vec) : (t.setV i x).vregs = t.vregs.set i x := rfl

/-- Outside a loop body the next instruction follows (R129). -/
theorem Slot.advance_pc_of_no_loops (t : Slot) (n : Nat) (h : t.loops = []) : (t.advance n).pc = t.pc + BitVec.ofNat 64 n := by
  simp [Slot.advance, h, loopStep]

/-! ### Registers after a write (R117, R118, R235, R236) -/

/-- A window register reads what was written to it. -/
@[simp] theorem Slot.w_setW_self (t : Slot) (i : Nat) (v : Word) : (t.setW i v).w i = v := by
  simp [Slot.w, Slot.setW, Slot.phyOf]

/-- Different names of one frame are different registers (R118). -/
theorem Slot.phyOf_inj (t : Slot) {i j : Nat} (hi : i < 24) (hj : j < 24) (h : t.phyOf i = t.phyOf j) : i = j := by
  unfold Slot.phyOf at h
  omega

theorem Slot.w_setW_ne (t : Slot) {i j : Nat} (v : Word) (hi : i < 24) (hj : j < 24) (h : j ≠ i) : (t.setW i v).w j = t.w j := by
  have hp : t.phyOf j ≠ t.phyOf i := fun e => h (t.phyOf_inj hj hi e)
  show (t.phys.set (t.phyOf i) v).get 0 (t.phyOf j) = _
  rw [NMap.get_set_ne _ _ _ hp]
  rfl

@[simp] theorem Slot.v_setV_self (t : Slot) (i : Nat) (x : Vec) : (t.setV i x).v i = x := NMap.get_set_self _ _ _ _
theorem Slot.v_setV_ne (t : Slot) {i j : Nat} (x : Vec) (h : j ≠ i) : (t.setV i x).v j = t.v j := NMap.get_set_ne _ _ _ h

/-- The current thread after its slot is changed. -/
@[simp] theorem State.me_modMe (s : State) (f : Slot → Slot) : (s.modMe f).me = f s.me := by
  show ((s.slots.set s.cur (f (s.slot s.cur))).get {} s.cur) = _
  rw [NMap.get_set_self]
  rfl

@[simp] theorem State.me_modSlot_cur (s : State) (f : Slot → Slot) : (s.modSlot s.cur f).me = f s.me := State.me_modMe s f

/-- g0 reads zero (R117). -/
@[simp] theorem State.rd_zero (s : State) : s.rd 0 = 0 := rfl

/-- A read after a write of the same register (R117, R236). -/
theorem State.rd_wr_self (s : State) (d : BitVec 5) (v : Word) (h : 8 ≤ d.toNat) : (s.wr d v).rd d = v := by
  have h0 : d ≠ 0 := by rintro rfl; simp at h
  have h8 : ¬d.toNat < 8 := by omega
  unfold State.wr State.rd
  rw [if_neg h0, if_neg h8, if_neg h8, State.me_modMe, Slot.w_setW_self]

/-- Every other register keeps its value. -/
theorem State.rd_wr_ne (s : State) (d c : BitVec 5) (v : Word) (h : c ≠ d) : (s.wr d v).rd c = s.rd c := by
  unfold State.wr
  by_cases hd : d.toNat < 8
  · simp [hd]
  · rw [if_neg hd]
    unfold State.rd
    by_cases hc : c = 0
    · simp [hc]
    · by_cases hc8 : c.toNat < 8
      · simp only [hc, hc8, if_true, if_false]
        rfl
      · simp only [hc, hc8, if_false, State.me_modMe]
        have hne : c.toNat ≠ d.toNat := fun e => h (BitVec.eq_of_toNat_eq e)
        exact Slot.w_setW_ne _ _ (by omega) (by omega) (by omega)

/-- A write of g0 is discarded (R117, R236). -/
theorem State.wr_discards (s : State) (d : BitVec 5) (v : Word) (h : d.toNat < 8) : s.wr d v = s := by
  simp [State.wr, h]

end Sys2Proof.Machine
end

