-- ==== Sys2Proof/Laws/Issue.lean ====
section
/-!
SUPPORT. Laws/Issue.lean: what the shared ways of issuing an instruction do: legality, the scoreboard, a result written at once or by a reply.
-/
namespace Sys2Proof.Machine

/-- A legal instruction with no pending register has its effect (R114, R115). -/
theorem issue_ok {s : State} {i : Instr} {u : Uses} {f : State → State} (hw : wellFormed i = true) (hb : s.me.busy u = false) :
    s.issue i u f = .next (f s) := by
  simp [State.issue, hw, hb]

/-- An illegal one takes the illegal-instruction trap (R256). -/
theorem issue_illegal {s : State} {i : Instr} {u : Uses} {f : State → State} (hw : wellFormed i = false) :
    s.issue i u f = .next (s.illegal i) := by
  simp [State.issue, hw]

/-- A legal one with a pending register waits (R115). -/
theorem issue_waits {s : State} {i : Instr} {u : Uses} {f : State → State} (hw : wellFormed i = true) (hb : s.me.busy u = true) :
    s.issue i u f = .next s.waitHere := by
  simp [State.issue, hw, hb]

@[simp] theorem State.withMe_cur (s : State) (t : Slot) : (s.withMe t).cur = s.cur := rfl
@[simp] theorem State.me_withMe (s : State) (t : Slot) : (s.withMe t).me = t := NMap.get_set_self _ _ _ _

/-- A change of the current thread, as statements say it. -/
theorem State.modMe_eq_withMe (s : State) (f : Slot → Slot) : s.modMe f = s.withMe (f s.me) := rfl

@[simp] theorem State.withMe_withMe (s : State) (t u : Slot) : (s.withMe t).withMe u = s.withMe u := by
  show ({ s with slots := (s.slots.set s.cur t).set s.cur u } : State) = _
  rw [NMap.set_set]
  rfl

theorem State.withMe_modMe (s : State) (t : Slot) (f : Slot → Slot) : (s.withMe t).modMe f = s.withMe (f t) := by
  show ({ s with slots := (s.slots.set s.cur t).set s.cur (f ((s.withMe t).me)) } : State) = _
  rw [NMap.set_set, State.me_withMe]
  rfl

/-- A register written, then the next instruction's address: as `Writes` says. -/
theorem wr_done_eq (s : State) (i : Instr) (d : BitVec 5) (v : Word) :
    (s.wr d v).done i = s.withMe { s.me.advance (ilen i) with phys := ((s.wr d v).done i).me.phys } := by
  by_cases hd : d.toNat < 8
  · rw [State.wr_discards _ _ _ hd]
    simp [State.done, State.modMe_eq_withMe]
    rfl
  · simp [State.done, State.wr, hd, State.modMe_eq_withMe]
    rfl

theorem rd_done (s : State) (i : Instr) (c : BitVec 5) : (s.done i).rd c = s.rd c := by
  show State.rd (s.modMe _) c = _
  unfold State.rd
  simp only [State.me_modMe]
  rfl

/-- An instruction that writes one scalar register leaves what `Writes` says, with no flag of sr.fsf. -/
theorem scalar_writes (s : State) (i : Instr) (d : BitVec 5) (v : Word) : Writes s ((s.wr d v).done i) d v 0 (ilen i) := by
  refine ⟨fun h8 => ?_, fun c hc => ?_, fun p hp => ?_, fun a => ?_, ?_⟩
  · rw [rd_done, State.rd_wr_self s d v h8]
  · rw [rd_done]
    rcases hc with h | h
    · exact State.rd_wr_ne s d c v h
    · rw [State.wr_discards _ _ _ h]
  · by_cases hd : d.toNat < 8
    · rw [State.wr_discards _ _ _ hd]
      simp [State.done]
    · simp only [State.done, State.wr, hd, if_false, State.me_modMe, Slot.advance_phys, Slot.setW_phys]
      exact NMap.get_set_ne _ _ _ (hp (by omega))
  · by_cases hd : d.toNat < 8 <;> simp [State.done, State.wr, hd, State.modMe]
  · simpa using wr_done_eq s i d v

/-- A scalar instruction completes with its result. -/
theorem gives_scalar {s : State} {i : Instr} {d : BitVec 5} {srcs : List (BitVec 5)} {v w : Word} (he : exec i s = s.scalar i d srcs v)
    (hw : wellFormed i = true) (hb : s.me.busy { regs := d :: srcs } = false) (hv : v = w) : Gives s i d w := by
  subst hv
  refine ⟨_, ?_, scalar_writes s i d v⟩
  rw [he, State.scalar, issue_ok hw hb]

/-- The same with flags of sr.fsf. -/
theorem orFlags_quiet (s : State) (f : BitVec 6) (hq : s.quiet f) : s.orFlags s.cur f = s.modMe fun t => { t with fsf := t.fsf ||| f } := by
  unfold State.orFlags
  have hq' : ¬(f &&& ~~~(s.slot s.cur).fsf ≠ 0 ∧ ((s.die (peerOfSlot s.cur)).jflaga.get 0 (s.slot s.cur).job.toNat).getLsbD 63 = true ∧ s.posts s.cur = true) := by
    rintro ⟨h1, h2, -⟩
    rcases hq with h | h
    · exact h1 h
    · have : ((s.die s.myPeer).jflaga.get 0 s.me.job.toNat).getLsbD 63 = true := h2
      rw [h] at this
      exact absurd this (by decide)
  exact (if_neg hq').trans rfl

theorem scalarF_writes (s : State) (i : Instr) (d : BitVec 5) (v : Word) (f : BitVec 6) (hq : s.quiet f) :
    Writes s (((s.wr d v).done i).orFlags s.cur f) d v f (ilen i) := by
  have hw := scalar_writes s i d v
  have hcur : ((s.wr d v).done i).cur = s.cur := by by_cases hd : d.toNat < 8 <;> simp [State.done, State.wr, hd, State.modMe]
  have hfsf : ((s.wr d v).done i).me.fsf = s.me.fsf := by
    by_cases hd : d.toNat < 8 <;> simp [State.done, State.wr, hd]
  have hjob : ((s.wr d v).done i).me.job = s.me.job := by
    by_cases hd : d.toNat < 8 <;> simp [State.done, State.wr, hd]
  have hdie : ∀ p, ((s.wr d v).done i).die p = s.die p := fun p => by
    by_cases hd : d.toNat < 8 <;> simp [State.done, State.wr, hd, State.modMe]
  have hq' : ((s.wr d v).done i).quiet f := by
    unfold State.quiet State.myPeer State.myQuad State.myCore
    rw [hfsf, hjob, hcur, hdie]
    exact hq
  have e := orFlags_quiet _ f hq'
  rw [hcur] at e
  rw [e]
  have hrd : ∀ c, (((s.wr d v).done i).modMe fun t => { t with fsf := t.fsf ||| f }).rd c = ((s.wr d v).done i).rd c := fun c => by
    unfold State.rd
    simp only [State.me_modMe]
    rfl
  refine ⟨fun h => ?_, fun c hc => ?_, fun p hp => ?_, fun a => ?_, ?_⟩
  · rw [hrd]; exact hw.value h
  · rw [hrd]; exact hw.others c hc
  · rw [State.me_modMe]; exact hw.registers p hp
  · exact hw.memory a
  · have e2 := wr_done_eq s i d v
    generalize hx : (s.wr d v).done i = x at *
    rw [e2]
    simp [State.modMe_eq_withMe]

/-- A floating-point instruction completes with its result and flags. -/
theorem gives_scalarF {s : State} {i : Instr} {d : BitVec 5} {srcs : List (BitVec 5)} {r r' : Word × BitVec 6} (he : exec i s = s.scalarF i d srcs r)
    (hw : wellFormed i = true) (hb : s.me.busy { regs := d :: srcs } = false) (hq : s.quiet r.2) (hr : r = r') : GivesF s i d r' := by
  subst hr
  refine ⟨_, ?_, scalarF_writes s i d r.1 r.2 hq⟩
  rw [he, State.scalarF, issue_ok hw hb]

/-- A variable-latency instruction leaves a reply on its way. -/
theorem replies_latent {s : State} {i : Instr} {d : BitVec 5} {srcs : List (BitVec 5)} {r r' : Word × BitVec 6} (he : exec i s = s.latent i d srcs r)
    (hl : ilen i = 4) (hw : wellFormed i = true) (hb : s.me.busy { regs := d :: srcs } = false) (hr : r = r') : Replies s i d r' := by
  subst hr
  unfold Replies
  rw [he, State.latent, issue_ok hw hb]
  simp only [State.done, hl, State.modMe_eq_withMe, State.me_withMe, State.withMe_withMe]
  congr 2

/-- A compare completes with its flag. -/
theorem Slot.f_setF_self (t : Slot) (f : BitVec 3) (b : Bool) : (t.setF f b).f f = b := by
  cases b <;> simp [Slot.f, Slot.setF, putBits, b1] <;> omega

theorem Slot.f_setF_ne (t : Slot) {f g : BitVec 3} (b : Bool) (h : g ≠ f) : (t.setF f b).f g = t.f g := by
  have h' : g.toNat ≠ f.toNat := fun e => h (BitVec.eq_of_toNat_eq e)
  have hg : g.toNat < 8 := by omega
  simp only [Slot.f, Slot.setF, putBits]
  rw [BitVec.getLsbD_or, BitVec.getLsbD_and, BitVec.getLsbD_not, BitVec.getLsbD_shiftLeft, BitVec.getLsbD_shiftLeft]
  simp only [BitVec.getLsbD_setWidth, hg, decide_true, Bool.true_and]
  by_cases hlt : g.toNat < f.toNat
  · simp [hlt]
  · have h1 : 1 ≤ g.toNat - f.toNat := by omega
    have h2 : ¬g.toNat - f.toNat = 0 := by omega
    simp [hlt, BitVec.getLsbD_of_ge (b1 b) _ h1, h2]

theorem gives_flag {s : State} {i : Instr} {m : BitVec 2} {f : BitVec 3} {srcs : List (BitVec 5)} {c b : Bool} (he : exec i s = s.compare i m f srcs c)
    (hl : ilen i = 4) (hw : wellFormed i = true) (hb : s.me.busy { regs := srcs, flags := [f] } = false) (hv : combine m (s.me.f f) c = b) : GivesFlag s i f b := by
  subst hv
  refine ⟨(s.modMe fun t => t.setF f (combine m (t.f f) c)).done i, ?_, ?_, ?_, ?_⟩
  · rw [he, State.compare, issue_ok hw hb]
  · simp only [State.done, State.me_modMe]
    exact Slot.f_setF_self _ _ _
  · intro g hg
    simp only [State.done, State.me_modMe]
    exact Slot.f_setF_ne _ _ hg
  · simp only [State.done, hl, State.modMe_eq_withMe, State.me_withMe, State.withMe_withMe]
    rfl

end Sys2Proof.Machine
end

