-- ==== Sys2Proof/Laws/Memory.lean ====
section
/-!
SUPPORT. Laws/Memory.lean: every operation on memory and stash keeps their one canonical form (log entry 2).
-/
namespace Sys2Proof.Machine

/-- What each step of a fold keeps, the fold keeps. -/
theorem foldl_keeps {α β : Type} {P : α → Prop} {f : α → β → α} (h : ∀ s x, P s → P (f s x)) (l : List β) (s : α) (hs : P s) : P (l.foldl f s) := by
  induction l generalizing s with
  | nil => exact hs
  | cons x l ih => exact ih _ (h s x hs)

theorem State.memoryOk_iff (s : State) : s.memoryOk = true ↔ s.mem.wf = true ∧ s.stash.wf = true ∧ s.empty.wf = true ∧ s.poison.wf = true ∧
    s.stashEmpty.wf = true ∧ s.stashPoison.wf = true := by
  simp only [State.memoryOk, Bool.and_eq_true, and_assoc]

/-- What leaves the six fields alone keeps the form. -/
theorem State.memoryOk_congr {s t : State} (hm : t.mem = s.mem) (hs : t.stash = s.stash) (he : t.empty = s.empty) (hp : t.poison = s.poison)
    (hse : t.stashEmpty = s.stashEmpty) (hsp : t.stashPoison = s.stashPoison) (h : s.memoryOk = true) : t.memoryOk = true := by
  unfold State.memoryOk at *
  rw [hm, hs, he, hp, hse, hsp]; exact h

theorem State.memWrite_memoryOk {w : Nat} {s : State} (a n : Nat) (v : BitVec w) (h : s.memoryOk = true) : (s.memWrite a n v).memoryOk = true := by
  rw [State.memoryOk_iff] at *
  exact ⟨Cells.wf_writeN a n v h.1, h.2⟩

theorem State.setFull_memoryOk {s : State} (a : Nat) (b : Bool) (h : s.memoryOk = true) : (s.setFull a b).memoryOk = true := by
  rw [State.memoryOk_iff] at *
  exact ⟨h.1, h.2.1, NSet.wf_put _ _ h.2.2.1, h.2.2.2⟩

theorem State.setPoison_memoryOk {s : State} (a : Nat) (b : Bool) (h : s.memoryOk = true) : (s.setPoison a b).memoryOk = true := by
  rw [State.memoryOk_iff] at *
  exact ⟨h.1, h.2.1, h.2.2.1, NSet.wf_put _ _ h.2.2.2.1, h.2.2.2.2⟩

theorem State.stashWrite_memoryOk {w : Nat} {s : State} (c off n : Nat) (v : BitVec w) (h : s.memoryOk = true) : (s.stashWrite c off n v).memoryOk = true := by
  rw [State.memoryOk_iff] at *
  exact ⟨h.1, Cells.wf_writeN _ n v h.2.1, h.2.2⟩

theorem State.setStashFull_memoryOk {s : State} (c off : Nat) (b : Bool) (h : s.memoryOk = true) : (s.setStashFull c off b).memoryOk = true := by
  rw [State.memoryOk_iff] at *
  exact ⟨h.1, h.2.1, h.2.2.1, h.2.2.2.1, NSet.wf_put _ _ h.2.2.2.2.1, h.2.2.2.2.2⟩

theorem State.setStashPoison_memoryOk {s : State} (c off : Nat) (b : Bool) (h : s.memoryOk = true) : (s.setStashPoison c off b).memoryOk = true := by
  rw [State.memoryOk_iff] at *
  exact ⟨h.1, h.2.1, h.2.2.1, h.2.2.2.1, h.2.2.2.2.1, NSet.wf_put _ _ h.2.2.2.2.2⟩

theorem State.stashCure_memoryOk {s : State} (c off n : Nat) (h : s.memoryOk = true) : (s.stashCure c off n).memoryOk = true := by
  unfold State.stashCure
  split
  · exact h
  · refine foldl_keeps (P := fun s : State => s.memoryOk = true) (fun s i hs => ?_) _ _ h
    split
    · exact State.setStashPoison_memoryOk _ _ _ hs
    · exact hs

theorem State.dropStashPoison_memoryOk {s : State} (c a b : Nat) (h : s.memoryOk = true) : (s.dropStashPoison c a b).memoryOk = true := by
  rw [State.memoryOk_iff] at *
  exact ⟨h.1, h.2.1, h.2.2.1, h.2.2.2.1, h.2.2.2.2.1, NSet.wf_filter _ h.2.2.2.2.2⟩

theorem State.unpoison_memoryOk {s : State} (a n : Nat) (h : s.memoryOk = true) : (s.unpoison a n).memoryOk = true :=
  foldl_keeps (P := fun s : State => s.memoryOk = true) (fun _ _ hs => State.setPoison_memoryOk _ _ hs) _ _ h

theorem State.writeSectors_memoryOk {s : State} (l : Nat) (m : BitVec 2) (d : BitVec 2048) (f p : BitVec 32) (h : s.memoryOk = true) :
    (s.writeSectors l m d f p).memoryOk = true := by
  refine foldl_keeps (P := fun s : State => s.memoryOk = true) (fun s j hs => ?_) _ _ h
  split
  · exact foldl_keeps (P := fun s : State => s.memoryOk = true) (fun _ _ hs => State.setPoison_memoryOk _ _ (State.setFull_memoryOk _ _ hs)) _ _
      (State.memWrite_memoryOk _ _ _ hs)
  · exact hs

/-! ### Copies recalled to their home (R160, R162; log entry 11) -/

@[simp] theorem State.memoryOk_modSlot (s : State) (k : Nat) (f : Slot → Slot) : (s.modSlot k f).memoryOk = s.memoryOk := rfl
@[simp] theorem State.memoryOk_modCore (s : State) (k : Nat) (f : Core → Core) : (s.modCore k f).memoryOk = s.memoryOk := rfl
@[simp] theorem State.memoryOk_modCrew (s : State) (k : Nat) (f : Crew → Crew) : (s.modCrew k f).memoryOk = s.memoryOk := rfl
@[simp] theorem State.memoryOk_modQuad (s : State) (k : Nat) (f : Quad → Quad) : (s.modQuad k f).memoryOk = s.memoryOk := rfl
@[simp] theorem State.memoryOk_modDie (s : State) (k : Nat) (f : Die → Die) : (s.modDie k f).memoryOk = s.memoryOk := rfl
@[simp] theorem State.memoryOk_modPkg (s : State) (k : Nat) (f : Pkg → Pkg) : (s.modPkg k f).memoryOk = s.memoryOk := rfl
@[simp] theorem State.memoryOk_modRegion (s : State) (c i : Nat) (f : Region → Region) : (s.modRegion c i f).memoryOk = s.memoryOk := rfl
@[simp] theorem State.memoryOk_setLine (s : State) (q l : Nat) (x : Line) : (s.setLine q l x).memoryOk = s.memoryOk := rfl
@[simp] theorem State.memoryOk_dropLine (s : State) (q l : Nat) : (s.dropLine q l).memoryOk = s.memoryOk := rfl
@[simp] theorem State.memoryOk_withMe (s : State) (t : Slot) : (s.withMe t).memoryOk = s.memoryOk := rfl

theorem State.pullRegionLine_memoryOk {s : State} (c i l : Nat) (keep : Bool) (h : s.memoryOk = true) : (s.pullRegionLine c i l keep).memoryOk = true := by
  unfold State.pullRegionLine
  simp only [State.memoryOk_modRegion]
  refine foldl_keeps (P := fun s : State => s.memoryOk = true) (fun s h' hs => ?_) _ _ h
  repeat' split
  all_goals first
    | exact hs
    | exact State.writeSectors_memoryOk _ _ _ _ _ hs

theorem State.pullQuadLine_memoryOk {s : State} (q l : Nat) (keep : Bool) (h : s.memoryOk = true) : (s.pullQuadLine q l keep).memoryOk = true := by
  refine foldl_keeps (P := fun s : State => s.memoryOk = true) (fun s c hs => ?_) _ _ h
  refine foldl_keeps (P := fun s : State => s.memoryOk = true) (fun s i hs => ?_) _ _ hs
  split
  · exact State.pullRegionLine_memoryOk _ _ _ _ hs
  · exact hs

@[simp] theorem State.memoryOk_settleLine (s : State) (l : Nat) : (s.settleLine l).memoryOk = s.memoryOk := by
  unfold State.settleLine
  split <;> rfl

theorem State.homeClean_memoryOk {s : State} (l : Nat) (h : s.memoryOk = true) : (s.homeClean l).memoryOk = true := by
  rw [← State.memoryOk_settleLine s l] at h
  unfold State.homeClean
  refine foldl_keeps (P := fun s : State => s.memoryOk = true) (fun s q hs => ?_) _ _ h
  have hp := State.pullQuadLine_memoryOk q l false hs
  dsimp only
  split
  · split
    · rw [State.memoryOk_modDie, State.memoryOk_setLine]
      exact State.writeSectors_memoryOk _ _ _ _ _ hp
    · exact hp
  · exact hp

theorem State.homeObtain_memoryOk {s : State} (l : Nat) (h : s.memoryOk = true) : (s.homeObtain l).memoryOk = true := by
  rw [← State.memoryOk_settleLine s l] at h
  unfold State.homeObtain
  simp only [State.memoryOk_modDie]
  refine foldl_keeps (P := fun s : State => s.memoryOk = true) (fun s q hs => ?_) _ _ h
  have hp := State.pullQuadLine_memoryOk q l false hs
  split
  · rw [State.memoryOk_dropLine]
    split
    · exact State.writeSectors_memoryOk _ _ _ _ _ hp
    · exact hp
  · exact hp

theorem State.agentClean_memoryOk {s : State} (a n : Nat) (h : s.memoryOk = true) : (s.agentClean a n).memoryOk = true :=
  foldl_keeps (P := fun s : State => s.memoryOk = true) (fun _ _ hs => State.homeClean_memoryOk _ hs) _ _ h

theorem State.agentObtain_memoryOk {s : State} (a n : Nat) (h : s.memoryOk = true) : (s.agentObtain a n).memoryOk = true :=
  foldl_keeps (P := fun s : State => s.memoryOk = true) (fun _ _ hs => State.homeObtain_memoryOk _ hs) _ _ h

theorem State.agentWrite_memoryOk {w : Nat} {s : State} (a n : Nat) (v : BitVec w) (h : s.memoryOk = true) : (s.agentWrite a n v).memoryOk = true :=
  State.unpoison_memoryOk _ _ (State.memWrite_memoryOk _ _ _ (State.agentObtain_memoryOk _ _ h))

theorem State.storeDwords_memoryOk {s : State} (a : Nat) (ws : List Word) (h : s.memoryOk = true) : (s.storeDwords a ws).memoryOk = true := by
  induction ws generalizing s a with
  | nil => exact h
  | cons w ws ih => exact ih _ (State.agentWrite_memoryOk _ _ _ h)

theorem State.writeRing_memoryOk {s : State} (peer : Nat) (m : Message) (h : s.memoryOk = true) : (s.writeRing peer m).memoryOk = true := by
  unfold State.writeRing
  simp only [State.memoryOk_modSlot, State.memoryOk_modDie]
  exact State.storeDwords_memoryOk _ _ h

theorem State.post_memoryOk {s : State} (peer : Nat) (m : Message) (h : s.memoryOk = true) : (s.post peer m).memoryOk = true := by
  unfold State.post
  dsimp only
  split
  · exact State.writeRing_memoryOk _ _ (by simpa using h)
  · simpa using h

/-! ### Images and stores from outside -/

theorem Cells.wf_foldl_write {β : Type} (l : List β) (f : β → Nat) (g : β → Byte) (m : Cells) (h : m.wf = true) :
    Cells.wf (l.foldl (fun m e => m.write (f e) (g e)) m) = true :=
  foldl_keeps (P := fun m : Cells => m.wf = true) (fun _ _ hm => Cells.wf_write _ _ hm) _ _ h

theorem NSet.wf_foldl_insert (l : List Nat) (m : NSet) (h : m.wf = true) : NSet.wf (l.foldl (fun n x => n.insert x) m) = true :=
  foldl_keeps (P := fun m : NSet => m.wf = true) (fun _ _ hm => NSet.wf_insert _ hm) _ _ h

theorem State.putImage_memoryOk {s : State} (a n : Nat) (img : Cells) (h : s.memoryOk = true) : (s.putImage a n img).memoryOk = true := by
  unfold State.putImage
  have h' := foldl_keeps (P := fun s : State => s.memoryOk = true) (f := fun s (e : Nat × DirEntry) => s.homeObtain e.1)
    (fun _ _ hs => State.homeObtain_memoryOk _ hs) ((s.die (paPeer a)).dir.filter fun e => a / 256 ≤ e.1 && e.1 < (a + n + 255) / 256) s h
  rw [State.memoryOk_iff] at h' ⊢
  exact ⟨Cells.wf_foldl_write _ _ _ _ (Cells.wf_filter _ h'.1), h'.2.1, h'.2.2.1, NSet.wf_filter _ h'.2.2.2.1, h'.2.2.2.2⟩

theorem State.getImage_memoryOk {s : State} (a n : Nat) (h : s.memoryOk = true) : (s.getImage a n).1.memoryOk = true :=
  foldl_keeps (P := fun s : State => s.memoryOk = true) (fun _ _ hs => State.homeClean_memoryOk _ hs) _ _ h

theorem State.restoreStash_memoryOk {s : State} (c : Nat) (m : Cells) (a b : Nat) (h : s.memoryOk = true) : (s.restoreStash c m a b).memoryOk = true := by
  rw [State.memoryOk_iff] at *
  unfold State.restoreStash
  refine ⟨h.1, Cells.wf_foldl_write _ _ _ _ (Cells.wf_filter _ h.2.1), h.2.2.1, h.2.2.2.1, ?_, NSet.wf_filter _ h.2.2.2.2.2⟩
  dsimp only
  generalize List.range 32768 = r
  refine foldl_keeps (P := fun m : NSet => m.wf = true) (fun n w hn => ?_) _ _ (NSet.wf_filter _ h.2.2.2.2.1)
  split
  · exact hn
  · exact NSet.wf_insert _ hn

theorem State.wipeStash_memoryOk {s : State} (c : Nat) (h : s.memoryOk = true) : (s.wipeStash c).memoryOk = true := by
  unfold State.wipeStash
  simp only [State.memoryOk_modCrew]
  rw [State.memoryOk_iff] at *
  exact ⟨h.1, Cells.wf_filter _ h.2.1, h.2.2.1, h.2.2.2.1, NSet.wf_filter _ h.2.2.2.2.1, NSet.wf_filter _ h.2.2.2.2.2⟩

theorem State.mergeOdd_memoryOk {even odd : State} (k : Nat) (h : even.memoryOk = true) : (even.mergeOdd odd k).memoryOk = true := by
  rw [State.memoryOk_iff] at *
  exact ⟨h.1, Cells.wf_foldl_write _ _ _ _ (Cells.wf_filter _ h.2.1), h.2.2.1, h.2.2.2.1, NSet.wf_foldl_insert _ _ (NSet.wf_filter _ h.2.2.2.2.1),
    NSet.wf_foldl_insert _ _ (NSet.wf_filter _ h.2.2.2.2.2)⟩

theorem State.clearBuffer_memoryOk {s : State} (p : Nat) (h : s.memoryOk = true) : (s.clearBuffer p).memoryOk = true := by
  have h' := State.putImage_memoryOk (paOf (4 * p) bufferAt) bufferBytes [] h
  unfold State.clearBuffer
  rw [State.memoryOk_iff] at *
  exact ⟨h'.1, h'.2.1, NSet.wf_filter _ h'.2.2.1, h'.2.2.2⟩

theorem State.hostStores_memoryOk {s : State} (a : Nat) (bs : List Byte) (h : s.memoryOk = true) : (s.hostStores a bs).memoryOk = true := by
  rw [State.memoryOk_iff] at *
  exact ⟨Cells.wf_writeList _ _ h.1, h.2⟩

theorem State.placeAt_memoryOk {s : State} (k : Nat) (bs : List Byte) (h : s.memoryOk = true) : (s.placeAt k bs).memoryOk = true := by
  rw [State.memoryOk_iff] at *
  unfold State.placeAt
  refine ⟨Cells.wf_writeList _ _ ?_, ?_, ?_, NSet.wf_filter _ ?_, ?_, ?_⟩ <;> (dsimp only; split <;> simp [h])

theorem reset_memoryOk : State.reset.memoryOk = true := by decide

end Sys2Proof.Machine
end

