-- ==== Sys2Proof/Laws/PerInstr.lean ====
section
/-!
SUPPORT. Laws/PerInstr.lean: the round trip of each instruction through the encoder and the decoder (R232 to R252), one lemma per constructor.
-/
set_option maxRecDepth 8000
namespace Sys2Proof.Laws

/-! ### Fields of a word -/

theorem bits_or {n : Nat} (x y : BitVec n) (lo w : Nat) : bits (x ||| y) lo w = bits x lo w ||| bits y lo w := by
  apply BitVec.eq_of_getLsbD_eq
  intro i hi
  simp [bits, hi]

theorem bits_fld_self {n : Nat} (x : BitVec n) (lo : Nat) (h : lo + n ≤ 32) : bits (fld x lo) lo n = x := by
  apply BitVec.eq_of_getLsbD_eq
  intro i hi
  have : lo + i < 32 := by omega
  simp [bits, fld, hi, this]

theorem bits_fld_ne {n : Nat} (x : BitVec n) (lo l w : Nat) (h : lo + n ≤ l ∨ l + w ≤ lo) : bits (fld x lo) l w = 0#w := by
  apply BitVec.eq_of_getLsbD_eq
  intro i hi
  simp only [bits, fld, BitVec.getLsbD_extractLsb', hi, decide_true, Bool.true_and, BitVec.getLsbD_shiftLeft, BitVec.getLsbD_setWidth]
  rcases h with h | h
  · rw [BitVec.getLsbD_of_ge x _ (by omega)]; simp
  · simp [show l + i < lo by omega]

theorem fld_and {n : Nat} (x : BitVec n) (lo : Nat) (m : BitVec 32) (h : fld (BitVec.allOnes n) lo &&& m = 0) : fld x lo &&& m = 0#32 := by
  apply BitVec.eq_of_getLsbD_eq
  intro i hi
  have h' := congrArg (fun y : BitVec 32 => y.getLsbD i) h
  simp only [fld, BitVec.getLsbD_and, BitVec.getLsbD_shiftLeft, BitVec.getLsbD_setWidth, BitVec.getLsbD_allOnes] at h' ⊢
  by_cases hb : i - lo < n
  · simp only [hb, decide_true] at h'
    cases hx : x.getLsbD (i - lo)
    · simp
    · simpa [hx] using h'
  · rw [BitVec.getLsbD_of_ge x _ (by omega)]; simp

/-! ### The maps' rows do not overlap -/

/-- No word carries the fixed bits of both rows; a row is its mask and its pattern. -/
def apart (r r' : Nat × Nat) : Bool := !Nat.beq (Nat.land (Nat.land r.1 r'.1) (Nat.xor r.2 r'.2)) 0

/-- Every row is apart from the later ones. -/
def allApart : List (Nat × Nat) → Bool
  | [] => true
  | r :: l => l.all (apart r) && allApart l

theorem allApart_get {l : List (Nat × Nat)} (h : allApart l = true) {i j : Nat} (hij : i < j) (hj : j < l.length) : apart (l[i]) (l[j]) = true := by
  induction l generalizing i j with
  | nil => simp at hj
  | cons r l ih =>
    simp only [allApart, Bool.and_eq_true, List.all_eq_true] at h
    cases j with
    | zero => omega
    | succ j =>
      cases i with
      | zero => simpa using h.1 _ (List.getElem_mem (by simpa using hj))
      | succ i => simpa using ih h.2 (by omega) (by simpa using hj)

theorem rows_apart : allApart (rows.map fun r => (r.mask.toNat, r.pat.toNat)) = true := by decide +kernel

theorem shortRows_apart : allApart (shortRows.map fun r => (r.mask.toNat, r.pat.toNat)) = true := by decide +kernel

theorem apart_miss {n : Nat} {m p m' p' w : BitVec n} (h : apart (m.toNat, p.toNat) (m'.toNat, p'.toNat) = true) (hw : w &&& m' = p') : w &&& m ≠ p := by
  rintro rfl
  subst hw
  have e : m &&& m' &&& (w &&& m ^^^ w &&& m') = 0 := by
    apply BitVec.eq_of_getLsbD_eq
    intro i hi
    simp only [BitVec.getLsbD_and, BitVec.getLsbD_xor]
    cases m.getLsbD i <;> cases m'.getLsbD i <;> simp
  have e' : (m.toNat &&& m'.toNat) &&& ((w.toNat &&& m.toNat) ^^^ (w.toNat &&& m'.toNat)) = 0 := by
    have := congrArg BitVec.toNat e
    simp only [BitVec.toNat_and, BitVec.toNat_xor] at this
    exact this
  rw [BitVec.toNat_and, BitVec.toNat_and] at h
  have h' : Nat.beq ((m.toNat &&& m'.toNat) &&& ((w.toNat &&& m.toNat) ^^^ (w.toNat &&& m'.toNat))) 0 = false := by
    simpa [apart] using h
  rw [e'] at h'
  exact absurd h' (by decide)

/-- A word that carries a row's fixed bits is read by that row. -/
theorem decode32_row {k : Nat} {r : Row} {w : BitVec 32} (hk : rows[k]? = some r) (hw : w &&& r.mask = r.pat) : decode32 w = .ok (r.make w) := by
  obtain ⟨hl, hr⟩ := List.getElem?_eq_some_iff.1 hk
  have : rows.find? (·.hits w) = some r := by
    rw [List.find?_eq_some_iff_getElem]
    refine ⟨by simp [Row.hits, hw], k, hl, hr, fun j hj => ?_⟩
    have ha := allApart_get rows_apart (i := j) (j := k) hj (by simpa using hl)
    simp only [List.getElem_map, hr] at ha
    have := apart_miss ha hw
    simpa [Row.hits] using this
  simp only [decode32, this]

/-- A halfword that carries a short row's fixed bits is read by that row. -/
theorem decode16_row {k : Nat} {r : ShortRow} {w : BitVec 16} (h0 : w ≠ 0) (hk : shortRows[k]? = some r) (hw : w &&& r.mask = r.pat) :
    decode16 w = .ok (r.make w) := by
  obtain ⟨hl, hr⟩ := List.getElem?_eq_some_iff.1 hk
  have : shortRows.find? (·.hits w) = some r := by
    rw [List.find?_eq_some_iff_getElem]
    refine ⟨by simp [ShortRow.hits, hw], k, hl, hr, fun j hj => ?_⟩
    have ha := allApart_get shortRows_apart (i := j) (j := k) hj (by simpa using hl)
    simp only [List.getElem_map, hr] at ha
    have := apart_miss ha hw
    simpa [ShortRow.hits] using this
  simp only [decode16, h0, if_false, this]

/-! ### Bytes -/

theorem ofNat_toNat_bits {n : Nat} (w : BitVec n) (lo : Nat) : BitVec.ofNat 8 (w.toNat / 2 ^ lo) = bits w lo 8 := by
  apply BitVec.eq_of_toNat_eq
  simp [bits, BitVec.extractLsb'_toNat, Nat.shiftRight_eq_div_pow]

theorem tableBytes4 (w : BitVec 32) : tableBytes w.toNat 4 = [bits w 0 8, bits w 8 8, bits w 16 8, bits w 24 8] := by
  simp only [tableBytes, Nat.div_div_eq_div_mul]
  rw [← ofNat_toNat_bits, ← ofNat_toNat_bits, ← ofNat_toNat_bits, ← ofNat_toNat_bits]
  simp

theorem tableBytes2 (w : BitVec 32) : tableBytes w.toNat 2 = [bits w 0 8, bits w 8 8] := by
  simp only [tableBytes]
  rw [← ofNat_toNat_bits, ← ofNat_toNat_bits]
  simp

theorem low_half (w : BitVec 32) : halfword (bits w 0 8) (bits w 8 8) = w.setWidth 16 := by
  apply BitVec.eq_of_getLsbD_eq
  intro i hi
  simp only [halfword, bits, BitVec.getLsbD_append, BitVec.getLsbD_extractLsb', BitVec.getLsbD_setWidth, hi, decide_true, Bool.true_and, Nat.zero_add]
  split
  · next h => simp [h]
  · next h => rw [decide_eq_true (by omega), Bool.true_and, show 8 + (i - 8) = i by omega]

theorem halves (w : BitVec 32) : halfword (bits w 16 8) (bits w 24 8) ++ w.setWidth 16 = w := by
  apply BitVec.eq_of_getLsbD_eq
  intro i hi
  simp only [halfword, bits, BitVec.getLsbD_append, BitVec.getLsbD_extractLsb', BitVec.getLsbD_setWidth]
  split
  · next h => simp [h]
  · next h =>
    split
    · next h2 => rw [decide_eq_true (by omega), Bool.true_and, show 16 + (i - 16) = i by omega]
    · next h2 => rw [decide_eq_true (by omega), Bool.true_and, show 24 + (i - 16 - 8) = i by omega]

/-- The row fixes bit 0 to 1 and the major to one in use (R232, R233). -/
def longRow (r : Row) : Bool := r.mask &&& 0x7F == 0x7F && r.pat.getLsbD 0 && !(decide ((0x2E : BitVec 6) ≤ bits r.pat 1 6) && decide ((bits r.pat 1 6 : BitVec 6) ≤ 0x3E))

theorem low_bits {w m p : BitVec 32} (hm : m &&& 0x7F = 0x7F) (hw : w &&& m = p) (i : Nat) (hi : i < 7) : w.getLsbD i = p.getLsbD i := by
  have h1 := congrArg (fun y : BitVec 32 => y.getLsbD i) hm
  have h2 : (0x7F : BitVec 32).getLsbD i = true := by interval_cases i <;> rfl
  simp only [BitVec.getLsbD_and, h2, Bool.and_true] at h1
  rw [← hw, BitVec.getLsbD_and, h1, Bool.and_true]

/-- A long instruction's bytes decode to what its row makes of its word. -/
theorem decode_long {k : Nat} {r : Row} {w : BitVec 32} (rest : List Byte) (hk : rows[k]? = some r) (hl : longRow r = true) (hw : w &&& r.mask = r.pat) :
    decode (tableBytes w.toNat 4 ++ rest) = .ok (r.make w, 4) := by
  simp only [longRow, Bool.and_eq_true, beq_iff_eq, Bool.not_eq_true', Bool.and_eq_false_iff, decide_eq_false_iff_not] at hl
  obtain ⟨⟨hm, h0⟩, hr⟩ := hl
  have low := low_bits hm hw
  have b0 : (w.setWidth 16).getLsbD 0 = true := by simp [low 0 (by omega), h0]
  have maj : (bits (w.setWidth 16) 1 6 : BitVec 6) = bits r.pat 1 6 := by
    apply BitVec.eq_of_getLsbD_eq
    intro i hi
    simp only [bits, BitVec.getLsbD_extractLsb', hi, decide_true, Bool.true_and, BitVec.getLsbD_setWidth]
    rw [decide_eq_true (by omega), Bool.true_and, low _ (by omega)]
  have hne : w.setWidth 16 ≠ 0 := by intro e; rw [e] at b0; simp at b0
  have hf : firstReject (w.setWidth 16) = none := by
    unfold firstReject
    rw [if_neg hne, maj, if_neg (by rintro ⟨-, h1, h2⟩; rcases hr with hr | hr; exact hr h1; exact hr h2)]
  rw [tableBytes4]
  simp only [List.cons_append, List.nil_append, decode, halves, low_half, hf, isLong, b0, if_true, decode32_row hk hw]
  rfl

/-- A 16-bit form's bytes decode to what its row makes of its halfword. -/
theorem decode_short {k : Nat} {r : ShortRow} {w : BitVec 32} (rest : List Byte) (h0 : w.setWidth 16 ≠ 0) (hk : shortRows[k]? = some r)
    (hm : r.mask.getLsbD 0 = true ∧ r.pat.getLsbD 0 = false) (hw : w.setWidth 16 &&& r.mask = r.pat) :
    decode (tableBytes w.toNat 2 ++ rest) = .ok (r.make (w.setWidth 16), 2) := by
  have b0 : (w.setWidth 16).getLsbD 0 = false := by
    have := congrArg (fun y : BitVec 16 => y.getLsbD 0) hw
    simpa only [BitVec.getLsbD_and, hm.1, hm.2, Bool.and_true] using this
  have hf : firstReject (w.setWidth 16) = none := by
    unfold firstReject
    rw [if_neg h0, b0]; simp
  rw [tableBytes2]
  simp only [List.cons_append, List.nil_append, decode, low_half, hf, isLong, b0, decode16_row h0 hk hw]
  rfl
theorem or_and {x y m p : BitVec 32} (hx : x &&& m = p) (hy : y &&& m = 0#32) : (x ||| y) &&& m = p := by
  rw [BitVec.and_or_distrib_right, hx, hy, BitVec.or_zero]

theorem bits_skip {x : BitVec 32} {l w n : Nat} {v : BitVec w} (y : BitVec n) (lo : Nat) (h : (Nat.ble (lo + n) l || Nat.ble (l + w) lo) = true)
    (hx : bits x l w = v) : bits (x ||| fld y lo) l w = v := by
  rw [bits_or, hx, bits_fld_ne _ _ _ _ (by simpa [Nat.ble_eq] using h), BitVec.or_zero]

theorem bits_take {x : BitVec 32} {l w : Nat} (y : BitVec w) (h : Nat.ble (l + w) 32 = true) (hx : bits x l w = 0#w) : bits (x ||| fld y l) l w = y := by
  rw [bits_or, hx, bits_fld_self _ _ (by simpa [Nat.ble_eq] using h), BitVec.zero_or]

/-- An instruction comes back from its bytes, whatever follows them. -/
def RoundTrip.Statement (i : Instr) : Prop :=
  wellFormed i = true → ∀ rest, decode (tableBytes (encode i).toNat (ilen i) ++ rest) = .ok (i, ilen i)

theorem trip_long (k : Nat) {r : Row} {i : Instr} {w : BitVec 32} (hk : rows[k]? = some r) (hs : isShort i = false) (hl : longRow r = true)
    (he : encode i = w) (hm : w &&& r.mask = r.pat) (hi : r.make w = i) : RoundTrip.Statement i := by
  intro _ rest
  subst he
  have h := decode_long rest hk hl hm
  rw [hi] at h
  have e : ilen i = 4 := by simp [ilen, hs]
  rw [e]; exact h

theorem trip_short (k : Nat) {r : ShortRow} {i : Instr} {w : BitVec 32} (hk : shortRows[k]? = some r) (hs : isShort i = true)
    (hl : r.mask.getLsbD 0 = true ∧ r.pat.getLsbD 0 = false) (he : encode i = w) (h0 : wellFormed i = true → w.setWidth 16 ≠ 0)
    (hm : w.setWidth 16 &&& r.mask = r.pat) (hi : r.make (w.setWidth 16) = i) : RoundTrip.Statement i := by
  intro hw rest
  subst he
  have h := decode_short rest (h0 hw) hk hl hm
  rw [hi] at h
  have e : ilen i = 2 := by simp [ilen, hs]
  rw [e]; exact h

theorem bits_low (x : BitVec 32) (lo w : Nat) (h : lo + w ≤ 16) : bits (x.setWidth 16) lo w = bits x lo w := by
  apply BitVec.eq_of_getLsbD_eq
  intro i hi
  simp only [bits, BitVec.getLsbD_extractLsb', hi, decide_true, Bool.true_and, BitVec.getLsbD_setWidth]
  rw [decide_eq_true (by omega), Bool.true_and]

theorem low_and (x : BitVec 32) (m p : BitVec 16) (h : x &&& m.setWidth 32 = p.setWidth 32) : x.setWidth 16 &&& m = p := by
  have := congrArg (fun y : BitVec 32 => y.setWidth 16) h
  simpa [BitVec.setWidth_and] using this

/-- A 16-bit form whose operation is not 0 is no zero halfword. -/
theorem short_ne {x : BitVec 32} {p : BitVec 16} (h : x.setWidth 16 &&& 0x1F = p) (hp : p ≠ 0) : x.setWidth 16 ≠ 0 := by
  intro e; rw [e] at h; exact hp (by rw [← h]; rfl)

/-- VMOV's short form is the zero halfword only where every field is 0 (R233). -/
theorem vmovShort_ne {x : BitVec 32} (k : BitVec 3) (s d : BitVec 4) (hk : bits x 13 3 = k) (hs : bits x 9 4 = s) (hd : bits x 5 4 = d)
    (h : wellFormed (.vmovShort k s d) = true) : x.setWidth 16 ≠ (0 : BitVec 16) := by
  intro e
  have h1 : ∀ lo w, lo + w ≤ 16 → (bits x lo w : BitVec w) = 0 := fun lo w hl => by
    rw [← bits_low _ _ _ hl, e]; apply BitVec.eq_of_getLsbD_eq; intro i hi; simp [bits]
  rw [h1 _ _ (by decide)] at hk hs hd
  simp [wellFormed, ← hk, ← hs, ← hd] at h

/-! ### One lemma per constructor -/

theorem RoundTrip.add (d : BitVec 5) (a : BitVec 5) (b : BitVec 5) : RoundTrip.Statement (.add d a b) := 
  trip_long (w := 0x00000001 ||| fld d 27 ||| fld a 22 ||| fld b 17) 0 rfl rfl rfl rfl (or_and (or_and (or_and rfl (fld_and d _ _ rfl)) (fld_and a _ _ rfl)) (fld_and b _ _ rfl))
    (congr (congr (congrArg Instr.add (bits_skip b 17 rfl (bits_skip a 22 rfl (bits_take d rfl rfl)))) (bits_skip b 17 rfl (bits_take a rfl (bits_skip d 27 rfl rfl)))) (bits_take b rfl (bits_skip a 22 rfl (bits_skip d 27 rfl rfl))))
theorem RoundTrip.sub (d : BitVec 5) (a : BitVec 5) (b : BitVec 5) : RoundTrip.Statement (.sub d a b) := 
  trip_long (w := 0x00000081 ||| fld d 27 ||| fld a 22 ||| fld b 17) 1 rfl rfl rfl rfl (or_and (or_and (or_and rfl (fld_and d _ _ rfl)) (fld_and a _ _ rfl)) (fld_and b _ _ rfl))
    (congr (congr (congrArg Instr.sub (bits_skip b 17 rfl (bits_skip a 22 rfl (bits_take d rfl rfl)))) (bits_skip b 17 rfl (bits_take a rfl (bits_skip d 27 rfl rfl)))) (bits_take b rfl (bits_skip a 22 rfl (bits_skip d 27 rfl rfl))))
theorem RoundTrip.mul (d : BitVec 5) (a : BitVec 5) (b : BitVec 5) : RoundTrip.Statement (.mul d a b) := 
  trip_long (w := 0x00000101 ||| fld d 27 ||| fld a 22 ||| fld b 17) 2 rfl rfl rfl rfl (or_and (or_and (or_and rfl (fld_and d _ _ rfl)) (fld_and a _ _ rfl)) (fld_and b _ _ rfl))
    (congr (congr (congrArg Instr.mul (bits_skip b 17 rfl (bits_skip a 22 rfl (bits_take d rfl rfl)))) (bits_skip b 17 rfl (bits_take a rfl (bits_skip d 27 rfl rfl)))) (bits_take b rfl (bits_skip a 22 rfl (bits_skip d 27 rfl rfl))))
theorem RoundTrip.mulh (d : BitVec 5) (a : BitVec 5) (b : BitVec 5) : RoundTrip.Statement (.mulh d a b) := 
  trip_long (w := 0x00000181 ||| fld d 27 ||| fld a 22 ||| fld b 17) 3 rfl rfl rfl rfl (or_and (or_and (or_and rfl (fld_and d _ _ rfl)) (fld_and a _ _ rfl)) (fld_and b _ _ rfl))
    (congr (congr (congrArg Instr.mulh (bits_skip b 17 rfl (bits_skip a 22 rfl (bits_take d rfl rfl)))) (bits_skip b 17 rfl (bits_take a rfl (bits_skip d 27 rfl rfl)))) (bits_take b rfl (bits_skip a 22 rfl (bits_skip d 27 rfl rfl))))
theorem RoundTrip.mulhn (d : BitVec 5) (a : BitVec 5) (b : BitVec 5) : RoundTrip.Statement (.mulhn d a b) := 
  trip_long (w := 0x00000201 ||| fld d 27 ||| fld a 22 ||| fld b 17) 4 rfl rfl rfl rfl (or_and (or_and (or_and rfl (fld_and d _ _ rfl)) (fld_and a _ _ rfl)) (fld_and b _ _ rfl))
    (congr (congr (congrArg Instr.mulhn (bits_skip b 17 rfl (bits_skip a 22 rfl (bits_take d rfl rfl)))) (bits_skip b 17 rfl (bits_take a rfl (bits_skip d 27 rfl rfl)))) (bits_take b rfl (bits_skip a 22 rfl (bits_skip d 27 rfl rfl))))
theorem RoundTrip.div (d : BitVec 5) (a : BitVec 5) (b : BitVec 5) : RoundTrip.Statement (.div d a b) := 
  trip_long (w := 0x00000281 ||| fld d 27 ||| fld a 22 ||| fld b 17) 5 rfl rfl rfl rfl (or_and (or_and (or_and rfl (fld_and d _ _ rfl)) (fld_and a _ _ rfl)) (fld_and b _ _ rfl))
    (congr (congr (congrArg Instr.div (bits_skip b 17 rfl (bits_skip a 22 rfl (bits_take d rfl rfl)))) (bits_skip b 17 rfl (bits_take a rfl (bits_skip d 27 rfl rfl)))) (bits_take b rfl (bits_skip a 22 rfl (bits_skip d 27 rfl rfl))))
theorem RoundTrip.divn (d : BitVec 5) (a : BitVec 5) (b : BitVec 5) : RoundTrip.Statement (.divn d a b) := 
  trip_long (w := 0x00000301 ||| fld d 27 ||| fld a 22 ||| fld b 17) 6 rfl rfl rfl rfl (or_and (or_and (or_and rfl (fld_and d _ _ rfl)) (fld_and a _ _ rfl)) (fld_and b _ _ rfl))
    (congr (congr (congrArg Instr.divn (bits_skip b 17 rfl (bits_skip a 22 rfl (bits_take d rfl rfl)))) (bits_skip b 17 rfl (bits_take a rfl (bits_skip d 27 rfl rfl)))) (bits_take b rfl (bits_skip a 22 rfl (bits_skip d 27 rfl rfl))))
theorem RoundTrip.rem (d : BitVec 5) (a : BitVec 5) (b : BitVec 5) : RoundTrip.Statement (.rem d a b) := 
  trip_long (w := 0x00000381 ||| fld d 27 ||| fld a 22 ||| fld b 17) 7 rfl rfl rfl rfl (or_and (or_and (or_and rfl (fld_and d _ _ rfl)) (fld_and a _ _ rfl)) (fld_and b _ _ rfl))
    (congr (congr (congrArg Instr.rem (bits_skip b 17 rfl (bits_skip a 22 rfl (bits_take d rfl rfl)))) (bits_skip b 17 rfl (bits_take a rfl (bits_skip d 27 rfl rfl)))) (bits_take b rfl (bits_skip a 22 rfl (bits_skip d 27 rfl rfl))))
theorem RoundTrip.remn (d : BitVec 5) (a : BitVec 5) (b : BitVec 5) : RoundTrip.Statement (.remn d a b) := 
  trip_long (w := 0x00000401 ||| fld d 27 ||| fld a 22 ||| fld b 17) 8 rfl rfl rfl rfl (or_and (or_and (or_and rfl (fld_and d _ _ rfl)) (fld_and a _ _ rfl)) (fld_and b _ _ rfl))
    (congr (congr (congrArg Instr.remn (bits_skip b 17 rfl (bits_skip a 22 rfl (bits_take d rfl rfl)))) (bits_skip b 17 rfl (bits_take a rfl (bits_skip d 27 rfl rfl)))) (bits_take b rfl (bits_skip a 22 rfl (bits_skip d 27 rfl rfl))))
theorem RoundTrip.and (d : BitVec 5) (a : BitVec 5) (b : BitVec 5) : RoundTrip.Statement (.and d a b) := 
  trip_long (w := 0x00000481 ||| fld d 27 ||| fld a 22 ||| fld b 17) 9 rfl rfl rfl rfl (or_and (or_and (or_and rfl (fld_and d _ _ rfl)) (fld_and a _ _ rfl)) (fld_and b _ _ rfl))
    (congr (congr (congrArg Instr.and (bits_skip b 17 rfl (bits_skip a 22 rfl (bits_take d rfl rfl)))) (bits_skip b 17 rfl (bits_take a rfl (bits_skip d 27 rfl rfl)))) (bits_take b rfl (bits_skip a 22 rfl (bits_skip d 27 rfl rfl))))
theorem RoundTrip.or (d : BitVec 5) (a : BitVec 5) (b : BitVec 5) : RoundTrip.Statement (.or d a b) := 
  trip_long (w := 0x00000501 ||| fld d 27 ||| fld a 22 ||| fld b 17) 10 rfl rfl rfl rfl (or_and (or_and (or_and rfl (fld_and d _ _ rfl)) (fld_and a _ _ rfl)) (fld_and b _ _ rfl))
    (congr (congr (congrArg Instr.or (bits_skip b 17 rfl (bits_skip a 22 rfl (bits_take d rfl rfl)))) (bits_skip b 17 rfl (bits_take a rfl (bits_skip d 27 rfl rfl)))) (bits_take b rfl (bits_skip a 22 rfl (bits_skip d 27 rfl rfl))))
theorem RoundTrip.xor (d : BitVec 5) (a : BitVec 5) (b : BitVec 5) : RoundTrip.Statement (.xor d a b) := 
  trip_long (w := 0x00000581 ||| fld d 27 ||| fld a 22 ||| fld b 17) 11 rfl rfl rfl rfl (or_and (or_and (or_and rfl (fld_and d _ _ rfl)) (fld_and a _ _ rfl)) (fld_and b _ _ rfl))
    (congr (congr (congrArg Instr.xor (bits_skip b 17 rfl (bits_skip a 22 rfl (bits_take d rfl rfl)))) (bits_skip b 17 rfl (bits_take a rfl (bits_skip d 27 rfl rfl)))) (bits_take b rfl (bits_skip a 22 rfl (bits_skip d 27 rfl rfl))))
theorem RoundTrip.andn (d : BitVec 5) (a : BitVec 5) (b : BitVec 5) : RoundTrip.Statement (.andn d a b) := 
  trip_long (w := 0x00000601 ||| fld d 27 ||| fld a 22 ||| fld b 17) 12 rfl rfl rfl rfl (or_and (or_and (or_and rfl (fld_and d _ _ rfl)) (fld_and a _ _ rfl)) (fld_and b _ _ rfl))
    (congr (congr (congrArg Instr.andn (bits_skip b 17 rfl (bits_skip a 22 rfl (bits_take d rfl rfl)))) (bits_skip b 17 rfl (bits_take a rfl (bits_skip d 27 rfl rfl)))) (bits_take b rfl (bits_skip a 22 rfl (bits_skip d 27 rfl rfl))))
theorem RoundTrip.shl (d : BitVec 5) (a : BitVec 5) (b : BitVec 5) : RoundTrip.Statement (.shl d a b) := 
  trip_long (w := 0x00000681 ||| fld d 27 ||| fld a 22 ||| fld b 17) 13 rfl rfl rfl rfl (or_and (or_and (or_and rfl (fld_and d _ _ rfl)) (fld_and a _ _ rfl)) (fld_and b _ _ rfl))
    (congr (congr (congrArg Instr.shl (bits_skip b 17 rfl (bits_skip a 22 rfl (bits_take d rfl rfl)))) (bits_skip b 17 rfl (bits_take a rfl (bits_skip d 27 rfl rfl)))) (bits_take b rfl (bits_skip a 22 rfl (bits_skip d 27 rfl rfl))))
theorem RoundTrip.shr (d : BitVec 5) (a : BitVec 5) (b : BitVec 5) : RoundTrip.Statement (.shr d a b) := 
  trip_long (w := 0x00000701 ||| fld d 27 ||| fld a 22 ||| fld b 17) 14 rfl rfl rfl rfl (or_and (or_and (or_and rfl (fld_and d _ _ rfl)) (fld_and a _ _ rfl)) (fld_and b _ _ rfl))
    (congr (congr (congrArg Instr.shr (bits_skip b 17 rfl (bits_skip a 22 rfl (bits_take d rfl rfl)))) (bits_skip b 17 rfl (bits_take a rfl (bits_skip d 27 rfl rfl)))) (bits_take b rfl (bits_skip a 22 rfl (bits_skip d 27 rfl rfl))))
theorem RoundTrip.sra (d : BitVec 5) (a : BitVec 5) (b : BitVec 5) : RoundTrip.Statement (.sra d a b) := 
  trip_long (w := 0x00000781 ||| fld d 27 ||| fld a 22 ||| fld b 17) 15 rfl rfl rfl rfl (or_and (or_and (or_and rfl (fld_and d _ _ rfl)) (fld_and a _ _ rfl)) (fld_and b _ _ rfl))
    (congr (congr (congrArg Instr.sra (bits_skip b 17 rfl (bits_skip a 22 rfl (bits_take d rfl rfl)))) (bits_skip b 17 rfl (bits_take a rfl (bits_skip d 27 rfl rfl)))) (bits_take b rfl (bits_skip a 22 rfl (bits_skip d 27 rfl rfl))))
theorem RoundTrip.rol (d : BitVec 5) (a : BitVec 5) (b : BitVec 5) : RoundTrip.Statement (.rol d a b) := 
  trip_long (w := 0x00000801 ||| fld d 27 ||| fld a 22 ||| fld b 17) 16 rfl rfl rfl rfl (or_and (or_and (or_and rfl (fld_and d _ _ rfl)) (fld_and a _ _ rfl)) (fld_and b _ _ rfl))
    (congr (congr (congrArg Instr.rol (bits_skip b 17 rfl (bits_skip a 22 rfl (bits_take d rfl rfl)))) (bits_skip b 17 rfl (bits_take a rfl (bits_skip d 27 rfl rfl)))) (bits_take b rfl (bits_skip a 22 rfl (bits_skip d 27 rfl rfl))))
theorem RoundTrip.min (d : BitVec 5) (a : BitVec 5) (b : BitVec 5) : RoundTrip.Statement (.min d a b) := 
  trip_long (w := 0x00000881 ||| fld d 27 ||| fld a 22 ||| fld b 17) 17 rfl rfl rfl rfl (or_and (or_and (or_and rfl (fld_and d _ _ rfl)) (fld_and a _ _ rfl)) (fld_and b _ _ rfl))
    (congr (congr (congrArg Instr.min (bits_skip b 17 rfl (bits_skip a 22 rfl (bits_take d rfl rfl)))) (bits_skip b 17 rfl (bits_take a rfl (bits_skip d 27 rfl rfl)))) (bits_take b rfl (bits_skip a 22 rfl (bits_skip d 27 rfl rfl))))
theorem RoundTrip.max (d : BitVec 5) (a : BitVec 5) (b : BitVec 5) : RoundTrip.Statement (.max d a b) := 
  trip_long (w := 0x00000901 ||| fld d 27 ||| fld a 22 ||| fld b 17) 18 rfl rfl rfl rfl (or_and (or_and (or_and rfl (fld_and d _ _ rfl)) (fld_and a _ _ rfl)) (fld_and b _ _ rfl))
    (congr (congr (congrArg Instr.max (bits_skip b 17 rfl (bits_skip a 22 rfl (bits_take d rfl rfl)))) (bits_skip b 17 rfl (bits_take a rfl (bits_skip d 27 rfl rfl)))) (bits_take b rfl (bits_skip a 22 rfl (bits_skip d 27 rfl rfl))))
theorem RoundTrip.minn (d : BitVec 5) (a : BitVec 5) (b : BitVec 5) : RoundTrip.Statement (.minn d a b) := 
  trip_long (w := 0x00000981 ||| fld d 27 ||| fld a 22 ||| fld b 17) 19 rfl rfl rfl rfl (or_and (or_and (or_and rfl (fld_and d _ _ rfl)) (fld_and a _ _ rfl)) (fld_and b _ _ rfl))
    (congr (congr (congrArg Instr.minn (bits_skip b 17 rfl (bits_skip a 22 rfl (bits_take d rfl rfl)))) (bits_skip b 17 rfl (bits_take a rfl (bits_skip d 27 rfl rfl)))) (bits_take b rfl (bits_skip a 22 rfl (bits_skip d 27 rfl rfl))))
theorem RoundTrip.maxn (d : BitVec 5) (a : BitVec 5) (b : BitVec 5) : RoundTrip.Statement (.maxn d a b) := 
  trip_long (w := 0x00000A01 ||| fld d 27 ||| fld a 22 ||| fld b 17) 20 rfl rfl rfl rfl (or_and (or_and (or_and rfl (fld_and d _ _ rfl)) (fld_and a _ _ rfl)) (fld_and b _ _ rfl))
    (congr (congr (congrArg Instr.maxn (bits_skip b 17 rfl (bits_skip a 22 rfl (bits_take d rfl rfl)))) (bits_skip b 17 rfl (bits_take a rfl (bits_skip d 27 rfl rfl)))) (bits_take b rfl (bits_skip a 22 rfl (bits_skip d 27 rfl rfl))))
theorem RoundTrip.clz (d : BitVec 5) (a : BitVec 5) : RoundTrip.Statement (.clz d a) := 
  trip_long (w := 0x00000A81 ||| fld d 27 ||| fld a 22) 21 rfl rfl rfl rfl (or_and (or_and rfl (fld_and d _ _ rfl)) (fld_and a _ _ rfl))
    (congr (congrArg Instr.clz (bits_skip a 22 rfl (bits_take d rfl rfl))) (bits_take a rfl (bits_skip d 27 rfl rfl)))
theorem RoundTrip.popc (d : BitVec 5) (a : BitVec 5) : RoundTrip.Statement (.popc d a) := 
  trip_long (w := 0x00000B01 ||| fld d 27 ||| fld a 22) 22 rfl rfl rfl rfl (or_and (or_and rfl (fld_and d _ _ rfl)) (fld_and a _ _ rfl))
    (congr (congrArg Instr.popc (bits_skip a 22 rfl (bits_take d rfl rfl))) (bits_take a rfl (bits_skip d 27 rfl rfl)))
theorem RoundTrip.sext (d : BitVec 5) (a : BitVec 5) (w : BitVec 2) : RoundTrip.Statement (.sext d a w) := 
  trip_long (w := 0x00000B81 ||| fld d 27 ||| fld a 22 ||| fld w 17) 23 rfl rfl rfl rfl (or_and (or_and (or_and rfl (fld_and d _ _ rfl)) (fld_and a _ _ rfl)) (fld_and w _ _ rfl))
    (congr (congr (congrArg Instr.sext (bits_skip w 17 rfl (bits_skip a 22 rfl (bits_take d rfl rfl)))) (bits_skip w 17 rfl (bits_take a rfl (bits_skip d 27 rfl rfl)))) (bits_take w rfl (bits_skip a 22 rfl (bits_skip d 27 rfl rfl))))
theorem RoundTrip.zext (d : BitVec 5) (a : BitVec 5) (w : BitVec 2) : RoundTrip.Statement (.zext d a w) := 
  trip_long (w := 0x00000C01 ||| fld d 27 ||| fld a 22 ||| fld w 17) 24 rfl rfl rfl rfl (or_and (or_and (or_and rfl (fld_and d _ _ rfl)) (fld_and a _ _ rfl)) (fld_and w _ _ rfl))
    (congr (congr (congrArg Instr.zext (bits_skip w 17 rfl (bits_skip a 22 rfl (bits_take d rfl rfl)))) (bits_skip w 17 rfl (bits_take a rfl (bits_skip d 27 rfl rfl)))) (bits_take w rfl (bits_skip a 22 rfl (bits_skip d 27 rfl rfl))))
theorem RoundTrip.sel (d : BitVec 5) (a : BitVec 5) (b : BitVec 5) (f : BitVec 3) : RoundTrip.Statement (.sel d a b f) := 
  trip_long (w := 0x00001001 ||| fld d 27 ||| fld a 22 ||| fld b 17 ||| fld f 7) 25 rfl rfl rfl rfl (or_and (or_and (or_and (or_and rfl (fld_and d _ _ rfl)) (fld_and a _ _ rfl)) (fld_and b _ _ rfl)) (fld_and f _ _ rfl))
    (congr (congr (congr (congrArg Instr.sel (bits_skip f 7 rfl (bits_skip b 17 rfl (bits_skip a 22 rfl (bits_take d rfl rfl))))) (bits_skip f 7 rfl (bits_skip b 17 rfl (bits_take a rfl (bits_skip d 27 rfl rfl))))) (bits_skip f 7 rfl (bits_take b rfl (bits_skip a 22 rfl (bits_skip d 27 rfl rfl))))) (bits_take f rfl (bits_skip b 17 rfl (bits_skip a 22 rfl (bits_skip d 27 rfl rfl)))))
theorem RoundTrip.cmp (m : BitVec 2) (f : BitVec 3) (a : BitVec 5) (b : BitVec 5) (c : BitVec 3) : RoundTrip.Statement (.cmp m f a b c) := 
  trip_long (w := 0x00001401 ||| fld m 30 ||| fld f 27 ||| fld a 22 ||| fld b 17 ||| fld c 7) 26 rfl rfl rfl rfl (or_and (or_and (or_and (or_and (or_and rfl (fld_and m _ _ rfl)) (fld_and f _ _ rfl)) (fld_and a _ _ rfl)) (fld_and b _ _ rfl)) (fld_and c _ _ rfl))
    (congr (congr (congr (congr (congrArg Instr.cmp (bits_skip c 7 rfl (bits_skip b 17 rfl (bits_skip a 22 rfl (bits_skip f 27 rfl (bits_take m rfl rfl)))))) (bits_skip c 7 rfl (bits_skip b 17 rfl (bits_skip a 22 rfl (bits_take f rfl (bits_skip m 30 rfl rfl)))))) (bits_skip c 7 rfl (bits_skip b 17 rfl (bits_take a rfl (bits_skip f 27 rfl (bits_skip m 30 rfl rfl)))))) (bits_skip c 7 rfl (bits_take b rfl (bits_skip a 22 rfl (bits_skip f 27 rfl (bits_skip m 30 rfl rfl)))))) (bits_take c rfl (bits_skip b 17 rfl (bits_skip a 22 rfl (bits_skip f 27 rfl (bits_skip m 30 rfl rfl))))))
theorem RoundTrip.addi (d : BitVec 5) (a : BitVec 5) (i : BitVec 15) : RoundTrip.Statement (.addi d a i) := 
  trip_long (w := 0x00000003 ||| fld d 27 ||| fld a 22 ||| fld i 7) 27 rfl rfl rfl rfl (or_and (or_and (or_and rfl (fld_and d _ _ rfl)) (fld_and a _ _ rfl)) (fld_and i _ _ rfl))
    (congr (congr (congrArg Instr.addi (bits_skip i 7 rfl (bits_skip a 22 rfl (bits_take d rfl rfl)))) (bits_skip i 7 rfl (bits_take a rfl (bits_skip d 27 rfl rfl)))) (bits_take i rfl (bits_skip a 22 rfl (bits_skip d 27 rfl rfl))))
theorem RoundTrip.andi (d : BitVec 5) (a : BitVec 5) (i : BitVec 15) : RoundTrip.Statement (.andi d a i) := 
  trip_long (w := 0x00000005 ||| fld d 27 ||| fld a 22 ||| fld i 7) 28 rfl rfl rfl rfl (or_and (or_and (or_and rfl (fld_and d _ _ rfl)) (fld_and a _ _ rfl)) (fld_and i _ _ rfl))
    (congr (congr (congrArg Instr.andi (bits_skip i 7 rfl (bits_skip a 22 rfl (bits_take d rfl rfl)))) (bits_skip i 7 rfl (bits_take a rfl (bits_skip d 27 rfl rfl)))) (bits_take i rfl (bits_skip a 22 rfl (bits_skip d 27 rfl rfl))))
theorem RoundTrip.ori (d : BitVec 5) (a : BitVec 5) (i : BitVec 15) : RoundTrip.Statement (.ori d a i) := 
  trip_long (w := 0x00000007 ||| fld d 27 ||| fld a 22 ||| fld i 7) 29 rfl rfl rfl rfl (or_and (or_and (or_and rfl (fld_and d _ _ rfl)) (fld_and a _ _ rfl)) (fld_and i _ _ rfl))
    (congr (congr (congrArg Instr.ori (bits_skip i 7 rfl (bits_skip a 22 rfl (bits_take d rfl rfl)))) (bits_skip i 7 rfl (bits_take a rfl (bits_skip d 27 rfl rfl)))) (bits_take i rfl (bits_skip a 22 rfl (bits_skip d 27 rfl rfl))))
theorem RoundTrip.xori (d : BitVec 5) (a : BitVec 5) (i : BitVec 15) : RoundTrip.Statement (.xori d a i) := 
  trip_long (w := 0x00000009 ||| fld d 27 ||| fld a 22 ||| fld i 7) 30 rfl rfl rfl rfl (or_and (or_and (or_and rfl (fld_and d _ _ rfl)) (fld_and a _ _ rfl)) (fld_and i _ _ rfl))
    (congr (congr (congrArg Instr.xori (bits_skip i 7 rfl (bits_skip a 22 rfl (bits_take d rfl rfl)))) (bits_skip i 7 rfl (bits_take a rfl (bits_skip d 27 rfl rfl)))) (bits_take i rfl (bits_skip a 22 rfl (bits_skip d 27 rfl rfl))))
theorem RoundTrip.shli (d : BitVec 5) (a : BitVec 5) (n : BitVec 6) : RoundTrip.Statement (.shli d a n) := 
  trip_long (w := 0x0000000B ||| fld d 27 ||| fld a 22 ||| fld n 7) 31 rfl rfl rfl rfl (or_and (or_and (or_and rfl (fld_and d _ _ rfl)) (fld_and a _ _ rfl)) (fld_and n _ _ rfl))
    (congr (congr (congrArg Instr.shli (bits_skip n 7 rfl (bits_skip a 22 rfl (bits_take d rfl rfl)))) (bits_skip n 7 rfl (bits_take a rfl (bits_skip d 27 rfl rfl)))) (bits_take n rfl (bits_skip a 22 rfl (bits_skip d 27 rfl rfl))))
theorem RoundTrip.shri (d : BitVec 5) (a : BitVec 5) (n : BitVec 6) : RoundTrip.Statement (.shri d a n) := 
  trip_long (w := 0x0010000B ||| fld d 27 ||| fld a 22 ||| fld n 7) 32 rfl rfl rfl rfl (or_and (or_and (or_and rfl (fld_and d _ _ rfl)) (fld_and a _ _ rfl)) (fld_and n _ _ rfl))
    (congr (congr (congrArg Instr.shri (bits_skip n 7 rfl (bits_skip a 22 rfl (bits_take d rfl rfl)))) (bits_skip n 7 rfl (bits_take a rfl (bits_skip d 27 rfl rfl)))) (bits_take n rfl (bits_skip a 22 rfl (bits_skip d 27 rfl rfl))))
theorem RoundTrip.srai (d : BitVec 5) (a : BitVec 5) (n : BitVec 6) : RoundTrip.Statement (.srai d a n) := 
  trip_long (w := 0x0020000B ||| fld d 27 ||| fld a 22 ||| fld n 7) 33 rfl rfl rfl rfl (or_and (or_and (or_and rfl (fld_and d _ _ rfl)) (fld_and a _ _ rfl)) (fld_and n _ _ rfl))
    (congr (congr (congrArg Instr.srai (bits_skip n 7 rfl (bits_skip a 22 rfl (bits_take d rfl rfl)))) (bits_skip n 7 rfl (bits_take a rfl (bits_skip d 27 rfl rfl)))) (bits_take n rfl (bits_skip a 22 rfl (bits_skip d 27 rfl rfl))))
theorem RoundTrip.roli (d : BitVec 5) (a : BitVec 5) (n : BitVec 6) : RoundTrip.Statement (.roli d a n) := 
  trip_long (w := 0x0030000B ||| fld d 27 ||| fld a 22 ||| fld n 7) 34 rfl rfl rfl rfl (or_and (or_and (or_and rfl (fld_and d _ _ rfl)) (fld_and a _ _ rfl)) (fld_and n _ _ rfl))
    (congr (congr (congrArg Instr.roli (bits_skip n 7 rfl (bits_skip a 22 rfl (bits_take d rfl rfl)))) (bits_skip n 7 rfl (bits_take a rfl (bits_skip d 27 rfl rfl)))) (bits_take n rfl (bits_skip a 22 rfl (bits_skip d 27 rfl rfl))))
theorem RoundTrip.cmpi (m : BitVec 2) (f : BitVec 3) (a : BitVec 5) (c : BitVec 3) (i : BitVec 12) : RoundTrip.Statement (.cmpi m f a c i) := 
  trip_long (w := 0x00000013 ||| fld m 30 ||| fld f 27 ||| fld a 22 ||| fld c 19 ||| fld i 7) 35 rfl rfl rfl rfl (or_and (or_and (or_and (or_and (or_and rfl (fld_and m _ _ rfl)) (fld_and f _ _ rfl)) (fld_and a _ _ rfl)) (fld_and c _ _ rfl)) (fld_and i _ _ rfl))
    (congr (congr (congr (congr (congrArg Instr.cmpi (bits_skip i 7 rfl (bits_skip c 19 rfl (bits_skip a 22 rfl (bits_skip f 27 rfl (bits_take m rfl rfl)))))) (bits_skip i 7 rfl (bits_skip c 19 rfl (bits_skip a 22 rfl (bits_take f rfl (bits_skip m 30 rfl rfl)))))) (bits_skip i 7 rfl (bits_skip c 19 rfl (bits_take a rfl (bits_skip f 27 rfl (bits_skip m 30 rfl rfl)))))) (bits_skip i 7 rfl (bits_take c rfl (bits_skip a 22 rfl (bits_skip f 27 rfl (bits_skip m 30 rfl rfl)))))) (bits_take i rfl (bits_skip c 19 rfl (bits_skip a 22 rfl (bits_skip f 27 rfl (bits_skip m 30 rfl rfl))))))
theorem RoundTrip.li (d : BitVec 5) (i : BitVec 20) : RoundTrip.Statement (.li d i) := 
  trip_long (w := 0x0000000D ||| fld d 27 ||| fld i 7) 36 rfl rfl rfl rfl (or_and (or_and rfl (fld_and d _ _ rfl)) (fld_and i _ _ rfl))
    (congr (congrArg Instr.li (bits_skip i 7 rfl (bits_take d rfl rfl))) (bits_take i rfl (bits_skip d 27 rfl rfl)))
theorem RoundTrip.lui (d : BitVec 5) (i : BitVec 20) : RoundTrip.Statement (.lui d i) := 
  trip_long (w := 0x0000000F ||| fld d 27 ||| fld i 7) 37 rfl rfl rfl rfl (or_and (or_and rfl (fld_and d _ _ rfl)) (fld_and i _ _ rfl))
    (congr (congrArg Instr.lui (bits_skip i 7 rfl (bits_take d rfl rfl))) (bits_take i rfl (bits_skip d 27 rfl rfl)))
theorem RoundTrip.ltop (d : BitVec 5) (i : BitVec 20) : RoundTrip.Statement (.ltop d i) := 
  trip_long (w := 0x00000011 ||| fld d 27 ||| fld i 7) 38 rfl rfl rfl rfl (or_and (or_and rfl (fld_and d _ _ rfl)) (fld_and i _ _ rfl))
    (congr (congrArg Instr.ltop (bits_skip i 7 rfl (bits_take d rfl rfl))) (bits_take i rfl (bits_skip d 27 rfl rfl)))
theorem RoundTrip.fadd (d : BitVec 5) (a : BitVec 5) (b : BitVec 5) (p : BitVec 2) : RoundTrip.Statement (.fadd d a b p) := 
  trip_long (w := 0x00000015 ||| fld d 27 ||| fld a 22 ||| fld b 17 ||| fld p 15) 39 rfl rfl rfl rfl (or_and (or_and (or_and (or_and rfl (fld_and d _ _ rfl)) (fld_and a _ _ rfl)) (fld_and b _ _ rfl)) (fld_and p _ _ rfl))
    (congr (congr (congr (congrArg Instr.fadd (bits_skip p 15 rfl (bits_skip b 17 rfl (bits_skip a 22 rfl (bits_take d rfl rfl))))) (bits_skip p 15 rfl (bits_skip b 17 rfl (bits_take a rfl (bits_skip d 27 rfl rfl))))) (bits_skip p 15 rfl (bits_take b rfl (bits_skip a 22 rfl (bits_skip d 27 rfl rfl))))) (bits_take p rfl (bits_skip b 17 rfl (bits_skip a 22 rfl (bits_skip d 27 rfl rfl)))))
theorem RoundTrip.fsub (d : BitVec 5) (a : BitVec 5) (b : BitVec 5) (p : BitVec 2) : RoundTrip.Statement (.fsub d a b p) := 
  trip_long (w := 0x00000095 ||| fld d 27 ||| fld a 22 ||| fld b 17 ||| fld p 15) 40 rfl rfl rfl rfl (or_and (or_and (or_and (or_and rfl (fld_and d _ _ rfl)) (fld_and a _ _ rfl)) (fld_and b _ _ rfl)) (fld_and p _ _ rfl))
    (congr (congr (congr (congrArg Instr.fsub (bits_skip p 15 rfl (bits_skip b 17 rfl (bits_skip a 22 rfl (bits_take d rfl rfl))))) (bits_skip p 15 rfl (bits_skip b 17 rfl (bits_take a rfl (bits_skip d 27 rfl rfl))))) (bits_skip p 15 rfl (bits_take b rfl (bits_skip a 22 rfl (bits_skip d 27 rfl rfl))))) (bits_take p rfl (bits_skip b 17 rfl (bits_skip a 22 rfl (bits_skip d 27 rfl rfl)))))
theorem RoundTrip.fmul (d : BitVec 5) (a : BitVec 5) (b : BitVec 5) (p : BitVec 2) : RoundTrip.Statement (.fmul d a b p) := 
  trip_long (w := 0x00000115 ||| fld d 27 ||| fld a 22 ||| fld b 17 ||| fld p 15) 41 rfl rfl rfl rfl (or_and (or_and (or_and (or_and rfl (fld_and d _ _ rfl)) (fld_and a _ _ rfl)) (fld_and b _ _ rfl)) (fld_and p _ _ rfl))
    (congr (congr (congr (congrArg Instr.fmul (bits_skip p 15 rfl (bits_skip b 17 rfl (bits_skip a 22 rfl (bits_take d rfl rfl))))) (bits_skip p 15 rfl (bits_skip b 17 rfl (bits_take a rfl (bits_skip d 27 rfl rfl))))) (bits_skip p 15 rfl (bits_take b rfl (bits_skip a 22 rfl (bits_skip d 27 rfl rfl))))) (bits_take p rfl (bits_skip b 17 rfl (bits_skip a 22 rfl (bits_skip d 27 rfl rfl)))))
theorem RoundTrip.ffma (d : BitVec 5) (a : BitVec 5) (b : BitVec 5) (p : BitVec 2) : RoundTrip.Statement (.ffma d a b p) := 
  trip_long (w := 0x00000195 ||| fld d 27 ||| fld a 22 ||| fld b 17 ||| fld p 15) 42 rfl rfl rfl rfl (or_and (or_and (or_and (or_and rfl (fld_and d _ _ rfl)) (fld_and a _ _ rfl)) (fld_and b _ _ rfl)) (fld_and p _ _ rfl))
    (congr (congr (congr (congrArg Instr.ffma (bits_skip p 15 rfl (bits_skip b 17 rfl (bits_skip a 22 rfl (bits_take d rfl rfl))))) (bits_skip p 15 rfl (bits_skip b 17 rfl (bits_take a rfl (bits_skip d 27 rfl rfl))))) (bits_skip p 15 rfl (bits_take b rfl (bits_skip a 22 rfl (bits_skip d 27 rfl rfl))))) (bits_take p rfl (bits_skip b 17 rfl (bits_skip a 22 rfl (bits_skip d 27 rfl rfl)))))
theorem RoundTrip.fdiv (d : BitVec 5) (a : BitVec 5) (b : BitVec 5) (p : BitVec 2) : RoundTrip.Statement (.fdiv d a b p) := 
  trip_long (w := 0x00000215 ||| fld d 27 ||| fld a 22 ||| fld b 17 ||| fld p 15) 43 rfl rfl rfl rfl (or_and (or_and (or_and (or_and rfl (fld_and d _ _ rfl)) (fld_and a _ _ rfl)) (fld_and b _ _ rfl)) (fld_and p _ _ rfl))
    (congr (congr (congr (congrArg Instr.fdiv (bits_skip p 15 rfl (bits_skip b 17 rfl (bits_skip a 22 rfl (bits_take d rfl rfl))))) (bits_skip p 15 rfl (bits_skip b 17 rfl (bits_take a rfl (bits_skip d 27 rfl rfl))))) (bits_skip p 15 rfl (bits_take b rfl (bits_skip a 22 rfl (bits_skip d 27 rfl rfl))))) (bits_take p rfl (bits_skip b 17 rfl (bits_skip a 22 rfl (bits_skip d 27 rfl rfl)))))
theorem RoundTrip.fsqrt (d : BitVec 5) (a : BitVec 5) (p : BitVec 2) : RoundTrip.Statement (.fsqrt d a p) := 
  trip_long (w := 0x00000295 ||| fld d 27 ||| fld a 22 ||| fld p 15) 44 rfl rfl rfl rfl (or_and (or_and (or_and rfl (fld_and d _ _ rfl)) (fld_and a _ _ rfl)) (fld_and p _ _ rfl))
    (congr (congr (congrArg Instr.fsqrt (bits_skip p 15 rfl (bits_skip a 22 rfl (bits_take d rfl rfl)))) (bits_skip p 15 rfl (bits_take a rfl (bits_skip d 27 rfl rfl)))) (bits_take p rfl (bits_skip a 22 rfl (bits_skip d 27 rfl rfl))))
theorem RoundTrip.fmin (d : BitVec 5) (a : BitVec 5) (b : BitVec 5) (p : BitVec 2) : RoundTrip.Statement (.fmin d a b p) := 
  trip_long (w := 0x00000315 ||| fld d 27 ||| fld a 22 ||| fld b 17 ||| fld p 15) 45 rfl rfl rfl rfl (or_and (or_and (or_and (or_and rfl (fld_and d _ _ rfl)) (fld_and a _ _ rfl)) (fld_and b _ _ rfl)) (fld_and p _ _ rfl))
    (congr (congr (congr (congrArg Instr.fmin (bits_skip p 15 rfl (bits_skip b 17 rfl (bits_skip a 22 rfl (bits_take d rfl rfl))))) (bits_skip p 15 rfl (bits_skip b 17 rfl (bits_take a rfl (bits_skip d 27 rfl rfl))))) (bits_skip p 15 rfl (bits_take b rfl (bits_skip a 22 rfl (bits_skip d 27 rfl rfl))))) (bits_take p rfl (bits_skip b 17 rfl (bits_skip a 22 rfl (bits_skip d 27 rfl rfl)))))
theorem RoundTrip.fmax (d : BitVec 5) (a : BitVec 5) (b : BitVec 5) (p : BitVec 2) : RoundTrip.Statement (.fmax d a b p) := 
  trip_long (w := 0x00000395 ||| fld d 27 ||| fld a 22 ||| fld b 17 ||| fld p 15) 46 rfl rfl rfl rfl (or_and (or_and (or_and (or_and rfl (fld_and d _ _ rfl)) (fld_and a _ _ rfl)) (fld_and b _ _ rfl)) (fld_and p _ _ rfl))
    (congr (congr (congr (congrArg Instr.fmax (bits_skip p 15 rfl (bits_skip b 17 rfl (bits_skip a 22 rfl (bits_take d rfl rfl))))) (bits_skip p 15 rfl (bits_skip b 17 rfl (bits_take a rfl (bits_skip d 27 rfl rfl))))) (bits_skip p 15 rfl (bits_take b rfl (bits_skip a 22 rfl (bits_skip d 27 rfl rfl))))) (bits_take p rfl (bits_skip b 17 rfl (bits_skip a 22 rfl (bits_skip d 27 rfl rfl)))))
theorem RoundTrip.fabs (d : BitVec 5) (a : BitVec 5) (p : BitVec 2) : RoundTrip.Statement (.fabs d a p) := 
  trip_long (w := 0x00000415 ||| fld d 27 ||| fld a 22 ||| fld p 15) 47 rfl rfl rfl rfl (or_and (or_and (or_and rfl (fld_and d _ _ rfl)) (fld_and a _ _ rfl)) (fld_and p _ _ rfl))
    (congr (congr (congrArg Instr.fabs (bits_skip p 15 rfl (bits_skip a 22 rfl (bits_take d rfl rfl)))) (bits_skip p 15 rfl (bits_take a rfl (bits_skip d 27 rfl rfl)))) (bits_take p rfl (bits_skip a 22 rfl (bits_skip d 27 rfl rfl))))
theorem RoundTrip.fneg (d : BitVec 5) (a : BitVec 5) (p : BitVec 2) : RoundTrip.Statement (.fneg d a p) := 
  trip_long (w := 0x00000495 ||| fld d 27 ||| fld a 22 ||| fld p 15) 48 rfl rfl rfl rfl (or_and (or_and (or_and rfl (fld_and d _ _ rfl)) (fld_and a _ _ rfl)) (fld_and p _ _ rfl))
    (congr (congr (congrArg Instr.fneg (bits_skip p 15 rfl (bits_skip a 22 rfl (bits_take d rfl rfl)))) (bits_skip p 15 rfl (bits_take a rfl (bits_skip d 27 rfl rfl)))) (bits_take p rfl (bits_skip a 22 rfl (bits_skip d 27 rfl rfl))))
theorem RoundTrip.fclass (d : BitVec 5) (a : BitVec 5) (p : BitVec 2) : RoundTrip.Statement (.fclass d a p) := 
  trip_long (w := 0x00000515 ||| fld d 27 ||| fld a 22 ||| fld p 15) 49 rfl rfl rfl rfl (or_and (or_and (or_and rfl (fld_and d _ _ rfl)) (fld_and a _ _ rfl)) (fld_and p _ _ rfl))
    (congr (congr (congrArg Instr.fclass (bits_skip p 15 rfl (bits_skip a 22 rfl (bits_take d rfl rfl)))) (bits_skip p 15 rfl (bits_take a rfl (bits_skip d 27 rfl rfl)))) (bits_take p rfl (bits_skip a 22 rfl (bits_skip d 27 rfl rfl))))
theorem RoundTrip.frnd (d : BitVec 5) (a : BitVec 5) (p : BitVec 2) : RoundTrip.Statement (.frnd d a p) := 
  trip_long (w := 0x00000595 ||| fld d 27 ||| fld a 22 ||| fld p 15) 50 rfl rfl rfl rfl (or_and (or_and (or_and rfl (fld_and d _ _ rfl)) (fld_and a _ _ rfl)) (fld_and p _ _ rfl))
    (congr (congr (congrArg Instr.frnd (bits_skip p 15 rfl (bits_skip a 22 rfl (bits_take d rfl rfl)))) (bits_skip p 15 rfl (bits_take a rfl (bits_skip d 27 rfl rfl)))) (bits_take p rfl (bits_skip a 22 rfl (bits_skip d 27 rfl rfl))))
theorem RoundTrip.fcvt (d : BitVec 5) (a : BitVec 5) (s : BitVec 3) (p : BitVec 2) : RoundTrip.Statement (.fcvt d a s p) := 
  trip_long (w := 0x00000615 ||| fld d 27 ||| fld a 22 ||| fld s 17 ||| fld p 15) 51 rfl rfl rfl rfl (or_and (or_and (or_and (or_and rfl (fld_and d _ _ rfl)) (fld_and a _ _ rfl)) (fld_and s _ _ rfl)) (fld_and p _ _ rfl))
    (congr (congr (congr (congrArg Instr.fcvt (bits_skip p 15 rfl (bits_skip s 17 rfl (bits_skip a 22 rfl (bits_take d rfl rfl))))) (bits_skip p 15 rfl (bits_skip s 17 rfl (bits_take a rfl (bits_skip d 27 rfl rfl))))) (bits_skip p 15 rfl (bits_take s rfl (bits_skip a 22 rfl (bits_skip d 27 rfl rfl))))) (bits_take p rfl (bits_skip s 17 rfl (bits_skip a 22 rfl (bits_skip d 27 rfl rfl)))))
theorem RoundTrip.ftoi (d : BitVec 5) (a : BitVec 5) (u : BitVec 1) (p : BitVec 2) : RoundTrip.Statement (.ftoi d a u p) := 
  trip_long (w := 0x00000695 ||| fld d 27 ||| fld a 22 ||| fld u 17 ||| fld p 15) 52 rfl rfl rfl rfl (or_and (or_and (or_and (or_and rfl (fld_and d _ _ rfl)) (fld_and a _ _ rfl)) (fld_and u _ _ rfl)) (fld_and p _ _ rfl))
    (congr (congr (congr (congrArg Instr.ftoi (bits_skip p 15 rfl (bits_skip u 17 rfl (bits_skip a 22 rfl (bits_take d rfl rfl))))) (bits_skip p 15 rfl (bits_skip u 17 rfl (bits_take a rfl (bits_skip d 27 rfl rfl))))) (bits_skip p 15 rfl (bits_take u rfl (bits_skip a 22 rfl (bits_skip d 27 rfl rfl))))) (bits_take p rfl (bits_skip u 17 rfl (bits_skip a 22 rfl (bits_skip d 27 rfl rfl)))))
theorem RoundTrip.fcmp (m : BitVec 2) (f : BitVec 3) (a : BitVec 5) (b : BitVec 5) (p : BitVec 2) (c : BitVec 3) : RoundTrip.Statement (.fcmp m f a b p c) := 
  trip_long (w := 0x00000815 ||| fld m 30 ||| fld f 27 ||| fld a 22 ||| fld b 17 ||| fld p 15 ||| fld c 7) 53 rfl rfl rfl rfl (or_and (or_and (or_and (or_and (or_and (or_and rfl (fld_and m _ _ rfl)) (fld_and f _ _ rfl)) (fld_and a _ _ rfl)) (fld_and b _ _ rfl)) (fld_and p _ _ rfl)) (fld_and c _ _ rfl))
    (congr (congr (congr (congr (congr (congrArg Instr.fcmp (bits_skip c 7 rfl (bits_skip p 15 rfl (bits_skip b 17 rfl (bits_skip a 22 rfl (bits_skip f 27 rfl (bits_take m rfl rfl))))))) (bits_skip c 7 rfl (bits_skip p 15 rfl (bits_skip b 17 rfl (bits_skip a 22 rfl (bits_take f rfl (bits_skip m 30 rfl rfl))))))) (bits_skip c 7 rfl (bits_skip p 15 rfl (bits_skip b 17 rfl (bits_take a rfl (bits_skip f 27 rfl (bits_skip m 30 rfl rfl))))))) (bits_skip c 7 rfl (bits_skip p 15 rfl (bits_take b rfl (bits_skip a 22 rfl (bits_skip f 27 rfl (bits_skip m 30 rfl rfl))))))) (bits_skip c 7 rfl (bits_take p rfl (bits_skip b 17 rfl (bits_skip a 22 rfl (bits_skip f 27 rfl (bits_skip m 30 rfl rfl))))))) (bits_take c rfl (bits_skip p 15 rfl (bits_skip b 17 rfl (bits_skip a 22 rfl (bits_skip f 27 rfl (bits_skip m 30 rfl rfl)))))))
theorem RoundTrip.bt (f : BitVec 3) (o : BitVec 21) : RoundTrip.Statement (.bt f o) := 
  trip_long (w := 0x10000017 ||| fld f 29 ||| fld o 7) 54 rfl rfl rfl rfl (or_and (or_and rfl (fld_and f _ _ rfl)) (fld_and o _ _ rfl))
    (congr (congrArg Instr.bt (bits_skip o 7 rfl (bits_take f rfl rfl))) (bits_take o rfl (bits_skip f 29 rfl rfl)))
theorem RoundTrip.bf (f : BitVec 3) (o : BitVec 21) : RoundTrip.Statement (.bf f o) := 
  trip_long (w := 0x00000017 ||| fld f 29 ||| fld o 7) 55 rfl rfl rfl rfl (or_and (or_and rfl (fld_and f _ _ rfl)) (fld_and o _ _ rfl))
    (congr (congrArg Instr.bf (bits_skip o 7 rfl (bits_take f rfl rfl))) (bits_take o rfl (bits_skip f 29 rfl rfl)))
theorem RoundTrip.br (o : BitVec 25) : RoundTrip.Statement (.br o) := 
  trip_long (w := 0x00000019 ||| fld o 7) 56 rfl rfl rfl rfl (or_and rfl (fld_and o _ _ rfl))
    (congrArg Instr.br (bits_take o rfl rfl))
theorem RoundTrip.callr (a : BitVec 5) : RoundTrip.Statement (.callr a) := 
  trip_long (w := 0x0000001D ||| fld a 22) 57 rfl rfl rfl rfl (or_and rfl (fld_and a _ _ rfl))
    (congrArg Instr.callr (bits_take a rfl rfl))
theorem RoundTrip.jmpr (a : BitVec 5) : RoundTrip.Statement (.jmpr a) := 
  trip_long (w := 0x0000009D ||| fld a 22) 58 rfl rfl rfl rfl (or_and rfl (fld_and a _ _ rfl))
    (congrArg Instr.jmpr (bits_take a rfl rfl))
theorem RoundTrip.ret : RoundTrip.Statement .ret := 
  trip_long (w := 0x0000011D) 59 rfl rfl rfl rfl rfl
    rfl
theorem RoundTrip.loop (a : BitVec 5) (l : BitVec 15) : RoundTrip.Statement (.loop a l) := 
  trip_long (w := 0x0000001F ||| fld a 22 ||| fld l 7) 60 rfl rfl rfl rfl (or_and (or_and rfl (fld_and a _ _ rfl)) (fld_and l _ _ rfl))
    (congr (congrArg Instr.loop (bits_skip l 7 rfl (bits_take a rfl rfl))) (bits_take l rfl (bits_skip a 22 rfl rfl)))
theorem RoundTrip.loopi (c : BitVec 10) (l : BitVec 10) : RoundTrip.Statement (.loopi c l) := 
  trip_long (w := 0x00000021 ||| fld c 17 ||| fld l 7) 61 rfl rfl rfl rfl (or_and (or_and rfl (fld_and c _ _ rfl)) (fld_and l _ _ rfl))
    (congr (congrArg Instr.loopi (bits_skip l 7 rfl (bits_take c rfl rfl))) (bits_take l rfl (bits_skip c 17 rfl rfl)))
theorem RoundTrip.ldb (t : BitVec 5) (a : BitVec 5) (s : BitVec 2) (p : BitVec 4) (o : BitVec 9) : RoundTrip.Statement (.ldb t a s p o) := 
  trip_long (w := 0x00000023 ||| fld t 27 ||| fld a 22 ||| fld s 20 ||| fld p 16 ||| fld o 7) 62 rfl rfl rfl rfl (or_and (or_and (or_and (or_and (or_and rfl (fld_and t _ _ rfl)) (fld_and a _ _ rfl)) (fld_and s _ _ rfl)) (fld_and p _ _ rfl)) (fld_and o _ _ rfl))
    (congr (congr (congr (congr (congrArg Instr.ldb (bits_skip o 7 rfl (bits_skip p 16 rfl (bits_skip s 20 rfl (bits_skip a 22 rfl (bits_take t rfl rfl)))))) (bits_skip o 7 rfl (bits_skip p 16 rfl (bits_skip s 20 rfl (bits_take a rfl (bits_skip t 27 rfl rfl)))))) (bits_skip o 7 rfl (bits_skip p 16 rfl (bits_take s rfl (bits_skip a 22 rfl (bits_skip t 27 rfl rfl)))))) (bits_skip o 7 rfl (bits_take p rfl (bits_skip s 20 rfl (bits_skip a 22 rfl (bits_skip t 27 rfl rfl)))))) (bits_take o rfl (bits_skip p 16 rfl (bits_skip s 20 rfl (bits_skip a 22 rfl (bits_skip t 27 rfl rfl))))))
theorem RoundTrip.ldbs (t : BitVec 5) (a : BitVec 5) (s : BitVec 2) (p : BitVec 4) (o : BitVec 9) : RoundTrip.Statement (.ldbs t a s p o) := 
  trip_long (w := 0x00000025 ||| fld t 27 ||| fld a 22 ||| fld s 20 ||| fld p 16 ||| fld o 7) 63 rfl rfl rfl rfl (or_and (or_and (or_and (or_and (or_and rfl (fld_and t _ _ rfl)) (fld_and a _ _ rfl)) (fld_and s _ _ rfl)) (fld_and p _ _ rfl)) (fld_and o _ _ rfl))
    (congr (congr (congr (congr (congrArg Instr.ldbs (bits_skip o 7 rfl (bits_skip p 16 rfl (bits_skip s 20 rfl (bits_skip a 22 rfl (bits_take t rfl rfl)))))) (bits_skip o 7 rfl (bits_skip p 16 rfl (bits_skip s 20 rfl (bits_take a rfl (bits_skip t 27 rfl rfl)))))) (bits_skip o 7 rfl (bits_skip p 16 rfl (bits_take s rfl (bits_skip a 22 rfl (bits_skip t 27 rfl rfl)))))) (bits_skip o 7 rfl (bits_take p rfl (bits_skip s 20 rfl (bits_skip a 22 rfl (bits_skip t 27 rfl rfl)))))) (bits_take o rfl (bits_skip p 16 rfl (bits_skip s 20 rfl (bits_skip a 22 rfl (bits_skip t 27 rfl rfl))))))
theorem RoundTrip.ldh (t : BitVec 5) (a : BitVec 5) (s : BitVec 2) (p : BitVec 4) (o : BitVec 9) : RoundTrip.Statement (.ldh t a s p o) := 
  trip_long (w := 0x00000027 ||| fld t 27 ||| fld a 22 ||| fld s 20 ||| fld p 16 ||| fld o 7) 64 rfl rfl rfl rfl (or_and (or_and (or_and (or_and (or_and rfl (fld_and t _ _ rfl)) (fld_and a _ _ rfl)) (fld_and s _ _ rfl)) (fld_and p _ _ rfl)) (fld_and o _ _ rfl))
    (congr (congr (congr (congr (congrArg Instr.ldh (bits_skip o 7 rfl (bits_skip p 16 rfl (bits_skip s 20 rfl (bits_skip a 22 rfl (bits_take t rfl rfl)))))) (bits_skip o 7 rfl (bits_skip p 16 rfl (bits_skip s 20 rfl (bits_take a rfl (bits_skip t 27 rfl rfl)))))) (bits_skip o 7 rfl (bits_skip p 16 rfl (bits_take s rfl (bits_skip a 22 rfl (bits_skip t 27 rfl rfl)))))) (bits_skip o 7 rfl (bits_take p rfl (bits_skip s 20 rfl (bits_skip a 22 rfl (bits_skip t 27 rfl rfl)))))) (bits_take o rfl (bits_skip p 16 rfl (bits_skip s 20 rfl (bits_skip a 22 rfl (bits_skip t 27 rfl rfl))))))
theorem RoundTrip.ldhs (t : BitVec 5) (a : BitVec 5) (s : BitVec 2) (p : BitVec 4) (o : BitVec 9) : RoundTrip.Statement (.ldhs t a s p o) := 
  trip_long (w := 0x00000029 ||| fld t 27 ||| fld a 22 ||| fld s 20 ||| fld p 16 ||| fld o 7) 65 rfl rfl rfl rfl (or_and (or_and (or_and (or_and (or_and rfl (fld_and t _ _ rfl)) (fld_and a _ _ rfl)) (fld_and s _ _ rfl)) (fld_and p _ _ rfl)) (fld_and o _ _ rfl))
    (congr (congr (congr (congr (congrArg Instr.ldhs (bits_skip o 7 rfl (bits_skip p 16 rfl (bits_skip s 20 rfl (bits_skip a 22 rfl (bits_take t rfl rfl)))))) (bits_skip o 7 rfl (bits_skip p 16 rfl (bits_skip s 20 rfl (bits_take a rfl (bits_skip t 27 rfl rfl)))))) (bits_skip o 7 rfl (bits_skip p 16 rfl (bits_take s rfl (bits_skip a 22 rfl (bits_skip t 27 rfl rfl)))))) (bits_skip o 7 rfl (bits_take p rfl (bits_skip s 20 rfl (bits_skip a 22 rfl (bits_skip t 27 rfl rfl)))))) (bits_take o rfl (bits_skip p 16 rfl (bits_skip s 20 rfl (bits_skip a 22 rfl (bits_skip t 27 rfl rfl))))))
theorem RoundTrip.ldw (t : BitVec 5) (a : BitVec 5) (s : BitVec 2) (p : BitVec 4) (o : BitVec 9) : RoundTrip.Statement (.ldw t a s p o) := 
  trip_long (w := 0x0000002B ||| fld t 27 ||| fld a 22 ||| fld s 20 ||| fld p 16 ||| fld o 7) 66 rfl rfl rfl rfl (or_and (or_and (or_and (or_and (or_and rfl (fld_and t _ _ rfl)) (fld_and a _ _ rfl)) (fld_and s _ _ rfl)) (fld_and p _ _ rfl)) (fld_and o _ _ rfl))
    (congr (congr (congr (congr (congrArg Instr.ldw (bits_skip o 7 rfl (bits_skip p 16 rfl (bits_skip s 20 rfl (bits_skip a 22 rfl (bits_take t rfl rfl)))))) (bits_skip o 7 rfl (bits_skip p 16 rfl (bits_skip s 20 rfl (bits_take a rfl (bits_skip t 27 rfl rfl)))))) (bits_skip o 7 rfl (bits_skip p 16 rfl (bits_take s rfl (bits_skip a 22 rfl (bits_skip t 27 rfl rfl)))))) (bits_skip o 7 rfl (bits_take p rfl (bits_skip s 20 rfl (bits_skip a 22 rfl (bits_skip t 27 rfl rfl)))))) (bits_take o rfl (bits_skip p 16 rfl (bits_skip s 20 rfl (bits_skip a 22 rfl (bits_skip t 27 rfl rfl))))))
theorem RoundTrip.ldws (t : BitVec 5) (a : BitVec 5) (s : BitVec 2) (p : BitVec 4) (o : BitVec 9) : RoundTrip.Statement (.ldws t a s p o) := 
  trip_long (w := 0x0000002D ||| fld t 27 ||| fld a 22 ||| fld s 20 ||| fld p 16 ||| fld o 7) 67 rfl rfl rfl rfl (or_and (or_and (or_and (or_and (or_and rfl (fld_and t _ _ rfl)) (fld_and a _ _ rfl)) (fld_and s _ _ rfl)) (fld_and p _ _ rfl)) (fld_and o _ _ rfl))
    (congr (congr (congr (congr (congrArg Instr.ldws (bits_skip o 7 rfl (bits_skip p 16 rfl (bits_skip s 20 rfl (bits_skip a 22 rfl (bits_take t rfl rfl)))))) (bits_skip o 7 rfl (bits_skip p 16 rfl (bits_skip s 20 rfl (bits_take a rfl (bits_skip t 27 rfl rfl)))))) (bits_skip o 7 rfl (bits_skip p 16 rfl (bits_take s rfl (bits_skip a 22 rfl (bits_skip t 27 rfl rfl)))))) (bits_skip o 7 rfl (bits_take p rfl (bits_skip s 20 rfl (bits_skip a 22 rfl (bits_skip t 27 rfl rfl)))))) (bits_take o rfl (bits_skip p 16 rfl (bits_skip s 20 rfl (bits_skip a 22 rfl (bits_skip t 27 rfl rfl))))))
theorem RoundTrip.ldd (t : BitVec 5) (a : BitVec 5) (s : BitVec 2) (p : BitVec 4) (o : BitVec 9) : RoundTrip.Statement (.ldd t a s p o) := 
  trip_long (w := 0x0000002F ||| fld t 27 ||| fld a 22 ||| fld s 20 ||| fld p 16 ||| fld o 7) 68 rfl rfl rfl rfl (or_and (or_and (or_and (or_and (or_and rfl (fld_and t _ _ rfl)) (fld_and a _ _ rfl)) (fld_and s _ _ rfl)) (fld_and p _ _ rfl)) (fld_and o _ _ rfl))
    (congr (congr (congr (congr (congrArg Instr.ldd (bits_skip o 7 rfl (bits_skip p 16 rfl (bits_skip s 20 rfl (bits_skip a 22 rfl (bits_take t rfl rfl)))))) (bits_skip o 7 rfl (bits_skip p 16 rfl (bits_skip s 20 rfl (bits_take a rfl (bits_skip t 27 rfl rfl)))))) (bits_skip o 7 rfl (bits_skip p 16 rfl (bits_take s rfl (bits_skip a 22 rfl (bits_skip t 27 rfl rfl)))))) (bits_skip o 7 rfl (bits_take p rfl (bits_skip s 20 rfl (bits_skip a 22 rfl (bits_skip t 27 rfl rfl)))))) (bits_take o rfl (bits_skip p 16 rfl (bits_skip s 20 rfl (bits_skip a 22 rfl (bits_skip t 27 rfl rfl))))))
theorem RoundTrip.stb (t : BitVec 5) (a : BitVec 5) (s : BitVec 2) (p : BitVec 4) (o : BitVec 9) : RoundTrip.Statement (.stb t a s p o) := 
  trip_long (w := 0x00000031 ||| fld t 27 ||| fld a 22 ||| fld s 20 ||| fld p 16 ||| fld o 7) 69 rfl rfl rfl rfl (or_and (or_and (or_and (or_and (or_and rfl (fld_and t _ _ rfl)) (fld_and a _ _ rfl)) (fld_and s _ _ rfl)) (fld_and p _ _ rfl)) (fld_and o _ _ rfl))
    (congr (congr (congr (congr (congrArg Instr.stb (bits_skip o 7 rfl (bits_skip p 16 rfl (bits_skip s 20 rfl (bits_skip a 22 rfl (bits_take t rfl rfl)))))) (bits_skip o 7 rfl (bits_skip p 16 rfl (bits_skip s 20 rfl (bits_take a rfl (bits_skip t 27 rfl rfl)))))) (bits_skip o 7 rfl (bits_skip p 16 rfl (bits_take s rfl (bits_skip a 22 rfl (bits_skip t 27 rfl rfl)))))) (bits_skip o 7 rfl (bits_take p rfl (bits_skip s 20 rfl (bits_skip a 22 rfl (bits_skip t 27 rfl rfl)))))) (bits_take o rfl (bits_skip p 16 rfl (bits_skip s 20 rfl (bits_skip a 22 rfl (bits_skip t 27 rfl rfl))))))
theorem RoundTrip.sth (t : BitVec 5) (a : BitVec 5) (s : BitVec 2) (p : BitVec 4) (o : BitVec 9) : RoundTrip.Statement (.sth t a s p o) := 
  trip_long (w := 0x00000033 ||| fld t 27 ||| fld a 22 ||| fld s 20 ||| fld p 16 ||| fld o 7) 70 rfl rfl rfl rfl (or_and (or_and (or_and (or_and (or_and rfl (fld_and t _ _ rfl)) (fld_and a _ _ rfl)) (fld_and s _ _ rfl)) (fld_and p _ _ rfl)) (fld_and o _ _ rfl))
    (congr (congr (congr (congr (congrArg Instr.sth (bits_skip o 7 rfl (bits_skip p 16 rfl (bits_skip s 20 rfl (bits_skip a 22 rfl (bits_take t rfl rfl)))))) (bits_skip o 7 rfl (bits_skip p 16 rfl (bits_skip s 20 rfl (bits_take a rfl (bits_skip t 27 rfl rfl)))))) (bits_skip o 7 rfl (bits_skip p 16 rfl (bits_take s rfl (bits_skip a 22 rfl (bits_skip t 27 rfl rfl)))))) (bits_skip o 7 rfl (bits_take p rfl (bits_skip s 20 rfl (bits_skip a 22 rfl (bits_skip t 27 rfl rfl)))))) (bits_take o rfl (bits_skip p 16 rfl (bits_skip s 20 rfl (bits_skip a 22 rfl (bits_skip t 27 rfl rfl))))))
theorem RoundTrip.stw (t : BitVec 5) (a : BitVec 5) (s : BitVec 2) (p : BitVec 4) (o : BitVec 9) : RoundTrip.Statement (.stw t a s p o) := 
  trip_long (w := 0x00000035 ||| fld t 27 ||| fld a 22 ||| fld s 20 ||| fld p 16 ||| fld o 7) 71 rfl rfl rfl rfl (or_and (or_and (or_and (or_and (or_and rfl (fld_and t _ _ rfl)) (fld_and a _ _ rfl)) (fld_and s _ _ rfl)) (fld_and p _ _ rfl)) (fld_and o _ _ rfl))
    (congr (congr (congr (congr (congrArg Instr.stw (bits_skip o 7 rfl (bits_skip p 16 rfl (bits_skip s 20 rfl (bits_skip a 22 rfl (bits_take t rfl rfl)))))) (bits_skip o 7 rfl (bits_skip p 16 rfl (bits_skip s 20 rfl (bits_take a rfl (bits_skip t 27 rfl rfl)))))) (bits_skip o 7 rfl (bits_skip p 16 rfl (bits_take s rfl (bits_skip a 22 rfl (bits_skip t 27 rfl rfl)))))) (bits_skip o 7 rfl (bits_take p rfl (bits_skip s 20 rfl (bits_skip a 22 rfl (bits_skip t 27 rfl rfl)))))) (bits_take o rfl (bits_skip p 16 rfl (bits_skip s 20 rfl (bits_skip a 22 rfl (bits_skip t 27 rfl rfl))))))
theorem RoundTrip.std (t : BitVec 5) (a : BitVec 5) (s : BitVec 2) (p : BitVec 4) (o : BitVec 9) : RoundTrip.Statement (.std t a s p o) := 
  trip_long (w := 0x00000037 ||| fld t 27 ||| fld a 22 ||| fld s 20 ||| fld p 16 ||| fld o 7) 72 rfl rfl rfl rfl (or_and (or_and (or_and (or_and (or_and rfl (fld_and t _ _ rfl)) (fld_and a _ _ rfl)) (fld_and s _ _ rfl)) (fld_and p _ _ rfl)) (fld_and o _ _ rfl))
    (congr (congr (congr (congr (congrArg Instr.std (bits_skip o 7 rfl (bits_skip p 16 rfl (bits_skip s 20 rfl (bits_skip a 22 rfl (bits_take t rfl rfl)))))) (bits_skip o 7 rfl (bits_skip p 16 rfl (bits_skip s 20 rfl (bits_take a rfl (bits_skip t 27 rfl rfl)))))) (bits_skip o 7 rfl (bits_skip p 16 rfl (bits_take s rfl (bits_skip a 22 rfl (bits_skip t 27 rfl rfl)))))) (bits_skip o 7 rfl (bits_take p rfl (bits_skip s 20 rfl (bits_skip a 22 rfl (bits_skip t 27 rfl rfl)))))) (bits_take o rfl (bits_skip p 16 rfl (bits_skip s 20 rfl (bits_skip a 22 rfl (bits_skip t 27 rfl rfl))))))
theorem RoundTrip.ldff (t : BitVec 5) (a : BitVec 5) (s : BitVec 2) (p : BitVec 4) : RoundTrip.Statement (.ldff t a s p) := 
  trip_long (w := 0x00000039 ||| fld t 27 ||| fld a 22 ||| fld s 20 ||| fld p 16) 73 rfl rfl rfl rfl (or_and (or_and (or_and (or_and rfl (fld_and t _ _ rfl)) (fld_and a _ _ rfl)) (fld_and s _ _ rfl)) (fld_and p _ _ rfl))
    (congr (congr (congr (congrArg Instr.ldff (bits_skip p 16 rfl (bits_skip s 20 rfl (bits_skip a 22 rfl (bits_take t rfl rfl))))) (bits_skip p 16 rfl (bits_skip s 20 rfl (bits_take a rfl (bits_skip t 27 rfl rfl))))) (bits_skip p 16 rfl (bits_take s rfl (bits_skip a 22 rfl (bits_skip t 27 rfl rfl))))) (bits_take p rfl (bits_skip s 20 rfl (bits_skip a 22 rfl (bits_skip t 27 rfl rfl)))))
theorem RoundTrip.ldfe (t : BitVec 5) (a : BitVec 5) (s : BitVec 2) (p : BitVec 4) : RoundTrip.Statement (.ldfe t a s p) := 
  trip_long (w := 0x000000B9 ||| fld t 27 ||| fld a 22 ||| fld s 20 ||| fld p 16) 74 rfl rfl rfl rfl (or_and (or_and (or_and (or_and rfl (fld_and t _ _ rfl)) (fld_and a _ _ rfl)) (fld_and s _ _ rfl)) (fld_and p _ _ rfl))
    (congr (congr (congr (congrArg Instr.ldfe (bits_skip p 16 rfl (bits_skip s 20 rfl (bits_skip a 22 rfl (bits_take t rfl rfl))))) (bits_skip p 16 rfl (bits_skip s 20 rfl (bits_take a rfl (bits_skip t 27 rfl rfl))))) (bits_skip p 16 rfl (bits_take s rfl (bits_skip a 22 rfl (bits_skip t 27 rfl rfl))))) (bits_take p rfl (bits_skip s 20 rfl (bits_skip a 22 rfl (bits_skip t 27 rfl rfl)))))
theorem RoundTrip.stef (t : BitVec 5) (a : BitVec 5) (s : BitVec 2) (p : BitVec 4) : RoundTrip.Statement (.stef t a s p) := 
  trip_long (w := 0x00000139 ||| fld t 27 ||| fld a 22 ||| fld s 20 ||| fld p 16) 75 rfl rfl rfl rfl (or_and (or_and (or_and (or_and rfl (fld_and t _ _ rfl)) (fld_and a _ _ rfl)) (fld_and s _ _ rfl)) (fld_and p _ _ rfl))
    (congr (congr (congr (congrArg Instr.stef (bits_skip p 16 rfl (bits_skip s 20 rfl (bits_skip a 22 rfl (bits_take t rfl rfl))))) (bits_skip p 16 rfl (bits_skip s 20 rfl (bits_take a rfl (bits_skip t 27 rfl rfl))))) (bits_skip p 16 rfl (bits_take s rfl (bits_skip a 22 rfl (bits_skip t 27 rfl rfl))))) (bits_take p rfl (bits_skip s 20 rfl (bits_skip a 22 rfl (bits_skip t 27 rfl rfl)))))
theorem RoundTrip.stff (t : BitVec 5) (a : BitVec 5) (s : BitVec 2) (p : BitVec 4) : RoundTrip.Statement (.stff t a s p) := 
  trip_long (w := 0x000001B9 ||| fld t 27 ||| fld a 22 ||| fld s 20 ||| fld p 16) 76 rfl rfl rfl rfl (or_and (or_and (or_and (or_and rfl (fld_and t _ _ rfl)) (fld_and a _ _ rfl)) (fld_and s _ _ rfl)) (fld_and p _ _ rfl))
    (congr (congr (congr (congrArg Instr.stff (bits_skip p 16 rfl (bits_skip s 20 rfl (bits_skip a 22 rfl (bits_take t rfl rfl))))) (bits_skip p 16 rfl (bits_skip s 20 rfl (bits_take a rfl (bits_skip t 27 rfl rfl))))) (bits_skip p 16 rfl (bits_take s rfl (bits_skip a 22 rfl (bits_skip t 27 rfl rfl))))) (bits_take p rfl (bits_skip s 20 rfl (bits_skip a 22 rfl (bits_skip t 27 rfl rfl)))))
theorem RoundTrip.ldxx (t : BitVec 5) (a : BitVec 5) (s : BitVec 2) (p : BitVec 4) (f : BitVec 3) : RoundTrip.Statement (.ldxx t a s p f) := 
  trip_long (w := 0x00000239 ||| fld t 27 ||| fld a 22 ||| fld s 20 ||| fld p 16 ||| fld f 11) 77 rfl rfl rfl rfl (or_and (or_and (or_and (or_and (or_and rfl (fld_and t _ _ rfl)) (fld_and a _ _ rfl)) (fld_and s _ _ rfl)) (fld_and p _ _ rfl)) (fld_and f _ _ rfl))
    (congr (congr (congr (congr (congrArg Instr.ldxx (bits_skip f 11 rfl (bits_skip p 16 rfl (bits_skip s 20 rfl (bits_skip a 22 rfl (bits_take t rfl rfl)))))) (bits_skip f 11 rfl (bits_skip p 16 rfl (bits_skip s 20 rfl (bits_take a rfl (bits_skip t 27 rfl rfl)))))) (bits_skip f 11 rfl (bits_skip p 16 rfl (bits_take s rfl (bits_skip a 22 rfl (bits_skip t 27 rfl rfl)))))) (bits_skip f 11 rfl (bits_take p rfl (bits_skip s 20 rfl (bits_skip a 22 rfl (bits_skip t 27 rfl rfl)))))) (bits_take f rfl (bits_skip p 16 rfl (bits_skip s 20 rfl (bits_skip a 22 rfl (bits_skip t 27 rfl rfl))))))
theorem RoundTrip.sete (a : BitVec 5) (s : BitVec 2) (p : BitVec 4) : RoundTrip.Statement (.sete a s p) := 
  trip_long (w := 0x000002B9 ||| fld a 22 ||| fld s 20 ||| fld p 16) 78 rfl rfl rfl rfl (or_and (or_and (or_and rfl (fld_and a _ _ rfl)) (fld_and s _ _ rfl)) (fld_and p _ _ rfl))
    (congr (congr (congrArg Instr.sete (bits_skip p 16 rfl (bits_skip s 20 rfl (bits_take a rfl rfl)))) (bits_skip p 16 rfl (bits_take s rfl (bits_skip a 22 rfl rfl)))) (bits_take p rfl (bits_skip s 20 rfl (bits_skip a 22 rfl rfl))))
theorem RoundTrip.aadd (t : BitVec 5) (a : BitVec 5) (s : BitVec 2) (p : BitVec 4) (b : BitVec 5) : RoundTrip.Statement (.aadd t a s p b) := 
  trip_long (w := 0x0000003B ||| fld t 27 ||| fld a 22 ||| fld s 20 ||| fld p 16 ||| fld b 11) 79 rfl rfl rfl rfl (or_and (or_and (or_and (or_and (or_and rfl (fld_and t _ _ rfl)) (fld_and a _ _ rfl)) (fld_and s _ _ rfl)) (fld_and p _ _ rfl)) (fld_and b _ _ rfl))
    (congr (congr (congr (congr (congrArg Instr.aadd (bits_skip b 11 rfl (bits_skip p 16 rfl (bits_skip s 20 rfl (bits_skip a 22 rfl (bits_take t rfl rfl)))))) (bits_skip b 11 rfl (bits_skip p 16 rfl (bits_skip s 20 rfl (bits_take a rfl (bits_skip t 27 rfl rfl)))))) (bits_skip b 11 rfl (bits_skip p 16 rfl (bits_take s rfl (bits_skip a 22 rfl (bits_skip t 27 rfl rfl)))))) (bits_skip b 11 rfl (bits_take p rfl (bits_skip s 20 rfl (bits_skip a 22 rfl (bits_skip t 27 rfl rfl)))))) (bits_take b rfl (bits_skip p 16 rfl (bits_skip s 20 rfl (bits_skip a 22 rfl (bits_skip t 27 rfl rfl))))))
theorem RoundTrip.aand (t : BitVec 5) (a : BitVec 5) (s : BitVec 2) (p : BitVec 4) (b : BitVec 5) : RoundTrip.Statement (.aand t a s p b) := 
  trip_long (w := 0x000000BB ||| fld t 27 ||| fld a 22 ||| fld s 20 ||| fld p 16 ||| fld b 11) 80 rfl rfl rfl rfl (or_and (or_and (or_and (or_and (or_and rfl (fld_and t _ _ rfl)) (fld_and a _ _ rfl)) (fld_and s _ _ rfl)) (fld_and p _ _ rfl)) (fld_and b _ _ rfl))
    (congr (congr (congr (congr (congrArg Instr.aand (bits_skip b 11 rfl (bits_skip p 16 rfl (bits_skip s 20 rfl (bits_skip a 22 rfl (bits_take t rfl rfl)))))) (bits_skip b 11 rfl (bits_skip p 16 rfl (bits_skip s 20 rfl (bits_take a rfl (bits_skip t 27 rfl rfl)))))) (bits_skip b 11 rfl (bits_skip p 16 rfl (bits_take s rfl (bits_skip a 22 rfl (bits_skip t 27 rfl rfl)))))) (bits_skip b 11 rfl (bits_take p rfl (bits_skip s 20 rfl (bits_skip a 22 rfl (bits_skip t 27 rfl rfl)))))) (bits_take b rfl (bits_skip p 16 rfl (bits_skip s 20 rfl (bits_skip a 22 rfl (bits_skip t 27 rfl rfl))))))
theorem RoundTrip.aor (t : BitVec 5) (a : BitVec 5) (s : BitVec 2) (p : BitVec 4) (b : BitVec 5) : RoundTrip.Statement (.aor t a s p b) := 
  trip_long (w := 0x0000013B ||| fld t 27 ||| fld a 22 ||| fld s 20 ||| fld p 16 ||| fld b 11) 81 rfl rfl rfl rfl (or_and (or_and (or_and (or_and (or_and rfl (fld_and t _ _ rfl)) (fld_and a _ _ rfl)) (fld_and s _ _ rfl)) (fld_and p _ _ rfl)) (fld_and b _ _ rfl))
    (congr (congr (congr (congr (congrArg Instr.aor (bits_skip b 11 rfl (bits_skip p 16 rfl (bits_skip s 20 rfl (bits_skip a 22 rfl (bits_take t rfl rfl)))))) (bits_skip b 11 rfl (bits_skip p 16 rfl (bits_skip s 20 rfl (bits_take a rfl (bits_skip t 27 rfl rfl)))))) (bits_skip b 11 rfl (bits_skip p 16 rfl (bits_take s rfl (bits_skip a 22 rfl (bits_skip t 27 rfl rfl)))))) (bits_skip b 11 rfl (bits_take p rfl (bits_skip s 20 rfl (bits_skip a 22 rfl (bits_skip t 27 rfl rfl)))))) (bits_take b rfl (bits_skip p 16 rfl (bits_skip s 20 rfl (bits_skip a 22 rfl (bits_skip t 27 rfl rfl))))))
theorem RoundTrip.axor (t : BitVec 5) (a : BitVec 5) (s : BitVec 2) (p : BitVec 4) (b : BitVec 5) : RoundTrip.Statement (.axor t a s p b) := 
  trip_long (w := 0x000001BB ||| fld t 27 ||| fld a 22 ||| fld s 20 ||| fld p 16 ||| fld b 11) 82 rfl rfl rfl rfl (or_and (or_and (or_and (or_and (or_and rfl (fld_and t _ _ rfl)) (fld_and a _ _ rfl)) (fld_and s _ _ rfl)) (fld_and p _ _ rfl)) (fld_and b _ _ rfl))
    (congr (congr (congr (congr (congrArg Instr.axor (bits_skip b 11 rfl (bits_skip p 16 rfl (bits_skip s 20 rfl (bits_skip a 22 rfl (bits_take t rfl rfl)))))) (bits_skip b 11 rfl (bits_skip p 16 rfl (bits_skip s 20 rfl (bits_take a rfl (bits_skip t 27 rfl rfl)))))) (bits_skip b 11 rfl (bits_skip p 16 rfl (bits_take s rfl (bits_skip a 22 rfl (bits_skip t 27 rfl rfl)))))) (bits_skip b 11 rfl (bits_take p rfl (bits_skip s 20 rfl (bits_skip a 22 rfl (bits_skip t 27 rfl rfl)))))) (bits_take b rfl (bits_skip p 16 rfl (bits_skip s 20 rfl (bits_skip a 22 rfl (bits_skip t 27 rfl rfl))))))
theorem RoundTrip.amin (t : BitVec 5) (a : BitVec 5) (s : BitVec 2) (p : BitVec 4) (b : BitVec 5) : RoundTrip.Statement (.amin t a s p b) := 
  trip_long (w := 0x0000023B ||| fld t 27 ||| fld a 22 ||| fld s 20 ||| fld p 16 ||| fld b 11) 83 rfl rfl rfl rfl (or_and (or_and (or_and (or_and (or_and rfl (fld_and t _ _ rfl)) (fld_and a _ _ rfl)) (fld_and s _ _ rfl)) (fld_and p _ _ rfl)) (fld_and b _ _ rfl))
    (congr (congr (congr (congr (congrArg Instr.amin (bits_skip b 11 rfl (bits_skip p 16 rfl (bits_skip s 20 rfl (bits_skip a 22 rfl (bits_take t rfl rfl)))))) (bits_skip b 11 rfl (bits_skip p 16 rfl (bits_skip s 20 rfl (bits_take a rfl (bits_skip t 27 rfl rfl)))))) (bits_skip b 11 rfl (bits_skip p 16 rfl (bits_take s rfl (bits_skip a 22 rfl (bits_skip t 27 rfl rfl)))))) (bits_skip b 11 rfl (bits_take p rfl (bits_skip s 20 rfl (bits_skip a 22 rfl (bits_skip t 27 rfl rfl)))))) (bits_take b rfl (bits_skip p 16 rfl (bits_skip s 20 rfl (bits_skip a 22 rfl (bits_skip t 27 rfl rfl))))))
theorem RoundTrip.amax (t : BitVec 5) (a : BitVec 5) (s : BitVec 2) (p : BitVec 4) (b : BitVec 5) : RoundTrip.Statement (.amax t a s p b) := 
  trip_long (w := 0x000002BB ||| fld t 27 ||| fld a 22 ||| fld s 20 ||| fld p 16 ||| fld b 11) 84 rfl rfl rfl rfl (or_and (or_and (or_and (or_and (or_and rfl (fld_and t _ _ rfl)) (fld_and a _ _ rfl)) (fld_and s _ _ rfl)) (fld_and p _ _ rfl)) (fld_and b _ _ rfl))
    (congr (congr (congr (congr (congrArg Instr.amax (bits_skip b 11 rfl (bits_skip p 16 rfl (bits_skip s 20 rfl (bits_skip a 22 rfl (bits_take t rfl rfl)))))) (bits_skip b 11 rfl (bits_skip p 16 rfl (bits_skip s 20 rfl (bits_take a rfl (bits_skip t 27 rfl rfl)))))) (bits_skip b 11 rfl (bits_skip p 16 rfl (bits_take s rfl (bits_skip a 22 rfl (bits_skip t 27 rfl rfl)))))) (bits_skip b 11 rfl (bits_take p rfl (bits_skip s 20 rfl (bits_skip a 22 rfl (bits_skip t 27 rfl rfl)))))) (bits_take b rfl (bits_skip p 16 rfl (bits_skip s 20 rfl (bits_skip a 22 rfl (bits_skip t 27 rfl rfl))))))
theorem RoundTrip.aminn (t : BitVec 5) (a : BitVec 5) (s : BitVec 2) (p : BitVec 4) (b : BitVec 5) : RoundTrip.Statement (.aminn t a s p b) := 
  trip_long (w := 0x0000033B ||| fld t 27 ||| fld a 22 ||| fld s 20 ||| fld p 16 ||| fld b 11) 85 rfl rfl rfl rfl (or_and (or_and (or_and (or_and (or_and rfl (fld_and t _ _ rfl)) (fld_and a _ _ rfl)) (fld_and s _ _ rfl)) (fld_and p _ _ rfl)) (fld_and b _ _ rfl))
    (congr (congr (congr (congr (congrArg Instr.aminn (bits_skip b 11 rfl (bits_skip p 16 rfl (bits_skip s 20 rfl (bits_skip a 22 rfl (bits_take t rfl rfl)))))) (bits_skip b 11 rfl (bits_skip p 16 rfl (bits_skip s 20 rfl (bits_take a rfl (bits_skip t 27 rfl rfl)))))) (bits_skip b 11 rfl (bits_skip p 16 rfl (bits_take s rfl (bits_skip a 22 rfl (bits_skip t 27 rfl rfl)))))) (bits_skip b 11 rfl (bits_take p rfl (bits_skip s 20 rfl (bits_skip a 22 rfl (bits_skip t 27 rfl rfl)))))) (bits_take b rfl (bits_skip p 16 rfl (bits_skip s 20 rfl (bits_skip a 22 rfl (bits_skip t 27 rfl rfl))))))
theorem RoundTrip.amaxn (t : BitVec 5) (a : BitVec 5) (s : BitVec 2) (p : BitVec 4) (b : BitVec 5) : RoundTrip.Statement (.amaxn t a s p b) := 
  trip_long (w := 0x000003BB ||| fld t 27 ||| fld a 22 ||| fld s 20 ||| fld p 16 ||| fld b 11) 86 rfl rfl rfl rfl (or_and (or_and (or_and (or_and (or_and rfl (fld_and t _ _ rfl)) (fld_and a _ _ rfl)) (fld_and s _ _ rfl)) (fld_and p _ _ rfl)) (fld_and b _ _ rfl))
    (congr (congr (congr (congr (congrArg Instr.amaxn (bits_skip b 11 rfl (bits_skip p 16 rfl (bits_skip s 20 rfl (bits_skip a 22 rfl (bits_take t rfl rfl)))))) (bits_skip b 11 rfl (bits_skip p 16 rfl (bits_skip s 20 rfl (bits_take a rfl (bits_skip t 27 rfl rfl)))))) (bits_skip b 11 rfl (bits_skip p 16 rfl (bits_take s rfl (bits_skip a 22 rfl (bits_skip t 27 rfl rfl)))))) (bits_skip b 11 rfl (bits_take p rfl (bits_skip s 20 rfl (bits_skip a 22 rfl (bits_skip t 27 rfl rfl)))))) (bits_take b rfl (bits_skip p 16 rfl (bits_skip s 20 rfl (bits_skip a 22 rfl (bits_skip t 27 rfl rfl))))))
theorem RoundTrip.aswap (t : BitVec 5) (a : BitVec 5) (s : BitVec 2) (p : BitVec 4) (b : BitVec 5) : RoundTrip.Statement (.aswap t a s p b) := 
  trip_long (w := 0x0000043B ||| fld t 27 ||| fld a 22 ||| fld s 20 ||| fld p 16 ||| fld b 11) 87 rfl rfl rfl rfl (or_and (or_and (or_and (or_and (or_and rfl (fld_and t _ _ rfl)) (fld_and a _ _ rfl)) (fld_and s _ _ rfl)) (fld_and p _ _ rfl)) (fld_and b _ _ rfl))
    (congr (congr (congr (congr (congrArg Instr.aswap (bits_skip b 11 rfl (bits_skip p 16 rfl (bits_skip s 20 rfl (bits_skip a 22 rfl (bits_take t rfl rfl)))))) (bits_skip b 11 rfl (bits_skip p 16 rfl (bits_skip s 20 rfl (bits_take a rfl (bits_skip t 27 rfl rfl)))))) (bits_skip b 11 rfl (bits_skip p 16 rfl (bits_take s rfl (bits_skip a 22 rfl (bits_skip t 27 rfl rfl)))))) (bits_skip b 11 rfl (bits_take p rfl (bits_skip s 20 rfl (bits_skip a 22 rfl (bits_skip t 27 rfl rfl)))))) (bits_take b rfl (bits_skip p 16 rfl (bits_skip s 20 rfl (bits_skip a 22 rfl (bits_skip t 27 rfl rfl))))))
theorem RoundTrip.cas (t : BitVec 5) (a : BitVec 5) (s : BitVec 2) (p : BitVec 4) (b : BitVec 5) : RoundTrip.Statement (.cas t a s p b) := 
  trip_long (w := 0x000004BB ||| fld t 27 ||| fld a 22 ||| fld s 20 ||| fld p 16 ||| fld b 11) 88 rfl rfl rfl rfl (or_and (or_and (or_and (or_and (or_and rfl (fld_and t _ _ rfl)) (fld_and a _ _ rfl)) (fld_and s _ _ rfl)) (fld_and p _ _ rfl)) (fld_and b _ _ rfl))
    (congr (congr (congr (congr (congrArg Instr.cas (bits_skip b 11 rfl (bits_skip p 16 rfl (bits_skip s 20 rfl (bits_skip a 22 rfl (bits_take t rfl rfl)))))) (bits_skip b 11 rfl (bits_skip p 16 rfl (bits_skip s 20 rfl (bits_take a rfl (bits_skip t 27 rfl rfl)))))) (bits_skip b 11 rfl (bits_skip p 16 rfl (bits_take s rfl (bits_skip a 22 rfl (bits_skip t 27 rfl rfl)))))) (bits_skip b 11 rfl (bits_take p rfl (bits_skip s 20 rfl (bits_skip a 22 rfl (bits_skip t 27 rfl rfl)))))) (bits_take b rfl (bits_skip p 16 rfl (bits_skip s 20 rfl (bits_skip a 22 rfl (bits_skip t 27 rfl rfl))))))
theorem RoundTrip.afadd (t : BitVec 5) (a : BitVec 5) (s : BitVec 2) (p : BitVec 4) (b : BitVec 5) : RoundTrip.Statement (.afadd t a s p b) := 
  trip_long (w := 0x0000053B ||| fld t 27 ||| fld a 22 ||| fld s 20 ||| fld p 16 ||| fld b 11) 89 rfl rfl rfl rfl (or_and (or_and (or_and (or_and (or_and rfl (fld_and t _ _ rfl)) (fld_and a _ _ rfl)) (fld_and s _ _ rfl)) (fld_and p _ _ rfl)) (fld_and b _ _ rfl))
    (congr (congr (congr (congr (congrArg Instr.afadd (bits_skip b 11 rfl (bits_skip p 16 rfl (bits_skip s 20 rfl (bits_skip a 22 rfl (bits_take t rfl rfl)))))) (bits_skip b 11 rfl (bits_skip p 16 rfl (bits_skip s 20 rfl (bits_take a rfl (bits_skip t 27 rfl rfl)))))) (bits_skip b 11 rfl (bits_skip p 16 rfl (bits_take s rfl (bits_skip a 22 rfl (bits_skip t 27 rfl rfl)))))) (bits_skip b 11 rfl (bits_take p rfl (bits_skip s 20 rfl (bits_skip a 22 rfl (bits_skip t 27 rfl rfl)))))) (bits_take b rfl (bits_skip p 16 rfl (bits_skip s 20 rfl (bits_skip a 22 rfl (bits_skip t 27 rfl rfl))))))
theorem RoundTrip.cflush (a : BitVec 5) (s : BitVec 2) (p : BitVec 4) (b : BitVec 5) : RoundTrip.Statement (.cflush a s p b) := 
  trip_long (w := 0x0000003D ||| fld a 22 ||| fld s 20 ||| fld p 16 ||| fld b 11) 90 rfl rfl rfl rfl (or_and (or_and (or_and (or_and rfl (fld_and a _ _ rfl)) (fld_and s _ _ rfl)) (fld_and p _ _ rfl)) (fld_and b _ _ rfl))
    (congr (congr (congr (congrArg Instr.cflush (bits_skip b 11 rfl (bits_skip p 16 rfl (bits_skip s 20 rfl (bits_take a rfl rfl))))) (bits_skip b 11 rfl (bits_skip p 16 rfl (bits_take s rfl (bits_skip a 22 rfl rfl))))) (bits_skip b 11 rfl (bits_take p rfl (bits_skip s 20 rfl (bits_skip a 22 rfl rfl))))) (bits_take b rfl (bits_skip p 16 rfl (bits_skip s 20 rfl (bits_skip a 22 rfl rfl)))))
theorem RoundTrip.cinv (a : BitVec 5) (s : BitVec 2) (p : BitVec 4) (b : BitVec 5) : RoundTrip.Statement (.cinv a s p b) := 
  trip_long (w := 0x000000BD ||| fld a 22 ||| fld s 20 ||| fld p 16 ||| fld b 11) 91 rfl rfl rfl rfl (or_and (or_and (or_and (or_and rfl (fld_and a _ _ rfl)) (fld_and s _ _ rfl)) (fld_and p _ _ rfl)) (fld_and b _ _ rfl))
    (congr (congr (congr (congrArg Instr.cinv (bits_skip b 11 rfl (bits_skip p 16 rfl (bits_skip s 20 rfl (bits_take a rfl rfl))))) (bits_skip b 11 rfl (bits_skip p 16 rfl (bits_take s rfl (bits_skip a 22 rfl rfl))))) (bits_skip b 11 rfl (bits_take p rfl (bits_skip s 20 rfl (bits_skip a 22 rfl rfl))))) (bits_take b rfl (bits_skip p 16 rfl (bits_skip s 20 rfl (bits_skip a 22 rfl rfl)))))
theorem RoundTrip.smap (n : BitVec 3) (a : BitVec 5) (s : BitVec 2) (p : BitVec 4) : RoundTrip.Statement (.smap n a s p) := 
  trip_long (w := 0x0000013D ||| fld n 27 ||| fld a 22 ||| fld s 20 ||| fld p 16) 92 rfl rfl rfl rfl (or_and (or_and (or_and (or_and rfl (fld_and n _ _ rfl)) (fld_and a _ _ rfl)) (fld_and s _ _ rfl)) (fld_and p _ _ rfl))
    (congr (congr (congr (congrArg Instr.smap (bits_skip p 16 rfl (bits_skip s 20 rfl (bits_skip a 22 rfl (bits_take n rfl rfl))))) (bits_skip p 16 rfl (bits_skip s 20 rfl (bits_take a rfl (bits_skip n 27 rfl rfl))))) (bits_skip p 16 rfl (bits_take s rfl (bits_skip a 22 rfl (bits_skip n 27 rfl rfl))))) (bits_take p rfl (bits_skip s 20 rfl (bits_skip a 22 rfl (bits_skip n 27 rfl rfl)))))
theorem RoundTrip.sunmap (n : BitVec 3) (s : BitVec 2) (p : BitVec 4) : RoundTrip.Statement (.sunmap n s p) := 
  trip_long (w := 0x000001BD ||| fld n 27 ||| fld s 20 ||| fld p 16) 93 rfl rfl rfl rfl (or_and (or_and (or_and rfl (fld_and n _ _ rfl)) (fld_and s _ _ rfl)) (fld_and p _ _ rfl))
    (congr (congr (congrArg Instr.sunmap (bits_skip p 16 rfl (bits_skip s 20 rfl (bits_take n rfl rfl)))) (bits_skip p 16 rfl (bits_take s rfl (bits_skip n 27 rfl rfl)))) (bits_take p rfl (bits_skip s 20 rfl (bits_skip n 27 rfl rfl))))
theorem RoundTrip.swb (n : BitVec 3) (s : BitVec 2) (p : BitVec 4) : RoundTrip.Statement (.swb n s p) := 
  trip_long (w := 0x0000023D ||| fld n 27 ||| fld s 20 ||| fld p 16) 94 rfl rfl rfl rfl (or_and (or_and (or_and rfl (fld_and n _ _ rfl)) (fld_and s _ _ rfl)) (fld_and p _ _ rfl))
    (congr (congr (congrArg Instr.swb (bits_skip p 16 rfl (bits_skip s 20 rfl (bits_take n rfl rfl)))) (bits_skip p 16 rfl (bits_take s rfl (bits_skip n 27 rfl rfl)))) (bits_take p rfl (bits_skip s 20 rfl (bits_skip n 27 rfl rfl))))
theorem RoundTrip.pref (a : BitVec 5) (s : BitVec 2) (p : BitVec 4) : RoundTrip.Statement (.pref a s p) := 
  trip_long (w := 0x000002BD ||| fld a 22 ||| fld s 20 ||| fld p 16) 95 rfl rfl rfl rfl (or_and (or_and (or_and rfl (fld_and a _ _ rfl)) (fld_and s _ _ rfl)) (fld_and p _ _ rfl))
    (congr (congr (congrArg Instr.pref (bits_skip p 16 rfl (bits_skip s 20 rfl (bits_take a rfl rfl)))) (bits_skip p 16 rfl (bits_take s rfl (bits_skip a 22 rfl rfl)))) (bits_take p rfl (bits_skip s 20 rfl (bits_skip a 22 rfl rfl))))
theorem RoundTrip.fmtw (t : BitVec 5) (a : BitVec 5) (s : BitVec 2) (p : BitVec 4) : RoundTrip.Statement (.fmtw t a s p) := 
  trip_long (w := 0x0000033D ||| fld t 27 ||| fld a 22 ||| fld s 20 ||| fld p 16) 96 rfl rfl rfl rfl (or_and (or_and (or_and (or_and rfl (fld_and t _ _ rfl)) (fld_and a _ _ rfl)) (fld_and s _ _ rfl)) (fld_and p _ _ rfl))
    (congr (congr (congr (congrArg Instr.fmtw (bits_skip p 16 rfl (bits_skip s 20 rfl (bits_skip a 22 rfl (bits_take t rfl rfl))))) (bits_skip p 16 rfl (bits_skip s 20 rfl (bits_take a rfl (bits_skip t 27 rfl rfl))))) (bits_skip p 16 rfl (bits_take s rfl (bits_skip a 22 rfl (bits_skip t 27 rfl rfl))))) (bits_take p rfl (bits_skip s 20 rfl (bits_skip a 22 rfl (bits_skip t 27 rfl rfl)))))
theorem RoundTrip.sfmt (n : BitVec 3) (a : BitVec 5) (s : BitVec 2) (p : BitVec 4) : RoundTrip.Statement (.sfmt n a s p) := 
  trip_long (w := 0x000003BD ||| fld n 27 ||| fld a 22 ||| fld s 20 ||| fld p 16) 97 rfl rfl rfl rfl (or_and (or_and (or_and (or_and rfl (fld_and n _ _ rfl)) (fld_and a _ _ rfl)) (fld_and s _ _ rfl)) (fld_and p _ _ rfl))
    (congr (congr (congr (congrArg Instr.sfmt (bits_skip p 16 rfl (bits_skip s 20 rfl (bits_skip a 22 rfl (bits_take n rfl rfl))))) (bits_skip p 16 rfl (bits_skip s 20 rfl (bits_take a rfl (bits_skip n 27 rfl rfl))))) (bits_skip p 16 rfl (bits_take s rfl (bits_skip a 22 rfl (bits_skip n 27 rfl rfl))))) (bits_take p rfl (bits_skip s 20 rfl (bits_skip a 22 rfl (bits_skip n 27 rfl rfl)))))
theorem RoundTrip.mbxw (n : BitVec 3) (a : BitVec 5) (b : BitVec 5) (p : BitVec 4) (s : BitVec 2) : RoundTrip.Statement (.mbxw n a b p s) := 
  trip_long (w := 0x0000003F ||| fld n 27 ||| fld a 22 ||| fld b 17 ||| fld p 13 ||| fld s 11) 98 rfl rfl rfl rfl (or_and (or_and (or_and (or_and (or_and rfl (fld_and n _ _ rfl)) (fld_and a _ _ rfl)) (fld_and b _ _ rfl)) (fld_and p _ _ rfl)) (fld_and s _ _ rfl))
    (congr (congr (congr (congr (congrArg Instr.mbxw (bits_skip s 11 rfl (bits_skip p 13 rfl (bits_skip b 17 rfl (bits_skip a 22 rfl (bits_take n rfl rfl)))))) (bits_skip s 11 rfl (bits_skip p 13 rfl (bits_skip b 17 rfl (bits_take a rfl (bits_skip n 27 rfl rfl)))))) (bits_skip s 11 rfl (bits_skip p 13 rfl (bits_take b rfl (bits_skip a 22 rfl (bits_skip n 27 rfl rfl)))))) (bits_skip s 11 rfl (bits_take p rfl (bits_skip b 17 rfl (bits_skip a 22 rfl (bits_skip n 27 rfl rfl)))))) (bits_take s rfl (bits_skip p 13 rfl (bits_skip b 17 rfl (bits_skip a 22 rfl (bits_skip n 27 rfl rfl))))))
theorem RoundTrip.mbxwi (n : BitVec 3) (p : BitVec 4) (s : BitVec 2) : RoundTrip.Statement (.mbxwi n p s) := 
  trip_long (w := 0x000000BF ||| fld n 27 ||| fld p 13 ||| fld s 11) 99 rfl rfl rfl rfl (or_and (or_and (or_and rfl (fld_and n _ _ rfl)) (fld_and p _ _ rfl)) (fld_and s _ _ rfl))
    (congr (congr (congrArg Instr.mbxwi (bits_skip s 11 rfl (bits_skip p 13 rfl (bits_take n rfl rfl)))) (bits_skip s 11 rfl (bits_take p rfl (bits_skip n 27 rfl rfl)))) (bits_take s rfl (bits_skip p 13 rfl (bits_skip n 27 rfl rfl))))
theorem RoundTrip.mbxr (d : BitVec 5) (n : BitVec 3) (p : BitVec 4) (s : BitVec 2) : RoundTrip.Statement (.mbxr d n p s) := 
  trip_long (w := 0x0000013F ||| fld d 27 ||| fld n 17 ||| fld p 13 ||| fld s 11) 100 rfl rfl rfl rfl (or_and (or_and (or_and (or_and rfl (fld_and d _ _ rfl)) (fld_and n _ _ rfl)) (fld_and p _ _ rfl)) (fld_and s _ _ rfl))
    (congr (congr (congr (congrArg Instr.mbxr (bits_skip s 11 rfl (bits_skip p 13 rfl (bits_skip n 17 rfl (bits_take d rfl rfl))))) (bits_skip s 11 rfl (bits_skip p 13 rfl (bits_take n rfl (bits_skip d 27 rfl rfl))))) (bits_skip s 11 rfl (bits_take p rfl (bits_skip n 17 rfl (bits_skip d 27 rfl rfl))))) (bits_take s rfl (bits_skip p 13 rfl (bits_skip n 17 rfl (bits_skip d 27 rfl rfl)))))
theorem RoundTrip.mbxt (d : BitVec 5) (f : BitVec 3) (n : BitVec 3) (p : BitVec 4) (s : BitVec 2) : RoundTrip.Statement (.mbxt d f n p s) := 
  trip_long (w := 0x000001BF ||| fld d 27 ||| fld f 22 ||| fld n 17 ||| fld p 13 ||| fld s 11) 101 rfl rfl rfl rfl (or_and (or_and (or_and (or_and (or_and rfl (fld_and d _ _ rfl)) (fld_and f _ _ rfl)) (fld_and n _ _ rfl)) (fld_and p _ _ rfl)) (fld_and s _ _ rfl))
    (congr (congr (congr (congr (congrArg Instr.mbxt (bits_skip s 11 rfl (bits_skip p 13 rfl (bits_skip n 17 rfl (bits_skip f 22 rfl (bits_take d rfl rfl)))))) (bits_skip s 11 rfl (bits_skip p 13 rfl (bits_skip n 17 rfl (bits_take f rfl (bits_skip d 27 rfl rfl)))))) (bits_skip s 11 rfl (bits_skip p 13 rfl (bits_take n rfl (bits_skip f 22 rfl (bits_skip d 27 rfl rfl)))))) (bits_skip s 11 rfl (bits_take p rfl (bits_skip n 17 rfl (bits_skip f 22 rfl (bits_skip d 27 rfl rfl)))))) (bits_take s rfl (bits_skip p 13 rfl (bits_skip n 17 rfl (bits_skip f 22 rfl (bits_skip d 27 rfl rfl))))))
theorem RoundTrip.semp (d : BitVec 5) (n : BitVec 3) (p : BitVec 4) (s : BitVec 2) : RoundTrip.Statement (.semp d n p s) := 
  trip_long (w := 0x0000023F ||| fld d 27 ||| fld n 17 ||| fld p 13 ||| fld s 11) 102 rfl rfl rfl rfl (or_and (or_and (or_and (or_and rfl (fld_and d _ _ rfl)) (fld_and n _ _ rfl)) (fld_and p _ _ rfl)) (fld_and s _ _ rfl))
    (congr (congr (congr (congrArg Instr.semp (bits_skip s 11 rfl (bits_skip p 13 rfl (bits_skip n 17 rfl (bits_take d rfl rfl))))) (bits_skip s 11 rfl (bits_skip p 13 rfl (bits_take n rfl (bits_skip d 27 rfl rfl))))) (bits_skip s 11 rfl (bits_take p rfl (bits_skip n 17 rfl (bits_skip d 27 rfl rfl))))) (bits_take s rfl (bits_skip p 13 rfl (bits_skip n 17 rfl (bits_skip d 27 rfl rfl)))))
theorem RoundTrip.semv (n : BitVec 3) (p : BitVec 4) (s : BitVec 2) : RoundTrip.Statement (.semv n p s) := 
  trip_long (w := 0x000002BF ||| fld n 17 ||| fld p 13 ||| fld s 11) 103 rfl rfl rfl rfl (or_and (or_and (or_and rfl (fld_and n _ _ rfl)) (fld_and p _ _ rfl)) (fld_and s _ _ rfl))
    (congr (congr (congrArg Instr.semv (bits_skip s 11 rfl (bits_skip p 13 rfl (bits_take n rfl rfl)))) (bits_skip s 11 rfl (bits_take p rfl (bits_skip n 17 rfl rfl)))) (bits_take s rfl (bits_skip p 13 rfl (bits_skip n 17 rfl rfl))))
theorem RoundTrip.qpush (f : BitVec 3) (a : BitVec 5) (b : BitVec 5) (p : BitVec 4) (s : BitVec 2) : RoundTrip.Statement (.qpush f a b p s) := 
  trip_long (w := 0x0000033F ||| fld f 27 ||| fld a 22 ||| fld b 17 ||| fld p 13 ||| fld s 11) 104 rfl rfl rfl rfl (or_and (or_and (or_and (or_and (or_and rfl (fld_and f _ _ rfl)) (fld_and a _ _ rfl)) (fld_and b _ _ rfl)) (fld_and p _ _ rfl)) (fld_and s _ _ rfl))
    (congr (congr (congr (congr (congrArg Instr.qpush (bits_skip s 11 rfl (bits_skip p 13 rfl (bits_skip b 17 rfl (bits_skip a 22 rfl (bits_take f rfl rfl)))))) (bits_skip s 11 rfl (bits_skip p 13 rfl (bits_skip b 17 rfl (bits_take a rfl (bits_skip f 27 rfl rfl)))))) (bits_skip s 11 rfl (bits_skip p 13 rfl (bits_take b rfl (bits_skip a 22 rfl (bits_skip f 27 rfl rfl)))))) (bits_skip s 11 rfl (bits_take p rfl (bits_skip b 17 rfl (bits_skip a 22 rfl (bits_skip f 27 rfl rfl)))))) (bits_take s rfl (bits_skip p 13 rfl (bits_skip b 17 rfl (bits_skip a 22 rfl (bits_skip f 27 rfl rfl))))))
theorem RoundTrip.qpop (d : BitVec 5) (f : BitVec 3) (p : BitVec 4) (s : BitVec 2) : RoundTrip.Statement (.qpop d f p s) := 
  trip_long (w := 0x000003BF ||| fld d 27 ||| fld f 22 ||| fld p 13 ||| fld s 11) 105 rfl rfl rfl rfl (or_and (or_and (or_and (or_and rfl (fld_and d _ _ rfl)) (fld_and f _ _ rfl)) (fld_and p _ _ rfl)) (fld_and s _ _ rfl))
    (congr (congr (congr (congrArg Instr.qpop (bits_skip s 11 rfl (bits_skip p 13 rfl (bits_skip f 22 rfl (bits_take d rfl rfl))))) (bits_skip s 11 rfl (bits_skip p 13 rfl (bits_take f rfl (bits_skip d 27 rfl rfl))))) (bits_skip s 11 rfl (bits_take p rfl (bits_skip f 22 rfl (bits_skip d 27 rfl rfl))))) (bits_take s rfl (bits_skip p 13 rfl (bits_skip f 22 rfl (bits_skip d 27 rfl rfl)))))
theorem RoundTrip.wfe (p : BitVec 4) (s : BitVec 2) : RoundTrip.Statement (.wfe p s) := 
  trip_long (w := 0x0000043F ||| fld p 13 ||| fld s 11) 106 rfl rfl rfl rfl (or_and (or_and rfl (fld_and p _ _ rfl)) (fld_and s _ _ rfl))
    (congr (congrArg Instr.wfe (bits_skip s 11 rfl (bits_take p rfl rfl))) (bits_take s rfl (bits_skip p 13 rfl rfl)))
theorem RoundTrip.sev (n : BitVec 3) (a : BitVec 5) (p : BitVec 4) (s : BitVec 2) : RoundTrip.Statement (.sev n a p s) := 
  trip_long (w := 0x000004BF ||| fld n 27 ||| fld a 22 ||| fld p 13 ||| fld s 11) 107 rfl rfl rfl rfl (or_and (or_and (or_and (or_and rfl (fld_and n _ _ rfl)) (fld_and a _ _ rfl)) (fld_and p _ _ rfl)) (fld_and s _ _ rfl))
    (congr (congr (congr (congrArg Instr.sev (bits_skip s 11 rfl (bits_skip p 13 rfl (bits_skip a 22 rfl (bits_take n rfl rfl))))) (bits_skip s 11 rfl (bits_skip p 13 rfl (bits_take a rfl (bits_skip n 27 rfl rfl))))) (bits_skip s 11 rfl (bits_take p rfl (bits_skip a 22 rfl (bits_skip n 27 rfl rfl))))) (bits_take s rfl (bits_skip p 13 rfl (bits_skip a 22 rfl (bits_skip n 27 rfl rfl)))))
theorem RoundTrip.bara (c : BitVec 3) (a : BitVec 5) (b : BitVec 4) (p : BitVec 4) (s : BitVec 2) : RoundTrip.Statement (.bara c a b p s) := 
  trip_long (w := 0x00000041 ||| fld c 27 ||| fld a 22 ||| fld b 17 ||| fld p 13 ||| fld s 11) 108 rfl rfl rfl rfl (or_and (or_and (or_and (or_and (or_and rfl (fld_and c _ _ rfl)) (fld_and a _ _ rfl)) (fld_and b _ _ rfl)) (fld_and p _ _ rfl)) (fld_and s _ _ rfl))
    (congr (congr (congr (congr (congrArg Instr.bara (bits_skip s 11 rfl (bits_skip p 13 rfl (bits_skip b 17 rfl (bits_skip a 22 rfl (bits_take c rfl rfl)))))) (bits_skip s 11 rfl (bits_skip p 13 rfl (bits_skip b 17 rfl (bits_take a rfl (bits_skip c 27 rfl rfl)))))) (bits_skip s 11 rfl (bits_skip p 13 rfl (bits_take b rfl (bits_skip a 22 rfl (bits_skip c 27 rfl rfl)))))) (bits_skip s 11 rfl (bits_take p rfl (bits_skip b 17 rfl (bits_skip a 22 rfl (bits_skip c 27 rfl rfl)))))) (bits_take s rfl (bits_skip p 13 rfl (bits_skip b 17 rfl (bits_skip a 22 rfl (bits_skip c 27 rfl rfl))))))
theorem RoundTrip.barw (c : BitVec 3) (a : BitVec 5) (b : BitVec 4) (p : BitVec 4) (s : BitVec 2) : RoundTrip.Statement (.barw c a b p s) := 
  trip_long (w := 0x000000C1 ||| fld c 27 ||| fld a 22 ||| fld b 17 ||| fld p 13 ||| fld s 11) 109 rfl rfl rfl rfl (or_and (or_and (or_and (or_and (or_and rfl (fld_and c _ _ rfl)) (fld_and a _ _ rfl)) (fld_and b _ _ rfl)) (fld_and p _ _ rfl)) (fld_and s _ _ rfl))
    (congr (congr (congr (congr (congrArg Instr.barw (bits_skip s 11 rfl (bits_skip p 13 rfl (bits_skip b 17 rfl (bits_skip a 22 rfl (bits_take c rfl rfl)))))) (bits_skip s 11 rfl (bits_skip p 13 rfl (bits_skip b 17 rfl (bits_take a rfl (bits_skip c 27 rfl rfl)))))) (bits_skip s 11 rfl (bits_skip p 13 rfl (bits_take b rfl (bits_skip a 22 rfl (bits_skip c 27 rfl rfl)))))) (bits_skip s 11 rfl (bits_take p rfl (bits_skip b 17 rfl (bits_skip a 22 rfl (bits_skip c 27 rfl rfl)))))) (bits_take s rfl (bits_skip p 13 rfl (bits_skip b 17 rfl (bits_skip a 22 rfl (bits_skip c 27 rfl rfl))))))
theorem RoundTrip.barq (a : BitVec 5) (b : BitVec 2) (p : BitVec 4) (s : BitVec 2) : RoundTrip.Statement (.barq a b p s) := 
  trip_long (w := 0x00000141 ||| fld a 22 ||| fld b 17 ||| fld p 13 ||| fld s 11) 110 rfl rfl rfl rfl (or_and (or_and (or_and (or_and rfl (fld_and a _ _ rfl)) (fld_and b _ _ rfl)) (fld_and p _ _ rfl)) (fld_and s _ _ rfl))
    (congr (congr (congr (congrArg Instr.barq (bits_skip s 11 rfl (bits_skip p 13 rfl (bits_skip b 17 rfl (bits_take a rfl rfl))))) (bits_skip s 11 rfl (bits_skip p 13 rfl (bits_take b rfl (bits_skip a 22 rfl rfl))))) (bits_skip s 11 rfl (bits_take p rfl (bits_skip b 17 rfl (bits_skip a 22 rfl rfl))))) (bits_take s rfl (bits_skip p 13 rfl (bits_skip b 17 rfl (bits_skip a 22 rfl rfl)))))
theorem RoundTrip.tkgetInsn (d : BitVec 5) (a : BitVec 5) (c : BitVec 4) (p : BitVec 4) (s : BitVec 2) : RoundTrip.Statement (.tkgetInsn d a c p s) := 
  trip_long (w := 0x00000059 ||| fld d 27 ||| fld a 22 ||| fld c 17 ||| fld p 13 ||| fld s 11) 111 rfl rfl rfl rfl (or_and (or_and (or_and (or_and (or_and rfl (fld_and d _ _ rfl)) (fld_and a _ _ rfl)) (fld_and c _ _ rfl)) (fld_and p _ _ rfl)) (fld_and s _ _ rfl))
    (congr (congr (congr (congr (congrArg Instr.tkgetInsn (bits_skip s 11 rfl (bits_skip p 13 rfl (bits_skip c 17 rfl (bits_skip a 22 rfl (bits_take d rfl rfl)))))) (bits_skip s 11 rfl (bits_skip p 13 rfl (bits_skip c 17 rfl (bits_take a rfl (bits_skip d 27 rfl rfl)))))) (bits_skip s 11 rfl (bits_skip p 13 rfl (bits_take c rfl (bits_skip a 22 rfl (bits_skip d 27 rfl rfl)))))) (bits_skip s 11 rfl (bits_take p rfl (bits_skip c 17 rfl (bits_skip a 22 rfl (bits_skip d 27 rfl rfl)))))) (bits_take s rfl (bits_skip p 13 rfl (bits_skip c 17 rfl (bits_skip a 22 rfl (bits_skip d 27 rfl rfl))))))
theorem RoundTrip.tkwait (a : BitVec 5) (p : BitVec 4) (s : BitVec 2) : RoundTrip.Statement (.tkwait a p s) := 
  trip_long (w := 0x000000D9 ||| fld a 22 ||| fld p 13 ||| fld s 11) 112 rfl rfl rfl rfl (or_and (or_and (or_and rfl (fld_and a _ _ rfl)) (fld_and p _ _ rfl)) (fld_and s _ _ rfl))
    (congr (congr (congrArg Instr.tkwait (bits_skip s 11 rfl (bits_skip p 13 rfl (bits_take a rfl rfl)))) (bits_skip s 11 rfl (bits_take p rfl (bits_skip a 22 rfl rfl)))) (bits_take s rfl (bits_skip p 13 rfl (bits_skip a 22 rfl rfl))))
theorem RoundTrip.tkdoneInsn (a : BitVec 5) (c : BitVec 4) (p : BitVec 4) (s : BitVec 2) : RoundTrip.Statement (.tkdoneInsn a c p s) := 
  trip_long (w := 0x00000159 ||| fld a 22 ||| fld c 17 ||| fld p 13 ||| fld s 11) 113 rfl rfl rfl rfl (or_and (or_and (or_and (or_and rfl (fld_and a _ _ rfl)) (fld_and c _ _ rfl)) (fld_and p _ _ rfl)) (fld_and s _ _ rfl))
    (congr (congr (congr (congrArg Instr.tkdoneInsn (bits_skip s 11 rfl (bits_skip p 13 rfl (bits_skip c 17 rfl (bits_take a rfl rfl))))) (bits_skip s 11 rfl (bits_skip p 13 rfl (bits_take c rfl (bits_skip a 22 rfl rfl))))) (bits_skip s 11 rfl (bits_take p rfl (bits_skip c 17 rfl (bits_skip a 22 rfl rfl))))) (bits_take s rfl (bits_skip p 13 rfl (bits_skip c 17 rfl (bits_skip a 22 rfl rfl)))))
theorem RoundTrip.ctrb (a : BitVec 5) (b : BitVec 5) (p : BitVec 4) (s : BitVec 2) : RoundTrip.Statement (.ctrb a b p s) := 
  trip_long (w := 0x000001D9 ||| fld a 22 ||| fld b 17 ||| fld p 13 ||| fld s 11) 114 rfl rfl rfl rfl (or_and (or_and (or_and (or_and rfl (fld_and a _ _ rfl)) (fld_and b _ _ rfl)) (fld_and p _ _ rfl)) (fld_and s _ _ rfl))
    (congr (congr (congr (congrArg Instr.ctrb (bits_skip s 11 rfl (bits_skip p 13 rfl (bits_skip b 17 rfl (bits_take a rfl rfl))))) (bits_skip s 11 rfl (bits_skip p 13 rfl (bits_take b rfl (bits_skip a 22 rfl rfl))))) (bits_skip s 11 rfl (bits_take p rfl (bits_skip b 17 rfl (bits_skip a 22 rfl rfl))))) (bits_take s rfl (bits_skip p 13 rfl (bits_skip b 17 rfl (bits_skip a 22 rfl rfl)))))
theorem RoundTrip.ctres (d : BitVec 5) (a : BitVec 5) (f : BitVec 3) (p : BitVec 4) (s : BitVec 2) : RoundTrip.Statement (.ctres d a f p s) := 
  trip_long (w := 0x00000259 ||| fld d 27 ||| fld a 22 ||| fld f 17 ||| fld p 13 ||| fld s 11) 115 rfl rfl rfl rfl (or_and (or_and (or_and (or_and (or_and rfl (fld_and d _ _ rfl)) (fld_and a _ _ rfl)) (fld_and f _ _ rfl)) (fld_and p _ _ rfl)) (fld_and s _ _ rfl))
    (congr (congr (congr (congr (congrArg Instr.ctres (bits_skip s 11 rfl (bits_skip p 13 rfl (bits_skip f 17 rfl (bits_skip a 22 rfl (bits_take d rfl rfl)))))) (bits_skip s 11 rfl (bits_skip p 13 rfl (bits_skip f 17 rfl (bits_take a rfl (bits_skip d 27 rfl rfl)))))) (bits_skip s 11 rfl (bits_skip p 13 rfl (bits_take f rfl (bits_skip a 22 rfl (bits_skip d 27 rfl rfl)))))) (bits_skip s 11 rfl (bits_take p rfl (bits_skip f 17 rfl (bits_skip a 22 rfl (bits_skip d 27 rfl rfl)))))) (bits_take s rfl (bits_skip p 13 rfl (bits_skip f 17 rfl (bits_skip a 22 rfl (bits_skip d 27 rfl rfl))))))
theorem RoundTrip.ctabtInsn (a : BitVec 5) (p : BitVec 4) (s : BitVec 2) : RoundTrip.Statement (.ctabtInsn a p s) := 
  trip_long (w := 0x000002D9 ||| fld a 22 ||| fld p 13 ||| fld s 11) 116 rfl rfl rfl rfl (or_and (or_and (or_and rfl (fld_and a _ _ rfl)) (fld_and p _ _ rfl)) (fld_and s _ _ rfl))
    (congr (congr (congrArg Instr.ctabtInsn (bits_skip s 11 rfl (bits_skip p 13 rfl (bits_take a rfl rfl)))) (bits_skip s 11 rfl (bits_take p rfl (bits_skip a 22 rfl rfl)))) (bits_take s rfl (bits_skip p 13 rfl (bits_skip a 22 rfl rfl))))
theorem RoundTrip.spawn (f : BitVec 3) (a : BitVec 5) (b : BitVec 5) (p : BitVec 4) (s : BitVec 2) : RoundTrip.Statement (.spawn f a b p s) := 
  trip_long (w := 0x0000005B ||| fld f 27 ||| fld a 22 ||| fld b 17 ||| fld p 13 ||| fld s 11) 117 rfl rfl rfl rfl (or_and (or_and (or_and (or_and (or_and rfl (fld_and f _ _ rfl)) (fld_and a _ _ rfl)) (fld_and b _ _ rfl)) (fld_and p _ _ rfl)) (fld_and s _ _ rfl))
    (congr (congr (congr (congr (congrArg Instr.spawn (bits_skip s 11 rfl (bits_skip p 13 rfl (bits_skip b 17 rfl (bits_skip a 22 rfl (bits_take f rfl rfl)))))) (bits_skip s 11 rfl (bits_skip p 13 rfl (bits_skip b 17 rfl (bits_take a rfl (bits_skip f 27 rfl rfl)))))) (bits_skip s 11 rfl (bits_skip p 13 rfl (bits_take b rfl (bits_skip a 22 rfl (bits_skip f 27 rfl rfl)))))) (bits_skip s 11 rfl (bits_take p rfl (bits_skip b 17 rfl (bits_skip a 22 rfl (bits_skip f 27 rfl rfl)))))) (bits_take s rfl (bits_skip p 13 rfl (bits_skip b 17 rfl (bits_skip a 22 rfl (bits_skip f 27 rfl rfl))))))
theorem RoundTrip.migr (f : BitVec 3) (a : BitVec 5) (p : BitVec 4) (s : BitVec 2) : RoundTrip.Statement (.migr f a p s) := 
  trip_long (w := 0x000000DB ||| fld f 27 ||| fld a 22 ||| fld p 13 ||| fld s 11) 118 rfl rfl rfl rfl (or_and (or_and (or_and (or_and rfl (fld_and f _ _ rfl)) (fld_and a _ _ rfl)) (fld_and p _ _ rfl)) (fld_and s _ _ rfl))
    (congr (congr (congr (congrArg Instr.migr (bits_skip s 11 rfl (bits_skip p 13 rfl (bits_skip a 22 rfl (bits_take f rfl rfl))))) (bits_skip s 11 rfl (bits_skip p 13 rfl (bits_take a rfl (bits_skip f 27 rfl rfl))))) (bits_skip s 11 rfl (bits_take p rfl (bits_skip a 22 rfl (bits_skip f 27 rfl rfl))))) (bits_take s rfl (bits_skip p 13 rfl (bits_skip a 22 rfl (bits_skip f 27 rfl rfl)))))
theorem RoundTrip.exit (p : BitVec 4) (s : BitVec 2) : RoundTrip.Statement (.exit p s) := 
  trip_long (w := 0x0000015B ||| fld p 13 ||| fld s 11) 119 rfl rfl rfl rfl (or_and (or_and rfl (fld_and p _ _ rfl)) (fld_and s _ _ rfl))
    (congr (congrArg Instr.exit (bits_skip s 11 rfl (bits_take p rfl rfl))) (bits_take s rfl (bits_skip p 13 rfl rfl)))
theorem RoundTrip.yield (p : BitVec 4) (s : BitVec 2) : RoundTrip.Statement (.yield p s) := 
  trip_long (w := 0x000001DB ||| fld p 13 ||| fld s 11) 120 rfl rfl rfl rfl (or_and (or_and rfl (fld_and p _ _ rfl)) (fld_and s _ _ rfl))
    (congr (congrArg Instr.yield (bits_skip s 11 rfl (bits_take p rfl rfl))) (bits_take s rfl (bits_skip p 13 rfl rfl)))
theorem RoundTrip.ckpt (a : BitVec 5) (p : BitVec 4) (s : BitVec 2) : RoundTrip.Statement (.ckpt a p s) := 
  trip_long (w := 0x0000025B ||| fld a 22 ||| fld p 13 ||| fld s 11) 121 rfl rfl rfl rfl (or_and (or_and (or_and rfl (fld_and a _ _ rfl)) (fld_and p _ _ rfl)) (fld_and s _ _ rfl))
    (congr (congr (congrArg Instr.ckpt (bits_skip s 11 rfl (bits_skip p 13 rfl (bits_take a rfl rfl)))) (bits_skip s 11 rfl (bits_take p rfl (bits_skip a 22 rfl rfl)))) (bits_take s rfl (bits_skip p 13 rfl (bits_skip a 22 rfl rfl))))
theorem RoundTrip.vmov (d : BitVec 4) (a : BitVec 4) (k : BitVec 3) : RoundTrip.Statement (.vmov d a k) := 
  trip_long (w := 0x00000043 ||| fld d 28 ||| fld a 24 ||| fld k 17) 122 rfl rfl rfl rfl (or_and (or_and (or_and rfl (fld_and d _ _ rfl)) (fld_and a _ _ rfl)) (fld_and k _ _ rfl))
    (congr (congr (congrArg Instr.vmov (bits_skip k 17 rfl (bits_skip a 24 rfl (bits_take d rfl rfl)))) (bits_skip k 17 rfl (bits_take a rfl (bits_skip d 28 rfl rfl)))) (bits_take k rfl (bits_skip a 24 rfl (bits_skip d 28 rfl rfl))))
theorem RoundTrip.vadd (d : BitVec 4) (a : BitVec 4) (b : BitVec 4) (k : BitVec 3) (y : BitVec 3) : RoundTrip.Statement (.vadd d a b k y) := 
  trip_long (w := 0x000000C3 ||| fld d 28 ||| fld a 24 ||| fld b 20 ||| fld k 17 ||| fld y 14) 123 rfl rfl rfl rfl (or_and (or_and (or_and (or_and (or_and rfl (fld_and d _ _ rfl)) (fld_and a _ _ rfl)) (fld_and b _ _ rfl)) (fld_and k _ _ rfl)) (fld_and y _ _ rfl))
    (congr (congr (congr (congr (congrArg Instr.vadd (bits_skip y 14 rfl (bits_skip k 17 rfl (bits_skip b 20 rfl (bits_skip a 24 rfl (bits_take d rfl rfl)))))) (bits_skip y 14 rfl (bits_skip k 17 rfl (bits_skip b 20 rfl (bits_take a rfl (bits_skip d 28 rfl rfl)))))) (bits_skip y 14 rfl (bits_skip k 17 rfl (bits_take b rfl (bits_skip a 24 rfl (bits_skip d 28 rfl rfl)))))) (bits_skip y 14 rfl (bits_take k rfl (bits_skip b 20 rfl (bits_skip a 24 rfl (bits_skip d 28 rfl rfl)))))) (bits_take y rfl (bits_skip k 17 rfl (bits_skip b 20 rfl (bits_skip a 24 rfl (bits_skip d 28 rfl rfl))))))
theorem RoundTrip.vsub (d : BitVec 4) (a : BitVec 4) (b : BitVec 4) (k : BitVec 3) (y : BitVec 3) : RoundTrip.Statement (.vsub d a b k y) := 
  trip_long (w := 0x00000143 ||| fld d 28 ||| fld a 24 ||| fld b 20 ||| fld k 17 ||| fld y 14) 124 rfl rfl rfl rfl (or_and (or_and (or_and (or_and (or_and rfl (fld_and d _ _ rfl)) (fld_and a _ _ rfl)) (fld_and b _ _ rfl)) (fld_and k _ _ rfl)) (fld_and y _ _ rfl))
    (congr (congr (congr (congr (congrArg Instr.vsub (bits_skip y 14 rfl (bits_skip k 17 rfl (bits_skip b 20 rfl (bits_skip a 24 rfl (bits_take d rfl rfl)))))) (bits_skip y 14 rfl (bits_skip k 17 rfl (bits_skip b 20 rfl (bits_take a rfl (bits_skip d 28 rfl rfl)))))) (bits_skip y 14 rfl (bits_skip k 17 rfl (bits_take b rfl (bits_skip a 24 rfl (bits_skip d 28 rfl rfl)))))) (bits_skip y 14 rfl (bits_take k rfl (bits_skip b 20 rfl (bits_skip a 24 rfl (bits_skip d 28 rfl rfl)))))) (bits_take y rfl (bits_skip k 17 rfl (bits_skip b 20 rfl (bits_skip a 24 rfl (bits_skip d 28 rfl rfl))))))
theorem RoundTrip.vmul (d : BitVec 4) (a : BitVec 4) (b : BitVec 4) (k : BitVec 3) (y : BitVec 3) : RoundTrip.Statement (.vmul d a b k y) := 
  trip_long (w := 0x000001C3 ||| fld d 28 ||| fld a 24 ||| fld b 20 ||| fld k 17 ||| fld y 14) 125 rfl rfl rfl rfl (or_and (or_and (or_and (or_and (or_and rfl (fld_and d _ _ rfl)) (fld_and a _ _ rfl)) (fld_and b _ _ rfl)) (fld_and k _ _ rfl)) (fld_and y _ _ rfl))
    (congr (congr (congr (congr (congrArg Instr.vmul (bits_skip y 14 rfl (bits_skip k 17 rfl (bits_skip b 20 rfl (bits_skip a 24 rfl (bits_take d rfl rfl)))))) (bits_skip y 14 rfl (bits_skip k 17 rfl (bits_skip b 20 rfl (bits_take a rfl (bits_skip d 28 rfl rfl)))))) (bits_skip y 14 rfl (bits_skip k 17 rfl (bits_take b rfl (bits_skip a 24 rfl (bits_skip d 28 rfl rfl)))))) (bits_skip y 14 rfl (bits_take k rfl (bits_skip b 20 rfl (bits_skip a 24 rfl (bits_skip d 28 rfl rfl)))))) (bits_take y rfl (bits_skip k 17 rfl (bits_skip b 20 rfl (bits_skip a 24 rfl (bits_skip d 28 rfl rfl))))))
theorem RoundTrip.vfma (d : BitVec 4) (a : BitVec 4) (b : BitVec 4) (k : BitVec 3) (y : BitVec 3) : RoundTrip.Statement (.vfma d a b k y) := 
  trip_long (w := 0x00000243 ||| fld d 28 ||| fld a 24 ||| fld b 20 ||| fld k 17 ||| fld y 14) 126 rfl rfl rfl rfl (or_and (or_and (or_and (or_and (or_and rfl (fld_and d _ _ rfl)) (fld_and a _ _ rfl)) (fld_and b _ _ rfl)) (fld_and k _ _ rfl)) (fld_and y _ _ rfl))
    (congr (congr (congr (congr (congrArg Instr.vfma (bits_skip y 14 rfl (bits_skip k 17 rfl (bits_skip b 20 rfl (bits_skip a 24 rfl (bits_take d rfl rfl)))))) (bits_skip y 14 rfl (bits_skip k 17 rfl (bits_skip b 20 rfl (bits_take a rfl (bits_skip d 28 rfl rfl)))))) (bits_skip y 14 rfl (bits_skip k 17 rfl (bits_take b rfl (bits_skip a 24 rfl (bits_skip d 28 rfl rfl)))))) (bits_skip y 14 rfl (bits_take k rfl (bits_skip b 20 rfl (bits_skip a 24 rfl (bits_skip d 28 rfl rfl)))))) (bits_take y rfl (bits_skip k 17 rfl (bits_skip b 20 rfl (bits_skip a 24 rfl (bits_skip d 28 rfl rfl))))))
theorem RoundTrip.vfms (d : BitVec 4) (a : BitVec 4) (b : BitVec 4) (k : BitVec 3) (y : BitVec 3) : RoundTrip.Statement (.vfms d a b k y) := 
  trip_long (w := 0x000002C3 ||| fld d 28 ||| fld a 24 ||| fld b 20 ||| fld k 17 ||| fld y 14) 127 rfl rfl rfl rfl (or_and (or_and (or_and (or_and (or_and rfl (fld_and d _ _ rfl)) (fld_and a _ _ rfl)) (fld_and b _ _ rfl)) (fld_and k _ _ rfl)) (fld_and y _ _ rfl))
    (congr (congr (congr (congr (congrArg Instr.vfms (bits_skip y 14 rfl (bits_skip k 17 rfl (bits_skip b 20 rfl (bits_skip a 24 rfl (bits_take d rfl rfl)))))) (bits_skip y 14 rfl (bits_skip k 17 rfl (bits_skip b 20 rfl (bits_take a rfl (bits_skip d 28 rfl rfl)))))) (bits_skip y 14 rfl (bits_skip k 17 rfl (bits_take b rfl (bits_skip a 24 rfl (bits_skip d 28 rfl rfl)))))) (bits_skip y 14 rfl (bits_take k rfl (bits_skip b 20 rfl (bits_skip a 24 rfl (bits_skip d 28 rfl rfl)))))) (bits_take y rfl (bits_skip k 17 rfl (bits_skip b 20 rfl (bits_skip a 24 rfl (bits_skip d 28 rfl rfl))))))
theorem RoundTrip.vmax (d : BitVec 4) (a : BitVec 4) (b : BitVec 4) (k : BitVec 3) (y : BitVec 3) : RoundTrip.Statement (.vmax d a b k y) := 
  trip_long (w := 0x00000343 ||| fld d 28 ||| fld a 24 ||| fld b 20 ||| fld k 17 ||| fld y 14) 128 rfl rfl rfl rfl (or_and (or_and (or_and (or_and (or_and rfl (fld_and d _ _ rfl)) (fld_and a _ _ rfl)) (fld_and b _ _ rfl)) (fld_and k _ _ rfl)) (fld_and y _ _ rfl))
    (congr (congr (congr (congr (congrArg Instr.vmax (bits_skip y 14 rfl (bits_skip k 17 rfl (bits_skip b 20 rfl (bits_skip a 24 rfl (bits_take d rfl rfl)))))) (bits_skip y 14 rfl (bits_skip k 17 rfl (bits_skip b 20 rfl (bits_take a rfl (bits_skip d 28 rfl rfl)))))) (bits_skip y 14 rfl (bits_skip k 17 rfl (bits_take b rfl (bits_skip a 24 rfl (bits_skip d 28 rfl rfl)))))) (bits_skip y 14 rfl (bits_take k rfl (bits_skip b 20 rfl (bits_skip a 24 rfl (bits_skip d 28 rfl rfl)))))) (bits_take y rfl (bits_skip k 17 rfl (bits_skip b 20 rfl (bits_skip a 24 rfl (bits_skip d 28 rfl rfl))))))
theorem RoundTrip.vmin (d : BitVec 4) (a : BitVec 4) (b : BitVec 4) (k : BitVec 3) (y : BitVec 3) : RoundTrip.Statement (.vmin d a b k y) := 
  trip_long (w := 0x000003C3 ||| fld d 28 ||| fld a 24 ||| fld b 20 ||| fld k 17 ||| fld y 14) 129 rfl rfl rfl rfl (or_and (or_and (or_and (or_and (or_and rfl (fld_and d _ _ rfl)) (fld_and a _ _ rfl)) (fld_and b _ _ rfl)) (fld_and k _ _ rfl)) (fld_and y _ _ rfl))
    (congr (congr (congr (congr (congrArg Instr.vmin (bits_skip y 14 rfl (bits_skip k 17 rfl (bits_skip b 20 rfl (bits_skip a 24 rfl (bits_take d rfl rfl)))))) (bits_skip y 14 rfl (bits_skip k 17 rfl (bits_skip b 20 rfl (bits_take a rfl (bits_skip d 28 rfl rfl)))))) (bits_skip y 14 rfl (bits_skip k 17 rfl (bits_take b rfl (bits_skip a 24 rfl (bits_skip d 28 rfl rfl)))))) (bits_skip y 14 rfl (bits_take k rfl (bits_skip b 20 rfl (bits_skip a 24 rfl (bits_skip d 28 rfl rfl)))))) (bits_take y rfl (bits_skip k 17 rfl (bits_skip b 20 rfl (bits_skip a 24 rfl (bits_skip d 28 rfl rfl))))))
theorem RoundTrip.vabs (d : BitVec 4) (a : BitVec 4) (k : BitVec 3) (y : BitVec 3) : RoundTrip.Statement (.vabs d a k y) := 
  trip_long (w := 0x00000443 ||| fld d 28 ||| fld a 24 ||| fld k 17 ||| fld y 14) 130 rfl rfl rfl rfl (or_and (or_and (or_and (or_and rfl (fld_and d _ _ rfl)) (fld_and a _ _ rfl)) (fld_and k _ _ rfl)) (fld_and y _ _ rfl))
    (congr (congr (congr (congrArg Instr.vabs (bits_skip y 14 rfl (bits_skip k 17 rfl (bits_skip a 24 rfl (bits_take d rfl rfl))))) (bits_skip y 14 rfl (bits_skip k 17 rfl (bits_take a rfl (bits_skip d 28 rfl rfl))))) (bits_skip y 14 rfl (bits_take k rfl (bits_skip a 24 rfl (bits_skip d 28 rfl rfl))))) (bits_take y rfl (bits_skip k 17 rfl (bits_skip a 24 rfl (bits_skip d 28 rfl rfl)))))
theorem RoundTrip.vneg (d : BitVec 4) (a : BitVec 4) (k : BitVec 3) (y : BitVec 3) : RoundTrip.Statement (.vneg d a k y) := 
  trip_long (w := 0x000004C3 ||| fld d 28 ||| fld a 24 ||| fld k 17 ||| fld y 14) 131 rfl rfl rfl rfl (or_and (or_and (or_and (or_and rfl (fld_and d _ _ rfl)) (fld_and a _ _ rfl)) (fld_and k _ _ rfl)) (fld_and y _ _ rfl))
    (congr (congr (congr (congrArg Instr.vneg (bits_skip y 14 rfl (bits_skip k 17 rfl (bits_skip a 24 rfl (bits_take d rfl rfl))))) (bits_skip y 14 rfl (bits_skip k 17 rfl (bits_take a rfl (bits_skip d 28 rfl rfl))))) (bits_skip y 14 rfl (bits_take k rfl (bits_skip a 24 rfl (bits_skip d 28 rfl rfl))))) (bits_take y rfl (bits_skip k 17 rfl (bits_skip a 24 rfl (bits_skip d 28 rfl rfl)))))
theorem RoundTrip.vand (d : BitVec 4) (a : BitVec 4) (b : BitVec 4) (k : BitVec 3) : RoundTrip.Statement (.vand d a b k) := 
  trip_long (w := 0x00000543 ||| fld d 28 ||| fld a 24 ||| fld b 20 ||| fld k 17) 132 rfl rfl rfl rfl (or_and (or_and (or_and (or_and rfl (fld_and d _ _ rfl)) (fld_and a _ _ rfl)) (fld_and b _ _ rfl)) (fld_and k _ _ rfl))
    (congr (congr (congr (congrArg Instr.vand (bits_skip k 17 rfl (bits_skip b 20 rfl (bits_skip a 24 rfl (bits_take d rfl rfl))))) (bits_skip k 17 rfl (bits_skip b 20 rfl (bits_take a rfl (bits_skip d 28 rfl rfl))))) (bits_skip k 17 rfl (bits_take b rfl (bits_skip a 24 rfl (bits_skip d 28 rfl rfl))))) (bits_take k rfl (bits_skip b 20 rfl (bits_skip a 24 rfl (bits_skip d 28 rfl rfl)))))
theorem RoundTrip.vor (d : BitVec 4) (a : BitVec 4) (b : BitVec 4) (k : BitVec 3) : RoundTrip.Statement (.vor d a b k) := 
  trip_long (w := 0x000005C3 ||| fld d 28 ||| fld a 24 ||| fld b 20 ||| fld k 17) 133 rfl rfl rfl rfl (or_and (or_and (or_and (or_and rfl (fld_and d _ _ rfl)) (fld_and a _ _ rfl)) (fld_and b _ _ rfl)) (fld_and k _ _ rfl))
    (congr (congr (congr (congrArg Instr.vor (bits_skip k 17 rfl (bits_skip b 20 rfl (bits_skip a 24 rfl (bits_take d rfl rfl))))) (bits_skip k 17 rfl (bits_skip b 20 rfl (bits_take a rfl (bits_skip d 28 rfl rfl))))) (bits_skip k 17 rfl (bits_take b rfl (bits_skip a 24 rfl (bits_skip d 28 rfl rfl))))) (bits_take k rfl (bits_skip b 20 rfl (bits_skip a 24 rfl (bits_skip d 28 rfl rfl)))))
theorem RoundTrip.vxor (d : BitVec 4) (a : BitVec 4) (b : BitVec 4) (k : BitVec 3) : RoundTrip.Statement (.vxor d a b k) := 
  trip_long (w := 0x00000643 ||| fld d 28 ||| fld a 24 ||| fld b 20 ||| fld k 17) 134 rfl rfl rfl rfl (or_and (or_and (or_and (or_and rfl (fld_and d _ _ rfl)) (fld_and a _ _ rfl)) (fld_and b _ _ rfl)) (fld_and k _ _ rfl))
    (congr (congr (congr (congrArg Instr.vxor (bits_skip k 17 rfl (bits_skip b 20 rfl (bits_skip a 24 rfl (bits_take d rfl rfl))))) (bits_skip k 17 rfl (bits_skip b 20 rfl (bits_take a rfl (bits_skip d 28 rfl rfl))))) (bits_skip k 17 rfl (bits_take b rfl (bits_skip a 24 rfl (bits_skip d 28 rfl rfl))))) (bits_take k rfl (bits_skip b 20 rfl (bits_skip a 24 rfl (bits_skip d 28 rfl rfl)))))
theorem RoundTrip.vandn (d : BitVec 4) (a : BitVec 4) (b : BitVec 4) (k : BitVec 3) : RoundTrip.Statement (.vandn d a b k) := 
  trip_long (w := 0x000006C3 ||| fld d 28 ||| fld a 24 ||| fld b 20 ||| fld k 17) 135 rfl rfl rfl rfl (or_and (or_and (or_and (or_and rfl (fld_and d _ _ rfl)) (fld_and a _ _ rfl)) (fld_and b _ _ rfl)) (fld_and k _ _ rfl))
    (congr (congr (congr (congrArg Instr.vandn (bits_skip k 17 rfl (bits_skip b 20 rfl (bits_skip a 24 rfl (bits_take d rfl rfl))))) (bits_skip k 17 rfl (bits_skip b 20 rfl (bits_take a rfl (bits_skip d 28 rfl rfl))))) (bits_skip k 17 rfl (bits_take b rfl (bits_skip a 24 rfl (bits_skip d 28 rfl rfl))))) (bits_take k rfl (bits_skip b 20 rfl (bits_skip a 24 rfl (bits_skip d 28 rfl rfl)))))
theorem RoundTrip.vshl (d : BitVec 4) (a : BitVec 4) (b : BitVec 4) (k : BitVec 3) (y : BitVec 3) : RoundTrip.Statement (.vshl d a b k y) := 
  trip_long (w := 0x00000743 ||| fld d 28 ||| fld a 24 ||| fld b 20 ||| fld k 17 ||| fld y 14) 136 rfl rfl rfl rfl (or_and (or_and (or_and (or_and (or_and rfl (fld_and d _ _ rfl)) (fld_and a _ _ rfl)) (fld_and b _ _ rfl)) (fld_and k _ _ rfl)) (fld_and y _ _ rfl))
    (congr (congr (congr (congr (congrArg Instr.vshl (bits_skip y 14 rfl (bits_skip k 17 rfl (bits_skip b 20 rfl (bits_skip a 24 rfl (bits_take d rfl rfl)))))) (bits_skip y 14 rfl (bits_skip k 17 rfl (bits_skip b 20 rfl (bits_take a rfl (bits_skip d 28 rfl rfl)))))) (bits_skip y 14 rfl (bits_skip k 17 rfl (bits_take b rfl (bits_skip a 24 rfl (bits_skip d 28 rfl rfl)))))) (bits_skip y 14 rfl (bits_take k rfl (bits_skip b 20 rfl (bits_skip a 24 rfl (bits_skip d 28 rfl rfl)))))) (bits_take y rfl (bits_skip k 17 rfl (bits_skip b 20 rfl (bits_skip a 24 rfl (bits_skip d 28 rfl rfl))))))
theorem RoundTrip.vshr (d : BitVec 4) (a : BitVec 4) (b : BitVec 4) (k : BitVec 3) (y : BitVec 3) : RoundTrip.Statement (.vshr d a b k y) := 
  trip_long (w := 0x000007C3 ||| fld d 28 ||| fld a 24 ||| fld b 20 ||| fld k 17 ||| fld y 14) 137 rfl rfl rfl rfl (or_and (or_and (or_and (or_and (or_and rfl (fld_and d _ _ rfl)) (fld_and a _ _ rfl)) (fld_and b _ _ rfl)) (fld_and k _ _ rfl)) (fld_and y _ _ rfl))
    (congr (congr (congr (congr (congrArg Instr.vshr (bits_skip y 14 rfl (bits_skip k 17 rfl (bits_skip b 20 rfl (bits_skip a 24 rfl (bits_take d rfl rfl)))))) (bits_skip y 14 rfl (bits_skip k 17 rfl (bits_skip b 20 rfl (bits_take a rfl (bits_skip d 28 rfl rfl)))))) (bits_skip y 14 rfl (bits_skip k 17 rfl (bits_take b rfl (bits_skip a 24 rfl (bits_skip d 28 rfl rfl)))))) (bits_skip y 14 rfl (bits_take k rfl (bits_skip b 20 rfl (bits_skip a 24 rfl (bits_skip d 28 rfl rfl)))))) (bits_take y rfl (bits_skip k 17 rfl (bits_skip b 20 rfl (bits_skip a 24 rfl (bits_skip d 28 rfl rfl))))))
theorem RoundTrip.vsra (d : BitVec 4) (a : BitVec 4) (b : BitVec 4) (k : BitVec 3) (y : BitVec 3) : RoundTrip.Statement (.vsra d a b k y) := 
  trip_long (w := 0x00000843 ||| fld d 28 ||| fld a 24 ||| fld b 20 ||| fld k 17 ||| fld y 14) 138 rfl rfl rfl rfl (or_and (or_and (or_and (or_and (or_and rfl (fld_and d _ _ rfl)) (fld_and a _ _ rfl)) (fld_and b _ _ rfl)) (fld_and k _ _ rfl)) (fld_and y _ _ rfl))
    (congr (congr (congr (congr (congrArg Instr.vsra (bits_skip y 14 rfl (bits_skip k 17 rfl (bits_skip b 20 rfl (bits_skip a 24 rfl (bits_take d rfl rfl)))))) (bits_skip y 14 rfl (bits_skip k 17 rfl (bits_skip b 20 rfl (bits_take a rfl (bits_skip d 28 rfl rfl)))))) (bits_skip y 14 rfl (bits_skip k 17 rfl (bits_take b rfl (bits_skip a 24 rfl (bits_skip d 28 rfl rfl)))))) (bits_skip y 14 rfl (bits_take k rfl (bits_skip b 20 rfl (bits_skip a 24 rfl (bits_skip d 28 rfl rfl)))))) (bits_take y rfl (bits_skip k 17 rfl (bits_skip b 20 rfl (bits_skip a 24 rfl (bits_skip d 28 rfl rfl))))))
theorem RoundTrip.vmulh (d : BitVec 4) (a : BitVec 4) (b : BitVec 4) (k : BitVec 3) (y : BitVec 3) : RoundTrip.Statement (.vmulh d a b k y) := 
  trip_long (w := 0x000008C3 ||| fld d 28 ||| fld a 24 ||| fld b 20 ||| fld k 17 ||| fld y 14) 139 rfl rfl rfl rfl (or_and (or_and (or_and (or_and (or_and rfl (fld_and d _ _ rfl)) (fld_and a _ _ rfl)) (fld_and b _ _ rfl)) (fld_and k _ _ rfl)) (fld_and y _ _ rfl))
    (congr (congr (congr (congr (congrArg Instr.vmulh (bits_skip y 14 rfl (bits_skip k 17 rfl (bits_skip b 20 rfl (bits_skip a 24 rfl (bits_take d rfl rfl)))))) (bits_skip y 14 rfl (bits_skip k 17 rfl (bits_skip b 20 rfl (bits_take a rfl (bits_skip d 28 rfl rfl)))))) (bits_skip y 14 rfl (bits_skip k 17 rfl (bits_take b rfl (bits_skip a 24 rfl (bits_skip d 28 rfl rfl)))))) (bits_skip y 14 rfl (bits_take k rfl (bits_skip b 20 rfl (bits_skip a 24 rfl (bits_skip d 28 rfl rfl)))))) (bits_take y rfl (bits_skip k 17 rfl (bits_skip b 20 rfl (bits_skip a 24 rfl (bits_skip d 28 rfl rfl))))))
theorem RoundTrip.vclz (d : BitVec 4) (a : BitVec 4) (k : BitVec 3) (y : BitVec 3) : RoundTrip.Statement (.vclz d a k y) := 
  trip_long (w := 0x00000943 ||| fld d 28 ||| fld a 24 ||| fld k 17 ||| fld y 14) 140 rfl rfl rfl rfl (or_and (or_and (or_and (or_and rfl (fld_and d _ _ rfl)) (fld_and a _ _ rfl)) (fld_and k _ _ rfl)) (fld_and y _ _ rfl))
    (congr (congr (congr (congrArg Instr.vclz (bits_skip y 14 rfl (bits_skip k 17 rfl (bits_skip a 24 rfl (bits_take d rfl rfl))))) (bits_skip y 14 rfl (bits_skip k 17 rfl (bits_take a rfl (bits_skip d 28 rfl rfl))))) (bits_skip y 14 rfl (bits_take k rfl (bits_skip a 24 rfl (bits_skip d 28 rfl rfl))))) (bits_take y rfl (bits_skip k 17 rfl (bits_skip a 24 rfl (bits_skip d 28 rfl rfl)))))
theorem RoundTrip.vpopc (d : BitVec 4) (a : BitVec 4) (k : BitVec 3) (y : BitVec 3) : RoundTrip.Statement (.vpopc d a k y) := 
  trip_long (w := 0x000009C3 ||| fld d 28 ||| fld a 24 ||| fld k 17 ||| fld y 14) 141 rfl rfl rfl rfl (or_and (or_and (or_and (or_and rfl (fld_and d _ _ rfl)) (fld_and a _ _ rfl)) (fld_and k _ _ rfl)) (fld_and y _ _ rfl))
    (congr (congr (congr (congrArg Instr.vpopc (bits_skip y 14 rfl (bits_skip k 17 rfl (bits_skip a 24 rfl (bits_take d rfl rfl))))) (bits_skip y 14 rfl (bits_skip k 17 rfl (bits_take a rfl (bits_skip d 28 rfl rfl))))) (bits_skip y 14 rfl (bits_take k rfl (bits_skip a 24 rfl (bits_skip d 28 rfl rfl))))) (bits_take y rfl (bits_skip k 17 rfl (bits_skip a 24 rfl (bits_skip d 28 rfl rfl)))))
theorem RoundTrip.vcvt (d : BitVec 4) (s : BitVec 3) (b : BitVec 4) (k : BitVec 3) (y : BitVec 3) : RoundTrip.Statement (.vcvt d s b k y) := 
  trip_long (w := 0x00000A43 ||| fld d 28 ||| fld s 24 ||| fld b 20 ||| fld k 17 ||| fld y 14) 142 rfl rfl rfl rfl (or_and (or_and (or_and (or_and (or_and rfl (fld_and d _ _ rfl)) (fld_and s _ _ rfl)) (fld_and b _ _ rfl)) (fld_and k _ _ rfl)) (fld_and y _ _ rfl))
    (congr (congr (congr (congr (congrArg Instr.vcvt (bits_skip y 14 rfl (bits_skip k 17 rfl (bits_skip b 20 rfl (bits_skip s 24 rfl (bits_take d rfl rfl)))))) (bits_skip y 14 rfl (bits_skip k 17 rfl (bits_skip b 20 rfl (bits_take s rfl (bits_skip d 28 rfl rfl)))))) (bits_skip y 14 rfl (bits_skip k 17 rfl (bits_take b rfl (bits_skip s 24 rfl (bits_skip d 28 rfl rfl)))))) (bits_skip y 14 rfl (bits_take k rfl (bits_skip b 20 rfl (bits_skip s 24 rfl (bits_skip d 28 rfl rfl)))))) (bits_take y rfl (bits_skip k 17 rfl (bits_skip b 20 rfl (bits_skip s 24 rfl (bits_skip d 28 rfl rfl))))))
theorem RoundTrip.vrcp (d : BitVec 4) (a : BitVec 4) (k : BitVec 3) : RoundTrip.Statement (.vrcp d a k) := 
  trip_long (w := 0x00008AC3 ||| fld d 28 ||| fld a 24 ||| fld k 17) 143 rfl rfl rfl rfl (or_and (or_and (or_and rfl (fld_and d _ _ rfl)) (fld_and a _ _ rfl)) (fld_and k _ _ rfl))
    (congr (congr (congrArg Instr.vrcp (bits_skip k 17 rfl (bits_skip a 24 rfl (bits_take d rfl rfl)))) (bits_skip k 17 rfl (bits_take a rfl (bits_skip d 28 rfl rfl)))) (bits_take k rfl (bits_skip a 24 rfl (bits_skip d 28 rfl rfl))))
theorem RoundTrip.vrsq (d : BitVec 4) (a : BitVec 4) (k : BitVec 3) : RoundTrip.Statement (.vrsq d a k) := 
  trip_long (w := 0x00008B43 ||| fld d 28 ||| fld a 24 ||| fld k 17) 144 rfl rfl rfl rfl (or_and (or_and (or_and rfl (fld_and d _ _ rfl)) (fld_and a _ _ rfl)) (fld_and k _ _ rfl))
    (congr (congr (congrArg Instr.vrsq (bits_skip k 17 rfl (bits_skip a 24 rfl (bits_take d rfl rfl)))) (bits_skip k 17 rfl (bits_take a rfl (bits_skip d 28 rfl rfl)))) (bits_take k rfl (bits_skip a 24 rfl (bits_skip d 28 rfl rfl))))
theorem RoundTrip.vperm (d : BitVec 4) (a : BitVec 4) (b : BitVec 4) (k : BitVec 3) : RoundTrip.Statement (.vperm d a b k) := 
  trip_long (w := 0x00000BC3 ||| fld d 28 ||| fld a 24 ||| fld b 20 ||| fld k 17) 145 rfl rfl rfl rfl (or_and (or_and (or_and (or_and rfl (fld_and d _ _ rfl)) (fld_and a _ _ rfl)) (fld_and b _ _ rfl)) (fld_and k _ _ rfl))
    (congr (congr (congr (congrArg Instr.vperm (bits_skip k 17 rfl (bits_skip b 20 rfl (bits_skip a 24 rfl (bits_take d rfl rfl))))) (bits_skip k 17 rfl (bits_skip b 20 rfl (bits_take a rfl (bits_skip d 28 rfl rfl))))) (bits_skip k 17 rfl (bits_take b rfl (bits_skip a 24 rfl (bits_skip d 28 rfl rfl))))) (bits_take k rfl (bits_skip b 20 rfl (bits_skip a 24 rfl (bits_skip d 28 rfl rfl)))))
theorem RoundTrip.vsel (d : BitVec 4) (a : BitVec 4) (b : BitVec 4) (k : BitVec 3) : RoundTrip.Statement (.vsel d a b k) := 
  trip_long (w := 0x00000C43 ||| fld d 28 ||| fld a 24 ||| fld b 20 ||| fld k 17) 146 rfl rfl rfl rfl (or_and (or_and (or_and (or_and rfl (fld_and d _ _ rfl)) (fld_and a _ _ rfl)) (fld_and b _ _ rfl)) (fld_and k _ _ rfl))
    (congr (congr (congr (congrArg Instr.vsel (bits_skip k 17 rfl (bits_skip b 20 rfl (bits_skip a 24 rfl (bits_take d rfl rfl))))) (bits_skip k 17 rfl (bits_skip b 20 rfl (bits_take a rfl (bits_skip d 28 rfl rfl))))) (bits_skip k 17 rfl (bits_take b rfl (bits_skip a 24 rfl (bits_skip d 28 rfl rfl))))) (bits_take k rfl (bits_skip b 20 rfl (bits_skip a 24 rfl (bits_skip d 28 rfl rfl)))))
theorem RoundTrip.vcmp (g : BitVec 1) (m : BitVec 3) (a : BitVec 4) (b : BitVec 4) (k : BitVec 3) (y : BitVec 3) (o : BitVec 3) : RoundTrip.Statement (.vcmp g m a b k y o) := 
  trip_long (w := 0x00001043 ||| fld g 31 ||| fld m 28 ||| fld a 24 ||| fld b 20 ||| fld k 17 ||| fld y 14 ||| fld o 7) 147 rfl rfl rfl rfl (or_and (or_and (or_and (or_and (or_and (or_and (or_and rfl (fld_and g _ _ rfl)) (fld_and m _ _ rfl)) (fld_and a _ _ rfl)) (fld_and b _ _ rfl)) (fld_and k _ _ rfl)) (fld_and y _ _ rfl)) (fld_and o _ _ rfl))
    (congr (congr (congr (congr (congr (congr (congrArg Instr.vcmp (bits_skip o 7 rfl (bits_skip y 14 rfl (bits_skip k 17 rfl (bits_skip b 20 rfl (bits_skip a 24 rfl (bits_skip m 28 rfl (bits_take g rfl rfl)))))))) (bits_skip o 7 rfl (bits_skip y 14 rfl (bits_skip k 17 rfl (bits_skip b 20 rfl (bits_skip a 24 rfl (bits_take m rfl (bits_skip g 31 rfl rfl)))))))) (bits_skip o 7 rfl (bits_skip y 14 rfl (bits_skip k 17 rfl (bits_skip b 20 rfl (bits_take a rfl (bits_skip m 28 rfl (bits_skip g 31 rfl rfl)))))))) (bits_skip o 7 rfl (bits_skip y 14 rfl (bits_skip k 17 rfl (bits_take b rfl (bits_skip a 24 rfl (bits_skip m 28 rfl (bits_skip g 31 rfl rfl)))))))) (bits_skip o 7 rfl (bits_skip y 14 rfl (bits_take k rfl (bits_skip b 20 rfl (bits_skip a 24 rfl (bits_skip m 28 rfl (bits_skip g 31 rfl rfl)))))))) (bits_skip o 7 rfl (bits_take y rfl (bits_skip k 17 rfl (bits_skip b 20 rfl (bits_skip a 24 rfl (bits_skip m 28 rfl (bits_skip g 31 rfl rfl)))))))) (bits_take o rfl (bits_skip y 14 rfl (bits_skip k 17 rfl (bits_skip b 20 rfl (bits_skip a 24 rfl (bits_skip m 28 rfl (bits_skip g 31 rfl rfl))))))))
theorem RoundTrip.vmovShort (k : BitVec 3) (s : BitVec 4) (d : BitVec 4) : RoundTrip.Statement (.vmovShort k s d) := 
  trip_short (w := 0x00000000 ||| fld k 13 ||| fld s 9 ||| fld d 5) 0 rfl rfl (by decide) rfl (vmovShort_ne k s d (bits_skip d 5 rfl (bits_skip s 9 rfl (bits_take k rfl rfl))) (bits_skip d 5 rfl (bits_take s rfl (bits_skip k 13 rfl rfl))) (bits_take d rfl (bits_skip s 9 rfl (bits_skip k 13 rfl rfl)))) (low_and _ _ _ (or_and (or_and (or_and rfl (fld_and k _ _ rfl)) (fld_and s _ _ rfl)) (fld_and d _ _ rfl)))
    (congr (congr (congrArg Instr.vmovShort ((bits_low _ _ _ (Nat.le_of_ble_eq_true rfl)).trans (bits_skip d 5 rfl (bits_skip s 9 rfl (bits_take k rfl rfl))))) ((bits_low _ _ _ (Nat.le_of_ble_eq_true rfl)).trans (bits_skip d 5 rfl (bits_take s rfl (bits_skip k 13 rfl rfl))))) ((bits_low _ _ _ (Nat.le_of_ble_eq_true rfl)).trans (bits_take d rfl (bits_skip s 9 rfl (bits_skip k 13 rfl rfl)))))
theorem RoundTrip.vaddF32Short (k : BitVec 3) (s : BitVec 4) (d : BitVec 4) : RoundTrip.Statement (.vaddF32Short k s d) := 
  trip_short (w := 0x00000002 ||| fld k 13 ||| fld s 9 ||| fld d 5) 1 rfl rfl (by decide) rfl (fun _ => short_ne (p := 0x0002) (low_and _ _ _ (or_and (or_and (or_and rfl (fld_and k _ _ rfl)) (fld_and s _ _ rfl)) (fld_and d _ _ rfl))) (by decide)) (low_and _ _ _ (or_and (or_and (or_and rfl (fld_and k _ _ rfl)) (fld_and s _ _ rfl)) (fld_and d _ _ rfl)))
    (congr (congr (congrArg Instr.vaddF32Short ((bits_low _ _ _ (Nat.le_of_ble_eq_true rfl)).trans (bits_skip d 5 rfl (bits_skip s 9 rfl (bits_take k rfl rfl))))) ((bits_low _ _ _ (Nat.le_of_ble_eq_true rfl)).trans (bits_skip d 5 rfl (bits_take s rfl (bits_skip k 13 rfl rfl))))) ((bits_low _ _ _ (Nat.le_of_ble_eq_true rfl)).trans (bits_take d rfl (bits_skip s 9 rfl (bits_skip k 13 rfl rfl)))))
theorem RoundTrip.vsubF32Short (k : BitVec 3) (s : BitVec 4) (d : BitVec 4) : RoundTrip.Statement (.vsubF32Short k s d) := 
  trip_short (w := 0x00000004 ||| fld k 13 ||| fld s 9 ||| fld d 5) 2 rfl rfl (by decide) rfl (fun _ => short_ne (p := 0x0004) (low_and _ _ _ (or_and (or_and (or_and rfl (fld_and k _ _ rfl)) (fld_and s _ _ rfl)) (fld_and d _ _ rfl))) (by decide)) (low_and _ _ _ (or_and (or_and (or_and rfl (fld_and k _ _ rfl)) (fld_and s _ _ rfl)) (fld_and d _ _ rfl)))
    (congr (congr (congrArg Instr.vsubF32Short ((bits_low _ _ _ (Nat.le_of_ble_eq_true rfl)).trans (bits_skip d 5 rfl (bits_skip s 9 rfl (bits_take k rfl rfl))))) ((bits_low _ _ _ (Nat.le_of_ble_eq_true rfl)).trans (bits_skip d 5 rfl (bits_take s rfl (bits_skip k 13 rfl rfl))))) ((bits_low _ _ _ (Nat.le_of_ble_eq_true rfl)).trans (bits_take d rfl (bits_skip s 9 rfl (bits_skip k 13 rfl rfl)))))
theorem RoundTrip.vmulF32Short (k : BitVec 3) (s : BitVec 4) (d : BitVec 4) : RoundTrip.Statement (.vmulF32Short k s d) := 
  trip_short (w := 0x00000006 ||| fld k 13 ||| fld s 9 ||| fld d 5) 3 rfl rfl (by decide) rfl (fun _ => short_ne (p := 0x0006) (low_and _ _ _ (or_and (or_and (or_and rfl (fld_and k _ _ rfl)) (fld_and s _ _ rfl)) (fld_and d _ _ rfl))) (by decide)) (low_and _ _ _ (or_and (or_and (or_and rfl (fld_and k _ _ rfl)) (fld_and s _ _ rfl)) (fld_and d _ _ rfl)))
    (congr (congr (congrArg Instr.vmulF32Short ((bits_low _ _ _ (Nat.le_of_ble_eq_true rfl)).trans (bits_skip d 5 rfl (bits_skip s 9 rfl (bits_take k rfl rfl))))) ((bits_low _ _ _ (Nat.le_of_ble_eq_true rfl)).trans (bits_skip d 5 rfl (bits_take s rfl (bits_skip k 13 rfl rfl))))) ((bits_low _ _ _ (Nat.le_of_ble_eq_true rfl)).trans (bits_take d rfl (bits_skip s 9 rfl (bits_skip k 13 rfl rfl)))))
theorem RoundTrip.vmaxF32Short (k : BitVec 3) (s : BitVec 4) (d : BitVec 4) : RoundTrip.Statement (.vmaxF32Short k s d) := 
  trip_short (w := 0x00000008 ||| fld k 13 ||| fld s 9 ||| fld d 5) 4 rfl rfl (by decide) rfl (fun _ => short_ne (p := 0x0008) (low_and _ _ _ (or_and (or_and (or_and rfl (fld_and k _ _ rfl)) (fld_and s _ _ rfl)) (fld_and d _ _ rfl))) (by decide)) (low_and _ _ _ (or_and (or_and (or_and rfl (fld_and k _ _ rfl)) (fld_and s _ _ rfl)) (fld_and d _ _ rfl)))
    (congr (congr (congrArg Instr.vmaxF32Short ((bits_low _ _ _ (Nat.le_of_ble_eq_true rfl)).trans (bits_skip d 5 rfl (bits_skip s 9 rfl (bits_take k rfl rfl))))) ((bits_low _ _ _ (Nat.le_of_ble_eq_true rfl)).trans (bits_skip d 5 rfl (bits_take s rfl (bits_skip k 13 rfl rfl))))) ((bits_low _ _ _ (Nat.le_of_ble_eq_true rfl)).trans (bits_take d rfl (bits_skip s 9 rfl (bits_skip k 13 rfl rfl)))))
theorem RoundTrip.vminF32Short (k : BitVec 3) (s : BitVec 4) (d : BitVec 4) : RoundTrip.Statement (.vminF32Short k s d) := 
  trip_short (w := 0x0000000A ||| fld k 13 ||| fld s 9 ||| fld d 5) 5 rfl rfl (by decide) rfl (fun _ => short_ne (p := 0x000A) (low_and _ _ _ (or_and (or_and (or_and rfl (fld_and k _ _ rfl)) (fld_and s _ _ rfl)) (fld_and d _ _ rfl))) (by decide)) (low_and _ _ _ (or_and (or_and (or_and rfl (fld_and k _ _ rfl)) (fld_and s _ _ rfl)) (fld_and d _ _ rfl)))
    (congr (congr (congrArg Instr.vminF32Short ((bits_low _ _ _ (Nat.le_of_ble_eq_true rfl)).trans (bits_skip d 5 rfl (bits_skip s 9 rfl (bits_take k rfl rfl))))) ((bits_low _ _ _ (Nat.le_of_ble_eq_true rfl)).trans (bits_skip d 5 rfl (bits_take s rfl (bits_skip k 13 rfl rfl))))) ((bits_low _ _ _ (Nat.le_of_ble_eq_true rfl)).trans (bits_take d rfl (bits_skip s 9 rfl (bits_skip k 13 rfl rfl)))))
theorem RoundTrip.vaddI32Short (k : BitVec 3) (s : BitVec 4) (d : BitVec 4) : RoundTrip.Statement (.vaddI32Short k s d) := 
  trip_short (w := 0x0000000C ||| fld k 13 ||| fld s 9 ||| fld d 5) 6 rfl rfl (by decide) rfl (fun _ => short_ne (p := 0x000C) (low_and _ _ _ (or_and (or_and (or_and rfl (fld_and k _ _ rfl)) (fld_and s _ _ rfl)) (fld_and d _ _ rfl))) (by decide)) (low_and _ _ _ (or_and (or_and (or_and rfl (fld_and k _ _ rfl)) (fld_and s _ _ rfl)) (fld_and d _ _ rfl)))
    (congr (congr (congrArg Instr.vaddI32Short ((bits_low _ _ _ (Nat.le_of_ble_eq_true rfl)).trans (bits_skip d 5 rfl (bits_skip s 9 rfl (bits_take k rfl rfl))))) ((bits_low _ _ _ (Nat.le_of_ble_eq_true rfl)).trans (bits_skip d 5 rfl (bits_take s rfl (bits_skip k 13 rfl rfl))))) ((bits_low _ _ _ (Nat.le_of_ble_eq_true rfl)).trans (bits_take d rfl (bits_skip s 9 rfl (bits_skip k 13 rfl rfl)))))
theorem RoundTrip.vsubI32Short (k : BitVec 3) (s : BitVec 4) (d : BitVec 4) : RoundTrip.Statement (.vsubI32Short k s d) := 
  trip_short (w := 0x0000000E ||| fld k 13 ||| fld s 9 ||| fld d 5) 7 rfl rfl (by decide) rfl (fun _ => short_ne (p := 0x000E) (low_and _ _ _ (or_and (or_and (or_and rfl (fld_and k _ _ rfl)) (fld_and s _ _ rfl)) (fld_and d _ _ rfl))) (by decide)) (low_and _ _ _ (or_and (or_and (or_and rfl (fld_and k _ _ rfl)) (fld_and s _ _ rfl)) (fld_and d _ _ rfl)))
    (congr (congr (congrArg Instr.vsubI32Short ((bits_low _ _ _ (Nat.le_of_ble_eq_true rfl)).trans (bits_skip d 5 rfl (bits_skip s 9 rfl (bits_take k rfl rfl))))) ((bits_low _ _ _ (Nat.le_of_ble_eq_true rfl)).trans (bits_skip d 5 rfl (bits_take s rfl (bits_skip k 13 rfl rfl))))) ((bits_low _ _ _ (Nat.le_of_ble_eq_true rfl)).trans (bits_take d rfl (bits_skip s 9 rfl (bits_skip k 13 rfl rfl)))))
theorem RoundTrip.vandShort (k : BitVec 3) (s : BitVec 4) (d : BitVec 4) : RoundTrip.Statement (.vandShort k s d) := 
  trip_short (w := 0x00000010 ||| fld k 13 ||| fld s 9 ||| fld d 5) 8 rfl rfl (by decide) rfl (fun _ => short_ne (p := 0x0010) (low_and _ _ _ (or_and (or_and (or_and rfl (fld_and k _ _ rfl)) (fld_and s _ _ rfl)) (fld_and d _ _ rfl))) (by decide)) (low_and _ _ _ (or_and (or_and (or_and rfl (fld_and k _ _ rfl)) (fld_and s _ _ rfl)) (fld_and d _ _ rfl)))
    (congr (congr (congrArg Instr.vandShort ((bits_low _ _ _ (Nat.le_of_ble_eq_true rfl)).trans (bits_skip d 5 rfl (bits_skip s 9 rfl (bits_take k rfl rfl))))) ((bits_low _ _ _ (Nat.le_of_ble_eq_true rfl)).trans (bits_skip d 5 rfl (bits_take s rfl (bits_skip k 13 rfl rfl))))) ((bits_low _ _ _ (Nat.le_of_ble_eq_true rfl)).trans (bits_take d rfl (bits_skip s 9 rfl (bits_skip k 13 rfl rfl)))))
theorem RoundTrip.vorShort (k : BitVec 3) (s : BitVec 4) (d : BitVec 4) : RoundTrip.Statement (.vorShort k s d) := 
  trip_short (w := 0x00000012 ||| fld k 13 ||| fld s 9 ||| fld d 5) 9 rfl rfl (by decide) rfl (fun _ => short_ne (p := 0x0012) (low_and _ _ _ (or_and (or_and (or_and rfl (fld_and k _ _ rfl)) (fld_and s _ _ rfl)) (fld_and d _ _ rfl))) (by decide)) (low_and _ _ _ (or_and (or_and (or_and rfl (fld_and k _ _ rfl)) (fld_and s _ _ rfl)) (fld_and d _ _ rfl)))
    (congr (congr (congrArg Instr.vorShort ((bits_low _ _ _ (Nat.le_of_ble_eq_true rfl)).trans (bits_skip d 5 rfl (bits_skip s 9 rfl (bits_take k rfl rfl))))) ((bits_low _ _ _ (Nat.le_of_ble_eq_true rfl)).trans (bits_skip d 5 rfl (bits_take s rfl (bits_skip k 13 rfl rfl))))) ((bits_low _ _ _ (Nat.le_of_ble_eq_true rfl)).trans (bits_take d rfl (bits_skip s 9 rfl (bits_skip k 13 rfl rfl)))))
theorem RoundTrip.vxorShort (k : BitVec 3) (s : BitVec 4) (d : BitVec 4) : RoundTrip.Statement (.vxorShort k s d) := 
  trip_short (w := 0x00000014 ||| fld k 13 ||| fld s 9 ||| fld d 5) 10 rfl rfl (by decide) rfl (fun _ => short_ne (p := 0x0014) (low_and _ _ _ (or_and (or_and (or_and rfl (fld_and k _ _ rfl)) (fld_and s _ _ rfl)) (fld_and d _ _ rfl))) (by decide)) (low_and _ _ _ (or_and (or_and (or_and rfl (fld_and k _ _ rfl)) (fld_and s _ _ rfl)) (fld_and d _ _ rfl)))
    (congr (congr (congrArg Instr.vxorShort ((bits_low _ _ _ (Nat.le_of_ble_eq_true rfl)).trans (bits_skip d 5 rfl (bits_skip s 9 rfl (bits_take k rfl rfl))))) ((bits_low _ _ _ (Nat.le_of_ble_eq_true rfl)).trans (bits_skip d 5 rfl (bits_take s rfl (bits_skip k 13 rfl rfl))))) ((bits_low _ _ _ (Nat.le_of_ble_eq_true rfl)).trans (bits_take d rfl (bits_skip s 9 rfl (bits_skip k 13 rfl rfl)))))
theorem RoundTrip.vaddB2Short (k : BitVec 3) (s : BitVec 4) (d : BitVec 4) : RoundTrip.Statement (.vaddB2Short k s d) := 
  trip_short (w := 0x00000016 ||| fld k 13 ||| fld s 9 ||| fld d 5) 11 rfl rfl (by decide) rfl (fun _ => short_ne (p := 0x0016) (low_and _ _ _ (or_and (or_and (or_and rfl (fld_and k _ _ rfl)) (fld_and s _ _ rfl)) (fld_and d _ _ rfl))) (by decide)) (low_and _ _ _ (or_and (or_and (or_and rfl (fld_and k _ _ rfl)) (fld_and s _ _ rfl)) (fld_and d _ _ rfl)))
    (congr (congr (congrArg Instr.vaddB2Short ((bits_low _ _ _ (Nat.le_of_ble_eq_true rfl)).trans (bits_skip d 5 rfl (bits_skip s 9 rfl (bits_take k rfl rfl))))) ((bits_low _ _ _ (Nat.le_of_ble_eq_true rfl)).trans (bits_skip d 5 rfl (bits_take s rfl (bits_skip k 13 rfl rfl))))) ((bits_low _ _ _ (Nat.le_of_ble_eq_true rfl)).trans (bits_take d rfl (bits_skip s 9 rfl (bits_skip k 13 rfl rfl)))))
theorem RoundTrip.vmulB2Short (k : BitVec 3) (s : BitVec 4) (d : BitVec 4) : RoundTrip.Statement (.vmulB2Short k s d) := 
  trip_short (w := 0x00000018 ||| fld k 13 ||| fld s 9 ||| fld d 5) 12 rfl rfl (by decide) rfl (fun _ => short_ne (p := 0x0018) (low_and _ _ _ (or_and (or_and (or_and rfl (fld_and k _ _ rfl)) (fld_and s _ _ rfl)) (fld_and d _ _ rfl))) (by decide)) (low_and _ _ _ (or_and (or_and (or_and rfl (fld_and k _ _ rfl)) (fld_and s _ _ rfl)) (fld_and d _ _ rfl)))
    (congr (congr (congrArg Instr.vmulB2Short ((bits_low _ _ _ (Nat.le_of_ble_eq_true rfl)).trans (bits_skip d 5 rfl (bits_skip s 9 rfl (bits_take k rfl rfl))))) ((bits_low _ _ _ (Nat.le_of_ble_eq_true rfl)).trans (bits_skip d 5 rfl (bits_take s rfl (bits_skip k 13 rfl rfl))))) ((bits_low _ _ _ (Nat.le_of_ble_eq_true rfl)).trans (bits_take d rfl (bits_skip s 9 rfl (bits_skip k 13 rfl rfl)))))
theorem RoundTrip.vshlI32Short (k : BitVec 3) (s : BitVec 4) (d : BitVec 4) : RoundTrip.Statement (.vshlI32Short k s d) := 
  trip_short (w := 0x0000001A ||| fld k 13 ||| fld s 9 ||| fld d 5) 13 rfl rfl (by decide) rfl (fun _ => short_ne (p := 0x001A) (low_and _ _ _ (or_and (or_and (or_and rfl (fld_and k _ _ rfl)) (fld_and s _ _ rfl)) (fld_and d _ _ rfl))) (by decide)) (low_and _ _ _ (or_and (or_and (or_and rfl (fld_and k _ _ rfl)) (fld_and s _ _ rfl)) (fld_and d _ _ rfl)))
    (congr (congr (congrArg Instr.vshlI32Short ((bits_low _ _ _ (Nat.le_of_ble_eq_true rfl)).trans (bits_skip d 5 rfl (bits_skip s 9 rfl (bits_take k rfl rfl))))) ((bits_low _ _ _ (Nat.le_of_ble_eq_true rfl)).trans (bits_skip d 5 rfl (bits_take s rfl (bits_skip k 13 rfl rfl))))) ((bits_low _ _ _ (Nat.le_of_ble_eq_true rfl)).trans (bits_take d rfl (bits_skip s 9 rfl (bits_skip k 13 rfl rfl)))))
theorem RoundTrip.vshrN32Short (k : BitVec 3) (s : BitVec 4) (d : BitVec 4) : RoundTrip.Statement (.vshrN32Short k s d) := 
  trip_short (w := 0x0000001C ||| fld k 13 ||| fld s 9 ||| fld d 5) 14 rfl rfl (by decide) rfl (fun _ => short_ne (p := 0x001C) (low_and _ _ _ (or_and (or_and (or_and rfl (fld_and k _ _ rfl)) (fld_and s _ _ rfl)) (fld_and d _ _ rfl))) (by decide)) (low_and _ _ _ (or_and (or_and (or_and rfl (fld_and k _ _ rfl)) (fld_and s _ _ rfl)) (fld_and d _ _ rfl)))
    (congr (congr (congrArg Instr.vshrN32Short ((bits_low _ _ _ (Nat.le_of_ble_eq_true rfl)).trans (bits_skip d 5 rfl (bits_skip s 9 rfl (bits_take k rfl rfl))))) ((bits_low _ _ _ (Nat.le_of_ble_eq_true rfl)).trans (bits_skip d 5 rfl (bits_take s rfl (bits_skip k 13 rfl rfl))))) ((bits_low _ _ _ (Nat.le_of_ble_eq_true rfl)).trans (bits_take d rfl (bits_skip s 9 rfl (bits_skip k 13 rfl rfl)))))
theorem RoundTrip.vselShort (k : BitVec 3) (s : BitVec 4) (d : BitVec 4) : RoundTrip.Statement (.vselShort k s d) := 
  trip_short (w := 0x0000001E ||| fld k 13 ||| fld s 9 ||| fld d 5) 15 rfl rfl (by decide) rfl (fun _ => short_ne (p := 0x001E) (low_and _ _ _ (or_and (or_and (or_and rfl (fld_and k _ _ rfl)) (fld_and s _ _ rfl)) (fld_and d _ _ rfl))) (by decide)) (low_and _ _ _ (or_and (or_and (or_and rfl (fld_and k _ _ rfl)) (fld_and s _ _ rfl)) (fld_and d _ _ rfl)))
    (congr (congr (congrArg Instr.vselShort ((bits_low _ _ _ (Nat.le_of_ble_eq_true rfl)).trans (bits_skip d 5 rfl (bits_skip s 9 rfl (bits_take k rfl rfl))))) ((bits_low _ _ _ (Nat.le_of_ble_eq_true rfl)).trans (bits_skip d 5 rfl (bits_take s rfl (bits_skip k 13 rfl rfl))))) ((bits_low _ _ _ (Nat.le_of_ble_eq_true rfl)).trans (bits_take d rfl (bits_skip s 9 rfl (bits_skip k 13 rfl rfl)))))
theorem RoundTrip.vbcast (d : BitVec 4) (a : BitVec 5) (k : BitVec 3) : RoundTrip.Statement (.vbcast d a k) := 
  trip_long (w := 0x00000045 ||| fld d 27 ||| fld a 22 ||| fld k 17) 148 rfl rfl rfl rfl (or_and (or_and (or_and rfl (fld_and d _ _ rfl)) (fld_and a _ _ rfl)) (fld_and k _ _ rfl))
    (congr (congr (congrArg Instr.vbcast (bits_skip k 17 rfl (bits_skip a 22 rfl (bits_take d rfl rfl)))) (bits_skip k 17 rfl (bits_take a rfl (bits_skip d 27 rfl rfl)))) (bits_take k rfl (bits_skip a 22 rfl (bits_skip d 27 rfl rfl))))
theorem RoundTrip.vext (d : BitVec 5) (a : BitVec 4) (b : BitVec 5) : RoundTrip.Statement (.vext d a b) := 
  trip_long (w := 0x000000C5 ||| fld d 27 ||| fld a 22 ||| fld b 17) 149 rfl rfl rfl rfl (or_and (or_and (or_and rfl (fld_and d _ _ rfl)) (fld_and a _ _ rfl)) (fld_and b _ _ rfl))
    (congr (congr (congrArg Instr.vext (bits_skip b 17 rfl (bits_skip a 22 rfl (bits_take d rfl rfl)))) (bits_skip b 17 rfl (bits_take a rfl (bits_skip d 27 rfl rfl)))) (bits_take b rfl (bits_skip a 22 rfl (bits_skip d 27 rfl rfl))))
theorem RoundTrip.vins (d : BitVec 4) (a : BitVec 5) (b : BitVec 5) : RoundTrip.Statement (.vins d a b) := 
  trip_long (w := 0x00000145 ||| fld d 27 ||| fld a 22 ||| fld b 17) 150 rfl rfl rfl rfl (or_and (or_and (or_and rfl (fld_and d _ _ rfl)) (fld_and a _ _ rfl)) (fld_and b _ _ rfl))
    (congr (congr (congrArg Instr.vins (bits_skip b 17 rfl (bits_skip a 22 rfl (bits_take d rfl rfl)))) (bits_skip b 17 rfl (bits_take a rfl (bits_skip d 27 rfl rfl)))) (bits_take b rfl (bits_skip a 22 rfl (bits_skip d 27 rfl rfl))))
theorem RoundTrip.vredadd (d : BitVec 5) (a : BitVec 4) (y : BitVec 2) (k : BitVec 3) : RoundTrip.Statement (.vredadd d a y k) := 
  trip_long (w := 0x000001C5 ||| fld d 27 ||| fld a 22 ||| fld y 20 ||| fld k 17) 151 rfl rfl rfl rfl (or_and (or_and (or_and (or_and rfl (fld_and d _ _ rfl)) (fld_and a _ _ rfl)) (fld_and y _ _ rfl)) (fld_and k _ _ rfl))
    (congr (congr (congr (congrArg Instr.vredadd (bits_skip k 17 rfl (bits_skip y 20 rfl (bits_skip a 22 rfl (bits_take d rfl rfl))))) (bits_skip k 17 rfl (bits_skip y 20 rfl (bits_take a rfl (bits_skip d 27 rfl rfl))))) (bits_skip k 17 rfl (bits_take y rfl (bits_skip a 22 rfl (bits_skip d 27 rfl rfl))))) (bits_take k rfl (bits_skip y 20 rfl (bits_skip a 22 rfl (bits_skip d 27 rfl rfl)))))
theorem RoundTrip.vredmax (d : BitVec 5) (a : BitVec 4) (y : BitVec 2) (k : BitVec 3) : RoundTrip.Statement (.vredmax d a y k) := 
  trip_long (w := 0x00000245 ||| fld d 27 ||| fld a 22 ||| fld y 20 ||| fld k 17) 152 rfl rfl rfl rfl (or_and (or_and (or_and (or_and rfl (fld_and d _ _ rfl)) (fld_and a _ _ rfl)) (fld_and y _ _ rfl)) (fld_and k _ _ rfl))
    (congr (congr (congr (congrArg Instr.vredmax (bits_skip k 17 rfl (bits_skip y 20 rfl (bits_skip a 22 rfl (bits_take d rfl rfl))))) (bits_skip k 17 rfl (bits_skip y 20 rfl (bits_take a rfl (bits_skip d 27 rfl rfl))))) (bits_skip k 17 rfl (bits_take y rfl (bits_skip a 22 rfl (bits_skip d 27 rfl rfl))))) (bits_take k rfl (bits_skip y 20 rfl (bits_skip a 22 rfl (bits_skip d 27 rfl rfl)))))
theorem RoundTrip.vredmin (d : BitVec 5) (a : BitVec 4) (y : BitVec 2) (k : BitVec 3) : RoundTrip.Statement (.vredmin d a y k) := 
  trip_long (w := 0x000002C5 ||| fld d 27 ||| fld a 22 ||| fld y 20 ||| fld k 17) 153 rfl rfl rfl rfl (or_and (or_and (or_and (or_and rfl (fld_and d _ _ rfl)) (fld_and a _ _ rfl)) (fld_and y _ _ rfl)) (fld_and k _ _ rfl))
    (congr (congr (congr (congrArg Instr.vredmin (bits_skip k 17 rfl (bits_skip y 20 rfl (bits_skip a 22 rfl (bits_take d rfl rfl))))) (bits_skip k 17 rfl (bits_skip y 20 rfl (bits_take a rfl (bits_skip d 27 rfl rfl))))) (bits_skip k 17 rfl (bits_take y rfl (bits_skip a 22 rfl (bits_skip d 27 rfl rfl))))) (bits_take k rfl (bits_skip y 20 rfl (bits_skip a 22 rfl (bits_skip d 27 rfl rfl)))))
theorem RoundTrip.viota (d : BitVec 4) (a : BitVec 5) (k : BitVec 3) : RoundTrip.Statement (.viota d a k) := 
  trip_long (w := 0x00000345 ||| fld d 27 ||| fld a 22 ||| fld k 17) 154 rfl rfl rfl rfl (or_and (or_and (or_and rfl (fld_and d _ _ rfl)) (fld_and a _ _ rfl)) (fld_and k _ _ rfl))
    (congr (congr (congrArg Instr.viota (bits_skip k 17 rfl (bits_skip a 22 rfl (bits_take d rfl rfl)))) (bits_skip k 17 rfl (bits_take a rfl (bits_skip d 27 rfl rfl)))) (bits_take k rfl (bits_skip a 22 rfl (bits_skip d 27 rfl rfl))))
theorem RoundTrip.vredfadd (d : BitVec 5) (a : BitVec 4) (k : BitVec 3) : RoundTrip.Statement (.vredfadd d a k) := 
  trip_long (w := 0x000003C5 ||| fld d 27 ||| fld a 22 ||| fld k 17) 155 rfl rfl rfl rfl (or_and (or_and (or_and rfl (fld_and d _ _ rfl)) (fld_and a _ _ rfl)) (fld_and k _ _ rfl))
    (congr (congr (congrArg Instr.vredfadd (bits_skip k 17 rfl (bits_skip a 22 rfl (bits_take d rfl rfl)))) (bits_skip k 17 rfl (bits_take a rfl (bits_skip d 27 rfl rfl)))) (bits_take k rfl (bits_skip a 22 rfl (bits_skip d 27 rfl rfl))))
theorem RoundTrip.vtblw (t : BitVec 2) (a : BitVec 5) (b : BitVec 4) : RoundTrip.Statement (.vtblw t a b) := 
  trip_long (w := 0x00000051 ||| fld t 27 ||| fld a 22 ||| fld b 17) 156 rfl rfl rfl rfl (or_and (or_and (or_and rfl (fld_and t _ _ rfl)) (fld_and a _ _ rfl)) (fld_and b _ _ rfl))
    (congr (congr (congrArg Instr.vtblw (bits_skip b 17 rfl (bits_skip a 22 rfl (bits_take t rfl rfl)))) (bits_skip b 17 rfl (bits_take a rfl (bits_skip t 27 rfl rfl)))) (bits_take b rfl (bits_skip a 22 rfl (bits_skip t 27 rfl rfl))))
theorem RoundTrip.vtlerp (d : BitVec 4) (a : BitVec 4) (t : BitVec 2) (k : BitVec 3) : RoundTrip.Statement (.vtlerp d a t k) := 
  trip_long (w := 0x000000D1 ||| fld d 27 ||| fld a 22 ||| fld t 20 ||| fld k 17) 157 rfl rfl rfl rfl (or_and (or_and (or_and (or_and rfl (fld_and d _ _ rfl)) (fld_and a _ _ rfl)) (fld_and t _ _ rfl)) (fld_and k _ _ rfl))
    (congr (congr (congr (congrArg Instr.vtlerp (bits_skip k 17 rfl (bits_skip t 20 rfl (bits_skip a 22 rfl (bits_take d rfl rfl))))) (bits_skip k 17 rfl (bits_skip t 20 rfl (bits_take a rfl (bits_skip d 27 rfl rfl))))) (bits_skip k 17 rfl (bits_take t rfl (bits_skip a 22 rfl (bits_skip d 27 rfl rfl))))) (bits_take k rfl (bits_skip t 20 rfl (bits_skip a 22 rfl (bits_skip d 27 rfl rfl)))))
theorem RoundTrip.vtlcfg (t : BitVec 2) (a : BitVec 5) (b : BitVec 5) : RoundTrip.Statement (.vtlcfg t a b) := 
  trip_long (w := 0x00000151 ||| fld t 27 ||| fld a 22 ||| fld b 17) 158 rfl rfl rfl rfl (or_and (or_and (or_and rfl (fld_and t _ _ rfl)) (fld_and a _ _ rfl)) (fld_and b _ _ rfl))
    (congr (congr (congrArg Instr.vtlcfg (bits_skip b 17 rfl (bits_skip a 22 rfl (bits_take t rfl rfl)))) (bits_skip b 17 rfl (bits_take a rfl (bits_skip t 27 rfl rfl)))) (bits_take b rfl (bits_skip a 22 rfl (bits_skip t 27 rfl rfl))))
theorem RoundTrip.kand (d : BitVec 3) (a : BitVec 3) (b : BitVec 3) : RoundTrip.Statement (.kand d a b) := 
  trip_long (w := 0x00000053 ||| fld d 27 ||| fld a 22 ||| fld b 17) 159 rfl rfl rfl rfl (or_and (or_and (or_and rfl (fld_and d _ _ rfl)) (fld_and a _ _ rfl)) (fld_and b _ _ rfl))
    (congr (congr (congrArg Instr.kand (bits_skip b 17 rfl (bits_skip a 22 rfl (bits_take d rfl rfl)))) (bits_skip b 17 rfl (bits_take a rfl (bits_skip d 27 rfl rfl)))) (bits_take b rfl (bits_skip a 22 rfl (bits_skip d 27 rfl rfl))))
theorem RoundTrip.kor (d : BitVec 3) (a : BitVec 3) (b : BitVec 3) : RoundTrip.Statement (.kor d a b) := 
  trip_long (w := 0x000000D3 ||| fld d 27 ||| fld a 22 ||| fld b 17) 160 rfl rfl rfl rfl (or_and (or_and (or_and rfl (fld_and d _ _ rfl)) (fld_and a _ _ rfl)) (fld_and b _ _ rfl))
    (congr (congr (congrArg Instr.kor (bits_skip b 17 rfl (bits_skip a 22 rfl (bits_take d rfl rfl)))) (bits_skip b 17 rfl (bits_take a rfl (bits_skip d 27 rfl rfl)))) (bits_take b rfl (bits_skip a 22 rfl (bits_skip d 27 rfl rfl))))
theorem RoundTrip.kxor (d : BitVec 3) (a : BitVec 3) (b : BitVec 3) : RoundTrip.Statement (.kxor d a b) := 
  trip_long (w := 0x00000153 ||| fld d 27 ||| fld a 22 ||| fld b 17) 161 rfl rfl rfl rfl (or_and (or_and (or_and rfl (fld_and d _ _ rfl)) (fld_and a _ _ rfl)) (fld_and b _ _ rfl))
    (congr (congr (congrArg Instr.kxor (bits_skip b 17 rfl (bits_skip a 22 rfl (bits_take d rfl rfl)))) (bits_skip b 17 rfl (bits_take a rfl (bits_skip d 27 rfl rfl)))) (bits_take b rfl (bits_skip a 22 rfl (bits_skip d 27 rfl rfl))))
theorem RoundTrip.knot (d : BitVec 3) (a : BitVec 3) : RoundTrip.Statement (.knot d a) := 
  trip_long (w := 0x000001D3 ||| fld d 27 ||| fld a 22) 162 rfl rfl rfl rfl (or_and (or_and rfl (fld_and d _ _ rfl)) (fld_and a _ _ rfl))
    (congr (congrArg Instr.knot (bits_skip a 22 rfl (bits_take d rfl rfl))) (bits_take a rfl (bits_skip d 27 rfl rfl)))
theorem RoundTrip.kset (d : BitVec 3) (a : BitVec 5) : RoundTrip.Statement (.kset d a) := 
  trip_long (w := 0x00000253 ||| fld d 27 ||| fld a 22) 163 rfl rfl rfl rfl (or_and (or_and rfl (fld_and d _ _ rfl)) (fld_and a _ _ rfl))
    (congr (congrArg Instr.kset (bits_skip a 22 rfl (bits_take d rfl rfl))) (bits_take a rfl (bits_skip d 27 rfl rfl)))
theorem RoundTrip.kget (d : BitVec 5) (a : BitVec 3) : RoundTrip.Statement (.kget d a) := 
  trip_long (w := 0x000002D3 ||| fld d 27 ||| fld a 22) 164 rfl rfl rfl rfl (or_and (or_and rfl (fld_and d _ _ rfl)) (fld_and a _ _ rfl))
    (congr (congrArg Instr.kget (bits_skip a 22 rfl (bits_take d rfl rfl))) (bits_take a rfl (bits_skip d 27 rfl rfl)))
theorem RoundTrip.kpop (d : BitVec 5) (a : BitVec 3) : RoundTrip.Statement (.kpop d a) := 
  trip_long (w := 0x00000353 ||| fld d 27 ||| fld a 22) 165 rfl rfl rfl rfl (or_and (or_and rfl (fld_and d _ _ rfl)) (fld_and a _ _ rfl))
    (congr (congrArg Instr.kpop (bits_skip a 22 rfl (bits_take d rfl rfl))) (bits_take a rfl (bits_skip d 27 rfl rfl)))
theorem RoundTrip.kfirst (d : BitVec 5) (a : BitVec 3) : RoundTrip.Statement (.kfirst d a) := 
  trip_long (w := 0x000003D3 ||| fld d 27 ||| fld a 22) 166 rfl rfl rfl rfl (or_and (or_and rfl (fld_and d _ _ rfl)) (fld_and a _ _ rfl))
    (congr (congrArg Instr.kfirst (bits_skip a 22 rfl (bits_take d rfl rfl))) (bits_take a rfl (bits_skip d 27 rfl rfl)))
theorem RoundTrip.kany (f : BitVec 3) (a : BitVec 3) : RoundTrip.Statement (.kany f a) := 
  trip_long (w := 0x00000453 ||| fld f 27 ||| fld a 22) 167 rfl rfl rfl rfl (or_and (or_and rfl (fld_and f _ _ rfl)) (fld_and a _ _ rfl))
    (congr (congrArg Instr.kany (bits_skip a 22 rfl (bits_take f rfl rfl))) (bits_take a rfl (bits_skip f 27 rfl rfl)))
theorem RoundTrip.klen (d : BitVec 3) (a : BitVec 5) : RoundTrip.Statement (.klen d a) := 
  trip_long (w := 0x000004D3 ||| fld d 27 ||| fld a 22) 168 rfl rfl rfl rfl (or_and (or_and rfl (fld_and d _ _ rfl)) (fld_and a _ _ rfl))
    (congr (congrArg Instr.klen (bits_skip a 22 rfl (bits_take d rfl rfl))) (bits_take a rfl (bits_skip d 27 rfl rfl)))
theorem RoundTrip.vld (d : BitVec 4) (a : BitVec 5) (s : BitVec 2) (p : BitVec 4) (k : BitVec 3) (o : BitVec 7) : RoundTrip.Statement (.vld d a s p k o) := 
  trip_long (w := 0x00000047 ||| fld d 28 ||| fld a 23 ||| fld s 21 ||| fld p 17 ||| fld k 14 ||| fld o 7) 169 rfl rfl rfl rfl (or_and (or_and (or_and (or_and (or_and (or_and rfl (fld_and d _ _ rfl)) (fld_and a _ _ rfl)) (fld_and s _ _ rfl)) (fld_and p _ _ rfl)) (fld_and k _ _ rfl)) (fld_and o _ _ rfl))
    (congr (congr (congr (congr (congr (congrArg Instr.vld (bits_skip o 7 rfl (bits_skip k 14 rfl (bits_skip p 17 rfl (bits_skip s 21 rfl (bits_skip a 23 rfl (bits_take d rfl rfl))))))) (bits_skip o 7 rfl (bits_skip k 14 rfl (bits_skip p 17 rfl (bits_skip s 21 rfl (bits_take a rfl (bits_skip d 28 rfl rfl))))))) (bits_skip o 7 rfl (bits_skip k 14 rfl (bits_skip p 17 rfl (bits_take s rfl (bits_skip a 23 rfl (bits_skip d 28 rfl rfl))))))) (bits_skip o 7 rfl (bits_skip k 14 rfl (bits_take p rfl (bits_skip s 21 rfl (bits_skip a 23 rfl (bits_skip d 28 rfl rfl))))))) (bits_skip o 7 rfl (bits_take k rfl (bits_skip p 17 rfl (bits_skip s 21 rfl (bits_skip a 23 rfl (bits_skip d 28 rfl rfl))))))) (bits_take o rfl (bits_skip k 14 rfl (bits_skip p 17 rfl (bits_skip s 21 rfl (bits_skip a 23 rfl (bits_skip d 28 rfl rfl)))))))
theorem RoundTrip.vst (d : BitVec 4) (a : BitVec 5) (s : BitVec 2) (p : BitVec 4) (k : BitVec 3) (o : BitVec 7) : RoundTrip.Statement (.vst d a s p k o) := 
  trip_long (w := 0x00000049 ||| fld d 28 ||| fld a 23 ||| fld s 21 ||| fld p 17 ||| fld k 14 ||| fld o 7) 170 rfl rfl rfl rfl (or_and (or_and (or_and (or_and (or_and (or_and rfl (fld_and d _ _ rfl)) (fld_and a _ _ rfl)) (fld_and s _ _ rfl)) (fld_and p _ _ rfl)) (fld_and k _ _ rfl)) (fld_and o _ _ rfl))
    (congr (congr (congr (congr (congr (congrArg Instr.vst (bits_skip o 7 rfl (bits_skip k 14 rfl (bits_skip p 17 rfl (bits_skip s 21 rfl (bits_skip a 23 rfl (bits_take d rfl rfl))))))) (bits_skip o 7 rfl (bits_skip k 14 rfl (bits_skip p 17 rfl (bits_skip s 21 rfl (bits_take a rfl (bits_skip d 28 rfl rfl))))))) (bits_skip o 7 rfl (bits_skip k 14 rfl (bits_skip p 17 rfl (bits_take s rfl (bits_skip a 23 rfl (bits_skip d 28 rfl rfl))))))) (bits_skip o 7 rfl (bits_skip k 14 rfl (bits_take p rfl (bits_skip s 21 rfl (bits_skip a 23 rfl (bits_skip d 28 rfl rfl))))))) (bits_skip o 7 rfl (bits_take k rfl (bits_skip p 17 rfl (bits_skip s 21 rfl (bits_skip a 23 rfl (bits_skip d 28 rfl rfl))))))) (bits_take o rfl (bits_skip k 14 rfl (bits_skip p 17 rfl (bits_skip s 21 rfl (bits_skip a 23 rfl (bits_skip d 28 rfl rfl)))))))
theorem RoundTrip.vldd (d : BitVec 4) (a : BitVec 5) (s : BitVec 2) (p : BitVec 4) (k : BitVec 3) (o : BitVec 7) : RoundTrip.Statement (.vldd d a s p k o) := 
  trip_long (w := 0x0000004B ||| fld d 28 ||| fld a 23 ||| fld s 21 ||| fld p 17 ||| fld k 14 ||| fld o 7) 171 rfl rfl rfl rfl (or_and (or_and (or_and (or_and (or_and (or_and rfl (fld_and d _ _ rfl)) (fld_and a _ _ rfl)) (fld_and s _ _ rfl)) (fld_and p _ _ rfl)) (fld_and k _ _ rfl)) (fld_and o _ _ rfl))
    (congr (congr (congr (congr (congr (congrArg Instr.vldd (bits_skip o 7 rfl (bits_skip k 14 rfl (bits_skip p 17 rfl (bits_skip s 21 rfl (bits_skip a 23 rfl (bits_take d rfl rfl))))))) (bits_skip o 7 rfl (bits_skip k 14 rfl (bits_skip p 17 rfl (bits_skip s 21 rfl (bits_take a rfl (bits_skip d 28 rfl rfl))))))) (bits_skip o 7 rfl (bits_skip k 14 rfl (bits_skip p 17 rfl (bits_take s rfl (bits_skip a 23 rfl (bits_skip d 28 rfl rfl))))))) (bits_skip o 7 rfl (bits_skip k 14 rfl (bits_take p rfl (bits_skip s 21 rfl (bits_skip a 23 rfl (bits_skip d 28 rfl rfl))))))) (bits_skip o 7 rfl (bits_take k rfl (bits_skip p 17 rfl (bits_skip s 21 rfl (bits_skip a 23 rfl (bits_skip d 28 rfl rfl))))))) (bits_take o rfl (bits_skip k 14 rfl (bits_skip p 17 rfl (bits_skip s 21 rfl (bits_skip a 23 rfl (bits_skip d 28 rfl rfl)))))))
theorem RoundTrip.vldx (d : BitVec 4) (v : BitVec 4) (a : BitVec 5) (s : BitVec 2) (p : BitVec 4) (k : BitVec 3) (c : BitVec 3) : RoundTrip.Statement (.vldx d v a s p k c) := 
  trip_long (w := 0x0000004D ||| fld d 28 ||| fld v 24 ||| fld a 19 ||| fld s 17 ||| fld p 13 ||| fld k 10 ||| fld c 7) 172 rfl rfl rfl rfl (or_and (or_and (or_and (or_and (or_and (or_and (or_and rfl (fld_and d _ _ rfl)) (fld_and v _ _ rfl)) (fld_and a _ _ rfl)) (fld_and s _ _ rfl)) (fld_and p _ _ rfl)) (fld_and k _ _ rfl)) (fld_and c _ _ rfl))
    (congr (congr (congr (congr (congr (congr (congrArg Instr.vldx (bits_skip c 7 rfl (bits_skip k 10 rfl (bits_skip p 13 rfl (bits_skip s 17 rfl (bits_skip a 19 rfl (bits_skip v 24 rfl (bits_take d rfl rfl)))))))) (bits_skip c 7 rfl (bits_skip k 10 rfl (bits_skip p 13 rfl (bits_skip s 17 rfl (bits_skip a 19 rfl (bits_take v rfl (bits_skip d 28 rfl rfl)))))))) (bits_skip c 7 rfl (bits_skip k 10 rfl (bits_skip p 13 rfl (bits_skip s 17 rfl (bits_take a rfl (bits_skip v 24 rfl (bits_skip d 28 rfl rfl)))))))) (bits_skip c 7 rfl (bits_skip k 10 rfl (bits_skip p 13 rfl (bits_take s rfl (bits_skip a 19 rfl (bits_skip v 24 rfl (bits_skip d 28 rfl rfl)))))))) (bits_skip c 7 rfl (bits_skip k 10 rfl (bits_take p rfl (bits_skip s 17 rfl (bits_skip a 19 rfl (bits_skip v 24 rfl (bits_skip d 28 rfl rfl)))))))) (bits_skip c 7 rfl (bits_take k rfl (bits_skip p 13 rfl (bits_skip s 17 rfl (bits_skip a 19 rfl (bits_skip v 24 rfl (bits_skip d 28 rfl rfl)))))))) (bits_take c rfl (bits_skip k 10 rfl (bits_skip p 13 rfl (bits_skip s 17 rfl (bits_skip a 19 rfl (bits_skip v 24 rfl (bits_skip d 28 rfl rfl))))))))
theorem RoundTrip.vstx (d : BitVec 4) (v : BitVec 4) (a : BitVec 5) (s : BitVec 2) (p : BitVec 4) (k : BitVec 3) (c : BitVec 3) : RoundTrip.Statement (.vstx d v a s p k c) := 
  trip_long (w := 0x0000004F ||| fld d 28 ||| fld v 24 ||| fld a 19 ||| fld s 17 ||| fld p 13 ||| fld k 10 ||| fld c 7) 173 rfl rfl rfl rfl (or_and (or_and (or_and (or_and (or_and (or_and (or_and rfl (fld_and d _ _ rfl)) (fld_and v _ _ rfl)) (fld_and a _ _ rfl)) (fld_and s _ _ rfl)) (fld_and p _ _ rfl)) (fld_and k _ _ rfl)) (fld_and c _ _ rfl))
    (congr (congr (congr (congr (congr (congr (congrArg Instr.vstx (bits_skip c 7 rfl (bits_skip k 10 rfl (bits_skip p 13 rfl (bits_skip s 17 rfl (bits_skip a 19 rfl (bits_skip v 24 rfl (bits_take d rfl rfl)))))))) (bits_skip c 7 rfl (bits_skip k 10 rfl (bits_skip p 13 rfl (bits_skip s 17 rfl (bits_skip a 19 rfl (bits_take v rfl (bits_skip d 28 rfl rfl)))))))) (bits_skip c 7 rfl (bits_skip k 10 rfl (bits_skip p 13 rfl (bits_skip s 17 rfl (bits_take a rfl (bits_skip v 24 rfl (bits_skip d 28 rfl rfl)))))))) (bits_skip c 7 rfl (bits_skip k 10 rfl (bits_skip p 13 rfl (bits_take s rfl (bits_skip a 19 rfl (bits_skip v 24 rfl (bits_skip d 28 rfl rfl)))))))) (bits_skip c 7 rfl (bits_skip k 10 rfl (bits_take p rfl (bits_skip s 17 rfl (bits_skip a 19 rfl (bits_skip v 24 rfl (bits_skip d 28 rfl rfl)))))))) (bits_skip c 7 rfl (bits_take k rfl (bits_skip p 13 rfl (bits_skip s 17 rfl (bits_skip a 19 rfl (bits_skip v 24 rfl (bits_skip d 28 rfl rfl)))))))) (bits_take c rfl (bits_skip k 10 rfl (bits_skip p 13 rfl (bits_skip s 17 rfl (bits_skip a 19 rfl (bits_skip v 24 rfl (bits_skip d 28 rfl rfl))))))))
theorem RoundTrip.mopen (d : BitVec 5) (v : BitVec 4) (s : BitVec 2) (p : BitVec 4) : RoundTrip.Statement (.mopen d v s p) := 
  trip_long (w := 0x00000055 ||| fld d 27 ||| fld v 23 ||| fld s 21 ||| fld p 17) 174 rfl rfl rfl rfl (or_and (or_and (or_and (or_and rfl (fld_and d _ _ rfl)) (fld_and v _ _ rfl)) (fld_and s _ _ rfl)) (fld_and p _ _ rfl))
    (congr (congr (congr (congrArg Instr.mopen (bits_skip p 17 rfl (bits_skip s 21 rfl (bits_skip v 23 rfl (bits_take d rfl rfl))))) (bits_skip p 17 rfl (bits_skip s 21 rfl (bits_take v rfl (bits_skip d 27 rfl rfl))))) (bits_skip p 17 rfl (bits_take s rfl (bits_skip v 23 rfl (bits_skip d 27 rfl rfl))))) (bits_take p rfl (bits_skip s 21 rfl (bits_skip v 23 rfl (bits_skip d 27 rfl rfl)))))
theorem RoundTrip.mma (d : BitVec 5) (v : BitVec 4) (s : BitVec 2) (p : BitVec 4) : RoundTrip.Statement (.mma d v s p) := 
  trip_long (w := 0x000000D5 ||| fld d 27 ||| fld v 23 ||| fld s 21 ||| fld p 17) 175 rfl rfl rfl rfl (or_and (or_and (or_and (or_and rfl (fld_and d _ _ rfl)) (fld_and v _ _ rfl)) (fld_and s _ _ rfl)) (fld_and p _ _ rfl))
    (congr (congr (congr (congrArg Instr.mma (bits_skip p 17 rfl (bits_skip s 21 rfl (bits_skip v 23 rfl (bits_take d rfl rfl))))) (bits_skip p 17 rfl (bits_skip s 21 rfl (bits_take v rfl (bits_skip d 27 rfl rfl))))) (bits_skip p 17 rfl (bits_take s rfl (bits_skip v 23 rfl (bits_skip d 27 rfl rfl))))) (bits_take p rfl (bits_skip s 21 rfl (bits_skip v 23 rfl (bits_skip d 27 rfl rfl)))))
theorem RoundTrip.mmas (d : BitVec 5) (v : BitVec 4) (s : BitVec 2) (p : BitVec 4) : RoundTrip.Statement (.mmas d v s p) := 
  trip_long (w := 0x00000155 ||| fld d 27 ||| fld v 23 ||| fld s 21 ||| fld p 17) 176 rfl rfl rfl rfl (or_and (or_and (or_and (or_and rfl (fld_and d _ _ rfl)) (fld_and v _ _ rfl)) (fld_and s _ _ rfl)) (fld_and p _ _ rfl))
    (congr (congr (congr (congrArg Instr.mmas (bits_skip p 17 rfl (bits_skip s 21 rfl (bits_skip v 23 rfl (bits_take d rfl rfl))))) (bits_skip p 17 rfl (bits_skip s 21 rfl (bits_take v rfl (bits_skip d 27 rfl rfl))))) (bits_skip p 17 rfl (bits_take s rfl (bits_skip v 23 rfl (bits_skip d 27 rfl rfl))))) (bits_take p rfl (bits_skip s 21 rfl (bits_skip v 23 rfl (bits_skip d 27 rfl rfl)))))
theorem RoundTrip.mmaw (d : BitVec 5) (v : BitVec 4) (s : BitVec 2) (p : BitVec 4) : RoundTrip.Statement (.mmaw d v s p) := 
  trip_long (w := 0x000001D5 ||| fld d 27 ||| fld v 23 ||| fld s 21 ||| fld p 17) 177 rfl rfl rfl rfl (or_and (or_and (or_and (or_and rfl (fld_and d _ _ rfl)) (fld_and v _ _ rfl)) (fld_and s _ _ rfl)) (fld_and p _ _ rfl))
    (congr (congr (congr (congrArg Instr.mmaw (bits_skip p 17 rfl (bits_skip s 21 rfl (bits_skip v 23 rfl (bits_take d rfl rfl))))) (bits_skip p 17 rfl (bits_skip s 21 rfl (bits_take v rfl (bits_skip d 27 rfl rfl))))) (bits_skip p 17 rfl (bits_take s rfl (bits_skip v 23 rfl (bits_skip d 27 rfl rfl))))) (bits_take p rfl (bits_skip s 21 rfl (bits_skip v 23 rfl (bits_skip d 27 rfl rfl)))))
theorem RoundTrip.mrot (d : BitVec 5) (v : BitVec 4) (s : BitVec 2) (p : BitVec 4) : RoundTrip.Statement (.mrot d v s p) := 
  trip_long (w := 0x00000255 ||| fld d 27 ||| fld v 23 ||| fld s 21 ||| fld p 17) 178 rfl rfl rfl rfl (or_and (or_and (or_and (or_and rfl (fld_and d _ _ rfl)) (fld_and v _ _ rfl)) (fld_and s _ _ rfl)) (fld_and p _ _ rfl))
    (congr (congr (congr (congrArg Instr.mrot (bits_skip p 17 rfl (bits_skip s 21 rfl (bits_skip v 23 rfl (bits_take d rfl rfl))))) (bits_skip p 17 rfl (bits_skip s 21 rfl (bits_take v rfl (bits_skip d 27 rfl rfl))))) (bits_skip p 17 rfl (bits_take s rfl (bits_skip v 23 rfl (bits_skip d 27 rfl rfl))))) (bits_take p rfl (bits_skip s 21 rfl (bits_skip v 23 rfl (bits_skip d 27 rfl rfl)))))
theorem RoundTrip.mcont (d : BitVec 5) (v : BitVec 4) (s : BitVec 2) (p : BitVec 4) : RoundTrip.Statement (.mcont d v s p) := 
  trip_long (w := 0x000002D5 ||| fld d 27 ||| fld v 23 ||| fld s 21 ||| fld p 17) 179 rfl rfl rfl rfl (or_and (or_and (or_and (or_and rfl (fld_and d _ _ rfl)) (fld_and v _ _ rfl)) (fld_and s _ _ rfl)) (fld_and p _ _ rfl))
    (congr (congr (congr (congrArg Instr.mcont (bits_skip p 17 rfl (bits_skip s 21 rfl (bits_skip v 23 rfl (bits_take d rfl rfl))))) (bits_skip p 17 rfl (bits_skip s 21 rfl (bits_take v rfl (bits_skip d 27 rfl rfl))))) (bits_skip p 17 rfl (bits_take s rfl (bits_skip v 23 rfl (bits_skip d 27 rfl rfl))))) (bits_take p rfl (bits_skip s 21 rfl (bits_skip v 23 rfl (bits_skip d 27 rfl rfl)))))
theorem RoundTrip.mfwd (d : BitVec 5) (v : BitVec 4) (s : BitVec 2) (p : BitVec 4) : RoundTrip.Statement (.mfwd d v s p) := 
  trip_long (w := 0x00000355 ||| fld d 27 ||| fld v 23 ||| fld s 21 ||| fld p 17) 180 rfl rfl rfl rfl (or_and (or_and (or_and (or_and rfl (fld_and d _ _ rfl)) (fld_and v _ _ rfl)) (fld_and s _ _ rfl)) (fld_and p _ _ rfl))
    (congr (congr (congr (congrArg Instr.mfwd (bits_skip p 17 rfl (bits_skip s 21 rfl (bits_skip v 23 rfl (bits_take d rfl rfl))))) (bits_skip p 17 rfl (bits_skip s 21 rfl (bits_take v rfl (bits_skip d 27 rfl rfl))))) (bits_skip p 17 rfl (bits_take s rfl (bits_skip v 23 rfl (bits_skip d 27 rfl rfl))))) (bits_take p rfl (bits_skip s 21 rfl (bits_skip v 23 rfl (bits_skip d 27 rfl rfl)))))
theorem RoundTrip.mread (d : BitVec 5) (v : BitVec 4) (s : BitVec 2) (p : BitVec 4) : RoundTrip.Statement (.mread d v s p) := 
  trip_long (w := 0x000003D5 ||| fld d 27 ||| fld v 23 ||| fld s 21 ||| fld p 17) 181 rfl rfl rfl rfl (or_and (or_and (or_and (or_and rfl (fld_and d _ _ rfl)) (fld_and v _ _ rfl)) (fld_and s _ _ rfl)) (fld_and p _ _ rfl))
    (congr (congr (congr (congrArg Instr.mread (bits_skip p 17 rfl (bits_skip s 21 rfl (bits_skip v 23 rfl (bits_take d rfl rfl))))) (bits_skip p 17 rfl (bits_skip s 21 rfl (bits_take v rfl (bits_skip d 27 rfl rfl))))) (bits_skip p 17 rfl (bits_take s rfl (bits_skip v 23 rfl (bits_skip d 27 rfl rfl))))) (bits_take p rfl (bits_skip s 21 rfl (bits_skip v 23 rfl (bits_skip d 27 rfl rfl)))))
theorem RoundTrip.mqry (d : BitVec 5) (v : BitVec 4) (s : BitVec 2) (p : BitVec 4) : RoundTrip.Statement (.mqry d v s p) := 
  trip_long (w := 0x00000455 ||| fld d 27 ||| fld v 23 ||| fld s 21 ||| fld p 17) 182 rfl rfl rfl rfl (or_and (or_and (or_and (or_and rfl (fld_and d _ _ rfl)) (fld_and v _ _ rfl)) (fld_and s _ _ rfl)) (fld_and p _ _ rfl))
    (congr (congr (congr (congrArg Instr.mqry (bits_skip p 17 rfl (bits_skip s 21 rfl (bits_skip v 23 rfl (bits_take d rfl rfl))))) (bits_skip p 17 rfl (bits_skip s 21 rfl (bits_take v rfl (bits_skip d 27 rfl rfl))))) (bits_skip p 17 rfl (bits_take s rfl (bits_skip v 23 rfl (bits_skip d 27 rfl rfl))))) (bits_take p rfl (bits_skip s 21 rfl (bits_skip v 23 rfl (bits_skip d 27 rfl rfl)))))
theorem RoundTrip.mabn (d : BitVec 5) (v : BitVec 4) (s : BitVec 2) (p : BitVec 4) : RoundTrip.Statement (.mabn d v s p) := 
  trip_long (w := 0x000004D5 ||| fld d 27 ||| fld v 23 ||| fld s 21 ||| fld p 17) 183 rfl rfl rfl rfl (or_and (or_and (or_and (or_and rfl (fld_and d _ _ rfl)) (fld_and v _ _ rfl)) (fld_and s _ _ rfl)) (fld_and p _ _ rfl))
    (congr (congr (congr (congrArg Instr.mabn (bits_skip p 17 rfl (bits_skip s 21 rfl (bits_skip v 23 rfl (bits_take d rfl rfl))))) (bits_skip p 17 rfl (bits_skip s 21 rfl (bits_take v rfl (bits_skip d 27 rfl rfl))))) (bits_skip p 17 rfl (bits_take s rfl (bits_skip v 23 rfl (bits_skip d 27 rfl rfl))))) (bits_take p rfl (bits_skip s 21 rfl (bits_skip v 23 rfl (bits_skip d 27 rfl rfl)))))
theorem RoundTrip.mclose (d : BitVec 5) (v : BitVec 4) (s : BitVec 2) (p : BitVec 4) : RoundTrip.Statement (.mclose d v s p) := 
  trip_long (w := 0x00000555 ||| fld d 27 ||| fld v 23 ||| fld s 21 ||| fld p 17) 184 rfl rfl rfl rfl (or_and (or_and (or_and (or_and rfl (fld_and d _ _ rfl)) (fld_and v _ _ rfl)) (fld_and s _ _ rfl)) (fld_and p _ _ rfl))
    (congr (congr (congr (congrArg Instr.mclose (bits_skip p 17 rfl (bits_skip s 21 rfl (bits_skip v 23 rfl (bits_take d rfl rfl))))) (bits_skip p 17 rfl (bits_skip s 21 rfl (bits_take v rfl (bits_skip d 27 rfl rfl))))) (bits_skip p 17 rfl (bits_take s rfl (bits_skip v 23 rfl (bits_skip d 27 rfl rfl))))) (bits_take p rfl (bits_skip s 21 rfl (bits_skip v 23 rfl (bits_skip d 27 rfl rfl)))))
theorem RoundTrip.mflg (d : BitVec 5) (v : BitVec 4) (s : BitVec 2) (p : BitVec 4) : RoundTrip.Statement (.mflg d v s p) := 
  trip_long (w := 0x000005D5 ||| fld d 27 ||| fld v 23 ||| fld s 21 ||| fld p 17) 185 rfl rfl rfl rfl (or_and (or_and (or_and (or_and rfl (fld_and d _ _ rfl)) (fld_and v _ _ rfl)) (fld_and s _ _ rfl)) (fld_and p _ _ rfl))
    (congr (congr (congr (congrArg Instr.mflg (bits_skip p 17 rfl (bits_skip s 21 rfl (bits_skip v 23 rfl (bits_take d rfl rfl))))) (bits_skip p 17 rfl (bits_skip s 21 rfl (bits_take v rfl (bits_skip d 27 rfl rfl))))) (bits_skip p 17 rfl (bits_take s rfl (bits_skip v 23 rfl (bits_skip d 27 rfl rfl))))) (bits_take p rfl (bits_skip s 21 rfl (bits_skip v 23 rfl (bits_skip d 27 rfl rfl)))))
theorem RoundTrip.cpy (d : BitVec 5) (v : BitVec 4) (s : BitVec 2) (p : BitVec 4) : RoundTrip.Statement (.cpy d v s p) := 
  trip_long (w := 0x00000057 ||| fld d 27 ||| fld v 23 ||| fld s 21 ||| fld p 17) 186 rfl rfl rfl rfl (or_and (or_and (or_and (or_and rfl (fld_and d _ _ rfl)) (fld_and v _ _ rfl)) (fld_and s _ _ rfl)) (fld_and p _ _ rfl))
    (congr (congr (congr (congrArg Instr.cpy (bits_skip p 17 rfl (bits_skip s 21 rfl (bits_skip v 23 rfl (bits_take d rfl rfl))))) (bits_skip p 17 rfl (bits_skip s 21 rfl (bits_take v rfl (bits_skip d 27 rfl rfl))))) (bits_skip p 17 rfl (bits_take s rfl (bits_skip v 23 rfl (bits_skip d 27 rfl rfl))))) (bits_take p rfl (bits_skip s 21 rfl (bits_skip v 23 rfl (bits_skip d 27 rfl rfl)))))
theorem RoundTrip.cpy2 (d : BitVec 5) (v : BitVec 4) (s : BitVec 2) (p : BitVec 4) : RoundTrip.Statement (.cpy2 d v s p) := 
  trip_long (w := 0x000000D7 ||| fld d 27 ||| fld v 23 ||| fld s 21 ||| fld p 17) 187 rfl rfl rfl rfl (or_and (or_and (or_and (or_and rfl (fld_and d _ _ rfl)) (fld_and v _ _ rfl)) (fld_and s _ _ rfl)) (fld_and p _ _ rfl))
    (congr (congr (congr (congrArg Instr.cpy2 (bits_skip p 17 rfl (bits_skip s 21 rfl (bits_skip v 23 rfl (bits_take d rfl rfl))))) (bits_skip p 17 rfl (bits_skip s 21 rfl (bits_take v rfl (bits_skip d 27 rfl rfl))))) (bits_skip p 17 rfl (bits_take s rfl (bits_skip v 23 rfl (bits_skip d 27 rfl rfl))))) (bits_take p rfl (bits_skip s 21 rfl (bits_skip v 23 rfl (bits_skip d 27 rfl rfl)))))
theorem RoundTrip.cpyf (d : BitVec 5) (v : BitVec 4) (s : BitVec 2) (p : BitVec 4) : RoundTrip.Statement (.cpyf d v s p) := 
  trip_long (w := 0x00000157 ||| fld d 27 ||| fld v 23 ||| fld s 21 ||| fld p 17) 188 rfl rfl rfl rfl (or_and (or_and (or_and (or_and rfl (fld_and d _ _ rfl)) (fld_and v _ _ rfl)) (fld_and s _ _ rfl)) (fld_and p _ _ rfl))
    (congr (congr (congr (congrArg Instr.cpyf (bits_skip p 17 rfl (bits_skip s 21 rfl (bits_skip v 23 rfl (bits_take d rfl rfl))))) (bits_skip p 17 rfl (bits_skip s 21 rfl (bits_take v rfl (bits_skip d 27 rfl rfl))))) (bits_skip p 17 rfl (bits_take s rfl (bits_skip v 23 rfl (bits_skip d 27 rfl rfl))))) (bits_take p rfl (bits_skip s 21 rfl (bits_skip v 23 rfl (bits_skip d 27 rfl rfl)))))
theorem RoundTrip.cpyk (d : BitVec 5) (v : BitVec 4) (s : BitVec 2) (p : BitVec 4) : RoundTrip.Statement (.cpyk d v s p) := 
  trip_long (w := 0x000001D7 ||| fld d 27 ||| fld v 23 ||| fld s 21 ||| fld p 17) 189 rfl rfl rfl rfl (or_and (or_and (or_and (or_and rfl (fld_and d _ _ rfl)) (fld_and v _ _ rfl)) (fld_and s _ _ rfl)) (fld_and p _ _ rfl))
    (congr (congr (congr (congrArg Instr.cpyk (bits_skip p 17 rfl (bits_skip s 21 rfl (bits_skip v 23 rfl (bits_take d rfl rfl))))) (bits_skip p 17 rfl (bits_skip s 21 rfl (bits_take v rfl (bits_skip d 27 rfl rfl))))) (bits_skip p 17 rfl (bits_take s rfl (bits_skip v 23 rfl (bits_skip d 27 rfl rfl))))) (bits_take p rfl (bits_skip s 21 rfl (bits_skip v 23 rfl (bits_skip d 27 rfl rfl)))))
theorem RoundTrip.mfs (d : BitVec 5) (s : BitVec 12) : RoundTrip.Statement (.mfs d s) := 
  trip_long (w := 0x0000007F ||| fld d 27 ||| fld s 10) 190 rfl rfl rfl rfl (or_and (or_and rfl (fld_and d _ _ rfl)) (fld_and s _ _ rfl))
    (congr (congrArg Instr.mfs (bits_skip s 10 rfl (bits_take d rfl rfl))) (bits_take s rfl (bits_skip d 27 rfl rfl)))
theorem RoundTrip.mts (a : BitVec 5) (s : BitVec 12) : RoundTrip.Statement (.mts a s) := 
  trip_long (w := 0x000000FF ||| fld a 22 ||| fld s 10) 191 rfl rfl rfl rfl (or_and (or_and rfl (fld_and a _ _ rfl)) (fld_and s _ _ rfl))
    (congr (congrArg Instr.mts (bits_skip s 10 rfl (bits_take a rfl rfl))) (bits_take s rfl (bits_skip a 22 rfl rfl)))
theorem RoundTrip.trap (c : BitVec 12) : RoundTrip.Statement (.trap c) := 
  trip_long (w := 0x0000017F ||| fld c 10) 192 rfl rfl rfl rfl (or_and rfl (fld_and c _ _ rfl))
    (congrArg Instr.trap (bits_take c rfl rfl))
theorem RoundTrip.halt : RoundTrip.Statement .halt := 
  trip_long (w := 0x0000027F) 193 rfl rfl rfl rfl rfl
    rfl
theorem RoundTrip.nop : RoundTrip.Statement .nop := 
  trip_long (w := 0x000002FF) 194 rfl rfl rfl rfl rfl
    rfl
theorem RoundTrip.bkpt (c : BitVec 12) : RoundTrip.Statement (.bkpt c) := 
  trip_long (w := 0x0000037F ||| fld c 10) 195 rfl rfl rfl rfl (or_and rfl (fld_and c _ _ rfl))
    (congrArg Instr.bkpt (bits_take c rfl rfl))
theorem RoundTrip.svcRsm (c : BitVec 5) (a : BitVec 5) : RoundTrip.Statement (.svcRsm c a) := 
  trip_long (w := 0x000003FF ||| fld c 27 ||| fld a 22) 196 rfl rfl rfl rfl (or_and (or_and rfl (fld_and c _ _ rfl)) (fld_and a _ _ rfl))
    (congr (congrArg Instr.svcRsm (bits_skip a 22 rfl (bits_take c rfl rfl))) (bits_take a rfl (bits_skip c 27 rfl rfl)))
theorem RoundTrip.svcKill (c : BitVec 5) (a : BitVec 5) : RoundTrip.Statement (.svcKill c a) := 
  trip_long (w := 0x000007FF ||| fld c 27 ||| fld a 22) 197 rfl rfl rfl rfl (or_and (or_and rfl (fld_and c _ _ rfl)) (fld_and a _ _ rfl))
    (congr (congrArg Instr.svcKill (bits_skip a 22 rfl (bits_take c rfl rfl))) (bits_take a rfl (bits_skip c 27 rfl rfl)))
theorem RoundTrip.svcTlbinv (c : BitVec 5) (a : BitVec 5) : RoundTrip.Statement (.svcTlbinv c a) := 
  trip_long (w := 0x00000BFF ||| fld c 27 ||| fld a 22) 198 rfl rfl rfl rfl (or_and (or_and rfl (fld_and c _ _ rfl)) (fld_and a _ _ rfl))
    (congr (congrArg Instr.svcTlbinv (bits_skip a 22 rfl (bits_take c rfl rfl))) (bits_take a rfl (bits_skip c 27 rfl rfl)))
theorem RoundTrip.svcGangctl (c : BitVec 5) (a : BitVec 5) : RoundTrip.Statement (.svcGangctl c a) := 
  trip_long (w := 0x00000FFF ||| fld c 27 ||| fld a 22) 199 rfl rfl rfl rfl (or_and (or_and rfl (fld_and c _ _ rfl)) (fld_and a _ _ rfl))
    (congr (congrArg Instr.svcGangctl (bits_skip a 22 rfl (bits_take c rfl rfl))) (bits_take a rfl (bits_skip c 27 rfl rfl)))
theorem RoundTrip.svcPrmpt (c : BitVec 5) (a : BitVec 5) : RoundTrip.Statement (.svcPrmpt c a) := 
  trip_long (w := 0x000013FF ||| fld c 27 ||| fld a 22) 200 rfl rfl rfl rfl (or_and (or_and rfl (fld_and c _ _ rfl)) (fld_and a _ _ rfl))
    (congr (congrArg Instr.svcPrmpt (bits_skip a 22 rfl (bits_take c rfl rfl))) (bits_take a rfl (bits_skip c 27 rfl rfl)))
theorem RoundTrip.svcMsgrd : RoundTrip.Statement .svcMsgrd := 
  trip_long (w := 0x000017FF) 201 rfl rfl rfl rfl rfl
    rfl
theorem RoundTrip.callInsn (o : BitVec 25) : RoundTrip.Statement (.callInsn o) := 
  trip_long (w := 0x0000001B ||| fld o 7) 202 rfl rfl rfl rfl (or_and rfl (fld_and o _ _ rfl))
    (congrArg Instr.callInsn (bits_take o rfl rfl))
theorem RoundTrip.illegalInstruction (word : BitVec 32) : RoundTrip.Statement (.illegalInstruction word) := fun h => by simp [wellFormed] at h
theorem RoundTrip.powerOn : RoundTrip.Statement .powerOn := nofun
theorem RoundTrip.railsSettled : RoundTrip.Statement .railsSettled := nofun
theorem RoundTrip.powerOff : RoundTrip.Statement .powerOff := nofun
theorem RoundTrip.bootStageLoad : RoundTrip.Statement .bootStageLoad := nofun
theorem RoundTrip.recoveryWindowWrite : RoundTrip.Statement .recoveryWindowWrite := nofun
theorem RoundTrip.recovctlWrite : RoundTrip.Statement .recovctlWrite := nofun
theorem RoundTrip.recoveryPieceCopied : RoundTrip.Statement .recoveryPieceCopied := nofun
theorem RoundTrip.heartbeatMissed : RoundTrip.Statement .heartbeatMissed := nofun
theorem RoundTrip.attgoWrite : RoundTrip.Statement .attgoWrite := nofun
theorem RoundTrip.attestationReportDone : RoundTrip.Statement .attestationReportDone := nofun
theorem RoundTrip.lifetimeCommit : RoundTrip.Statement .lifetimeCommit := nofun
theorem RoundTrip.monthAdvance : RoundTrip.Statement .monthAdvance := nofun
theorem RoundTrip.pwrctlP0 : RoundTrip.Statement .pwrctlP0 := nofun
theorem RoundTrip.pwrctlP1 : RoundTrip.Statement .pwrctlP1 := nofun
theorem RoundTrip.pwrctlP2 : RoundTrip.Statement .pwrctlP2 := nofun
theorem RoundTrip.pwrctlP3 : RoundTrip.Statement .pwrctlP3 := nofun
theorem RoundTrip.powerTransitionDone : RoundTrip.Statement .powerTransitionDone := nofun
theorem RoundTrip.thermalAlert : RoundTrip.Statement .thermalAlert := nofun
theorem RoundTrip.thermtrip : RoundTrip.Statement .thermtrip := nofun
theorem RoundTrip.dramEccCorrect : RoundTrip.Statement .dramEccCorrect := nofun
theorem RoundTrip.dramEccPoison : RoundTrip.Statement .dramEccPoison := nofun
theorem RoundTrip.tarmelFlitReplay : RoundTrip.Statement .tarmelFlitReplay := nofun
theorem RoundTrip.tarmelLaneSpare : RoundTrip.Statement .tarmelLaneSpare := nofun
theorem RoundTrip.tarmelRetrainDone : RoundTrip.Statement .tarmelRetrainDone := nofun
theorem RoundTrip.tarmelGroupDisable : RoundTrip.Statement .tarmelGroupDisable := nofun
theorem RoundTrip.vilamFlitReplay : RoundTrip.Statement .vilamFlitReplay := nofun
theorem RoundTrip.vilamPortDegrade : RoundTrip.Statement .vilamPortDegrade := nofun
theorem RoundTrip.routeRewrite : RoundTrip.Statement .routeRewrite := nofun
theorem RoundTrip.routeResume : RoundTrip.Statement .routeResume := nofun
theorem RoundTrip.pcieLinkTrain : RoundTrip.Statement .pcieLinkTrain := nofun
theorem RoundTrip.packetForward : RoundTrip.Statement .packetForward := nofun
theorem RoundTrip.load : RoundTrip.Statement .load := nofun
theorem RoundTrip.store : RoundTrip.Statement .store := nofun
theorem RoundTrip.atomic : RoundTrip.Statement .atomic := nofun
theorem RoundTrip.feop : RoundTrip.Statement .feop := nofun
theorem RoundTrip.copyw : RoundTrip.Statement .copyw := nofun
theorem RoundTrip.contrib : RoundTrip.Statement .contrib := nofun
theorem RoundTrip.task : RoundTrip.Statement .task := nofun
theorem RoundTrip.tkget : RoundTrip.Statement .tkget := nofun
theorem RoundTrip.tkreg : RoundTrip.Statement .tkreg := nofun
theorem RoundTrip.tkdone : RoundTrip.Statement .tkdone := nofun
theorem RoundTrip.resp : RoundTrip.Statement .resp := nofun
theorem RoundTrip.ack : RoundTrip.Statement .ack := nofun
theorem RoundTrip.nack : RoundTrip.Statement .nack := nofun
theorem RoundTrip.nackRetry : RoundTrip.Statement .nackRetry := nofun
theorem RoundTrip.call : RoundTrip.Statement .call := nofun
theorem RoundTrip.ctup : RoundTrip.Statement .ctup := nofun
theorem RoundTrip.ctdown : RoundTrip.Statement .ctdown := nofun
theorem RoundTrip.ctabt : RoundTrip.Statement .ctabt := nofun
theorem RoundTrip.pbar : RoundTrip.Statement .pbar := nofun
theorem RoundTrip.barrierArrive : RoundTrip.Statement .barrierArrive := nofun
theorem RoundTrip.hostBar4Read : RoundTrip.Statement .hostBar4Read := nofun
theorem RoundTrip.hostBar4Write : RoundTrip.Statement .hostBar4Write := nofun
theorem RoundTrip.qbaseWrite : RoundTrip.Statement .qbaseWrite := nofun
theorem RoundTrip.qridxWrite : RoundTrip.Statement .qridxWrite := nofun
theorem RoundTrip.qcfgWrite : RoundTrip.Statement .qcfgWrite := nofun
theorem RoundTrip.notifyWrite : RoundTrip.Statement .notifyWrite := nofun
theorem RoundTrip.registerWrite : RoundTrip.Statement .registerWrite := nofun
theorem RoundTrip.packetRead : RoundTrip.Statement .packetRead := nofun
theorem RoundTrip.waitValidReread : RoundTrip.Statement .waitValidReread := nofun
theorem RoundTrip.packetBegin : RoundTrip.Statement .packetBegin := nofun
theorem RoundTrip.launch : RoundTrip.Statement .launch := nofun
theorem RoundTrip.launchAccept : RoundTrip.Statement .launchAccept := nofun
theorem RoundTrip.depend : RoundTrip.Statement .depend := nofun
theorem RoundTrip.dependPoll : RoundTrip.Statement .dependPoll := nofun
theorem RoundTrip.signalStore : RoundTrip.Statement .signalStore := nofun
theorem RoundTrip.signalAdd : RoundTrip.Statement .signalAdd := nofun
theorem RoundTrip.signalSubtract : RoundTrip.Statement .signalSubtract := nofun
theorem RoundTrip.copy : RoundTrip.Statement .copy := nofun
theorem RoundTrip.copyPiece : RoundTrip.Statement .copyPiece := nofun
theorem RoundTrip.pcieCompletion : RoundTrip.Statement .pcieCompletion := nofun
theorem RoundTrip.gangOut : RoundTrip.Statement .gangOut := nofun
theorem RoundTrip.gangIn : RoundTrip.Statement .gangIn := nofun
theorem RoundTrip.gangAbort : RoundTrip.Statement .gangAbort := nofun
theorem RoundTrip.gangCommandStart : RoundTrip.Statement .gangCommandStart := nofun
theorem RoundTrip.freeze : RoundTrip.Statement .freeze := nofun
theorem RoundTrip.mark : RoundTrip.Statement .mark := nofun
theorem RoundTrip.sweep : RoundTrip.Statement .sweep := nofun
theorem RoundTrip.save : RoundTrip.Statement .save := nofun
theorem RoundTrip.release : RoundTrip.Statement .release := nofun
theorem RoundTrip.releaseHostWaitExpiry : RoundTrip.Statement .releaseHostWaitExpiry := nofun
theorem RoundTrip.phaseComplete : RoundTrip.Statement .phaseComplete := nofun
theorem RoundTrip.inRestore : RoundTrip.Statement .inRestore := nofun
theorem RoundTrip.inAdmit : RoundTrip.Statement .inAdmit := nofun
theorem RoundTrip.uncorrectableError : RoundTrip.Statement .uncorrectableError := nofun
theorem RoundTrip.cobaltBind : RoundTrip.Statement .cobaltBind := nofun
theorem RoundTrip.cobaltPreempt : RoundTrip.Statement .cobaltPreempt := nofun
theorem RoundTrip.preemption : RoundTrip.Statement .preemption := nofun
theorem RoundTrip.cobaltResume : RoundTrip.Statement .cobaltResume := nofun
theorem RoundTrip.spillRedeliver : RoundTrip.Statement .spillRedeliver := nofun
theorem RoundTrip.parcelRetire : RoundTrip.Statement .parcelRetire := nofun
theorem RoundTrip.retired : RoundTrip.Statement .retired := nofun
theorem RoundTrip.reply : RoundTrip.Statement .reply := nofun
theorem RoundTrip.streamRelease : RoundTrip.Statement .streamRelease := nofun
theorem RoundTrip.waitTimeout : RoundTrip.Statement .waitTimeout := nofun
theorem RoundTrip.exitDrained : RoundTrip.Statement .exitDrained := nofun
theorem RoundTrip.walkComplete : RoundTrip.Statement .walkComplete := nofun
theorem RoundTrip.stashLineFill : RoundTrip.Statement .stashLineFill := nofun
theorem RoundTrip.homeRead : RoundTrip.Statement .homeRead := nofun
theorem RoundTrip.homeWrite : RoundTrip.Statement .homeWrite := nofun
theorem RoundTrip.quadInvalidate : RoundTrip.Statement .quadInvalidate := nofun
theorem RoundTrip.quadRecall : RoundTrip.Statement .quadRecall := nofun
theorem RoundTrip.invalidationAck : RoundTrip.Statement .invalidationAck := nofun
theorem RoundTrip.writeGrant : RoundTrip.Statement .writeGrant := nofun
theorem RoundTrip.evictionNotice : RoundTrip.Statement .evictionNotice := nofun
theorem RoundTrip.engineAccept : RoundTrip.Statement .engineAccept := nofun
theorem RoundTrip.contributionArrival : RoundTrip.Statement .contributionArrival := nofun
theorem RoundTrip.mrotDelivery : RoundTrip.Statement .mrotDelivery := nofun
theorem RoundTrip.copyStart : RoundTrip.Statement .copyStart := nofun
theorem RoundTrip.copyDone : RoundTrip.Statement .copyDone := nofun
theorem RoundTrip.svcCompletion : RoundTrip.Statement .svcCompletion := nofun
theorem RoundTrip.routerGroupWrite : RoundTrip.Statement .routerGroupWrite := nofun
theorem RoundTrip.migrSend : RoundTrip.Statement .migrSend := nofun
theorem RoundTrip.scopeSet : RoundTrip.Statement .scopeSet := nofun
theorem RoundTrip.tileCommandArrival : RoundTrip.Statement .tileCommandArrival := nofun
theorem RoundTrip.thermalAlertClear : RoundTrip.Statement .thermalAlertClear := nofun
end Sys2Proof.Laws
end

