-- ==== Sys2Proof/Laws/Stream.lean ====
section
/-!
SUPPORT. Laws/Stream.lean: what a stream operation that issues with nothing outstanding before it does: it takes its number and begins at once (R182 to
R187), and what ends an operation of one byte range.
-/
namespace Sys2Proof.Machine

/-- A thread with nothing outstanding has room in every stream (R187). -/
theorem Slot.hasRoom_fresh (t : Slot) (i : Nat) (h : t.ops = []) : t.hasRoom i = true := by
  have hw : ∀ j, t.window j = 0 := fun j => by simp [Slot.window, Slot.front, h]
  simp [Slot.hasRoom, Slot.windows, hw]

theorem Slot.windows_fresh (t : Slot) (h : t.ops = []) : t.drained = true := by
  have hw : ∀ j, t.window j = 0 := fun j => by simp [Slot.window, Slot.front, h]
  simp [Slot.drained, Slot.windows, hw]

/-- The thread as it stands once it has issued an operation with nothing outstanding before it. -/
theorem Slot.issueOp_ops (t : Slot) (i : Instr) (x : Issue) (h : t.ops = []) : (t.issueOp i x).ops = [t.newOp i x] := by
  unfold Slot.issueOp
  split <;> simp [h]

theorem Slot.issueOp_streams (t : Slot) (i : Instr) (x : Issue) :
    (t.issueOp i x).streams = t.streams.set x.st.toNat { t.stream x.st.toNat with next := (t.stream x.st.toNat).next + 1 } := by
  unfold Slot.issueOp
  split <;> simp

theorem Slot.stream_issueOp (t : Slot) (i : Instr) (x : Issue) (j : Nat) :
    (t.issueOp i x).stream j = if j = x.st.toNat then { t.stream x.st.toNat with next := (t.stream x.st.toNat).next + 1 } else t.stream j := by
  unfold Slot.stream
  rw [Slot.issueOp_streams, NMap.get_set]
  rfl

theorem bits_needs (t : Slot) (i : Nat) (h : i < 4) : (bits t.needs (16 * i) 16 : BitVec 16) = (t.stream i).next := by
  have hi : i = 0 ∨ i = 1 ∨ i = 2 ∨ i = 3 := by omega
  unfold bits Slot.needs
  rcases hi with rfl | rfl | rfl | rfl <;>
  · apply BitVec.eq_of_getLsbD_eq
    intro j hj
    simp only [BitVec.getLsbD_extractLsb', BitVec.getLsbD_append, hj, decide_true, Bool.true_and, Nat.mul_zero, Nat.zero_add, Nat.reduceMul]
    repeat' split
    all_goals first
      | omega
      | rfl
      | (rw [show 32 + j - 16 - 16 = j by omega])
      | (rw [show 48 + j - 16 - 16 - 16 = j by omega])
      | (rw [show 16 + j - 16 = j by omega])
      | simp_all

/-- Its mask is met, whatever streams it names (R185). -/
theorem Slot.maskMet_issueOp (t : Slot) (i : Instr) (x : Issue) (h : t.ops = []) : (t.issueOp i x).maskMet (t.newOp i x) = true := by
  unfold Slot.maskMet
  rw [List.all_eq_true]
  intro j hj
  rw [Bool.or_eq_true]
  right
  rw [decide_eq_true_eq]
  have hj4 : j < 4 := List.mem_range.mp hj
  have hn : (bits (t.newOp i x).need (16 * j) 16 : BitVec 16) = (t.stream j).next := bits_needs t j hj4
  rw [hn]
  have hf : (t.issueOp i x).front j = (t.stream j).next := by
    unfold Slot.front
    rw [Slot.issueOp_ops t i x h]
    by_cases e : x.st.toNat = j
    · subst e
      have : ((t.newOp i x).stream.toNat == x.st.toNat) = true := by simp [Slot.newOp]
      simp only [List.find?_cons, this]
      rfl
    · have : ((t.newOp i x).stream.toNat == j) = false := by simpa [Slot.newOp] using e
      simp only [List.find?_cons, this, List.find?_nil]
      rw [Slot.stream_issueOp, if_neg (Ne.symm e)]
  exact Nat.le_of_eq (by rw [hf])

theorem Slot.op_issueOp (t : Slot) (i : Instr) (x : Issue) (h : t.ops = []) : (t.issueOp i x).op t.opId = some (t.newOp i x) := by
  simp [Slot.op, Slot.issueOp_ops t i x h, Slot.newOp]

theorem Slot.earlier_issueOp (t : Slot) (i : Instr) (x : Issue) (h : t.ops = []) : (t.issueOp i x).earlier t.opId = [] := by
  simp [Slot.earlier, Slot.issueOp_ops t i x h, Slot.newOp]

theorem clashes_nil (s : State) (k : Nat) (va : Word) (n : Nat) : s.clashes k [] va n = false := rfl

@[simp] theorem State.slot_withMe_cur (s : State) (t : Slot) : (s.withMe t).slot s.cur = t := NMap.get_set_self _ _ _ _
@[simp] theorem State.core_withMe (s : State) (t : Slot) (c : Nat) : (s.withMe t).core c = s.core c := rfl
@[simp] theorem State.quad_withMe (s : State) (t : Slot) (c : Nat) : (s.withMe t).quad c = s.quad c := rfl
@[simp] theorem State.die_withMe (s : State) (t : Slot) (c : Nat) : (s.withMe t).die c = s.die c := rfl
@[simp] theorem State.pkg_withMe (s : State) (t : Slot) (c : Nat) : (s.withMe t).pkg c = s.pkg c := rfl

theorem State.withMe_modSlot (s : State) (t : Slot) (f : Slot → Slot) : (s.withMe t).modSlot s.cur f = s.withMe (f t) := State.withMe_modMe s t f

@[simp] theorem State.slot_inOrder (s : State) (d : OpKind) (k id j : Nat) : (s.inOrder d k id).slot j = s.slot j := by cases d <;> rfl

/-- Only a full/empty operation takes a place in its quad's order of issue (R295). -/
theorem State.inOrder_of_not_fe (s : State) (d : OpKind) (k id : Nat) (h : ∀ fn, d ≠ .fe fn) : s.inOrder d k id = s := by
  cases d with
  | fe fn => exact absurd rfl (h fn)
  | _ => rfl

/-- A stream operation with nothing outstanding before it issues and begins at once (R182, R185, R186). -/
theorem State.issueOp_fresh (s : State) (i : Instr) (x : Issue) (h : s.me.ops = []) :
    s.issueOp i x = (((s.withMe (s.me.issueOp i x)).inOrder x.kind s.cur s.me.opId).beginKind s.cur (s.me.newOp i x)).syncPair (coreOf s.cur) := by
  unfold State.issueOp
  rw [Slot.hasRoom_fresh _ _ h]
  simp only [Bool.not_true, Bool.false_eq_true, if_false]
  unfold State.beginOp
  rw [State.modMe_eq_withMe]
  have hs : ((s.withMe (s.me.issueOp i x)).inOrder x.kind s.cur s.me.opId).slot s.cur = s.me.issueOp i x := by
    rw [State.slot_inOrder, State.slot_withMe_cur]
  rw [hs, Slot.op_issueOp _ _ _ h]
  have hp : (s.me.newOp i x).phase = .held := rfl
  have hm := Slot.maskMet_issueOp s.me i x h
  have he := Slot.earlier_issueOp s.me i x h
  have hbp : ∀ a, (s.me.issueOp i x).behindParked s.me.opId a = false := fun a => by simp [Slot.behindParked, he]
  have hpf : ((s.withMe (s.me.issueOp i x)).inOrder x.kind s.cur s.me.opId).partsFree s.cur (s.me.newOp i x) = true := by
    unfold State.partsFree
    rw [List.all_eq_true]
    intro p _
    have hid : (s.me.newOp i x).id = s.me.opId := rfl
    rw [hs, hid, he]
    rfl
  simp only [hp, hm, hbp, hpf, ne_eq, not_true_eq_false, or_self, if_false, Bool.and_false, Bool.false_eq_true, Bool.not_true]

/-- The thread after it has taken a number of a stream (R182). -/
theorem Slot.issueOp_free (t : Slot) (i : Instr) (x : Issue) (hl : ilen i = 4) (hh : x.held = false) :
    t.issueOp i x = { ((t.mark x.dest true).markF x.flag true).advance 4 with
      ops := t.ops ++ [t.newOp i x], opId := t.opId + 1,
      streams := t.streams.set x.st.toNat { t.stream x.st.toNat with next := (t.stream x.st.toNat).next + 1 } } := by
  unfold Slot.issueOp
  simp only [hh, hl, Bool.false_eq_true, if_false]
  cases x.dest <;> cases x.flag <;> rfl

theorem Slot.issueOp_held (t : Slot) (i : Instr) (x : Issue) (hh : x.held = true) :
    t.issueOp i x = { (t.mark x.dest true).markF x.flag true with
      ops := t.ops ++ [t.newOp i x], opId := t.opId + 1,
      streams := t.streams.set x.st.toNat { t.stream x.st.toNat with next := (t.stream x.st.toNat).next + 1 },
      st := .wait, hold := if x.byReply then .reply t.opId else .localOp t.opId, issued := t.issued + 1, waited := 0 } := by
  unfold Slot.issueOp
  simp only [hh, if_true]
  cases x.dest <;> cases x.flag <;> rfl

/-- A thread of a core without lock-step stands alone (R143). -/
theorem State.twins_withMe (s : State) (t : Slot) (hl : (s.core (coreOf s.cur)).crew.bind.lockstep = false) : (s.withMe t).twins s.cur = [s.cur] := by
  unfold State.twins
  simp only [State.core_withMe, hl, Bool.false_and, Bool.false_eq_true, if_false]

/-- Where no trap frame stands, nothing completes into one (R137). -/
theorem Slot.intoFrame_free (t u : Slot) (hf : t.framed = false) : t.intoFrame u = u := by simp [Slot.intoFrame, hf]

/-- What a slot's operation with a result leaves (R115, R182). -/
theorem Slot.performed_reply (t : Slot) (o : Op) (r : Reply) (hf : t.framed = false) (ho : t.op o.id = some o) (ha : o.kind.atReply = false)
    (hd : ¬(o.dest = .none ∧ o.flag = none ∧ r.fsf = 0)) :
    t.performed o r = { t.dropOp o.id with replies := t.replies ++ [{ r with dest := o.dest, wakes := some o.id }] } := by
  unfold Slot.performed
  simp only [ho, Option.isNone_some, Bool.false_eq_true, if_false, hd, ha, Slot.intoFrame_free _ _ hf]

theorem Slot.performed_none (t : Slot) (o : Op) (r : Reply) (hf : t.framed = false) (ho : t.op o.id = some o) (hd : o.dest = .none ∧ o.flag = none ∧ r.fsf = 0) :
    t.performed o r = (t.dropOp o.id).wake o.id := by
  unfold Slot.performed
  simp only [ho, Option.isNone_some, Bool.false_eq_true, if_false, hd, and_self, if_true, Slot.intoFrame_free _ _ hf]

/-- An operation with a result has performed, of a kind that does not wait for its reply: it stands no more among the thread's, its reply is on its way (R115, R182). -/
theorem State.performed_reply (s : State) (t : Slot) (o : Op) (r : Reply) (hl : (s.core (coreOf s.cur)).crew.bind.lockstep = false)
    (hf : t.framed = false) (ho : t.op o.id = some o) (ha : o.kind.atReply = false) (hd : ¬(o.dest = .none ∧ o.flag = none ∧ r.fsf = 0)) :
    (s.withMe t).performed s.cur o r = s.withMe { t.dropOp o.id with replies := t.replies ++ [{ r with dest := o.dest, wakes := some o.id }] } := by
  unfold State.performed
  rw [State.twins_withMe _ _ hl, List.foldl_cons, List.foldl_nil, State.withMe_modSlot, Slot.performed_reply _ _ _ hf ho ha hd]

/-- An operation without a result has performed: its thread goes on where it was held (R114). -/
theorem State.performed_none (s : State) (t : Slot) (o : Op) (r : Reply) (hl : (s.core (coreOf s.cur)).crew.bind.lockstep = false)
    (hf : t.framed = false) (ho : t.op o.id = some o) (hd : o.dest = .none ∧ o.flag = none ∧ r.fsf = 0) :
    (s.withMe t).performed s.cur o r = s.withMe ((t.dropOp o.id).wake o.id) := by
  unfold State.performed
  rw [State.twins_withMe _ _ hl, List.foldl_cons, List.foldl_nil, State.withMe_modSlot, Slot.performed_none _ _ _ hf ho hd]

/-- A local stash address has bit 63 set (R147). -/
theorem localPlace_stash {c c' off : Nat} {va : Word} (h : localPlace c va = .stash c' off) : va.getLsbD 63 = true := by
  cases hb : va.getLsbD 63 with
  | true => rfl
  | false =>
  exfalso
  have hb' : va.toNat < 2 ^ 63 := by
    rw [BitVec.getLsbD, Nat.testBit_eq_decide_div_mod_eq, decide_eq_false_iff_not] at hb
    have := va.isLt
    omega
  have ho : (va - 0x8000_0000_0000_0000).toNat = va.toNat + 2 ^ 63 := by
    rw [BitVec.toNat_sub]
    have : (0x8000_0000_0000_0000 : Word).toNat = 2 ^ 63 := by decide
    rw [this]
    omega
  unfold localPlace at h
  simp only [ho] at h
  rw [if_neg (by omega), if_neg (by omega), if_neg (by omega)] at h
  cases h

/-- One byte range of an operation that stands alone. -/
theorem State.modPart_one (s : State) (t : Slot) (o : Op) (p : Part) (f : Part → Part) (ho : t.ops = [o]) (hp : o.parts = [p]) :
    (s.withMe t).modPart s.cur o.id p.lane f = s.withMe { t with ops := [{ o with parts := [f p] }] } := by
  unfold State.modPart
  rw [State.withMe_modSlot]
  simp [Slot.modOp, ho, hp]

theorem Slot.op_one (t : Slot) (o : Op) (ho : t.ops = [o]) : t.op o.id = some o := by simp [Slot.op, ho]

/-- Its only byte range has performed with a value: the operation performs (R189). -/
theorem State.partDone_one (s : State) (t : Slot) (o : Op) (p : Part) (v : Word) (ho : t.ops = [o]) (hp : o.parts = [p]) :
    (s.withMe t).partDone s.cur o.id p.lane v =
      (s.withMe { t with ops := [{ o with parts := [{ p with phase := .done, value := v }] }] }).settleParts s.cur o.id := by
  unfold State.partDone
  rw [State.modPart_one s t o p _ ho hp]

/-- An operation of one byte range starts at once where nothing is outstanding before it (R185, R186). -/
theorem State.startParts_one (s : State) (t : Slot) (o : Op) (p : Part) (ho : t.ops = [o]) (hp : o.parts = [p]) (hh : p.phase = .held) :
    (s.withMe t).startParts s.cur o.id = (s.withMe t).startPart s.cur o.id p.lane := by
  unfold State.startParts
  have h1 := Slot.op_one t o ho
  have he : t.earlier o.id = [] := by simp [Slot.earlier, ho]
  have hq : (Phase.held == Phase.held) = true := by decide
  simp only [State.slot_withMe_cur, h1, hp, List.filter_cons, hh, hq, List.filter_nil, List.foldl_nil,
    he, State.clashes, List.any_nil, Bool.not_false, Bool.and_self, if_true, List.foldl_cons]

/-- At a stash word of a plain region the access is performed in that step (R147, R158). -/
theorem State.startPart_stash (s : State) (t : Slot) (o : Op) (p : Part) (c off : Nat) (ho : t.ops = [o]) (hp : o.parts = [p])
    (hl : localPlace (coreOf s.cur) p.va = .stash c off) (hb : s.boundHere c off = none) :
    (s.withMe t).startPart s.cur o.id p.lane = (s.withMe t).stashPerform s.cur o p c off := by
  have h1 := Slot.op_one t o ho
  have h63 := localPlace_stash hl
  have hb' : (s.withMe t).boundHere c off = none := hb
  have hr : (s.withMe t).stashReady c off p.size = true := by unfold State.stashReady; rw [hb']
  have ho : (s.withMe t).ownerless c off = none := by unfold State.ownerless; rw [hb']
  unfold State.startPart
  simp only [State.slot_withMe_cur, h1, hp, List.find?_cons, beq_self_eq_true, h63, if_true, hl, hb', hr, ho, Bool.not_true, Bool.false_eq_true, if_false, ite_self]

end Sys2Proof.Machine
end

