-- ==== Sys2Proof/Laws/Stash.lean ====
section
/-!
SUPPORT. Laws/Stash.lean: what a scalar access to a plain stash word does once it has issued with nothing outstanding before it (R147, R182, R291, R294, R297).
-/
namespace Sys2Proof.Machine

/-- A scalar destination is none exactly where its code is a g register (R235). -/
theorem destOf_none (s : Slot) (t : BitVec 5) : (s.destOf t = Dest.none) = (t.toNat < 8) := by
  unfold Slot.destOf
  split <;> simp_all

theorem access_ok {s : State} {i : Instr} {regs : List (BitVec 5)} {flags : List (BitVec 3)} {va : State → Word} {n : Nat} {ch wr home : Bool} {x : State → Issue}
    {c off : Nat} (hw : wellFormed i = true) (hb : s.me.busy { regs := regs, flags := flags } = false) (hf : s.fresh) (hs : s.atStash (va s) n c off) :
    s.access i regs flags va n ch wr home x = .next (s.issueOp i (x s)) := by
  obtain ⟨h1, h2, h3, h4⟩ := hs
  unfold State.access State.streamOp
  rw [issue_ok hw hb]
  have hq : s.me.replayQueue = [] := by simp [Slot.replayQueue, hf.1]
  have ht : accessTraps (va s) n ch s = none := by
    unfold accessTraps State.localTrap
    rw [h1]
    simp [h2]
  simp only [ht, hq]
  rfl


/-- The thread of a stream operation that has issued and performed at once. -/
theorem took_eq {b : State} {i : Instr} {x : Issue} (ho : b.me.ops = []) (hl : ilen i = 4) (hh : x.held = false) :
    ({ b.me.issueOp i x with ops := [] } : Slot) = (((b.me.took x.st).mark x.dest true).markF x.flag true).advance 4 := by
  rw [Slot.issueOp_free _ _ _ hl hh]
  obtain ⟨dest, flag⟩ : True ∧ True := ⟨trivial, trivial⟩
  show _ = { (((b.me.took x.st).mark x.dest true).markF x.flag true).advance 4 with ops := (((b.me.took x.st).mark x.dest true).markF x.flag true).ops }
  have : (((b.me.took x.st).mark x.dest true).markF x.flag true).ops = [] := by
    rw [← ho]; cases x.dest <;> cases x.flag <;> rfl
  rw [this]
  cases x.dest <;> cases x.flag <;> rfl

theorem free_result {b : State} {i : Instr} {x : Issue} {o : Op} {r : Reply} (ho : b.me.ops = []) (hl : ilen i = 4) (hh : x.held = false)
    (hk : (b.core b.myCore).crew.bind.lockstep = false) (hid : o.id = b.me.opId) (hd : o.dest = x.dest) (hg : o.flag = x.flag) (ha : o.kind.atReply = false) :
    (b.withMe { b.me.issueOp i x with ops := [o] }).performed b.cur o r =
      b.withMe { (((b.me.took x.st).mark x.dest true).markF x.flag true).advance 4 with
        replies := b.me.replies ++ (if x.dest = .none ∧ x.flag = none ∧ r.fsf = 0 then [] else [{ r with dest := x.dest, wakes := some b.me.opId }]) } := by
  have hop : ({ b.me.issueOp i x with ops := [o] } : Slot).op o.id = some o := Slot.op_one _ _ rfl
  have hfr : ({ b.me.issueOp i x with ops := [o] } : Slot).framed = false := by
    rw [Slot.issueOp_free _ _ _ hl hh]; rfl
  have hdr : ({ b.me.issueOp i x with ops := [o] } : Slot).dropOp o.id = (((b.me.took x.st).mark x.dest true).markF x.flag true).advance 4 := by
    rw [← took_eq ho hl hh]
    simp [Slot.dropOp]
  have hrep : (b.me.issueOp i x).replies = b.me.replies := by
    rw [Slot.issueOp_free _ _ _ hl hh]
    cases x.dest <;> cases x.flag <;> rfl
  by_cases hn : o.dest = .none ∧ o.flag = none ∧ r.fsf = 0
  · rw [State.performed_none _ _ _ _ hk hfr hop hn, hdr, if_pos (by rw [← hd, ← hg]; exact hn), List.append_nil]
    congr 1
    have : b.me.replies = ((((b.me.took x.st).mark x.dest true).markF x.flag true).advance 4).replies := by
      cases x.dest <;> cases x.flag <;> rfl
    rw [this]
    rfl
  · rw [State.performed_reply _ _ _ _ hk hfr hop ha hn, hdr, if_neg (by rw [← hd, ← hg]; exact hn), hd, hid]
    rw [← hrep]

theorem syncPair_off (s : State) (t : Slot) (hk : (s.core s.myCore).crew.bind.lockstep = false) : (s.withMe t).syncPair (coreOf s.cur) = s.withMe t := by
  unfold State.syncPair
  have : (s.core (coreOf s.cur)).crew.bind.lockstep = false := hk
  simp only [State.core_withMe, this]
  rfl

/-- An operation of one byte range in a stash, once its access is done. -/
theorem stash_begun {s : State} {i : Instr} {x : Issue} {p : Part} {c off : Nat} (hf : s.fresh) (hp : x.parts = [p]) (hph : p.phase = .held)
    (hpl : localPlace s.myCore p.va = .stash c off) (hb : s.boundHere c off = none) (hst : (s.me.newOp i x).kind.byParts = true) (hnv : ∀ d, x.kind ≠ .vld d)
    (hnf : ∀ fn, x.kind ≠ .fe fn) :
    s.issueOp i x = ((s.withMe (s.me.issueOp i x)).stashPerform s.cur (s.me.newOp i x) p c off).syncPair (coreOf s.cur) := by
  rw [State.issueOp_fresh _ _ _ hf.1, State.inOrder_of_not_fe _ _ _ _ hnf]
  have huo : (s.me.issueOp i x).ops = [s.me.newOp i x] := Slot.issueOp_ops _ _ _ hf.1
  have hpart : (s.me.newOp i x).parts = [p] := hp
  have e1 : (s.withMe (s.me.issueOp i x)).beginKind s.cur (s.me.newOp i x) = (s.withMe (s.me.issueOp i x)).startParts s.cur (s.me.newOp i x).id := by
    have hk : (s.me.newOp i x).kind = x.kind := rfl
    rw [hk] at hst
    unfold State.beginKind; rw [hk]
    cases hx : x.kind <;> first | rfl | exact absurd hx (hnv _) | (rw [hx] at hst; exact absurd hst (by simp [OpKind.byParts]))
  rw [e1, State.startParts_one s _ _ p huo hpart hph, State.startPart_stash s _ _ p c off huo hpart hpl hb]

/-- The only operation of a thread, its only byte range done, performs with its answer (R189). -/
theorem settle_one (s : State) (t : Slot) (o : Op) (p : Part) (ho : t.ops = [o]) (hp : o.parts = [p]) (hd : p.phase = .done) (hv : o.kind ≠ .vld true)
    (hl : (s.core (coreOf s.cur)).crew.bind.lockstep = false) : (s.withMe t).settleParts s.cur o.id = (s.withMe t).performed s.cur o o.reply := by
  have hall : o.allDone = true := by simp [Op.allDone, hp, hd]
  have hres : o.reserved = false := by simp [Op.reserved, hv]
  unfold State.settleParts State.performed
  rw [State.slot_withMe_cur, Slot.op_one _ _ ho, State.twins_withMe _ _ hl]
  simp only [hall, hres, if_true, Bool.false_eq_true, if_false, List.foldl_cons, List.foldl_nil, Slot.performedAs, State.withMe_modSlot, Slot.op_one _ _ ho]

theorem settle_load (s : State) (t : Slot) (o : Op) (p : Part) (n : Nat) (sg : Bool) (ho : t.ops = [o]) (hp : o.parts = [p]) (hd : p.phase = .done)
    (hk : o.kind = .load n sg) (hl : (s.core (coreOf s.cur)).crew.bind.lockstep = false) : (s.withMe t).settleParts s.cur o.id =
      (s.withMe t).performed s.cur o { value := (if p.value = poisonWord then p.value else loadValue n sg p.value).setWidth 512 } := by
  rw [settle_one s t o p ho hp hd (by rw [hk]; simp) hl]
  simp only [Op.reply, hk, firstValue, hp]

theorem noteWriter_plain {s : State} {c off : Nat} (k n : Nat) (h : s.boundHere c off = none) : s.noteWriter k c off n = s := by
  unfold State.noteWriter; rw [h]

/-- An access at a sound word of a plain region: what it gives is noted in its operation, whose byte range is done (R147). -/
theorem stashApply_plain {s s' : State} {t : Slot} {o : Op} {p : Part} {c off : Nat} {w : Word} {full : Bool} (hpo : s.stashPoisoned c off p.size = false)
    (hb : s.boundHere c off = none) (hl : (s.core (coreOf s.cur)).crew.bind.lockstep = false) (ha : (s.withMe t).stashAccess o p c off = some (s', w, full)) :
    (s.withMe t).stashApply s.cur o p c off = (s'.stashNote s.cur o w full).partDone s.cur o.id p.lane w := by
  have hpo' : (s.withMe t).stashPoisoned c off p.size = false := hpo
  have hb' : (s.withMe t).boundHere c off = none := hb
  have ht : ¬((s.withMe t).twins s.cur = [s.cur, s.cur + 8] ∧ c = coreOf s.cur) := by rw [State.twins_withMe _ _ hl]; simp
  unfold State.stashApply
  simp only [hpo', hb', noteWriter_plain _ _ hb', ite_self, ha, Bool.false_and, Bool.false_eq_true, if_false]
  rw [if_neg ht]
  split <;> simp_all

theorem stashApply_load (s : State) (t : Slot) (o : Op) (p : Part) (c off : Nat) (n : Nat) (sg : Bool) (ho : t.ops = [o])
    (hk : o.kind = .load n sg) (hpo : s.stashPoisoned c off p.size = false) (hb : s.boundHere c off = none)
    (hl : (s.core (coreOf s.cur)).crew.bind.lockstep = false) :
    (s.withMe t).stashApply s.cur o p c off = (s.withMe t).partDone s.cur o.id p.lane (zx (s.stashRead c off n)) := by
  rw [stashApply_plain (w := zx (s.stashRead c off n)) (full := false) hpo hb hl (by simp only [State.stashAccess, hk]; rfl)]
  have hsame : (s.withMe t).stashNote s.cur o (zx (s.stashRead c off n)) false = s.withMe t := by
    unfold State.stashNote
    rw [State.withMe_modSlot]
    congr 1
    cases o
    simp only at hk
    subst hk
    simp [Slot.modOp, ho]
    rw [← ho]
  exact congrArg (fun q => State.partDone q s.cur o.id p.lane (zx (s.stashRead c off n))) hsame

theorem load_stash {s : State} {i : Instr} {t a : BitVec 5} {st : BitVec 2} {p : BitVec 4} {o : BitVec 9} {n : Nat} {sg : Bool} {c off : Nat}
    (he : exec i s = s.loadInsn i t a st p o n sg) (hl : ilen i = 4)
    (hw : wellFormed i = true) (hb : s.me.busy { regs := [t, a] } = false) (hf : s.fresh) (hs : s.atStash (s.ea a o n) n c off) :
    exec i s = .next (s.withMe { ((s.me.took st).mark (s.me.destOf t) true).advance 4 with
      replies := s.me.replies ++ replyFor s.me t (if zx (s.stashRead c off n) = poisonWord then zx (s.stashRead c off n) else loadValue n sg (zx (s.stashRead c off n))) none 0 }) := by
  rw [he, State.loadInsn, access_ok (regs := [t, a]) (flags := []) (va := fun s => s.ea a o n) hw hb hf hs]
  congr 1
  obtain ⟨h1, h2, h3, h4⟩ := hs
  generalize hx : ({ kind := .load n sg, st := st, pm := p, a := s.ea a o n, dest := s.me.destOf t, parts := [{ va := s.ea a o n, size := n }] } : Issue) = x
  have hxk : x.kind = .load n sg := by rw [← hx]
  have hxd : x.dest = s.me.destOf t := by rw [← hx]
  have hxf : x.flag = none := by rw [← hx]
  have hxs : x.st = st := by rw [← hx]
  have hxh : x.held = false := by rw [← hx]
  have hxp : x.parts = [{ va := s.ea a o n, size := n }] := by rw [← hx]
  clear hx
  have hbp : (s.me.newOp i x).kind.byParts = true := by show x.kind.byParts = true; rw [hxk]; rfl
  have hnv : ∀ d, x.kind ≠ .vld d := by rw [hxk]; simp
  have hnf : ∀ fn, x.kind ≠ .fe fn := by rw [hxk]; simp
  rw [stash_begun (p := { va := s.ea a o n, size := n }) hf hxp rfl h1 h3 hbp hnv hnf]
  have huo : (s.me.issueOp i x).ops = [s.me.newOp i x] := Slot.issueOp_ops _ _ _ hf.1
  have happ : (s.withMe (s.me.issueOp i x)).stashApply s.cur (s.me.newOp i x) { va := s.ea a o n, size := n } c off =
      s.withMe { ((s.me.took st).mark (s.me.destOf t) true).advance 4 with
        replies := s.me.replies ++ replyFor s.me t (if zx (s.stashRead c off n) = poisonWord then zx (s.stashRead c off n) else loadValue n sg (zx (s.stashRead c off n))) none 0 } := by
    rw [stashApply_load s _ _ _ c off n sg huo hxk h4 h3 hf.2, State.partDone_one s _ _ _ _ huo hxp]
    generalize hv : zx (s.stashRead c off n) = v
    have e1 := settle_load s { s.me.issueOp i x with ops := [{ s.me.newOp i x with parts := [{ va := s.ea a o n, size := n, phase := .done, value := v }] }] }
      { s.me.newOp i x with parts := [{ va := s.ea a o n, size := n, phase := .done, value := v }] } _ n sg rfl rfl rfl hxk hf.2
    refine Eq.trans e1 ?_
    refine Eq.trans (free_result hf.1 hl hxh hf.2 rfl rfl rfl (by show OpKind.atReply x.kind = false; rw [hxk]; rfl)) ?_
    rw [hxd, hxf, hxs]
    congr 2
    unfold replyFor
    simp only [destOf_none]
    rfl
  unfold State.stashPerform
  rw [happ]
  exact (congrArg (fun q => State.syncPair q (coreOf s.cur)) (if_pos rfl)).trans (syncPair_off _ _ hf.2)

theorem zx_ne_poison {n : Nat} (v : BitVec (8 * n)) (h : n < 8) : zx v ≠ poisonWord := by
  intro e
  have : (zx v).toNat < 2 ^ 56 := by
    unfold zx
    rw [BitVec.toNat_setWidth]
    have h2 := v.isLt
    have h3 : (2:Nat) ^ (8 * n) ≤ 2 ^ 56 := Nat.pow_le_pow_right (by decide) (by omega)
    have := Nat.mod_le v.toNat (2 ^ 64)
    omega
  rw [e] at this
  exact absurd this (by decide)

theorem load_value {n : Nat} (sg : Bool) (v : BitVec (8 * n)) (hn : n ≤ 8) : (if zx v = poisonWord then zx v else loadValue n sg (zx v)) = if sg then sx v else zx v := by
  have hv : (zx v).setWidth (8 * n) = v := by
    unfold zx
    rw [BitVec.setWidth_setWidth_of_le _ (by omega), BitVec.setWidth_eq]
  split
  · rename_i h
    have : n = 8 := by
      rcases Nat.lt_or_eq_of_le hn with hl | he
      · exact absurd h (zx_ne_poison v hl)
      · exact he
    subst this
    cases sg
    · rfl
    · simp [zx, sx]
  · unfold loadValue
    rw [hv]


theorem stashDirty_plain {s : State} {c off : Nat} (n : Nat) (h : s.boundHere c off = none) : s.stashDirty c off n = s := by
  unfold State.stashDirty; rw [h]

theorem put_false_of_not_mem (s : NSet) (k : Nat) (h : s.mem k = false) : s.put k false = s := by
  unfold NSet.put
  simp only [Bool.false_eq_true, if_false, NSet.remove]
  rw [List.filter_eq_self]
  intro x hx
  have : x ≠ k := by
    rintro rfl
    have : NSet.mem s x = true := by simpa [NSet.mem] using hx
    rw [h] at this; cases this
  simpa using this

theorem stashCure_clean {s : State} {c off n : Nat} (h : s.stashPoisoned c off n = false) (ha : off % 8 + n ≤ 8) : s.stashCure c off n = s := by
  unfold State.stashCure
  split
  · rfl
  · rename_i hne
    rcases Nat.lt_or_ge n 8 with hn | hn
    · have : n / 8 = 0 := by omega
      rw [this]; rfl
    · have hn8 : n = 8 := by omega
      have ho : off % 8 = 0 := by omega
      subst hn8
      unfold State.stashPoisoned at h
      simp only [Bool.and_eq_false_iff] at h
      have hm : s.stashPoison.mem (stashKey c off) = false := by
        rcases h with h | h
        · simp [bne, hne] at h
        · rw [List.any_eq_false] at h
          have := h 0 (by simp [ho])
          rw [show off / 8 * 8 + 8 * 0 = off by omega] at this
          simpa using this
      show List.foldl _ s [0] = s
      simp only [List.foldl_cons, List.foldl_nil]
      rw [show (off + 7) / 8 * 8 + 8 * 0 = off by omega, if_pos (by omega)]
      unfold State.setStashPoison
      rw [show off / 8 * 8 = off by omega, put_false_of_not_mem _ _ hm]

theorem off_aligned {c' c off n : Nat} {va : Word} (h : localPlace c' va = .stash c off) (hn : n = 1 ∨ n = 2 ∨ n = 4 ∨ n = 8) (ha : va.toNat % n = 0) : off % 8 + n ≤ 8 ∧ off % n = 0 := by
  have h63 := localPlace_stash h
  have hb : 2 ^ 63 ≤ va.toNat := by
    rw [BitVec.getLsbD, Nat.testBit_eq_decide_div_mod_eq, decide_eq_true_eq] at h63
    have := va.isLt
    omega
  have ho : (va - 0x8000_0000_0000_0000).toNat = va.toNat - 2 ^ 63 := by
    rw [BitVec.toNat_sub]
    have : (0x8000_0000_0000_0000 : Word).toNat = 2 ^ 63 := by decide
    have := va.isLt
    omega
  have : off % n = 0 := by
    unfold localPlace at h
    simp only [ho] at h
    split at h
    · simp only [LocalPlace.stash.injEq] at h
      obtain ⟨h1, h2⟩ := h
      rcases hn with rfl | rfl | rfl | rfl <;> omega
    · split at h
      · simp only [LocalPlace.stash.injEq] at h
        obtain ⟨h1, h2⟩ := h
        rcases hn with rfl | rfl | rfl | rfl <;> omega
      · split at h <;> cases h
  refine ⟨?_, this⟩
  rcases hn with rfl | rfl | rfl | rfl <;> omega

/-- What an access leaves at the stash, from what it leaves in its bytes and bits. -/
theorem stash_change {s : State} {c off n : Nat} {v : BitVec (8 * n)} {full : Bool} {me : Slot} {S : Cells} {E : NSet}
    (h1 : s.stash.wf = true → S.readN (stashKey c off) n = v) (h2 : ∀ k, k < stashKey c off ∨ stashKey c off + n ≤ k → S.read k = s.stash.read k)
    (h3 : (!E.mem (stashKey c (off / 8 * 8))) = full) (h4 : ∀ k, k ≠ stashKey c (off / 8 * 8) → E.mem k = s.stashEmpty.mem k) :
    StashChange s (({ s with stash := S, stashEmpty := E } : State).withMe me) c off n v full me := by
  refine ⟨fun h => h1 ?_, h2, h3, h4, rfl, rfl⟩
  simp only [State.memoryOk, Bool.and_eq_true] at h
  exact h.1.1.1.1.2

theorem stash_written {s : State} {c off n w : Nat} (x : BitVec w) (me : Slot) :
    StashChange s (({ s with stash := s.stash.writeN (stashKey c off) n x } : State).withMe me) c off n (x.setWidth (8 * n)) (s.stashFull c off) me :=
  stash_change (fun h => Cells.readN_writeN _ _ _ h) (fun _ h => Cells.read_writeN_out _ _ _ _ _ h) rfl (fun _ _ => rfl)

theorem settle_store (s : State) (t : Slot) (o : Op) (p : Part) (n : Nat) (ho : t.ops = [o]) (hp : o.parts = [p]) (hd : p.phase = .done)
    (hk : o.kind = .store n) (hl : (s.core (coreOf s.cur)).crew.bind.lockstep = false) : (s.withMe t).settleParts s.cur o.id = (s.withMe t).performed s.cur o {} := by
  rw [settle_one s t o p ho hp hd (by rw [hk]; simp) hl]
  simp only [Op.reply, hk]

/-- The operation of one access unchanged by its outcome. -/
theorem noted_same (s : State) (t : Slot) (o : Op) (b : Word) (v : BitVec 512) (ho : t.ops = [o]) (hb : o.b = b) (hv : o.vec = v) :
    ((s.withMe t).modSlot s.cur fun t => t.modOp o.id fun o' => { o' with b := b, vec := v }) = s.withMe t := by
  subst hb hv
  rw [State.withMe_modSlot]
  congr 1
  simp [Slot.modOp, ho]
  rw [← ho]

theorem stashApply_store (s : State) (t : Slot) (o : Op) (p : Part) (c off n : Nat) (ho : t.ops = [o]) (hk : o.kind = .store n) (hn : p.size = n)
    (hpo : s.stashPoisoned c off n = false) (hb : s.boundHere c off = none) (ha : off % 8 + n ≤ 8) (hl : (s.core (coreOf s.cur)).crew.bind.lockstep = false) :
    (s.withMe t).stashApply s.cur o p c off = (({ s with stash := s.stash.writeN (stashKey c off) n o.t } : State).withMe t).partDone s.cur o.id p.lane 0 := by
  have hb' : (s.withMe t).boundHere c off = none := hb
  have hpo2 : ((s.withMe t).stashWrite c off n o.t).stashPoisoned c off n = false := hpo
  rw [stashApply_plain (s' := (s.withMe t).stashWrite c off n o.t) (w := 0) (full := false) (by rw [hn]; exact hpo) hb hl
    (by simp only [State.stashAccess, hk, stashDirty_plain n hb', stashCure_clean hpo2 ha])]
  refine congrArg (fun q => State.partDone q s.cur o.id p.lane 0) ?_
  unfold State.stashNote
  have := noted_same ({ s with stash := s.stash.writeN (stashKey c off) n o.t } : State) t o o.b o.vec ho rfl rfl
  refine Eq.trans ?_ this
  show State.modSlot _ _ _ = State.modSlot _ _ _
  unfold State.modSlot
  congr 2
  simp [Slot.modOp, ho, hk]

theorem store_stash {s : State} {i : Instr} {t a : BitVec 5} {st : BitVec 2} {p : BitVec 4} {o : BitVec 9} {n : Nat} {c off : Nat}
    (he : exec i s = s.storeInsn i t a st p o n) (hl : ilen i = 4) (hn : n = 1 ∨ n = 2 ∨ n = 4 ∨ n = 8)
    (hw : wellFormed i = true) (hb : s.me.busy { regs := [t, a] } = false) (hf : s.fresh) (hs : s.atStash (s.ea a o n) n c off) :
    exec i s = .next (({ s with stash := s.stash.writeN (stashKey c off) n (s.rd t) } : State).withMe ((s.me.took st).advance 4)) := by
  rw [he, State.storeInsn, access_ok (regs := [t, a]) (flags := []) (va := fun s => s.ea a o n) hw hb hf hs]
  congr 1
  obtain ⟨h1, h2, h3, h4⟩ := hs
  generalize hx : ({ kind := .store n, st := st, pm := p, a := s.ea a o n, t := s.rd t, parts := [{ va := s.ea a o n, size := n }] } : Issue) = x
  have hxk : x.kind = .store n := by rw [← hx]
  have hxd : x.dest = .none := by rw [← hx]
  have hxf : x.flag = none := by rw [← hx]
  have hxs : x.st = st := by rw [← hx]
  have hxt : x.t = s.rd t := by rw [← hx]
  have hxh : x.held = false := by rw [← hx]
  have hxp : x.parts = [{ va := s.ea a o n, size := n }] := by rw [← hx]
  clear hx
  have hbp : (s.me.newOp i x).kind.byParts = true := by show x.kind.byParts = true; rw [hxk]; rfl
  have hnv : ∀ d, x.kind ≠ .vld d := by rw [hxk]; simp
  have hnf : ∀ fn, x.kind ≠ .fe fn := by rw [hxk]; simp
  rw [stash_begun (p := { va := s.ea a o n, size := n }) hf hxp rfl h1 h3 hbp hnv hnf]
  have huo : (s.me.issueOp i x).ops = [s.me.newOp i x] := Slot.issueOp_ops _ _ _ hf.1
  have ha := (off_aligned h1 hn h2).1
  have happ : (s.withMe (s.me.issueOp i x)).stashApply s.cur (s.me.newOp i x) { va := s.ea a o n, size := n } c off =
      ({ s with stash := s.stash.writeN (stashKey c off) n (s.rd t) } : State).withMe ((s.me.took st).advance 4) := by
    rw [stashApply_store s _ _ _ c off n huo hxk rfl h4 h3 ha hf.2]
    have ht : (s.me.newOp i x).t = s.rd t := hxt
    rw [ht]
    generalize hbs : ({ s with stash := s.stash.writeN (stashKey c off) n (s.rd t) } : State) = b
    have hcur : s.cur = b.cur := by rw [← hbs]
    have hme : s.me = b.me := by rw [← hbs]; rfl
    have hlk : (b.core b.myCore).crew.bind.lockstep = false := by rw [← hbs]; exact hf.2
    have hops : b.me.ops = [] := by rw [← hme]; exact hf.1
    rw [hme] at huo
    rw [hcur, hme]
    rw [State.partDone_one b _ _ _ _ huo hxp]
    refine Eq.trans (settle_store b { b.me.issueOp i x with ops := [{ b.me.newOp i x with parts := [{ va := s.ea a o n, size := n, phase := .done, value := 0 }] }] }
      { b.me.newOp i x with parts := [{ va := s.ea a o n, size := n, phase := .done, value := 0 }] } _ n rfl rfl rfl hxk hlk) ?_
    refine Eq.trans (free_result hops hl hxh hlk rfl rfl rfl (by show OpKind.atReply x.kind = false; rw [hxk]; rfl)) ?_
    rw [hxd, hxf, hxs]
    simp [Slot.markF, Slot.mark]
    congr 1
  unfold State.stashPerform
  rw [happ]
  exact (congrArg (fun q => State.syncPair q (coreOf s.cur)) (if_pos rfl)).trans (syncPair_off ({ s with stash := s.stash.writeN (stashKey c off) n (s.rd t) } : State) _ hf.2)

/-! ### Atomics (R296 to R298) -/

theorem bits_fsf (f : BitVec 6) : bits (f.setWidth 512) 0 6 = f := by
  apply BitVec.eq_of_getLsbD_eq; intro i hi; simp [bits, hi]; omega

theorem settle_atom (s : State) (t : Slot) (o : Op) (p : Part) (fn : Nat) (ho : t.ops = [o]) (hp : o.parts = [p]) (hd : p.phase = .done)
    (hk : o.kind = .atom fn) {f : BitVec 6} (hv : bits o.vec 0 6 = f) (hl : (s.core (coreOf s.cur)).crew.bind.lockstep = false) :
    (s.withMe t).settleParts s.cur o.id = (s.withMe t).performed s.cur o { value := p.value.setWidth 512, fsf := f } := by
  rw [settle_one s t o p ho hp hd (by rw [hk]; simp) hl]
  simp only [Op.reply, hk, hv, firstValue, hp]

theorem stashApply_atom (s : State) (t : Slot) (o : Op) (p : Part) (c off fn : Nat) (w v : Word) (f : BitVec 6) (ho : t.ops = [o]) (hk : o.kind = .atom fn) (hn : p.size = 8)
    (hpo : s.stashPoisoned c off 8 = false) (hb : s.boundHere c off = none) (hw : s.stashRead c off 8 = w) (hr : atomFn fn w o.b o.t = (v, f))
    (hl : (s.core (coreOf s.cur)).crew.bind.lockstep = false) :
    (s.withMe t).stashApply s.cur o p c off =
      (({ s with stash := s.stash.writeN (stashKey c off) 8 v } : State).withMe { t with ops := [{ o with vec := f.setWidth 512 }] }).partDone s.cur o.id p.lane w := by
  have hb' : (s.withMe t).boundHere c off = none := hb
  have hw' : (s.withMe t).stashRead c off 8 = w := hw
  rw [stashApply_plain (s' := (s.withMe t).stashWrite c off 8 v) (w := w) (full := false) (by rw [hn]; exact hpo) hb hl
    (by simp only [State.stashAccess, hk, stashDirty_plain 8 hb', hw', BitVec.setWidth_eq, hr])]
  refine congrArg (fun q => State.partDone q s.cur o.id p.lane w) ?_
  unfold State.stashNote
  simp only [hk, hr]
  have := State.withMe_modSlot ({ s with stash := s.stash.writeN (stashKey c off) 8 v } : State) t (fun t => t.modOp o.id fun o' => { o' with b := (match o'.kind with | .fe _ => zx (b1 false) | _ => o'.b), vec := (match o'.kind with | .atom _ => f.setWidth 512 | _ => o'.vec) })
  simp only [Slot.modOp, ho, List.map_cons, List.map_nil, beq_self_eq_true, if_true, hk] at this
  refine Eq.trans ?_ this
  show State.modSlot _ _ _ = State.modSlot _ _ _
  unfold State.modSlot
  congr 2

theorem atom_stash {s : State} {i : Instr} {fn : Nat} {t a b : BitVec 5} {st : BitVec 2} {p : BitVec 4} {c off : Nat} {w v : Word} {f : BitVec 6}
    (he : exec i s = s.atomInsn i fn t a st p b) (hl : ilen i = 4)
    (hw : wellFormed i = true) (hb : s.me.busy { regs := [t, a, b] } = false) (hf : s.fresh) (hs : s.atStash (s.rd a) 8 c off)
    {S : Cells} (hS : s.stash.writeN (stashKey c off) 8 v = S) (hwr : s.stashRead c off 8 = w) (hr : atomFn fn w (s.rd b) (s.rd t) = (v, f)) :
    exec i s = .next (({ s with stash := S } : State).withMe { ((s.me.took st).mark (s.me.destOf t) true).advance 4 with
        replies := s.me.replies ++ replyFor s.me t w none f }) := by
  rw [he, State.atomInsn, access_ok (regs := [t, a, b]) (flags := []) (va := fun s => s.rd a) hw hb hf hs]
  congr 1
  obtain ⟨h1, h2, h3, h4⟩ := hs
  generalize hx : ({ kind := .atom fn, st := st, pm := p, a := s.rd a, b := s.rd b, t := s.rd t, dest := s.me.destOf t, parts := [{ va := s.rd a, size := 8 }] } : Issue) = x
  have hxk : x.kind = .atom fn := by rw [← hx]
  have hxd : x.dest = s.me.destOf t := by rw [← hx]
  have hxf : x.flag = none := by rw [← hx]
  have hxs : x.st = st := by rw [← hx]
  have hxt : x.t = s.rd t := by rw [← hx]
  have hxb : x.b = s.rd b := by rw [← hx]
  have hxh : x.held = false := by rw [← hx]
  have hxp : x.parts = [{ va := s.rd a, size := 8 }] := by rw [← hx]
  clear hx
  have hbp : (s.me.newOp i x).kind.byParts = true := by show x.kind.byParts = true; rw [hxk]; rfl
  have hnv : ∀ d, x.kind ≠ .vld d := by rw [hxk]; simp
  have hnf : ∀ fn, x.kind ≠ .fe fn := by rw [hxk]; simp
  rw [stash_begun (p := { va := s.rd a, size := 8 }) hf hxp rfl h1 h3 hbp hnv hnf]
  have huo : (s.me.issueOp i x).ops = [s.me.newOp i x] := Slot.issueOp_ops _ _ _ hf.1
  have happ : (s.withMe (s.me.issueOp i x)).stashApply s.cur (s.me.newOp i x) { va := s.rd a, size := 8 } c off =
      ({ s with stash := S } : State).withMe { ((s.me.took st).mark (s.me.destOf t) true).advance 4 with
        replies := s.me.replies ++ replyFor s.me t w none f } := by
    have hr' : atomFn fn w (s.me.newOp i x).b (s.me.newOp i x).t = (v, f) := by
      show atomFn fn w x.b x.t = _
      rw [hxb, hxt, hr]
    rw [stashApply_atom s _ _ _ c off fn w v f huo hxk rfl h4 h3 hwr hr' hf.2, hS]
    generalize hbs : ({ s with stash := S } : State) = y
    have hcur : s.cur = y.cur := by rw [← hbs]
    have hme : s.me = y.me := by rw [← hbs]; rfl
    have hlk : (y.core y.myCore).crew.bind.lockstep = false := by rw [← hbs]; exact hf.2
    have hops : y.me.ops = [] := by rw [← hme]; exact hf.1
    rw [hme] at hxd
    rw [hcur, hme]
    have e0 := State.partDone_one y { y.me.issueOp i x with ops := [{ y.me.newOp i x with vec := f.setWidth 512 }] } { y.me.newOp i x with vec := f.setWidth 512 }
      { va := s.rd a, size := 8 } w rfl hxp
    refine Eq.trans e0 ?_
    refine Eq.trans (settle_atom y { y.me.issueOp i x with ops := [{ y.me.newOp i x with vec := f.setWidth 512, parts := [{ va := s.rd a, size := 8, phase := .done, value := w }] }] }
      { y.me.newOp i x with vec := f.setWidth 512, parts := [{ va := s.rd a, size := 8, phase := .done, value := w }] } _ fn rfl rfl rfl hxk (bits_fsf f) hlk) ?_
    refine Eq.trans (free_result hops hl hxh hlk rfl rfl rfl (by show OpKind.atReply x.kind = false; rw [hxk]; rfl)) ?_
    rw [hxd, hxf, hxs]
    congr 2
    unfold replyFor
    simp only [destOf_none]
    rfl
  unfold State.stashPerform
  rw [happ]
  exact (congrArg (fun q => State.syncPair q (coreOf s.cur)) (if_pos rfl)).trans (syncPair_off ({ s with stash := S } : State) _ hf.2)

theorem atom_change {s : State} {i : Instr} {fn : Nat} {t a b : BitVec 5} {st : BitVec 2} {p : BitVec 4} {c off : Nat} {v : Word} {f : BitVec 6}
    (he : exec i s = s.atomInsn i fn t a st p b) (hl : ilen i = 4)
    (hw : wellFormed i = true) (hb : s.me.busy { regs := [t, a, b] } = false) (hf : s.fresh) (hs : s.atStash (s.rd a) 8 c off)
    (hv : atomFn fn (s.stashRead c off 8) (s.rd b) (s.rd t) = (v, f)) :
    ∃ t', exec i s = .next t' ∧ StashChange s t' c off 8 v (s.stashFull c off) { ((s.me.took st).mark (s.me.destOf t) true).advance 4 with
        replies := s.me.replies ++ replyFor s.me t (s.stashRead c off 8) none f } := by
  have := atom_stash he hl hw hb hf hs rfl rfl hv
  have hc := stash_written (s := s) (c := c) (off := off) (n := 8) v { ((s.me.took st).mark (s.me.destOf t) true).advance 4 with
        replies := s.me.replies ++ replyFor s.me t (s.stashRead c off 8) none f }
  rw [BitVec.setWidth_eq] at hc
  exact ⟨_, this, hc⟩

end Sys2Proof.Machine
end

