-- ==== Sys2Proof/Tests/Slice0.lean ====
section
/-!
SUPPORT. Tests/Slice0.lean: the model's own tests: ill-formed terms refused, words decoded, small steps, and for each statement with hypotheses a state and operands that
meet all of them (theorems witness_<statement>, clause by clause).
-/
namespace Sys2Proof.Tests
open Sys2Proof Sys2Proof.Machine

set_option maxRecDepth 10000

/-- A running thread of slot 1 of core 5 (die 0, job 3, parcel 7), with given values in g8 upward. -/
def thread (l : List (Nat × Word)) : State :=
  let s := { State.reset with cur := 41 }
  let s := s.modCore 5 fun c => { c with crew := { c.crew with bind := { c.crew.bind with valid := true, job := 3, parcel := 7, live := 4 } } }
  s.modSlot 41 fun t => { t with
    st := .run, job := 3, pc := 0x1000, phys := l, par := { parcel := 7, home := 5 }, opId := 12, ssp := 0x8000_0000_0000_4000,
    streams := [(0, { scope := 2, next := 4 }), (1, { scope := 4, next := 0xFFFF })] }

/-- The same thread with other fields of its own. -/
def threadWith (f : Slot → Slot) : State := (thread []).modMe f

/-! ### Ill-formed terms, one for each check, are refused -/

theorem test_illFormed : [Instr.add 1 8 8, .mfs 7 0, .ldd 3 9 0 0 0, .sext 9 9 3, .zext 9 9 3, .fcvt 9 9 3 3, .fcvt 9 9 7 0, .loop 9 0, .loopi 3 0, .bara 0 9 0 0 0, .barw 4 9 8 0 0,
    .vadd 1 2 3 0 7, .vsra 1 2 3 0 1, .vfma 1 2 3 0 0, .vabs 1 2 0 1, .vcvt 2 2 3 0 2, .vcmp 0 0 1 2 0 2 0, .vcmp 0 3 1 2 0 1 6, .vmovShort 0 0 0, .vredadd 9 1 2 0,
    .vredmax 9 1 3 0, .kand 0 1 1, .klen 0 9, .vldx 1 9 0 0 0 0 7, .vstx 1 9 0 0 0 0 7, .powerOn].any wellFormed = false := by decide

/-! ### Words written out from the encoding tables (R234 to R251) -/

theorem test_decode_registers : [(0x4800_047F, Instr.mfs 9 1), (0x1254_1501, .cmp 0 2 9 10 2), (0x5000_0217, .bt 2 4), (0x0000_02FF, .nop), (0x4800_040D, .li 9 8),
    (0x4800_080F, .lui 9 0x10), (0x4A70_1E0B, .roli 9 9 60), (0x0006_0321, .loopi 3 6), (0x0300_011F, .loop 12 2), (0x5280_0083, .addi 10 10 1)].all
    (fun e => decodeTableWord 32 e.1 == some e.2) = true := by decide +kernel

theorem test_decode_operations : [(0x0000_015B, Instr.exit 0 0), (0x5A40_002F, .ldd 11 9 0 0 0), (0x6263_00B7, .std 12 9 2 3 1), (0x5A91_0139, .stef 11 10 1 1),
    (0x6240_6CBB, .cas 12 9 0 0 13), (0x6006_013F, .mbxr 12 3 0 0), (0x1800_10BF, .mbxwi 3 0 2), (0x6A88_0059, .tkgetInsn 13 10 4 0 0), (0x8440_03FF, .svcRsm 16 17)].all
    (fun e => decodeTableWord 32 e.1 == some e.2) = true := by decide +kernel

theorem test_decode_units : [(0x1234_80C3, Instr.vadd 1 2 3 2 2), (0x4120_8243, .vfma 4 1 2 0 2), (0x3120_9143, .vcmp 0 3 1 2 0 2 2), (0x24A2_0147, .vld 2 9 1 1 0 2),
    (0x1300_04D3, .klen 2 12), (0x2854_00D1, .vtlerp 5 1 1 2), (0x6880_0055, .mopen 13 1 0 0), (0x6100_00D5, .mma 12 2 0 0), (0x7244_03D5, .mread 14 4 2 2)].all
    (fun e => decodeTableWord 32 e.1 == some e.2) = true := by decide +kernel

theorem test_decode_short : decodeTableWord 16 0x4622 = some (.vaddF32Short 2 3 1) := by decide +kernel

/-! ### Witnesses: states and operands that meet the hypotheses, clause by clause -/

theorem witness_IntegerResults : (okD 0 && okD 8 && okD 31) = true ∧ (thread []).me.busy { regs := [0, 8, 31] } = false := by decide

theorem witness_DivisionReplies : okD 9 = true ∧ (thread []).me.busy { regs := [9, 8, 0] } = false ∧ (thread [(0, 7)]).rd 0 = 0 ∧ (thread [(0, 7)]).rd 8 ≠ 0 := by decide

theorem witness_CompareAndSelect : (thread [(0, 5)]).me.busy { regs := [8, 0], flags := [7] } = false ∧ holds 3 ((thread [(0, 5)]).rd 8) ((thread []).rd 0) ∧
    ¬holds 4 ((thread [(0, 5)]).rd 8) ((0xFFF : BitVec 12).signExtend 64 + 2) ∧ okD 9 = true := by
  exact ⟨by decide, by show (0 : Word).toInt ≤ (5 : Word).toInt; decide, by show ¬(5 : Word).toNat < (1 : Word).toNat; decide, by decide⟩

theorem witness_FloatResults : okD 9 = true ∧ (thread [(0, 0x3F80_0000)]).me.busy { regs := [9, 8, 8], flags := [3] } = false ∧ okCvt 4 0 = true ∧ okCvt 0 3 = true ∧
    ∀ g, (thread [(0, 0x3F80_0000)]).quiet g := ⟨by decide, by decide, by decide, by decide, fun _ => Or.inr (by decide)⟩

/-- A thread at the edge of the address space with a flag, and a link one below it. -/
def atEdge : State := threadWith fun t => { t with pc := 0x7FFF_FFFF_FFFF_FFFC, flags := 0x80, wdepth := 1, links := [(1, 0x8000_0000_0000_0000)], phys := [(16, 0x7FFF_FFFF_FFFF_FFFE), (17, 3)] }

theorem witness_Branches : atEdge.me.busy { flags := [7] } = false ∧ atEdge.me.f 7 = true ∧ atEdge.me.f 6 = false ∧ ¬badAddr (atEdge.me.pc + BitVec.ofInt 64 (2 * 1)) ∧
    badAddr (atEdge.me.pc + BitVec.ofInt 64 (2 * 2)) ∧ atEdge.me.busy { regs := [8] } = false ∧ ¬badAddr (atEdge.rd 8) ∧ badAddr (atEdge.rd 9) ∧ atEdge.me.wdepth ≠ 0 ∧
    badAddr (atEdge.me.links.get 0 atEdge.me.wdepth.toNat) ∧ atEdge.me.busy {} = false := by
  unfold badAddr; decide

def loopOf (n d : Nat) : Loop := { start := 0x100, stop := 0x200, count := BitVec.ofNat 64 n, depth := BitVec.ofNat 16 d }

theorem witness_Loops : (loopOf 2 0).depth = 0 ∧ (loopOf 2 0).stop = 0x200 ∧ 1 < (loopOf 2 0).count.toNat ∧ (loopOf 1 0).count.toNat ≤ 1 ∧ (loopOf 2 1).depth ≠ 0 ∧
    (thread [(0, 0x1_0000_0000)]).me.busy { regs := [8] } = false ∧ (thread []).me.busy {} = false ∧ min ((thread [(0, 0x1_0000_0000)]).rd 8).toNat 0xFFFF_FFFF ≠ 0 ∧ min ((thread []).rd 8).toNat 0xFFFF_FFFF = 0 ∧
    (threadWith fun t => { t with loops := [loopOf 2 0] }).me.loops.length < 2 ∧ 2 ≤ (threadWith fun t => { t with loops := [loopOf 2 0, loopOf 2 0] }).me.loops.length := by decide

/-- A thread at a window depth with some frames resident and a link. -/
def deep (d r : Nat) (ssp : Word) : State := threadWith fun t => { t with wdepth := BitVec.ofNat 16 d, resident := BitVec.ofNat 4 r, ssp := ssp, links := [(d, 0x4000)] }

theorem witness_CallsAndReturns : (deep 65534 6 0).me.wdepth ≠ 65535 ∧ (deep 65534 6 0).me.resident ≠ 7 ∧ (deep 65534 6 0).me.pendW = 0 ∧
    ((deep 65534 6 0).me.pc + BitVec.ofInt 64 (2 * -2048)).toNat % 2 = 0 ∧ ((deep 65534 6 0).me.pc + BitVec.ofInt 64 (2 * -2048)).toNat < 2 ^ 63 ∧
    (deep 65535 7 0).me.wdepth = 65535 ∧ (deep 1 2 0).me.wdepth ≠ 0 ∧ (deep 1 2 0).me.resident ≠ 1 ∧ ((deep 1 2 0).me.links.get 0 1).toNat % 2 = 0 ∧
    ((deep 1 2 0).me.links.get 0 1).toNat < 2 ^ 63 ∧ (deep 0 1 0).me.wdepth = 0 ∧
    (deep 65534 6 0).me.busy {} = false ∧ (deep 65535 7 0).me.busy {} = false ∧ (deep 65535 7 0).me.pendW = 0 ∧ (deep 1 2 0).me.busy {} = false ∧ (deep 0 1 0).me.busy {} = false := by decide

theorem witness_CallSpills :
    (let s := deep 6 7 (0x8000_0000_0000_0000 + 0x4_0000)
     ¬badAddr (s.me.pc + BitVec.ofInt 64 (2 * 8)) ∧ s.me.wdepth ≠ 65535 ∧ 6 ≤ s.me.wdepth.toNat ∧ s.me.resident = 7 ∧ s.me.pendW = 0 ∧ s.me.ops = [] ∧ s.memoryOk = true ∧
      s.stashPoison = [] ∧ (s.core s.myCore).crew.bind.lockstep = false ∧ s.me.ssp = 0x8000_0000_0000_0000 + BitVec.ofNat 64 (0x3_FF78 + 136) ∧
      ∀ i, i < 17 → s.boundHere s.myCore (0x3_FF78 + 8 * i) = none) ∧
    (let s := deep 1 1 0x8000_0000_0000_0000
     s.me.wdepth ≠ 0 ∧ ¬badAddr (s.me.links.get 0 s.me.wdepth.toNat) ∧ s.me.resident = 1 ∧ s.me.pendW = 0 ∧ s.me.ops = [] ∧ s.stashPoison = [] ∧ s.me.ssp = 0x8000_0000_0000_0000 + BitVec.ofNat 64 0 ∧
      ∀ i, i < 17 → s.boundHere s.myCore (0 + 8 * i) = none) := by
  unfold badAddr; decide

theorem witness_SpecialRegisterReads : okD 31 = true ∧ (thread []).me.busy { regs := [31], flags := allFlags } = false := by decide

/-- The same thread on the supervisor core, with die registers and register values. -/
def supervisor (l : List (Nat × Word)) (f : Slot → Slot) : State :=
  ((thread l).modDie 0 fun d => { d with supRun := true, supcore := 5, jsave := [(3, 0x8000_0000_0001_0000)] }).modMe f

/-- A thread with an operation of stream 1 that has not performed, whose number is far from the next. -/
def busyStream : State := (threadWith fun t => { t with
  ops := [{ id := 3, kind := .pref, word := 0, stream := 1, seq := 0xFFC0, scope := 0, mask := 0, need := 0, phase := .sent }] })

theorem witness_SpecialRegisterWrites :
    (let s := thread [(0, 3), (1, 63), (2, 0x4008), (3, 12), (4, 5), (5, 4)]
     s.me.busy { regs := [8, 9, 10, 11, 12, 13], flags := allFlags } = false ∧ (s.rd 8).toNat < 4 ∧ 4 ≤ (s.rd 13).toNat ∧ (s.rd 9).toNat < 64 ∧ s.quiet ((s.rd 9).setWidth 6) ∧
      64 ≤ (s.rd 10).toNat ∧ (s.rd 10).toNat % 8 = 0 ∧ (s.rd 11).toNat % 8 ≠ 0 ∧ 6 ≤ (s.rd 11).toNat ∧ (s.rd 12).toNat < 6 ∧ s.me.window 0 = 0 ∧ busyStream.me.window 1 ≠ 0) ∧
    (let s := supervisor [(0, 3), (1, 0x1FFF)] fun t => { t with jsel := 3, ptsel := 0x0700_0000_0000_001F }
     okD 9 = true ∧ s.me.busy { regs := [9, 8, 9] } = false ∧ (thread []).isSup 5 = false ∧ (thread []).myCore = 5 ∧ s.isSup s.myCore = true ∧ s.me.ptsel.toNat / 2 ^ 56 = 7 ∧
      s.me.ptsel.toNat % 2 ^ 32 < 32 ∧ (s.rd 9).toNat < 2 ^ 13 ∧ (s.rd 8).toNat < 4) := by
  refine ⟨⟨?_, ?_, ?_, ?_, Or.inr (by decide), ?_, ?_, ?_, ?_, ?_, ?_, ?_⟩, ?_⟩ <;> decide

theorem witness_TrapInstructions : (thread []).me.busy {} = false ∧ (thread []).me.drained = true ∧ busyStream.me.drained = false := by decide

theorem witness_TrapEntry :
    (let s := (thread []).modDie 0 fun d => { d with tmbase := 0xFF_FFFF_FFC0, tmcnt := 4095, tmrd := 0 }
     s.posts 41 = true ∧ (s.die (peerOfSlot 41)).heldPosts = [] ∧ ((s.die (peerOfSlot 41)).tmcnt - (s.die (peerOfSlot 41)).tmrd).toNat < 4096 ∧
      (s.die (peerOfSlot 41)).tmbase.toNat % 64 = 0 ∧ (s.die (peerOfSlot 41)).tmbase.toNat < 2 ^ 40 ∧ s.memoryOk = true ∧ s.isSup (coreOf 41) = false) ∧
    (supervisor [] id).isSup (coreOf 41) = true ∧
    (let s := (thread []).modDie 0 fun d => { d with tmcnt := 4096, tmrd := 0 }
     s.posts 41 = true ∧ ¬((s.die (peerOfSlot 41)).tmcnt - (s.die (peerOfSlot 41)).tmrd).toNat < 4096) ∧
    (let s := (thread []).modCore 5 fun c => { c with crew := { c.crew with bind := { c.crew.bind with lockstep := true } } }
     s.posts 41 = false) ∧ ((thread []).die (peerOfSlot 40)).supcore.toNat * 8 = 0 := by decide

theorem witness_TrapReturn :
    (let t := { (deep 6 7 0).me with loops := [{ start := 0x20, stop := 0x1001E, count := 0xFFFF_FFFF, depth := 6 }, { start := 0x20, stop := 0x22, count := 1, depth := 6 }] }
     let s := (thread []).modSlot 41 fun u => { u with frame := contextOf t 0x2000 0 0 }
     t.loops.length ≤ 2 ∧ (∀ l ∈ t.loops, (l.stop - l.start).toNat % 2 = 0 ∧ (l.stop - l.start).toNat < 2 ^ 16 ∧ l.count.toNat < 2 ^ 32) ∧
      ((s.die (peerOfSlot 41)).jflaga.get 0 (s.slot 41).job.toNat).getLsbD 63 = false ∧ t.fsf &&& ~~~(s.slot 41).fsf = 0 ∧
     (s.slot 41).frame = contextOf t 0x2000 0 0 ∧ 1 ≤ t.resident.toNat ∧ t.resident.toNat ≤ 7 ∧ t.resident.toNat ≤ t.wdepth.toNat + 1) := by decide +kernel

/-- The supervisor with a service call's argument in g9 and the slot 2 of core 9 in a state. -/
def servicing (arg : Word) (st : SlotState) : State :=
  ((supervisor [(1, arg)] id).modSlot 74 fun t => { t with st := st }).modCrew 9 fun x => { x with bind := { x.bind with valid := true } }

theorem witness_SupervisorCalls :
    (thread []).me.busy { regs := [8, 9] } = false ∧ (thread []).isSup (thread []).myCore = false ∧
    (let s := supervisor [(0, 0x44), (2, 0x48)] id
     s.isSup s.myCore = true ∧ s.me.drained = true ∧ s.rd 8 ≠ 0 ∧ (s.rd 8).toNat % 8 ≠ 0 ∧ (s.rd 10).toNat % 8 = 0 ∧ (s.rd 10).toNat < 2 ^ 63 ∧ (s.die s.myPeer).tmrd = (s.die s.myPeer).tmcnt ∧
      (s.die s.myPeer).heldPosts = []) ∧
    (let s := servicing 0x1000_0000 .run
     s.rd 8 = 0 ∧ s.rd 9 &&& ~~~0x0FFF_FFFF ≠ 0 ∧ s.rd 9 &&& ~~~0x03FF_FFFF ≠ 0) ∧
    (∀ st ∈ [SlotState.park, .run, .free],
      let s := servicing 0x0900_0009 st
      s.svcCore (s.rd 9) = some 9 ∧ 9 * 8 + (((s.rd 9) >>> 23).setWidth 3 : BitVec 3).toNat = 74 ∧ 74 ≠ s.cur ∧ (s.withMe (s.me.advance 4)).crewFrozen 9 = false ∧
        (s.core 9).crew.bind.lockstep = false ∧ s.rd 9 &&& ~~~0x0FFF_FFFF = 0 ∧ (s.rd 9).getLsbD 27 = true ∧ (s.rd 9).getLsbD 26 = false ∧ (s.slot 74).st = st) ∧
    (let s := servicing 0x0100_0009 .run
     s.svcCore (s.rd 9) = some 9 ∧ s.rd 9 &&& ~~~0x03FF_FFFF = 0 ∧ (s.slot 74).hold = .none ∧ (s.slot 74).ops = [] ∧ (s.slot 74).trapNext = []) ∧
    (let s := servicing 9 .run
     s.svcCore (s.rd 9) = some 9 ∧ s.rd 9 &&& ~~~0x007F_FFFF = 0 ∧ (s.core 9).saved = none ∧ (s.core 9).crew.bind.valid = true) ∧
    (let s := servicing 8 .run
     s.svcCore (s.rd 9) = some 8 ∧ (s.core 8).saved = none ∧ (s.core 8).crew.bind.valid = false) ∧
    (let s := (servicing 9 .run).modCore 9 fun x => { x with saved := some { crew := x.crew, slots := [] } }
     (s.core 9).saved ≠ none) ∧
    (let s := servicing 0x01FF_FFFF_FFFF_E003 .run
     s.rd 9 &&& 0xFE00_0000_0000_0000 = 0 ∧ ((s.rd 9) >>> 12).setWidth 4 ≠ (15 : BitVec 4)) ∧
    (let s := servicing 0x0000_0001_0000_0003 .run
     ((s.rd 9) >>> 16).setWidth 16 = (0 : BitVec 16) ∧ ((s.die 0).jsave.get 0 3).getLsbD 63 = true ∧ ((s.die 0).jsave.get 0 4).getLsbD 63 = false ∧
      gangOpBad (((s.rd 9) >>> 12).setWidth 4) ((s.die 0).jsave.get 0 3 &&& 0x0000_0FFF_FFFF_0000) (((s.rd 9) >>> 32).setWidth 32) = false) := by decide +kernel

theorem witness_IllegalAndPending :
    wellFormed (.add 1 8 8) = false ∧ isEvent (.add 1 8 8) = false ∧ wellFormed (.add 9 8 8) = true ∧ wellFormed (.loop 9 1) = true ∧
    (threadWith fun t => { t with pendW := 2, pendF := 0x80 }).me.busy { regs := [9, 8, 8] } = true ∧ (threadWith fun t => { t with pendW := 2, pendF := 0x80 }).me.busy { flags := [7] } = true := by decide

theorem witness_StreamNumbers :
    (busyStream.me.hasRoom 1 = true ∧ busyStream.me.busy {} = false ∧ busyStream.me.window 1 ≠ 0 ∧ (2 : BitVec 4).getLsbD 1 = true ∧ ∀ o ∈ busyStream.me.ops, o.id < busyStream.me.opId) ∧
    (let s := busyStream.modMe fun t => { t with ops := t.ops.map fun o => { o with seq := 0xFFBF } }
     s.me.hasRoom 1 = false) ∧
    okD 9 = true ∧ (threadWith fun t => { t with pendW := 2 }).me.busy { regs := [9, 8] } = true ∧ (threadWith fun t => { t with pendW := 2 }).me.busy { regs := [9, 8, 8] } = true := by decide

/-- A thread with addresses of its own stash in g8 and g10: an aligned dword, and the last byte. -/
def atWord : State := thread [(0, 0x8000_0000_0003_FFF8), (1, 77), (2, 0x8000_0000_0003_FFFF)]

/-- The same with the dword's full/empty bit empty. -/
def atEmpty : State := { atWord with stashEmpty := [stashKey 5 0x3_FFF8] }

theorem witness_StashAccess : okD 9 = true ∧ atWord.me.busy { regs := [9, 8] } = false ∧ atWord.fresh ∧
    atWord.atStash (atWord.rd 10 + (0 : BitVec 9).signExtend 64 * BitVec.ofNat 64 1) 1 5 0x3_FFFF ∧
    atWord.atStash (atWord.rd 8 + (3 : BitVec 9).signExtend 64 * BitVec.ofNat 64 2) 2 5 0x3_FFFE ∧
    atWord.atStash (atWord.rd 8 + (0x1FF : BitVec 9).signExtend 64 * BitVec.ofNat 64 4) 4 5 0x3_FFF4 ∧
    atWord.atStash (atWord.rd 8 + (0 : BitVec 9).signExtend 64 * BitVec.ofNat 64 8) 8 5 0x3_FFF8 := by
  unfold State.fresh State.atStash; decide

theorem witness_FullEmptyAtStash : okD 9 = true ∧ atWord.me.busy { regs := [9, 8], flags := [1] } = false ∧ atWord.fresh ∧ atWord.atStash (atWord.rd 8) 8 5 0x3_FFF8 ∧
    atWord.stashWaiters 5 0x3_FFF8 = [] ∧ atWord.stashFull 5 0x3_FFF8 = true ∧ atEmpty.fresh ∧ atEmpty.atStash (atEmpty.rd 8) 8 5 0x3_FFF8 ∧ atEmpty.stashFull 5 0x3_FFF8 = false ∧
    atEmpty.stashWaiters 5 0x3_FFF8 = [] := by
  unfold State.fresh State.atStash; decide

theorem witness_AtomicsAtStash : okD 9 = true ∧ atWord.me.busy { regs := [9, 8, 9] } = false ∧ atWord.fresh ∧ atWord.atStash (atWord.rd 8) 8 5 0x3_FFF8 := by
  unfold State.fresh State.atStash; decide

/-- Addresses beside the stash, of the mailbox page, of the last local byte, and misaligned ones. -/
def offPlace : State := thread [(0, 0xFFFF_FFFF_FFFF_FFF8), (1, 77), (2, 0x8000_0000_0020_0010), (3, 0x1001), (4, 0x8000_0000_0000_0041)]

theorem witness_AccessTraps : okD 9 = true ∧ offPlace.me.busy { regs := [9, 8, 9], flags := [0] } = false ∧
    (2 ^ 63 ≤ (offPlace.rd 8).toNat ∧ localPlace offPlace.myCore (offPlace.rd 8) = .nowhere) ∧
    (2 ^ 63 ≤ (offPlace.rd 10).toNat ∧ ∃ n off, localPlace offPlace.myCore (offPlace.rd 10) = .page n off) ∧
    ((offPlace.rd 11).toNat < 2 ^ 63 ∧ (offPlace.rd 11).toNat % 2 ≠ 0) ∧
    ((∃ c off, localPlace offPlace.myCore (offPlace.rd 12) = .stash c off) ∧ (offPlace.rd 12).toNat % 8 ≠ 0) := by
  refine ⟨by decide, by decide, by decide, ⟨by decide, _, _, rfl⟩, by decide, ⟨_, _, rfl⟩, by decide⟩

/-- A thread whose TLB holds the page of 0x1_0000 on a die of its partition. -/
def mapped (peer : Nat) (w nc : Bool) (scope : BitVec 3) (l : List (Nat × Word)) : State :=
  (((thread l).modCore 5 fun c => { c with
      utlb := [{ job := 3, page := 1, shift := 16, frame := peer * 2 ^ 44 + 0x50000, x := true, w := w, nc := nc, geo := 0, fmt := 9 }] }).modMe fun t => { t with
      streams := [(1, { scope := scope, next := 7 })] }).modDie 0 fun d => { d with
    peerState := [(0, 1), (1, 1), (2, 1), (3, 1)], partMap := [(0, 0xF)], jobPart := [(3, 0)] }

/-- What the TLB answers for an address of that page. -/
def leafOf (s : State) (va : Word) : Leaf := (s.tlbFind s.myCore s.me.job va).getD { frame := 0, shift := 0, x := false, w := false, nc := false, geo := 0, fmt := 0 }

theorem witness_GlobalAccess :
    (let s := mapped 1 true false 2 [(0, 0x1_0108), (1, 77), (2, 88)]
     let l := leafOf s (s.rd 8)
     okD 9 = true ∧ s.me.busy { regs := [9, 8, 10], flags := [0] } = false ∧ s.fresh ∧ s.known (s.rd 8) l ∧ (s.rd 8).toNat % 8 = 0 ∧ s.reaches (l.pa (s.rd 8)) ∧
      paPeer (l.pa (s.rd 8)) = 1 ∧ s.myPeer = 0 ∧ s.boundAt s.myCore (s.rd 8) = none ∧ s.line s.myQuad (l.pa (s.rd 8) / 256) = none ∧ l.w = true ∧ l.nc = false ∧
      ((s.me.stream 1).scope).toNat ≤ 2) ∧
    (let s := mapped 1 false true 3 [(0, 0x1_0108)]
     (leafOf s (s.rd 8)).nc = true ∧ s.known (s.rd 8) (leafOf s (s.rd 8)) ∧ s.reaches ((leafOf s (s.rd 8)).pa (s.rd 8))) := by
  unfold State.fresh State.known State.reaches; decide

theorem witness_ParkedFault :
    (let s := mapped 0 false false 2 [(0, 0x1_FFF8)]
     okD 9 = true ∧ s.me.busy { regs := [9, 8] } = false ∧ s.fresh ∧ (s.rd 8).toNat % 8 = 0 ∧ s.boundAt s.myCore (s.rd 8) = none ∧ s.known (s.rd 8) (leafOf s (s.rd 8)) ∧
      (leafOf s (s.rd 8)).w = false) ∧
    (let s := mapped 0 false false 2 [(0, 0x0200_0000_0000_0000)]
     s.fresh ∧ (s.rd 8).toNat % 8 = 0 ∧ s.boundAt s.myCore (s.rd 8) = none ∧ 2 ^ 57 ≤ (s.rd 8).toNat ∧ (s.rd 8).toNat < 2 ^ 63) := by
  unfold State.fresh State.known; decide

/-- A thread with a region 3 bound, and a line in its quad cache. -/
def caching (x : LineState) (peer : Nat) (l : List (Nat × Word)) : State :=
  ((mapped peer true false 2 l).modRegion 5 3 fun _ => { bound := true, fmt := 7, ro := true, base := 0x2_0000, pa := 0x6_0000, valid := 0xFF }).setLine 1 ((peer * 2 ^ 44 + 0x5_0000) / 256)
    { state := x, data := 5 <<< 1024, full := 0xFFFF_FFFF, poison := 0, dirty := if x = .owned then 2 else 0 }

theorem witness_CacheMaintenance :
    (let s := caching .owned 0 [(0, 0x1_0000), (1, 1), (2, 0x8000_0000_0000_0000), (3, 0x1_0001), (4, 0x1_0100), (5, 0x8000_0000_0000_0001)]
     let l := leafOf s (s.rd 8)
     s.me.busy { regs := [8, 9, 10, 11, 12, 13] } = false ∧ s.fresh ∧ (s.region 5 2).bound = false ∧ (s.region 5 3).bound = true ∧ (s.region 5 3).dirty = 0 ∧ s.myCore = 5 ∧
      s.known (s.rd 8) l ∧ (s.rd 8).toNat % 0x8000 = 0 ∧ l.nc = false ∧ s.boundElsewhere s.myCore 2 (s.rd 8) = false ∧ (s.rd 13).toNat % 0x8000 ≠ 0 ∧ 2 ^ 63 ≤ (s.rd 13).toNat ∧
      (s.rd 14).setWidth 32 = (0 : BitVec 32) ∧ s.rd 9 = 1 ∧ (s.line s.myQuad (l.pa (s.rd 8) / 256)).any (fun x => x.state == .owned && x.dirty == 2) = true ∧
      (∀ i, i < 4 → ∀ j, j < 8 → let y := s.region (s.myQuad * 4 + i) j; let ln := l.pa (s.rd 8) / 256
        (!y.bound || Nat.blt ln (y.pa / 256) || Nat.ble (y.pa / 256 + 128) ln || !y.valid.getLsbD (ln - y.pa / 256)) = true) ∧
      s.boundAt 5 (s.rd 8) = none ∧ s.memoryOk = true ∧ 2 ^ 63 ≤ (s.rd 10).toNat ∧ s.known (s.rd 12) l ∧ s.boundAt 5 (s.rd 12) = none ∧ s.reaches (l.pa (s.rd 12)) ∧
      s.line s.myQuad (l.pa (s.rd 12) / 256) = none ∧ paPeer (l.pa (s.rd 12)) = s.myPeer ∧ CohMsg.read (quadNo s.myQuad) (l.pa (s.rd 12) / 256) ∉ (s.die s.myPeer).coh) ∧
    (let s := caching .remote 1 [(0, 0x1_0000), (1, 1)]
     (s.line s.myQuad ((leafOf s (s.rd 8)).pa (s.rd 8) / 256)).any (fun x => x.state == .remote) = true) := by
  unfold State.fresh State.known State.reaches; decide

theorem witness_FormatWrite :
    (let s := (mapped 0 true false 2 [(0, 63)]).modDie 0 fun d => { d with jfmt := [(3, 0x8000_0000_0001_0000)] }
     let va := fmtAddr ((s.die s.myPeer).jfmt.get 0 s.me.job.toNat) ((s.rd 8).setWidth 6 : BitVec 6).toNat
     let l := leafOf s va
     s.me.busy { regs := [9, 8] } = false ∧ s.fresh ∧ ((s.die s.myPeer).jfmt.get 0 s.me.job.toNat).getLsbD 63 = true ∧ s.known va l ∧ l.w = true ∧ s.reaches (l.pa va) ∧
      paPeer (l.pa va) = s.myPeer ∧ s.lineFree (l.pa va / 256) = true ∧ s.memoryOk = true ∧ l.pa va % 8 = 0) ∧
    (let s := (mapped 1 true false 2 [(0, 63)]).modDie 0 fun d => { d with jfmt := [(3, 0x8000_0000_0001_0000)] }
     let va := fmtAddr ((s.die s.myPeer).jfmt.get 0 s.me.job.toNat) ((s.rd 8).setWidth 6 : BitVec 6).toNat
     let l := leafOf s va
     s.me.busy { regs := [9, 8] } = false ∧ s.fresh ∧ ((s.die s.myPeer).jfmt.get 0 s.me.job.toNat).getLsbD 63 = true ∧ s.known va l ∧ l.w = true ∧ s.reaches (l.pa va) ∧
      paPeer (l.pa va) ≠ s.myPeer) ∧
    (((thread []).die (thread []).myPeer).jfmt.get 0 (thread []).me.job.toNat).getLsbD 63 = false := by
  unfold State.fresh State.known State.reaches; decide

/-- Nothing of the core is outstanding, as a list of its slots says. -/
theorem quietCore_of (s : State) (h : s.fresh) (h₁ : (List.range 8).all (fun i => (s.slot (s.myCore * 8 + i)).ops.isEmpty) = true) (h₂ : s.crew.heldWrites = [] ∧ (s.core s.myCore).spill = []) : s.quietCore := by
  refine ⟨h, fun i hi => ?_, h₂⟩
  simpa using List.all_eq_true.1 h₁ i (List.mem_range.2 hi)

/-- A thread with its core's number, another core's and a word in g8 to g10, and crew state. -/
def inCrew (f : Crew → Crew) : State := (thread [(0, 5), (1, 77), (2, 1023)]).modCrew 5 f

theorem quiet_inCrew (f : Crew → Crew) (h : (inCrew f).fresh) (h₁ : (List.range 8).all (fun i => ((inCrew f).slot ((inCrew f).myCore * 8 + i)).ops.isEmpty) = true)
    (h₂ : (inCrew f).crew.heldWrites = [] ∧ ((inCrew f).core (inCrew f).myCore).spill = []) : (inCrew f).quietCore := quietCore_of _ h h₁ h₂

theorem witness_Mailboxes :
    okD 9 = true ∧ (inCrew id).me.busy { regs := [9, 8, 9, 10], flags := [7] } = false ∧ (inCrew id).quietCore ∧ (inCrew fun x => { x with mbFull := 0x80 }).quietCore ∧
    (inCrew fun x => { x with mbFull := 0x80 }).crew.mbFull.getLsbD 7 = true ∧ (inCrew id).crew.mbFull.getLsbD 7 = false ∧ (inCrew id).rd 8 = BitVec.ofNat 64 (inCrew id).myCore ∧
    (inCrew id).myCore < 2 ^ 23 ∧ (inCrew id).rd 10 = BitVec.ofNat 64 ((inCrew id).myPeer * 1024 + 1023) ∧ (inCrew id).myPeer < 2 ^ 13 ∧
    (inCrew id).lead ((inCrew id).myPeer * 1024 + 1023) ≠ (inCrew id).myCore ∧
    (let s := (inCrew id).modCore 5 fun c => { c with spill := [{ pkt := { type := 7, job := 3, fn := taskPush } }] }
     s.me.busy { regs := [8, 9], flags := [7] } = false ∧ s.fresh ∧ s.behindSpill ∧ Nat.blt (s.core s.myCore).spill.length 64 = true ∧
      Nat.blt ((s.core s.myCore).crew.queue.length + ((s.core s.myCore).spill.filter fun e => e.pkt.fn == taskPush).length) 64 = true ∧ s.rd 8 = BitVec.ofNat 64 s.myCore ∧ s.myCore < 2 ^ 23) :=
  ⟨by decide, by decide, quiet_inCrew _ (by unfold State.fresh; decide) (by decide) (by decide), quiet_inCrew _ (by unfold State.fresh; decide) (by decide) (by decide),
    by decide, by decide, by decide, by decide, by decide, by decide, by decide, by unfold State.fresh State.behindSpill; decide⟩

theorem witness_SemaphoresQueuesEvents :
    (let s := inCrew fun x => { x with sems := [(2, 255), (3, 1)], queue := List.replicate 63 6 }
     okD 9 = true ∧ s.me.busy { regs := [9, 8, 9], flags := [7] } = false ∧ s.quietCore ∧ s.crew.sems.get 0 2 = 255 ∧ s.crew.sems.get 0 3 ≠ 0 ∧ s.crew.sems.get 0 4 = 0 ∧
      s.rd 8 = BitVec.ofNat 64 s.myCore ∧ s.myCore < 2 ^ 23 ∧ s.crew.queue.length < 64 ∧ (∃ w r, s.crew.queue = w :: r) ∧ s.me.latch = false) ∧
    64 ≤ (inCrew fun x => { x with queue := List.replicate 64 6 }).crew.queue.length ∧ (inCrew id).crew.queue = [] ∧ (threadWith fun t => { t with latch := true }).me.latch = true :=
  ⟨⟨by decide, by decide, quiet_inCrew _ (by unfold State.fresh; decide) (by decide) (by decide), by decide, by decide, by decide, by decide, by decide, by decide, ⟨_, _, rfl⟩, by decide⟩,
    by decide, by decide, by decide⟩

/-- A thread with barrier numbers owned by its job, and a quad barrier that one more arrival settles. -/
def atBarrier : State := ((thread [(0, 2)]).modDie 0 fun d => { d with owners := [(15, 0x1003), (23, 0x1003), (31, 0x1003)] }).modQuad 1 fun q => { q with barriers := [(13, { count := 1, target := 2 })] }

theorem witness_Barriers :
    (let s := atBarrier
     let bar := fun (i : Nat) => (s.quad s.myQuad).barriers.get {} (s.me.job.toNat * 4 + i)
     s.me.busy { regs := [8] } = false ∧ s.fresh ∧ (bar 1).waiters = [] ∧ (bar 1).count + 1 = (bar 1).target ∧ (bar 1).count ≠ 0 ∧ (bar 2).count = 0 ∧
      (bar 2).count + 1 ≠ BitVec.ofNat 32 (min 32 (max 1 ((s.rd 8).toNat % 64))) ∧
      (∀ x ∈ [((2 : BitVec 3), (15 : BitVec 4), 15), (3, 7, 23), (4, 7, 31)], wellFormed (.bara x.1 8 x.2.1 0 1) = true ∧ (s.die s.myPeer).owners.get 0 x.2.2 = (1 : BitVec 1) ++ s.me.job) ∧
      (s.die s.myPeer).owners.get 0 14 ≠ (1 : BitVec 1) ++ s.me.job) := by
  unfold State.fresh; decide

theorem witness_Tickets :
    (let s := thread [(0, 0), (1, 0x8000_0000_0000_0000), (2, 0x0001_E000_0000_0007)]
     okD 9 = true ∧ s.me.busy { regs := [9, 8, 10] } = false ∧ s.fresh ∧ s.myPeer < 2 ^ 13 ∧ ((s.rd 8).setWidth 13 : BitVec 13).toNat = s.myPeer ∧ (s.rd 9).getLsbD 63 = true ∧
      (s.rd 10).getLsbD 63 = false ∧ (((s.rd 10) >>> 32).setWidth 13 : BitVec 13).toNat = s.myPeer ∧ (((s.rd 10) >>> 45).setWidth 4 : BitVec 4) = 15 ∧ (s.die s.myPeer).called.find 15 = none ∧
      (s.die s.myPeer).tkWaiters = []) ∧
    (let s := mapped 0 false false 2 [(0, 3)]
     ((s.rd 8).setWidth 13 : BitVec 13).toNat ≠ s.myPeer ∧ s.peerRefuses s.myPeer s.me.job 3 = none) := by
  unfold State.fresh; decide

/-- A router's group of an instance 0: job, members, children, parent. -/
def groupOf (job seq : BitVec 32) (members parent : Nat) : Group := { entry := BitVec.ofNat 128 (job.toNat * 2 ^ 96 + seq.toNat * 2 ^ 64 + 2 ^ 48 + members * 2 ^ 41 + parent) }

/-- A thread with groups at its package, words that name them in g8 onward, and outcomes kept at its die. -/
def collecting : State := (((thread [(0, 255), (1, 0x1_0000_00FF), (2, 6), (3, 7)]).modPkg 0 fun p => { p with groups := [(7, groupOf 9 0 3 63), (255, groupOf 3 0 3 2)] }).modDie 0 fun d =>
  { d with ctOut := [(6, (0, 0, 55)), (7, (0, 1, 66))] }).modMe fun t => { t with ctRefused := [refusedKey 255 1] }

theorem witness_Collectives :
    (let s := collecting
     let x := fun (g : Nat) => (s.pkg 0).groups.get {} g
     okD 9 = true ∧ s.me.busy { regs := [9, 8, 9, 10, 11], flags := [0] } = false ∧ s.fresh ∧ s.myPeer = 0 ∧ ((x 255).valid = true ∧ (x 255).job = s.me.job) ∧
      ((s.rd 8) >>> 32).setWidth 32 = (x 255).seq ∧ (x 255).member 0 = true ∧ (x 255).dies.has 0 = false ∧
      ({ x 255 with dies := (x 255).dies.set 0 (s.rd 9) } : Group).complete = false ∧ ((s.rd 9) >>> 32).setWidth 32 ≠ (x 255).seq ∧ ¬((x 7).valid = true ∧ (x 7).job = s.me.job) ∧
      s.me.ctRefused.mem (refusedKey 255 (((s.rd 9) >>> 32).setWidth 32)) = true ∧ s.me.ctRefused.mem (refusedKey 6 0) = false ∧ (s.die 0).ctOut.find 6 = some (0, 0, 55) ∧
      s.me.ctRefused.mem (refusedKey 7 0) = false ∧ (s.die 0).ctOut.find 7 = some (0, 1, 66) ∧ s.me.ctRefused.mem (refusedKey 8 0) = false ∧ (s.die 0).ctOut.find 8 = none ∧
      (x 255).isRoot = false) := by
  unfold State.fresh; decide

theorem witness_TaskInstructions :
    (let s := threadWith fun t => { t with phys := [(0, 1023), (1, 0x7FFF_FFFF_FFFF_FFFE), (2, 0x7FFF_FFFF_FFFF_FFFF), (3, 0x8000_0000_0000_0000)] }
     s.me.busy { regs := [8, 9, 24, 25, 26, 27], flags := [1] } = false ∧ s.fresh ∧ badAddr (s.rd 10) ∧ ¬badAddr (s.rd 9) ∧ s.rd 8 = BitVec.ofNat 64 (s.myPeer * 1024 + 1023) ∧ s.myPeer < 2 ^ 13 ∧
      s.liveOf s.me.job s.me.par < 65535 ∧ s.me.loops = [] ∧ (s.rd 8).getLsbD 63 = false ∧ s.me.resident.toNat ≤ 1 ∧ (s.rd 11).getLsbD 63 = true) ∧
    (let s := (thread []).modCore 5 fun c => { c with crew := { c.crew with bind := { c.crew.bind with live := 65535 } } }
     65535 ≤ s.liveOf s.me.job s.me.par) ∧
    (let s := thread [(0, 0x8000_0000_0003_F600)]
     s.me.busy { regs := [8] } = false ∧ s.fresh ∧ s.me.noPending = true ∧ s.me.replies = [] ∧ localPlace s.myCore (s.rd 8) = .stash s.myCore 0x3_F600 ∧ 0x3_F600 % 64 = 0 ∧
      0x3_F600 + 2560 ≤ 0x4_0000 ∧ s.memoryOk = true ∧ s.stashPoison = [] ∧ (List.range 320).all (fun i => s.boundHere s.myCore (0x3_F600 + 8 * i) == none) = true) := by
  unfold State.fresh badAddr; decide +kernel

/-! ### Vectors and engines -/

/-- A thread with masks, vectors and scalars: v2 holds byte offsets, g11 an address of the own stash. -/
def vectors (l : List (Nat × Word)) : State := (thread l).modMe fun t => { t with
  kregs := [(1, 0x8001), (2, 0x0010), (3, 0)], vregs := [(1, vecOf fun l => BitVec.ofNat 32 (0x3F80_0000 + l)), (2, vecOf fun l => BitVec.ofNat 32 (4 * (15 - l)))] }

theorem witness_VectorMoves : (vectors []).me.busy { vecs := [(3 : BitVec 4).toNat, (1 : BitVec 4).toNat, (15 : BitVec 4).toNat] } = false ∧ (∀ g, (vectors []).quiet g) ∧
    ((1 : BitVec 3) ≠ 0 ∨ (0 : BitVec 4) ≠ 0 ∨ (0 : BitVec 4) ≠ 0) := ⟨by decide, fun _ => Or.inr (by decide), by decide⟩

theorem witness_VectorIntegers : (vectors []).me.busy { vecs := [3, 1, 2] } = false ∧ ∀ g, (vectors []).quiet g := ⟨by decide, fun _ => Or.inr (by decide)⟩

theorem witness_VectorFloats : (vectors []).me.busy { vecs := [15, 0, 2] } = false ∧ ∀ g, (vectors []).quiet g := ⟨by decide, fun _ => Or.inr (by decide)⟩

theorem witness_VectorPacked : (vectors []).me.busy { vecs := [3, 1, 2] } = false ∧ (∀ g, (vectors []).quiet g) ∧ wellFormed (.vcvt 3 6 2 0 5) = true ∧ wellFormed (.vcvt 3 0 2 0 2) = true :=
  ⟨by decide, fun _ => Or.inr (by decide), by decide, by decide⟩

theorem witness_VectorScalars : okD 31 = true ∧ (vectors []).me.busy { regs := [8, 9, 31], vecs := [1] } = false ∧ (∀ g, (vectors []).quiet g) ∧ (vectors []).me.k 3 = 0 ∧
    (vectors []).me.k 2 = 1 <<< 4 := ⟨by decide, by decide, fun _ => Or.inr (by decide), by decide, by decide⟩

/-- A thread whose table 3 is set, at the last place of the stash. -/
def tabled : State := (vectors [(0, 63), (1, 0x3_FD00), (2, 0x4_0000), (3, 0x3_FD01)]).modCrew 5 fun c => { c with
  tables := [(3, { x0 := 0, scale := 0x3F80_0000, valid := true, base := 0x3_FD00 })] }

theorem witness_MasksAndTables :
    (okD 9 = true ∧ (vectors []).me.busy { regs := [9], vecs := [1, 2], flags := [7] } = false ∧ (7 : BitVec 3) ≠ 0 ∧ (vectors []).me.k 3 = 0 ∧ wellFormed (.vcmp 1 3 1 2 0 2 7) = true ∧
      wellFormed (.vcmp 0 3 1 2 0 1 5) = true) ∧
    (tabled.me.busy { regs := [8, 9], vecs := [3, 1] } = false ∧ (∀ g, tabled.quiet g) ∧ (tabled.rd 9).toNat < 2 ^ 18 ∧ (tabled.rd 9).toNat % 32768 ≤ 32000 ∧ (tabled.rd 9).toNat % 64 = 0 ∧
      (tabled.region 5 ((tabled.rd 9).toNat / 0x8000)).bound = false ∧ 2 ^ 18 ≤ (tabled.rd 10).toNat ∧ (tabled.rd 11).toNat % 64 ≠ 0 ∧ (tabled.rd 11).toNat < 2 ^ 18 ∧
      (tabled.crew.tables.get {} 3).valid = true ∧ (tabled.crew.tables.get {} 2).valid = false ∧ tabled.me.ops = [] ∧ tabled.memoryOk = true) := by
  refine ⟨by decide, by decide, fun _ => Or.inr (by decide), ?_⟩
  decide

theorem witness_VectorMemory :
    (let s := vectors [(0, 0x8000_0000_0003_FFC0), (1, 0x8000_0000_0000_0000), (2, 0x8000_0000_0004_0000)]
     s.me.busy { regs := [8, 9, 10], vecs := [1, 2] } = false ∧ s.fresh ∧ s.stashPoison = [] ∧ s.memoryOk = true ∧ s.me.k 3 = 0 ∧ s.me.k 0 ≠ 0 ∧
      (∀ l, l < 16 → s.rd 8 + (0 : BitVec 7).signExtend 64 * 64 + BitVec.ofNat 64 (4 * l) = 0x8000_0000_0000_0000 + BitVec.ofNat 64 (0x3_FFC0 + 4 * l) ∧ 0x3_FFC0 + 4 * l < 0x4_0000 ∧
        (0x3_FFC0 + 4 * l) % 4 = 0 ∧ s.boundHere s.myCore (0x3_FFC0 + 4 * l) = none) ∧ (s.region s.myCore (0x3_FFC0 / 0x8000)).fmt = 0 ∧
      (∀ l, l < 16 → s.rd 9 + ((lane (s.me.v 2) l).signExtend 64 <<< 6) = 0x8000_0000_0000_0000 + BitVec.ofNat 64 (256 * (15 - l)) ∧ s.boundHere s.myCore (256 * (15 - l)) = none) ∧
      2 ^ 63 ≤ (s.rd 10).toNat ∧ localPlace s.myCore (s.rd 10) = .nowhere) ∧
    (((vectors []).modRegion 5 7 fun r => { r with fmt := 1 }).region 5 7).fmt = 1 := by
  unfold State.fresh; decide +kernel

/-- A thread of slot 6 or 7 with a vector of parameters. -/
def atSlot (i : Nat) (v : Nat → BitVec 32) : State :=
  let k := 40 + i
  let s := { thread [] with cur := k, slots := (thread []).slots.set k (thread []).me }
  s.modSlot k fun t => { t with vregs := [(3, vecOf v)] }

/-- An operation as a thread would hold it. -/
def opOf (id : Nat) (kind : OpKind) (ph : Phase) : Op := { id := id, kind := kind, word := 0, stream := 1, seq := 0xFFFE, scope := 2, mask := 0, need := 0, phase := ph }

theorem witness_MatrixIssue : okD 9 = true ∧ (atSlot 6 fun _ => 0).me.busy { regs := [9], vecs := [3] } = false ∧ slotOf (thread []).cur ≠ 6 ∧ slotOf (atSlot 6 fun _ => 0).cur = 6 ∧
    (atSlot 6 fun _ => 0).crew.matrix.length < 4 ∧ (atSlot 6 fun _ => 0).fresh ∧ (∀ e ∈ (atSlot 6 fun _ => 0).crew.matrix, e.slot ≠ (atSlot 6 fun _ => 0).cur) ∧
    4 ≤ ((atSlot 6 fun _ => 0).modCrew 5 fun c => { c with matrix := List.replicate 4 { slot := 46, op := opOf 1 (.matrix 0) .waiting } }).crew.matrix.length ∧
    (bits (lane ((atSlot 6 fun i => if i = 7 then 0x3_0000 else 0).me.v 3) 7) 16 6 : BitVec 6).toNat < 4 := by
  unfold State.fresh; decide +kernel

/-- A thread of slot 7 that issued the started CPYF before. -/
def copying : State := ((atSlot 7 fun i => if i = 6 then 3 else 0).modSlot 47 fun t => { t with ops := [{ opOf 11 (.copy 2) .waiting with dest := .reg 4 }] }).modChannel 5 3 fun _ =>
  { queue := [{ slot := 47, op := { opOf 11 (.copy 2) .waiting with dest := .reg 4 }, bytes := 99, started := true }] }

/-- A fill of one dword of the own stash at the head of channel 2, and the same once it has an outcome. -/
def filling (oc : Option Nat) : State :=
  let o : Op := { opOf 11 (.copy 2) .waiting with dest := .reg 4, vec := vecOf fun i => if i = 2 then 0x3_FFF8 else if i = 3 then 0x8000_0000 else if i = 4 then 8 else if i = 6 then 2 else if i < 2 then BitVec.ofNat 32 (7 + i) else 0 }
  { ((atSlot 7 fun _ => 0).modSlot 47 fun t => { t with ops := [o] }).modChannel 5 2 fun _ =>
    { queue := [{ slot := 47, op := o, started := oc.isSome, bytes := if oc.isSome then 8 else 0, outcome := oc }] } with arg := { a := 5, b := 2, c := 1 } }

theorem witness_CopyCommands :
    (let s := atSlot 7 fun i => if i = 6 then 7 else 0
     okD 9 = true ∧ s.me.busy { regs := [9], vecs := [3] } = false ∧ slotOf (atSlot 6 fun _ => 0).cur ≠ 7 ∧ slotOf s.cur = 7 ∧ s.fresh ∧ (lane (s.me.v 3) 6).toNat % 4 = 3 ∧
      (s.channel s.myCore 3).queue = [] ∧ 4 ≤ (lane (s.me.v 3) 6).toNat ∧
      4 ≤ (((s.modChannel 5 3 fun _ => { queue := List.replicate 4 { slot := 47, op := opOf 1 (.copy 0) .waiting } }).channel 5 3).queue).length) ∧
    (let s := copying
     let o := { opOf 11 (.copy 2) .waiting with dest := .reg 4 }
     slotOf s.cur = 7 ∧ (lane (s.me.v 3) 6).toNat < 4 ∧ s.me.ops = [o] ∧ s.me.hasRoom 1 = true ∧ (s.core s.myCore).crew.bind.lockstep = false ∧
      (s.channel s.myCore 3).queue = [{ slot := s.cur, op := o, bytes := 99, started := true }] ∧ o.id < s.me.opId ∧ o.parts = [] ∧ o.flag = none ∧ s.me.st = .run ∧ s.me.hold = .none) ∧
    (let s := filling none
     (s.copyHead 5 2).any (fun x => (s.channel 5 2).queue == [x] && x.outcome == none && !x.started && x.bytes == 0 && x.flying == 0 && x.op.copyFn == 2 && x.op.lane 4 == 8 && x.op.lane 5 == 0 && x.op.lane 6 == 2 &&
        x.op.lane2 7 == 0 && coreOf x.slot == 5 && localPlace 5 (x.op.lane2 2) == .stash 5 0x3_FFF8) = true ∧ 1 ≤ s.arg.c ∧ s.boundHere 5 0x3_FFF8 = none ∧
      (s.core 5).crew.bind.lockstep = false ∧ s.memoryOk = true) ∧
    (let s := filling (some 0)
     (s.copyHead 5 2).any (fun x => (s.channel 5 2).queue == [x] && x.outcome == some 0 && x.adopted == none && s.copyPerformed x && x.slot == 47 && x.op.dest == .reg 4 && x.op.flag == none &&
        (s.slot 47).ops.any (·.id == x.op.id)) = true ∧ (s.slot 47).st = .run) := by
  unfold State.fresh; decide +kernel

/-- Slot 6 with one matrix command accepted into its core's queue, and matrix state of the quad. -/
def engine (fn : Nat) (v : Nat → BitVec 32) (e : EngCmd → EngCmd) (q : Quad → Quad) : State :=
  let o : Op := { opOf 11 (.matrix fn) .waiting with dest := .reg 4, vec := vecOf v }
  { ((((atSlot 6 v).modSlot 46 fun t => { t with ops := [o] }).modCrew 5 fun c => { c with matrix := [e { slot := 46, op := o }] }).modQuad 1 q) with arg := { a := 1 } }

/-- MOPEN's parameters of a tile of 4 by 2 elements of 2^20 columns. -/
def openLanes (i : Nat) : BitVec 32 := if i = 0 then 0x0202_0200 + 0x0100_0000 else if i = 1 then 0x1_0000 else if i = 2 then 0x10_0000 else if i = 3 then 0x77 else 0

/-- An open tile of 2 by 3 elements with one interval recorded, and a contribution to it. -/
def tileOf : Tile := { state := stOpen, m1 := 1, n1 := 2, job := 3, key := 0x77, kt := 9, gen := 1, fa := 2, fb := 2, record := [(5, 7)] }
def contribOf (lo hi : Nat) : Contrib := { handle := handleOf 3 1 0 1, key := 0x77, lo := lo, hi := hi, fa := 2, fb := 2, elems := [(0, 0x3F80_0000), (1, 0x3F80_0000)], fsf := 2 }

/-- A staged contribution. -/
def stagedOf (lo hi : Nat) : State := engine 1 (fun _ => 0) (fun e => { e with formed := some (contribOf lo hi), stage := .staged }) fun q => { q with tiles := [(0, tileOf)], staged := [(46, 11)] }

/-- A rotated block's last delivery. -/
def rotating : State := { engine 4 (fun _ => 0) (fun e => { e with stage := .decided, deliveries := 1, status := 0x55 }) fun q => { q with
  rots := [{ slot := 46, opId := 11, core := 6, off := 0x100, rows := [(0x3_FFE0, 16, 0x1234), (0x3_FFF0, 16, 0x99)] }] } with stashEmpty := [stashKey 6 0x100] }

/-- A packet from die 4 that stands at a die of the job's partition, or at one that does not serve it. -/
def arriving (serves : Bool) (k : Pkt) (loc : Loc) (f : State → State) : State :=
  let s := { thread [] with net := [{ pkt := k, loc := loc }] }
  f (if serves then s.modDie 0 fun d => { d with partMap := [(0, 1)], jobPart := [(3, 0)] } else s)
def pktOf (ty : BitVec 8) (fn size : BitVec 4) (off operand payload plen : Nat) : Pkt :=
  { type := ty, job := 3, src := 4, dst := 0, off := BitVec.ofNat 44 off, fn := fn, size := size, operand := BitVec.ofNat 64 operand, payload := BitVec.ofNat 2048 payload, plen := BitVec.ofNat 9 plen,
    tag := 0x33, req := 0x44, scope := 3, stream := 1, seq := 9 }

theorem witness_EngineEvents_mopen :
    (let s := engine 0 openLanes id id
     (s.nextHead 1).any (fun e => quadOf (coreOf e.slot) == 1 && e.lanesOk && e.fn == 0 && (e.p 2).toNat == 2 ^ 20 && bits (e.p 0) 8 6 == (2 : BitVec 6) && bits (e.p 0) 16 6 == (2 : BitVec 6) && e.p2 4 == 0 &&
        e.op.flag == none && e.op.dest == .reg 4 && (s.slot 46).ops.any (·.id == e.op.id)) = true ∧ s.finishedCmd 1 = none ∧ (s.quad 1).staged = [] ∧ (s.slot 46).st = .run ∧ (s.core 5).crew.bind.lockstep = false ∧
      (s.quad 1).allocate (s.unitNamed 1 3) false = some 0) ∧
    (let s := engine 0 openLanes id fun q => { q with tiles := (List.range 80).map fun u => (u, { state := stOpen }) }
     (s.quad 1).allocate (s.unitNamed 1 3) false = none ∧ (s.nextHead 1).any (fun e => e.lanesOk && !(e.p 0).getLsbD 0) = true) ∧
    (let s := engine 1 (fun i => if i = 0 then (handleOf 3 2 0 1).setWidth 32 else if i = 1 then (handleOf 3 2 0 1).extractLsb' 32 32 else if i = 4 then 5 else if i = 3 then 2 else if i = 6 ∨ i = 9 then 0x8000_0000 else if i = 7 then 0x40_0040 else 0) id id
     (s.nextHead 1).any (fun e => e.lanesOk && e.fn == 1 && handleQuad (e.p2 0) == 2) = true) := by
  decide +kernel

theorem witness_EngineEvents_contribution :
    (∀ lo ∈ [0, 4], let s := stagedOf lo 5
     (s.engCmd 46 11).any (fun e => e.formed == some (contribOf lo 5) && e.deliveries == 0 && e.op.dest == .reg 4 && e.op.flag == none && (s.slot 46).ops.any (·.id == e.op.id)) = true ∧
      (match (s.quad 1).checked (contribOf lo 5).handle 0x77 true with
       | .ok x => x == tileOf
       | .error _ => false) = true ∧ (s.slot 46).st = .run ∧ lo < 5 ∧ tileOf.watch = 0 ∧ tileOf.nant = false) ∧
    (match recordAdd tileOf.record 0 5 with
     | .ok r => r == [(0, 7)]
     | .error _ => false) = true ∧
    (match recordAdd tileOf.record 5 6 with
     | .ok _ => false
     | .error _ => true) = true := by decide +kernel

theorem witness_EngineEvents_rotation :
    (let s := rotating
     (s.quad 1).rots[s.arg.b]?.any (fun r => r.rows.length == 2 && s.stashFull r.core r.off == false && s.stashWaiters r.core r.off == [] && r.rows.all (fun x => x.1 + x.2.1 ≤ 0x4_0000 && (List.range x.2.1).all fun j => (s.boundHere r.core (x.1 + j)).isNone)) = true ∧
      (s.gang 0 3).phase.bars = false ∧ s.memoryOk = true ∧ s.stashPoison = [] ∧ peerOf 1 / 4 = 0 ∧
      (s.engCmd 46 11).any (fun e => e.deliveries == 1 && e.stage == .decided && e.trap.isNone && !e.refused && e.dests.isEmpty && (s.slot 46).ops.any (·.id == e.op.id) && e.op.dest == .reg 4 && e.op.flag == none) = true ∧ (s.slot 46).st = .run) := by
  decide +kernel

theorem witness_EngineEvents_packets :
    (let k := pktOf 6 0 0 1 0x7_0000_0000 (2 ^ 160) 0
     let s := arriving true k (.arrived 0) id
     s.arrived s.arg.a 6 = some (k, 0) ∧ s.admitted 0 k.job = true ∧ (arriving false k (.arrived 0) id).admitted 0 k.job = false ∧ (bits k.operand 0 32 : BitVec 32) = 0 ∧
      (s.quad (quadKey 0 1)).buffers.length < 4 ∧
      4 ≤ ((s.modQuad 1 fun q => { q with buffers := List.replicate 4 { src := 1, req := 0, tag := 0, job := 0, attempt := 0, total := 0, data := [] } }).quad (quadKey 0 1)).buffers.length) ∧
    (let k := pktOf 6 9 0 1 0x7_0000_0000 ((handleOf 3 1 0 1).toNat + 0x77 * 2 ^ 64) 0
     let s := arriving true k (.arrived 0) fun s => s.modQuad 1 fun q => { q with tiles := [(0, tileOf)] }
     s.arrived s.arg.a 6 = some (k, 0) ∧ (match (s.quad 1).checked (bits k.payload 0 64) (bits k.payload 64 32) false with
       | .ok x => x == tileOf
       | .error _ => false) = true ∧ tileOf.state ≠ stAbandoned ∧
      (arriving true k (.arrived 0) id).arrived 0 6 = some (k, 0) ∧ ((arriving true k (.arrived 0) id).quad 1).stage3 (bits k.payload 0 64) false = none ∧ 1 ≤ k.fn.toNat) := by decide +kernel

/-! ### Packets, threads, coherence and the host -/

/-- A die's memory with two words, the second empty. -/
def homed (k : Pkt) : State := { arriving true k (.arrived 0) id with mem := Cells.writeN [] 0x4000 8 (0x1122_3344_5566_7788 : Word), empty := [0x4008] }

theorem witness_HomeRequests :
    ((arriving false (pktOf 1 0 3 0x4000 0 0 0) (.arrived 0) id).admitted 0 3 = false ∧ (arriving false (pktOf 1 0 3 0x4000 0 0 0) (.arrived 0) id).arrived 0 1 = some (pktOf 1 0 3 0x4000 0 0 0, 0)) ∧
    (∀ k ∈ [pktOf 1 0 7 0x4080 0 0 0, pktOf 2 0 8 0x4000 0 0 0, pktOf 5 0 0 0x40FF 0 0 1, pktOf 3 8 3 0x4000 7 0 0, pktOf 4 1 3 0x4000 0 0 0, pktOf 4 0 3 0x4008 0 0 0],
      let s := homed k
      let a := paOf 0 k.off.toNat
      s.arrived 0 k.type = some (k, 0) ∧ s.admitted 0 k.job = true ∧ s.lineFree (a / 256) = true ∧ s.lost a = false ∧ s.holders (paPeer (a / 256 * 256)) (a / 256) = [] ∧ a % 2 ^ k.size.toNat = 0 ∧
        s.poisonIn a (2 ^ k.size.toNat) = false ∧ s.partialPoison a (2 ^ k.size.toNat) = false ∧ s.poisonAt a = false ∧ s.waitersAt 0 a = [] ∧ k.tag ≠ 0xFFFF) ∧
    (feFn 1 (homed (pktOf 4 1 3 0x4000 0 0 0) |>.word 0x4000) ((homed (pktOf 4 1 3 0x4000 0 0 0)).fullAt 0x4000) 0).isSome = true ∧
    (let k := pktOf 4 0 3 0x4008 0 0 0
     let s := homed k
     feFn 0 (s.word 0x4008) (s.fullAt 0x4008) 0 = none ∧ (s.waitersAt 0 0x4008).all (fun f => !s.entryReady 0 f) = true ∧ ((s.die 0).retryList.filter fun f => sliceOf f.pkt.off.toNat == sliceOf k.off.toNat).length < 64 ∧
      64 ≤ (((s.modDie 0 fun d => { d with retryList := List.replicate 64 { pkt := k, loc := .arrived 0 } }).die 0).retryList.filter fun f => sliceOf f.pkt.off.toNat == sliceOf k.off.toNat).length) ∧
    (∀ ty ∈ [(1 : BitVec 8), 2, 3, 5], let k := pktOf ty 0 3 0x4000 0 0 7
     let s := (arriving true k (.hostPort 0) id).modPkg 0 fun x => { x with pcieLanes := 16 }
     s.atHostPort 0 ty = some (k, 0) ∧ (s.pkg 0).pcieLanes ≠ 0 ∧ (s.pkg 0).hostReqs.length < 768) := by decide +kernel

/-- One packet on its way somewhere. -/
def travelling (dst hops : Nat) (loc : Loc) : State := (arriving true { pktOf 1 0 3 0x4000 0 0 0 with dst := BitVec.ofNat 13 dst, hops := BitVec.ofNat 4 hops } loc id).modPkg 1 fun x => { x with routes := [(2, 0x80 + 3)] }

theorem witness_PacketArrivals :
    (∀ x ∈ [(7, Loc.source 5), (8188, .source 5), (8, .source 5), (7, .ring 1 3), (6, .ring 1 1), (7, .router 1 4), (8, .router 1 4)],
      let s := travelling x.1 1 x.2
      s.net[s.arg.a]?.any (fun f => f.loc == x.2 && !s.stopped f && !s.overtakes s.arg.a f && !s.ringBlocked s.arg.a f && !s.behindHeld f && !f.pkt.malformed && !f.pkt.isTree &&
        f.pkt.type != 0x30 && f.pkt.phase && Nat.blt f.pkt.hops.toNat 4 && !(s.gang 1 3).closed (s.comesTo f.pkt).1 (s.comesTo f.pkt).2 f.pkt.vc && !(s.gang 1 3).closed 1092 4 f.pkt.vc) = true) ∧
    (let s := travelling 6 1 (.ring 1 1)
     (s.pkg 1).ringNext 1 2 = some 0 ∧ boundaryOf 1 0 = some (0, 1) ∧ (s.pkg 1).boundarySends 0 1 = true ∧ (s.gang 1 3).closed 1088 0 0 = false ∧ (s.pkg 1).heldDest.mem 2 = false) ∧
    (let s := travelling 8 3 (.router 1 4)
     routeValid ((s.pkg 1).route 2) = true ∧ routePort ((s.pkg 1).route 2) = 3 ∧ ((s.pkg 1).ports.get {} 3).disabled = false ∧ (portTo (neighbour 1 3) 1).any (fun b => !((s.pkg (neighbour 1 3)).ports.get {} b).disabled) = true ∧
      (s.gang (neighbour 1 3) 3).closed 1092 ((portTo (neighbour 1 3) 1).getD 0) 3 = false) ∧
    (∀ x ∈ [(taskPush, 5), (taskPush, 6), (taskSpawn, 5), (taskSev, 5)],
      let k := pktOf 7 x.1 0 x.2 0x7770 (2 ^ 64 * 5) 0
      let s := arriving true k (.arrived 0) id
      s.arrived 0 7 = some (k, 0) ∧ s.admitted 0 3 = true ∧ s.leadFor x.2 3 = x.2 ∧ s.diverts x.2 3 = false ∧ (s.core x.2).crew.bind.lockstep = false ∧ s.holdsCrew x.2 3 = (x.2 == 5) ∧ (s.core x.2).crew.queue.length < 64 ∧
        freeSlot (fun j => s.slot (x.2 * 8 + j)) (s.core x.2).spill = some 0 ∧ (s.slot (x.2 * 8 + k.size.toNat % 8)).ops = []) ∧
    (arriving false (pktOf 7 taskPush 0 5 0 0 0) (.arrived 0) id).admitted 0 3 = false := by decide +kernel

/-- A ticket packet of class 15 come to its die, the class's counters one before a wrap. -/
def ticketing (ty : BitVec 8) (n : Nat) (ws : List Nat) (en : Bool) : State :=
  arriving true (pktOf ty 0 3 15 n 0 0) (.arrived 0) fun s => s.modDie 0 fun d => { d with tickets := [(15, { next := 0xFFFF_FFFF, done := 0xFFFF_FFFE, job := 3, en := en, rows := 5, waiters := ws })] }

theorem witness_TicketEvents :
    (∀ ty ∈ [(8 : BitVec 8), 9, 10, 0x23], let s := ticketing ty 2 [] true
     s.arrived s.arg.a ty = some (pktOf ty 0 3 15 2 0 0, 0) ∧ s.admitted 0 3 = true ∧ ((s.die 0).tickets.get {} 15).en = true ∧ ((s.die 0).tickets.get {} 15).job = 3 ∧
      ((s.die 0).tickets.get {} 15).waiters = []) ∧
    (((ticketing 8 2 [] false).die 0).tickets.get {} 15).en = false ∧ (((ticketing 10 2 [7] true).die 0).tickets.get {} 15).waiters = [7] ∧
    ((2 : BitVec 32) - 0xFFFF_FFFE).toNat < (5 : BitVec 16).toNat ∧ ¬((3 : BitVec 32) - 0xFFFF_FFFE).toNat < (5 : BitVec 16).toNat ∧
    ((ticketing 0x23 2 [] true).die 0).waitersOf (classKey 4 15) = [] := by decide +kernel

/-- A tree packet at package 0's router, its group's parent a port or the root. -/
def atRouter (ty : BitVec 8) (seq : Nat) (parent children : Nat) (f : Group → Group) : State :=
  arriving true (pktOf ty 1 0 5 0x77 seq 0) (.router 0 2) fun s => s.modPkg 0 fun x => { x with
    groups := [(5, f { entry := BitVec.ofNat 128 (parent + children * 2 ^ 6 + 5 * 2 ^ 41 + 2 ^ 48 + 6 * 2 ^ 64 + 3 * 2 ^ 96) })] }

/-- An arrival at a barrier of a scope with some counted and a waiter. -/
def arrivingAt (scope : Nat) (count : BitVec 32) : State :=
  let b : NMap Barrier := [(7, { phase := 0xFFFF_FFFF, count := count, target := 2, waiters := [(33, 4)] })]
  ((({ thread [] with arg := { a := 0, b := 0 } } : State).modDie 0 fun d => { d with arrivals := [{ scope := scope, num := 7, slot := 41, job := 3, opId := 9, waits := false, p := 2 }], barriers := b }).modPkg 0
    fun x => { x with barriers := b }).modSlot 41 (fun t => { t with ops := [opOf 9 (.bara scope 7) .sent] }) |>.modSlot 33 fun t => { t with st := .wait, hold := .localOp 4 }

/-- No thread of the pod waits for an outcome where none has an operation. -/
theorem noWaiters (s : State) (h : s.slots.all (fun e => e.2.ops.isEmpty) = true) (h' : s.cores.all (fun e => e.2.saved.isNone) = true) (p g : Nat) (q : BitVec 32) : s.ctWaiters p g q = [] := by
  have e := List.all_eq_true.1 h
  have e' := List.all_eq_true.1 h'
  unfold State.ctWaiters Slot.ctWaits
  rw [List.append_eq_nil_iff, List.flatMap_eq_nil_iff, List.flatMap_eq_nil_iff]
  refine ⟨fun x hx => ?_, fun x hx => ?_⟩
  · have := e x (List.mem_filter.1 hx).1
    simp_all
  · have := e' x (List.mem_filter.1 hx).1
    simp_all

theorem witness_TreeEvents_up :
    (let s := atRouter 0x10 6 4 12 id
     let x := s.group 0 5
     s.net[s.arg.a]? = some { pkt := pktOf 0x10 1 0 5 0x77 6 0, loc := .router 0 2 } ∧ (∀ ty ∈ [(0x10 : BitVec 8), 0x11, 0x12, 0x13], (pktOf ty 1 0 5 0x77 6 0).malformed = false) ∧ x.valid = true ∧ x.job = 3 ∧ x.seq = 6 ∧ x.child 2 = true ∧ x.sentUp = false ∧ x.isRoot = false ∧
      ({ x with kids := x.kids.set 2 0x77 } : Group).complete = false) ∧
    (let x := (atRouter 0x10 6 4 12 fun g => { g with kids := [(3, 1)], dies := [(0, 1), (2, 1)] }).group 0 5
     ({ x with kids := x.kids.set 2 0x77 } : Group).complete = true) := by decide +kernel

theorem witness_TreeEvents_down :
    (let s := atRouter 0x11 6 4 0 fun g => { g with sentUp := true }
     (∀ d, s.ctWaiters (4 * 0 + d) 5 6 = []) ∧ (∀ j, j < 35 → (s.group 0 5).child j = false)) ∧
    ((atRouter 0x12 6 63 0 id).group 0 5).isRoot = true ∧ ((atRouter 0x12 6 63 0 id).group 0 5).valid = true ∧ ((atRouter 0x12 7 4 0 id).group 0 5).isRoot = false ∧
      ((atRouter 0x12 7 4 0 id).group 0 5).seq ≠ 7 ∧
    (bits (0x6000_0000_0000 - 1 : BitVec 128) 45 3 : BitVec 3).toNat < 6 ∧ 6 ≤ (bits (0xC000_0000_0000 : BitVec 128) 45 3 : BitVec 3).toNat :=
  ⟨⟨fun _ => noWaiters _ (by decide +kernel) (by decide +kernel) _ _ _, by decide +kernel⟩, by decide +kernel⟩

theorem witness_TreeEvents_barriers :
    (let k := { pktOf 0x13 1 0 7 4 0 0 with req := 33 }
     let s := arriving true k (.router 0 3) fun s => s.modSlot 33 fun t => { t with st := .wait, hold := .localOp 4 }
     s.net[s.arg.a]? = some { pkt := k, loc := .router 0 3 } ∧ k.malformed = false ∧ k.dst.toNat / 4 = 0 ∧ k.dst.toNat * 8192 + k.req.toNat = 33 ∧ (s.slot 33).hold = .localOp k.operand.toNat ∧
      (s.core (coreOf 33)).crew.bind.lockstep = false ∧ ({ k with dst := 8 } : Pkt).dst.toNat / 4 ≠ 0) := by decide +kernel

def arrivalHolds (scope : Nat) (count : BitVec 32) : Bool :=
  let s := arrivingAt scope count
  let b := if scope = 2 then (s.die 0).barriers.get {} 7 else (s.pkg 0).barriers.get {} 7
  (s.die 0).arrivals[0]?.any (fun v => v.slot == 41 && !v.waits && v.scope == scope && v.num == 7 && v.p == 2 && (s.slot v.slot).ops.any (·.id == v.opId)) && decide ((s.slot 41).st = .run) &&
    decide ((s.slot 41).hold = .none) && !(s.core (coreOf 41)).crew.bind.lockstep && decide (b.waiters = [(33, 4)]) && b.count == count && b.target == 2 && decide ((s.slot 33).hold = .localOp 4) &&
    !(s.core (coreOf 33)).crew.bind.lockstep

theorem witness_TreeEvents_arrivals : arrivalHolds 2 0 = true ∧ arrivalHolds 2 1 = true ∧ arrivalHolds 3 0 = true ∧ arrivalHolds 3 1 = true := by decide +kernel

/-- An event of the thread's slot. -/
def ofThread (b : Nat) (f : Slot → Slot) : State := { threadWith f with arg := { a := 41, b := b } }

/-- The page tables of job 3: addresses from 0 on are die 0's, those from 1 GiB on the host's. -/
def tables (m : Cells) : Cells :=
  ((m.writeN 0x1_0000 8 (0x1_1001 : Word)).writeN 0x1_1000 8 (0x1_2001 : Word)).writeN 0x1_2000 16 (((0x8007 + hostPeer * 2 ^ 44 : Nat) : BitVec 64) ++ (0x8007 : BitVec 64) : BitVec 128)

theorem witness_ThreadEvents_slot :
    (∀ h ∈ [Hold.none, .localOp 5, .reply 5], let s := ofThread 1 fun t => { t with hold := h, replies := [{ dest := .none }, { dest := .reg 119, value := 0x99, wakes := some 5 }] }
     (s.slot 41).replies[s.arg.b]? = some { dest := .reg 119, value := 0x99, wakes := some 5 } ∧ (s.slot 41).st ≠ .park ∧ (s.slot 41).st ≠ .frozen ∧ (s.core (coreOf 41)).crew.bind.lockstep = false) ∧
    (let s := ofThread 0 fun t => { t with st := .exiting }
     let b := (s.core (s.slot 41).par.home).crew.bind
     (s.slot 41).ops = [] ∧ (s.slot 41).replies = [] ∧ (s.slot 41).noPending = true ∧ b.valid = true ∧ b.job = (s.slot 41).job ∧ b.launch = (s.slot 41).par.launch ∧ b.parcel = (s.slot 41).par.parcel) ∧
    (let s := ofThread 0 fun t => { t with st := .wait, hold := .scope 3 5 }
     (s.slot 41).st = .wait ∧ (s.slot 41).hold = .scope 3 5 ∧ (s.slot 41).window 3 = 0) ∧
    (let s := ofThread 0 fun t => { t with st := .wait, hold := .reissue, wto := 0, waited := 1 }
     (s.slot 41).hold = .reissue ∧ max 1 (s.slot 41).wto.toNat ≤ (s.slot 41).waited) ∧
    (let s := ofThread 0 fun t => { t with st := .wait, hold := .localOp 9, wto := 0xFF_FFFF_FFFF, waited := 0xFF_FFFF_FFFE }
     (s.slot 41).waited < max 1 (s.slot 41).wto.toNat) ∧
    (let o := { opOf 9 (.mbxr 1) .waiting with dest := .reg 3 }
     let s := ofThread 0 fun t => { t with st := .wait, hold := .localOp 9, wto := 9, waited := 9, ops := [o] }
     s.waitOver 41 = false ∧ (s.slot 41).ops = [o] ∧ o.kind ≠ .migr ∧ max 1 (s.slot 41).wto.toNat ≤ (s.slot 41).waited ∧ o.flag = none) ∧
    (∀ m ∈ [(0 : BitVec 4), 2], let o := { opOf 9 (.semv 7) .held with mask := m, seq := 0xFFF0, need := 0xFFFF_0000 }
     let s := ofThread 9 fun t => { t with ops := [o] }
     (s.gang (peerOfSlot 41 / 4) (s.slot 41).job).phase.bars = false ∧ o.dest = .none ∧ s.arg.b = o.id ∧ (s.slot 41).hold = .none ∧
      ((List.range 8).all fun j => coreOf 41 * 8 + j == 41 || (s.slot (coreOf 41 * 8 + j)).ops.isEmpty) = true ∧ (s.slot 41).maskMet o = (m == 0)) := by decide +kernel

theorem witness_ThreadEvents_die :
    (let o := { opOf 9 .migr .held with flag := some 2, a := 0x12345 }
     let s := ((ofThread 9 fun t => { t with ops := [o], st := .wait, hold := .localOp 9, pendF := 4 }).tlbPut 5 3 0x12345 { frame := 0x40_0000, shift := 16, x := true, w := true, nc := false, geo := 0, fmt := 0 }).modDie 0
       fun d => { d with partMap := [(0, 1)], jobPart := [(3, 0)] }
     (s.slot 41).ops = [o] ∧ ((s.slot 41).markF (some 2) false).noPending = true ∧ (match s.translateNow 5 3 o.a false with
       | .ok l => paPeer (l.pa o.a) != hostPeer && s.accessRefused 41 (l.pa o.a) == none && s.coreRefused 41 (BitVec.ofNat 64 (s.migrTarget 3 o.a (l.pa o.a))) == none
       | .error _ => false) = true) ∧
    (let w : Walk := { quad := 1, slot := 41, opId := 0, part := 16, job := 3, va := 0x12345, write := false, fetch := true }
     let s := ({ thread [] with mem := tables [] } : State).modDie 0 fun d => { d with jroot := [(3, 0x1_0001)], peerState := [(0, 1)], walks := [w] }
     (s.die 0).walks = [w] ∧ (s.die 0).walkQueue = [] ∧ peerOf w.quad = 0 ∧ w.quad = quadOf (coreOf w.slot) ∧ (match walk s 0 w.job w.va w.write w.fetch with
       | .ok _ => true
       | .error _ => false) = true ∧ (s.gang 0 w.job).phase.bars = false) ∧
    (let v : SvcOp := { core := 5, wc := 0x8000_0000_0003_FFF8, op := 0x123, arg := 0, code := some 5 }
     let s := (thread []).modDie 0 fun d => { d with svcs := [v, { v with wc := 0 }] }
     (s.die 0).svcs[0]? = some v ∧ (s.die 0).svcs[1]?.any (fun v => v.wc == 0) = true ∧ v.wc ≠ 0 ∧ localPlace v.core v.wc = .stash 5 0x3_FFF8 ∧ s.boundHere 5 0x3_FFF8 = none ∧ s.stashWaiters 5 0x3_FFF8 = [] ∧
      s.memoryOk = true) := by decide +kernel

/-- A response for the thread's operation. -/
def answered (k : Pkt) (o : Op) (h : Hold) : State := arriving true k (.arrived 0) fun s => s.modSlot 41 fun t => { t with ops := [o], hold := h }
def respOf (ty : BitVec 8) (fn : BitVec 4) (job operand payload : Nat) : Pkt := { pktOf ty fn 3 0 operand payload 0 with req := 41, tag := tagOf 9 0, ordered := false, job := BitVec.ofNat 12 job }

theorem witness_Responses_stray : [(0x20 : BitVec 8), 0x21, 0x22].all (fun ty => ((answered (respOf ty 0 7 0 0) (opOf 9 (.mbxw 3) .sent) .none).slot 41).spawns.isEmpty) = true := by decide +kernel

theorem witness_Responses :
    (∀ ty ∈ [(0x20 : BitVec 8), 0x21, 0x22], let k := respOf ty 0 7 0 0
     let s := answered k (opOf 9 (.mbxw 3) .sent) .none
     s.response s.arg.a ty = some (k, 0) ∧ k.tag ≠ 0xFFFF ∧ k.requester = 41 ∧ (s.slot 41).job ≠ k.job ∧ (s.core (coreOf 41)).saved = none) ∧
    (let k := respOf 0x20 0 3 1 0
     let o := { opOf 9 .qpush .sent with flag := some 3 }
     let s := answered k o .none
     s.response 0 0x20 = some (k, 0) ∧ (s.slot 41).ops = [o] ∧ o.awaits k.tag = true ∧ (s.slot 41).job = k.job ∧ o.dest = .none) ∧
    (∀ n ∈ [1, 2, 4, 8], let k := respOf 0x20 0 3 0 0xF8F9_FAFB_FCFD_FEFF
     let x : Part := { lane := 0, va := 0x1000, size := n, pa := some 0x1000, phase := .sent }
     let o := { opOf 9 (.load n true) .sent with dest := .reg 5, parts := [x] }
     let s := answered k o .none
     (s.slot 41).ops = [o] ∧ o.awaits k.tag = true ∧ x.lane = k.tag.toNat % 16 ∧ k.poison = false ∧ k.size ≠ 8 ∧ (k.payload.setWidth 64 : Word) ≠ poisonWord) ∧
    (∀ x ∈ [((0x21 : BitVec 8), (0 : BitVec 4), Hold.reply 9), (0x22, 1, .reply 9), (0x22, 2, .none)], let k := respOf x.1 x.2.1 3 0 0
     let o := { opOf 9 (.mbxw 3) .sent with a := 0x1234 }
     let s := answered k o x.2.2
     s.response 0 x.1 = some (k, 0) ∧ (s.slot 41).ops = [o] ∧ o.awaits k.tag = true ∧ o.dest = .none ∧ o.parts = [] ∧ (s.slot 41).hold = x.2.2 ∧ s.ownCore 41 o.a = false ∧ (s.slot 41).st = .run ∧
      (s.core (coreOf 41)).crew.bind.lockstep = false) ∧
    (let o := { opOf 9 (.mbxw 3) .waiting with a := 0x1234, delay := 8192 }
     let s := ofThread 9 fun t => { t with ops := [o] }
     (s.slot 41).ops = [o] ∧ s.arg.b = o.id ∧ o.phase = .waiting ∧ s.ownCore 41 o.a = false ∧ (s.gang (peerOfSlot 41 / 4) 3).phase.bars = false) := by decide +kernel

/-- One coherence message at die 0 about line 0x40, its entry and a quad's line. -/
def coherent (m : CohMsg) (e : Option DirEntry) (ln : Option Line) : State :=
  ((thread []).modDie 0 fun d => { d with coh := [m], dir := match e with
    | some e => [(0x40, e)]
    | none => [] }).modQuad 3 fun q => { q with lines := match ln with
    | some x => [(0x40, x)]
    | none => [] }
def lineOf (st : LineState) (dirty : BitVec 2) : Line := { state := st, data := 77, full := 5, poison := 0, dirty := dirty }

/-- No region is bound where every entry of every core says so. -/
theorem unbound (s : State) (h : s.cores.all (fun e => e.2.crew.regions.all fun r => !r.2.bound) = true) (c i : Nat) : (s.region c i).bound = false := by
  have mem : ∀ {V : Type} (m : NMap V) (k : Nat) (v : V), m.find k = some v → (k, v) ∈ m := by
    intro V m
    induction m with
    | nil => intro k v e; cases e
    | cons x m ih =>
      intro k v e
      simp only [NMap.find] at e
      split at e
      · rename_i hk; cases e; subst hk; exact List.mem_cons_self
      · exact List.mem_cons_of_mem _ (ih k v e)
  unfold State.region State.core NMap.get
  cases e : s.cores.find c with
  | none => rfl
  | some x =>
    have hx := List.all_eq_true.1 (List.all_eq_true.1 h _ (mem _ _ _ e))
    show ((x.crew.regions.find i).getD {}).bound = false
    cases f : x.crew.regions.find i with
    | none => rfl
    | some r => simpa using hx _ (mem _ _ _ f)

theorem witness_CoherenceEvents_quiet : (∀ c i, quadOf c = quadKey 0 3 → ((coherent (.read 3 0x40) none none).region c i).bound = false) ∧
    ∀ n, n < 32 → ((coherent (.read 3 0x40) none none).slot (quadKey 0 3 * 32 + n)).ops = [] := ⟨fun c i _ => unbound _ (by decide) c i, by decide⟩

theorem witness_CoherenceEvents :
    (let s := coherent (.read 3 0x40) (some { owned := true, ptrs := [(0, 4)] }) none
     let e := (s.die 0).dir.get {} 0x40
     (s.die 0).coh[s.arg.b]? = some (.read 3 0x40) ∧ s.mustWait 0 3 0x40 = false ∧ e.owned = true ∧ e.owner = 4) ∧
    (let s := coherent (.read 3 0x40) none none
     s.mustWait 0 3 0x40 = false ∧ ((s.die 0).dir.get {} 0x40).owned = false ∧ (∀ x ∈ (s.quad (quadKey 0 3)).lines, x.1 % 256 ≠ 0x40 % 256)) ∧
    (let s := coherent (.write 3 0x40) (some { ptrs := [(0, 9), (2, 3), (3, 7)] }) none
     s.mustWait 0 3 0x40 = false ∧ ((s.die 0).dir.get {} 0x40).invalidationSet 3 ≠ []) ∧
    (({} : DirEntry).invalidationSet 3 = [] ∧ (coherent (.write 3 0x40) none none).mustWait 0 3 0x40 = false) ∧
    (let s := coherent (.recall 3 0x40 true) none (some (lineOf .owned 3))
     (s.die 0).coh[s.arg.b]? = some (.recall 3 0x40 true) ∧ s.line (quadKey 0 3) 0x40 = some (lineOf .owned 3) ∧ s.mem.wf = true ∧ (coherent (.recall 3 0x40 true) none none).line (quadKey 0 3) 0x40 = none) ∧
    (let e : DirEntry := { ptrs := [(0, 9)], busy := true, waitAcks := [3, 7], req := some (5, true) }
     let s := coherent (.ack 3 0x40) (some e) none
     (s.quad (quadKey 0 3)).notices.mem 0x40 = false ∧ (s.die 0).dir.find 0x40 = some e ∧ e.waitAcks.remove 3 ≠ [] ∧ ({ e with waitAcks := [3] } : DirEntry).waitAcks.remove 3 = [] ∧ e.evicting = false ∧
      e.req = some (5, true) ∧ ({ e with evicting := true } : DirEntry).evicting = true) ∧
    (coherent (.grant 3 0x40) none (some (lineOf .shared 0))).line (quadKey 0 3) 0x40 = some (lineOf .shared 0) ∧
    ((coherent (.notice 3 0x40) (some { ptrs := [(0, 9), (2, 3)] }) none).die 0).dir.find 0x40 = some { ptrs := [(0, 9), (2, 3)] } ∧
    ((coherent (.notice 3 0x40) (some { coarse := true, groups := 5 }) none).die 0).dir.find 0x40 = some { coarse := true, groups := 5 } := by decide +kernel

/-- A bound region's line not yet filled, in the quad's cache. -/
def filled : State := { ((coherent (.inval 9 9) none none).modQuad 3 fun q => { q with lines := [(0x100, lineOf .shared 0)] }).modRegion 13 7 fun r => { r with bound := true, pa := 0x8100, base := 0x10_0000 } with arg := { a := 13, b := 128 * 7 + 127 } }

theorem witness_RegionFill :
    (filled.region 13 7).bound = true ∧ (filled.region 13 7).pa / 256 + 127 = 0x100 ∧ filled.lineFree 0x100 = true ∧ filled.fillRefused 13 7 127 = none ∧
    (filled.modRegion 13 7 fun r => { r with pa := 2 ^ 44 + 0x8100 }).fillRefused 13 7 127 ≠ none ∧ (filled.modRegion 13 7 fun r => { r with pa := 2 ^ 44 + 0x8100 }).lineFree (2 ^ 36 + 0x100) = true ∧ filled.line (quadOf 13) 0x100 = some (lineOf .shared 0) ∧ filled.stashPoison = [] ∧ filled.writing (quadOf 13) 0x100 = false ∧
    (∀ n, n < 32 → (filled.slot (quadOf 13 * 32 + n)).ops = []) ∧ filled.memoryOk = true ∧ (lineOf .shared 0).poison = 0 ∧
    (∀ c ∈ [12, 14, 15], ∀ i, i < 8 → (filled.region c i).bound = false) := by decide +kernel

/-! ### Host, queues, gangs and packages -/

/-- Package 0 under power, a host access of package 0 in the argument. -/
def hosted (b c : Nat) (v : BitVec 128) (f : Pkg → Pkg := id) : State :=
  { (thread []).modPkg 0 (fun x => f { x with power := .on, pcieLanes := 16, barSize := 0x80_0000_0000 }) with arg := { a := 0, b := b, c := c, value := v, bytes := [1, 2, 3] } }

theorem witness_HostAccess_outside :
    (let s := hosted (2 ^ 40) 8 0
     (s.pkg 0).pcieLanes ≠ 0 ∧ (s.pkg 0).power = .on ∧ s.postedTo 0 = false ∧ s.barPlace 0 s.arg.b 8 = none ∧ s.barPlace 0 s.arg.b s.arg.bytes.length = none ∧ s.arg.bytes ≠ []) := by decide +kernel

theorem witness_HostAccess_inside :
    (let s := hosted 0x3FFC 16 0
     s.barPlace 0 s.arg.b 16 = some 0x3FFC ∧ (∀ l ∈ linesOf 0x3FFC 16, s.holders (paPeer (l * 256)) l = []) ∧ s.allFree 0x3FFC 16 = true ∧ s.poisonIn 0x3FFC 16 = false ∧
      s.barPlace 0 s.arg.b 3 = some 0x3FFC ∧ s.partialPoison 0x3FFC 3 = false) ∧
    (let s := (hosted 0x3FFC 16 0).modDie 0 fun d => { d with dir := [(0x3F, { busy := true })] }
     s.barPlace 0 s.arg.b 3 = some 0x3FFC ∧ s.allFree 0x3FFC 3 = false) := by decide +kernel

/-- How notify takes a value for queue 5 whose ring has eight places, packets 2 and 3 in it: dropped, no news, or new packets. -/
def notified (v : Word) : Nat :=
  let q : Queue := { cfg := 0x43, ridx := 2, widx := 4 }
  let wi : BitVec 32 := bits v 16 32
  if (bits v 0 16 : BitVec 16).toNat == 5 && q.enabled && !q.failed && (bits v 48 16 : BitVec 16) == 0 && Nat.ble (wi - q.ridx).toNat (2 ^ q.lgn) then
    (if Nat.blt (wi - q.widx).toNat (2 ^ 31) then 2 else 1) else 0

theorem witness_HostAccess_notify : notified 0xA_0005 = 2 ∧ notified 0x3_0005 = 1 ∧ notified 0xB_0005 = 0 := by decide +kernel

theorem witness_HostAccess_qcfg : [(0x41 : Word), 0x50, 0x40, 0x51].map (fun v => (v.getLsbD 6, (v &&& 0xFFFF_0FFF_0000_01DF).toNat % 32)) = [(true, 1), (true, 16), (true, 0), (true, 17)] := by
  decide +kernel

theorem witness_HostAccess_completion :
    (let k : Pkt := { type := 1, job := 3, src := 4, dst := 8188, off := 0x4000, size := 7, tag := 0x33, req := 0x44 }
     let s := hosted 1 0 0 fun x => { x with hostReqs := [{}, { pkt := some k }] }
     (s.pkg 0).hostReqs[s.arg.b]? = some { pkt := some k } ∧ k.size.toNat < 8 ∧ (s.gang 0 k.job).marked = false) := by decide +kernel

/-- Queue 5 of job 3, its ring in host memory with the given packet next, the page tables of `tables`. -/
def queued (b : Nat) (q : Queue) (dw : List Word) (f : Pkg → Pkg := id) : State :=
  let s := hosted b 0 0 fun x => f { x with queues := [(5, q)] }
  { s with mem := (dw.zipIdx).foldl (fun (m : Cells) (d : Word × Nat) => m.writeN (paOf hostPeer 0x1000 + 8 * d.2) 8 d.1) (tables s.mem) }.modDie 0
    fun d => { d with jroot := [(3, 0x1_0001)], peerState := [(0, 1), (hostPeer, 1)], partMap := [(0, 1)], jobPart := [(3, 0)] }

def ring : Queue := { cfg := 0x0030_0000_0000_0043, qbase := 0x4000_1000 - 64 * 2, qridx := 0x4000_0800, ridx := 2, widx := 4, nextId := 7 }

/-- A packet of a type with its valid bit and sequence number, job 3, then the given dwords. -/
def packet (ty sq : Nat) (l : List Word) : List Word :=
  let l := BitVec.ofNat 64 (ty + 0x8000 + 3 * 2 ^ 32 + sq * 2 ^ 48) :: l
  l ++ List.replicate (8 - l.length) 0

def packetFound (wait : Bool) (dw : List Word) (bad : Bool) : Bool :=
  let s := queued 5 { ring with wait := wait } dw
  let q := s.queue 0 5
  decide (s.frontUp 0 = true) && q.wait == wait && q.reads && !q.full && (match s.readPacket 0 q with
    | .ok (pa, d) => paPeer pa == hostPeer && d == dw
    | .error _ => false) && (pktCode q dw).isSome == bad && (bad || s.pktXlate 0 q dw) && (match s.feWalk 0 q.job q.qridx true with
    | some rpa => paPeer rpa == hostPeer
    | none => false)

theorem witness_QueuePackets_read : packetFound false (packet 3 2 [0x4000, 5]) false = true ∧ packetFound true (packet 3 2 [0x4000, 5]) false = true ∧
    packetFound true (packet 3 3 [0x4000]) true = true ∧ (dwOf (packet 3 2 []) 0).getLsbD 15 = true := by decide +kernel

theorem witness_QueuePackets_unset : (let dw : List Word := [0x2_0003_0000_0003, 0, 0, 0, 0, 0, 0, 0]
    (match (queued 5 ring dw).readPacket 0 ring with
      | .ok (_, d) => d == dw
      | .error _ => false) = true ∧ (dwOf dw 0).getLsbD 15 = false) := by decide +kernel

/-- The word's home is a die of the package, its line free and held by no quad. -/
def homeAt (s : State) (pa : Nat) : Bool := paPeer pa != hostPeer && s.lineFree (pa / 256) && s.holders (paPeer (pa / 256 * 256)) (pa / 256) == []

theorem witness_QueuePackets_begin :
    (let s := queued 5 { ring with consumed := some (packet 2 2 [0x4000, 5]) } []
     (s.queue 0 5).consumed = some (packet 2 2 [0x4000, 5]) ∧ (s.queue 0 5).failed = false ∧ (s.queue 0 5).barred = false ∧ (s.queue 0 5).dep = none) := by decide +kernel

def signals (k : Word) : State := queued 1 { ring with cfg := ring.cfg ||| 0x9_0000_0100, running := [3, 4] } []
  fun x => { x with works := [{ q := 1, id := 1, dw := [] }, { q := 5, id := 3, dw := packet 3 2 [0x4000, 5, k] }] }

def signalFound (k : Word) : Bool :=
  let s := signals k
  let dw := packet 3 2 [0x4000, 5, k]
  (s.pkg 0).works[s.arg.b]? == some { q := 5, id := 3, dw := dw } && pktType dw == 3 && (dwOf dw 3).toNat % 4 == k.toNat && (match s.fePlace 0 (pktJob dw) (dwOf dw 1) true with
    | .ok pa => pa == 0x4000
    | .error _ => false) && homeAt s 0x4000 && !s.poisonAt 0x4000

theorem witness_QueuePackets_signal : signalFound 0 = true ∧ signalFound 1 = true ∧ signalFound 2 = true := by decide +kernel

def dependFound (c k : Word) : Bool :=
  let w : Work := { q := 5, id := 3, dw := packet 2 2 [0x4000, c, k] }
  let s := queued 5 { ring with dep := some 3, running := [3] } [] fun x => { x with works := [w] }
  (s.pkg 0).works == [w] && pktType w.dw == 2 && (s.queue 0 5).dep == some w.id && !(s.queue 0 5).failed && (s.pkg 0).hostReqs == [] && Nat.blt (pktAcquire w.dw) 3 &&
    (match s.fePlace 0 (pktJob w.dw) (dwOf w.dw 1) false with
      | .ok pa => pa == 0x4000
      | .error _ => false) && homeAt s 0x4000 && !s.poisonAt 0x4000 && s.word 0x4000 == 0 && (dwOf w.dw 3).toNat % 4 == k.toNat

theorem witness_QueuePackets_depend : [(0 : Word), 1, 2, 3].all (fun k => dependFound 0 k && dependFound 5 k) = true := by decide +kernel

def copyFound (moved : Nat) : Bool :=
  let w : Work := { q := 5, id := 3, dw := packet 4 2 [0x4008, 0x5010, 0x400], moved := moved }
  let s := queued 0 { ring with running := [3] } [] fun x => { x with works := [w] }
  let m := pieceOf w.dw w.moved
  let at' := fun (i : Nat) (wr : Bool) (pa : Nat) => match s.fePlace 0 (pktJob w.dw) (dwOf w.dw i + BitVec.ofNat 64 moved) wr with
    | .ok x => x == pa
    | .error _ => false
  (s.pkg 0).works[s.arg.b]? == some w && pktType w.dw == 4 && Nat.blt (moved + m) (copyLen w.dw) && (s.pkg 0).hostReqs == [] && at' 1 false (0x4008 + moved) && at' 2 true (0x5010 + moved) &&
    homeAt s (0x4008 + moved) && homeAt s (0x5010 + moved) && Nat.ble ((0x4008 + moved) % 256 + m) 256 && Nat.ble ((0x5010 + moved) % 256 + m) 256 && s.poison == []

theorem witness_QueuePackets_copy : copyFound 0 = true ∧ copyFound 248 = true := by decide +kernel

/-- A LAUNCH of ten by three by two parcels. -/
def launchOf : List Word := packet 1 2 [0x4000, 10 + 2 ^ 21 * 3 + 2 ^ 42, 4 + 2 ^ 16 + 2 ^ 32 + 3 * 2 ^ 48, 0x4000, 0x100]

theorem witness_QueuePackets_launch :
    (let w : Work := { q := 5, id := 3, dw := launchOf }
     let s := queued 5 { ring with running := [3] } [] fun x => { x with works := [w] }
     (s.pkg 0).works = [w] ∧ pktType w.dw = 1 ∧ Nat.blt 0 (parcelsOf w.dw) = true ∧ (s.pkg 0).launches = [] ∧ (match s.readConsts 0 (pktJob w.dw) (dwOf w.dw 4) 7 with
       | .ok (u, c) => u == s && c.length == 7
       | .error _ => false) = true) := by decide +kernel

theorem witness_QueuePackets_accept :
    (let s := queued 5 { ring with full := true } launchOf
     let q := s.queue 0 5
     let w : Work := { q := 5, id := q.nextId, dw := launchOf }
     let read := s.modQueue 0 5 fun q => { q with ridx := q.ridx + 1, wait := false, full := false, nextId := q.nextId + 1, running := q.running.insert w.id }
     let u := { read.modPkg 0 fun x => { x with works := [w] } with
       mem := (s.mem.writeN (paOf hostPeer 0x1000) 8 (dwOf launchOf 0 &&& ~~~0x8000)).writeN (paOf hostPeer 0x800) 8 ((q.ridx + 1).setWidth 64 : Word) }
     (match s.readPacket 0 q with
       | .ok (pa, d) => pa == paOf hostPeer 0x1000 && d == launchOf
       | .error _ => false) = true ∧ q.full = true ∧ q.reads = true ∧ (dwOf launchOf 0).getLsbD 15 = true ∧ pktType launchOf = 1 ∧ pktCode q launchOf = none ∧ s.pktXlate 0 q launchOf = true ∧
      s.feWalk 0 q.job q.qridx true = some (paOf hostPeer 0x800) ∧ pktBarrier launchOf = false ∧ pktAcquire launchOf = 0 ∧ Nat.blt 0 (parcelsOf launchOf) = true ∧
      (s.gang 0 (pktJob launchOf)).phase.bars = false ∧ (s.pkg 0).works = [] ∧ (s.pkg 0).launches = [] ∧ (s.pkg 0).queues.all (fun e => e.1 == 5) = true ∧ Nat.blt (s.pkg 0).slotsTaken 64 = true ∧
      (match u.readConsts 0 (pktJob launchOf) (dwOf launchOf 4) 7 with
       | .ok (u', c) => u' == u && c.length == 7
       | .error _ => false) = true) := by decide +kernel

/-- Package 0 alone in job 3's partition (or with package 1), the job's switch state given. -/
def ganged (g : Gang) (two : Bool := false) (f : State → State := id) : State :=
  let s := ((thread []).modPkg 0 fun x => { x with power := .on }).modDie 0 fun d => { d with
    peerState := if two then [(0, 1), (4, 1)] else [(0, 1)], partMap := [(0, if two then 0x11 else 1)], jobPart := [(3, 0)], cobalt := true }
  { (f s).modGang 0 3 (fun _ => g) with arg := { a := 0, b := 3 } }

def command (op : BitVec 4) : GangCmd := { op := op, job := 3, save := 0x10_0000, instId := 9, pkg := 0 }

theorem witness_GangEvents_packets : [(0 : Word), 1, 2].all (fun op =>
    let w : Work := { q := 5, id := 3, dw := packet 5 2 [3 + op * 2 ^ 12, 0x77, 9] }
    let s := { (ganged {}).modPkg 0 (fun x => { x with works := [w] }) with arg := { a := 0, b := 0 } }
    (s.pkg 0).works[s.arg.b]? == some w && pktType w.dw == 5 && (bits (dwOf w.dw 1) 12 4 : BitVec 4) == op.setWidth 4) = true := by decide +kernel

def startable (op : BitVec 4) (ph : GangPhase) : Bool :=
  let s := ganged { phase := ph, instId := 9 } false fun s => s.modPkg 0 fun x => { x with anchor := [command op, command 1] }
  (s.pkg 0).anchor == [command op, command 1] && !(s.pkg 0).current.has 3 && !s.repairing 0 3 && s.partition 0 3 == [0] && !(command op).badState (s.gang 0 3)

theorem witness_GangEvents_start : startable 0 .none = true ∧ startable 1 .out = true ∧ startable 2 .out = true ∧
    ({ command 1 with svc := some (0, 5, 0x9000) } : GangCmd).badState {} = true ∧ (command 2).queue = none ∧ (command 2).svc = none := by decide +kernel

theorem witness_GangEvents_freeze :
    (let s := ganged { order := .freeze }
     (s.gang 0 3).order = .freeze ∧ (s.gang 0 3).phase.bars = false ∧ s.canFreeze 0 3 = true ∧ s.openGroups 0 3 = [] ∧ s.ofJob 0 3 41 = true ∧ s.ofJob 0 3 48 = false ∧ s.net = []) := by decide +kernel

/-- A request of job 3. -/
def asked : Pkt := { type := 1, job := 3, src := 0, dst := 1, off := 0x4000, size := 3 }

theorem witness_GangEvents_sweep :
    (let s := ganged { order := .sweep, phase := .mark } false fun s => { s with net := [{ pkt := asked, loc := .source 0 }, { pkt := { asked with job := 4 }, loc := .source 0 }] }
     (s.gang 0 3).order = .sweep ∧ (s.gang 0 3).phase = .mark ∧ s.net.map (fun f => f.sweeps 0 3) = [true, false]) ∧
    (let s := ganged { order := .sweep, phase := .sweep, marks := List.range 8 } true
     (s.gang 0 3).order = .sweep ∧ (s.gang 0 3).phase = .sweep ∧ s.sweptNow 0 3 ≠ []) ∧
    (let s := ganged { order := .mark, phase := .freeze, instId := 9 } true
     (s.gang 0 3).order = .mark ∧ (s.gang 0 3).phase = .freeze ∧ s.openGroups 0 3 = [] ∧ (∀ f ∈ s.net, f.pkt.isTree = true → f.pkt.job ≠ 3) ∧ s.markedPorts 0 3 ≠ []) := by decide +kernel

theorem witness_GangEvents_save :
    (ganged { order := .save, phase := .sweep, save := 0x10_0000 }).arrivalsDone 3 = true ∧ Nat.ble (0x10_0000 + partBytes) dramEnd = true ∧ Nat.blt dramEnd ((0xFFF_FFFF_0000 : BitVec 44).toNat + partBytes) = true ∧
    ((ganged { order := .release, phase := .save }).pkg 0).jobRequests 3 = false ∧
    ((ganged { order := .release, phase := .save } false fun s => s.modPkg 0 fun x => { x with hostReqs := [{ kind := reqThread, pkt := some asked }] }).pkg 0).jobRequests 3 = true := by decide +kernel

def reports (o ph : GangPhase) (two : Bool) : Bool :=
  let s := ganged { order := o, phase := ph, done := true } two fun s => s.modPkg 0 fun x => { x with current := [(3, command 0)] }
  s.anchorOf 0 3 == 0 && (s.pkg 0).current.find 3 == some (command 0) && (s.gang 0 3).complete && !(s.gang 0 3).told && !s.heldForRepair 0 3 && s.partition 0 3 == (if two then [0, 1] else [0]) &&
    !(s.gang 1 3).told

theorem witness_GangEvents_phases : reports .freeze .freeze false = true ∧ reports .mark .mark false = true ∧ reports .sweep .sweep false = true ∧ reports .save .save false = true ∧
    reports .restore .restore false = true ∧ reports .restore .restore true = true := by decide +kernel

/-- A record of a unit. -/
def recordAt (unit : Nat) : SweepRec := { unit := unit, input := 4, vc := 0, index := 0, pkt := asked, loc := .source 0 }

theorem witness_GangEvents_in : (ganged { order := .restore, phase := .out, save := 0x10_0000 }).namedFree 0 3 = true ∧
    (let g : Gang := { order := .restore, phase := .restore, sweep := [recordAt 5, recordAt 5, recordAt 6], late := [recordAt 1093] }
     (∀ c ∈ [0, 2], (g.sweep[c]?).any (fun r => (g.sweep.take c).all fun x => x.unit != r.unit) = true) ∧ { g with sweep := [] }.late = [recordAt 1093] ∧ g.order = .restore ∧ g.phase = .restore) ∧
    (∀ e ∈ (ganged { order := .admitted, phase := .restore, done := true } false fun s => s.modCore 5 fun c => { c with crew := {} }).cores, e.2.runs 3 = false) := by decide +kernel

theorem witness_GangEvents_repair :
    (let s := { ((ganged {}).modCore 5 fun c => { c with crew := {} }).modSlot 41 (fun t => { t with st := .free }) with arg := { a := 5, good := true } }
     (s.pkg 0).repair = none ∧ (s.pkg 0).power = .on ∧ s.jobsOn 0 = [] ∧ s.arg.good = true) ∧
    (let s := { ((((ganged {}).modCore 5 fun c => { c with crew := {} }).modSlot 41 fun t => { t with st := .free }).modPkg 0 fun x => { x with repair := some { core := 5, jobs := [] } }) with arg := { a := 5, good := true } }
     (s.pkg 0).repair = some { core := 5, jobs := [] } ∧ s.jobsOn 0 = [] ∧ (s.core 5).crew.bind.lockstep = false ∧ (s.quad (quadOf 5)).lines = [] ∧ (s.die 0).dir = [] ∧ (s.die 0).spareRow = some 0) := by decide +kernel

/-- A launch of ten parcels of job 3 on threads 0 and 2, two of seven left of its die's range. -/
def launched : Launch := { q := 5, id := 3, dw := [0, 0x9000, 10, 1 + 2 ^ 16 + 5 * 2 ^ 48, 0, 0x100, 0, 0], job := 3, prio := 2, total := 10, accepted := 0 }

def cobalt (a b : Nat) (f : State → State := id) : State :=
  let s := ((ganged {}).modPkg 0 fun x => { x with launches := [(0, launched)] }).modDie 0 fun d => { d with launches := [(0, { consts := [1, 2, 3, 4, 5, 6, 7], range := rangeWord 3 9, share := true })] }
  { f s with arg := { a := a, b := b } }

theorem witness_CobaltEvents_bind :
    (let s := cobalt 0 6 fun s => s.modCore 6 fun c => { c with ran := true, lastJob := 3 }
     s.cobaltUp 0 = true ∧ s.bindable 6 = true ∧ s.firstLaunch 0 = some (0, launched) ∧ lockstepOf launched.dw = false ∧ s.resumesFirst 6 launched.prio = false ∧ (s.dieLaunch 0 0).redo = [] ∧
      (s.dieLaunch 0 0).lo = 3 ∧ (s.dieLaunch 0 0).hi = 9 ∧ (s.core 6).ran = true ∧ (s.core 6).lastJob = launched.job) := by decide +kernel

/-- Only quads 1 and beyond the first are retired but one; the other cores of that quad are taken. -/
def crowded : State := cobalt 0 5 fun s => (([4, 6, 7].foldl (fun (s : State) c => s.modSlot (8 * c) fun t => { t with st := .run, job := 1 }) s).modCore 5 fun c => { c with cycle := 100000 }).modDie 0
  fun d => { d with remap := (List.range 256).map fun n => (n, if n = 1 then 0x8001 else 0) }

theorem crowded_quads : ∀ n, n < 256 → n ≠ 1 → (crowded.die 0).quadValid n = false := by decide +kernel

theorem witness_CobaltEvents_preempt :
    State.waitingLaunch 0 65 crowded = some launched ∧ crowded.cobaltUp 0 = true ∧ crowded.preemptible 5 launched.prio = true ∧ (crowded.core 5).crew.bind.lockstep = false ∧
      (∀ i, i < 1024 → crowded.bindable (0 * 1024 + i) = false) ∧ crowded.cores.all (fun e => e.1 == 5 || !crowded.preemptible e.1 launched.prio) = true ∧ crowded.before 5 5 = true := by
  refine ⟨by decide +kernel, by decide +kernel, by decide +kernel, by decide +kernel, fun i h => ?_, by decide +kernel, by decide +kernel⟩
  by_cases e : i / 4 = 1
  · have : i = 4 ∨ i = 5 ∨ i = 6 ∨ i = 7 := by omega
    rcases this with rfl | rfl | rfl | rfl <;> decide +kernel
  · have q : quadNo (quadOf (0 * 1024 + i)) = i / 4 := by unfold quadNo quadOf; omega
    have z : (0 * 1024 + i) / 1024 = 0 := by omega
    unfold State.bindable
    rw [q, z, crowded_quads _ (by omega) e]
    rfl

theorem witness_CobaltEvents_saved :
    (let s := cobalt 5 0 fun s => s.modCore 5 fun c => { c with halting := true }
     (s.core 5).halting = true ∧ (s.core 5).crew.bind.valid = true ∧ (s.core 5).crew.matrix = [] ∧ s.areaOk 5 = true ∧ (s.gang 0 3).phase.bars = false ∧ (s.quad (quadOf 5)).replay = none ∧
      s.cores.all (fun e => e.2.crew.regions.all fun r => !r.2.bound) = true) ∧
    (let s := cobalt 5 0 fun s => s.modCore 6 fun c => { c with saved := some { crew := { c.crew with bind := { c.crew.bind with job := 3 } }, slots := [{}] } }
     let s := { s with arg := { a := 6 } }
     (s.core 6).saved.any (fun v => !v.crew.bind.lockstep && v.crew.bind.job == 3 && v.crew.heldWrites == [] && v.slots.all fun t => t.ops == []) = true ∧ s.cobaltUp 0 = true ∧ s.coreFree 6 = true) := by
  decide +kernel

theorem witness_CobaltEvents_retire :
    (let e : Spilled := { pkt := { type := 7, job := 3, src := 1, dst := 0, fn := taskPush, operand := 0x99 } }
     let s := cobalt 5 0 fun s => s.modCore 5 fun c => { c with spill := [e] }
     (s.core 5).spill = [e] ∧ s.holdsCrew 5 3 = true ∧ (s.core 5).saved = none ∧ (s.core 5).crew.queue = []) ∧
    (let s := cobalt 5 0 fun s => s.modCore 5 fun c => { c with crew := { c.crew with bind := { c.crew.bind with live := 0 } } }
     (s.core 5).crew.bind.valid = true ∧ (s.core 5).crew.bind.lockstep = false ∧ (s.core 5).crew.bind.live = 0 ∧ s.aorsDone 3 (5 + (s.core 5).crew.bind.launch * 2 ^ 64) = true ∧
      (s.gang 0 3).phase.bars = false ∧ (s.core 5).crew.bind.retired = false ∧ pktRelease ((((s.pkg 0).launches.find (s.core 5).crew.bind.lslot.toNat).map (·.dw)).getD []) = 0) ∧
    (let s := cobalt 5 0 fun s => s.modCore 5 fun c => { c with crew := {}, saved := some { crew := { c.crew with bind := { c.crew.bind with live := 0 } }, slots := [] } }
     (s.core 5).crew.bind.valid = false ∧ (s.core 5).saved.any (fun v => v.crew.bind.valid && !v.crew.bind.lockstep && v.crew.bind.live == 0 && !v.crew.bind.retired &&
       s.aorsDone v.crew.bind.job (5 + v.crew.bind.launch * 2 ^ 64) && s.cores.all fun e => (List.range 8).all fun i => !(s.region e.1 i).owes (5 + v.crew.bind.launch * 2 ^ 64)) = true) ∧
    [10, 9].all (fun n => let s := cobalt 0 0 fun s => s.modPkg 0 fun x => { x with retires := [{ lslot := 0, die := 1, seq := 4, count := n }] }
      (s.pkg 0).retires[s.arg.b]? == some { lslot := 0, die := 1, seq := 4, count := n } && (s.pkg 0).launches.find 0 == some launched && dwOf launched.dw 6 == 0 && (s.pkg 0).hostReqs == [] && launched.total == 10) = true := by
  decide +kernel

/-- Package 0 changed, and an event's arguments. -/
def powered (a b c : Nat) (v : BitVec 128) (f : Pkg → Pkg) (bytes : List Byte := []) (good : Bool := false) : State :=
  { (thread []).modPkg 0 (fun x => f { x with power := .on }) with arg := { a := a, b := b, c := c, value := v, bytes := bytes, good := good } }

def booting (f : Boot → Boot) (x : Pkg) : Pkg := { x with boot := f x.boot }

theorem witness_PowerEvents_boot :
    ((powered 0 0 0 0 fun x => { x with power := .off }).pkg 0).power = .off ∧ ((powered 0 0 0 0 fun x => { x with power := .rising }).pkg 0).power = .rising ∧
    (let s := powered 0 0 0 0 (booting fun y => { y with loading := true, stage := 1 }) [1, 2] true
     (s.pkg 0).boot.loading = true ∧ (s.pkg 0).boot.recover = false ∧ (s.imageFails 0 (s.stageNow 0) s.arg.bytes).isSome = true) ∧ (powered 0 0 0 0 id).arg.a < 1058 ∧ 1058 ≤ (powered 1058 0 0 0 id).arg.a ∧
    (let s := powered 0 0x3F_FFFE 0 0 id [1, 2]
     (s.pkg 0).boot.busy = false ∧ Nat.ble (s.arg.b + s.arg.bytes.length) 0x40_0000 = true) := by decide +kernel

/-- Is a value of RECOVCTL a piece that the recovery takes as its next? -/
def pieceGood (v : Word) : Bool :=
  let y : Boot := { recover := true }
  let n : BitVec 32 := bits v 0 32
  !y.busy && (bits v 32 16 : BitVec 16).toNat == y.nextPiece && Nat.ble y.nextPiece 64 && Nat.blt 0 n.toNat && Nat.ble n.toNat 0x40_0000 && (v.getLsbD 63 || n.toNat == 0x40_0000)

theorem witness_PowerEvents_recovery : [(0x8000_0000_0000_0010 : Word), 0x40_0000, 0x10, 0x8000_0001_0000_0010, 0x8000_0000_0040_0001, 0x8000_0000_0000_0000].map pieceGood =
    [true, true, false, false, false, false] ∧ (0x40_0000 : Word).getLsbD 63 = false := by decide +kernel

theorem witness_PowerEvents_slate :
    (∀ r ∈ [true, false], let s := { (powered 0 0 0 0 (booting fun y => { y with recover := r })) with slots := [], cores := [] }.modDie 0 fun d => { d with cobalt := true }
     (s.pkg 0).power = .on ∧ (s.die 0).cobalt = true ∧ s.jobsOn 0 = [] ∧ (s.die 0).supRun = false ∧ (s.pkg 0).boot.recover = r ∧ (s.pkg 0).boot.again.filter (· != 0) = [] ∧
      (s.imageFails 0 1 ((s.pkg 0).boot.flash.get [] 1)).isSome = true) ∧
    (let s := powered 0 0 5 0 fun x => { x with life := { x.life with hours := 720 } }
     (s.pkg 0).power = .on ∧ 24 - (s.pkg 0).life.hours.toNat % 24 = 24 ∧ 0 < s.arg.c ∧ s.arg.c < 24 ∧ (s.pkg 0).life.hours.toNat / 720 % 60 ≠ (s.pkg 0).life.monthIndex.toNat) ∧
    (powered 0 0 0 0 id).arg.c = 0 ∧ (let s := powered 0 0 0 0 id; (s.pkg 0).life.hours.toNat / 720 % 60 = (s.pkg 0).life.monthIndex.toNat) ∧
    ((powered 0 0 0 1 id).pkg 0).attgo = false ∧ ((powered 0 0 0 1 id).pkg 0).pbusy = false ∧ (powered 0 0 0 3 id).anyBound 0 = true ∧
    (let s := { (powered 0 0 0 3 id) with cores := [], slots := [] }
     s.anyBound 0 = false) ∧
    (bits (0xABCD_0003 : Word) 0 2 : BitVec 2) = 3 ∧ (bits (0xABCD_0003 : Word) 2 14 : BitVec 14) = 0 ∧ (bits (0xABCD_0007 : Word) 2 14 : BitVec 14) ≠ 0 := by decide +kernel

theorem witness_LinkEvents :
    (let s := (powered 0 5 50 0 id).modPkg 0 fun x => { x with boundaries := [(1, { failed := [(2, 3)] }), (3, { failed := [(2, 4)] })] }
     ((s.boundary 0 1).failed.get 0 2 == 3 && !(s.boundary 0 1).disabled.mem 2 && (s.boundary 0 3).failed.get 0 2 == 4) = true) ∧
    [4, 5, 8].all (fun n => let s := powered 0 34 n 0 id
      Nat.blt ((s.pkg 0).ports.get {} (s.arg.b % 35)).failed s.arg.c && Nat.ble s.arg.c 8 && !((s.pkg 0).ports.get {} (s.arg.b % 35)).disabled) = true ∧
    (let s := powered 0 1057 0 (BitVec.allOnes 128) (booting fun b => { b with done := true })
     s.arg.b < 1058 ∧ s.arg.b ≠ 0 ∧ (s.pkg 0).power = .on ∧ (s.pkg 0).boot.done = true ∧ s.unanswered 0 s.arg.b = false) ∧
    (let s := powered 0 7 16 0 id
     1 ≤ s.arg.b ∧ s.arg.b ≤ 7 ∧ s.arg.c ∈ [1, 2, 4, 8, 16]) := by decide +kernel

/-- The thread at its turn, its instruction's bytes at 0x21000, the translation of its page held by the core. -/
def fetching (bytes : List Byte) (x : Bool := true) (l : Option Line := none) : State :=
  let s := (thread []).modPkg 0 fun p => { p with power := .on }
  let s := s.modCore 5 fun c => { c with cycle := 1, utlb := [{ job := 3, page := 0, shift := 16, frame := 0x2_0000, x := x, w := false, nc := false, geo := 0, fmt := 0 }] }
  let s := s.modQuad 1 fun q => { q with lines := match l with
    | some l => [(0x210, l)]
    | none => [] }
  { s with mem := s.mem.writeList 0x2_1000 bytes }

theorem witness_Fetch : (0x1000 : Word).toNat < 2 ^ 57 ∧ (fetching []).tlbFind 5 4 0x1000 = none ∧ ((fetching []).tlbFind 5 3 0x1000).any (fun l => l.x && l.pa 0x1000 == 0x2_1000 && !l.nc) = true ∧
    ((fetching [] false).tlbFind 5 3 0x1000).any (fun l => !l.x) = true ∧ (fetching []).accessRefused 41 0x2_1000 = none ∧ paPeer 0x2_1000 ≠ hostPeer ∧
    (let l : Line := { state := .shared, data := 0xBEEF, full := 0, poison := 0 }
     (fetching [] true (some l)).line 1 0x210 = some l ∧ l.poisoned 0 2 = false) ∧
    ((fetching []).quads.all fun e => e.2.lines == []) = true ∧ (fetching []).dirEntry 0x210 = none ∧ ((fetching []).die 0).coh = [] ∧ (fetching []).poison = [] ∧
    (fetching []).cores.all (fun e => e.2.crew.regions.all fun r => !r.2.bound) = true := by decide +kernel

/-- What the two halves of an instruction at the thread's pc decode to, at its turn. -/
def turned (bytes : List Byte) : Bool × Bool × Bool :=
  let s := fetching bytes
  let two := fun (h : BitVec 16) => [h.setWidth 8, (h >>> 8).setWidth 8]
  match s.fetch16 41 0x1000 with
  | .error _ => (false, false, false)
  | .ok (u, h) => match u.fetch16 41 0x1002, decode (two h) with
    | .ok _, .ok (_, 2) => (true, true, false)
    | .ok (_, h'), .error .truncated => (true, false, match decode (two h ++ two h') with
      | .ok (_, 4) => true
      | _ => false)
    | _, _ => (true, false, false)

theorem witness_StepRunsDecoded :
    (let s := fetching []
     s.turnOf (coreOf s.cur) = 41 ∧ s.agenda = [] ∧ (s.pkg 0).power = .on ∧ (s.pkg 0).pstate ≠ 3 ∧ (s.core 5).crew.bind.lockstep = false ∧ (s.slot 41).st = .run ∧ (s.slot 41).trapNext = [] ∧
      (s.slot 41).skip = false ∧ (s.slot 41).pc = 0x1000) ∧
    (let s := { fetching [] with agenda := [.event .tarmelFlitReplay { b := 2 }] }
     (∃ a, s.agenda = .event .tarmelFlitReplay a :: [] ∧ ({ s with agenda := [], arg := a } : State).behindPosted .tarmelFlitReplay a = false ∧
       ({ s with agenda := [], arg := a } : State).happens .tarmelFlitReplay = true)) ∧
    ({ fetching [] with posted := [(.hostBar4Write, { a := 0 })] } : State).behindPosted .notifyWrite { a := 0 } = true ∧
    turned [0x22, 0x46, 0, 0] = (true, true, false) ∧ turned [0x7F, 0x04, 0, 0x48] = (true, false, true) ∧ turned [0x5D, 0, 0, 0] = (true, false, false) ∧ turned [0, 0, 0, 0] = (true, false, false) :=
  ⟨by decide +kernel, ⟨_, rfl, by decide +kernel⟩, by decide +kernel, by decide +kernel⟩

theorem witness_DecodeEncode : wellFormed (.add 31 1 2) = true ∧ wellFormed (.vfma 0xF 0 1 2 2) = true := by decide

theorem witness_StepKeepsMemoryForm : (fetching [0x22, 0x46]).memoryOk = true ∧ (match step (fetching [0x22, 0x46]) with
    | .next t => t.memoryOk
    | _ => false) = true := by decide +kernel

theorem witness_EncodeDecode : (match decode [0x7F, 0x04, 0x00, 0x48] with
    | .ok (i, n) => i == .mfs 9 1 && n == 4
    | .error _ => false) = true := by decide +kernel

/-! ### Small steps, the expected values taken from the manual's tables -/

/-- What an instruction whose result comes by a reply answers for w12: the value and its flags. -/
def answers (i : Instr) (a b : Word) : List (BitVec 512 × BitVec 6) := match exec i (threadWith fun t => { t with phys := [(1, a), (2, b)] }) with
  | .next t => t.me.replies.map fun r => (r.value, r.fsf)
  | _ => []

/-- The table of R260. -/
theorem test_divide : [((-7 : Word), (2 : Word), (-3 : Word), (-1 : Word), (0x7FFF_FFFF_FFFF_FFFC : Word), (1 : Word), (0 : BitVec 6)), (0x8000_0000_0000_0000, -1, 0x8000_0000_0000_0000, 0, 0, 0x8000_0000_0000_0000, 0),
    (5, 0, -1, 5, -1, 5, 0x10)].all (fun e =>
    answers (.div 12 9 10) e.1 e.2.1 == [(e.2.2.1.setWidth 512, e.2.2.2.2.2.2)] && answers (.rem 12 9 10) e.1 e.2.1 == [(e.2.2.2.1.setWidth 512, e.2.2.2.2.2.2)] &&
    answers (.divn 12 9 10) e.1 e.2.1 == [(e.2.2.2.2.1.setWidth 512, e.2.2.2.2.2.2)] && answers (.remn 12 9 10) e.1 e.2.1 == [(e.2.2.2.2.2.1.setWidth 512, e.2.2.2.2.2.2)]) = true := by decide +kernel

/-- The value of w12 and the flags that an instruction leaves, sr.fcr given. -/
def leaves (i : Instr) (fcr : BitVec 2) (a b : Word) : Option (Word × Word) := match exec i (threadWith fun t => { t with phys := [(1, a), (2, b)], fcr := fcr }) with
  | .next t => some (t.rd 12, t.me.fsf.setWidth 64)
  | _ => none

/-- The table of R273, its sources written as IEEE 754 codes. -/
theorem test_floatToInt : [((0 : BitVec 1), (0 : BitVec 2), (0x4020_0000 : Word), (2 : Word), (8 : Word)), (0, 2, 0x4020_0000, 3, 8), (0, 1, 0xC020_0000, -2, 8),
    (0, 0, 0x5F0A_C723, 0x7FFF_FFFF_FFFF_FFFF, 1), (1, 0, 0xBECC_CCCD, 0, 8), (1, 0, 0xBF19_999A, 0, 1), (1, 3, 0x7FC0_0000, 0, 1)].all
    (fun e => leaves (.ftoi 12 9 e.1 0) e.2.1 e.2.2.1 0 == some (e.2.2.2.1, e.2.2.2.2)) = true := by decide +kernel

/-- R268: 1 + 2^-11 at half precision under the four modes. -/
theorem test_halfSum : [(0 : BitVec 2), 1, 2, 3].map (fun m => leaves (.fadd 12 9 10 2) m 0x3C00 0x1000) = [some (0x3C00, 8), some (0x3C00, 8), some (0x3C01, 8), some (0x3C00, 8)] := by decide +kernel

/-- The worked format of the number formats' section: codes decoded. -/
theorem test_formatDecodes : [0x00, 0x01, 0x0C, 0x11, 0x1E, 0x1F, 0x3F, 0x2D, 0x20].map (fun c => (decodeCode 0x000B_01DD c).map fun v => f32.exact v) =
    [some 0, some 0x3D80_0000, some 0x3F80_0000, some 0x4020_0000, some 0x41C0_0000, some 0x7FC0_0000, some 0x7FC0_0000, some 0xBFA0_0000, none] := by decide +kernel

/-- The same format: FP32 values encoded, with the flags set. -/
theorem test_formatEncodes : [(0x3F8C_CCCD : Word), 0x4018_0000, 0x4010_0000, 0x41F0_0000, 0x7F80_0000, 0x3D00_0000, 0xBD00_0000, 0x7FC0_0000].map (fun x => encodeCode 0x000B_01DD (f32.unpack x)) =
    [(0x0C, 8), (0x11, 8), (0x10, 8), (0x1E, 0x20), (0x1E, 0x20), (0x00, 0x0C), (0x00, 0x0C), (0x1F, 0)] := by decide +kernel

def recorded (r : List (Nat × Nat)) (lo hi : Nat) : BitVec 4 × List (Nat × Nat) := match recordAdd r lo hi with
  | .ok r => (ocAccepted, r)
  | .error e => (e, r)

/-- The example of R221. -/
theorem test_tileRecord :
    recorded [(0, 2), (4, 6), (8, 10), (12, 14), (16, 18), (20, 22)] 30 31 = (ocFragment, [(0, 2), (4, 6), (8, 10), (12, 14), (16, 18), (20, 22)]) ∧
    recorded [(0, 2), (4, 6), (8, 10), (12, 14), (16, 18), (20, 22)] 2 4 = (ocAccepted, [(0, 6), (8, 10), (12, 14), (16, 18), (20, 22)]) ∧
    recorded [(0, 6), (8, 10), (12, 14), (16, 18), (20, 22)] 22 24 = (ocAccepted, [(0, 6), (8, 10), (12, 14), (16, 18), (20, 24)]) ∧
    recorded [(0, 6), (8, 10), (12, 14), (16, 18), (20, 24)] 30 31 = (ocAccepted, [(0, 6), (8, 10), (12, 14), (16, 18), (20, 24), (30, 31)]) ∧
    recorded [(0, 6), (8, 10), (12, 14), (16, 18), (20, 24), (30, 31)] 5 9 = (ocOverlap, [(0, 6), (8, 10), (12, 14), (16, 18), (20, 24), (30, 31)]) ∧
    recorded [(0, 6), (8, 10), (12, 14), (16, 18), (20, 24), (30, 31)] 12 13 = (ocDuplicate, [(0, 6), (8, 10), (12, 14), (16, 18), (20, 24), (30, 31)]) := by decide +kernel

/-- R128: a LOOP of no passes goes on behind its body, and no level is active. -/
theorem test_loopSkips : (match exec (.loop 9 2) (threadWith fun t => { t with phys := [(1, 0)] }) with
    | .next t => (t.me.pc, t.me.loops.length)
    | _ => (0, 9)) = (0x1008, 0) := by decide +kernel

end Sys2Proof.Tests
end

section

/-!
# Every step keeps memory in its canonical form

Memory and stash are written by few operations of the state; the other functions of the model write only by calling them.
One lemma for each function says that it keeps the form: `h.f`, where h says that the form holds before. A body that is
a chain of operations then has a proof that is the same chain.
-/

namespace Sys2Proof.Machine

/-- Memory and stash in their one canonical form (`State.memoryOk`), as the hypothesis that a chain of operations hands on: `h.f.g` says that g after f keeps it. -/
def State.MemOk (s : State) : Prop := s.memoryOk = true

/-- Where a step goes on, memory is in its canonical form. -/
def OutOk (o : Out) : Prop := ∀ t, o = .next t → t.MemOk

/-- Where an operation gives a state, memory is in its canonical form. -/
def OptOk (o : Option State) : Prop := ∀ t, o = some t → t.MemOk

/-- Where an operation gives a result, the state `st` in it has memory in its canonical form. -/
def ResOk {ε α : Type} (st : α → State) (x : Except ε α) : Prop := ∀ r, x = .ok r → (st r).MemOk

/-! ### Chains, branches and folds -/

/-- An update that leaves memory and stash as they are. -/
theorem State.MemOk.frame {s : State} {pkgs dies quads cores slots net cur arg agenda posted opens host} (h : s.MemOk) :
    State.MemOk { s with pkgs := pkgs, dies := dies, quads := quads, cores := cores, slots := slots, net := net, cur := cur, arg := arg, agenda := agenda,
                         posted := posted, opens := opens, host := host } := h

theorem State.MemOk.ite {c : Prop} {_ : Decidable c} {s t : State} (hs : s.MemOk) (ht : t.MemOk) : (if c then s else t).MemOk := by
  split
  · exact hs
  · exact ht

theorem State.MemOk.foldl {α : Type} {f : State → α → State} {l : List α} {s : State} (h : s.MemOk) (hf : ∀ s x, s.MemOk → (f s x).MemOk) :
    (l.foldl f s).MemOk := foldl_keeps hf l s h

theorem State.MemOk.fst {α : Type} {a : α} {t : State} (h : t.MemOk) : (t, a).1.MemOk := h

theorem OutOk.next {t : State} (h : t.MemOk) : OutOk (.next t) := fun _ he => by cases he; exact h

theorem OutOk.fault {e : Fault} : OutOk (.fault e) := nofun

theorem OutOk.refused {e : Refusal} : OutOk (.refused e) := nofun

theorem OutOk.ite {c : Prop} {_ : Decidable c} {a b : Out} (ha : OutOk a) (hb : OutOk b) : OutOk (if c then a else b) := by
  split
  · exact ha
  · exact hb

theorem OutOk.map {f : State → State} {o : Out} (h : OutOk o) (hf : ∀ s, s.MemOk → (f s).MemOk) : OutOk (outMap f o) := by
  cases o with
  | next s => exact .next (hf s (h s rfl))
  | fault e => exact .fault
  | refused e => exact .refused

theorem OptOk.some {t : State} (h : t.MemOk) : OptOk (some t) := fun _ he => by cases he; exact h

theorem OptOk.none : OptOk none := nofun

theorem OptOk.ite {c : Prop} {_ : Decidable c} {a b : Option State} (ha : OptOk a) (hb : OptOk b) : OptOk (if c then a else b) := by
  split
  · exact ha
  · exact hb

theorem OptOk.getD {o : Option State} {t : State} (h : OptOk o) (ht : t.MemOk) : (o.getD t).MemOk := by
  cases o with
  | none => exact ht
  | some u => exact h u rfl

theorem ResOk.ok {ε α : Type} {st : α → State} {r : α} (h : (st r).MemOk) : ResOk st (.ok r : Except ε α) := fun _ he => by cases he; exact h

theorem ResOk.error {ε α : Type} {st : α → State} {e : ε} : ResOk st (.error e : Except ε α) := nofun

theorem ResOk.ite {ε α : Type} {st : α → State} {c : Prop} {_ : Decidable c} {a b : Except ε α} (ha : ResOk st a) (hb : ResOk st b) :
    ResOk st (if c then a else b) := by
  split
  · exact ha
  · exact hb

theorem ResOk.snd {ε α : Type} {x : Except ε (α × State)} {a : α} {t : State} (h : ResOk Prod.snd x) (he : x = .ok (a, t)) : t.MemOk := h _ he

/-! ### Writers -/
variable {s : State}

theorem State.MemOk.memWrite {w a n} {v : BitVec w} (h : s.MemOk) : (s.memWrite a n v).MemOk := State.memWrite_memoryOk _ _ _ h
theorem State.MemOk.setFull {a b} (h : s.MemOk) : (s.setFull a b).MemOk := State.setFull_memoryOk _ _ h
theorem State.MemOk.setPoison {a b} (h : s.MemOk) : (s.setPoison a b).MemOk := State.setPoison_memoryOk _ _ h
theorem State.MemOk.stashWrite {w c off n} {v : BitVec w} (h : s.MemOk) : (s.stashWrite c off n v).MemOk := State.stashWrite_memoryOk _ _ _ _ h
theorem State.MemOk.setStashFull {c off b} (h : s.MemOk) : (s.setStashFull c off b).MemOk := State.setStashFull_memoryOk _ _ _ h
theorem State.MemOk.setStashPoison {c off b} (h : s.MemOk) : (s.setStashPoison c off b).MemOk := State.setStashPoison_memoryOk _ _ _ h
theorem State.MemOk.stashCure {c off n} (h : s.MemOk) : (s.stashCure c off n).MemOk := State.stashCure_memoryOk _ _ _ h
theorem State.MemOk.dropStashPoison {c a b} (h : s.MemOk) : (s.dropStashPoison c a b).MemOk := State.dropStashPoison_memoryOk _ _ _ h
theorem State.MemOk.unpoison {a n} (h : s.MemOk) : (s.unpoison a n).MemOk := State.unpoison_memoryOk _ _ h
theorem State.MemOk.writeSectors {l m d f p} (h : s.MemOk) : (s.writeSectors l m d f p).MemOk := State.writeSectors_memoryOk _ _ _ _ _ h
theorem State.MemOk.pullRegionLine {c i l keep} (h : s.MemOk) : (s.pullRegionLine c i l keep).MemOk := State.pullRegionLine_memoryOk _ _ _ _ h
theorem State.MemOk.homeClean {l} (h : s.MemOk) : (s.homeClean l).MemOk := State.homeClean_memoryOk _ h
theorem State.MemOk.homeObtain {l} (h : s.MemOk) : (s.homeObtain l).MemOk := State.homeObtain_memoryOk _ h
theorem State.MemOk.agentClean {a n} (h : s.MemOk) : (s.agentClean a n).MemOk := State.agentClean_memoryOk _ _ h
theorem State.MemOk.agentObtain {a n} (h : s.MemOk) : (s.agentObtain a n).MemOk := State.agentObtain_memoryOk _ _ h
theorem State.MemOk.agentWrite {w a n} {v : BitVec w} (h : s.MemOk) : (s.agentWrite a n v).MemOk := State.agentWrite_memoryOk _ _ _ h
theorem State.MemOk.storeDwords {a ws} (h : s.MemOk) : (s.storeDwords a ws).MemOk := State.storeDwords_memoryOk _ _ h
theorem State.MemOk.writeRing {peer m} (h : s.MemOk) : (s.writeRing peer m).MemOk := State.writeRing_memoryOk _ _ h
theorem State.MemOk.post {peer m} (h : s.MemOk) : (s.post peer m).MemOk := State.post_memoryOk _ _ h
theorem State.MemOk.putImage {a n img} (h : s.MemOk) : (s.putImage a n img).MemOk := State.putImage_memoryOk _ _ _ h
theorem State.MemOk.getImage {a n} (h : s.MemOk) : (s.getImage a n).1.MemOk := State.getImage_memoryOk _ _ h
theorem State.MemOk.restoreStash {c m a b} (h : s.MemOk) : (s.restoreStash c m a b).MemOk := State.restoreStash_memoryOk _ _ _ _ h
theorem State.MemOk.wipeStash {c} (h : s.MemOk) : (s.wipeStash c).MemOk := State.wipeStash_memoryOk _ h
theorem State.MemOk.mergeOdd {odd k} (h : s.MemOk) : (s.mergeOdd odd k).MemOk := State.mergeOdd_memoryOk _ h
theorem State.MemOk.clearBuffer {p} (h : s.MemOk) : (s.clearBuffer p).MemOk := State.clearBuffer_memoryOk _ h
theorem State.MemOk.hostStores {a bs} (h : s.MemOk) : (s.hostStores a bs).MemOk := State.hostStores_memoryOk _ _ h

section

variable {s : State}

/-! ### Machine/Ops.lean -/

theorem State.MemOk.modSlot {k} {f : Slot → Slot} (h : s.MemOk) : (s.modSlot k f).MemOk := h.frame

theorem State.MemOk.modCore {c} {f : Core → Core} (h : s.MemOk) : (s.modCore c f).MemOk := h.frame

theorem State.MemOk.modQuad {q} {f : Quad → Quad} (h : s.MemOk) : (s.modQuad q f).MemOk := h.frame

theorem State.MemOk.modDie {p} {f : Die → Die} (h : s.MemOk) : (s.modDie p f).MemOk := h.frame

theorem State.MemOk.modPkg {p} {f : Pkg → Pkg} (h : s.MemOk) : (s.modPkg p f).MemOk := h.frame

theorem State.MemOk.modCrew {c} {f : Crew → Crew} (h : s.MemOk) : (s.modCrew c f).MemOk := h.modCore

theorem State.MemOk.modMe {f : Slot → Slot} (h : s.MemOk) : (s.modMe f).MemOk := h.modSlot

theorem State.MemOk.useOpen (h : s.MemOk) : (s.useOpen).MemOk := h.frame

theorem State.MemOk.wr {c v} (h : s.MemOk) : (s.wr c v).MemOk := .ite h h.modMe

theorem State.MemOk.modRegion {c i} {f : Region → Region} (h : s.MemOk) : (s.modRegion c i f).MemOk := h.modCrew

theorem State.MemOk.setLine {q l x} (h : s.MemOk) : (s.setLine q l x).MemOk := h.modQuad

theorem State.MemOk.dropLine {q l} (h : s.MemOk) : (s.dropLine q l).MemOk := h.modQuad

theorem State.MemOk.dropSectors {c i l cause} (h : s.MemOk) : (s.dropSectors c i l cause).MemOk := h.frame.modRegion

theorem State.MemOk.pullRegion {c i l keep} (h : s.MemOk) : (s.pullRegion c i l keep).MemOk := by
  unfold State.pullRegion
  dsimp only
  split
  · exact h.pullRegionLine
  · split
    · exact h.dropSectors.pullRegionLine
    · exact .ite h.pullRegionLine h.homeObtain.pullRegionLine

theorem State.MemOk.pullLine {q l keep except} (h : s.MemOk) : (s.pullLine q l keep except).MemOk :=
  h.foldl (fun _ _ h₁ => h₁.foldl (fun _ _ h₂ => .ite h₂.pullRegion h₂))

theorem State.MemOk.postTrap {k tr pc} (h : s.MemOk) : (s.postTrap k tr pc).MemOk := .ite h.post h

theorem State.MemOk.alarm {k} (h : s.MemOk) : (s.alarm k).MemOk := .ite h.frame h

theorem State.MemOk.postNoPc {k tr} (h : s.MemOk) : (s.postNoPc k tr).MemOk := h.postTrap.useOpen.alarm

theorem State.MemOk.takeTrap {k tr pc} (h : s.MemOk) : (s.takeTrap k tr pc).MemOk := h.modSlot.postTrap.alarm

theorem State.MemOk.trapHere {cause addr detail} (h : s.MemOk) : (s.trapHere cause addr detail).MemOk := h.takeTrap

theorem State.MemOk.illegal {i} (h : s.MemOk) : (s.illegal i).MemOk := h.trapHere

theorem State.MemOk.trapLater {k tr} (h : s.MemOk) : (s.trapLater k tr).MemOk := by
  unfold State.trapLater
  refine h.foldl fun _ _ h₁ => ?_
  split
  · exact h₁.postTrap
  · exact h₁
  · exact h₁.modSlot

theorem State.MemOk.done {i} (h : s.MemOk) : (s.done i).MemOk := h.modMe

theorem State.MemOk.waitHere (h : s.MemOk) : (s.waitHere).MemOk := h.modMe

theorem State.MemOk.orFlags {k f} (h : s.MemOk) : (s.orFlags k f).MemOk := by
  unfold State.orFlags
  dsimp only
  split
  · split
    · exact h.modSlot.postNoPc
    · split
      · exact h.modSlot.postTrap
      · exact h.modSlot.frame
  · exact h.modSlot

theorem State.MemOk.returnTrap {k} (h : s.MemOk) : (s.returnTrap k).MemOk := h.orFlags.modSlot

/-! ### Machine/Operands.lean -/

theorem State.MemOk.issue {f : State → State} {i u} (h : s.MemOk) (hf : ∀ s, s.MemOk → (f s).MemOk) : OutOk (s.issue i u f) :=
  .ite (.next h.illegal) (.ite (.next h.waitHere) (.next (hf _ h)))

theorem State.MemOk.scalar {i d srcs v} (h : s.MemOk) : OutOk (s.scalar i d srcs v) := h.issue (fun _ h₁ => h₁.wr.done)

theorem State.MemOk.scalarF {i d srcs r} (h : s.MemOk) : OutOk (s.scalarF i d srcs r) := h.issue (fun _ h₁ => h₁.wr.done.orFlags)

theorem State.MemOk.latent {i d srcs r} (h : s.MemOk) : OutOk (s.latent i d srcs r) := h.issue (fun _ h₁ => h₁.modMe.done)

theorem State.MemOk.compare {i m f srcs c} (h : s.MemOk) : OutOk (s.compare i m f srcs c) := h.issue (fun _ h₁ => h₁.modMe.done)

theorem State.MemOk.vector {i d vecs v fsf} (h : s.MemOk) : OutOk (s.vector i d vecs v fsf) := h.issue (fun _ h₁ => h₁.modMe.done.orFlags)

/-! ### Machine/Mem.lean -/

theorem State.MemOk.send {p} (h : s.MemOk) : (s.send p).MemOk := h.frame

theorem State.MemOk.tlbPut {c job va l} (h : s.MemOk) : (s.tlbPut c job va l).MemOk := h.modCore.modQuad

theorem State.MemOk.startWalk {w} (h : s.MemOk) : (s.startWalk w).MemOk := .ite h (.ite h.modDie h.modDie)

theorem State.MemOk.addCoh {peer ms} (h : s.MemOk) : (s.addCoh peer ms).MemOk := h.modDie

theorem State.MemOk.installLine {q l x} (h : s.MemOk) : (s.installLine q l x).MemOk := by
  unfold State.installLine
  dsimp only
  refine State.MemOk.setLine ?_
  split
  · exact .ite h (.ite h.pullLine.dropLine ((State.MemOk.modQuad (.ite h.pullLine.dropLine.writeSectors h.pullLine.dropLine)).addCoh))
  · exact h

theorem State.MemOk.makeRoom {peer l} (h : s.MemOk) : (s.makeRoom peer l).MemOk := by
  unfold State.makeRoom
  split
  · split
    · exact h.homeObtain
    · split
      · exact h.homeObtain
      · exact h
  · exact h

theorem State.MemOk.fetchLine {q l} (h : s.MemOk) : (s.fetchLine q l).MemOk :=
  .ite h (.ite (((State.MemOk.homeClean (.ite h.makeRoom h)).installLine).modDie) ((State.MemOk.homeClean (.ite h.makeRoom h)).installLine))

theorem State.MemOk.fillRegionLine {c i j} (h : s.MemOk) : (s.fillRegionLine c i j).MemOk := by
  unfold State.fillRegionLine
  extract_lets r l s₁ s₂ off hl x s₃ s₄ s₅
  have h₄ : s₄.MemOk := h.pullLine.fetchLine.stashWrite.foldl fun _ _ h => h.setStashFull
  have h₅ : s₅.MemOk := .ite h₄.dropStashPoison (h₄.foldl fun _ _ h => h.setStashPoison)
  exact h₅.modRegion

theorem State.MemOk.stashTouch {c off n} (h : s.MemOk) : (s.stashTouch c off n).MemOk := by
  unfold State.stashTouch
  split
  · exact h
  · exact h.foldl (fun _ _ h₁ => .ite h₁ h₁.fillRegionLine)

theorem State.MemOk.noteWriter {key c off n} (h : s.MemOk) : (s.noteWriter key c off n).MemOk := by
  unfold State.noteWriter
  dsimp only
  split
  · exact h
  · exact .ite h h.modRegion

theorem State.MemOk.stashDirty {c off n} (h : s.MemOk) : (s.stashDirty c off n).MemOk := by
  unfold State.stashDirty
  dsimp only
  split
  · exact h
  · refine State.MemOk.modRegion ?_
    refine h.foldl fun _ _ h₁ => ?_
    split
    · split
      · exact .ite h₁.pullLine h₁.pullLine.homeObtain.setLine.modRegion.modDie
      · exact h₁.pullLine
    · exact h₁.pullLine

theorem State.MemOk.stashStore {w c off n} {v : BitVec w} (h : s.MemOk) : (State.stashStore s c off n v).MemOk :=
  h.stashTouch.stashDirty.stashWrite.stashCure

theorem State.MemOk.stashStoreBy {w key c off n} {v : BitVec w} (h : s.MemOk) : (State.stashStoreBy s key c off n v).MemOk :=
  h.stashTouch.noteWriter.stashStore

theorem State.MemOk.pairStore {w k a c off n} {v : BitVec w} (h : s.MemOk) : (State.pairStore s k a c off n v).MemOk :=
  .ite h.stashStoreBy.stashStoreBy h.stashStoreBy

theorem State.MemOk.stashLoad {c off n} (h : s.MemOk) : (s.stashLoad c off n).1.MemOk := h.stashTouch.fst

theorem State.MemOk.fillsPass {q} {line : Nat → Bool} (h : s.MemOk) : (s.fillsPass q line).MemOk := h.frame

theorem State.MemOk.dropCopy {q l} (h : s.MemOk) : (s.dropCopy q l).MemOk := by
  unfold State.dropCopy
  split
  · exact .ite h.dropLine h
  · exact h

theorem State.MemOk.passCopies {q l} (h : s.MemOk) : (s.passCopies q l).MemOk := .ite h h.pullLine.dropCopy.fillsPass

theorem State.MemOk.spillStore {k p v} (h : s.MemOk) : (s.spillStore k p v).MemOk := by
  unfold State.spillStore
  split
  · exact h.stashStoreBy
  · exact h.passCopies.agentWrite

theorem State.MemOk.spillLoad {c p} (h : s.MemOk) : (s.spillLoad c p).1.MemOk := by
  unfold State.spillLoad
  dsimp only
  split
  · exact h.stashLoad.fst
  · exact h.homeClean.fst

theorem State.MemOk.performed {k o r} (h : s.MemOk) : (s.performed k o r).MemOk := h.foldl (fun _ _ h₁ => h₁.modSlot)

theorem State.MemOk.takeReplyAt {k i} (h : s.MemOk) : (s.takeReplyAt k i).MemOk := by
  unfold State.takeReplyAt
  dsimp only
  split
  · exact h
  · exact h.modSlot.orFlags.modSlot

theorem State.MemOk.storeSaved {c i} (h : s.MemOk) : (s.storeSaved c i).MemOk := by
  unfold State.storeSaved
  dsimp only
  split
  · exact h
  · exact .ite h.storeDwords.agentWrite h.storeDwords.agentWrite.storeDwords.storeDwords

theorem State.MemOk.swapOne {c} (h : s.MemOk) : (s.swapOne c).MemOk := by
  unfold State.swapOne
  dsimp only
  split
  · exact h
  · exact h.modCore.foldl (fun _ _ h₁ => h₁.modSlot)

theorem State.MemOk.swapSaved {c} (h : s.MemOk) : (s.swapSaved c).MemOk := .ite h.swapOne.swapOne h.swapOne

theorem State.MemOk.onOwner {f : State → State} {k} {mine : Slot → Bool} (h : s.MemOk) (hf : ∀ s, s.MemOk → (f s).MemOk) : OptOk (s.onOwner k mine f) := by
  unfold State.onOwner
  dsimp only
  split
  · exact .some (hf _ h)
  · split
    · exact .none
    · exact .ite (.some ((((hf _ h.swapSaved).foldl (fun _ _ h₁ => h₁.foldl (fun _ _ h₂ => h₂.takeReplyAt))).swapSaved).foldl
        (fun _ _ h₁ => h₁.storeSaved))) .none

theorem State.MemOk.performedNone {k o} (h : s.MemOk) : (s.performedNone k o).MemOk := h.performed

theorem State.MemOk.withdrawVld {k o tr} (h : s.MemOk) : (s.withdrawVld k o tr).MemOk := (h.foldl (fun _ _ h₁ => h₁.modSlot)).trapLater

theorem State.MemOk.stopVld {k o tr} (h : s.MemOk) : (s.stopVld k o tr).MemOk :=
  .ite (h.foldl (fun _ _ h₁ => .ite h₁.modSlot.takeTrap.modSlot h₁.modSlot.takeTrap)) h.withdrawVld

theorem State.MemOk.settleParts {k id} (h : s.MemOk) : (s.settleParts k id).MemOk := by
  unfold State.settleParts
  split
  · exact h
  · exact .ite (.ite h.stopVld (h.foldl (fun _ _ h₁ => h₁.modSlot))) h

theorem State.MemOk.modPart {k id lane} {f : Part → Part} (h : s.MemOk) : (s.modPart k id lane f).MemOk := h.modSlot

theorem State.MemOk.partDone {k id lane v} (h : s.MemOk) : (s.partDone k id lane v).MemOk := h.modPart.settleParts

theorem State.MemOk.partStopped {k id lane cause peer} {f : Word → Word} (h : s.MemOk) : (s.partStopped k id lane cause peer f).MemOk := by
  unfold State.partStopped
  dsimp only
  split
  · exact h
  · exact State.MemOk.partDone (.ite h (State.MemOk.trapLater (.ite h.modSlot h)))

theorem State.MemOk.partRefused {k id lane cause peer} (h : s.MemOk) : (s.partRefused k id lane cause peer).MemOk := h.partStopped

theorem State.MemOk.partPoison {k id lane peer} (h : s.MemOk) : (s.partPoison k id lane peer).MemOk := h.partStopped

theorem State.MemOk.enterReplay {k id} (h : s.MemOk) : (s.enterReplay k id).MemOk := h.foldl (fun _ _ h₁ => h₁.modSlot)

theorem State.MemOk.stickOp {k id} (h : s.MemOk) : (s.stickOp k id).MemOk := h.foldl (fun _ _ h₁ => h₁.modSlot)

theorem State.MemOk.parkOp {k id addr kind} (h : s.MemOk) : (s.parkOp k id addr kind).MemOk := by
  unfold State.parkOp
  dsimp only
  split
  · exact h
  · exact .ite h.stickOp h.enterReplay.postNoPc

theorem State.MemOk.faultPart {k id va e} (h : s.MemOk) : (s.faultPart k id va e).MemOk := by
  unfold State.faultPart
  split
  · exact h
  · exact .ite h.parkOp h.stopVld

theorem State.MemOk.stashAccess {o p c off r} (h : s.MemOk) (he : s.stashAccess o p c off = some r) : r.1.MemOk := by
  unfold State.stashAccess at he
  split at he
  case h_6 =>
    dsimp only at he
    split at he
    · cases he
    · cases he
      exact State.MemOk.setStashFull (.ite (State.MemOk.stashCure (.ite h.stashDirty.stashWrite h)) (.ite h.stashDirty.stashWrite h))
  all_goals cases he
  · exact h
  · exact h
  · exact h.stashDirty.stashWrite.stashCure
  · exact h.stashDirty.stashWrite.stashCure
  · exact h.stashDirty.stashWrite
  · exact h

theorem State.MemOk.stashNote {k o w full} (h : s.MemOk) : (s.stashNote k o w full).MemOk := h.modSlot

theorem State.MemOk.twinAccess {k id lane off} (h : s.MemOk) : (s.twinAccess k id lane off).MemOk := by
  unfold State.twinAccess
  dsimp only
  split
  · exact h
  · split
    · exact h
    · split
      · exact h.stashTouch
      · split
        · exact h.stashTouch
        · next he => exact ((State.MemOk.stashAccess (.ite h.stashTouch.noteWriter h.stashTouch) he).stashNote).modPart

theorem State.MemOk.stashApply {k o p c off} (h : s.MemOk) : (s.stashApply k o p c off).MemOk := by
  unfold State.stashApply
  extract_lets po home
  split
  · exact h.partPoison
  · split
    · exact h.modPart
    · next s' w full he =>
      have h' : s'.MemOk := (State.MemOk.ite h.noteWriter h).stashAccess he
      extract_lets s₁
      have h₁ : s₁.MemOk := .ite h'.twinAccess h'
      exact .ite h₁.modPart (.ite h₁.stashNote.partPoison h₁.stashNote.partDone)

theorem State.MemOk.stashTries {c off n} (h : s.MemOk) : (State.stashTries c off n s).MemOk := by
  induction n generalizing s with
  | zero => exact h
  | succ n ih =>
    have h' := h.foldl (l := s.stashWaiters c off) fun _ w h => h.stashApply (k := w.1) (o := w.2.1) (p := w.2.2) (c := c) (off := off / 8 * 8)
    exact .ite (ih h') h'

theorem State.MemOk.stashRetry {c off} (h : s.MemOk) : (s.stashRetry c off).MemOk := h.stashTries

theorem State.MemOk.stashPerform {k o p c off} (h : s.MemOk) : (s.stashPerform k o p c off).MemOk := .ite h.stashApply h.stashApply.stashRetry

theorem State.MemOk.stashFill {c off v} (h : s.MemOk) : (s.stashFill c off v).MemOk := h.stashStore.setStashFull.stashRetry

theorem State.MemOk.ownLine {q l} (h : s.MemOk) : (s.ownLine q l).MemOk := by
  unfold State.ownLine
  extract_lets s₁ s₂
  have h₁ : s₁.MemOk := h.pullLine
  have h₂ : s₂.MemOk := h₁.makeRoom.homeObtain
  split
  · exact h₁
  · exact h₂.installLine.modDie

theorem State.MemOk.quadLoad {q pa n nc sc} (h : s.MemOk) : (s.quadLoad q pa n nc sc).1.MemOk := by
  unfold State.quadLoad
  extract_lets atHome s'
  have h' : s'.MemOk := h.pullLine.fetchLine
  split
  · exact h.agentClean.fst
  · split
    · exact h'.fst
    · exact h'.agentClean.fst

theorem State.MemOk.request {q l write} (h : s.MemOk) : (s.request q l write).MemOk := h.modDie

theorem State.MemOk.accessPart {k o p pa nc} (h : s.MemOk) : (s.accessPart k o p pa nc).MemOk := by
  unfold State.accessPart
  dsimp only
  split
  · exact h.partRefused
  · split
    · exact ((State.MemOk.send (.ite h h.pullLine)).fillsPass).modPart
    · exact ((State.MemOk.send (.ite h h.pullLine)).fillsPass).modPart
    · split
      · split
        · exact .ite h.agentObtain.partPoison h.agentObtain.agentWrite.partDone
        · split
          · exact .ite (.ite h.pullLine.partPoison h.pullLine.setLine.partDone) h.request.modPart
          · exact h.request.modPart
      · refine State.MemOk.modPart ?_
        refine State.MemOk.fillsPass ?_
        refine State.MemOk.send ?_
        split
        · exact .ite (.ite h h.pullLine) (State.MemOk.setLine (.ite h h.pullLine))
        · exact .ite h h.pullLine
    · split
      · split
        · exact .ite h.agentObtain.partPoison h.agentObtain.agentWrite.partDone
        · split
          · exact .ite (.ite h.pullLine.partPoison h.pullLine.setLine.partDone) h.request.modPart
          · exact h.request.modPart
      · refine State.MemOk.modPart ?_
        refine State.MemOk.fillsPass ?_
        refine State.MemOk.send ?_
        split
        · exact .ite (.ite h h.pullLine) (State.MemOk.setLine (.ite h h.pullLine))
        · exact .ite h h.pullLine
    · split
      · exact .ite (.ite h.homeClean.partPoison h.homeClean.partDone) h.send.modPart
      · split
        · exact .ite h.pullLine.partPoison h.pullLine.setLine.partDone
        · exact .ite h.request.modPart h.send.modPart

theorem State.MemOk.startPart {k id lane} (h : s.MemOk) : (s.startPart k id lane).MemOk := by
  unfold State.startPart
  dsimp only
  split
  · exact h
  · split
    · exact h
    · split
      · split
        · split
          · split
            · exact h.faultPart
            · split
              · exact h.modPart
              · split
                · exact h.modPart.request
                · exact h.stashPerform
          · split
            · exact h.modPart
            · split
              · exact h.modPart.request
              · exact h.stashPerform
        · exact h.partDone
        · exact h.stopVld
      · split
        · split
          · exact h.faultPart
          · split
            · exact h.faultPart
            · split
              · exact h.modPart
              · split
                · exact h.modPart.request
                · exact h.stashPerform
        · split
          · exact h.accessPart
          · split
            · exact h.faultPart
            · exact h.accessPart
            · exact h.modPart.startWalk

theorem State.MemOk.startParts {k id} (h : s.MemOk) : (s.startParts k id).MemOk := by
  unfold State.startParts
  dsimp only
  split
  · refine h.foldl fun _ _ h₁ => ?_
    split
    · exact .ite h₁.partDone h₁
    · exact h₁.partRefused
    · exact h₁
  · refine State.MemOk.foldl ?_ (fun _ _ h₁ => h₁.startPart)
    refine h.foldl fun _ _ h₁ => ?_
    split
    · exact .ite h₁.partDone h₁
    · exact h₁.partRefused
    · exact h₁

theorem State.MemOk.retryLine {q l} (h : s.MemOk) : (s.retryLine q l).MemOk :=
  h.foldl (fun _ _ h₁ => h₁.foldl (fun _ _ h₂ => h₂.foldl (fun _ _ h₃ => .ite h₃.startPart h₃)))

/-! ### Machine/Coherence.lean -/

theorem State.MemOk.idle (h : s.MemOk) : OutOk (s.idle) := .next h

theorem State.MemOk.modGang {p job} {f : Gang → Gang} (h : s.MemOk) : (s.modGang p job f).MemOk := h.modPkg

theorem State.MemOk.takeCoh {peer k} (h : s.MemOk) : (s.takeCoh peer k).MemOk := h.modDie

theorem State.MemOk.setDir {peer l e} (h : s.MemOk) : (s.setDir peer l e).MemOk := h.modDie

theorem State.MemOk.eraseDir {peer l} (h : s.MemOk) : (s.eraseDir peer l).MemOk := h.modDie

theorem State.MemOk.evictDir {peer l} (h : s.MemOk) : (s.evictDir peer l).MemOk := by
  unfold State.evictDir
  dsimp only
  split
  · exact h
  · exact h.setDir.addCoh

theorem State.MemOk.homeRead {peer k q l} (h : s.MemOk) : (s.homeRead peer k q l).MemOk :=
  .ite (.ite h.evictDir h) (.ite h.takeCoh.setDir.addCoh (.ite h.takeCoh.retryLine h.takeCoh.setDir.installLine.retryLine))

theorem State.MemOk.execHomeRead (h : s.MemOk) : OutOk (execHomeRead s) := by
  unfold Machine.execHomeRead
  split
  · exact .ite h.idle (.next h.homeRead)
  · exact h.idle

theorem State.MemOk.homeWrite {peer k q l} (h : s.MemOk) : (s.homeWrite peer k q l).MemOk :=
  .ite (.ite h.evictDir h) (.ite h.takeCoh.setDir.addCoh (.ite h.takeCoh.setDir.addCoh h.takeCoh.setDir.addCoh))

theorem State.MemOk.execHomeWrite (h : s.MemOk) : OutOk (execHomeWrite s) := by
  unfold Machine.execHomeWrite
  split
  · exact .ite h.idle (.next h.homeWrite)
  · exact h.idle

theorem State.MemOk.execQuadInvalidate (h : s.MemOk) : OutOk (execQuadInvalidate s) := by
  unfold Machine.execQuadInvalidate
  dsimp only
  split
  · exact .next h.pullLine.dropLine.takeCoh.addCoh
  · exact h.idle

theorem State.MemOk.execQuadRecall (h : s.MemOk) : OutOk (execQuadRecall s) := by
  unfold Machine.execQuadRecall
  split
  · extract_lets key s₁
    have h₁ : s₁.MemOk := h.pullLine
    split
    · exact .next (State.MemOk.ite h₁.dropLine h₁.setLine).writeSectors.takeCoh.addCoh
    · exact .next h₁.takeCoh.addCoh
  · exact h.idle

theorem State.MemOk.settleDir {peer l e} (h : s.MemOk) : (s.settleDir peer l e).MemOk := by
  unfold State.settleDir
  dsimp only
  split
  · exact h.eraseDir
  · split
    · exact h.setDir
    · exact h.setDir.addCoh
    · exact h.setDir.installLine.retryLine

theorem State.MemOk.execInvalidationAck (h : s.MemOk) : OutOk (execInvalidationAck s) := by
  unfold Machine.execInvalidationAck
  dsimp only
  split
  · split
    · exact .next h.takeCoh
    · exact .ite (.next h.takeCoh.settleDir) (.next h.takeCoh.setDir)
  · exact h.idle

theorem State.MemOk.execWriteGrant (h : s.MemOk) : OutOk (execWriteGrant s) := by
  unfold Machine.execWriteGrant
  dsimp only
  split
  · refine .next ?_
    refine State.MemOk.retryLine ?_
    split
    · exact h.takeCoh.setLine
    · exact h.takeCoh.installLine
  · exact h.idle

theorem State.MemOk.execEvictionNotice (h : s.MemOk) : OutOk (execEvictionNotice s) := by
  unfold Machine.execEvictionNotice
  dsimp only
  split
  · split
    · exact .next h.takeCoh.modQuad
    · exact .ite (.ite (.next h.takeCoh.modQuad.settleDir) (.next h.takeCoh.modQuad)) (.ite (.next h.takeCoh.modQuad) (.next
        (.ite h.takeCoh.modQuad.eraseDir h.takeCoh.modQuad.setDir)))
  · exact h.idle

theorem State.MemOk.execStashLineFill (h : s.MemOk) : OutOk (execStashLineFill s) := by
  unfold Machine.execStashLineFill
  dsimp only
  split
  · refine .next ?_
    refine State.MemOk.foldl (.ite h h.fillRegionLine) fun _ _ h₁ => ?_
    refine h₁.foldl fun _ _ h₂ => ?_
    refine h₂.foldl fun _ _ h₃ => ?_
    split
    · split
      · exact h₃.startPart
      · exact .ite h₃.partRefused h₃
    · exact h₃
  · exact h.idle

/-! ### Machine/Net.lean -/

theorem State.MemOk.report {p what vs} (h : s.MemOk) : (s.report p what vs).MemOk := h.frame

theorem State.MemOk.lateFault {p k} (h : s.MemOk) : (s.lateFault p k).MemOk :=
  (((h.foldl (fun _ _ h₁ => h₁.modGang.foldl (fun _ _ h₂ => h₂.agentWrite))).modGang).agentWrite).report

theorem State.MemOk.late {p unit input k loc} (h : s.MemOk) : (s.late p unit input k loc).MemOk := .ite h.lateFault h.modGang

theorem State.MemOk.putFlight {k f} (h : s.MemOk) : (s.putFlight k f).MemOk := h.frame

theorem State.MemOk.dropFlight {k} (h : s.MemOk) : (s.dropFlight k).MemOk := h.frame

theorem State.MemOk.moved {k f loc} (h : s.MemOk) : (s.moved k f loc).MemOk := by
  unfold State.moved
  dsimp only
  split
  · exact h.frame
  · exact h.putFlight

theorem State.MemOk.moveFlight {k f loc unit input} (h : s.MemOk) : (s.moveFlight k f loc unit input).MemOk := .ite (.ite h h.dropFlight.late) h.moved

theorem State.MemOk.dropMalformed {k p input} (h : s.MemOk) : (s.dropMalformed k p input).MemOk := h.dropFlight.modPkg.report

theorem State.MemOk.treeSend {p port pkt} (h : s.MemOk) : (s.treeSend p port pkt).MemOk := h.frame

theorem State.MemOk.treeOut {k p port f} (h : s.MemOk) : (s.treeOut k p port f).MemOk := h.putFlight

theorem State.MemOk.marker {k p input m} (h : s.MemOk) : (s.marker k p input m).MemOk := .ite h.dropFlight.modGang h.dropFlight

theorem State.MemOk.forwardRouter {k p input f} (h : s.MemOk) : (s.forwardRouter k p input f).MemOk :=
  .ite h.dropMalformed (.ite h.moveFlight (.ite h.modPkg.moveFlight h))

theorem State.MemOk.forwardRing {k p die f} (h : s.MemOk) : (s.forwardRing k p die f).MemOk := by
  unfold State.forwardRing
  extract_lets host goal
  split
  · exact .ite h.moveFlight h.moveFlight
  · split
    · exact h
    · split
      · exact h
      · exact .ite h.moveFlight h

theorem State.MemOk.execPacketForward (h : s.MemOk) : OutOk (execPacketForward s) := by
  unfold Machine.execPacketForward
  dsimp only
  split
  · exact h.idle
  · split
    · exact h.idle
    · split
      · exact .ite (.next h.moved) (.ite h.idle (.next h.moved))
      · exact .next h.forwardRing
      · exact .ite (.next h.dropMalformed) (.ite (.ite h.idle (.next h.treeOut)) (.ite (.next h.marker) (.next h.forwardRouter)))
      · exact h.idle

theorem State.MemOk.atHome {f : State → Nat → State} {k pkt q} (h : s.MemOk) (hf : ∀ s x1, s.MemOk → (f s x1).MemOk) : (s.atHome k pkt q f).MemOk :=
  .ite h.dropFlight.send (.ite h (hf _ _ h.dropFlight))

theorem State.MemOk.toHost {k p pkt} (h : s.MemOk) : (s.toHost k p pkt).MemOk := .ite h h.dropFlight.modPkg

theorem State.MemOk.execLoad (h : s.MemOk) : OutOk (execLoad s) := by
  unfold Machine.execLoad
  dsimp only
  split
  · exact .next (h.atHome (fun _ _ h₁ => .ite h₁.send (.ite h₁.agentClean.send h₁.agentClean.send)))
  · exact .next h.toHost
  · exact h.idle

theorem State.MemOk.homeStore {pkt a n} (h : s.MemOk) : (s.homeStore pkt a n).MemOk := .ite h.send h.agentWrite.send

theorem State.MemOk.execStore (h : s.MemOk) : OutOk (execStore s) := by
  unfold Machine.execStore
  dsimp only
  split
  · exact .next (h.atHome (fun _ _ h₁ => h₁.homeStore))
  · exact .ite h.idle (.next h.dropFlight.memWrite.send)
  · exact h.idle

theorem State.MemOk.execCopyw (h : s.MemOk) : OutOk (execCopyw s) := by
  unfold Machine.execCopyw
  dsimp only
  split
  · exact .next (h.atHome (fun _ _ h₁ => h₁.homeStore))
  · exact .ite h.idle (.next h.dropFlight.memWrite.send)
  · exact h.idle

theorem State.MemOk.homeAtomic {pkt a} (h : s.MemOk) : (s.homeAtomic pkt a).MemOk := .ite h.homeObtain.send h.homeObtain.memWrite.send

theorem State.MemOk.execAtomic (h : s.MemOk) : OutOk (execAtomic s) := by
  unfold Machine.execAtomic
  split
  · exact .next (h.atHome (fun _ _ h₁ => h₁.homeAtomic))
  · exact .next h.toHost
  · exact h.idle

theorem State.MemOk.homeFe {pkt a} (h : s.MemOk) : OptOk (s.homeFe pkt a) := by
  unfold State.homeFe
  dsimp only
  split
  · exact .none
  · exact .some (State.MemOk.send (.ite h.memWrite.setFull.setPoison h.memWrite.setFull))

theorem State.MemOk.tryEntry {q a f} (h : s.MemOk) : (s.tryEntry q a f).MemOk := by
  unfold State.tryEntry
  split
  · next he => exact (h.homeFe _ he).modDie
  · exact h

theorem State.MemOk.retryEntries {q a n} (h : s.MemOk) : (State.retryEntries q a n s).MemOk := by
  induction n generalizing s with
  | zero => exact h
  | succ n ih =>
    have h' := h.foldl (l := s.waitersAt q a) fun _ f h => h.tryEntry (q := q) (a := a) (f := f)
    exact .ite (ih h') h'

theorem State.MemOk.settleRetries (h : s.MemOk) : (s.settleRetries).MemOk :=
  h.foldl (fun _ _ h₁ => h₁.foldl (fun _ _ h₂ => .ite h₂.homeObtain.retryEntries h₂))

theorem State.MemOk.fillWord {a v} (h : s.MemOk) : (s.fillWord a v).MemOk := h.agentWrite.setFull.retryEntries

theorem State.MemOk.execFeop (h : s.MemOk) : OutOk (execFeop s) := by
  unfold Machine.execFeop
  dsimp only
  split
  · refine .next ?_
    refine h.atHome fun _ _ h₁ => ?_
    split
    · exact h₁.send
    · split
      · next he => exact (h₁.homeObtain.retryEntries.homeFe _ he).retryEntries
      · exact .ite h₁.homeObtain.retryEntries.modDie h₁.homeObtain.retryEntries.send
  · exact h.idle

/-! ### Machine/Channel.lean -/

theorem State.MemOk.syncPair {c} (h : s.MemOk) : (s.syncPair c).MemOk := .ite h.modCrew h

theorem State.MemOk.refuseOp {k o cause peer r} (h : s.MemOk) : (s.refuseOp k o cause peer r).MemOk := h.performed.trapLater

theorem State.MemOk.setSpill {c l} (h : s.MemOk) : (s.setSpill c l).MemOk := h.modCore.storeDwords

theorem State.MemOk.setPhase {k id ph} (h : s.MemOk) : (s.setPhase k id ph).MemOk := h.modSlot

theorem State.MemOk.spillOwn {k p} (h : s.MemOk) : OptOk (s.spillOwn k p) := .ite (.some h.setSpill) .none

theorem State.MemOk.writeAccepted {c hh} (h : s.MemOk) : (s.writeAccepted c hh).MemOk := by
  unfold State.writeAccepted
  split
  · exact h
  · split
    · split
      · exact h
      · split
        · exact h.setPhase.modSlot
        · exact h.performedNone
    · exact h.send

theorem State.MemOk.serveBoxOnce {c n} (h : s.MemOk) : (s.serveBoxOnce c n).MemOk := by
  unfold State.serveBoxOnce
  extract_lets x s₁ x₁
  have h₁ : s₁.MemOk := by
    unfold s₁
    split
    · split
      · exact h.modCrew.performed
      · exact h
    · exact h
  split
  · exact h₁
  · split
    · exact h₁.modCrew.writeAccepted
    · exact h₁

theorem State.MemOk.serveBoxes {c n m} (h : s.MemOk) : (State.serveBoxes c n m s).MemOk := by
  induction m generalizing s with
  | zero => exact h
  | succ m ih => exact ih h.serveBoxOnce

theorem State.MemOk.serveBox {c n} (h : s.MemOk) : (s.serveBox c n).MemOk := h.serveBoxes

theorem State.MemOk.boxWrite {c hh} (h : s.MemOk) : (s.boxWrite c hh).1.MemOk := by
  unfold State.boxWrite
  dsimp only
  split
  · split
    · exact h.modCrew.fst
    · exact h.fst
  · exact h.modCrew.writeAccepted.serveBox.fst

theorem State.MemOk.beginMbxw {k o n} (h : s.MemOk) : (s.beginMbxw k o n).MemOk := by
  unfold State.beginMbxw
  dsimp only
  split
  · exact h.refuseOp
  · split
    · split
      · split
        · next he => exact (h.spillOwn _ he).performedNone
        · exact h.setPhase
      · exact .ite (.ite h.boxWrite.setPhase h.boxWrite) h.setPhase
    · exact h.send.setPhase

theorem State.MemOk.beginMbxwi {k o n} (h : s.MemOk) : (s.beginMbxwi k o n).MemOk := by
  unfold State.beginMbxwi
  dsimp only
  split
  · split
    · next he => exact (h.spillOwn _ he).setPhase
    · exact h
  · exact .ite h.boxWrite.setPhase h

theorem State.MemOk.beginMbxr {k o n} (h : s.MemOk) : (s.beginMbxr k o n).MemOk := h.setPhase.serveBox

theorem State.MemOk.beginMbxt {k o n} (h : s.MemOk) : (s.beginMbxt k o n).MemOk := .ite h.modCrew.performed.serveBox h.performed

theorem State.MemOk.beginSemp {k o n} (h : s.MemOk) : (s.beginSemp k o n).MemOk := .ite h.modCrew.performed h.setPhase

theorem State.MemOk.beginSemv {k o n} (h : s.MemOk) : (s.beginSemv k o n).MemOk := by
  unfold State.beginSemv
  dsimp only
  split
  · exact h.modCrew.performedNone.beginSemp
  · exact h.modCrew.performedNone

theorem State.MemOk.queuePush {c v} (h : s.MemOk) : (s.queuePush c v).1.MemOk := by
  unfold State.queuePush
  split
  · exact h.modCrew.fst
  · exact h.fst

theorem State.MemOk.beginQpush {k o} (h : s.MemOk) : (s.beginQpush k o).MemOk := by
  unfold State.beginQpush
  dsimp only
  split
  · exact h.refuseOp
  · split
    · split
      · split
        · next he => exact ((OptOk.ite h.spillOwn .none) _ he).performed
        · exact h.performed
      · exact h.queuePush.performed
    · exact h.send.setPhase

theorem State.MemOk.beginQpop {k o} (h : s.MemOk) : (s.beginQpop k o).MemOk := by
  unfold State.beginQpop
  dsimp only
  split
  · exact h.modCrew.performed
  · exact h.performed

theorem State.MemOk.beginWfe {k o} (h : s.MemOk) : (s.beginWfe k o).MemOk := .ite h.modSlot.performedNone h.setPhase

theorem State.MemOk.setLatch {k} (h : s.MemOk) : (s.setLatch k).MemOk := by
  unfold State.setLatch
  dsimp only
  split
  · exact h.modSlot.beginWfe
  · exact h.modSlot

theorem State.MemOk.beginSev {k o n} (h : s.MemOk) : (s.beginSev k o n).MemOk := by
  unfold State.beginSev
  split
  · exact h.refuseOp
  · exact .ite ((h.foldl (fun _ _ h₁ => h₁.setLatch)).performedNone) h.send.setPhase

theorem State.MemOk.arriveBox {c pkt} (h : s.MemOk) : (s.arriveBox c pkt).MemOk := .ite h.boxWrite h.send

theorem State.MemOk.arriveChannel {c pkt} (h : s.MemOk) : (s.arriveChannel c pkt).MemOk :=
  .ite h.arriveBox.syncPair (.ite h.queuePush.send.syncPair ((h.foldl (fun _ _ h₁ => h₁.setLatch)).send))

theorem State.MemOk.spillItem {c pkt} (h : s.MemOk) : (s.spillItem c pkt).MemOk := by
  unfold State.spillItem
  dsimp only
  split
  · exact .ite h.setSpill.send h.send
  · split
    · exact .ite h.setSpill.send h.send
    · split
      · exact (h.foldl (fun _ _ h₁ => h₁.modCore.storeSaved)).send
      · split
        · exact h.setSpill.send
        · exact h.send

/-! ### Machine/Barrier.lean -/

theorem State.MemOk.releaseWaiter {w} (h : s.MemOk) : (s.releaseWaiter w).MemOk :=
  (h.onOwner (fun _ h₁ => h₁.foldl (fun _ _ h₂ => h₂.modSlot))).getD h

theorem State.MemOk.counted {k id waits} (h : s.MemOk) : (s.counted k id waits).MemOk :=
  (h.onOwner (fun _ h₁ => h₁.foldl (fun _ _ h₂ => h₂.modSlot))).getD h

theorem State.MemOk.beginBarq {k o n} (h : s.MemOk) : (s.beginBarq k o n).MemOk := h.modQuad.counted.foldl (fun _ _ h₁ => h₁.releaseWaiter)

theorem State.MemOk.beginBar {k o scope n waits} (h : s.MemOk) : (s.beginBar k o scope n waits).MemOk := .ite h.setPhase.modDie h.refuseOp

theorem State.MemOk.podArrive {root n job p k id waits} (h : s.MemOk) : (s.podArrive root n job p k id waits).MemOk :=
  h.modPkg.counted.foldl (fun _ _ h₁ => .ite h₁.releaseWaiter h₁.frame)

theorem State.MemOk.execBarrierArrive (h : s.MemOk) : OutOk (execBarrierArrive s) := by
  unfold Machine.execBarrierArrive
  extract_lets peer s₁ p
  have h₁ : s₁.MemOk := h.modDie
  split
  · exact h.idle
  · extract_lets waiter r s₂ r₁ s₃ job root
    have h₂ : s₂.MemOk := h₁.modDie.counted
    have h₃ : s₃.MemOk := h₁.modPkg.counted
    exact .ite (.next (h₂.foldl fun _ _ h => h.releaseWaiter))
      (.ite (.next (h₃.foldl fun _ _ h => h.releaseWaiter)) (.ite (.next h₁.podArrive) (.next h₁.frame)))

theorem State.MemOk.execPbar (h : s.MemOk) : OutOk (execPbar s) := by
  unfold Machine.execPbar
  dsimp only
  split
  · exact .ite h.idle (.ite (.next h.dropMalformed) (.ite (.ite (.next h.dropFlight.podArrive) (.next h.dropFlight.releaseWaiter))
      (.next h.dropFlight.treeSend)))
  · exact h.idle

theorem State.MemOk.withdrawArrival {k id} (h : s.MemOk) : (s.withdrawArrival k id).MemOk := h.modDie.modQuad.modPkg.modPkg.frame

/-! ### Machine/Control.lean -/

theorem State.MemOk.jumpTo {target} (h : s.MemOk) : (s.jumpTo target).MemOk := .ite h.trapHere h.modMe

theorem State.MemOk.spillFrame {e ps} (h : s.MemOk) : (s.spillFrame e ps).MemOk := h.foldl (fun _ _ h₁ => h₁.spillStore)

/-- Where a frame is spilled, memory is in its canonical form. -/
def Spill.MemOk : Spill → Prop
  | .ok t => t.MemOk
  | _ => True

theorem Spill.MemOk.of_ok {r : Spill} {t : State} (h : r.MemOk) (he : r = .ok t) : t.MemOk := by
  subst he; exact h

theorem State.MemOk.spill (h : s.MemOk) : s.spill.MemOk := by
  unfold State.spill
  extract_lets t a
  split
  · trivial
  · split
    · trivial
    · split
      · trivial
      · split
        · trivial
        · exact h.spillFrame.modMe

theorem State.MemOk.call {target} (h : s.MemOk) : (s.call target).MemOk := by
  unfold State.call
  extract_lets t enter
  split
  · exact h.trapHere
  · split
    · exact h.trapHere
    · split
      · split
        · exact h.waitHere
        · exact h.trapHere
        · next he => exact (h.spill.of_ok he).modMe
      · exact .ite h.waitHere h.modMe

theorem State.MemOk.fillFrame {e ps} (h : s.MemOk) : (s.fillFrame e ps).MemOk := h.foldl (fun _ _ h₁ => h₁.spillLoad.modMe)

theorem State.MemOk.execRet (h : s.MemOk) : OutOk (execRet s) := by
  unfold Machine.execRet
  dsimp only
  refine h.issue fun _ h₁ => ?_
  split
  · exact h₁.illegal
  · split
    · exact h₁.trapHere
    · split
      · split
        · exact h₁.waitHere
        · split
          · exact h₁.trapHere
          · exact h₁.fillFrame.modMe.modMe
      · exact h₁.modMe

theorem State.MemOk.loop {i count len} (h : s.MemOk) : (s.loop i count len).MemOk := .ite h.modMe (.ite h.trapHere h.modMe.done)

/-! ### Machine/Fabric.lean -/

theorem State.MemOk.beginTkget {k o c} (h : s.MemOk) : (s.beginTkget k o c).MemOk := by
  unfold State.beginTkget
  dsimp only
  split
  · exact h.refuseOp
  · exact h.send.setPhase

theorem State.MemOk.beginTkdone {k o c} (h : s.MemOk) : (s.beginTkdone k o c).MemOk := by
  unfold State.beginTkdone
  dsimp only
  split
  · exact h.refuseOp
  · exact h.send.setPhase

theorem State.MemOk.failWaiters {d key cause} (h : s.MemOk) : (s.failWaiters d key cause).MemOk := by
  refine h.foldl fun s e h => OptOk.getD (h.modDie.onOwner fun s h => ?_) h.modDie
  split
  · exact h.refuseOp
  · exact h

theorem State.MemOk.register {peer job key} (h : s.MemOk) : (s.register peer job key).MemOk := by
  unfold State.register
  dsimp only
  split
  · exact h.failWaiters
  · exact h.send

theorem State.MemOk.beginTkwait {k o} (h : s.MemOk) : (s.beginTkwait k o).MemOk := by
  unfold State.beginTkwait
  dsimp only
  split
  · exact h.performedNone
  · split
    · exact h.performedNone
    · split
      · exact h.refuseOp
      · exact .ite h h.setPhase.modDie.register

theorem State.MemOk.endTicketWait {k id} (h : s.MemOk) : (s.endTicketWait k id).MemOk := by
  refine OptOk.getD (h.onOwner fun s h => ?_) h
  split
  · exact h.performedNone
  · exact h

theorem State.MemOk.execTkget (h : s.MemOk) : OutOk (execTkget s) := by
  unfold Machine.execTkget
  dsimp only
  split
  · exact h.idle
  · exact .ite (.next h.dropFlight.send) (.next h.dropFlight.modDie.send)

theorem State.MemOk.execTkreg (h : s.MemOk) : OutOk (execTkreg s) := by
  unfold Machine.execTkreg
  dsimp only
  split
  · exact h.idle
  · exact .ite (.next h.dropFlight.send) (.ite (.next h.dropFlight.send) (.next h.dropFlight.modDie))

theorem State.MemOk.execTkdone (h : s.MemOk) : OutOk (execTkdone s) := by
  unfold Machine.execTkdone
  dsimp only
  split
  · exact h.idle
  · exact .ite (.next h.dropFlight.send) (.next (h.dropFlight.modDie.send.foldl (fun _ _ h₁ => h₁.send)))

theorem State.MemOk.execCall (h : s.MemOk) : OutOk (execCall s) := by
  unfold Machine.execCall
  extract_lets s₁
  split
  · exact h.idle
  · extract_lets key n s₂ s₃
    have h₃ : s₃.MemOk := by
      refine h.dropFlight.modDie.foldl fun s e h => ?_
      dsimp only
      split <;> split
      · exact h.useOpen.modDie.endTicketWait
      · exact h.useOpen
      · exact h.modDie.endTicketWait
      · exact h
    exact .next (.ite h₃ h₃.register)

theorem State.MemOk.setGroup {p g x} (h : s.MemOk) : (s.setGroup p g x).MemOk := h.modPkg

theorem State.MemOk.answerCtres {k o outcome v} (h : s.MemOk) : (s.answerCtres k o outcome v).MemOk := h.performed

theorem State.MemOk.downAt {p g seq outcome v} (h : s.MemOk) : (s.downAt p g seq outcome v).MemOk :=
  ((h.foldl (fun _ _ h₁ => .ite (h₁.modDie.foldl (fun _ _ h₂ => (h₂.onOwner (fun _ h₃ => h₃.answerCtres)).getD h₂)) h₁)).foldl (fun _ _ h₁ => .ite h₁.treeSend
    h₁)).setGroup

theorem State.MemOk.groupReady {p g} (h : s.MemOk) : (s.groupReady p g).MemOk := .ite h (.ite h.downAt h.setGroup.treeSend)

theorem State.MemOk.modRefused {k} {f : NSet → NSet} (h : s.MemOk) : (s.modRefused k f).MemOk := h.foldl (fun _ _ h₁ => h₁.modSlot)

theorem State.MemOk.beginCtrb {k o} (h : s.MemOk) : (s.beginCtrb k o).MemOk :=
  .ite h.refuseOp (.ite h.modRefused.performedNone h.modRefused.setGroup.performedNone.groupReady)

theorem State.MemOk.beginCtres {k o} (h : s.MemOk) : (s.beginCtres k o).MemOk := by
  unfold State.beginCtres
  dsimp only
  split
  · exact h.answerCtres
  · split
    · exact .ite h.answerCtres (.ite h.answerCtres h.setPhase)
    · exact h.setPhase

theorem State.MemOk.abortAt {p g seq} (h : s.MemOk) : (s.abortAt p g seq).MemOk := .ite h (.ite h.downAt h.treeSend)

theorem State.MemOk.beginCtabt {k o} (h : s.MemOk) : (s.beginCtabt k o).MemOk := .ite h.refuseOp h.performedNone.abortAt

theorem State.MemOk.absorb {f : State → Pkt → Nat → Nat → State} {type} (h : s.MemOk) (hf : ∀ s x1 x2 x3, s.MemOk → (f s x1 x2 x3).MemOk) :
    OutOk (s.absorb type f) := by
  unfold State.absorb
  split
  · exact h.idle
  · exact .next (.ite h.dropMalformed (hf _ _ _ _ h.dropFlight))

/-! ### Machine/Task.lean -/

theorem State.MemOk.addLive {job par up} (h : s.MemOk) : (s.addLive job par up).MemOk := .ite h.modCrew h.modCore

theorem State.MemOk.alike {k} (h : s.MemOk) : (s.alike k).MemOk := h.foldl (fun _ _ h₁ => h₁.modSlot)

theorem State.MemOk.place {c i p} (h : s.MemOk) : (s.place c i p).MemOk := h.alike.foldl (fun _ _ h₁ => h₁.modSlot)

theorem State.MemOk.beginSpawn {k o} (h : s.MemOk) : (s.beginSpawn k o).MemOk := by
  unfold State.beginSpawn
  dsimp only
  split
  · exact h.performed
  · split
    · exact h.refuseOp
    · exact .ite h.performed h.addLive.send.setPhase

theorem State.MemOk.execMigrSend (h : s.MemOk) : OutOk (execMigrSend s) := by
  unfold Machine.execMigrSend
  dsimp only
  split
  · split
    · split
      · exact .next h.parkOp
      · split
        · exact .next h.refuseOp
        · split
          · exact .next h.refuseOp
          · exact .next (h.send.foldl (fun _ _ h₁ => h₁.setPhase.modSlot))
    · exact h.idle
  · exact h.idle

theorem State.MemOk.migrated {k} (h : s.MemOk) : (s.migrated k).MemOk := h.modSlot

theorem State.MemOk.writeContext {c off x} (h : s.MemOk) : (s.writeContext c off x).MemOk := h.foldl (fun _ _ h₁ => h₁.stashStore)

theorem State.MemOk.checkpoint {k id} (h : s.MemOk) : (s.checkpoint k id).MemOk := by
  unfold State.checkpoint
  dsimp only
  split
  · exact h
  · split
    · exact h
    · exact h.writeContext.modSlot

theorem State.MemOk.beginCkpt {k o} (h : s.MemOk) : (s.beginCkpt k o).MemOk := .ite ((h.foldl (fun _ _ h₁ => h₁.checkpoint)).performedNone) h

theorem State.MemOk.toCheckpoint {k} (h : s.MemOk) : (s.toCheckpoint k).MemOk := by
  unfold State.toCheckpoint
  dsimp only
  split
  · exact h
  · split
    · exact h
    · exact h.modSlot

theorem State.MemOk.mismatch {k} (h : s.MemOk) : (s.mismatch k).MemOk := .ite h.postNoPc.modSlot.modSlot h.toCheckpoint.toCheckpoint

theorem State.MemOk.joinPair {even odd : State} {k} (h : even.MemOk) : (s.joinPair k even odd).MemOk :=
  State.MemOk.syncPair (.ite h.mergeOdd h.mergeOdd.mismatch)

theorem State.MemOk.arriveThread {c pkt} (h : s.MemOk) : (s.arriveThread c pkt).MemOk := by
  unfold State.arriveThread
  split
  · exact h.send
  · split
    · exact h.place.send
    · exact .ite h.send h.send

theorem State.MemOk.execTask (h : s.MemOk) : OutOk (execTask s) := by
  unfold Machine.execTask
  dsimp only
  split
  · exact h.idle
  · exact .ite (.next h.dropFlight.send) (.ite (.next h.dropFlight.spillItem) (.ite (.next h.dropFlight.arriveThread) (.ite
      (.next h.dropFlight.arriveChannel) (.ite (.next h.dropFlight.send) (.next h.dropFlight.send)))))

/-! ### Machine/Engine.lean -/

theorem State.MemOk.fetchChunk {k sc a n} (h : s.MemOk) : ResOk Prod.snd (s.fetchChunk k sc a n) := by
  unfold State.fetchChunk
  split
  · exact .error
  · exact .ite .error (.ok h.stashTouch)
  · exact .ite .error (.ok h.quadLoad)

theorem State.MemOk.fetchRow {k sc f a n} (h : s.MemOk) : ResOk Prod.snd (State.fetchRow k sc f s a n) := by
  induction f generalizing s a n with
  | zero => exact .ok h
  | succ f ih =>
    unfold State.fetchRow
    split
    · exact .ok h
    · extract_lets m
      split
      · exact .error
      · next he =>
        split
        · exact .error
        · next he₁ => exact .ok ((ih (h.fetchChunk.snd he)).snd he₁)

theorem State.MemOk.fetch {k sc a n} (h : s.MemOk) : ResOk Prod.snd (s.fetch k sc a n) := h.fetchRow

theorem State.MemOk.storeChunk {k a n v} (h : s.MemOk) : ResOk id (s.storeChunk k a n v) := by
  unfold State.storeChunk
  extract_lets m
  split
  · exact .error
  · exact .ite .error (.ok h.stashTouch.pairStore)
  · exact .ite (.ite .error (.ok h.passCopies.agentObtain.agentWrite)) (.ite .error (.ok h.ownLine.setLine))

theorem State.MemOk.storeRow {k f a n v} (h : s.MemOk) : ResOk id (State.storeRow k f s a n v) := by
  induction f generalizing s a n v with
  | zero => exact .ok h
  | succ f ih =>
    unfold State.storeRow
    split
    · exact .ok h
    · extract_lets m
      split
      · exact .error
      · next he => exact ih (h.storeChunk _ he)

theorem State.MemOk.storeBits {k a n v} (h : s.MemOk) : ResOk id (s.storeBits k a n v) := h.storeRow

theorem State.MemOk.storeRows {k rs} (h : s.MemOk) : ResOk id (State.storeRows k rs s) := by
  induction rs generalizing s with
  | nil => exact .ok h
  | cons r rs ih =>
    unfold State.storeRows
    split
    · exact .error
    · next he => exact ih (h.storeBits _ he)

theorem State.MemOk.dropFormat {p job i} (h : s.MemOk) : (s.dropFormat p job i).MemOk := h.frame

theorem State.MemOk.formatWritten {k o} (h : s.MemOk) : (s.formatWritten k o).MemOk := h.dropFormat

theorem State.MemOk.snap {k idx} (h : s.MemOk) : (s.snap k idx).2.MemOk := by
  unfold State.snap
  extract_lets job q j fin
  split
  · exact h
  · split
    · exact h
    · split
      · exact h
      · split
        · exact h
        · extract_lets pa s₁ d
          split
          · exact h
          · exact h.agentClean.modQuad

theorem State.MemOk.modCmd {k id} {f : EngCmd → EngCmd} (h : s.MemOk) : (s.modCmd k id f).MemOk := h.modCrew.modQuad

theorem State.MemOk.dropCmd {k id} (h : s.MemOk) : (s.dropCmd k id).MemOk := h.modCrew.modQuad

theorem State.MemOk.endCmd {c status fsf tr} (h : s.MemOk) : (s.endCmd c status fsf tr).MemOk := by
  unfold State.endCmd
  dsimp only
  split
  · exact h.dropCmd.performed
  · exact h.dropCmd.performed.trapLater

theorem State.MemOk.endWith {c oc cnt} (h : s.MemOk) : (s.endWith c oc cnt).MemOk := h.endCmd

theorem State.MemOk.finishCmd {c} (h : s.MemOk) : (s.finishCmd c).MemOk := h.endCmd

theorem State.MemOk.settleCmd {c} (h : s.MemOk) : (s.settleCmd c).MemOk := .ite h.modCmd.finishCmd h.modCmd

theorem State.MemOk.endWritten {c status fsf dests} (h : s.MemOk) : (s.endWritten c status fsf dests).MemOk := h.settleCmd

theorem State.MemOk.engFault {c va} (h : s.MemOk) : (s.engFault c va).MemOk := by
  unfold State.engFault
  dsimp only
  split
  · exact h.dropCmd.modQuad.postNoPc
  · exact .ite h.modQuad.postNoPc h.modCmd

theorem State.MemOk.engStop {c cnt x} (h : s.MemOk) : (s.engStop c cnt x).MemOk := by
  unfold State.engStop
  split
  · exact h.engFault
  · exact h.endWith
  · exact h
  · exact h.endWith
  · exact h.endCmd

theorem State.MemOk.takeSnaps {c} (h : s.MemOk) : (s.takeSnaps c).2.MemOk := by
  unfold State.takeSnaps
  extract_lets two
  split
  · split
    · exact h.snap.snap
    · exact h
  · split
    · exact h.snap
    · exact h

theorem State.MemOk.beginMatrix {k o} (h : s.MemOk) : (s.beginMatrix k o).MemOk := by
  unfold State.beginMatrix
  split
  · exact h
  · exact h.takeSnaps.setPhase.modCmd

theorem State.MemOk.fetchElems {k sc f l} (h : s.MemOk) : ResOk Prod.snd (State.fetchElems k sc f l s) := by
  induction l generalizing s with
  | nil => exact .ok h
  | cons e l ih =>
    unfold State.fetchElems
    split
    · exact .error
    · next he =>
      split
      · exact .error
      · split
        · exact .error
        · next he₁ => exact .ok ((ih (h.fetch.snd he)).snd he₁)

theorem State.MemOk.fetchRows {k sc n l} (h : s.MemOk) : ResOk Prod.snd (State.fetchRows k sc n l s) := by
  induction l generalizing s with
  | nil => exact .ok h
  | cons a l ih =>
    unfold State.fetchRows
    split
    · exact .error
    · next he =>
      split
      · exact .error
      · next he₁ => exact .ok ((ih (h.fetch.snd he)).snd he₁)

theorem State.MemOk.formPlain {e c m n fa fb} (h : s.MemOk) : ResOk Prod.snd (s.formPlain e c m n fa fb) := by
  unfold State.formPlain
  extract_lets kk sa sb
  split
  · exact .error
  · next he =>
    split
    · exact .error
    · next he₁ => exact .ok ((h.fetchElems.snd he).fetchElems.snd he₁)

theorem State.MemOk.formSparse {e c m n fa fb} (h : s.MemOk) : ResOk Prod.snd (s.formSparse e c m n fa fb) := by
  unfold State.formSparse
  extract_lets kk sa sb sm
  split
  · exact .error
  · next he =>
    extract_lets live
    split
    · exact .error
    · next he₁ =>
      extract_lets nib used
      have h₁ := (h.fetch.snd he).fetchRows.snd he₁
      split
      · exact .error
      · split
        · exact .error
        · next he₂ =>
          split
          · exact .error
          · next he₃ => exact .ok ((h₁.fetchElems.snd he₂).fetchElems.snd he₃)

theorem State.MemOk.formWindow {e c m n fa fb} (h : s.MemOk) : ResOk Prod.snd (s.formWindow e c m n fa fb) := by
  unfold State.formWindow
  extract_lets kk sb place
  split
  · exact .error
  · next he =>
    split
    · exact .error
    · next he₁ => exact .ok ((h.fetchElems.snd he).fetchElems.snd he₁)

theorem State.MemOk.formArray {e c m n} (h : s.MemOk) : ResOk Prod.snd (s.formArray e c m n) := by
  unfold State.formArray
  extract_lets sz cells
  split
  · exact .error
  · next he => exact .ok (h.fetchRows.snd he)

theorem State.MemOk.watchFill {f} (h : s.MemOk) : (s.watchFill f).MemOk := by
  unfold State.watchFill
  split
  · exact h
  · exact .ite h.memWrite h.fillWord

theorem State.MemOk.decided {e v fsf} (h : s.MemOk) : (s.decided e v fsf).MemOk := h.settleCmd

theorem State.MemOk.execContributionArrival (h : s.MemOk) : OutOk (execContributionArrival s) := by
  unfold Machine.execContributionArrival
  dsimp only
  split
  · exact h.idle
  · split
    · split
      · exact .ite (.next h.modQuad.watchFill.decided) h.idle
      · exact .next h.modQuad
    · exact .next h.modQuad

theorem State.MemOk.sendContrib {e c} (h : s.MemOk) : (s.sendContrib e c).MemOk := (h.foldl (fun _ _ h₁ => h₁.send)).modCmd

/-! ### Machine/EngineRun.lean -/

theorem State.MemOk.ship {e c} (h : s.MemOk) : (s.ship e c).MemOk := .ite h.modCmd.modQuad h.sendContrib

theorem State.MemOk.operandSnaps {e} (h : s.MemOk) : ResOk (·.2.2) (s.operandSnaps e) := by
  unfold State.operandSnaps
  split
  · exact .ok h
  · split
    · exact .error
    · exact .error
    · exact .error
    · exact .error
    · exact .ok h.snap.snap

theorem State.MemOk.endFormat {e f cnt} (h : s.MemOk) : (s.endFormat e f cnt).MemOk := h.endCmd

theorem State.MemOk.rotations {e m n fa fb} (h : s.MemOk) : ResOk Prod.snd (s.rotations e m n fa fb) := by
  unfold State.rotations
  extract_lets c q n' row col core kk sa sb la lb
  split
  · exact .error
  · next he =>
    split
    · exact .error
    · next he₁ => exact .ok ((h.fetchRows.snd he).fetchRows.snd he₁)

theorem State.MemOk.rotate {go : State → EngCmd → State} {e m n cnt fa fb} (h : s.MemOk) (hgo : ∀ s x1, s.MemOk → (go s x1).MemOk) :
    (s.rotate e m n cnt fa fb go).MemOk := by
  unfold State.rotate
  dsimp only
  split
  · exact h.engStop
  · next he => exact .ite ((h.rotations.snd he).endWith) (hgo _ _ (((h.rotations.snd he).modCmd).modQuad))

theorem State.MemOk.refuseContrib {e v tr m n fa fb} (h : s.MemOk) : (s.refuseContrib e v tr m n fa fb).MemOk :=
  .ite (h.rotate (fun _ _ h₁ => h₁.settleCmd)) h.endCmd

theorem State.MemOk.formAndShip {e t named} (h : s.MemOk) : (s.formAndShip e t named).MemOk := by
  unfold State.formAndShip
  extract_lets cnt src c sz
  split
  · refine .ite h.endWith ?_
    split
    · exact h.engStop
    · next he => exact (h.formArray.snd he).ship
  · split
    · exact h.engStop
    · next fa fb s₀ he =>
      have h₀ : s₀.MemOk := h.operandSnaps _ he
      extract_lets e' s₁ src' c' differ limits refuse deliver r
      have h₁ : s₁.MemOk := h₀.modCmd
      have hd : ∀ u x y, u.MemOk → (deliver u x y).MemOk := fun _ _ _ h => .ite (h.rotate fun _ _ h => h.ship) h.ship
      have hr : ResOk Prod.snd r := .ite h₁.formSparse (.ite h₁.formWindow h₁.formPlain)
      refine .ite h₁.endWith (.ite h₁.refuseContrib (.ite h₁.refuseContrib (.ite (hd _ _ _ h₁) ?_)))
      clear_value r
      split
      · exact h₁.refuseContrib
      · exact h₁.engStop
      · exact hd _ _ _ (hr.snd rfl)

theorem State.MemOk.refuseEarly {e v} (h : s.MemOk) : (s.refuseEarly e v).MemOk := by
  unfold State.refuseEarly
  dsimp only
  split
  · exact h.endWith
  · split
    · exact h.engStop
    · next he => exact .ite ((h.operandSnaps _ he).endWith) (((h.operandSnaps _ he).modCmd).refuseContrib)

theorem State.MemOk.runContrib {e} (h : s.MemOk) : (s.runContrib e).MemOk := by
  unfold State.runContrib
  dsimp only
  split
  · exact h.endWith
  · split
    · exact h.refuseEarly
    · split
      · exact h.refuseEarly
      · split
        · split
          · exact h.refuseEarly
          · exact h.formAndShip
        · exact h.formAndShip

theorem State.MemOk.runMopen {e} (h : s.MemOk) : (s.runMopen e).MemOk := by
  unfold State.runMopen
  dsimp only
  split
  · exact h.endCmd
  · split
    · exact h.endCmd
    · split
      · exact h.engFault
      · exact h.modQuad.endCmd

theorem State.MemOk.writeAnswer {e a} (h : s.MemOk) : (s.writeAnswer e a).MemOk := by
  unfold State.writeAnswer
  dsimp only
  split
  · next he => exact (h.storeRows _ he).endWritten
  · exact h.modCmd
  · exact h.engStop

theorem State.MemOk.runTile {e} (h : s.MemOk) : (s.runTile e).MemOk := by
  unfold State.runTile
  extract_lets hnd q here idx t f r rows q' pl pk
  split
  · exact h.writeAnswer
  · split
    · exact h.endWith
    · split
      · exact h.endWith
      · split
        · exact h.endFormat
        · split
          · split
            · split
              · exact h.engStop
              · next he => exact (State.MemOk.modQuad (h.storeRows _ he)).watchFill.endWritten
            · exact h
          · split
            · exact h.engFault
            · exact h.modCmd.send

theorem State.MemOk.execEngineAccept (h : s.MemOk) : OutOk (execEngineAccept s) := by
  unfold Machine.execEngineAccept
  dsimp only
  split
  · exact .next h.finishCmd
  · exact h.idle
  · exact .ite h.idle (.ite (.next h.modQuad.runMopen) (.ite (.next h.modQuad.runContrib) (.next h.modQuad.runTile)))

theorem State.MemOk.rotRow {key c off n v} (h : s.MemOk) : (s.rotRow key c off n v).1.MemOk := by
  unfold State.rotRow
  extract_lets s₁
  have h₁ : s₁.MemOk := h.stashTouch
  split
  · exact h
  · split
    · exact h₁.stashStoreBy.fst
    · refine foldl_keeps (P := fun r : State × Bool => r.1.MemOk) (fun r i hr => ?_) _ _ h₁.fst
      extract_lets a m
      split
      · exact hr
      · exact hr.stashStoreBy

theorem State.MemOk.execMrotDelivery (h : s.MemOk) : OutOk (execMrotDelivery s) := by
  unfold Machine.execMrotDelivery
  extract_lets q s₁
  have h₁ : s₁.MemOk := h.modQuad
  split
  · exact h.idle
  · split
    · exact h.idle
    · extract_lets key w s₂ s₃
      have hw : w.1.MemOk := by
        refine foldl_keeps (P := fun w : State × Bool => w.1.MemOk) (fun w x hw => ?_) _ _ h₁
        exact hw.rotRow
      have h₃ : s₃.MemOk := hw.stashTouch.noteWriter.stashDirty.setStashFull.stashRetry
      split
      · exact .next h₃
      · exact .next h₃.settleCmd

theorem State.MemOk.execContrib (h : s.MemOk) : OutOk (execContrib s) := by
  unfold Machine.execContrib
  dsimp only
  split
  · exact h.idle
  · split
    · exact h.idle
    · split
      · exact .next h.dropFlight.send
      · split
        · exact .ite (.next h.dropFlight.send) (.next h.dropFlight.modQuad)
        · split
          · exact .next h.dropFlight
          · exact .ite (.next h.dropFlight) (.ite (.next h.dropFlight.modQuad) (.ite (.next h.dropFlight.modQuad.watchFill.send) h.idle))

theorem State.MemOk.execTileCommandArrival (h : s.MemOk) : OutOk (execTileCommandArrival s) := by
  unfold Machine.execTileCommandArrival
  dsimp only
  split
  · exact h.idle
  · exact .ite h.idle (.ite (.next h.dropFlight.send) (.ite h.idle (.next ((h.dropFlight.modQuad.watchFill.foldl (fun _ _ h₁ => h₁.send)).send))))

/-! ### Machine/Copy.lean -/

theorem State.MemOk.modChannel {c ch} {f : Channel → Channel} (h : s.MemOk) : (s.modChannel c ch f).MemOk := h.modCrew

theorem State.MemOk.pieceRead {k o pl p n} (h : s.MemOk) : (State.pieceRead k o pl p n s).2.2.2.MemOk := by
  induction n with
  | zero => exact h
  | succ n ih =>
    unfold State.pieceRead
    extract_lets r gap
    split
    · exact ih
    · split
      · exact ih
      · split
        · exact ih
        · split
          · exact ih
          · next he => exact ih.fetchChunk.snd he

theorem State.MemOk.sendPiece {k o pa m nc v} (h : s.MemOk) : (s.sendPiece k o pa m nc v).MemOk := by
  unfold State.sendPiece
  dsimp only
  refine State.MemOk.send ?_
  refine State.MemOk.fillsPass ?_
  split
  · exact .ite (.ite h h.pullLine) (State.MemOk.setLine (.ite h h.pullLine))
  · exact .ite h h.pullLine

theorem State.MemOk.movePiece {k o pl p} (h : s.MemOk) : ResOk (·.2.2) (s.movePiece k o pl p) := by
  unfold State.movePiece
  extract_lets r m v here
  have hr : r.2.2.2.MemOk := h.pieceRead
  have hhere : ∀ s, s.MemOk → ResOk (·.2.2) (here s) := by
    intro s h
    unfold here
    cases he : s.storeBits k (pl.dst p) (8 * m) v with
    | error e => exact .error
    | ok t => exact .ok (h.storeBits _ he)
  split
  · exact .error
  · split
    · exact .error
    · exact hhere _ hr
    · split
      · exact hhere _ hr
      · exact .ok hr.sendPiece

theorem State.MemOk.movePieces {k o pl n p} (h : s.MemOk) : (State.movePieces k o pl n p s).2.2.2.MemOk := by
  induction n generalizing s p with
  | zero => exact h
  | succ n ih =>
    unfold State.movePieces
    split
    · exact h
    · split
      · exact h
      · next he => exact h.movePiece _ he
      · next he => exact ih (h.movePiece _ he)

theorem State.MemOk.modCopy {c ch k id} {f : CopyCmd → CopyCmd} (h : s.MemOk) : (s.modCopy c ch k id f).MemOk := h.modChannel

theorem State.MemOk.passToken {a} (h : s.MemOk) : (s.passToken a).MemOk := by
  unfold State.passToken
  split
  · exact h
  · split
    · exact h.performedNone
    · exact h

theorem State.MemOk.endCopy {c ch x outcome} (h : s.MemOk) : (s.endCopy c ch x outcome).MemOk := h.modChannel.performed.passToken

theorem State.MemOk.cancelCopy {c ch x} (h : s.MemOk) : (s.cancelCopy c ch x).MemOk := .ite h.endCopy h.modCopy

theorem State.MemOk.beginCpyk {k o} (h : s.MemOk) : (s.beginCpyk k o).MemOk :=
  .ite h.performed (.ite h (.ite (h.foldl (fun _ _ h₁ => h₁.cancelCopy)) (((h.foldl (fun _ _ h₁ => h₁.cancelCopy)).modChannel).performed)))

theorem State.MemOk.beginCopy {k o} (h : s.MemOk) : (s.beginCopy k o).MemOk := by
  unfold State.beginCopy
  dsimp only
  split
  · exact h.beginCpyk
  · split
    · exact h.setPhase.modCopy
    · split
      · exact h.setPhase.modCopy.modCopy
      · exact h.setPhase.modCopy.modCopy.setPhase

theorem State.MemOk.runCopy {c ch x pl n} (h : s.MemOk) : (s.runCopy c ch x pl n).MemOk := by
  unfold State.runCopy
  extract_lets r s₁ s₂
  have hr : r.2.2.2.MemOk := h.movePieces
  have h₂ : s₂.MemOk := .ite hr.modCopy.modChannel hr.modCopy.modChannel.setPhase
  split
  · exact .ite h₂.modCopy h₂
  · exact h₂.modChannel.postNoPc
  · exact h₂
  · exact h₂.modCopy
  · exact h₂.modCopy

theorem State.MemOk.landCopy {k o refused} (h : s.MemOk) : (s.landCopy k o refused).MemOk := by
  unfold State.landCopy
  dsimp only
  split
  · exact h
  · exact .ite h.setPhase.modCopy h.setPhase.modCopy.modChannel

theorem State.MemOk.stepCopy {c ch x n} (h : s.MemOk) : (s.stepCopy c ch x n).MemOk := by
  unfold State.stepCopy
  split
  · exact h
  · split
    · exact h.modChannel.postNoPc
    · exact h.modCopy
    · exact h.modCopy.runCopy

theorem State.MemOk.execCopyStart (h : s.MemOk) : OutOk (execCopyStart s) := by
  unfold Machine.execCopyStart
  split
  · exact h.idle
  · exact .ite h.idle (.next h.stepCopy)

theorem State.MemOk.execCopyDone (h : s.MemOk) : OutOk (execCopyDone s) := by
  unfold Machine.execCopyDone
  split
  · exact h.idle
  · split
    · exact h.idle
    · exact .ite (.next h.endCopy) h.idle

/-! ### Machine/Response.lean -/

theorem State.MemOk.countStray {p port} (h : s.MemOk) : (s.countStray p port).MemOk := .ite h.modPkg h.modDie

theorem State.MemOk.spawnAnswer {p k} (h : s.MemOk) : (State.spawnAnswer p k s).MemOk := by
  unfold State.spawnAnswer
  dsimp only
  split
  · exact h
  · exact .ite h.modSlot.addLive h.modSlot

theorem State.MemOk.toOwner {f : Nat → Op → State → State} {p port} (h : s.MemOk) (hf : ∀ k o s, s.MemOk → (f k o s).MemOk) :
    (s.toOwner p port f).MemOk := by
  refine OptOk.getD (h.onOwner fun s h => ?_) (OptOk.getD (h.onOwner fun _ h => h.spawnAnswer) h.countStray)
  split
  · exact hf _ _ _ h
  · exact h

theorem State.MemOk.aorDropped {p cause} (h : s.MemOk) : (s.aorDropped p cause).MemOk := by
  unfold State.aorDropped
  dsimp only
  split
  · exact .ite h.post h
  · split
    · exact .ite h.post h
    · exact State.MemOk.useOpen (.ite h.post h)

theorem State.MemOk.respPart {k o lane p} (h : s.MemOk) : (s.respPart k o lane p).MemOk := by
  unfold State.respPart
  dsimp only
  split
  · exact h
  · split
    · exact .ite h.dropCopy.partPoison h.dropCopy.modSlot.partDone
    · exact .ite h.dropCopy.modSlot.partPoison h.dropCopy.modSlot.partDone
    · exact .ite h.partPoison (.ite (.ite (State.MemOk.partPoison (.ite h h.installLine)) (State.MemOk.partDone (.ite h h.installLine))) h.partDone)

theorem State.MemOk.respOp {p k o} (h : s.MemOk) : (State.respOp p k o s).MemOk := by
  unfold State.respOp
  dsimp only
  split
  · exact h.performed
  · exact State.MemOk.performed (.ite h h.addLive)
  · exact .ite (h.foldl (fun _ _ h₁ => h₁.migrated)) h.performed
  · exact h.modDie.performed
  · exact .ite h.modCmd h
  · exact h.respPart

theorem State.MemOk.execResp (h : s.MemOk) : OutOk (execResp s) := by
  unfold Machine.execResp
  dsimp only
  split
  · exact h.idle
  · exact .ite (.next (.ite h.dropFlight.aorDropped h.dropFlight)) (.next (h.dropFlight.toOwner (fun _ _ _ h₁ => h₁.respOp)))

theorem State.MemOk.matrixAck {p e} (h : s.MemOk) : (s.matrixAck p e).MemOk := .ite h (.ite h.writeAnswer (.ite h.settleCmd h))

theorem State.MemOk.ackOp {p k o} (h : s.MemOk) : (State.ackOp p k o s).MemOk := by
  unfold State.ackOp
  dsimp only
  split
  · split
    · exact h.matrixAck
    · exact h
  · exact h.performedNone
  · exact h.performedNone
  · exact h.performedNone
  · exact h.landCopy
  · split
    · refine State.MemOk.partPoison ?_
      split
      · exact h.dropCopy
      · exact h
    · refine State.MemOk.partDone ?_
      split
      · refine State.MemOk.formatWritten ?_
        split
        · exact h.dropCopy
        · exact h
      · split
        · exact h.dropCopy
        · exact h

theorem State.MemOk.execAck (h : s.MemOk) : OutOk (execAck s) := by
  unfold Machine.execAck
  split
  · exact h.idle
  · exact .ite h.idle (.next (h.dropFlight.toOwner (fun _ _ _ h₁ => h₁.ackOp)))

theorem State.MemOk.foreign {k o lane peer} (h : s.MemOk) : (s.foreign k o lane peer).MemOk := by
  unfold State.foreign
  dsimp only
  split
  · split
    · exact h.endWith
    · exact h
  · exact h.addLive.refuseOp
  · exact h.landCopy
  · exact h.refuseOp
  · exact h.refuseOp
  · exact h.refuseOp
  · exact h.refuseOp
  · exact h.refuseOp
  · exact h.refuseOp
  · exact h.partRefused

theorem State.MemOk.backOff {k id lane} (h : s.MemOk) : (s.backOff k id lane).MemOk := h.foldl (fun _ _ h₁ => h₁.modSlot)

theorem State.MemOk.nackOp {p k o} (h : s.MemOk) : (State.nackOp p k o s).MemOk := by
  unfold State.nackOp
  dsimp only
  split
  · split
    · exact h
    · exact .ite h (.ite h.modCmd h.foreign)
  · exact .ite h.foreign (.ite h.performed h.backOff)
  · exact .ite h.foreign (.ite h.setPhase h.backOff)
  · exact .ite h.backOff h.foreign

theorem State.MemOk.execNack (h : s.MemOk) : OutOk (execNack s) := by
  unfold Machine.execNack
  dsimp only
  split
  · exact h.idle
  · exact .ite (.next h.dropFlight.failWaiters) (.ite (.next h.dropFlight.aorDropped) (.next (h.dropFlight.toOwner (fun _ _ _ h₁ => h₁.nackOp))))

theorem State.MemOk.resend {k o} (h : s.MemOk) : (s.resend k o).MemOk := by
  unfold State.resend
  dsimp only
  split
  · exact h.modSlot.send.setPhase
  · split
    · exact h.modSlot
    · exact h.modSlot.send.foldl (fun _ _ h₁ => h₁.setPhase)
  · split
    · exact h.modSlot
    · split
      · exact h.modSlot
      · split
        · exact h.modSlot.sendContrib
        · exact h.modSlot.modCmd
  · refine h.modSlot.foldl fun _ _ h₁ => ?_
    split
    · exact h₁.accessPart
    · exact h₁

theorem State.MemOk.execNackRetry (h : s.MemOk) : OutOk (execNackRetry s) := by
  unfold Machine.execNackRetry
  extract_lets k mine
  split
  · next he =>
    refine .next (h.onOwner (fun s h => ?_) _ he)
    split
    · exact .ite h.resend h
    · exact h
  · exact h.idle

theorem State.MemOk.serveWalk {w} (h : s.MemOk) : (s.serveWalk w).MemOk := by
  unfold State.serveWalk
  dsimp only
  split
  · split
    · exact h.tlbPut
    · split
      · exact .ite h.tlbPut.startPart h.tlbPut
      · exact h.tlbPut
  · split
    · exact .ite (h.foldl (fun _ _ h₁ => h₁.takeTrap)) h
    · split
      · exact .ite h.faultPart h
      · exact h

theorem State.MemOk.execWalkComplete (h : s.MemOk) : OutOk (execWalkComplete s) := by
  unfold Machine.execWalkComplete
  dsimp only
  split
  · exact h.idle
  · exact .ite (.next ((h.modDie.foldl (fun _ _ h₁ => h₁.startWalk)).foldl (fun _ _ h₁ => .ite h₁.serveWalk h₁.startWalk))) h.idle

/-! ### Machine/Cmo.lean -/

theorem State.MemOk.flushOwned {q l} (h : s.MemOk) : (s.flushOwned q l).MemOk := by
  unfold State.flushOwned
  dsimp only
  split
  · exact .ite (.ite h.writeSectors.setLine.setDir h.writeSectors.setLine) h
  · exact h

theorem State.MemOk.cleanRegionLine {k i l keep} (h : s.MemOk) : (s.cleanRegionLine k i l keep).1.MemOk := by
  unfold State.cleanRegionLine
  dsimp only
  split
  · exact h.dropSectors.fst
  · exact h.pullRegion.fst

theorem State.MemOk.cleanRegion {k i keep} (h : s.MemOk) : (s.cleanRegion k i keep).1.MemOk := by
  unfold State.cleanRegion
  refine foldl_keeps (P := fun r : State × Option (BitVec 8) => r.1.MemOk) (fun r j hr => ?_) _ _ h
  exact hr.cleanRegionLine

theorem State.MemOk.endCmo {r : State × Option (BitVec 8)} {k o peer} (h : r.1.MemOk) : (State.endCmo r k o peer).MemOk := by
  unfold State.endCmo
  split
  · exact h.performedNone
  · exact h.refuseOp

theorem State.MemOk.overLines {f : State → Word → Leaf → State × Option (BitVec 8)} {k o r l} (h : s.MemOk)
    (hf : ∀ s va l, s.MemOk → (f s va l).1.MemOk) : (State.overLines k o f r l s).MemOk := by
  induction l generalizing s r with
  | nil => exact h.fst.endCmo
  | cons va vs ih =>
    unfold State.overLines
    split
    · exact h.parkOp
    · exact .ite (ih h) (ih (hf _ _ _ h))

theorem State.MemOk.flushLine {k va l} (h : s.MemOk) : (State.flushLine k s va l).1.MemOk := by
  unfold State.flushLine
  extract_lets c q r n s₁
  have hr : r.1.MemOk := by
    unfold r
    split
    · exact h.cleanRegionLine
    · exact h
  have h₁ : s₁.MemOk := .ite hr.pullLine hr
  exact h₁.flushOwned.fst

theorem State.MemOk.discardLine {k va l} (h : s.MemOk) : (State.discardLine k s va l).1.MemOk := h.dropCopy.fst

theorem State.MemOk.beginCflush {k o} (h : s.MemOk) : (s.beginCflush k o).MemOk := h.overLines (fun _ _ _ h₁ => h₁.flushLine)

theorem State.MemOk.beginCinv {k o} (h : s.MemOk) : (s.beginCinv k o).MemOk := h.overLines (fun _ _ _ h₁ => h₁.discardLine)

theorem State.MemOk.unbind {k i} (h : s.MemOk) : (s.unbind k i).1.MemOk := by
  unfold State.unbind
  dsimp only
  split
  · exact h.cleanRegion.modRegion.dropStashPoison.fst
  · exact h.fst

theorem State.MemOk.beginSunmap {k o i} (h : s.MemOk) : (s.beginSunmap k o i).MemOk := h.unbind.endCmo

theorem State.MemOk.beginSwb {k o i} (h : s.MemOk) : (s.beginSwb k o i).MemOk := .ite h.cleanRegion.endCmo h.performedNone

theorem State.MemOk.lateIllegal {k o} (h : s.MemOk) : (s.lateIllegal k o).MemOk := h.performedNone.trapLater

theorem State.MemOk.beginSmap {k o i} (h : s.MemOk) : (s.beginSmap k o i).MemOk := by
  unfold State.beginSmap
  extract_lets c leaf nc peer r
  have hr : r.1.MemOk := h.unbind
  split
  · exact h.lateIllegal
  · split
    · exact hr.parkOp
    · clear_value leaf
      split
      · exact hr.parkOp
      · exact hr.modRegion.fst.endCmo

theorem State.MemOk.beginSfmt {k o i} (h : s.MemOk) : (s.beginSfmt k o i).MemOk := .ite h.lateIllegal h.modRegion.performedNone

theorem State.MemOk.prefetch {k o} (h : s.MemOk) : (s.prefetch k o).MemOk := by
  unfold State.prefetch
  dsimp only
  split
  · exact h
  · split
    · exact h
    · exact .ite h (.ite h.request (.ite h.fetchLine h))

theorem State.MemOk.beginPref {k o} (h : s.MemOk) : (s.beginPref k o).MemOk := h.prefetch.performedNone

theorem State.MemOk.beginFmtw {k o} (h : s.MemOk) : (s.beginFmtw k o).MemOk := by
  unfold State.beginFmtw
  dsimp only
  split
  · exact h.parkOp
  · split
    · exact h.refuseOp
    · exact .ite h.passCopies.send.modPart.setPhase (.ite h h.agentWrite.formatWritten.performedNone)

/-! ### Machine/Stream.lean -/

theorem State.MemOk.releaseVldd {k o} (h : s.MemOk) : (s.releaseVldd k o).MemOk := by
  unfold State.releaseVldd
  extract_lets tr idx
  clear_value idx
  split
  · exact h.withdrawVld
  · extract_lets r
    have hr : r.2.MemOk := h.snap
    split
    · exact hr.withdrawVld
    · exact .ite hr.withdrawVld hr.modSlot

theorem State.MemOk.beginKind {k o} (h : s.MemOk) : (s.beginKind k o).MemOk := by
  unfold State.beginKind
  split
  · exact h.startParts
  · exact h.startParts
  · exact h.startParts
  · exact h.startParts
  · exact h.startParts
  · exact State.MemOk.startParts (.ite h.releaseVldd h)
  · exact h.beginCflush
  · exact h.beginCinv
  · exact h.beginSmap
  · exact h.beginSunmap
  · exact h.beginSwb
  · exact h.beginPref
  · exact h.beginFmtw
  · exact h.beginSfmt
  · exact h.beginMbxw
  · exact h.beginMbxwi
  · exact h.beginMbxr
  · exact h.beginMbxt
  · exact h.beginSemp
  · exact h.beginSemv
  · exact h.beginQpush
  · exact h.beginQpop
  · exact h.beginWfe
  · exact h.beginSev
  · exact h.beginBar
  · exact h.beginBar
  · exact h.beginBarq
  · exact h.beginTkget
  · exact h.beginTkwait
  · exact h.beginTkdone
  · exact h.beginCtrb
  · exact h.beginCtres
  · exact h.beginCtabt
  · exact h.beginSpawn
  · exact h
  · exact h.beginCkpt
  · exact h.performedNone
  · exact h.beginMatrix
  · exact h.beginCopy

theorem State.MemOk.beginOp {k id} (h : s.MemOk) : (s.beginOp k id).MemOk := by
  unfold State.beginOp
  split
  · exact h
  · split
    · exact h
    · split
      · split
        · exact h.stickOp
        · split
          · exact h.parkOp
          · exact h.enterReplay
      · exact .ite h h.beginKind.syncPair

theorem State.MemOk.releaseOp {k o} (h : s.MemOk) : (s.releaseOp k o).MemOk := by
  unfold State.releaseOp
  split
  · exact .ite h.releaseVldd h
  · exact h.beginMatrix
  · exact .ite h h.beginCopy
  · exact h

theorem State.MemOk.takeRelease {k id} (h : s.MemOk) : (s.takeRelease k id).MemOk := by
  unfold State.takeRelease
  extract_lets go
  have hgo : ∀ k, (go s k).MemOk := by
    intro k
    unfold go
    split
    · exact h.releaseOp
    · exact h
  split
  · exact h
  · exact .ite h (.ite (State.MemOk.joinPair (hgo _)) (hgo _))

theorem State.MemOk.savedReleases {c} (h : s.MemOk) : (s.savedReleases c).MemOk := by
  unfold State.savedReleases
  dsimp only
  split
  · exact h
  · exact .ite h (h.foldl (fun _ _ h₁ => h₁.foldl (fun _ _ h₂ => .ite (h₂.swapSaved.takeRelease.swapSaved.foldl (fun _ _ h₃ => h₃.storeSaved)) h₂)))

theorem State.MemOk.takeReleases (h : s.MemOk) : (s.takeReleases).MemOk :=
  (h.foldl (fun _ _ h₁ => .ite h₁ (h₁.foldl (fun _ _ h₂ => h₂.takeRelease)))).foldl (fun _ _ h₁ => h₁.savedReleases)

theorem State.MemOk.unstick {k id} (h : s.MemOk) : (s.unstick k id).MemOk := .ite (h.foldl (fun _ _ h₁ => h₁.modSlot)) h

theorem State.MemOk.inOrder {kind k id} (h : s.MemOk) : (s.inOrder kind k id).MemOk := by
  unfold State.inOrder
  split
  · exact h.modQuad
  · exact h

theorem State.MemOk.issueOp {i x} (h : s.MemOk) : (s.issueOp i x).MemOk := .ite h.waitHere h.modMe.inOrder.beginOp

theorem State.MemOk.streamOp {trap : State → Option State} {i u} {x : State → Issue} (h : s.MemOk) (htrap : ∀ s, s.MemOk → OptOk (trap s)) :
    OutOk (s.streamOp i u trap x) := by
  unfold State.streamOp
  refine h.issue fun _ h₁ => ?_
  split
  · next he => exact ((htrap _ h₁) _ he)
  · exact h₁.issueOp

theorem State.MemOk.noTrap {x} (_ : x.MemOk) : OptOk (noTrap x) := .none

theorem State.MemOk.execScopeSet (h : s.MemOk) : OutOk (execScopeSet s) := by
  unfold Machine.execScopeSet
  dsimp only
  split
  · exact .ite (.next (h.foldl (fun _ _ h₁ => h₁.modSlot))) h.idle
  · exact h.idle

theorem State.MemOk.unspill {k id} (h : s.MemOk) : (s.unspill k id).MemOk := .ite h.setSpill h

theorem State.MemOk.withdrawOp {k id} (h : s.MemOk) : (s.withdrawOp k id).MemOk := h.withdrawArrival.modCrew.unspill.modDie.modSlot

theorem State.MemOk.timeout {k} (h : s.MemOk) : (s.timeout k).MemOk := by
  unfold State.timeout
  dsimp only
  split
  · exact h
  · exact h.takeTrap
  · exact h.takeTrap
  · exact .ite h.withdrawOp.takeTrap h.modSlot.takeTrap
  · exact .ite h.withdrawOp.takeTrap h.modSlot.takeTrap

theorem State.MemOk.execWaitTimeout (h : s.MemOk) : OutOk (execWaitTimeout s) := by
  unfold Machine.execWaitTimeout
  dsimp only
  split
  · split
    · exact .next h.performed
    · exact .next (h.foldl (fun _ _ h₁ => h₁.timeout))
  · exact h.idle

/-! ### Machine/LoadStore.lean -/

theorem State.MemOk.accessTraps {va n changes} (h : s.MemOk) : OptOk (accessTraps va n changes s) :=
  .ite (.some h.trapHere) (.ite (.some h.trapHere) .none)

theorem State.MemOk.access {i regs flags} {va : State → Word} {n changes writes atHome} {x : State → Issue} (h : s.MemOk) :
    OutOk (s.access i regs flags va n changes writes atHome x) := by
  unfold State.access
  refine h.streamOp fun _ h₁ => ?_
  split
  · next he => exact .some (h₁.accessTraps _ he)
  · exact .ite (.some h₁.waitHere) .none

theorem State.MemOk.loadInsn {i t a st pm o n signed} (h : s.MemOk) : OutOk (s.loadInsn i t a st pm o n signed) := h.access

theorem State.MemOk.storeInsn {i t a st pm o n} (h : s.MemOk) : OutOk (s.storeInsn i t a st pm o n) := h.access

theorem State.MemOk.feInsn {i fn regs dest data a st pm flag} (h : s.MemOk) : OutOk (s.feInsn i fn regs dest data a st pm flag) := h.access

theorem State.MemOk.atomInsn {i fn t a st pm b} (h : s.MemOk) : OutOk (s.atomInsn i fn t a st pm b) := h.access

theorem State.MemOk.issueNow {f : State → Op → State} {i x} (h : s.MemOk) (hf : ∀ s x1, s.MemOk → (f s x1).MemOk) : (s.issueNow i x f).MemOk := by
  unfold State.issueNow
  dsimp only
  split
  · exact h.waitHere
  · split
    · exact (hf _ _ h.modMe).performedNone
    · exact h.modMe

/-! ### Machine/SyncOps.lean -/

theorem State.MemOk.spillAll {n} (h : s.MemOk) : (State.spillAll n s).MemOk := by
  induction n generalizing s with
  | zero => exact h
  | succ n ih =>
    unfold State.spillAll
    split
    · exact h
    · split
      · next he => exact ih (h.spill.of_ok he)
      · exact h.spill

theorem State.MemOk.execMigr {f a p st} (h : s.MemOk) : OutOk (execMigr f a p st s) := by
  refine h.issue fun s h => ?_
  split
  · exact h.illegal
  · split
    · exact h.waitHere
    · split
      · exact h.waitHere
      · exact h.trapHere
      · next he => exact (h.spillAll.of_ok he).issueOp

/-! ### Machine/EngineOps.lean -/

theorem State.MemOk.engineOp {put : State → Op → State} {i slot d v} {room : State → Bool} {x} (h : s.MemOk) (hput : ∀ s x1, s.MemOk → (put s x1).MemOk) :
    OutOk (s.engineOp i slot d v room x put) := by
  unfold State.engineOp
  dsimp only
  split
  · exact .next h.illegal
  · split
    · exact .next h.trapHere
    · refine h.issue fun _ h₁ => ?_
      split
      · exact h₁.waitHere
      · split
        · exact (hput _ _ h₁.modMe).beginOp
        · exact h₁.modMe

theorem State.MemOk.matrixOp {i fn d v st p} (h : s.MemOk) : OutOk (s.matrixOp i fn d v st p) := h.engineOp (fun _ _ h₁ => h₁.modCrew)

theorem State.MemOk.copyOp {i fn d v st p} (h : s.MemOk) : OutOk (s.copyOp i fn d v st p) := h.engineOp (fun _ _ h₁ => .ite h₁ h₁.modChannel)

/-! ### Machine/System.lean -/

theorem State.MemOk.execMfs {d n} (h : s.MemOk) : OutOk (execMfs d n s) := by
  unfold Machine.execMfs
  refine h.issue fun _ h₁ => ?_
  split
  · exact h₁.illegal
  · exact h₁.wr.done

theorem State.MemOk.tableWrite {peer sel v} (h : s.MemOk) : OptOk (s.tableWrite peer sel v) := by
  unfold State.tableWrite
  dsimp only
  split
  · exact .none
  · exact .ite .none (.some h.modDie)

theorem State.MemOk.privWrite {n v} (h : s.MemOk) : OptOk (s.privWrite n v) :=
  .ite (.ite (.some h.modMe) .none) (.ite (.ite (.some h.modDie) .none) (.ite (.ite (.some h.modDie) .none) (.ite (.ite (.some h.modDie) .none) (.ite (.ite
    (.some h.modDie) .none) (.ite (.some h.modDie) (.ite (.ite (.some h.modDie) .none) (.ite (.ite (.some h.modMe) .none) (.ite h.tableWrite .none))))))))

theorem State.MemOk.sregWrite {n v} (h : s.MemOk) : OptOk (s.sregWrite n v) :=
  .ite (.ite h.privWrite .none) (.ite (.ite (.some h.modMe) .none) (.ite (.some h.modMe) (.ite (.some h.modMe) (.ite (.some h.modMe) (.ite
    (.some h.modMe) .none)))))

theorem State.MemOk.setScfg {i st v} (h : s.MemOk) : (s.setScfg i st v).MemOk := .ite h.illegal (.ite h.modMe.done h.modMe)

theorem State.MemOk.execMts {a n} (h : s.MemOk) : OutOk (execMts a n s) := by
  unfold Machine.execMts
  dsimp only
  refine h.issue fun _ h₁ => ?_
  split
  · exact h₁.setScfg
  · split
    · exact .ite h₁.trapHere h₁.modMe.done
    · split
      · exact .ite h₁.done.orFlags.modMe h₁.illegal
      · split
        · exact h₁.illegal
        · next he => exact (h₁.sregWrite _ he).done

theorem State.MemOk.trapAfter {i cause detail} (h : s.MemOk) : (s.trapAfter i cause detail).MemOk := h.done.takeTrap

theorem State.MemOk.svc {start : Word → Word → State → State} {i c a} (h : s.MemOk) (hstart : ∀ x0 x1 s2, s2.MemOk → (start x0 x1 s2).MemOk) :
    OutOk (s.svc i c a start) := by
  unfold State.svc
  split
  · exact .next h.illegal
  · refine h.issue fun _ h₁ => ?_
    split
    · exact h₁.waitHere
    · split
      · exact h₁.trapHere
      · exact hstart _ _ _ h₁.done

theorem State.MemOk.svcRuns {i wc arg code waits} (h : s.MemOk) : (s.svcRuns i wc arg code waits).MemOk := h.modDie

theorem State.MemOk.replayEntry {k id} (h : s.MemOk) : (s.replayEntry k id).MemOk := (h.foldl (fun _ _ h₁ => h₁.modSlot)).beginOp

theorem State.MemOk.replaySlot {k} (h : s.MemOk) : (s.replaySlot k).MemOk :=
  .ite ((h.foldl (fun _ _ h₁ => h₁.replayEntry)).modQuad) (.ite ((h.foldl (fun _ _ h₁ => h₁.replayEntry)).modCrew) (h.foldl (fun _ _ h₁ => h₁.replayEntry)))

theorem State.MemOk.rsm {arg} (h : s.MemOk) : (s.rsm arg).1.MemOk := by
  unfold State.rsm
  dsimp only
  split
  · exact h.fst
  · split
    · exact h.fst
    · split
      · exact h.fst
      · split
        · exact h.fst
        · split
          · exact h.fst
          · exact .fst (.ite (State.MemOk.foldl (.ite h.replaySlot h) (fun _ _ h₁ => h₁.returnTrap)) (.ite h.replaySlot h))

theorem State.MemOk.leaveWait {k} (h : s.MemOk) : (s.leaveWait k).MemOk := by
  unfold State.leaveWait
  split
  · exact .ite h.withdrawOp h
  · exact .ite h.withdrawOp h
  · exact h

theorem State.MemOk.kill {arg} (h : s.MemOk) : (s.kill arg).1.MemOk := by
  unfold State.kill
  dsimp only
  split
  · exact h.fst
  · split
    · exact h.fst
    · split
      · exact h.fst
      · split
        · exact h.fst
        · exact ((h.foldl (fun _ _ h₁ => .ite h₁ h₁.postTrap)).foldl (fun _ _ h₁ => h₁.leaveWait.modSlot)).fst

theorem State.MemOk.tlbinv {arg} (h : s.MemOk) : (s.tlbinv arg).1.MemOk := by
  unfold State.tlbinv
  split
  · exact h.fst
  · exact h.frame.fst

theorem State.MemOk.toAnchor {p g} (h : s.MemOk) : (s.toAnchor p g).MemOk := h.modPkg

theorem State.MemOk.gangctl {wc arg} (h : s.MemOk) : (s.gangctl wc arg).1.MemOk := by
  unfold State.gangctl
  dsimp only
  split
  · exact h.fst
  · split
    · exact h.fst
    · exact h.toAnchor.fst

theorem State.MemOk.execSvcGangctl {c a} (h : s.MemOk) : OutOk (execSvcGangctl c a s) := by
  unfold Machine.execSvcGangctl
  dsimp only
  refine h.svc fun _ _ _ h₁ => ?_
  split
  · exact h₁.gangctl.svcRuns
  · exact h₁.gangctl

theorem State.MemOk.sendPreempt {c} (h : s.MemOk) : (s.sendPreempt c).MemOk := h.foldl (fun _ _ h₁ => h₁.modCore)

theorem State.MemOk.prmptCode {cs code} (h : s.MemOk) : (s.prmptCode cs code).MemOk := h.modDie

theorem State.MemOk.prmpt {arg} (h : s.MemOk) : (s.prmpt arg).1.MemOk := by
  unfold State.prmpt
  split
  · exact h.fst
  · split
    · exact h.fst
    · split
      · exact h.fst
      · split
        · exact h.fst
        · exact h.sendPreempt.fst

theorem State.MemOk.msgrd (h : s.MemOk) : (s.msgrd).MemOk := by
  unfold State.msgrd
  dsimp only
  split
  · exact h
  · split
    · exact h.modDie
    · exact h.modDie.modDie.writeRing

theorem State.MemOk.svcWord {v code} (h : s.MemOk) : (s.svcWord v code).MemOk := by
  unfold State.svcWord
  split
  · exact h
  · split
    · exact h.stashFill
    · exact h

theorem State.MemOk.execSvcCompletion (h : s.MemOk) : OutOk (execSvcCompletion s) := by
  unfold Machine.execSvcCompletion
  split
  · exact h.idle
  · split
    · exact h.idle
    · exact .next h.modDie.svcWord

/-! ### Machine/Queue.lean -/

theorem State.MemOk.modQueue {p q} {f : Queue → Queue} (h : s.MemOk) : (s.modQueue p q f).MemOk := h.modPkg

theorem State.MemOk.endWaitingIn {p q} (h : s.MemOk) : (s.endWaitingIn p q).MemOk :=
  h.foldl (fun _ _ h₁ => h₁.foldl (fun _ _ h₂ => .ite ((h₂.foldl (fun _ _ h₃ => h₃.modGang)).modPkg) h₂))

theorem State.MemOk.failQueue {p q code} (h : s.MemOk) : (s.failQueue p q code).MemOk := h.modQueue

theorem State.MemOk.failPacket {p q id code} (h : s.MemOk) : (s.failPacket p q id code).MemOk := .ite h.failQueue h

theorem State.MemOk.consume {p n} (h : s.MemOk) : (s.consume p n).MemOk := by
  unfold State.consume
  dsimp only
  split
  · exact h
  · exact h.failQueue
  · split
    · exact h.modQueue
    · split
      · exact h.failQueue
      · split
        · exact h.failQueue
        · split
          · exact h.modQueue
          · split
            · exact h.failQueue
            · exact State.MemOk.modQueue (.ite (State.MemOk.memWrite (.ite h.memWrite h.agentWrite)) (State.MemOk.agentWrite (.ite h.memWrite h.agentWrite)))

theorem State.MemOk.acquireFills {p scope} (h : s.MemOk) : (s.acquireFills p scope).MemOk := h.frame

theorem State.MemOk.acquire {p scope} (h : s.MemOk) : (s.acquire p scope).MemOk := .ite h h.acquireFills.frame

theorem State.MemOk.beginPacket {p n dw} (h : s.MemOk) : (s.beginPacket p n dw).MemOk := (State.MemOk.modQueue (.ite h h.acquire)).modPkg

theorem State.MemOk.execPacketBegin (h : s.MemOk) : OutOk (execPacketBegin s) := by
  unfold Machine.execPacketBegin
  dsimp only
  split
  · exact h.idle
  · exact .ite (.next h.beginPacket) h.idle

theorem State.MemOk.dropWork {p w} (h : s.MemOk) : (s.dropWork p w).MemOk := h.modPkg

theorem State.MemOk.packetDone {p q id} (h : s.MemOk) : (s.packetDone p q id).MemOk := h.modQueue

theorem State.MemOk.signalled {p q v} (h : s.MemOk) : (s.signalled p q v).MemOk := .ite h.frame h

theorem State.MemOk.askHost {p q id kind pkt} (h : s.MemOk) : OptOk (s.askHost p q id kind pkt) := .ite .none (.some h.modPkg)

theorem State.MemOk.dependRead {p q id dw v} (h : s.MemOk) : (s.dependRead p q id dw v).MemOk := .ite h.acquire.modQueue.packetDone.modPkg h

theorem State.MemOk.dependPoll {p n} (h : s.MemOk) : (s.dependPoll p n).MemOk := by
  unfold State.dependPoll
  dsimp only
  split
  · exact h
  · split
    · exact h
    · split
      · exact h
      · exact h.failPacket
      · exact .ite (h.askHost.getD h) (.ite h.homeClean.failPacket h.homeClean.dependRead)

theorem State.MemOk.pollDepends {p} (h : s.MemOk) : (s.pollDepends p).MemOk := h.foldl (fun _ _ h₁ => h₁.dependPoll)

theorem State.MemOk.signalOp {p q id kind job va op v} (h : s.MemOk) : OptOk (s.signalOp p q id kind job va op v) := by
  unfold State.signalOp
  dsimp only
  split
  · exact .none
  · exact .some h.failPacket
  · exact .ite (.ite (.ite .none (.some h.memWrite.signalled.packetDone)) h.askHost) (.ite (.some h.homeObtain.failPacket) (.some
      (.ite h.homeObtain.memWrite.unpoison.signalled.packetDone h.homeObtain.memWrite.unpoison.signalled.packetDone.pollDepends)))

theorem State.MemOk.execSignalStore (h : s.MemOk) : OutOk (execSignalStore s) := by
  unfold Machine.execSignalStore
  split
  · exact h.idle
  · split
    · next he => exact .next (h.dropWork.signalOp _ he)
    · exact h.idle

theorem State.MemOk.execSignalAdd (h : s.MemOk) : OutOk (execSignalAdd s) := by
  unfold Machine.execSignalAdd
  split
  · exact h.idle
  · split
    · next he => exact .next (h.dropWork.signalOp _ he)
    · exact h.idle

theorem State.MemOk.execSignalSubtract (h : s.MemOk) : OutOk (execSignalSubtract s) := by
  unfold Machine.execSignalSubtract
  split
  · exact h.idle
  · split
    · next he => exact .next (h.dropWork.signalOp _ he)
    · exact h.idle

theorem State.MemOk.completeWork {p q id dw} (h : s.MemOk) : OptOk (s.completeWork p q id dw) := .ite (.some h.packetDone) h.signalOp

theorem State.MemOk.freeLaunch {p ls} (h : s.MemOk) : (s.freeLaunch p ls).MemOk := h.modPkg.foldl (fun _ _ h₁ => h₁.modDie)

theorem State.MemOk.endLaunch {p q id} (h : s.MemOk) : (s.endLaunch p q id).MemOk := by
  unfold State.endLaunch
  split
  · exact h.freeLaunch
  · exact h

theorem State.MemOk.completeLaunch {p ls l} (h : s.MemOk) : OptOk (s.completeLaunch p ls l) := by
  unfold State.completeLaunch
  cases he : s.completeWork p l.q l.id l.dw with
  | none => exact .none
  | some t =>
    have ht : t.MemOk := h.completeWork _ he
    exact .some (.ite ht ht.freeLaunch)

theorem State.MemOk.failCopy {p w c} (h : s.MemOk) : (s.failCopy p w c).MemOk := h.dropWork.failPacket

theorem State.MemOk.putPiece {p w n v} (h : s.MemOk) : OptOk (s.putPiece p w n v) := by
  unfold State.putPiece
  dsimp only
  split
  · exact .none
  · exact .some h.failCopy
  · exact .ite (.some h.failCopy) (.ite (.some (State.MemOk.modPkg (.ite h.memWrite h.agentWrite))) ((State.MemOk.dropWork
      (.ite h.memWrite h.agentWrite)).completeWork))

theorem State.MemOk.copyPiece {p w} (h : s.MemOk) : (s.copyPiece p w).MemOk := by
  unfold State.copyPiece
  dsimp only
  split
  · exact h.dropWork.completeWork.getD h
  · split
    · exact h
    · split
      · exact h
      · exact h.failCopy
      · exact .ite (h.askHost.getD h) (.ite h.failCopy (h.agentClean.putPiece.getD h))

theorem State.MemOk.execCopy (h : s.MemOk) : OutOk (execCopy s) := by
  unfold Machine.execCopy
  split
  · exact .ite (.next h.copyPiece) h.idle
  · exact h.idle

theorem State.MemOk.execCopyPiece (h : s.MemOk) : OutOk (execCopyPiece s) := by
  unfold Machine.execCopyPiece
  split
  · exact .ite (.next h.copyPiece) h.idle
  · exact h.idle

theorem State.MemOk.atHost {k} (h : s.MemOk) : (s.atHost k).1.MemOk := by
  unfold State.atHost
  dsimp only
  split
  · exact h.memWrite.fst
  · exact h.fst

theorem State.MemOk.threadCompletion {p k good} (h : s.MemOk) : (s.threadCompletion p k good).MemOk :=
  .ite (State.MemOk.late (.ite h.atHost h)) (State.MemOk.send (.ite h.atHost h))

theorem State.MemOk.completion {p r k good} (h : s.MemOk) : OptOk (s.completion p r k good) := by
  unfold State.completion
  dsimp only
  split
  · exact .some h.threadCompletion
  · split
    · split
      · exact .some h
      · exact .ite (.some h.dependRead) (.some h.failPacket)
    · split
      · split
        · exact .some h
        · exact .ite h.putPiece (.some h.failCopy)
      · exact .ite (.some (State.MemOk.failPacket (.ite h.endLaunch h))) (.some ((((State.MemOk.atHost
          (.ite h.endLaunch h)).signalled).packetDone).pollDepends))

theorem State.MemOk.execPcieCompletion (h : s.MemOk) : OutOk (execPcieCompletion s) := by
  unfold Machine.execPcieCompletion
  dsimp only
  split
  · exact h.idle
  · split
    · exact h.idle
    · split
      · next he => exact .next (h.modPkg.completion _ he)
      · exact h.idle

theorem State.MemOk.aer {p} (h : s.MemOk) : (s.aer p).MemOk := h.frame

theorem State.MemOk.execHostBar4Read (h : s.MemOk) : OutOk (execHostBar4Read s) := by
  unfold Machine.execHostBar4Read
  dsimp only
  split
  · exact h.idle
  · split
    · exact .next h.aer.frame
    · exact .ite h.idle (.ite (.next h.agentClean.frame) (.next h.agentClean.frame))

/-- The host's bytes written at their home (R54). -/
theorem State.MemOk.writeList {a bs} (h : s.MemOk) : State.MemOk { s with mem := s.mem.writeList a bs } := by
  have ⟨hm, hr⟩ := (State.memoryOk_iff s).mp h
  exact (State.memoryOk_iff _).mpr ⟨Cells.wf_writeList a bs hm, hr⟩

theorem State.MemOk.execHostBar4Write (h : s.MemOk) : OutOk (execHostBar4Write s) := by
  unfold Machine.execHostBar4Write
  extract_lets p n
  split
  · exact h.idle
  · split
    · exact .next h.aer
    · extract_lets s'
      have h' : s'.MemOk := h.agentObtain
      exact .ite (.next h.frame) (.ite (.next h'.aer) (.next h'.writeList.unpoison))

/-! ### Machine/Image.lean -/

theorem State.MemOk.cleanRegions {c keep} (h : s.MemOk) : (s.cleanRegions c keep).MemOk := h.foldl (fun _ _ h₁ => .ite h₁.cleanRegion h₁)

/-! ### Machine/Launch.lean -/

theorem State.MemOk.modDieLaunch {peer ls} {f : DieLaunch → DieLaunch} (h : s.MemOk) : (s.modDieLaunch peer ls f).MemOk := h.modDie

theorem State.MemOk.readConsts {p job va n} (h : s.MemOk) : ResOk Prod.fst (s.readConsts p job va n) := by
  induction n with
  | zero => exact .ok h
  | succ n ih =>
    unfold State.readConsts
    split
    · exact .error
    · next he =>
      have hs := ih _ he
      split
      · exact .error
      · exact .ite .error (.ok (.ite hs hs.homeClean))

theorem State.MemOk.acceptLaunch {p w} (h : s.MemOk) : OptOk (s.acceptLaunch p w) := by
  unfold State.acceptLaunch
  dsimp only
  split
  · exact .none
  · split
    · exact .none
    · exact .some h.dropWork.failPacket
    · next he => exact .ite (((h.readConsts _ he).dropWork).completeWork) (.some ((((h.readConsts _ he).dropWork).modPkg).foldl
        (fun _ _ h₁ => h₁.modDieLaunch)))

theorem State.MemOk.execLaunch (h : s.MemOk) : OutOk (execLaunch s) := by
  unfold Machine.execLaunch
  split
  · split
    · split
      · next he => exact .next (h.acceptLaunch _ he)
      · exact h.idle
    · exact h.idle
  · exact h.idle

theorem State.MemOk.execLaunchAccept (h : s.MemOk) : OutOk (execLaunchAccept s) := by
  unfold Machine.execLaunchAccept
  dsimp only
  split
  · split
    · exact .next h.consume
    · split
      · exact .next h.consume
      · split
        · exact .next (h.consume.beginPacket.acceptLaunch.getD h.consume.beginPacket)
        · exact .next h.consume.beginPacket
  · exact h.idle

theorem State.MemOk.take {peer ls} (h : s.MemOk) : (s.take peer ls).1.MemOk := by
  unfold State.take
  dsimp only
  split
  · exact h.modDieLaunch.fst
  · split
    · exact h.modDieLaunch.fst
    · split
      · exact h.modDieLaunch.fst
      · exact h.modDieLaunch.modDieLaunch.fst

theorem State.MemOk.dispatch {c lead ls l n order} (h : s.MemOk) : (s.dispatch c lead ls l n order).MemOk :=
  (State.MemOk.modCore (.ite h.modSlot.cleanRegions.wipeStash h)).foldl (fun _ _ h₁ => .ite h₁.modSlot h₁)

theorem State.MemOk.bindTo {c ls l n} (h : s.MemOk) : (s.bindTo c ls l n).MemOk :=
  .ite (h.modDie.modDieLaunch.dispatch.dispatch.foldl (fun _ _ h₁ => h₁.alike)) h.modDie.modDieLaunch.dispatch

theorem State.MemOk.choose {c n} (h : s.MemOk) : (State.choose c n s).MemOk := by
  induction n generalizing s with
  | zero => exact h
  | succ n ih =>
    unfold State.choose
    split
    · exact h
    · split
      · exact h
      · extract_lets r
        have hr : r.1.MemOk := h.take
        split
        · exact .ite h hr.bindTo
        · exact ih hr

theorem State.MemOk.execCobaltPreempt (h : s.MemOk) : OutOk (execCobaltPreempt s) := by
  unfold Machine.execCobaltPreempt
  dsimp only
  split
  · exact h.idle
  · exact .ite (.next h.sendPreempt) h.idle

theorem State.MemOk.unreplay {c} (h : s.MemOk) : (s.unreplay c).MemOk := by
  unfold State.unreplay
  split
  · exact h
  · exact .ite h.modQuad.modCrew h

theorem State.MemOk.preemptCore {c} (h : s.MemOk) : (s.preemptCore c).MemOk := by
  unfold State.preemptCore
  extract_lets s₁ s₂ ts x s₃ s₄
  have h₂ : s₂.MemOk := h.unreplay.cleanRegions.foldl fun _ _ h => h.finishCmd
  have h₄ : s₄.MemOk := h₂.putImage.foldl fun _ _ h => h.modSlot
  exact h₄.modCore

theorem State.MemOk.restart {k id} (h : s.MemOk) : (s.restart k id).MemOk := by
  unfold State.restart
  dsimp only
  split
  · exact .ite h.modSlot.beginWfe (.ite h.modSlot.beginOp h.modSlot)
  · exact h.modSlot

theorem State.MemOk.restartAll {c} (h : s.MemOk) : (s.restartAll c).MemOk :=
  (h.foldl (fun _ _ h₁ => h₁.foldl (fun _ _ h₂ => h₂.restart))).foldl (fun _ _ h₁ => h₁.serveBox)

theorem State.MemOk.resumeCore {c sv} (h : s.MemOk) : (s.resumeCore c sv).MemOk := by
  unfold State.resumeCore
  extract_lets r s₁ s₂ s₃ g x'
  have h₂ : s₂.MemOk := h.getImage.cleanRegions.restoreStash
  have h₃ : s₃.MemOk := h₂.foldl fun _ _ h => h.modSlot
  exact h₃.modCore

theorem State.MemOk.execCobaltResume (h : s.MemOk) : OutOk (execCobaltResume s) := by
  unfold Machine.execCobaltResume
  dsimp only
  split
  · exact h.idle
  · split
    · refine .next ?_
      refine State.MemOk.foldl ?_ (fun _ _ h₁ => h₁.restartAll)
      refine State.MemOk.foldl ?_ (fun _ _ h₁ => h₁.alike)
      refine h.foldl fun _ _ h₁ => ?_
      split
      · exact h₁.resumeCore
      · exact h₁
    · exact h.idle

theorem State.MemOk.redeliver {c e} (h : s.MemOk) : OptOk (s.redeliver c e) := by
  unfold State.redeliver
  dsimp only
  split
  · split
    · exact .ite (.some h.boxWrite.setPhase) .none
    · exact .ite (.some h.boxWrite) .none
  · split
    · exact .some h.queuePush
    · split
      · exact .some h.place
      · exact .some h

theorem State.MemOk.execSpillRedeliver (h : s.MemOk) : OutOk (execSpillRedeliver s) := by
  unfold Machine.execSpillRedeliver
  dsimp only
  split
  · exact h.idle
  · split
    · split
      · next he => exact .next (((h.redeliver _ he).setSpill).syncPair)
      · exact h.idle
    · exact h.idle

theorem State.MemOk.countRetired {c b} (h : s.MemOk) : (s.countRetired c b).MemOk := h.modDieLaunch.modPkg

theorem State.MemOk.execParcelRetire (h : s.MemOk) : OutOk (execParcelRetire s) := by
  unfold Machine.execParcelRetire
  dsimp only
  split
  · exact .next (.ite (State.MemOk.foldl (.ite h ((h.foldl (fun _ _ h₁ => h₁.modCrew)).countRetired)) (fun _ _ h₁ => h₁.modCrew))
      (.ite h ((h.foldl (fun _ _ h₁ => h₁.modCrew)).countRetired)))
  · split
    · exact h.idle
    · exact .ite (.next ((h.foldl (fun _ _ h₁ => h₁.modCore)).countRetired)) h.idle

theorem State.MemOk.execRetired (h : s.MemOk) : OutOk (execRetired s) := by
  unfold Machine.execRetired
  extract_lets p s₁
  have h₁ : s₁.MemOk := h.modPkg
  split
  · exact h.idle
  · split
    · exact .next h₁
    · extract_lets counts s₂
      have h₂ : s₂.MemOk := h₁.modPkg
      split
      · split
        · next he => exact .next (h₂.completeLaunch _ he)
        · exact h.idle
      · exact .next h₂

/-! ### Machine/Gang.lean -/

theorem State.MemOk.sendGang {p w} (h : s.MemOk) : (s.sendGang p w).MemOk := h.dropWork.toAnchor

theorem State.MemOk.execGangOut (h : s.MemOk) : OutOk (execGangOut s) := by
  unfold Machine.execGangOut
  split
  · exact .next h.sendGang
  · exact h.idle

theorem State.MemOk.execGangIn (h : s.MemOk) : OutOk (execGangIn s) := by
  unfold Machine.execGangIn
  split
  · exact .next h.sendGang
  · exact h.idle

theorem State.MemOk.execGangAbort (h : s.MemOk) : OutOk (execGangAbort s) := by
  unfold Machine.execGangAbort
  split
  · exact .next h.sendGang
  · exact h.idle

theorem State.MemOk.answerGang {g code} (h : s.MemOk) : OptOk (s.answerGang g code) := by
  unfold State.answerGang
  split
  · split
    · exact .some h.failPacket
    · exact h.completeWork
  · exact .some h.modDie
  · exact .some h

theorem State.MemOk.dropJob {p job} (h : s.MemOk) : (s.dropJob p job).MemOk :=
  ((h.foldl (fun _ _ h₁ => .ite h₁.modSlot h₁)).foldl (fun _ _ h₁ => .ite (.ite h₁.modCore.modCore.prmptCode h₁.modCore) h₁)).frame

theorem State.MemOk.abortJob {anchor job why} (h : s.MemOk) : (s.abortJob anchor job why).MemOk :=
  ((h.foldl (fun _ _ h₁ => ((h₁.dropJob.foldl (fun _ _ h₂ => .ite h₂.freeLaunch.packetDone h₂)).modPkg).foldl (fun _ _ h₂ => h₂.modDie))).frame).report

theorem State.MemOk.orderAll {p g o} (h : s.MemOk) : (s.orderAll p g o).MemOk := h.foldl (fun _ _ h₁ => h₁.modGang)

theorem State.MemOk.execGangCommandStart (h : s.MemOk) : OutOk (execGangCommandStart s) := by
  unfold Machine.execGangCommandStart
  dsimp only
  split
  · exact h.idle
  · split
    · exact h.idle
    · split
      · split
        · next he => exact .next (h.modPkg.answerGang _ he)
        · exact h.idle
      · split
        · split
          · next he => exact .next (h.modPkg.abortJob.answerGang _ he)
          · exact h.idle
        · exact .next h.modPkg.modPkg.orderAll

theorem State.MemOk.freezeJob {p job} (h : s.MemOk) : (s.freezeJob p job).MemOk :=
  ((h.frame.foldl (fun _ _ h₁ => h₁.send)).foldl (fun _ _ h₁ => h₁.abortAt)).modGang

theorem State.MemOk.sweepNet {p job} {c : Flight → Bool} (h : s.MemOk) : (s.sweepNet p job c).MemOk := h.frame.modGang

theorem State.MemOk.sweepInside {p job} (h : s.MemOk) : (s.sweepInside p job).MemOk :=
  (h.sweepNet.modGang.foldl (fun _ _ h₁ => .ite h₁.setSpill h₁)).foldl (fun _ _ h₁ => h₁.modDie)

theorem State.MemOk.sweepPorts {p job is} (h : s.MemOk) : (s.sweepPorts p job is).MemOk := h.sweepNet.modGang

theorem State.MemOk.keepJob {p job} (h : s.MemOk) : (s.keepJob p job).MemOk := h.modGang

theorem State.MemOk.execSave (h : s.MemOk) : OutOk (execSave s) := by
  unfold Machine.execSave
  extract_lets p job g s₁ s₂ imgs s₃
  have h₁ : s₁.MemOk := h.foldl fun _ _ h => .ite h.cleanRegions h
  have h₂ : s₂.MemOk := h₁.foldl fun _ _ h => .ite (h.foldl fun _ _ h => h.flushOwned) h
  have h₃ : s₃.MemOk := h₂.foldl fun _ _ h => h.putImage
  exact .ite h.idle (.ite .fault (.next h₃.keepJob))

theorem State.MemOk.saveLate {p job} (h : s.MemOk) : (s.saveLate p job).MemOk := h.agentWrite.putImage

theorem State.MemOk.releaseJob {p job} (h : s.MemOk) : (s.releaseJob p job).MemOk := h.saveLate.dropJob.modGang

theorem State.MemOk.restoreFabric {p d job m} (h : s.MemOk) : (s.restoreFabric p d job m).MemOk := .ite h.modDie.modPkg h.modDie

theorem State.MemOk.restorePart {p d job} (h : s.MemOk) : (s.restorePart p d job).MemOk :=
  (((h.getImage.restoreFabric.foldl (fun _ _ h₁ => .ite h₁.modSlot h₁)).foldl (fun _ _ h₁ => .ite h₁.cleanRegions.restoreStash.modCore h₁)).foldl (fun _ _ h₁
    => .ite h₁.putImage.modCore h₁)).foldl (fun _ _ h₁ => .ite h₁.modQuad h₁)

theorem State.MemOk.reinject {r} (h : s.MemOk) : (s.reinject r).MemOk := .ite h.setSpill (.ite h.modDie h.frame)

theorem State.MemOk.execInRestore (h : s.MemOk) : OutOk (execInRestore s) := by
  unfold Machine.execInRestore
  dsimp only
  split
  · exact .next ((h.foldl (fun _ _ h₁ => h₁.restorePart)).modGang)
  · split
    · split
      · exact .next h.reinject.modGang
      · exact h.idle
    · exact h.idle

theorem State.MemOk.execPhaseComplete (h : s.MemOk) : OutOk (execPhaseComplete s) := by
  unfold Machine.execPhaseComplete
  extract_lets p job o a t
  have ht : t.MemOk := h.modGang
  split
  · exact h.idle
  · refine .ite h.idle (.ite (.next ht) (.ite ?_ (.next ht.orderAll)))
    extract_lets t'
    split
    · next he => exact .next (ht.modPkg.orderAll.answerGang _ he)
    · exact h.idle

/-! ### Machine/Slate.lean -/

theorem State.MemOk.execPowerOff (h : s.MemOk) : OutOk (execPowerOff s) := by
  unfold Machine.execPowerOff
  extract_lets p
  split
  · exact h.idle
  · obtain ⟨hm, hs, he, hp, hse, hsp⟩ := (State.memoryOk_iff s).mp h
    exact .next <| (State.memoryOk_iff _).mpr ⟨Cells.wf_filter _ hm, Cells.wf_filter _ hs, NSet.wf_filter _ he, NSet.wf_filter _ hp, NSet.wf_filter _ hse,
      NSet.wf_filter _ hsp⟩

theorem State.MemOk.startPower {p v} (h : s.MemOk) : (s.startPower p v).MemOk := .ite h.modPkg h.modPkg

theorem State.MemOk.pwrctl {v want} (h : s.MemOk) : OutOk (s.pwrctl v want) := .ite h.idle (.ite (.next h.modPkg) (.next h.startPower))

theorem State.MemOk.execPowerTransitionDone (h : s.MemOk) : OutOk (execPowerTransitionDone s) := by
  unfold Machine.execPowerTransitionDone
  dsimp only
  split
  · exact h.idle
  · split
    · exact .next h.modPkg.startPower
    · exact .next h.modPkg

theorem State.MemOk.startCobalt {peer} (h : s.MemOk) : (s.startCobalt peer).MemOk := h.modDie

theorem State.MemOk.startSup {peer entry} (h : s.MemOk) : (s.startSup peer entry).MemOk := h.modDie.modSlot

theorem State.MemOk.loadImage {peer b} (h : s.MemOk) : (s.loadImage peer b).MemOk := h.putImage

theorem State.MemOk.acceptStage {p who t b} (h : s.MemOk) : (s.acceptStage p who t b).MemOk :=
  State.MemOk.modPkg (.ite ((h.foldl (fun _ _ h₁ => h₁.loadImage)).foldl (fun _ _ h₁ => h₁.startCobalt))
    (.ite ((h.foldl (fun _ _ h₁ => h₁.loadImage)).foldl (fun _ _ h₁ => h₁.startSup)) ((h.foldl (fun _ _ h₁ => h₁.loadImage)).modPkg)))

theorem State.MemOk.refuseStage {p who code} (h : s.MemOk) : (s.refuseStage p who code).MemOk := h.modPkg

theorem State.MemOk.bootAgain {p d} (h : s.MemOk) : (s.bootAgain p d).MemOk := by
  unfold State.bootAgain
  dsimp only
  split
  · exact h
  · split
    · exact h.modPkg
    · split
      · exact .ite h h.refuseStage
      · exact .ite h.acceptStage.modPkg (.ite h h.refuseStage)

theorem State.MemOk.reboot {p} (h : s.MemOk) : (s.reboot p).MemOk := h.foldl (fun _ _ h₁ => h₁.bootAgain.bootAgain.bootAgain)

theorem State.MemOk.checkStage {p b} (h : s.MemOk) : OutOk (s.checkStage p b) := by
  unfold State.checkStage
  dsimp only
  split
  · exact .next h.refuseStage
  · exact .ite .fault (.next h.acceptStage.reboot)

theorem State.MemOk.badSequence {p} (h : s.MemOk) : (s.badSequence p).MemOk := h.refuseStage

theorem State.MemOk.execRecoveryPieceCopied (h : s.MemOk) : OutOk (execRecoveryPieceCopied s) := by
  unfold Machine.execRecoveryPieceCopied
  dsimp only
  split
  · exact h.idle
  · exact .ite (.next h.putImage.modPkg) h.putImage.modPkg.clearBuffer.checkStage

theorem State.MemOk.slateFreeze {peer job cause} (h : s.MemOk) : (s.slateFreeze peer job cause).MemOk :=
  .ite ((State.MemOk.toAnchor (.ite h.modPkg.modGang h.modPkg)).report) h.abortJob

theorem State.MemOk.loseParcels {p cores job} (h : s.MemOk) : (s.loseParcels p cores job).MemOk :=
  ((h.foldl (fun _ _ h₁ => h₁.foldl (fun _ _ h₂ => h₂.putImage))).foldl (fun _ _ h₁ => h₁.modGang)).foldl (fun _ _ h₁ => .ite h₁.modDieLaunch h₁.modPkg)

theorem State.MemOk.retireQuad {q bad} (h : s.MemOk) : (s.retireQuad q bad).MemOk := by
  unfold State.retireQuad
  dsimp only
  split
  · exact .ite ((((h.foldl (fun _ _ h₁ => h₁.homeObtain)).foldl (fun _ _ h₁ => .ite h₁.homeObtain h₁.dropLine)).modPkg).modDie) ((((((h.foldl (fun _ _ h₁ =>
      h₁.homeObtain)).foldl (fun _ _ h₁ => .ite h₁.homeObtain h₁.dropLine)).modPkg).modDie).foldl (fun _ _ h₁ => h₁.setFull.setPoison)).report)
  · exact ((((h.foldl (fun _ _ h₁ => h₁.homeObtain)).foldl (fun _ _ h₁ => .ite h₁.homeObtain h₁.dropLine)).modPkg).modDie).report

theorem State.MemOk.freezeFor {peer jobs} (h : s.MemOk) : (s.freezeFor peer jobs).MemOk := h.modPkg.foldl (fun _ _ h₁ => h₁.slateFreeze)

theorem State.MemOk.startRepair {c unit} (h : s.MemOk) : (s.startRepair c unit).MemOk := by
  unfold State.startRepair
  dsimp only
  refine State.MemOk.freezeFor ?_
  refine State.MemOk.modPkg ?_
  split
  · exact h.modQuad
  · exact h.foldl (fun _ _ h₁ => h₁.modSlot)

theorem State.MemOk.middleRepair {p r bad} (h : s.MemOk) : (s.middleRepair p r bad).MemOk := by
  unfold State.middleRepair
  dsimp only
  refine (State.MemOk.modPkg (.ite (.ite h ((h.foldl (fun _ _ h₁ => h₁.loseParcels)).retireQuad)) (State.MemOk.wipeStash
    (.ite h ((h.foldl (fun _ _ h₁ => h₁.loseParcels)).retireQuad))))).foldl fun _ _ h₁ => ?_
  split
  · exact h₁.orderAll
  · exact h₁

theorem State.MemOk.endRepair {p r} (h : s.MemOk) : (s.endRepair p r).MemOk := h.modPkg.foldl (fun _ _ h₁ => .ite h₁.abortJob (.ite h₁ h₁.modPkg))

theorem State.MemOk.execUncorrectableError (h : s.MemOk) : OutOk (execUncorrectableError s) := by
  unfold Machine.execUncorrectableError
  dsimp only
  split
  · exact .ite (.next h.startRepair) h.idle
  · exact .ite h.idle (.ite (.ite (.next h.freezeFor) (.ite (.next h.middleRepair) h.idle)) (.ite (.next h.endRepair) h.idle))

/-! ### Machine/Links.lean -/

theorem State.MemOk.modBoundary {p b} {f : Boundary → Boundary} (h : s.MemOk) : (s.modBoundary p b f).MemOk := h.modPkg

theorem State.MemOk.countRetrain {p link} (h : s.MemOk) : (s.countRetrain p link).MemOk := h.modPkg

/-! ### Machine/Vector.lean -/

theorem State.MemOk.vop {i d srcs k} {f : Nat → BitVec 32 × BitVec 6} (h : s.MemOk) : OutOk (s.vop i d srcs k f) := h.vector

theorem State.MemOk.vop2 {i d a b k} {f : BitVec 32 → BitVec 32 → BitVec 32 × BitVec 6} (h : s.MemOk) : OutOk (s.vop2 i d a b k f) := h.vop

theorem State.MemOk.vop1 {i d a k} {f : BitVec 32 → BitVec 32 × BitVec 6} (h : s.MemOk) : OutOk (s.vop1 i d a k f) := h.vop

theorem State.MemOk.vselect {i d a b k} (h : s.MemOk) : OutOk (s.vselect i d a b k) := h.vop

theorem State.MemOk.reduce {i d a k} {f : List (BitVec 32) → Word × BitVec 6} (h : s.MemOk) : OutOk (s.reduce i d a k f) :=
  h.issue (fun _ h₁ => h₁.wr.done.orFlags)

theorem State.MemOk.maskOp {i d regs v} (h : s.MemOk) : OutOk (s.maskOp i d regs v) := h.issue (fun _ h₁ => h₁.modMe.done)

theorem State.MemOk.vecWalks {writes ps} (h : s.MemOk) : (s.vecWalks writes ps).MemOk := by
  unfold State.vecWalks
  refine State.MemOk.waitHere ?_
  refine h.foldl fun _ _ h₁ => ?_
  split
  · exact h₁.startWalk
  · exact h₁

theorem State.MemOk.vecAccess {i writes ps aligned} {x : List Part → Issue} (h : s.MemOk) : (s.vecAccess i writes ps aligned x).MemOk := by
  unfold State.vecAccess
  split
  · exact h.vecWalks
  · exact h.trapHere
  · exact .ite h.trapHere h.issueOp

theorem State.MemOk.vecNone {i kind st p} (h : s.MemOk) : (s.vecNone i kind st p).MemOk := h.issueNow (fun _ _ h₁ => h₁)

theorem State.MemOk.vecInsn {i store d regs vecs st p k} {addr : State → Nat → Word} (h : s.MemOk) : OutOk (s.vecInsn i store d regs vecs st p k addr) :=
  h.issue (fun _ h₁ => .ite h₁.vecNone h₁.vecAccess)

theorem State.MemOk.execVldd {d a st p k o} (h : s.MemOk) : OutOk (execVldd d a st p k o s) := by
  unfold Machine.execVldd
  extract_lets i
  refine h.issue fun s h => ?_
  extract_lets m va base later
  split
  · exact h.vecNone
  · split
    · exact h.vecWalks
    · exact h.trapHere
    · split
      · extract_lets r ps
        have hr : r.2.MemOk := h.snap
        refine .ite h.issueOp ?_
        split
        · exact h.vecWalks
        · exact h.trapHere
        · refine .ite h.trapHere (.ite h.issueOp ?_)
          split
          · exact h.trapHere
          · exact hr.issueOp
      · exact h.waitHere

/-! ### Machine/Dispatch.lean -/

theorem State.MemOk.exec {i : Instr} (h : s.MemOk) : OutOk (exec i s) := by
  unfold Machine.exec
  cases i with
  | add | sub | mul | mulh | mulhn | and | or | xor | andn | shl | shr | sra | rol | min | max | minn | maxn | clz | popc | sext | zext | addi |
    andi | ori | xori | shli | shri | srai | roli | li | lui | ltop | fmin | fmax | fabs | fneg | fclass | kget | kpop | kfirst => exact h.scalar
  | div | divn | rem | remn | fdiv | fsqrt => exact h.latent
  | sel | vext => exact h.issue (fun _ h₁ => h₁.wr.done)
  | cmp | cmpi | fcmp => exact h.compare
  | fadd | fsub | fmul | ffma | frnd | fcvt | ftoi => exact h.scalarF
  | bt => exact h.issue (fun _ h₁ => .ite h₁.jumpTo h₁.done)
  | bf => exact h.issue (fun _ h₁ => .ite h₁.done h₁.jumpTo)
  | br | jmpr => exact h.issue (fun _ h₁ => h₁.jumpTo)
  | callr | callInsn => exact h.issue (fun _ h₁ => h₁.call)
  | ret => exact h.execRet
  | loop | loopi => exact h.issue (fun _ h₁ => h₁.loop)
  | ldb | ldbs | ldh | ldhs | ldw | ldws | ldd => exact h.loadInsn
  | stb | sth | stw | std => exact h.storeInsn
  | ldff | ldfe | stef | stff | ldxx | sete => exact h.feInsn
  | aadd | aand | aor | axor | amin | amax | aminn | amaxn | aswap | cas | afadd => exact h.atomInsn
  | cflush | cinv | sunmap | swb | mbxw | mbxwi | mbxr | mbxt | semp | semv | qpush | qpop | wfe | sev | bara | barw | barq | tkgetInsn | tkwait |
    tkdoneInsn | ctrb | ctres | ctabtInsn | spawn => exact h.streamOp (fun _ h₁ => h₁.noTrap)
  | smap => exact h.streamOp (fun _ h₁ => .ite (.some h₁.illegal) (.ite (.some h₁.trapHere) (.ite (.some h₁.waitHere) .none)))
  | pref => exact h.issue (fun _ h₁ => h₁.issueNow (fun _ _ h₂ => h₂.prefetch))
  | fmtw => exact h.streamOp (fun _ h₁ => .ite (.some h₁.trapHere) (.ite (.some h₁.waitHere) .none))
  | sfmt => exact h.streamOp (fun _ h₁ => .ite (.some h₁.illegal) .none)
  | migr => exact h.execMigr
  | exit => exact h.issue (fun _ h₁ => .ite h₁.modMe h₁.waitHere)
  | yield => exact h.issue (fun _ h₁ => .ite ((h₁.issueNow (fun _ _ h₂ => h₂)).modMe) h₁.waitHere)
  | ckpt => exact h.streamOp (fun _ h₁ => .ite (.some h₁.trapHere) (.ite (.some h₁.trapHere) .none))
  | vmov | vabs | vneg | vclz | vpopc | vrcp | vrsq | vmovShort => exact h.vop1
  | vadd | vsub | vmul | vmax | vmin | vand | vor | vxor | vandn | vshl | vshr | vsra | vmulh | vaddF32Short | vsubF32Short | vmulF32Short |
    vmaxF32Short | vminF32Short | vaddI32Short | vsubI32Short | vandShort | vorShort | vxorShort | vaddB2Short | vmulB2Short | vshlI32Short |
    vshrN32Short => exact h.vop2
  | vfma | vfms | vcvt | vperm => exact h.vop
  | vsel | vselShort => exact h.vselect
  | vcmp | vbcast | vins | viota | kany => exact h.issue (fun _ h₁ => h₁.modMe.done)
  | vredadd | vredmax | vredmin => exact h.reduce
  | vredfadd => exact h.issue (fun _ h₁ => h₁.wr.done.orFlags)
  | vtblw => exact h.issue (fun _ h₁ => .ite h₁.illegal (.ite h₁.waitHere ((h₁.foldl (fun _ _ h₂ => h₂.stashWrite)).done)))
  | vtlerp => exact h.issue (fun _ h₁ => .ite h₁.illegal (.ite h₁.waitHere h₁.modMe.done.orFlags))
  | vtlcfg => exact h.issue (fun _ h₁ => .ite h₁.illegal (.ite h₁.trapHere (.ite h₁.trapHere h₁.modCrew.done)))
  | kand | kor | kxor | knot | kset | klen => exact h.maskOp
  | vld | vst | vldx | vstx => exact h.vecInsn
  | vldd => exact h.execVldd
  | mopen | mma | mmas | mmaw | mrot | mcont | mfwd | mread | mqry | mabn | mclose | mflg => exact h.matrixOp
  | cpy | cpy2 | cpyf | cpyk => exact h.copyOp
  | mfs => exact h.execMfs
  | mts => exact h.execMts
  | trap | bkpt => exact h.issue (fun _ h₁ => h₁.trapAfter)
  | halt => exact h.issue (fun _ h₁ => .ite h₁.trapAfter h₁.waitHere)
  | nop => exact h.issue (fun _ h₁ => h₁.done)
  | svcRsm => exact h.svc (fun _ _ _ h₁ => h₁.rsm.svcRuns)
  | svcKill => exact h.svc (fun _ _ _ h₁ => h₁.kill.svcRuns)
  | svcTlbinv => exact h.svc (fun _ _ _ h₁ => h₁.tlbinv.svcRuns)
  | svcGangctl => exact h.execSvcGangctl
  | svcPrmpt => exact h.svc (fun _ _ _ h₁ => h₁.prmpt.svcRuns)
  | svcMsgrd => exact .ite (.next h.illegal) (h.issue (fun _ h₁ => .ite h₁.done.msgrd h₁.waitHere))
  | illegalInstruction => exact .next h.illegal
  | powerOn | railsSettled | attgoWrite | attestationReportDone | lifetimeCommit | monthAdvance | thermtrip => exact .ite (.next h.modPkg) h.idle
  | powerOff => exact h.execPowerOff
  | bootStageLoad => exact .ite h.idle (.ite (.next h.refuseStage) h.modPkg.checkStage)
  | recoveryWindowWrite | thermalAlert | dramEccCorrect | routeResume => exact .ite h.idle (.next h.modPkg)
  | recovctlWrite => exact .ite h.idle (.ite (.next h.badSequence) (.next h.modPkg))
  | recoveryPieceCopied => exact h.execRecoveryPieceCopied
  | heartbeatMissed
      => exact .ite h.idle (.next ((((State.MemOk.modDie (.ite ((h.foldl (fun _ _ h₁ => h₁.slateFreeze)).foldl (fun _ _ h₁ => h₁.modSlot)) (h.foldl (fun _ _ h₁
        => h₁.slateFreeze)))).modPkg).report).reboot))
  | pwrctlP0 | pwrctlP1 | pwrctlP2 | pwrctlP3 => exact h.pwrctl
  | powerTransitionDone => exact h.execPowerTransitionDone
  | dramEccPoison => exact .ite h.idle (.next h.setPoison)
  | tarmelFlitReplay | tarmelRetrainDone => exact .next h.modBoundary
  | tarmelLaneSpare => exact .ite (.next h.modBoundary.countRetrain) h.idle
  | tarmelGroupDisable => exact .ite (.ite (.next h.modBoundary.frame.report) (.next h.modBoundary)) h.idle
  | vilamFlitReplay | thermalAlertClear => exact .next h.modPkg
  | vilamPortDegrade => exact .ite h.idle (.next h.modPkg.countRetrain.report)
  | routeRewrite => exact .ite h.idle (.next ((h.foldl (fun _ _ h₁ => h₁.modPkg)).modPkg))
  | pcieLinkTrain => exact .ite h.idle (.next (State.MemOk.modPkg (.ite h h.countRetrain)))
  | packetForward => exact h.execPacketForward
  | load => exact h.execLoad
  | store => exact h.execStore
  | atomic => exact h.execAtomic
  | feop => exact h.execFeop
  | copyw => exact h.execCopyw
  | contrib => exact h.execContrib
  | task => exact h.execTask
  | tkget => exact h.execTkget
  | tkreg => exact h.execTkreg
  | tkdone => exact h.execTkdone
  | resp => exact h.execResp
  | ack => exact h.execAck
  | nack => exact h.execNack
  | nackRetry => exact h.execNackRetry
  | call => exact h.execCall
  | ctup => exact h.absorb (fun _ _ _ _ h₁ => .ite h₁.setGroup.groupReady h₁)
  | ctdown => exact h.absorb (fun _ _ _ _ h₁ => h₁.downAt)
  | ctabt => exact h.absorb (fun _ _ _ _ h₁ => h₁.abortAt)
  | pbar => exact h.execPbar
  | barrierArrive => exact h.execBarrierArrive
  | hostBar4Read => exact h.execHostBar4Read
  | hostBar4Write => exact h.execHostBar4Write
  | qbaseWrite | qridxWrite => exact .ite h.idle (.next h.modQueue)
  | qcfgWrite => exact .ite (.ite h.idle (.next h.modQueue.endWaitingIn)) (.ite (.ite (.next h.modQueue) (.next h.modQueue)) (.next h.modQueue))
  | notifyWrite => exact .ite (.next h.modPkg) (.ite (.next h.modQueue) h.idle)
  | registerWrite => exact .ite h.idle (.ite (.next h.modPkg) (.ite (.next h.modPkg) (.ite (.next h.modPkg) h.idle)))
  | packetRead => exact .ite (.next h.consume) h.idle
  | waitValidReread => exact .ite (.next h.modQueue.consume) h.idle
  | packetBegin => exact h.execPacketBegin
  | launch => exact h.execLaunch
  | launchAccept => exact h.execLaunchAccept
  | depend | dependPoll => exact .ite (.next h.dependPoll) h.idle
  | signalStore => exact h.execSignalStore
  | signalAdd => exact h.execSignalAdd
  | signalSubtract => exact h.execSignalSubtract
  | copy => exact h.execCopy
  | copyPiece => exact h.execCopyPiece
  | pcieCompletion => exact h.execPcieCompletion
  | gangOut => exact h.execGangOut
  | gangIn => exact h.execGangIn
  | gangAbort => exact h.execGangAbort
  | gangCommandStart => exact h.execGangCommandStart
  | freeze => exact .ite (.next h.freezeJob) h.idle
  | mark => exact .ite (.next h.frame.modGang) h.idle
  | sweep => exact .ite h.idle (.ite (.next h.sweepInside.modGang.sweepPorts) (.ite (.next h.sweepPorts) h.idle))
  | save => exact h.execSave
  | release => exact .ite h.idle (.ite (.ite h.idle (.next h.modGang)) (.next h.releaseJob))
  | releaseHostWaitExpiry => exact .ite (.next h.releaseJob) h.idle
  | phaseComplete => exact h.execPhaseComplete
  | inRestore => exact h.execInRestore
  | inAdmit => exact .ite (.next (h.frame.modGang.foldl (fun _ _ h₁ => h₁.restartAll))) h.idle
  | uncorrectableError => exact h.execUncorrectableError
  | cobaltBind => exact .ite (.next h.choose) h.idle
  | cobaltPreempt => exact h.execCobaltPreempt
  | preemption => exact .ite h.idle (.ite (.next h.modCore.prmptCode) (.ite h.idle (.ite .fault (.next ((h.foldl (fun _ _ h₁ => h₁.preemptCore)).prmptCode)))))
  | cobaltResume => exact h.execCobaltResume
  | spillRedeliver => exact h.execSpillRedeliver
  | parcelRetire => exact h.execParcelRetire
  | retired => exact h.execRetired
  | reply => exact .ite (.next h.takeReplyAt.joinPair) (.next h.takeReplyAt)
  | streamRelease => exact .ite h.idle (.ite (.next h.unstick.beginOp.joinPair) (.next h.unstick.beginOp))
  | waitTimeout => exact h.execWaitTimeout
  | exitDrained => exact .ite (.next ((h.foldl (fun _ _ h₁ => h₁.modSlot)).addLive)) h.idle
  | walkComplete => exact h.execWalkComplete
  | stashLineFill => exact h.execStashLineFill
  | homeRead => exact h.execHomeRead
  | homeWrite => exact h.execHomeWrite
  | quadInvalidate => exact h.execQuadInvalidate
  | quadRecall => exact h.execQuadRecall
  | invalidationAck => exact h.execInvalidationAck
  | writeGrant => exact h.execWriteGrant
  | evictionNotice => exact h.execEvictionNotice
  | engineAccept => exact h.execEngineAccept
  | contributionArrival => exact h.execContributionArrival
  | mrotDelivery => exact h.execMrotDelivery
  | copyStart => exact h.execCopyStart
  | copyDone => exact h.execCopyDone
  | svcCompletion => exact h.execSvcCompletion
  | routerGroupWrite => exact .ite (.next h) (.next h.setGroup)
  | migrSend => exact h.execMigrSend
  | scopeSet => exact h.execScopeSet
  | tileCommandArrival => exact h.execTileCommandArrival

/-! ### Machine/Turn.lean -/

/-- What a fetch leaves, whether it gives a halfword or ends the turn. -/
def FetchOk : Except State (State × BitVec 16) → Prop
  | .ok r => r.1.MemOk
  | .error t => t.MemOk

theorem State.MemOk.fetch16 {k va} (h : s.MemOk) : FetchOk (s.fetch16 k va) := by
  unfold State.fetch16
  extract_lets c q t trap
  split
  · exact h.takeTrap
  · split
    · exact h.takeTrap
    · exact h.startWalk
    · extract_lets pa s₁ s₂
      have h₁ : s₁.MemOk := .ite h h.homeClean
      have h₂ : s₂.MemOk := h.pullLine.fetchLine
      clear_value s₁ s₂
      split
      · exact h.takeTrap
      · split
        · split
          · exact h.takeTrap
          · exact h₁
        · split
          · exact h
          · split
            · exact h
            · split
              · exact h.takeTrap
              · exact h₂.setLine

theorem State.MemOk.boundaryTraps {k} (h : s.MemOk) : (s.boundaryTraps k).MemOk := by
  unfold State.boundaryTraps
  dsimp only
  split
  · exact h
  · exact (h.modSlot.foldl (fun _ _ h₁ => h₁.postTrap)).takeTrap

/-- What fetch and decode leave: the state in which the instruction runs, or in which the turn ends. -/
def Fetched.MemOk : Fetched → Prop
  | .run t _ => t.MemOk
  | .stop t => t.MemOk

theorem State.MemOk.nextInstr {k} (h : s.MemOk) : (s.nextInstr k).MemOk := by
  have h₀ := h.fetch16 (k := k) (va := (s.slot k).pc)
  unfold State.nextInstr
  extract_lets pc
  split
  · next he => rw [he] at h₀; exact h₀
  · next t h0 he =>
    rw [he] at h₀
    have h₁ := State.MemOk.fetch16 (s := t) (k := k) (va := pc + 2) h₀
    split
    · exact h₀
    · split
      · split
        · next he₁ => rw [he₁] at h₁; exact h₁
        · next he₁ => rw [he₁] at h₁; exact h₁
      · exact h₀

theorem State.MemOk.runSlot {k} (h : s.MemOk) : OutOk (s.runSlot k) := by
  have hn := State.MemOk.nextInstr (s := { s with cur := k }) (k := k) h.frame
  unfold State.runSlot
  split
  · next he => rw [he] at hn; exact .next hn
  · next t i he =>
    rw [he] at hn
    exact (State.MemOk.exec (s := { t with cur := k }) hn.frame).map fun _ h => h.modSlot

theorem State.MemOk.slotTurn {k bubble} (h : s.MemOk) : OutOk (s.slotTurn k bubble) := by
  unfold State.slotTurn
  dsimp only
  split
  · exact .ite (.next h.boundaryTraps) (.ite (.next h.modSlot) (.ite (.next h.modSlot) h.runSlot))
  · exact .ite (.ite (.next h.boundaryTraps) h.modSlot.runSlot) (.next h.modSlot)
  · exact .next h

theorem State.MemOk.pairTurn {k bubble} (h : s.MemOk) : OutOk (s.pairTurn k bubble) := by
  unfold State.pairTurn
  split
  · exact .fault
  · exact .refused
  · next he =>
    split
    · exact .fault
    · exact .refused
    · exact .next (h.slotTurn _ he).joinPair

theorem State.MemOk.tick {cs} (h : s.MemOk) : (s.tick cs).MemOk := h.foldl (fun _ _ h₁ => h₁.modCore)

theorem State.MemOk.countDroop {c b} (h : s.MemOk) : (s.countDroop c b).MemOk := .ite h.modPkg h

theorem State.MemOk.turn {c bubble} (h : s.MemOk) : OutOk (s.turn c bubble) :=
  .ite (.next h) (.ite (.ite (.next h) (OutOk.map h.pairTurn (fun _ h₁ => h₁.countDroop.tick))) (OutOk.map h.slotTurn (fun _ h₁ => h₁.countDroop.tick)))

theorem State.MemOk.frameStores {k j v} (h : s.MemOk) : (s.frameStores k j v).MemOk := h.foldl (fun _ _ h₁ => h₁.modSlot)

theorem State.MemOk.move {x} (h : s.MemOk) : OutOk (s.move x) := by
  unfold State.move
  split
  · exact .ite (.next h.frame) (.ite h.frame.exec (.next h))
  · exact h.turn
  · exact .next h.hostStores
  · exact .next h.frameStores

theorem State.MemOk.settlePosted {e} (h : s.MemOk) : (s.settlePosted e).MemOk := by
  unfold State.settlePosted
  split
  · exact h.frame
  · split
    · split
      · next he => exact (h.frame.exec _ he).frame
      · exact h
    · exact h

theorem State.MemOk.settle (h : s.MemOk) : (s.settle).MemOk := h.takeReleases.settleRetries.frame.foldl (fun _ _ h₁ => h₁.settlePosted)

theorem State.MemOk.stepOn (h : s.MemOk) : OutOk (s.stepOn) := by
  unfold State.stepOn
  refine OutOk.map ?_ (fun _ h₁ => h₁.settle)
  split
  · exact h.turn
  · exact h.frame.move

end

/-- Settles O59: `stepOn` is a turn and what it settles, and each function they call keeps the form. -/
theorem stepKeepsMemoryForm : Obligations.StepKeepsMemoryForm := fun s _ h he => State.MemOk.stepOn (s := s) h _ he

end Sys2Proof.Machine

end

section

/-! # The pod after reset -/

namespace Sys2Proof.Machine

/-- Settles O60: the state after reset is the record's default values, and every map in it is empty. -/
theorem resetState : Obligations.ResetState := by
  refine ⟨reset_memoryOk, rfl, rfl, fun p => ?_, fun p n => ?_, fun k => ?_, fun q u => ?_, fun a => ?_⟩
  · exact ⟨rfl, rfl, rfl⟩
  · exact (by decide : Queue.enabled {} = false)
  · exact ⟨rfl, rfl⟩
  · exact rfl
  · exact ⟨rfl, rfl, rfl, rfl⟩

end Sys2Proof.Machine

end

section

/-! # Links, vaults and routes: one lemma for each event of O53 -/

namespace Sys2Proof.Machine

theorem State.setPoison_true (s : State) (a : Nat) : s.setPoison a true = { s with poison := s.poison.insert (a / 8 * 8) } := rfl

/-- A saturated count stays at 0xFFFF. -/
theorem sat16_eq (v : BitVec 16) : sat16 v = if v = 0xFFFF then 0xFFFF else v + 1 := by
  unfold sat16
  split
  · next h => exact h
  · rfl

theorem execDramEccCorrect_on (s : State) (hon : (s.pkg (s.arg.a / 4)).power = .on) (hoff : s.arg.b < dramEnd) :
    let q := s.arg.a / 4
    let k := (s.pkg q).life.monthIndex.toNat % 60 * 1088 + s.vaultBlock s.arg.a s.arg.b
    ∃ t, execDramEccCorrect s = .next t ∧
      (t.pkg q).life.ecc.get 0 k = (if (s.pkg q).life.ecc.get 0 k = 0xFFFF then 0xFFFF else (s.pkg q).life.ecc.get 0 k + 1) ∧
      (s.arg.good = false → (t.pkg q).life.spareRows = (s.pkg q).life.spareRows) ∧ t.mem = s.mem ∧ t.slots = s.slots := by
  intro q k
  have hgo : ¬((s.pkg q).power ≠ .on ∨ dramEnd ≤ s.arg.b) := by
    rintro (h | h)
    · exact h hon
    · omega
  refine ⟨_, if_neg hgo, ?_, fun hg => ?_, rfl, rfl⟩
  · simp only [q, k, State.pkg_modPkg_self, NMap.get_set_self, sat16_eq]
  · simp [q, hg]

theorem execDramEccPoison_on (s : State) (hon : (s.pkg (s.arg.a / 4)).power = .on) (hoff : s.arg.b < dramEnd) :
    execDramEccPoison s = .next { s with poison := s.poison.insert (paOf s.arg.a s.arg.b / 8 * 8) } := by
  unfold execDramEccPoison
  rw [if_neg (by simp [hon]; omega), State.setPoison_true]

/-- One more lane of the group fails, and the boundary retrains it. -/
theorem execTarmelLaneSpare_spare (s : State) (hf : (s.boundary s.arg.a (s.arg.b % 4)).failed.get 0 (s.arg.c % 48) < 4)
    (hd : (s.boundary s.arg.a (s.arg.b % 4)).disabled.mem (s.arg.c % 48) = false) :
    execTarmelLaneSpare s = .next ((s.modBoundary s.arg.a (s.arg.b % 4) fun x =>
      { x with failed := x.failed.set (s.arg.c % 48) (x.failed.get 0 (s.arg.c % 48) + 1), retraining := x.retraining.insert (s.arg.c % 48) }).countRetrain
        s.arg.a (s.arg.b % 4)) := by
  unfold execTarmelLaneSpare
  exact if_pos ⟨hf, by rw [hd]; rfl⟩

@[simp] theorem State.boundary_modBoundary_self (s : State) (p b : Nat) (f : Boundary → Boundary) : (s.modBoundary p b f).boundary p b = f (s.boundary p b) := by
  simp [State.modBoundary, State.boundary]

theorem execTarmelGroupDisable_fifth (s : State) :
    let p := s.arg.a
    let b := s.arg.b % 4
    let g := s.arg.c % 48
    (s.boundary p b).failed.get 0 g = 4 → (s.boundary p b).disabled.mem g = false →
      ∃ t, execTarmelGroupDisable s = .next t ∧ (t.boundary p b).disabled.mem g = true ∧ (t.boundary p b).retraining.mem g = false ∧ t.slots = s.slots ∧
        t.host = s.host ++ (if (t.pkg p).boundaryDown b (g / 24) then [.slate p "BOUNDARY DOWN" [b]] else []) ∧
        t.net = if (t.pkg p).boundaryDown b (g / 24) then s.net.map fun f => if s.crossing f = some (p, b, g / 24) then { f with held := true } else f else s.net := by
  intro p b g hf hd
  unfold execTarmelGroupDisable
  rw [if_pos ⟨hf, by rw [hd]; rfl⟩]
  extract_lets t
  have hdis : (t.boundary p b).disabled.mem g = true := by simp [t, p, b, g]
  have hret : (t.boundary p b).retraining.mem g = false := by simp [t, p, b, g]
  split
  · next hdown => exact ⟨_, rfl, hdis, hret, rfl, by rw [if_pos (by exact hdown)]; rfl, by rw [if_pos (by exact hdown)]; rfl⟩
  · next hup => exact ⟨t, rfl, hdis, hret, rfl, by rw [if_neg (by exact hup), List.append_nil]; rfl, by rw [if_neg (by exact hup)]; rfl⟩

theorem execVilamPortDegrade_more (s : State) :
    let p := s.arg.a
    let i := s.arg.b % 35
    let o := (s.pkg p).ports.get {} i
    o.failed < s.arg.c → s.arg.c ≤ 8 → o.disabled = false →
      execVilamPortDegrade s = .next (((s.modPkg p fun x => { x with ports := x.ports.set i { o with failed := s.arg.c, disabled := decide (4 < s.arg.c) } }).countRetrain
        p (4 + i)).report p "PORT" [i, s.arg.c]) := by
  intro p i o hf hc hd
  have hgo : ¬(s.arg.c ≤ o.failed ∨ 8 < s.arg.c ∨ o.disabled = true) := by
    rw [hd]
    simp only [Bool.false_eq_true, or_false]
    omega
  exact if_neg hgo

/-! ### The route of a destination (R38) -/

/-- A package stops new requests to a destination. -/
def State.holdDest (s : State) (d q : Nat) : State := s.modPkg q fun y => { y with heldDest := y.heldDest.insert d }

theorem State.route_holdDest (s : State) (d q p e : Nat) : ((s.holdDest d q).pkg p).route e = (s.pkg p).route e := by
  unfold State.holdDest
  by_cases h : p = q
  · subst h; simp [Pkg.route]
  · rw [State.pkg_modPkg_ne _ _ h]

theorem State.mem_heldDest_holdDest (s : State) (d q p : Nat) :
    ((s.holdDest d q).pkg p).heldDest.mem d = (p == q || (s.pkg p).heldDest.mem d) := by
  unfold State.holdDest
  by_cases h : p = q
  · subst h; simp
  · rw [State.pkg_modPkg_ne _ _ h]; simp [h]

theorem State.route_foldl_holdDest (s : State) (d : Nat) (l : List Nat) (p e : Nat) :
    ((l.foldl (fun u q => u.holdDest d q) s).pkg p).route e = (s.pkg p).route e := by
  induction l generalizing s with
  | nil => rfl
  | cons q l ih => rw [List.foldl_cons, ih, State.route_holdDest]

theorem State.mem_heldDest_foldl_holdDest (s : State) (d : Nat) (l : List Nat) (p : Nat) :
    ((l.foldl (fun u q => u.holdDest d q) s).pkg p).heldDest.mem d = (decide (p ∈ l) || (s.pkg p).heldDest.mem d) := by
  induction l generalizing s with
  | nil => simp
  | cons q l ih =>
    rw [List.foldl_cons, ih, State.mem_heldDest_holdDest]
    by_cases h : p = q
    · simp [h]
    · simp [h, beq_false_of_ne h]

/-- The entry that ROUTE_REWRITE writes: the alternates as given; the valid bit and the new port, or the old port where no link stands. -/
def State.rewritten (s : State) : BitVec 128 :=
  let alts : BitVec 128 := s.arg.value &&& 0x0000_FFFF_FFFF_FFFF_FFFF_FFFF_FFFF_0000
  match s.newPort s.arg.a s.arg.b with
  | some i => alts ||| BitVec.ofNat 128 (128 + i)
  | none => alts ||| BitVec.ofNat 128 (routePort ((s.pkg s.arg.a).route s.arg.b))

theorem execRouteRewrite_go (s : State) (hd : s.arg.b < 1058) (hne : s.arg.b ≠ s.arg.a) (hon : (s.pkg s.arg.a).power = .on) (hboot : (s.pkg s.arg.a).boot.done = true) :
    execRouteRewrite s = .next (((s.sendersBy s.arg.a s.arg.b).foldl (fun u q => u.holdDest s.arg.b q) s).modPkg s.arg.a fun x =>
      { x with routes := x.routes.set s.arg.b s.rewritten }) := by
  have hgo : ¬(1058 ≤ s.arg.b ∨ s.arg.b = s.arg.a ∨ (s.pkg s.arg.a).power ≠ .on ∨ (!(s.pkg s.arg.a).boot.done) = true) := by
    simp [hne, hon, hboot, hd]
  exact if_neg hgo

/-- The alternates leave an entry's low 16 bits to the rest. -/
theorem getLsbD_alternates_or (a r : BitVec 128) {i : Nat} (hi : i < 16) :
    (a &&& 0x0000_FFFF_FFFF_FFFF_FFFF_FFFF_FFFF_0000 ||| r).getLsbD i = r.getLsbD i := by
  have hmask : ∀ j < 16, (0x0000_FFFF_FFFF_FFFF_FFFF_FFFF_FFFF_0000 : BitVec 128).getLsbD j = false := by decide
  rw [BitVec.getLsbD_or, BitVec.getLsbD_and, hmask i hi, Bool.and_false, Bool.false_or]

theorem routePort_alternates_or (a r : BitVec 128) : routePort (a &&& 0x0000_FFFF_FFFF_FFFF_FFFF_FFFF_FFFF_0000 ||| r) = r.toNat % 64 := by
  have h : (bits (a &&& 0x0000_FFFF_FFFF_FFFF_FFFF_FFFF_FFFF_0000 ||| r) 0 6 : BitVec 6) = bits r 0 6 := by
    apply BitVec.eq_of_getLsbD_eq
    intro i hi
    have hor := getLsbD_alternates_or a r (by omega : i < 16)
    simp only [bits, BitVec.getLsbD_extractLsb', hi, decide_true, Bool.true_and, Nat.zero_add, hor]
  unfold routePort
  rw [h]
  simp [bits]

theorem routePort_lt (e : BitVec 128) : routePort e < 64 := (bits e 0 6 : BitVec 6).isLt

theorem State.newPort_lt {s : State} {p d i : Nat} (h : s.newPort p d = some i) : i < 35 := by
  unfold State.newPort at h
  extract_lets ok at h
  have hok : ∀ j, ok j = true → j < 35 := fun j hj => by
    simp only [ok, Bool.and_eq_true, decide_eq_true_eq] at hj
    exact hj.1.1
  have hfind : (List.range 35).find? ok = some i → i < 35 := fun hf => hok i (List.find?_some hf)
  split at h
  · next hm => cases h; exact hok _ hm
  · split at h
    · split at h
      · next hm => cases h; exact hok _ hm
      · exact hfind h
    · exact hfind h

/-- The new entry's port, and bit 7 above it, are those of a number below 128. -/
theorem State.rewritten_of_some {s : State} {i : Nat} (h : s.newPort s.arg.a s.arg.b = some i) :
    routeValid s.rewritten = true ∧ routePort s.rewritten = i := by
  have hi := State.newPort_lt h
  unfold State.rewritten
  simp only [h, routePort_alternates_or]
  refine ⟨?_, by simp; omega⟩
  unfold routeValid
  rw [getLsbD_alternates_or _ _ (by omega)]
  have : ∀ j < 35, (BitVec.ofNat 128 (128 + j)).getLsbD 7 = true := by decide
  exact this i hi

theorem State.routeValid_rewritten_of_none {s : State} (h : s.newPort s.arg.a s.arg.b = none) : routeValid s.rewritten = false := by
  unfold State.rewritten routeValid
  simp only [h]
  rw [getLsbD_alternates_or _ _ (by omega)]
  have : ∀ j < 64, (BitVec.ofNat 128 j).getLsbD 7 = false := by decide
  exact this _ (routePort_lt _)

theorem State.routeValid_rewritten (s : State) : routeValid s.rewritten = true ↔ (s.newPort s.arg.a s.arg.b).isSome = true := by
  cases h : s.newPort s.arg.a s.arg.b with
  | none => simp [State.routeValid_rewritten_of_none h]
  | some i => simp [(State.rewritten_of_some h).1]

theorem execRouteRewrite_holds (s : State) (hd : s.arg.b < 1058) (hne : s.arg.b ≠ s.arg.a) (hon : (s.pkg s.arg.a).power = .on) (hboot : (s.pkg s.arg.a).boot.done = true) :
    let p := s.arg.a
    let d := s.arg.b
    ∃ t, execRouteRewrite s = .next t ∧ (t.pkg p).heldDest.mem d = true ∧ (∀ q ∈ s.sendersBy p d, (t.pkg q).heldDest.mem d = true) ∧
      (∀ e, e ≠ d → (t.pkg p).route e = (s.pkg p).route e) ∧ (t.pkg p).route d = s.rewritten := by
  intro p d
  have hheld : ∀ q ∈ s.sendersBy p d, ((((s.sendersBy p d).foldl (fun u q => u.holdDest d q) s).modPkg p fun x =>
      { x with routes := x.routes.set d s.rewritten }).pkg q).heldDest.mem d = true := fun q hq => by
    have h := State.mem_heldDest_foldl_holdDest s d (s.sendersBy p d) q
    rw [decide_eq_true hq, Bool.true_or] at h
    by_cases hqp : q = p
    · subst hqp; simpa using h
    · rw [State.pkg_modPkg_ne _ _ hqp]; exact h
  refine ⟨_, execRouteRewrite_go s hd hne hon hboot, hheld p (by simp [State.sendersBy]), hheld, fun e he => ?_, ?_⟩
  · have h := State.route_foldl_holdDest s d (s.sendersBy p d) p e
    rw [State.pkg_modPkg_self]
    simp only [Pkg.route] at h ⊢
    rw [NMap.get_set_ne _ _ _ he]
    exact h
  · simp [Pkg.route, p, d]

theorem execRouteResume_answered (s : State) (h : s.unanswered s.arg.a s.arg.b = false) :
    execRouteResume s = .next (s.modPkg s.arg.a fun x => { x with heldDest := x.heldDest.remove s.arg.b }) := by
  unfold execRouteResume
  rw [if_neg (by simp [h])]

theorem execPcieLinkTrain_trains (s : State) (hon : (s.pkg s.arg.a).power = .on) (h₁ : 1 ≤ s.arg.b) (h₇ : s.arg.b ≤ 7) (hw : s.arg.c ∈ [1, 2, 4, 8, 16]) :
    execPcieLinkTrain s = .next ((if (s.pkg s.arg.a).pcieLanes = 0 then s else s.countRetrain s.arg.a 39).modPkg s.arg.a fun x => { x with
      pcieGen := s.arg.b, pcieLanes := s.arg.c, barSize := if s.arg.value.toNat ∈ barSizes then s.arg.value.toNat else x.barSize }) := by
  have hgo : ¬((s.pkg s.arg.a).power ≠ .on ∨ s.arg.b < 1 ∨ 7 < s.arg.b ∨ (!([1, 2, 4, 8, 16].contains s.arg.c)) = true) := by
    rw [List.contains_iff_mem.mpr hw]
    simp only [hon, ne_eq, not_true_eq_false, Bool.not_true, Bool.false_eq_true, or_false, false_or]
    omega
  unfold execPcieLinkTrain
  rw [if_neg hgo]
  simp only [List.contains_iff_mem]

/-- Settles O53, from one lemma for each event. -/
theorem linkEvents : Obligations.LinkEvents := by
  intro s p b g y edge counted i o
  refine ⟨fun hon hoff => ⟨execDramEccCorrect_on s hon hoff, execDramEccPoison_on s hon hoff⟩, rfl, execTarmelLaneSpare_spare s, rfl, execTarmelGroupDisable_fifth s, rfl,
    execVilamPortDegrade_more s, fun hd hne hon hboot => ?_, execRouteResume_answered s, execPcieLinkTrain_trains s⟩
  obtain ⟨t, ht, hself, hsenders, hother, hroute⟩ := execRouteRewrite_holds s hd hne hon hboot
  refine ⟨t, ht, hself, hsenders, hother, ?_, fun j hj => ?_⟩
  · rw [hroute]; exact State.routeValid_rewritten s
  · rw [hroute]; exact (State.rewritten_of_some hj).2

end Sys2Proof.Machine

end

section

/-! # Tables and memories: what a filter leaves, and the bytes of a list written -/

namespace Sys2Proof

theorem NMap.find_filter_key {V : Type} (m : NMap V) (q : Nat → Bool) (k : Nat) : NMap.find (m.filter fun e => q e.1) k = if q k then m.find k else none := by
  induction m with
  | nil => simp [NMap.find]
  | cons e m ih =>
    obtain ⟨i, u⟩ := e
    by_cases hq : q i = true
    · rw [List.filter_cons_of_pos (by exact hq)]
      by_cases hi : i = k
      · subst hi; simp [NMap.find, hq]
      · simp only [NMap.find, hi, if_false, ih]
    · rw [List.filter_cons_of_neg (by exact hq), ih]
      by_cases hi : i = k
      · subst hi; simp [hq]
      · simp only [NMap.find, hi, if_false]

theorem NMap.find_erase {V : Type} (m : NMap V) (k j : Nat) : (m.erase k).find j = if j = k then none else m.find j := by
  refine (NMap.find_filter_key m (fun i => decide (i ≠ k)) j).trans ?_
  by_cases h : j = k <;> simp [h]

theorem Cells.read_filter_key (m : Cells) (q : Nat → Bool) (a : Nat) : Cells.read (m.filter fun e => q e.1) a = if q a then m.read a else 0 := by
  induction m with
  | nil => simp [Cells.read]
  | cons e m ih =>
    obtain ⟨i, u⟩ := e
    by_cases hq : q i = true
    · rw [List.filter_cons_of_pos (by exact hq)]
      by_cases hi : i = a
      · subst hi; simp [Cells.read, hq]
      · simp only [Cells.read, hi, if_false, ih]
    · rw [List.filter_cons_of_neg (by exact hq), ih]
      by_cases hi : i = a
      · subst hi; simp [hq]
      · simp only [Cells.read, hi, if_false]

theorem Cells.read_writeList_below (m : Cells) (a : Nat) (bs : List Byte) {k : Nat} (h : k < a) : (m.writeList a bs).read k = m.read k := by
  induction bs generalizing m a with
  | nil => rfl
  | cons b bs ih =>
    rw [Cells.writeList, ih _ _ (by omega)]
    exact Cells.read_write_ne m b (by omega)

theorem Cells.read_writeList {m : Cells} (a : Nat) (bs : List Byte) (i : Nat) (h : m.wf = true) :
    (m.writeList a bs).read (a + i) = (bs[i]?).getD (m.read (a + i)) := by
  induction bs generalizing m a i with
  | nil => rfl
  | cons b bs ih =>
    rw [Cells.writeList]
    cases i with
    | zero =>
      rw [Cells.read_writeList_below _ _ _ (by omega)]
      exact Cells.read_write_self a b h
    | succ i =>
      rw [show a + (i + 1) = a + 1 + i from by omega, ih _ _ (Cells.wf_write a b h), Cells.read_write_ne m b (by omega)]
      rfl

end Sys2Proof

end

section

/-! # The host's window and registers: one lemma for each event of O48 -/

namespace Sys2Proof.Machine

/-! ### Lines that no quad holds and no transaction has -/

/-- The agents of a home find nothing to do at a line: no transaction has it and no quad of its die holds it. -/
def State.quietLine (s : State) (l : Nat) : Prop := s.lineFree l = true ∧ s.holders (paPeer (l * 256)) l = []

theorem State.settleLine_of_lineFree {s : State} {l : Nat} (h : s.lineFree l = true) : s.settleLine l = s := if_pos h

theorem State.homeClean_of_quietLine {s : State} {l : Nat} (h : s.quietLine l) : s.homeClean l = s := by
  unfold State.homeClean
  rw [State.settleLine_of_lineFree h.1, h.2, List.foldl_nil]

/-- A home's directory entry of a line dropped. -/
def State.dropEntry (s : State) (l : Nat) : State := s.modDie (paPeer (l * 256)) fun d => { d with dir := d.dir.erase l }

theorem State.homeObtain_of_quietLine {s : State} {l : Nat} (h : s.quietLine l) : s.homeObtain l = s.dropEntry l := by
  unfold State.homeObtain
  dsimp only
  rw [State.settleLine_of_lineFree h.1, h.2, List.foldl_nil]
  rfl

theorem State.dirEntry_dropEntry (s : State) (l j : Nat) : (s.dropEntry l).dirEntry j = if j = l then none else s.dirEntry j := by
  unfold State.dirEntry State.dropEntry
  rw [State.die_modDie]
  split
  · next hp =>
    rw [NMap.find_erase, hp]
  · next hp => rw [if_neg (fun h => hp (by rw [h]))]

theorem State.coh_dropEntry (s : State) (l p : Nat) : ((s.dropEntry l).die p).coh = (s.die p).coh := by
  unfold State.dropEntry
  rw [State.die_modDie]
  split
  · next hp => rw [hp]
  · rfl

/-- With an entry dropped, every line that was free still is. -/
theorem State.lineFree_dropEntry {s : State} (l : Nat) {j : Nat} (h : s.lineFree j = true) : (s.dropEntry l).lineFree j = true := by
  unfold State.lineFree State.lineIdle at h ⊢
  rw [State.dirEntry_dropEntry, State.coh_dropEntry]
  by_cases hj : j = l
  · rw [if_pos hj]
    simp only [Bool.and_eq_true] at h ⊢
    exact ⟨⟨trivial, h.1.2⟩, h.2⟩
  · rw [if_neg hj]
    exact h

theorem State.quietLine_dropEntry {s : State} (l : Nat) {j : Nat} (h : s.quietLine j) : (s.dropEntry l).quietLine j :=
  ⟨State.lineFree_dropEntry l h.1, h.2⟩

theorem State.foldl_homeClean_of_quiet {s : State} {ls : List Nat} (h : ∀ l ∈ ls, s.quietLine l) : ls.foldl (fun s l => s.homeClean l) s = s := by
  induction ls with
  | nil => rfl
  | cons l ls ih =>
    rw [List.foldl_cons, State.homeClean_of_quietLine (h l List.mem_cons_self)]
    exact ih fun j hj => h j (List.mem_cons_of_mem _ hj)

/-- Only the directories change. -/
theorem State.foldl_homeObtain_of_quiet {s : State} {ls : List Nat} (h : ∀ l ∈ ls, s.quietLine l) :
    ∃ ds, ls.foldl (fun s l => s.homeObtain l) s = { s with dies := ds } := by
  induction ls generalizing s with
  | nil => exact ⟨s.dies, rfl⟩
  | cons l ls ih =>
    rw [List.foldl_cons, State.homeObtain_of_quietLine (h l List.mem_cons_self)]
    obtain ⟨ds, hds⟩ := ih (s := s.dropEntry l) fun j hj => State.quietLine_dropEntry l (h j (List.mem_cons_of_mem _ hj))
    exact ⟨ds, hds⟩

/-- No line of the range is held or in a transaction. -/
def State.quietAt (s : State) (a n : Nat) : Prop := (∀ l ∈ linesOf a n, s.holders (paPeer (l * 256)) l = []) ∧ s.allFree a n = true

theorem State.quietAt.line {s : State} {a n : Nat} (h : s.quietAt a n) : ∀ l ∈ linesOf a n, s.quietLine l := fun l hl =>
  ⟨List.all_eq_true.mp h.2 l hl, h.1 l hl⟩

theorem State.agentClean_of_quiet {s : State} {a n : Nat} (h : s.quietAt a n) : s.agentClean a n = s := State.foldl_homeClean_of_quiet h.line

theorem State.agentObtain_of_quiet {s : State} {a n : Nat} (h : s.quietAt a n) : ∃ ds, s.agentObtain a n = { s with dies := ds } :=
  State.foldl_homeObtain_of_quiet h.line

theorem State.unpoison_eq (s : State) (a n : Nat) : ∃ ps, s.unpoison a n = { s with poison := ps } := by
  unfold State.unpoison
  refine foldl_keeps (P := fun t : State => ∃ ps, t = { s with poison := ps }) ?_ _ s ⟨s.poison, rfl⟩
  rintro t i ⟨ps, rfl⟩
  exact ⟨_, rfl⟩

@[simp] theorem State.unpoison_mem (s : State) (a n : Nat) : (s.unpoison a n).mem = s.mem := by
  obtain ⟨ps, h⟩ := s.unpoison_eq a n
  rw [h]

@[simp] theorem State.unpoison_empty (s : State) (a n : Nat) : (s.unpoison a n).empty = s.empty := by
  obtain ⟨ps, h⟩ := s.unpoison_eq a n
  rw [h]

@[simp] theorem State.unpoison_slots (s : State) (a n : Nat) : (s.unpoison a n).slots = s.slots := by
  obtain ⟨ps, h⟩ := s.unpoison_eq a n
  rw [h]

@[simp] theorem State.unpoison_host (s : State) (a n : Nat) : (s.unpoison a n).host = s.host := by
  obtain ⟨ps, h⟩ := s.unpoison_eq a n
  rw [h]

/-! ### BAR4 (R53, R440) -/

section

variable {s : State} (hl : (s.pkg s.arg.a).pcieLanes ≠ 0) (hon : (s.pkg s.arg.a).power = .on)

include hl hon

theorem execHostBar4Read_outside (hp : s.postedTo s.arg.a = false) (hout : s.barPlace s.arg.a s.arg.b (min s.arg.c 4096) = none) :
    execHostBar4Read s = .next { s with host := s.host ++ [.aer s.arg.a, .read [] true] } := by
  unfold execHostBar4Read
  dsimp only
  rw [if_neg (by simp [hl, hon, hp]), hout]
  rfl

theorem execHostBar4Read_inside (hp : s.postedTo s.arg.a = false) {pa : Nat} (hin : s.barPlace s.arg.a s.arg.b (min s.arg.c 4096) = some pa)
    (hq : s.quietAt pa (min s.arg.c 4096)) (hpo : s.poisonIn pa (min s.arg.c 4096) = false) :
    execHostBar4Read s = .next { s with host := s.host ++ [.read ((List.range (min s.arg.c 4096)).map fun i => s.mem.read (pa + i)) false] } := by
  unfold execHostBar4Read
  dsimp only
  rw [if_neg (by simp [hl, hon, hp]), hin]
  dsimp only
  rw [if_neg (by simp [hq.2]), State.agentClean_of_quiet hq, if_neg (by simp [hpo])]

variable (hb : s.arg.bytes ≠ [])

include hb

theorem execHostBar4Write_outside (hout : s.barPlace s.arg.a s.arg.b s.arg.bytes.length = none) :
    execHostBar4Write s = .next { s with host := s.host ++ [.aer s.arg.a] } := by
  unfold execHostBar4Write
  dsimp only
  rw [if_neg (by simp [hl, hon, hb]), hout]
  rfl

theorem execHostBar4Write_waits {pa : Nat} (hin : s.barPlace s.arg.a s.arg.b s.arg.bytes.length = some pa) (hf : s.allFree pa s.arg.bytes.length = false) :
    execHostBar4Write s = .next { s with posted := s.posted ++ [(.hostBar4Write, s.arg)] } := by
  unfold execHostBar4Write
  dsimp only
  rw [if_neg (by simp [hl, hon, hb]), hin]
  dsimp only
  rw [if_pos (by simp [hf])]

theorem execHostBar4Write_inside {pa : Nat} (hin : s.barPlace s.arg.a s.arg.b s.arg.bytes.length = some pa) (hq : s.quietAt pa s.arg.bytes.length)
    (hpo : s.partialPoison pa s.arg.bytes.length = false) :
    ∃ t, execHostBar4Write s = .next t ∧ t.mem = s.mem.writeList pa s.arg.bytes ∧ t.empty = s.empty ∧ t.slots = s.slots ∧ t.host = s.host := by
  obtain ⟨ds, hds⟩ := State.agentObtain_of_quiet hq
  have hpo' : ({ s with dies := ds } : State).partialPoison pa s.arg.bytes.length = false := hpo
  refine ⟨State.unpoison { s with dies := ds, mem := s.mem.writeList pa s.arg.bytes } pa s.arg.bytes.length, ?_, by simp, by simp, by simp, by simp⟩
  unfold execHostBar4Write
  dsimp only
  rw [if_neg (by simp [hl, hon, hb]), hin]
  dsimp only
  rw [if_neg (by simp [hq.2]), hds, if_neg (by simp [hpo'])]

end

/-! ### Queue registers and notifies (R57 to R59) -/

theorem execQbaseWrite_disabled (s : State) (h : (s.queue s.arg.a (s.arg.b % 4096)).enabled = false) :
    execQbaseWrite s = .next (s.modQueue s.arg.a (s.arg.b % 4096) fun q => { q with qbase := s.arg.value.setWidth 64 }) := if_neg (by simp [h])

theorem execQridxWrite_disabled (s : State) (h : (s.queue s.arg.a (s.arg.b % 4096)).enabled = false) :
    execQridxWrite s = .next (s.modQueue s.arg.a (s.arg.b % 4096) fun q => { q with qridx := s.arg.value.setWidth 64 }) := if_neg (by simp [h])

section

variable (s : State)

theorem cfgMask_bit (v : Word) : (v &&& cfgMask).getLsbD 6 = v.getLsbD 6 := by
  rw [BitVec.getLsbD_and, show cfgMask.getLsbD 6 = true from by decide, Bool.and_true]

theorem toNat_bits_zero_five (v : Word) : (bits v 0 5 : BitVec 5).toNat = v.toNat % 32 := by simp [bits]

theorem execQcfgWrite_enables (hd : (s.queue s.arg.a (s.arg.b % 4096)).enabled = false) :
    let q := s.queue s.arg.a (s.arg.b % 4096)
    let v : Word := s.arg.value.setWidth 64
    let w := v &&& 0xFFFF_0FFF_0000_01DF
    let lgn := w.toNat % 32
    v.getLsbD 6 = true → 1 ≤ lgn → lgn ≤ 16 → q.qbase.toNat % 64 = 0 → q.qridx.toNat % 8 = 0 →
      execQcfgWrite s = .next (s.modQueue s.arg.a (s.arg.b % 4096) fun q => { q.clear with cfg := w }) := by
  intro q v w lgn hv h₁ h₁₆ hb hi
  unfold execQcfgWrite
  dsimp only
  rw [if_neg (by simp [hd]), if_pos ((cfgMask_bit v).trans hv), if_neg]
  · rfl
  · rw [toNat_bits_zero_five]
    rintro (h | h | h | h)
    · exact absurd h (Nat.not_lt.mpr h₁)
    · exact absurd h (Nat.not_lt.mpr h₁₆)
    · exact h hb
    · exact h hi

theorem execQcfgWrite_fails (hd : (s.queue s.arg.a (s.arg.b % 4096)).enabled = false) :
    let q := s.queue s.arg.a (s.arg.b % 4096)
    let v : Word := s.arg.value.setWidth 64
    let w := v &&& 0xFFFF_0FFF_0000_01DF
    let lgn := w.toNat % 32
    v.getLsbD 6 = true → lgn < 1 ∨ 16 < lgn ∨ q.qbase.toNat % 64 ≠ 0 ∨ q.qridx.toNat % 8 ≠ 0 →
      execQcfgWrite s = .next (s.modQueue s.arg.a (s.arg.b % 4096) fun q => { q with cfg := w &&& ~~~0x40, err := 9 }) := by
  intro q v w lgn hv hbad
  unfold execQcfgWrite
  dsimp only
  rw [if_neg (by simp [hd]), if_pos ((cfgMask_bit v).trans hv), if_pos]
  · rfl
  · rw [toNat_bits_zero_five]
    exact hbad

theorem execQcfgWrite_stores (hd : (s.queue s.arg.a (s.arg.b % 4096)).enabled = false) :
    let v : Word := s.arg.value.setWidth 64
    v.getLsbD 6 = false →
      execQcfgWrite s = .next (s.modQueue s.arg.a (s.arg.b % 4096) fun q => { q with cfg := v &&& 0xFFFF_0FFF_0000_01DF, err := 0 }) := by
  intro v hv
  unfold execQcfgWrite
  dsimp only
  rw [if_neg (by simp [hd]), if_neg (by rw [cfgMask_bit]; exact ne_true_of_eq_false hv)]
  rfl

/-- The checks of a notify (R59). -/
def State.goodNotify (s : State) : Prop :=
  let n := s.arg.b % 4096
  let v : Word := s.arg.value.setWidth 64
  let q := s.queue s.arg.a n
  (bits v 0 16 : BitVec 16).toNat = n ∧ q.enabled = true ∧ q.failed = false ∧ (bits v 48 16 : BitVec 16) = 0 ∧ ((bits v 16 32 : BitVec 32) - q.ridx).toNat ≤ 2 ^ q.lgn

theorem State.goodNotify_iff : s.goodNotify ↔
    let n := s.arg.b % 4096
    let v : Word := s.arg.value.setWidth 64
    let q := s.queue s.arg.a n
    ¬((bits v 0 16 : BitVec 16).toNat ≠ n ∨ ¬q.enabled = true ∨ q.failed = true ∨ (bits v 48 16 : BitVec 16) ≠ 0 ∨ 2 ^ q.lgn < ((bits v 16 32 : BitVec 32) - q.ridx).toNat) := by
  unfold State.goodNotify
  simp only [not_or, not_not, ne_eq, not_lt, Bool.not_eq_true, Bool.not_eq_false]

theorem execNotifyWrite_bad (h : ¬s.goodNotify) : execNotifyWrite s = .next (s.modPkg s.arg.a fun x => { x with nfydrop := x.nfydrop + 1 }) := by
  rw [State.goodNotify_iff, not_not] at h
  exact if_pos h

theorem execNotifyWrite_good (h : s.goodNotify) :
    let wi : BitVec 32 := bits (s.arg.value.setWidth 64 : Word) 16 32
    let q := s.queue s.arg.a (s.arg.b % 4096)
    ((wi - q.widx).toNat < 2 ^ 31 → execNotifyWrite s = .next (s.modQueue s.arg.a (s.arg.b % 4096) fun q => { q with widx := wi })) ∧
      (2 ^ 31 ≤ (wi - q.widx).toNat → execNotifyWrite s = .next s) := by
  rw [State.goodNotify_iff] at h
  exact ⟨fun hw => (if_neg h).trans (if_pos hw), fun hw => (if_neg h).trans (if_neg (Nat.not_lt.mpr hw))⟩

/-! ### Registers of BAR0 (R37, R54) -/

variable (hon : (s.pkg s.arg.a).power = .on)

include hon

theorem execRegisterWrite_adbias (hc : s.arg.c = 1) : execRegisterWrite s = .next (s.modPkg s.arg.a fun x => { x with adbias := s.arg.value.setWidth 64 }) := by
  unfold execRegisterWrite
  rw [if_neg (by simp [hon]), if_pos hc]

theorem execRegisterWrite_pkgid (hc : s.arg.c ≠ 1) (hb : s.arg.b = 8) :
    execRegisterWrite s = .next (s.modPkg s.arg.a fun x => { x with pkgid := (s.arg.value.setWidth 64 : Word).setWidth 11 }) := by
  unfold execRegisterWrite
  rw [if_neg (by simp [hon]), if_neg hc, if_pos hb]
  rfl

theorem execRegisterWrite_pwrsts (hc : s.arg.c ≠ 1) (hb : s.arg.b = 0x1008) : execRegisterWrite s = .next s := by
  unfold execRegisterWrite
  rw [if_neg (by simp [hon]), if_neg hc, if_neg (by omega), if_neg (by omega)]
  rfl

end

/-! ### Completions of a thread's requests (R56) -/

theorem execPcieCompletion_thread (s : State) {r : HostReq} {k : Pkt} (hr : (s.pkg s.arg.a).hostReqs[s.arg.b]? = some r) (hk : r.pkt = some k) (hkind : r.kind = 0)
    (htype : k.type = 0x01) (hsize : k.size.toNat < 8) (hm : (s.gang s.arg.a k.job).marked = false) :
    let m := 2 ^ k.size.toNat
    execPcieCompletion s = .next ((s.modPkg s.arg.a fun x => { x with hostReqs := x.hostReqs.eraseIdx s.arg.b }).send
      { k.resp (if s.arg.good then m else min m 8) (if s.arg.good then (s.memRead (paOf hostPeer k.off.toNat) m).setWidth 2048 else 0) (!s.arg.good) with
        src := BitVec.ofNat 13 (4 * s.arg.a) }) := by
  intro m
  have hlt : m ≠ 256 := fun h => absurd (Nat.pow_right_injective (le_refl 2) (h.trans (by decide : 256 = 2 ^ 8))) (Nat.ne_of_lt hsize)
  let left := s.modPkg s.arg.a fun x => { x with hostReqs := x.hostReqs.eraseIdx s.arg.b }
  have hmark : (left.gang s.arg.a k.job).marked = false := by simpa [left, State.gang] using hm
  have hrun : execPcieCompletion s = .next (left.threadCompletion s.arg.a k s.arg.good) := by
    unfold execPcieCompletion
    simp only [hr, hk, State.completion, hkind, reqThread, if_pos]
    rfl
  have htype' : k.type ≠ 0x03 := by rw [htype]; decide
  rw [hrun]
  unfold State.threadCompletion State.atHost
  rw [if_neg htype']
  cases hg : s.arg.good with
  | false =>
    simp only [hmark, Bool.false_eq_true, false_and, if_false, Bool.not_false, if_true]
    rfl
  | true =>
    simp only [hmark, Bool.false_eq_true, false_and, if_false, Bool.not_true, if_true, if_neg htype']
    rw [if_neg (by exact hlt)]
    rfl

/-- Settles O48, from the lemmas for each event. -/
theorem hostAccess : Obligations.HostAccess := by
  intro s p x n q v quietAt
  refine ⟨fun hl hon => ⟨fun hp => ⟨execHostBar4Read_outside hl hon hp, fun pa hin hq hpo => execHostBar4Read_inside hl hon hp hin hq hpo⟩,
    fun hb => ⟨execHostBar4Write_outside hl hon hb, fun pa hin hq hpo => execHostBar4Write_inside hl hon hb hin hq hpo,
      fun pa hin hf => execHostBar4Write_waits hl hon hb hin hf⟩⟩,
    fun he => ⟨if_pos he, if_pos he⟩,
    fun hd => ⟨execQbaseWrite_disabled s hd, execQridxWrite_disabled s hd, execQcfgWrite_enables s hd, execQcfgWrite_fails s hd, execQcfgWrite_stores s hd⟩,
    ⟨execNotifyWrite_bad s, fun h => (execNotifyWrite_good s h).1, fun h => (execNotifyWrite_good s h).2⟩,
    fun hon => ⟨execRegisterWrite_adbias s hon, execRegisterWrite_pkgid s hon, execRegisterWrite_pwrsts s hon⟩,
    fun r k hr hk hkind htype hsize hm => execPcieCompletion_thread s hr hk hkind htype hsize hm⟩

end Sys2Proof.Machine

end

section

/-! # Power, boot and attestation: one lemma for each event of O52 -/

namespace Sys2Proof.Machine

/-! ### What the moves of homes and caches leave -/

/-- The packages, the slots and the dies' Cobalts are as they were: so it is after any move of lines between homes, quads and stash, and after an image is written. -/
structure State.SameFront (s t : State) : Prop where
  pkgs : t.pkgs = s.pkgs
  slots : t.slots = s.slots
  cobalt : ∀ d, (t.die d).cobalt = (s.die d).cobalt

namespace State.SameFront

variable {s t : State}

theorem refl (s : State) : s.SameFront s := ⟨rfl, rfl, fun _ => rfl⟩

theorem pkg (h : s.SameFront t) (p : Nat) : t.pkg p = s.pkg p := by
  unfold State.pkg
  rw [h.pkgs]

theorem foldl {α : Type} {f : State → α → State} {l : List α} (h : s.SameFront t) (hf : ∀ t x, s.SameFront t → s.SameFront (f t x)) :
    s.SameFront (l.foldl f t) := foldl_keeps hf l t h

theorem ite {c : Prop} {_ : Decidable c} {u : State} (ht : s.SameFront t) (hu : s.SameFront u) : s.SameFront (if c then t else u) := by
  split
  · exact ht
  · exact hu

/-- An update of anything else. -/
theorem frame {quads cores mem empty poison stash stashEmpty stashPoison net cur arg agenda posted opens host} (h : s.SameFront t) :
    s.SameFront { t with quads := quads, cores := cores, mem := mem, empty := empty, poison := poison, stash := stash, stashEmpty := stashEmpty,
                         stashPoison := stashPoison, net := net, cur := cur, arg := arg, agenda := agenda, posted := posted, opens := opens, host := host } :=
  ⟨h.pkgs, h.slots, h.cobalt⟩

theorem modDie {k : Nat} {f : Die → Die} (h : s.SameFront t) (hf : ∀ d, (f d).cobalt = d.cobalt) : s.SameFront (t.modDie k f) := by
  refine ⟨h.pkgs, h.slots, fun d => ?_⟩
  rw [← h.cobalt d, State.die_modDie]
  split
  · next hd => rw [hf, hd]
  · rfl

theorem settleLine {l : Nat} (h : s.SameFront t) : s.SameFront (t.settleLine l) := .ite h (h.frame.modDie fun _ => rfl)

theorem writeSectors {l m d f p} (h : s.SameFront t) : s.SameFront (t.writeSectors l m d f p) :=
  h.foldl fun _ _ h₁ => .ite (h₁.frame.foldl fun _ _ h₂ => h₂.frame) h₁

theorem pullRegionLine {c i l keep} (h : s.SameFront t) : s.SameFront (t.pullRegionLine c i l keep) := by
  unfold State.pullRegionLine
  refine frame (h.foldl fun u k h₁ => .ite ?_ h₁)
  dsimp only
  split
  · exact .ite h₁.frame h₁.frame.writeSectors
  · exact h₁.writeSectors

theorem pullQuadLine {q l keep} (h : s.SameFront t) : s.SameFront (t.pullQuadLine q l keep) :=
  h.foldl fun _ _ h₁ => h₁.foldl fun _ _ h₂ => .ite h₂.pullRegionLine h₂

theorem homeObtain {l : Nat} (h : s.SameFront t) : s.SameFront (t.homeObtain l) := by
  unfold State.homeObtain
  refine modDie (h.settleLine.foldl fun u q h₁ => ?_) fun _ => rfl
  dsimp only
  split
  · exact frame (.ite h₁.pullQuadLine.writeSectors h₁.pullQuadLine)
  · exact h₁.pullQuadLine

theorem putImage {a n img} (h : s.SameFront t) : s.SameFront (t.putImage a n img) := frame (h.foldl fun _ _ h₁ => h₁.homeObtain)

end State.SameFront

/-! ### A stage accepted or refused (R71, R74) -/

/-- The package as a stage's acceptance finds it once the image stands in memory and its cores are released. -/
def State.releaseStage (s : State) (p : Nat) (who : Option Nat) (t : Nat) (b : List Byte) : State :=
  let dies := match who with
    | none => stageDies p t
    | some d => [d]
  let s := dies.foldl (fun s d => s.loadImage d b) s
  if t = 1 then dies.foldl (fun s d => s.startCobalt d) s
  else if t = 2 then dies.foldl (fun s d => s.startSup d (BitVec.ofNat 64 (imgField b 32 8))) s
  else s.modPkg p fun x => { x with routes := bootRoutes p }

/-- The boot registers once a stage is accepted. -/
def Boot.accepted (x : Boot) (p : Nat) (who : Option Nat) (t : Nat) (b : List Byte) : Boot :=
  { x with
    mreg := x.mreg.set t (Config.shake512 b), stageEntry := x.stageEntry.set t (BitVec.ofNat 64 (imgField b 32 8)), fail := 0,
    recover := x.recover && x.awaited != who, awaited := if x.awaited = who then none else x.awaited,
    stage := if who.isNone then BitVec.ofNat 4 (min 3 (t + 1)) else x.stage, done := if who.isNone then t == 3 else x.done,
    loading := if who.isNone then t != 3 else x.loading,
    minVersion := (if t = 2 then Config.versionUpdates b else []).foldl (fun m u => let old := m.get (Config.fusedMin p u.1) u.1; m.set u.1 (if old < u.2 then u.2 else old)) x.minVersion }

theorem State.acceptStage_eq (s : State) (p : Nat) (who : Option Nat) (t : Nat) (b : List Byte) :
    s.acceptStage p who t b = (s.releaseStage p who t b).modPkg p fun x => { x with boot := x.boot.accepted p who t b } := rfl

theorem State.SameFront.loadImages (s : State) (ds : List Nat) (b : List Byte) : s.SameFront (ds.foldl (fun s d => s.loadImage d b) s) :=
  (State.SameFront.refl s).foldl fun _ _ h => h.putImage

/-- Dies change here, and no package. -/
theorem foldl_startCobalt_pkgs (s : State) (ds : List Nat) : (ds.foldl (fun s d => s.startCobalt d) s).pkgs = s.pkgs :=
  foldl_keeps (P := fun t : State => t.pkgs = s.pkgs) (f := fun s d => s.startCobalt d) (fun _ _ h => h) ds s rfl

theorem foldl_startSup_pkgs (s : State) (ds : List Nat) (e : Word) : (ds.foldl (fun s d => s.startSup d e) s).pkgs = s.pkgs :=
  foldl_keeps (P := fun t : State => t.pkgs = s.pkgs) (f := fun s d => s.startSup d e) (fun _ _ h => h) ds s rfl

theorem State.boot_of_pkgs {s t : State} (h : t.pkgs = s.pkgs) (p : Nat) : (t.pkg p).boot = (s.pkg p).boot := by
  unfold State.pkg
  rw [h]

theorem State.boot_releaseStage (s : State) (p : Nat) (who : Option Nat) (t : Nat) (b : List Byte) :
    ((s.releaseStage p who t b).pkg p).boot = (s.pkg p).boot := by
  unfold State.releaseStage
  extract_lets ds u
  have hu : u.pkgs = s.pkgs := (State.SameFront.loadImages s ds b).pkgs
  split
  · exact State.boot_of_pkgs ((foldl_startCobalt_pkgs u ds).trans hu) p
  · split
    · exact State.boot_of_pkgs ((foldl_startSup_pkgs u ds _).trans hu) p
    · rw [State.pkg_modPkg_self]
      exact State.boot_of_pkgs hu p

theorem State.boot_acceptStage (s : State) (p : Nat) (who : Option Nat) (t : Nat) (b : List Byte) :
    ((s.acceptStage p who t b).pkg p).boot = (s.pkg p).boot.accepted p who t b := by
  rw [State.acceptStage_eq, State.pkg_modPkg_self, State.boot_releaseStage]

/-! ### Power (R21 to R26) -/

theorem execPowerOff_on (s : State) (h : (s.pkg s.arg.a).power ≠ .off) :
    let p := s.arg.a
    ∃ t, execPowerOff s = .next t ∧ t.pkg p = (s.pkg p).unpowered ∧ (t.pkg p).power = .off ∧ (∀ k, peerOfSlot k / 4 = p → t.slot k = {}) ∧
      (∀ k, peerOfSlot k / 4 ≠ p → t.slot k = s.slot k) ∧ (∀ a, t.mem.read a = if paPeer a / 4 = p then 0 else s.mem.read a) ∧ ∀ q, q ≠ p → t.pkg q = s.pkg q := by
  intro p
  have hslot : ∀ k, NMap.get (s.slots.filter fun e => peerOfSlot e.1 / 4 != p) {} k = if peerOfSlot k / 4 = p then {} else s.slot k := fun k => by
    rw [NMap.get, NMap.find_filter_key s.slots (fun k => peerOfSlot k / 4 != p)]
    by_cases hk : peerOfSlot k / 4 = p
    · simp [hk]
    · simp [hk, State.slot, NMap.get]
  have hmem : ∀ a, Cells.read (s.mem.filter fun e => paPeer e.1 / 4 != p) a = if paPeer a / 4 = p then 0 else s.mem.read a := fun a => by
    rw [Cells.read_filter_key s.mem (fun a => paPeer a / 4 != p)]
    by_cases ha : paPeer a / 4 = p <;> simp [ha]
  have hself : (s.pkgs.set p (s.pkg p).unpowered).get {} p = (s.pkg p).unpowered := NMap.get_set_self _ _ _ _
  exact ⟨_, if_neg h, hself, congrArg Pkg.power hself, fun k hk => (hslot k).trans (if_pos hk), fun k hk => (hslot k).trans (if_neg hk), hmem,
    fun q hq => NMap.get_set_ne _ _ _ hq⟩

theorem execPowerOn_beyond (s : State) (h : 1058 ≤ s.arg.a) : execPowerOn s = .next s ∧ execRailsSettled s = .next s :=
  ⟨if_neg fun hp => absurd hp.1 (Nat.not_lt.mpr h), if_neg fun hp => absurd hp.1 (Nat.not_lt.mpr h)⟩

/-! ### BOOT_STAGE_LOAD (R71, R72, R74) -/

/-- The package's flash with the image that was read at its stage. -/
def State.readStage (s : State) : State :=
  s.modPkg s.arg.a fun y => { y with boot := { y.boot with flash := y.boot.flash.set y.boot.stage.toNat s.arg.bytes } }

@[simp] theorem State.boot_readStage (s : State) : (s.readStage.pkg s.arg.a).boot =
    { (s.pkg s.arg.a).boot with flash := (s.pkg s.arg.a).boot.flash.set (s.pkg s.arg.a).boot.stage.toNat s.arg.bytes } := by
  unfold State.readStage
  rw [State.pkg_modPkg_self]

/-- An image's checks read nothing of the state but the package's minimum versions. -/
theorem State.imageFails_congr {s t : State} {p : Nat} (h : (t.pkg p).boot.minVersion = (s.pkg p).boot.minVersion) (n : Nat) (b : List Byte) :
    t.imageFails p n b = s.imageFails p n b := by
  unfold State.imageFails
  rw [h]

theorem State.stageNow_of_not_recover {s : State} {p : Nat} (h : (s.pkg p).boot.recover = false) : s.stageNow p = (s.pkg p).boot.stage.toNat := by
  simp [State.stageNow, Boot.who, h]

theorem State.checkStage_fails {s : State} {p : Nat} {b : List Byte} {c : BitVec 4} (h : s.imageFails p (s.stageNow p) b = some c) :
    s.checkStage p b = .next (s.refuseStage p (s.pkg p).boot.who c) := by
  simp only [State.checkStage, h]

theorem State.checkStage_outside {s : State} {p : Nat} {b : List Byte} (h : s.imageFails p (s.stageNow p) b = none) (hfit : imgFits b = false) :
    s.checkStage p b = .fault (.noSuchAddress (imgField b 16 8)) := by
  simp only [State.checkStage, h, hfit, Bool.not_false, if_true]

theorem State.checkStage_passes {s : State} {p : Nat} {b : List Byte} (h : s.imageFails p (s.stageNow p) b = none) (hfit : imgFits b = true) :
    s.checkStage p b = .next ((s.acceptStage p (s.pkg p).boot.who (s.stageNow p) b).reboot p) := by
  simp only [State.checkStage, h, hfit, Bool.not_true, Bool.false_eq_true, if_false]

theorem State.reboot_of_none {s : State} {p : Nat} (h : (s.pkg p).boot.again = []) : s.reboot p = s := by
  unfold State.reboot
  rw [h, List.foldl_nil]

section

variable (s : State) (hon : (s.pkg s.arg.a).power = .on) (hload : (s.pkg s.arg.a).boot.loading = true) (hrec : (s.pkg s.arg.a).boot.recover = false)

include hrec

theorem State.stageNow_readStage : s.readStage.stageNow s.arg.a = s.stageNow s.arg.a := by
  rw [State.stageNow_of_not_recover hrec, State.stageNow_of_not_recover (by rw [State.boot_readStage]; exact hrec), State.boot_readStage]

theorem State.imageFails_readStage (b : List Byte) :
    s.readStage.imageFails s.arg.a (s.readStage.stageNow s.arg.a) b = s.imageFails s.arg.a (s.stageNow s.arg.a) b := by
  rw [s.stageNow_readStage hrec]
  exact State.imageFails_congr (by rw [State.boot_readStage]) _ _

theorem State.who_readStage : (s.readStage.pkg s.arg.a).boot.who = none := by
  rw [State.boot_readStage]
  simp [Boot.who, hrec]

include hon hload

theorem execBootStageLoad_unread (h : s.arg.good = false) : execBootStageLoad s = .next (s.refuseStage s.arg.a none 1) := by
  unfold execBootStageLoad
  dsimp only
  rw [if_neg (by simp [hon, hload, hrec]), if_pos (by simp [h])]

theorem execBootStageLoad_read (h : s.arg.good = true) : execBootStageLoad s = s.readStage.checkStage s.arg.a s.arg.bytes := by
  unfold execBootStageLoad
  dsimp only
  rw [if_neg (by simp [hon, hload, hrec]), if_neg (by simp [h])]
  rfl

theorem execBootStageLoad_passes (h : s.arg.good = true) (hpass : s.imageFails s.arg.a (s.stageNow s.arg.a) s.arg.bytes = none) (hag : (s.pkg s.arg.a).boot.again = [])
    (hfit : imgField s.arg.bytes 16 8 + s.arg.bytes.length ≤ dramEnd) :
    let x := s.pkg s.arg.a
    ∃ t, execBootStageLoad s = .next t ∧ let y := (t.pkg s.arg.a).boot
      y.fail = 0 ∧ y.recover = false ∧ y.stage.toNat = min 3 (x.boot.stage.toNat + 1) ∧ y.done = (x.boot.stage == 3) ∧ y.loading = (x.boot.stage != 3) ∧
        y.mreg = x.boot.mreg.set x.boot.stage.toNat (Config.shake512 s.arg.bytes) := by
  intro x
  have hboot := s.readStage.boot_acceptStage s.arg.a none x.boot.stage.toNat s.arg.bytes
  rw [State.boot_readStage] at hboot
  refine ⟨s.readStage.acceptStage s.arg.a none x.boot.stage.toNat s.arg.bytes, ?_, ?_⟩
  · rw [execBootStageLoad_read s hon hload hrec h, State.checkStage_passes ((s.imageFails_readStage hrec _).trans hpass) (decide_eq_true hfit), s.who_readStage hrec,
      s.stageNow_readStage hrec, State.stageNow_of_not_recover hrec, State.reboot_of_none (by rw [hboot]; exact hag)]
  · dsimp only
    rw [hboot]
    have h3 : ∀ c : BitVec 4, (BitVec.ofNat 4 (min 3 (c.toNat + 1))).toNat = min 3 (c.toNat + 1) ∧ (c.toNat == 3) = (c == 3) ∧ (c.toNat != 3) = (c != 3) := by decide
    exact ⟨rfl, by simp [Boot.accepted, hrec], (h3 _).1, (h3 _).2.1, (h3 _).2.2, rfl⟩

end

/-! ### Recovery (R74) -/

theorem execRecoveryWindowWrite_stores (s : State) (hon : (s.pkg s.arg.a).power = .on) (hb : (s.pkg s.arg.a).boot.busy = false)
    (hfit : s.arg.b + s.arg.bytes.length ≤ 0x40_0000) :
    execRecoveryWindowWrite s = .next (s.modPkg s.arg.a fun y => { y with boot := { y.boot with window := y.boot.window.writeList s.arg.b s.arg.bytes } }) := by
  have hgo : ¬((s.pkg s.arg.a).power ≠ .on ∨ (s.pkg s.arg.a).boot.busy = true ∨ windowBytes < s.arg.b + s.arg.bytes.length) := by
    rw [hb, windowBytes]
    simp only [hon, ne_eq, not_true_eq_false, Bool.false_eq_true, false_or]
    omega
  exact if_neg hgo

/-- What RECOVCTL takes: the next piece in its order, whole unless it is the last. -/
def Boot.takesPiece (x : Boot) (v : Word) : Prop :=
  let n : BitVec 32 := bits v 0 32
  x.busy = false ∧ (bits v 32 16 : BitVec 16).toNat = x.nextPiece ∧ x.nextPiece ≤ 64 ∧ 0 < n.toNat ∧ n.toNat ≤ 0x40_0000 ∧ (v.getLsbD 63 = true ∨ n.toNat = 0x40_0000)

theorem Boot.not_takesPiece_iff (x : Boot) (v : Word) : ¬x.takesPiece v ↔
    x.busy = true ∨ (bits v 32 16 : BitVec 16).toNat ≠ x.nextPiece ∨ 64 < x.nextPiece ∨ (bits v 0 32 : BitVec 32).toNat = 0 ∨
      windowBytes < (bits v 0 32 : BitVec 32).toNat ∨ ((!v.getLsbD 63) = true ∧ (bits v 0 32 : BitVec 32).toNat ≠ windowBytes) := by
  unfold Boot.takesPiece windowBytes
  simp only [not_and_or, not_or, not_le, not_lt, Nat.le_zero, Bool.not_eq_false, Bool.not_eq_true', Bool.not_eq_true, ne_eq]

theorem execRecovctlWrite_waiting (s : State) (hon : (s.pkg s.arg.a).power = .on) (hr : (s.pkg s.arg.a).boot.recover = true) :
    let v : Word := s.arg.value.setWidth 64
    let x := (s.pkg s.arg.a).boot
    (x.takesPiece v → execRecovctlWrite s = .next (s.modPkg s.arg.a fun y => { y with boot := { y.boot with busy := true, pending := some v } })) ∧
      (¬x.takesPiece v → execRecovctlWrite s = .next (s.refuseStage s.arg.a x.awaited 7)) := by
  intro v x
  have hgo : ¬((s.pkg s.arg.a).power ≠ .on ∨ (!(s.pkg s.arg.a).boot.recover) = true) := by simp [hon, hr]
  refine ⟨fun h => (if_neg hgo).trans (if_neg ?_), fun h => (if_neg hgo).trans (if_pos ?_)⟩
  · exact fun hbad => (Boot.not_takesPiece_iff x v).mpr hbad h
  · exact (Boot.not_takesPiece_iff x v).mp h

theorem execRecoveryPieceCopied_piece (s : State) {w : Word} (hp : (s.pkg s.arg.a).boot.pending = some w) (hlast : w.getLsbD 63 = false) :
    let x := (s.pkg s.arg.a).boot
    ∃ t, execRecoveryPieceCopied s = .next t ∧
      (t.pkg s.arg.a).boot = { x with busy := false, pending := none, nextPiece := x.nextPiece + 1, length := x.length + (bits w 0 32 : BitVec 32).toNat } ∧ t.slots = s.slots := by
  intro x
  let u := s.putImage (paOf (4 * s.arg.a) bufferAt + x.nextPiece * windowBytes) (bits w 0 32 : BitVec 32).toNat
    (x.window.filter fun e => e.1 < (bits w 0 32 : BitVec 32).toNat)
  have hu : s.SameFront u := (State.SameFront.refl s).putImage
  refine ⟨u.modPkg s.arg.a fun y => { y with boot := { y.boot with
    busy := false, pending := none, nextPiece := x.nextPiece + 1, length := x.length + (bits w 0 32 : BitVec 32).toNat } }, ?_, ?_, hu.slots⟩
  · unfold execRecoveryPieceCopied
    simp only [hp, hlast, Bool.not_false, if_true]
    rfl
  · rw [State.pkg_modPkg_self, hu.pkg]

/-! ### Attestation (R76) -/

theorem execAttgoWrite_starts (s : State) (hon : (s.pkg s.arg.a).power = .on) (hg : (s.pkg s.arg.a).attgo = false) (hv : s.arg.value = 1) :
    execAttgoWrite s = .next (s.modPkg s.arg.a fun y => { y with attgo := true }) := if_pos ⟨hon, by simp [hg], hv⟩

theorem length_bytesOf {w : Nat} (v : BitVec w) (n : Nat) : (bytesOf v n).length = n := by simp [bytesOf]

theorem length_reportBytes (s : State) (p : Nat) : (s.reportBytes p).length = 416 := by
  simp [State.reportBytes, length_bytesOf, List.length_flatMap]

/-- The state with a report's bytes and its signature in the report buffer. -/
def State.reported (s : State) : State :=
  s.modPkg s.arg.a fun y => { y with
    attgo := false, report := Cells.writeList [] 0 (s.reportBytes s.arg.a ++ (Config.mldsaSign s.arg.a (s.reportBytes s.arg.a)).take 3309) }

theorem State.report_reported (s : State) : (s.reported.pkg s.arg.a).report =
    Cells.writeList [] 0 (s.reportBytes s.arg.a ++ (Config.mldsaSign s.arg.a (s.reportBytes s.arg.a)).take 3309) := by
  unfold State.reported
  rw [State.pkg_modPkg_self]

theorem execAttestationReportDone_going (s : State) (hg : (s.pkg s.arg.a).attgo = true) :
    ∃ t, execAttestationReportDone s = .next t ∧ t = s.modPkg s.arg.a (fun y => { y with attgo := false, report := (t.pkg s.arg.a).report }) ∧
      ∀ i, i < 416 → (t.pkg s.arg.a).report.read i = ((s.reportBytes s.arg.a)[i]?).getD 0 := by
  refine ⟨s.reported, if_pos hg, ?_, fun i hi => ?_⟩
  · rw [State.report_reported]
    rfl
  · have h := Cells.read_writeList (m := []) 0 (s.reportBytes s.arg.a ++ (Config.mldsaSign s.arg.a (s.reportBytes s.arg.a)).take 3309) i rfl
    rw [Nat.zero_add, List.getElem?_append_left (by rw [length_reportBytes]; exact hi)] at h
    rw [State.report_reported]
    exact h

/-! ### Lifetime counters (R77) -/

/-- An update of a package depends on the package alone. -/
theorem State.modPkg_congr {s : State} {p : Nat} {f g : Pkg → Pkg} (h : f (s.pkg p) = g (s.pkg p)) : s.modPkg p f = s.modPkg p g := by
  unfold State.modPkg
  rw [h]

theorem execLifetimeCommit_whole (s : State) (hon : (s.pkg s.arg.a).power = .on) :
    let x := s.pkg s.arg.a
    let rest := 24 - x.life.hours.toNat % 24
    let l := { x.life with hours := x.life.hours + BitVec.ofNat 64 rest }
    s.arg.c = 0 ∨ rest ≤ s.arg.c → execLifetimeCommit s = .next (s.modPkg s.arg.a fun y => { y with life := l, committed := l }) := by
  intro x rest l h
  have hall : (decide (s.arg.c = 0) || decide (rest ≤ s.arg.c)) = true := by simpa using h
  refine (if_pos hon).trans (congrArg _ (State.modPkg_congr ?_))
  dsimp only
  rw [hall]
  rfl

theorem execLifetimeCommit_part (s : State) (hon : (s.pkg s.arg.a).power = .on) (hpos : 0 < s.arg.c) (hlt : s.arg.c < 24 - (s.pkg s.arg.a).life.hours.toNat % 24) :
    execLifetimeCommit s = .next (s.modPkg s.arg.a fun y => { y with life := { y.life with hours := y.life.hours + BitVec.ofNat 64 s.arg.c } }) := by
  have hall : (decide (s.arg.c = 0) || decide (24 - (s.pkg s.arg.a).life.hours.toNat % 24 ≤ s.arg.c)) = false := by
    simp only [Bool.or_eq_false_iff, decide_eq_false_iff_not]
    omega
  refine (if_pos hon).trans (congrArg _ (State.modPkg_congr ?_))
  dsimp only
  rw [hall]
  rfl

theorem execMonthAdvance_same (s : State) (h : (s.pkg s.arg.a).life.hours.toNat / 720 % 60 = (s.pkg s.arg.a).life.monthIndex.toNat) : execMonthAdvance s = .next s :=
  if_neg fun hgo => hgo.2 h

theorem execMonthAdvance_next (s : State) (hon : (s.pkg s.arg.a).power = .on)
    (h : (s.pkg s.arg.a).life.hours.toNat / 720 % 60 ≠ (s.pkg s.arg.a).life.monthIndex.toNat) :
    let x := s.pkg s.arg.a
    ∃ t, execMonthAdvance s = .next t ∧ (t.pkg s.arg.a).life.monthIndex.toNat = (x.life.monthIndex.toNat + 1) % 60 ∧
      ∀ i, (t.pkg s.arg.a).life.ecc.get 0 i = if i / 1088 = (x.life.monthIndex.toNat + 1) % 60 then 0 else x.life.ecc.get 0 i := by
  intro x
  refine ⟨_, if_pos ⟨hon, h⟩, ?_, fun i => ?_⟩
  · rw [State.pkg_modPkg_self]
    show (BitVec.ofNat 64 ((x.life.monthIndex.toNat + 1) % 60)).toNat = _
    rw [BitVec.toNat_ofNat, Nat.mod_eq_of_lt (by omega)]
  · rw [State.pkg_modPkg_self]
    show NMap.get (x.life.ecc.filter fun e => e.1 / 1088 != (x.life.monthIndex.toNat + 1) % 60) 0 i = _
    unfold NMap.get
    rw [NMap.find_filter_key _ (fun j => j / 1088 != (x.life.monthIndex.toNat + 1) % 60)]
    by_cases hi : i / 1088 = (x.life.monthIndex.toNat + 1) % 60 <;> simp [hi]

/-! ### Power states (R23 to R26) -/

theorem State.pwrctl_holds (s : State) (v : Word) (hon : (s.pkg s.arg.a).power = .on) (h0 : (bits v 2 14 : BitVec 14) = 0) (hbusy : (s.pkg s.arg.a).pbusy = true) :
    s.pwrctl v (pwrState v) = .next (s.modPkg s.arg.a fun y => { y with pheld := some v }) := by
  unfold State.pwrctl
  dsimp only
  rw [if_neg (by simp [hon]), if_pos ⟨hbusy, h0⟩]

theorem State.pwrctl_starts (s : State) (v : Word) (hon : (s.pkg s.arg.a).power = .on) (h : (bits v 2 14 : BitVec 14) ≠ 0 ∨ (s.pkg s.arg.a).pbusy = false) :
    s.pwrctl v (pwrState v) = .next (s.startPower s.arg.a v) := by
  unfold State.pwrctl
  dsimp only
  rw [if_neg (by simp [hon]), if_neg]
  rintro ⟨hb, h0⟩
  rcases h with h | h
  · exact h h0
  · rw [h] at hb; exact absurd hb (by decide)

/-- The clauses of a PWRCTL write of any state. -/
theorem State.pwrctl_clauses (s : State) (v : Word) (hon : (s.pkg s.arg.a).power = .on) :
    let x := s.pkg s.arg.a
    let ps := pwrState v
    ((bits v 2 14 : BitVec 14) = 0 → x.pbusy = true → s.pwrctl v ps = .next (s.modPkg s.arg.a fun y => { y with pheld := some v })) ∧
      ((bits v 2 14 : BitVec 14) ≠ 0 ∨ (x.pbusy = false ∧ ps = 3 ∧ s.anyBound s.arg.a = true) →
        s.pwrctl v ps = .next (s.modPkg s.arg.a fun y => { y with prefused := true, pseq := bits v 16 16 })) ∧
      ((bits v 2 14 : BitVec 14) = 0 → x.pbusy = false → ¬(ps = 3 ∧ s.anyBound s.arg.a = true) →
        s.pwrctl v ps = .next (s.modPkg s.arg.a fun y => { y with pbusy := true, ptarget := v, committed := if ps = 3 then y.life else y.committed })) := by
  intro x ps
  refine ⟨s.pwrctl_holds v hon, fun h => ?_, fun h0 hb hn => ?_⟩
  · rw [s.pwrctl_starts v hon (h.imp_right fun hb => hb.1)]
    exact congrArg _ (if_pos (h.imp_right fun hb => hb.2))
  · rw [s.pwrctl_starts v hon (.inr hb)]
    exact congrArg _ (if_neg (not_or.mpr ⟨not_not.mpr h0, hn⟩))

theorem exec_pwrctl (s : State) {ev : Instr} {ps : BitVec 2} (h : (ev, ps) ∈ [(Instr.pwrctlP0, (0 : BitVec 2)), (.pwrctlP1, 1), (.pwrctlP2, 2), (.pwrctlP3, 3)]) :
    exec ev s = s.pwrctl (s.arg.value.setWidth 64) ps := by
  simp only [List.mem_cons, Prod.mk.injEq, List.not_mem_nil, or_false] at h
  obtain ⟨rfl, rfl⟩ | ⟨rfl, rfl⟩ | ⟨rfl, rfl⟩ | ⟨rfl, rfl⟩ := h
  · rfl
  · rfl
  · rfl
  · rfl

theorem execPowerTransitionDone_none_held (s : State) (hb : (s.pkg s.arg.a).pbusy = true) (hh : (s.pkg s.arg.a).pheld = none) :
    execPowerTransitionDone s = .next (s.modPkg s.arg.a fun y => { y with
      pbusy := false, prefused := false, pstate := bits (s.pkg s.arg.a).ptarget 0 2, pseq := bits (s.pkg s.arg.a).ptarget 16 16, pheld := none }) := by
  unfold execPowerTransitionDone
  dsimp only
  rw [if_neg (by simp [hb]), hh]
  rfl

/-! ### Thermal alerts (R22, R24) -/

theorem execThermalAlert_hot (s : State) (hon : (s.pkg s.arg.a).power = .on) (hc : 100 ≤ s.arg.c) :
    let d := s.arg.b % 4
    let i := d * 5 + min 4 ((s.arg.c - 100) / 5)
    execThermalAlert s = .next (s.modPkg s.arg.a fun y => { y with
      alert := y.alert ||| (1 <<< d), life := { y.life with thermal := y.life.thermal.set i (y.life.thermal.get 0 i + s.arg.value.setWidth 64) } }) := by
  intro d i
  exact if_neg fun h => h.elim (fun h => h hon) (Nat.not_lt.mpr hc)

theorem execThermalAlertClear_clears (s : State) :
    let d := s.arg.b % 4
    ∃ t, execThermalAlertClear s = .next t ∧ (t.pkg s.arg.a).alert.getLsbD d = false ∧
      (∀ e, e ≠ d → (t.pkg s.arg.a).alert.getLsbD e = (s.pkg s.arg.a).alert.getLsbD e) ∧ t.slots = s.slots ∧ t.mem = s.mem := by
  intro d
  have hd : d < 4 := Nat.mod_lt _ (by decide)
  have hmask : ∀ e < 4, (~~~((1 : BitVec 4) <<< d)).getLsbD e = decide (e ≠ d) := fun e he => by
    revert e
    generalize d = d' at hd
    revert d'
    decide
  refine ⟨_, rfl, ?_, fun e he => ?_, rfl, rfl⟩
  · rw [State.pkg_modPkg_self]
    show ((s.pkg s.arg.a).alert &&& ~~~((1 : BitVec 4) <<< d)).getLsbD d = false
    rw [BitVec.getLsbD_and, hmask d hd]
    simp
  · rw [State.pkg_modPkg_self]
    show ((s.pkg s.arg.a).alert &&& ~~~((1 : BitVec 4) <<< d)).getLsbD e = _
    by_cases h4 : e < 4
    · rw [BitVec.getLsbD_and, hmask e h4]
      simp [he]
    · rw [BitVec.getLsbD_of_ge _ _ (by omega), BitVec.getLsbD_of_ge _ _ (by omega)]

theorem execThermtrip_hot (s : State) (hon : (s.pkg s.arg.a).power = .on) (hc : 120 ≤ s.arg.c) :
    execThermtrip s = .next (s.modPkg s.arg.a fun y => { y with thermtrip := true }) := if_pos ⟨hon, hc⟩

/-! ### The watchdog (R75) -/

theorem State.cobalt_startCobalt {s : State} (e : Nat) {d : Nat} (h : (s.die d).cobalt = true) : ((s.startCobalt e).die d).cobalt = true := by
  unfold State.startCobalt
  rw [State.die_modDie]
  split
  · rfl
  · exact h

theorem State.cobalt_startSup {s : State} (e : Nat) (w : Word) {d : Nat} (h : (s.die d).cobalt = true) : ((s.startSup e w).die d).cobalt = true := by
  show ((s.modDie e fun d => { d with supRun := true }).die d).cobalt = true
  rw [State.die_modDie]
  split
  · next hd => rw [← hd]; exact h
  · exact h

/-- A stage's release stops no Cobalt that runs. -/
theorem State.cobalt_releaseStage {s : State} (p : Nat) (who : Option Nat) (t : Nat) (b : List Byte) {d : Nat} (h : (s.die d).cobalt = true) :
    ((s.releaseStage p who t b).die d).cobalt = true := by
  unfold State.releaseStage
  extract_lets ds u
  have hu : (u.die d).cobalt = true := ((State.SameFront.loadImages s ds b).cobalt d).trans h
  split
  · exact foldl_keeps (P := fun v : State => (v.die d).cobalt = true) (fun _ e hv => State.cobalt_startCobalt e hv) _ _ hu
  · split
    · exact foldl_keeps (P := fun v : State => (v.die d).cobalt = true) (fun _ e hv => State.cobalt_startSup e _ hv) _ _ hu
    · exact hu

/-- Stage 1 of a die that boots again starts its Cobalt. -/
theorem State.cobalt_releaseStage_one (s : State) (p d : Nat) (b : List Byte) : ((s.releaseStage p (some d) 1 b).die d).cobalt = true := by
  show (((s.loadImage d b).startCobalt d).die d).cobalt = true
  unfold State.startCobalt
  rw [State.die_modDie_self]

theorem State.cobalt_bootAgain {s : State} (p e : Nat) {d : Nat} (h : (s.die d).cobalt = true) : ((s.bootAgain p e).die d).cobalt = true := by
  unfold State.bootAgain
  dsimp only
  split
  · exact h
  · split
    · exact h
    · split
      · split
        · exact h
        · exact h
      · split
        · rw [State.die_modPkg, State.acceptStage_eq, State.die_modPkg]
          exact State.cobalt_releaseStage p _ _ _ h
        · split
          · exact h
          · exact h

section

variable {s : State} {p d : Nat} (hag : (s.pkg p).boot.again = [d])

include hag

/-- A die that alone boots again takes up to three steps: stage 1, stage 2, and the end. -/
theorem State.reboot_of_singleton : s.reboot p = ((s.bootAgain p d).bootAgain p d).bootAgain p d := by
  unfold State.reboot
  rw [hag]
  rfl

omit hag in
/-- Slate waits for the die's own image. -/
theorem State.bootAgain_of_who (h : (s.pkg p).boot.who = some d) : s.bootAgain p d = s := by
  unfold State.bootAgain
  dsimp only
  rw [if_pos (by simp [h])]

variable (hwho : (s.pkg p).boot.who ≠ some d) (hcob : (s.die d).cobalt = false) (hsup : (s.die d).supRun = false)

include hwho hcob hsup

theorem State.bootAgain_fails {c : BitVec 4} (h : s.imageFails p 1 ((s.pkg p).boot.flash.get [] 1) = some c) :
    s.bootAgain p d = if (s.pkg p).boot.recover then s else s.refuseStage p (some d) c := by
  have hstage : s.dieStage d = 1 := by simp [State.dieStage, hcob]
  unfold State.bootAgain
  simp only [hstage, h]
  rw [if_neg (by simp [hag, hwho]), if_neg (by simp [hsup])]

theorem State.bootAgain_passes (h : s.imageFails p 1 ((s.pkg p).boot.flash.get [] 1) = none) (hfit : imgFits ((s.pkg p).boot.flash.get [] 1) = true) :
    s.bootAgain p d = (s.acceptStage p (some d) 1 ((s.pkg p).boot.flash.get [] 1)).modPkg p fun x => { x with boot := { x.boot with fail := 6 } } := by
  have hstage : s.dieStage d = 1 := by simp [State.dieStage, hcob]
  unfold State.bootAgain
  simp only [hstage, h, hfit]
  rw [if_neg (by simp [hag, hwho]), if_neg (by simp [hsup])]
  rfl

theorem State.reboot_fails {c : BitVec 4} (h : s.imageFails p 1 ((s.pkg p).boot.flash.get [] 1) = some c) :
    s.reboot p = if (s.pkg p).boot.recover then s else s.refuseStage p (some d) c := by
  have hone := State.bootAgain_fails hag hwho hcob hsup h
  rw [State.reboot_of_singleton hag, hone]
  split
  · next hrec =>
    rw [if_pos hrec] at hone
    rw [hone, hone]
  · have hthen : ((s.refuseStage p (some d) c).pkg p).boot.who = some d := by
      unfold State.refuseStage
      rw [State.pkg_modPkg_self]
      rfl
    rw [State.bootAgain_of_who hthen, State.bootAgain_of_who hthen]

theorem State.cobalt_reboot (h : s.imageFails p 1 ((s.pkg p).boot.flash.get [] 1) = none) (hfit : imgFits ((s.pkg p).boot.flash.get [] 1) = true) :
    ((s.reboot p).die d).cobalt = true := by
  rw [State.reboot_of_singleton hag, State.bootAgain_passes hag hwho hcob hsup h hfit]
  exact State.cobalt_bootAgain p d (State.cobalt_bootAgain p d (State.cobalt_releaseStage_one s p d _))

end

theorem State.pkg_report (s : State) (p : Nat) (what : String) (vs : List Nat) (q : Nat) : (s.report p what vs).pkg q = s.pkg q := rfl
theorem State.die_report (s : State) (p : Nat) (what : String) (vs : List Nat) (d : Nat) : (s.report p what vs).die d = s.die d := rfl

/-- The state that the watchdog leaves before the die boots again: neither its Cobalt nor its supervisor runs, and the host is told. -/
def State.watchdogged (s : State) (peer : Nat) : State :=
  ((s.modDie peer fun d => { d with cobalt := false, supRun := false }).modPkg (peer / 4) fun x =>
      { x with boot := { x.boot with
          fail := 6, again := x.boot.again.filter (· != peer) ++ [peer], recover := x.boot.recover && x.boot.awaited != some peer,
          awaited := x.boot.awaited.filter (· != peer) } }).report (peer / 4) "WATCHDOG" [peer]

theorem State.boot_watchdogged (s : State) (peer : Nat) : let b := (s.pkg (peer / 4)).boot
    ((s.watchdogged peer).pkg (peer / 4)).boot = { b with
      fail := 6, again := b.again.filter (· != peer) ++ [peer], recover := b.recover && b.awaited != some peer, awaited := b.awaited.filter (· != peer) } := by
  intro b
  unfold State.watchdogged
  rw [State.pkg_report, State.pkg_modPkg_self, State.pkg_modDie]

theorem State.die_watchdogged (s : State) (peer : Nat) : (s.watchdogged peer).die peer = { s.die peer with cobalt := false, supRun := false } := by
  unfold State.watchdogged
  rw [State.die_report, State.die_modPkg, State.die_modDie_self]

theorem State.who_watchdogged (s : State) (peer : Nat) : ((s.watchdogged peer).pkg (peer / 4)).boot.who ≠ some peer := by
  rw [State.boot_watchdogged]
  unfold Boot.who
  dsimp only
  split
  · simp [Option.filter_eq_some_iff]
  · simp

section

variable (s : State) (hon : (s.pkg (s.arg.a / 4)).power = .on) (hcob : (s.die s.arg.a).cobalt = true) (hjobs : s.jobsOn s.arg.a = [])
  (hsup : (s.die s.arg.a).supRun = false)

include hon hcob hjobs hsup

theorem execHeartbeatMissed_idle_die : execHeartbeatMissed s = .next ((s.watchdogged s.arg.a).reboot (s.arg.a / 4)) := by
  unfold execHeartbeatMissed
  dsimp only
  rw [if_neg (by simp [hon, hcob]), hjobs, List.foldl_nil, if_neg (by simp [hsup])]
  rfl

variable (hag : (s.pkg (s.arg.a / 4)).boot.again.filter (· != s.arg.a) = [])

include hag

omit hon hcob hjobs hsup in
theorem State.again_watchdogged : ((s.watchdogged s.arg.a).pkg (s.arg.a / 4)).boot.again = [s.arg.a] := by
  rw [State.boot_watchdogged]
  dsimp only
  rw [hag]
  rfl

theorem execHeartbeatMissed_fails {c : BitVec 4} (h : s.imageFails (s.arg.a / 4) 1 ((s.pkg (s.arg.a / 4)).boot.flash.get [] 1) = some c) :
    execHeartbeatMissed s = .next (if (s.pkg (s.arg.a / 4)).boot.recover && (s.pkg (s.arg.a / 4)).boot.awaited != some s.arg.a then s.watchdogged s.arg.a
      else (s.watchdogged s.arg.a).refuseStage (s.arg.a / 4) (some s.arg.a) c) := by
  rw [execHeartbeatMissed_idle_die s hon hcob hjobs hsup, State.reboot_fails (s.again_watchdogged hag) (s.who_watchdogged _) (c := c)]
  · rw [State.boot_watchdogged]
  · rw [State.die_watchdogged]
  · rw [State.die_watchdogged]
  · rw [State.boot_watchdogged]
    exact (State.imageFails_congr (by rw [State.boot_watchdogged]) _ _).trans h

theorem execHeartbeatMissed_passes (h : s.imageFails (s.arg.a / 4) 1 ((s.pkg (s.arg.a / 4)).boot.flash.get [] 1) = none)
    (hfit : imgField ((s.pkg (s.arg.a / 4)).boot.flash.get [] 1) 16 8 + ((s.pkg (s.arg.a / 4)).boot.flash.get [] 1).length ≤ dramEnd) :
    ∃ t, execHeartbeatMissed s = .next t ∧ (t.die s.arg.a).cobalt = true := by
  refine ⟨_, execHeartbeatMissed_idle_die s hon hcob hjobs hsup, State.cobalt_reboot (s.again_watchdogged hag) (s.who_watchdogged _) ?_ ?_ ?_ ?_⟩
  · rw [State.die_watchdogged]
  · rw [State.die_watchdogged]
  · rw [State.boot_watchdogged]
    exact (State.imageFails_congr (by rw [State.boot_watchdogged]) _ _).trans h
  · rw [State.boot_watchdogged]
    exact decide_eq_true hfit

end

/-- Settles O52, from the lemmas for each event. -/
theorem powerEvents : Obligations.PowerEvents := by
  intro s p x boot v fails
  refine ⟨fun hp h => if_pos ⟨hp, h⟩, fun hp h => if_pos ⟨hp, h⟩, execPowerOn_beyond s, execPowerOff_on s,
    fun hon hload hrec => ⟨execBootStageLoad_unread s hon hload hrec, fun hgood => ⟨fun c hc => ?_, fun hpass => ⟨fun hout => ?_, fun hag hfit => ?_⟩⟩⟩,
    execRecoveryWindowWrite_stores s, execRecovctlWrite_waiting s, fun w hw hlast => execRecoveryPieceCopied_piece s hw hlast,
    fun hon hcob hjobs hsup hag => ⟨fun c hc => execHeartbeatMissed_fails s hon hcob hjobs hsup hag hc, fun hpass hfit => execHeartbeatMissed_passes s hon hcob hjobs hsup hag hpass hfit⟩,
    execAttgoWrite_starts s, execAttestationReportDone_going s, fun hon => ⟨execLifetimeCommit_whole s hon, execLifetimeCommit_part s hon⟩,
    execMonthAdvance_same s, execMonthAdvance_next s, fun ev ps hev hon hps => ?_, execPowerTransitionDone_none_held s,
    ⟨execThermalAlert_hot s, execThermalAlertClear_clears s⟩, execThermtrip_hot s⟩
  · exact (execBootStageLoad_read s hon hload hrec hgood).trans
      ((State.checkStage_fails ((s.imageFails_readStage hrec _).trans hc)).trans (by rw [s.who_readStage hrec]; rfl))
  · exact (execBootStageLoad_read s hon hload hrec hgood).trans
      (State.checkStage_outside ((s.imageFails_readStage hrec _).trans hpass) (decide_eq_false (Nat.not_le.mpr hout)))
  · exact execBootStageLoad_passes s hon hload hrec hgood hpass hag hfit
  · rw [exec_pwrctl s hev, ← hps]
    exact s.pwrctl_clauses v hon

end Sys2Proof.Machine

end

section

/-! # Packets on their way, and TASK: one lemma for each case of O42 -/

namespace Sys2Proof.Machine

/-! ### A packet comes to a place (R100) -/

/-- Where no sweep has closed the input, the packet comes to its place. -/
theorem State.moveFlight_of_open {s : State} {k : Nat} {f : Flight} {loc : Loc} {unit input : Nat}
    (h : (s.gang loc.pkg f.pkt.job).closed unit input f.pkt.vc = false) : s.moveFlight k f loc unit input = s.moved k f loc :=
  if_neg fun hc => absurd (h.symm.trans hc.1) (by decide)

section

variable {s : State} {f : Flight}

/-! ### The ring (R8, R12) -/

theorem State.forwardRing_leaves (k p : Nat) (hd : f.pkt.dst.toNat ≠ hostPeer)
    (ho : (s.gang (f.pkt.dst.toNat / 4) f.pkt.job).closed (s.comesTo f.pkt).1 (s.comesTo f.pkt).2 f.pkt.vc = false) :
    s.forwardRing k p (f.pkt.dst.toNat % 4) f = s.moved k f (.arrived f.pkt.dst.toNat) := by
  unfold State.forwardRing
  simp only [hd, if_false, if_true]
  exact State.moveFlight_of_open ho

theorem State.forwardRing_crosses (k : Nat) {p d n b dir : Nat} (hd : f.pkt.dst.toNat ≠ hostPeer) (hne : f.pkt.dst.toNat % 4 ≠ d)
    (hn : (s.pkg p).ringNext d (f.pkt.dst.toNat % 4) = some n) (hb : boundaryOf d n = some (b, dir)) (hs : (s.pkg p).boundarySends b dir = true)
    (ho : (s.gang p f.pkt.job).closed (1088 + b) (1 - dir) f.pkt.vc = false) :
    s.forwardRing k p d f = s.moved k { f with came := d } (.ring p n) := by
  unfold State.forwardRing
  simp only [hd, if_false, Ne.symm hne, hn, hb, hs, if_true]
  exact State.moveFlight_of_open ho

/-! ### The routers (R37) -/

variable (hm : f.pkt.malformed = false) (hp : f.pkt.phase = true)

include hm hp

theorem State.forwardRouter_arrives (k : Nat) {p r : Nat} (hd : f.pkt.dst.toNat / 4 = p) (ho : (s.gang p f.pkt.job).closed 1092 r f.pkt.vc = false) :
    s.forwardRouter k p r f = s.moved k { f with came := r } (.arrived f.pkt.dst.toNat) := by
  unfold State.forwardRouter
  simp only [hm, hp, hd, Bool.false_eq_true, Bool.not_true, false_and, if_false, and_self, if_true]
  exact State.moveFlight_of_open (loc := .arrived f.pkt.dst.toNat) (f := { f with came := r }) (by simpa [Loc.pkg, hd] using ho)

theorem State.forwardRouter_hops (k : Nat) {p r back : Nat} (hd : f.pkt.dst.toNat / 4 ≠ p) (hr : r ≠ 35 ∨ f.pkt.hops ≠ 0) (hh : f.pkt.hops.toNat < 4) :
    let e := (s.pkg p).route (f.pkt.dst.toNat / 4)
    let q := neighbour p (routePort e)
    let hop := { f.pkt with hops := f.pkt.hops + 1 }
    portTo q p = some back → routeValid e = true → routePort e < 35 → ((s.pkg p).ports.get {} (routePort e)).disabled = false →
      ((s.pkg q).ports.get {} back).disabled = false → (s.gang q f.pkt.job).closed 1092 back hop.vc = false →
      s.forwardRouter k p r f = (s.modPkg p fun x => { x with altTurn := x.altTurn.set (f.pkt.dst.toNat / 4) ((s.pkg p).altTurn.get 0 (f.pkt.dst.toNat / 4)) }).moved
        k { f with pkt := hop, came := back } (.router q back) := by
  intro e q hop hback hv hport hout hin ho
  have hlocal : ¬(r = 35 ∧ f.pkt.hops = 0) := fun h => hr.elim (fun hn => hn h.1) (fun hn => hn h.2)
  have hstands : s.linkStands p (routePort e) = true := by
    unfold State.linkStands
    simp only [q] at hback hin
    simp only [hout, hback, hin, Bool.not_false, Bool.and_self]
  have hpkt : (if (!f.pkt.phase) = true ∧ f.pkt.inter.toNat = p then { f.pkt with phase := true } else f.pkt) = f.pkt := if_neg (by simp [hp])
  have htarget : f.pkt.target = f.pkt.dst.toNat / 4 := if_pos hp
  unfold State.forwardRouter
  simp only [hm, hpkt, hd, Bool.false_eq_true, and_false, if_false, hlocal, htarget]
  rw [if_pos ⟨hv, hport, hstands, hh⟩]
  simp only [q, e] at hback
  simp only [hback, Option.getD_some]
  refine State.moveFlight_of_open ?_
  have hgang : ∀ g : Pkg → NMap Nat, (s.modPkg p fun x => { x with altTurn := g x }).gang q f.pkt.job = s.gang q f.pkt.job := fun g => by
    unfold State.gang
    rw [State.pkg_modPkg]
    split
    · next h => rw [h]
    · rfl
  exact (congrArg (fun g : Gang => g.closed 1092 back hop.vc) (hgang _)).trans ho

end

/-! ### PACKET_FORWARD -/

section

variable {s : State} {f : Flight} (hf : s.net[s.arg.a]? = some f) (hst : s.stopped f = false) (hov : s.overtakes s.arg.a f = false)
  (hrb : s.ringBlocked s.arg.a f = false) (hbh : s.behindHeld f = false)

include hf hst hov hrb hbh

theorem execPacketForward_source {q : Nat} (hl : f.loc = .source q) :
    (f.pkt.dst.toNat = hostPeer ∨ f.pkt.dst.toNat / 4 = q / 4 → execPacketForward s = .next (s.moved s.arg.a f (.ring (q / 4) (q % 4)))) ∧
      (f.pkt.dst.toNat ≠ hostPeer → f.pkt.dst.toNat / 4 ≠ q / 4 → (s.pkg (q / 4)).heldDest.mem (f.pkt.dst.toNat / 4) = false →
        execPacketForward s = .next (s.moved s.arg.a f (.router (q / 4) 35))) := by
  unfold execPacketForward
  simp only [hf, hst, hov, hrb, hbh, hl, Bool.false_eq_true, or_self, if_false]
  refine ⟨fun h => if_pos h, fun h₁ h₂ h₃ => (if_neg (not_or.mpr ⟨h₁, h₂⟩)).trans (if_neg fun h => ?_)⟩
  rw [h₃] at h
  exact absurd h.2 (by decide)

theorem execPacketForward_ring {p d : Nat} (hl : f.loc = .ring p d) : execPacketForward s = .next (s.forwardRing s.arg.a p d f) := by
  unfold execPacketForward
  simp only [hf, hst, hov, hrb, hbh, hl, Bool.false_eq_true, or_self, if_false]

theorem execPacketForward_router {p r : Nat} (hl : f.loc = .router p r) (hm : f.pkt.malformed = false) (ht : f.pkt.isTree = false) (h30 : f.pkt.type ≠ 0x30) :
    execPacketForward s = .next (s.forwardRouter s.arg.a p r f) := by
  unfold execPacketForward
  simp only [hf, hst, hov, hrb, hbh, hl, hm, ht, h30, Bool.false_eq_true, or_self, if_false]

end

/-! ### TASK (R87, R93, R125, R132, R315) -/

section

variable {s : State} {k : Pkt} {peer : Nat} (hk : s.arrived s.arg.a 0x07 = some (k, peer))

include hk

theorem execTask_refused (ha : s.admitted peer k.job = false) : execTask s = .next ((s.dropFlight s.arg.a).send (k.nack 2)) := by
  unfold execTask
  simp only [hk]
  have ha' : (s.dropFlight s.arg.a).admitted peer k.job = false := ha
  rw [ha']
  rfl

variable (ha : s.admitted peer k.job = true) (hlead : s.leadFor (peer * 1024 + k.off.toNat % 1024) k.job = peer * 1024 + k.off.toNat % 1024)
  (hdiv : s.diverts (peer * 1024 + k.off.toNat % 1024) k.job = false)

include ha hlead hdiv

/-- The packet is taken at its own core and not spilled. -/
theorem execTask_taken : let c := peer * 1024 + k.off.toNat % 1024
    let left := s.dropFlight s.arg.a
    execTask s =
      if k.fn = taskSpawn ∨ k.fn = taskMigr then .next (left.arriveThread c k)
      else if left.holdsCrew c k.job then .next (left.arriveChannel c k)
      else if k.fn = taskPush then .next (left.send (k.outcome false))
      else .next (left.send (k.nack nackPartition)) := by
  intro c left
  have ha' : left.admitted peer k.job = true := ha
  have hlead' : left.leadFor c k.job = c := hlead
  have hdiv' : left.diverts c k.job = false := hdiv
  unfold execTask
  simp only [hk]
  rw [hlead', ha', hdiv']
  simp only [Bool.not_true, Bool.false_eq_true, false_and, if_false]
  rfl

theorem execTask_no_crew (hcrew : s.holdsCrew (peer * 1024 + k.off.toNat % 1024) k.job = false) (hfn : k.fn = taskPush) :
    execTask s = .next ((s.dropFlight s.arg.a).send { k.resp 8 0 false with operand := 0 }) := by
  have hcrew' : (s.dropFlight s.arg.a).holdsCrew (peer * 1024 + k.off.toNat % 1024) k.job = false := hcrew
  rw [execTask_taken hk ha hlead hdiv, if_neg (by rw [hfn]; decide), hcrew', if_neg (by decide), if_pos hfn]
  rfl

variable (hcrew : s.holdsCrew (peer * 1024 + k.off.toNat % 1024) k.job = true)

include hcrew

theorem execTask_channel (hfn : k.fn ≠ taskSpawn ∧ k.fn ≠ taskMigr) :
    execTask s = .next ((s.dropFlight s.arg.a).arriveChannel (peer * 1024 + k.off.toNat % 1024) k) := by
  have hcrew' : (s.dropFlight s.arg.a).holdsCrew (peer * 1024 + k.off.toNat % 1024) k.job = true := hcrew
  rw [execTask_taken hk ha hlead hdiv, if_neg (not_or.mpr hfn), if_pos hcrew']

theorem execTask_spawn (hfn : k.fn = taskSpawn) {j : Nat}
    (hj : freeSlot (fun j => s.slot ((peer * 1024 + k.off.toNat % 1024) * 8 + j)) (s.core (peer * 1024 + k.off.toNat % 1024)).spill = some j) :
    execTask s = .next (((s.dropFlight s.arg.a).place (peer * 1024 + k.off.toNat % 1024) j k).send { k.resp 8 0 false with operand := 1 }) := by
  have hcrew' : (s.dropFlight s.arg.a).holdsCrew (peer * 1024 + k.off.toNat % 1024) k.job = true := hcrew
  have hj' : freeSlot (fun j => (s.dropFlight s.arg.a).slot ((peer * 1024 + k.off.toNat % 1024) * 8 + j))
    ((s.dropFlight s.arg.a).core (peer * 1024 + k.off.toNat % 1024)).spill = some j := hj
  rw [execTask_taken hk ha hlead hdiv, if_pos (.inl hfn)]
  unfold State.arriveThread
  rw [hcrew', hj', if_neg (by decide)]
  rfl

end

/-- A slot that numbers its operations alone, with a packet's thread placed in it. -/
def Slot.alikePlaced (k : Pkt) (t : Slot) : Slot := ({ t with opId := max 0 t.opId } : Slot).placed k

/-! ### What arrives on the channels of a core without a lock-step partner -/

theorem State.bind_modCrew (s : State) (c : Nat) {f : Crew → Crew} (hf : ∀ x, (f x).bind = x.bind) : ((s.modCrew c f).core c).crew.bind = (s.core c).crew.bind := by
  unfold State.modCrew
  rw [State.core_modCore_self]
  exact hf _

section

variable {s : State} {c : Nat} (hls : (s.core c).crew.bind.lockstep = false)

include hls

theorem State.lead_of_alone : s.lead c = c := by
  unfold State.lead
  rw [hls]
  rfl

theorem State.syncPair_of_alone : s.syncPair c = s := by
  unfold State.syncPair
  rw [hls]
  rfl

theorem State.twins_of_alone {j : Nat} (hj : j < 8) : s.twins (c * 8 + j) = [c * 8 + j] := by
  unfold State.twins
  rw [show coreOf (c * 8 + j) = c from by unfold coreOf; omega, hls]
  rfl

theorem State.arriveChannel_push {k : Pkt} (hfn : k.fn = taskPush) (hroom : (s.core c).crew.queue.length < 64) :
    s.arriveChannel c k = (s.modCrew c fun x => { x with queue := x.queue ++ [k.operand] }).send { k.resp 8 0 false with operand := 1 } := by
  unfold State.arriveChannel State.queuePush
  simp only [State.lead_of_alone hls, hfn, hroom, if_true]
  rw [if_neg (by decide), State.syncPair_of_alone]
  · rfl
  · exact (State.bind_modCrew s c (f := fun x => { x with queue := x.queue ++ [k.operand] }) fun _ => rfl) ▸ hls

/-- No WFE waits in the slot, and the event stays in its latch. -/
theorem State.arriveChannel_sev {k : Pkt} (hfn : k.fn = taskSev) (hops : (s.slot (c * 8 + k.size.toNat % 8)).ops = []) :
    s.arriveChannel c k = (s.modSlot (c * 8 + k.size.toNat % 8) fun x => { x with latch := true }).send (k.ack false) := by
  unfold State.arriveChannel
  simp only [State.lead_of_alone hls, hfn]
  rw [if_neg (by decide), if_neg (by decide), State.twins_of_alone hls (Nat.mod_lt _ (by decide)), List.foldl_cons, List.foldl_nil]
  unfold State.setLatch
  simp only [State.slot_modSlot_self, hops, List.find?_nil]

theorem State.place_of_alone {j : Nat} (hj : j < 8) (k : Pkt) :
    s.place c j k = s.modSlot (c * 8 + j) (Slot.alikePlaced k) := by
  unfold State.place State.alike
  simp only [State.twins_of_alone hls hj, List.map_cons, List.map_nil, List.foldl_cons, List.foldl_nil, State.modSlot_modSlot]
  unfold State.modSlot
  rfl

end

/-! ### A spawned thread in its slot (R87, R132) -/

/-- The registers that a spawned thread begins with: w0 to w3 as the packet gives them, in an empty file. -/
def Pkt.spawnRegs (k : Pkt) : NMap (BitVec 64) :=
  NMap.set (NMap.set (NMap.set (NMap.set [] 0 (k.dword 1)) 1 (k.dword 2)) 2 (k.dword 3)) 3 (k.dword 4)

theorem Pkt.get_spawnRegs (k : Pkt) (r : Nat) : k.spawnRegs.get 0 r = if r < 4 then k.dword (1 + r) else 0 := by
  unfold Pkt.spawnRegs
  simp only [NMap.get_set, NMap.get_nil]
  by_cases h0 : r = 0
  · subst h0; rfl
  by_cases h1 : r = 1
  · subst h1; rfl
  by_cases h2 : r = 2
  · subst h2; rfl
  by_cases h3 : r = 3
  · subst h3; rfl
  rw [if_neg h3, if_neg h2, if_neg h1, if_neg h0, if_neg (by omega)]

theorem Slot.placed_spawn (t : Slot) {k : Pkt} (h : k.fn = taskSpawn) :
    t.placed k = { t.dispatched k.operand 0 k.job k.parcel with phys := k.spawnRegs } := if_pos h

/-- The physical register of w r in a thread at window depth 0. -/
theorem Slot.w_of_depth_zero {t : Slot} (h : t.wdepth = 0) {r : Nat} (hr : r < 24) : t.w r = t.phys.get 0 r := by
  unfold Slot.w Slot.phyOf
  rw [h]
  rw [show (16 * (0 : BitVec 16).toNat + r) % 120 = r from by
    show (16 * 0 + r) % 120 = r
    omega]

theorem freeSlot_lt {f : Nat → Slot} {l : List Spilled} {j : Nat} (h : freeSlot f l = some j) : j < 6 := List.mem_range.mp (List.mem_of_find?_eq_some h)

/-- Settles O42, from the lemmas for each place of a packet and each operation of TASK. -/
theorem packetArrivals : Obligations.PacketArrivals := by
  intro s f k peer i job latest moves onRing isOpen c left
  refine ⟨fun hf hst hov hrb hbh => ⟨fun q hl => execPacketForward_source hf hst hov hrb hbh hl, fun p d hl ho hh hd => ?_, fun p d n b dir hl ho hh hne hn hb hs => ?_,
    fun p r hl hm ht h30 hp => ⟨fun hd ho => ?_, fun hd hr hhops back hback hv hport hout hin ho => ?_⟩⟩, fun hk => ⟨execTask_refused hk, fun ha hlead hdiv hls =>
    ⟨fun hcrew hfn hroom => ?_, fun hcrew hfn => execTask_no_crew hk ha hlead hdiv hcrew hfn, fun hcrew hfn hops => ?_, fun j hcrew hfn hj => ?_⟩⟩⟩
  · subst hd
    exact (execPacketForward_ring hf hst hov hrb hbh hl).trans (congrArg _ (State.forwardRing_leaves s.arg.a p hh ho))
  · exact (execPacketForward_ring hf hst hov hrb hbh hl).trans (congrArg _ (State.forwardRing_crosses s.arg.a hh hne hn hb hs ho))
  · exact (execPacketForward_router hf hst hov hrb hbh hl hm ht h30).trans (congrArg _ (State.forwardRouter_arrives hm hp s.arg.a hd ho))
  · refine ⟨_, (execPacketForward_router hf hst hov hrb hbh hl hm ht h30).trans
      (congrArg _ (State.forwardRouter_hops hm hp s.arg.a hd hr hhops hback hv hport hout hin ho)), rfl, rfl, rfl, rfl⟩
  · exact (execTask_channel hk ha hlead hdiv hcrew (by rw [hfn]; decide)).trans
      (congrArg _ (State.arriveChannel_push (s := s.dropFlight s.arg.a) hls hfn hroom))
  · exact (execTask_channel hk ha hlead hdiv hcrew (by rw [hfn]; decide)).trans
      (congrArg _ (State.arriveChannel_sev (s := s.dropFlight s.arg.a) hls hfn hops))
  · have hj8 : j < 8 := Nat.lt_of_lt_of_le (freeSlot_lt hj) (by decide)
    refine ⟨_, execTask_spawn hk ha hlead hdiv hcrew hfn hj, ?_⟩
    rw [State.place_of_alone (s := s.dropFlight s.arg.a) hls hj8]
    refine ⟨rfl, ?_⟩
    intro x
    have hx : x = { ({ left.slot (c * 8 + j) with opId := max 0 (left.slot (c * 8 + j)).opId } : Slot).dispatched k.operand 0 k.job k.parcel with phys := k.spawnRegs } :=
      (State.slot_modSlot_self left (c * 8 + j) (Slot.alikePlaced k)).trans (Slot.placed_spawn _ hfn)
    clear_value x
    subst hx
    refine ⟨rfl, rfl, rfl, rfl, rfl, rfl, rfl, rfl, rfl, rfl, rfl, rfl, rfl, rfl, rfl, rfl, rfl, rfl, rfl, rfl, rfl, fun n _ => rfl, fun n _ => rfl, fun n _ => rfl,
      fun r hr => ?_, fun r hr => ?_, rfl, fun m hm => State.slot_modSlot_ne left (Slot.alikePlaced k) hm⟩
    · rw [Slot.w_of_depth_zero rfl hr, Pkt.get_spawnRegs]
      rfl
    · rw [Pkt.get_spawnRegs, if_neg (Nat.not_lt.mpr hr)]

end Sys2Proof.Machine

end

section

/-! # Incast tickets at their class: one lemma for each event of O43 -/

namespace Sys2Proof

/-- The low bits of a value are its truncation. -/
theorem bits_zero {n : Nat} (x : BitVec n) (w : Nat) : bits x 0 w = x.setWidth w := by
  apply BitVec.eq_of_toNat_eq
  simp [bits]

/-- A truth value as a packet's operation field. -/
theorem b1_setWidth_four (b : Bool) : (b1 b).setWidth 4 = if b = true then 1 else 0 := by cases b <;> rfl

end Sys2Proof

namespace Sys2Proof.Machine

section

variable {s : State} {k : Pkt} {peer : Nat}

/-! ### A class and its job (R41, R45, R46) -/

/-- Does a class refuse a job's requests: is the job not admitted at the die, or not the class's own? -/
def State.classRefuses (s : State) (peer c : Nat) (job : BitVec 12) : Bool := !s.admitted peer job || !((s.die peer).tickets.get {} c).takes job

theorem State.classRefuses_eq_true {c : Nat} {job : BitVec 12}
    (h : s.admitted peer job = false ∨ ((s.die peer).tickets.get {} c).en = false ∨ ((s.die peer).tickets.get {} c).job ≠ job) : s.classRefuses peer c job = true := by
  unfold State.classRefuses Ticket.takes
  rcases h with h | h | h
  · rw [h]; rfl
  · rw [h]; exact Bool.or_true _
  · rw [beq_eq_false_iff_ne.mpr h, Bool.and_false]; exact Bool.or_true _

theorem State.classRefuses_eq_false {c : Nat} {job : BitVec 12} (ha : s.admitted peer job = true) (he : ((s.die peer).tickets.get {} c).en = true)
    (hj : ((s.die peer).tickets.get {} c).job = job) : s.classRefuses peer c job = false := by
  unfold State.classRefuses Ticket.takes
  rw [ha, he, hj, beq_self_eq_true]
  rfl

/-! ### The events -/

theorem execTkget_refused (hk : s.arrived s.arg.a 0x08 = some (k, peer)) (hr : s.classRefuses peer (k.off.toNat % 16) k.job = true) :
    execTkget s = .next ((s.dropFlight s.arg.a).send (k.nack 2)) := by
  unfold execTkget
  simp only [hk]
  exact if_pos hr

theorem execTkreg_refused (hk : s.arrived s.arg.a 0x09 = some (k, peer)) (hr : s.classRefuses peer (k.off.toNat % 16) k.job = true) :
    execTkreg s = .next ((s.dropFlight s.arg.a).send (k.nack 2)) := by
  unfold execTkreg
  simp only [hk]
  exact if_pos hr

theorem execTkdone_refused (hk : s.arrived s.arg.a 0x0A = some (k, peer)) (hr : s.classRefuses peer (k.off.toNat % 16) k.job = true) :
    execTkdone s = .next ((s.dropFlight s.arg.a).send (k.nack 2)) := by
  unfold execTkdone
  simp only [hk]
  exact if_pos hr

section

variable (hr : s.classRefuses peer (k.off.toNat % 16) k.job = false)

include hr

theorem execTkget_taken (hk : s.arrived s.arg.a 0x08 = some (k, peer)) :
    let t := (s.die peer).tickets.get {} (k.off.toNat % 16)
    execTkget s = .next (((s.dropFlight s.arg.a).modDie peer fun d => { d with tickets := d.tickets.set (k.off.toNat % 16) { t with next := t.next + 1 } }).send
      { k.resp 8 (t.calledNo.setWidth 2048) false with operand := zx t.next, fn := (b1 (t.calls t.next)).setWidth 4, off := k.off }) := by
  unfold execTkget
  simp only [hk]
  exact if_neg fun h => absurd (hr.symm.trans h) (by decide)

theorem execTkreg_taken (hk : s.arrived s.arg.a 0x09 = some (k, peer)) :
    let t := (s.die peer).tickets.get {} (k.off.toNat % 16)
    execTkreg s = if t.calls (k.operand.setWidth 32) then .next ((s.dropFlight s.arg.a).send (callPacket peer k.src.toNat (k.off.toNat % 16) k.job t.calledNo))
      else .next ((s.dropFlight s.arg.a).modDie peer fun d => { d with tickets := d.tickets.set (k.off.toNat % 16) { t with waiters := t.waiters.insert k.src.toNat } }) := by
  unfold execTkreg
  simp only [hk, bits_zero]
  exact if_neg fun h => absurd (hr.symm.trans h) (by decide)

theorem execTkdone_taken (hk : s.arrived s.arg.a 0x0A = some (k, peer)) :
    let t := (s.die peer).tickets.get {} (k.off.toNat % 16)
    let t' : Ticket := { t with done := t.done + 1, waiters := [] }
    execTkdone s = .next (t.waiters.foldl (fun s w => s.send (callPacket peer w (k.off.toNat % 16) k.job t'.calledNo))
      (((s.dropFlight s.arg.a).modDie peer fun d => { d with tickets := d.tickets.set (k.off.toNat % 16) t' }).send (k.ack false))) := by
  unfold execTkdone
  simp only [hk]
  exact if_neg fun h => absurd (hr.symm.trans h) (by decide)

end

/-- The called number that no waiter of the die awaits is kept for a later TKWAIT (R47). -/
theorem execCall_no_waiters (hk : s.arrived s.arg.a 0x23 = some (k, peer)) (hw : (s.die peer).waitersOf (classKey k.src.toNat (k.off.toNat % 16)) = []) :
    execCall s = .next ((s.dropFlight s.arg.a).modDie peer fun d => { d with called := d.called.set (classKey k.src.toNat (k.off.toNat % 16)) (k.operand.setWidth 32) }) := by
  unfold execCall
  have hw' : ∀ f : Die → NMap (BitVec 32), (((s.dropFlight s.arg.a).modDie peer fun d => { d with called := f d }).die peer).waitersOf
      (classKey k.src.toNat (k.off.toNat % 16)) = [] := fun f => by rw [State.die_modDie_self]; exact hw
  simp only [hk, bits_zero, hw', List.foldl_nil, if_true]

end

/-- Settles O43, from the lemmas for each event. -/
theorem ticketEvents : Obligations.TicketEvents := by
  intro s k peer c t left here set called calls
  refine ⟨fun href ty i hi hk => ?_, fun ha he hj => ?_, fun hk hw => execCall_no_waiters hk hw⟩
  · have hr := State.classRefuses_eq_true href
    simp only [List.mem_cons, Prod.mk.injEq, List.not_mem_nil, or_false] at hi
    rcases hi with ⟨rfl, rfl⟩ | ⟨rfl, rfl⟩ | ⟨rfl, rfl⟩
    · exact execTkget_refused hk hr
    · exact execTkreg_refused hk hr
    · exact execTkdone_refused hk hr
  · have hr := State.classRefuses_eq_false ha he hj
    have hcalls : ∀ n, (t.calls n = true) = calls n := fun n => decide_eq_true_eq
    refine ⟨fun hk => ?_, fun hk => ⟨fun hn => ?_, fun hn => ?_⟩, fun hk hw => ?_, fun w hk hw => ?_⟩
    · refine (execTkget_taken hr hk).trans ?_
      simp only [b1_setWidth_four]
      simp only [t, c] at hcalls ⊢
      simp only [hcalls]
      rfl
    · exact (execTkreg_taken hr hk).trans (if_pos ((hcalls _).mpr hn))
    · exact (execTkreg_taken hr hk).trans (if_neg fun h => hn ((hcalls _).mp h))
    · have hdone : ∀ n, ({ t with done := n, waiters := [] } : Ticket) = { t with done := n } := fun n => by rw [← hw]
      refine (execTkdone_taken hr hk).trans ?_
      simp only [t, c] at hw hdone
      simp only [hw, hdone, List.foldl_nil]
      rfl
    · refine (execTkdone_taken hr hk).trans ?_
      have hcalled : called + 1 = t.done + 1 + t.rows.setWidth 32 := add_right_comm _ _ _
      rw [hcalled]
      simp only [t, c] at hw
      simp only [hw, List.foldl_cons, List.foldl_nil]
      rfl

end Sys2Proof.Machine
end

section

/-! # A thread that runs alone: what ends one of its operations -/

namespace Sys2Proof.Machine

theorem State.modSlot_congr {s : State} {k : Nat} {f g : Slot → Slot} (h : f (s.slot k) = g (s.slot k)) : s.modSlot k f = s.modSlot k g := by
  unfold State.modSlot
  rw [h]

/-! ### A slot that holds no trap frame -/

theorem Slot.framed_eq_false {t : Slot} (hp : t.st ≠ .park) (hz : t.st ≠ .frozen) : t.framed = false := by
  unfold Slot.framed
  rw [beq_eq_false_iff_ne.mpr hp, beq_eq_false_iff_ne.mpr hz]
  rfl

/-- The one operation of a thread has gone, and no other stands. -/
theorem Slot.dropOp_one {t : Slot} {o : Op} (h : t.ops = [o]) : t.dropOp o.id = { t with ops := [] } := by
  unfold Slot.dropOp
  rw [h, List.filter_cons_of_neg (by simp), List.filter_nil]

theorem Slot.modOp_one {t : Slot} {o : Op} (h : t.ops = [o]) (f : Op → Op) : t.modOp o.id f = { t with ops := [f o] } := by
  unfold Slot.modOp
  rw [h, List.map_cons, List.map_nil, if_pos (beq_self_eq_true _)]

section

variable {s : State} {k : Nat} (hl : (s.core (coreOf k)).crew.bind.lockstep = false)

include hl

theorem State.twins_alone : s.twins k = [k] := by
  unfold State.twins
  rw [hl]
  rfl

theorem State.performed_alone (o : Op) (r : Reply) : s.performed k o r = s.modSlot k fun t => t.performed o r := by
  unfold State.performed
  rw [State.twins_alone hl]
  rfl

theorem State.backOff_alone (id lane : Nat) : s.backOff k id lane = s.modSlot k fun t => t.modOp id fun o =>
    { o with phase := .waiting, parts := o.parts.map fun p => if p.lane == lane then { p with phase := .waiting } else p } := by
  unfold State.backOff
  rw [State.twins_alone hl]
  rfl

theorem State.trapLater_run (tr : Trap) (hr : (s.slot k).st = .run) : s.trapLater k tr = s.modSlot k fun t => { t with trapNext := t.trapNext ++ [tr] } := by
  unfold State.trapLater
  rw [State.twins_alone hl]
  simp only [List.foldl_cons, List.foldl_nil, hr]

end

section

variable {s : State} {k : Nat} {o : Op} {r : Reply} (hl : (s.core (coreOf k)).crew.bind.lockstep = false) (ho : (s.slot k).ops = [o])
  (hf : (s.slot k).framed = false)

include hl ho hf

/-- A thread's one operation performs with a result, which goes out as a reply (R115, R182). -/
theorem State.performed_replies (ha : o.kind.atReply = false) (hd : ¬(o.dest = .none ∧ o.flag = none ∧ r.fsf = 0)) :
    s.performed k o r = s.modSlot k fun t => { t with ops := [], replies := t.replies ++ [{ r with dest := o.dest, wakes := some o.id }] } := by
  rw [State.performed_alone hl]
  exact State.modSlot_congr ((Slot.performed_reply _ _ _ hf (Slot.op_one _ _ ho) ha hd).trans (by rw [Slot.dropOp_one ho]))

/-- One without a result performs: the thread goes on where it held it (R114). -/
theorem State.performed_wakes (hd : o.dest = .none ∧ o.flag = none ∧ r.fsf = 0) :
    s.performed k o r = s.modSlot k fun t => ({ t with ops := [] } : Slot).wake o.id := by
  rw [State.performed_alone hl]
  exact State.modSlot_congr ((Slot.performed_none _ _ _ hf (Slot.op_one _ _ ho) hd).trans (by rw [Slot.dropOp_one ho]))

/-- Its one byte range performs with a value, and with it the operation (R189). -/
theorem State.partDone_replies {x : Part} (v : Word) (hp : o.parts = [x]) (ha : o.kind.atReply = false) (hv : o.kind ≠ .vld true) {r : Nat} (hd : o.dest = .reg r) :
    s.partDone k o.id x.lane v = s.modSlot k fun t => { t with
      ops := [], replies := t.replies ++ [{ ({ o with parts := [{ x with phase := .done, value := v }] } : Op).reply with dest := o.dest, wakes := some o.id }] } := by
  generalize hu : ({ o with parts := [{ x with phase := .done, value := v }] } : Op) = u
  have hid : u.id = o.id := by rw [← hu]
  have hkind : u.kind = o.kind := by rw [← hu]
  have hdest : u.dest = o.dest := by rw [← hu]
  have hall : u.allDone = true := by rw [← hu]; rfl
  have hres : u.reserved = false := by
    unfold Op.reserved
    rw [hkind, beq_eq_false_iff_ne.mpr hv]
    rfl
  have hmod : s.modPart k o.id x.lane (fun p => { p with phase := .done, value := v }) = s.modSlot k fun t => { t with ops := [u] } := by
    unfold State.modPart
    refine State.modSlot_congr ((Slot.modOp_one ho _).trans ?_)
    rw [hp, List.map_cons, List.map_nil, if_pos (beq_self_eq_true _), ← hu]
  have hop : ∀ t : Slot, t.ops = [u] → t.op o.id = some u := fun t ht => hid ▸ Slot.op_one t u ht
  have hdo : ¬(u.dest = .none ∧ u.flag = none ∧ u.reply.fsf = 0) := fun h => nomatch (hdest.trans hd).symm.trans h.1
  unfold State.partDone State.settleParts
  rw [hmod, State.slot_modSlot_self, hop _ rfl]
  simp only [hall, hres, if_true, Bool.false_eq_true, if_false]
  rw [State.twins_alone (s := s.modSlot k _) hl, List.foldl_cons, List.foldl_nil, State.modSlot_modSlot]
  refine State.modSlot_congr ?_
  unfold Slot.performedAs
  rw [hid, hop _ rfl]
  simp only [hall, if_true]
  refine (Slot.performed_reply { s.slot k with ops := [u] } u _ hf (Slot.op_one _ u rfl) (hkind ▸ ha) hdo).trans ?_
  rw [Slot.dropOp_one rfl, hdest, hid]

end

end Sys2Proof.Machine

end

section

/-! # Responses at the thread that waits for them: one lemma for each answer of O46 -/

namespace Sys2Proof.Machine

section

variable {s : State} {k : Pkt} {peer : Nat}

/-! ### To whom a response goes (R41) -/

/-- What comes for a slot that does not await it, and whose core has no pre-empted crew, goes to none. -/
theorem State.onOwner_none {j : Nat} {mine : Slot → Bool} (f : State → State) (hm : mine (s.slot j) = false) (hs : (s.core (coreOf j)).saved = none) :
    s.onOwner j mine f = none := by
  unfold State.onOwner
  simp only [hm, hs, Bool.false_eq_true, if_false]

theorem State.onOwner_self {j : Nat} {mine : Slot → Bool} (f : State → State) (hm : mine (s.slot j) = true) : s.onOwner j mine f = some (f s) := if_pos hm

/-- A response for a thread of another job, or of none, is counted (R41). -/
theorem State.toOwner_stray (port : Nat) (f : Nat → Op → State → State) (hj : (s.slot k.requester).job ≠ k.job)
    (hsp : ∀ e ∈ (s.slot k.requester).spawns, e.1 ≠ k.tag) (hs : (s.core (coreOf k.requester)).saved = none) : s.toOwner k port f = s.countStray k port := by
  have hspawns : ((s.slot k.requester).spawns.any fun e => e.1 == k.tag) = false := by
    rw [List.any_eq_false]
    exact fun e he => by simpa using hsp e he
  unfold State.toOwner
  dsimp only
  rw [State.onOwner_none _ (by rw [beq_eq_false_iff_ne.mpr hj]; rfl) hs, State.onOwner_none _ hspawns hs]
  rfl

/-- A response that the thread's one operation awaits goes to it (R33, R115). -/
theorem State.toOwner_one (port : Nat) (f : Nat → Op → State → State) {o : Op} (hj : (s.slot k.requester).job = k.job) (ho : (s.slot k.requester).ops = [o])
    (ha : o.awaits k.tag = true) : s.toOwner k port f = f k.requester o s := by
  have hfind : [o].find? (·.awaits k.tag) = some o := List.find?_cons_of_pos ha
  unfold State.toOwner
  dsimp only
  rw [State.onOwner_self _ (by rw [hj, ho, beq_self_eq_true, List.any_cons, ha]; rfl), ho, hfind]
  rfl

theorem State.send_modSlot (j : Nat) (f : Slot → Slot) (p : Pkt) : (s.modSlot j f).send p = (s.send p).modSlot j f := rfl

/-! ### The three events -/

theorem execResp_eq (hk : s.response s.arg.a 0x20 = some (k, peer)) (ht : k.tag ≠ 0xFFFF) :
    execResp s = .next ((s.dropFlight s.arg.a).toOwner k (s.cameBy s.arg.a) (State.respOp k)) := by
  unfold execResp
  simp only [hk]
  exact if_neg ht

theorem execAck_eq (hk : s.response s.arg.a 0x21 = some (k, peer)) (hfn : k.fn ≠ 1) :
    execAck s = .next ((s.dropFlight s.arg.a).toOwner k (s.cameBy s.arg.a) (State.ackOp k)) := by
  have hd : s.dataMissing k = false := by
    unfold State.dataMissing
    rw [beq_eq_false_iff_ne.mpr hfn]
    rfl
  unfold execAck
  simp only [hk, hd, Bool.false_eq_true, if_false]

theorem execNack_eq (hk : s.response s.arg.a 0x22 = some (k, peer)) (ht : k.tag ≠ 0xFFFF) (hop : k.operand ≠ 9) :
    execNack s = .next ((s.dropFlight s.arg.a).toOwner k (s.cameBy s.arg.a) (State.nackOp k)) := by
  unfold execNack
  simp only [hk]
  exact (if_neg hop).trans (if_neg ht)

/-! ### What an answer does to a thread's one operation (R42, R44, R115) -/

section

variable {j : Nat} {o : Op} (hl : (s.core (coreOf j)).crew.bind.lockstep = false) (ho : (s.slot j).ops = [o]) (hf : (s.slot j).framed = false)

include hl ho hf

theorem State.respOp_qpush {f : BitVec 3} (hkind : o.kind = .qpush) (hd : o.dest = .none) (hfl : o.flag = some f) :
    State.respOp k j o s = s.modSlot j fun t => { t with
      ops := [], replies := t.replies ++ [{ flag := some (f, some (k.operand.getLsbD 0)), wakes := some o.id }] } := by
  unfold State.respOp
  simp only [hkind]
  refine (State.performed_replies hl ho hf (by rw [hkind]; rfl) fun h => nomatch hfl.symm.trans h.2.1).trans ?_
  simp only [hd, hfl, Option.map_some]

theorem State.respOp_load {n : Nat} {sg : Bool} {x : Part} {r : Nat} (hkind : o.kind = .load n sg) (hd : o.dest = .reg r)
    (hp : o.parts = [x]) (hx : x.lane = k.tag.toNat % 16) (hpo : k.poison = false) (hsz : k.size ≠ 8) (hv : (k.payload.setWidth 64 : Word) ≠ poisonWord) :
    State.respOp k j o s = s.modSlot j fun t => { t with
      ops := [], replies := t.replies ++ [{ dest := .reg r, value := (loadValue n sg (k.payload.setWidth 64)).setWidth 512, wakes := some o.id }] } := by
  have hfind : o.parts.find? (·.lane == k.tag.toNat % 16) = some x := by rw [hp, List.find?_cons_of_pos (by rw [hx]; exact beq_self_eq_true _)]
  unfold State.respOp
  simp only [hkind]
  unfold State.respPart
  simp only [hfind, hkind, hpo, hsz, Bool.false_eq_true, if_false]
  rw [← hx]
  refine (State.partDone_replies hl ho hf _ hp (by rw [hkind]; rfl) (by rw [hkind]; nofun) hd).trans ?_
  unfold Op.reply firstValue
  simp only [hkind, hd, hv, if_false]

theorem State.ackOp_mbxw {n : Nat} (hkind : o.kind = .mbxw n) (hd : o.dest = .none) (hfl : o.flag = none) :
    State.ackOp k j o s = s.modSlot j fun t => ({ t with ops := [] } : Slot).wake o.id := by
  unfold State.ackOp
  simp only [hkind]
  exact State.performed_wakes hl ho hf ⟨hd, hfl, rfl⟩

omit hf in
/-- BUSY: the mailbox write waits to be sent again (R44). -/
theorem State.nackOp_mbxw_busy {n : Nat} (hkind : o.kind = .mbxw n) (hp : o.parts = []) (hfn : k.fn = 1) (hown : s.ownCore j o.a = false) :
    State.nackOp k j o s = s.modSlot j fun t => { t with ops := [{ o with phase := .waiting }] } := by
  have hback : State.nackOp k j o s = s.backOff j o.id (k.tag.toNat % 16) := by
    unfold State.nackOp
    simp only [hkind]
    rw [if_neg (fun h => h hfn), hown, if_neg (by decide)]
  rw [hback, State.backOff_alone hl]
  refine State.modSlot_congr ((Slot.modOp_one ho _).trans ?_)
  rw [hp]
  rfl

/-- PARTITION: the mailbox write ends, its thread to trap at its next instruction (R40, R41). -/
theorem State.nackOp_mbxw_partition {n : Nat} (hkind : o.kind = .mbxw n) (hd : o.dest = .none) (hfl : o.flag = none) (hfn : k.fn = 2)
    (hh : (s.slot j).hold = .none) (hr : (s.slot j).st = .run) :
    State.nackOp k j o s = s.modSlot j fun t => { t with
      ops := [], trapNext := t.trapNext ++ [{ cause := 0x0B, addr := o.a, detail := k.src.setWidth 64, stream := o.stream, mask := o.mask, seq := o.seq }] } := by
  have hwake : ({ s.slot j with ops := [] } : Slot).wake o.id = { s.slot j with ops := [] } := if_neg fun h => by
    rcases h with h | h <;> exact nomatch hh.symm.trans h
  have hends : ∀ r : Reply, r.fsf = 0 → s.performed j o r = s.modSlot j fun t => { t with ops := [] } := fun r h =>
    (State.performed_wakes hl ho hf ⟨hd, hfl, h⟩).trans (State.modSlot_congr hwake)
  have hsrc : BitVec.ofNat 64 k.src.toNat = k.src.setWidth 64 := BitVec.ofNat_toNat _ _
  unfold State.nackOp
  simp only [hkind]
  rw [if_pos (by rw [hfn]; decide)]
  unfold State.foreign
  simp only [hkind, hfl, Option.map_none]
  unfold State.refuseOp
  rw [hends _ rfl, State.trapLater_run (s := s.modSlot j _) hl _ ((congrArg Slot.st (State.slot_modSlot_self _ _ _)).trans hr), State.modSlot_modSlot, hsrc]

end

/-! ### NACK_RETRY (R44) -/

/-- A mailbox write that was turned away goes out again, its next delay doubled. -/
theorem execNackRetry_mbxw {o : Op} {n : Nat} (ho : (s.slot s.arg.a).ops = [o]) (hid : s.arg.b = o.id) (hkind : o.kind = .mbxw n) (hph : o.phase = .waiting)
    (hown : s.ownCore s.arg.a o.a = false) (hbars : (s.gang (peerOfSlot s.arg.a / 4) (s.slot s.arg.a).job).phase.bars = false) :
    execNackRetry s = .next ((s.send (s.taskPacket s.arg.a o o.a.toNat taskMbox n o.b)).modSlot s.arg.a fun t =>
      { t with ops := [{ o with phase := .sent, delay := min 8192 (2 * o.delay) }] }) := by
  have hop : (s.slot s.arg.a).op s.arg.b = some o := hid ▸ Slot.op_one _ o ho
  have hretries : s.retries s.arg.a o = true := by
    unfold State.retries
    simp only [hkind, hph, hown]
    rfl
  have hresend : s.resend s.arg.a o = ((s.modSlot s.arg.a fun t => t.modOp o.id fun o => { o with delay := nextDelay o.delay }).send
      (s.taskPacket s.arg.a o o.a.toNat taskMbox n o.b)).setPhase s.arg.a o.id .sent := by
    unfold State.resend
    simp only [hkind]
    unfold State.taskPacket
    rw [State.slot_modSlot_self]
    rfl
  unfold execNackRetry
  dsimp only
  rw [State.onOwner_self _ (by rw [hop]; rfl)]
  simp only [hop, hretries, hbars, true_and, Bool.false_eq_true, not_false_eq_true, if_true]
  rw [hresend, State.send_modSlot, State.setPhase, State.modSlot_modSlot]
  refine congrArg _ (State.modSlot_congr ?_)
  exact (congrArg (fun t => Slot.modOp t o.id fun o => { o with phase := .sent }) (Slot.modOp_one ho _)).trans
    (Slot.modOp_one (o := { o with delay := nextDelay o.delay }) rfl _)

end

/-- Settles O46, from the lemmas for each event and each kind of operation. -/
theorem responses : Obligations.Responses := by
  intro s k peer left here j t
  refine ⟨fun htag hop hjob hsp hs => ?_, fun o htag hop hjob ho haw hpark hfrozen hl => ?_, fun o n => execNackRetry_mbxw⟩
  · intro port counted
    have hstray : ∀ f, left.toOwner k port f = counted := fun f => State.toOwner_stray (s := left) port f hjob hsp hs
    exact ⟨fun hk => (execResp_eq hk htag).trans (congrArg _ (hstray _)), fun hk hfn => (execAck_eq hk hfn).trans (congrArg _ (hstray _)),
      fun hk => (execNack_eq hk htag hop).trans (congrArg _ (hstray _))⟩
  · have hf : (left.slot j).framed = false := Slot.framed_eq_false hpark hfrozen
    have hone : ∀ f, left.toOwner k (s.cameBy s.arg.a) f = f j o left := fun f => State.toOwner_one (s := left) _ f hjob ho haw
    have hresp : here 0x20 → exec .resp s = .next (State.respOp k j o left) := fun hk => (execResp_eq hk htag).trans (congrArg _ (hone _))
    have hack : here 0x21 → k.fn ≠ 1 → exec .ack s = .next (State.ackOp k j o left) := fun hk hfn => (execAck_eq hk hfn).trans (congrArg _ (hone _))
    have hnack : here 0x22 → exec .nack s = .next (State.nackOp k j o left) := fun hk => (execNack_eq hk htag hop).trans (congrArg _ (hone _))
    refine ⟨fun f hk hkind hd hfl => ?_, fun n sg x r hk hkind _ hd _ hp hx hpo hsz hv => ?_, fun n hkind hd hfl hp =>
      ⟨fun hk hfn => ?_, fun hk hfn hown => ?_, fun hk hfn hh hr => ?_⟩⟩
    · exact (hresp hk).trans (congrArg _ (State.respOp_qpush (s := left) hl ho hf hkind hd hfl))
    · exact (hresp hk).trans (congrArg _ (State.respOp_load (s := left) hl ho hf hkind hd hp hx hpo hsz hv))
    · exact (hack hk hfn).trans (congrArg _ (State.ackOp_mbxw (s := left) hl ho hf hkind hd hfl))
    · exact (hnack hk).trans (congrArg _ (State.nackOp_mbxw_busy (s := left) hl ho hkind hp hfn hown))
    · exact (hnack hk).trans (congrArg _ (State.nackOp_mbxw_partition (s := left) hl ho hf hkind hd hfl hfn hh hr))

end Sys2Proof.Machine

end

section

/-! # Collectives and barriers in the routers: one lemma for each event of O44 -/

namespace Sys2Proof.Machine

section

variable {s : State} {k : Pkt} {p input : Nat}

/-! ### A tree packet at its router (R32, R35) -/

/-- A well-formed tree packet of a type at a place of the list, at an input of a router. -/
def State.treeHere (s : State) (i : Nat) (type : BitVec 8) (k : Pkt) (p input : Nat) : Prop :=
  (∃ f : Flight, s.net[i]? = some f ∧ f.pkt = k ∧ f.loc = .router p input) ∧ input < 36 ∧ k.malformed = false ∧ k.type = type

theorem State.absorb_here {ty : BitVec 8} (f : State → Pkt → Nat → Nat → State) (h : s.treeHere s.arg.a ty k p input) :
    s.absorb ty f = .next (f (s.dropFlight s.arg.a) k p input) := by
  obtain ⟨⟨⟨pkt, loc, came, held, stamp⟩, hf, rfl, rfl⟩, hi, hm, ht⟩ := h
  have hat : s.treeAt s.arg.a ty = some (pkt, p, input) := by
    unfold State.treeAt
    simp only [hf]
    exact if_pos ⟨ht, hi⟩
  unfold State.absorb
  simp only [hat]
  exact congrArg _ (if_neg (hm ▸ nofun))

/-- A barrier packet reaches its root or its waiter's package, or goes a hop on. -/
theorem execPbar_here (h : s.treeHere s.arg.a 0x13 k p input) :
    execPbar s = if k.dst.toNat / 4 = p then
        if k.fn = 0 then .next ((s.dropFlight s.arg.a).podArrive p k.size.toNat k.job (bits k.operand 0 32) (k.src.toNat * 8192 + k.req.toNat)
          (k.payload.toNat / 2) (k.payload.toNat % 2 == 1))
        else .next ((s.dropFlight s.arg.a).releaseWaiter (k.dst.toNat * 8192 + k.req.toNat, k.operand.toNat))
      else .next ((s.dropFlight s.arg.a).treeSend p (minimalPort p (k.dst.toNat / 4)) k) := by
  obtain ⟨⟨⟨pkt, loc, came, held, stamp⟩, hf, rfl, rfl⟩, hi, hm, ht⟩ := h
  unfold execPbar
  simp only [hf]
  rw [if_neg (not_or.mpr ⟨fun h => h ht, Nat.not_le.mpr hi⟩), if_neg (hm ▸ nofun)]

/-! ### Groups (R48, R49) -/

@[simp] theorem State.group_setGroup (s : State) (p g : Nat) (x : Group) : (s.setGroup p g x).group p g = x := by
  unfold State.setGroup State.group
  rw [State.pkg_modPkg_self]
  exact NMap.get_set_self _ _ _ _

@[simp] theorem State.setGroup_setGroup (s : State) (p g : Nat) (x y : Group) : (s.setGroup p g x).setGroup p g y = s.setGroup p g y := by
  unfold State.setGroup
  rw [State.modPkg_modPkg]
  simp only [NMap.set_set]

theorem State.groupReady_waits {g : Nat} (h : (s.group p g).complete = false) : s.groupReady p g = s := by
  unfold State.groupReady
  simp only [h]
  rfl

theorem State.groupReady_up {g : Nat} (hc : (s.group p g).complete = true) (hs : (s.group p g).sentUp = false) (hr : (s.group p g).isRoot = false) :
    s.groupReady p g = (s.setGroup p g { s.group p g with sentUp := true }).treeSend p (s.group p g).parent
      (treePkt 0x10 g (s.group p g).job (s.group p g).seq 0 (s.group p g).combined) := by
  unfold State.groupReady
  simp only [hc, hs, hr]
  rfl

/-! ### An outcome at its member dies (R49 to R51) -/

/-- One die of a router keeps an outcome where it is a member of the group. -/
def State.keepAt (x : Group) (p g : Nat) (out : BitVec 32 × BitVec 2 × Word) (s : State) (d : Nat) : State :=
  if x.member d then s.modDie (4 * p + d) fun y => { y with ctOut := y.ctOut.set g out } else s

section

variable (x : Group) (p g : Nat) (out : BitVec 32 × BitVec 2 × Word)

@[simp] theorem State.keepAt_net (s : State) (d : Nat) : (s.keepAt x p g out d).net = s.net := by unfold State.keepAt; split <;> rfl
@[simp] theorem State.keepAt_slots (s : State) (d : Nat) : (s.keepAt x p g out d).slots = s.slots := by unfold State.keepAt; split <;> rfl
@[simp] theorem State.keepAt_cores (s : State) (d : Nat) : (s.keepAt x p g out d).cores = s.cores := by unfold State.keepAt; split <;> rfl

theorem State.ctOut_keepAt (s : State) (d e : Nat) :
    ((s.keepAt x p g out d).die (4 * p + e)).ctOut.find g = if e = d ∧ x.member d = true then some out else (s.die (4 * p + e)).ctOut.find g := by
  unfold State.keepAt
  by_cases hm : x.member d = true
  · by_cases he : e = d
    · subst he
      rw [if_pos hm, if_pos ⟨rfl, hm⟩, State.die_modDie_self]
      exact NMap.find_set_self _ _ _
    · rw [if_pos hm, if_neg fun h => he h.1, State.die_modDie_ne _ _ (by omega)]
  · rw [if_neg hm, if_neg fun h => hm h.2]

theorem State.ctOut_foldl_keepAt (ds : List Nat) (s : State) (e : Nat) :
    ((ds.foldl (State.keepAt x p g out) s).die (4 * p + e)).ctOut.find g = if e ∈ ds ∧ x.member e = true then some out else (s.die (4 * p + e)).ctOut.find g := by
  induction ds generalizing s with
  | nil => simp
  | cons d ds ih =>
    rw [List.foldl_cons, ih, State.ctOut_keepAt]
    by_cases he : e = d
    · subst he
      by_cases hm : x.member e = true <;> simp [hm]
    · simp [he]

end

/-- What each step of a fold keeps lets one function stand for another in it. -/
theorem foldl_congr_of_keeps {α β : Type} {P : α → Prop} {f f' : α → β → α} (h : ∀ a x, P a → f a x = f' a x) (hk : ∀ a x, P a → P (f' a x)) (l : List β) (a : α)
    (ha : P a) : l.foldl f a = l.foldl f' a := by
  induction l generalizing a with
  | nil => rfl
  | cons x l ih => rw [List.foldl_cons, List.foldl_cons, h a x ha, ih _ (hk a x ha)]

/-- A router without children takes an outcome for which no thread waits: its member dies keep it and the next sequence opens. -/
theorem State.downAt_leaf {g : Nat} (seq : BitVec 32) (oc : BitVec 2) (v : Word) (hw : ∀ d, s.ctWaiters (4 * p + d) g seq = [])
    (hc : ∀ j, j < 35 → (s.group p g).child j = false) :
    s.downAt p g seq oc v = ((List.range 4).foldl (State.keepAt (s.group p g) p g (seq, oc, v)) s).setGroup p g { entry := putBits (s.group p g).entry 64 (seq + 1) } := by
  have hchildren : ∀ t : State, (List.range 35).foldl (fun t i => if (s.group p g).child i then
      t.treeSend p i (treePkt 0x11 g (s.group p g).job seq (oc.setWidth 4) v) else t) t = t := fun t =>
    (List.foldl_ext _ (fun t _ => t) t fun t i hi => by rw [hc i (List.mem_range.mp hi)]; rfl).trans (List.foldl_fixed _)
  unfold State.downAt
  dsimp only
  rw [hchildren]
  refine congrArg (fun t : State => t.setGroup p g _) (foldl_congr_of_keeps (P := fun t : State => t.slots = s.slots ∧ t.cores = s.cores) ?_ ?_ _ _ ⟨rfl, rfl⟩)
  · intro t d ⟨hs, hco⟩
    have hwaits : ∀ f, (t.modDie (4 * p + d) f).ctWaiters (4 * p + d) g seq = [] := fun f => by
      rw [← hw d]
      unfold State.ctWaiters
      rw [State.modDie_slots, State.modDie_cores, hs, hco]
    rw [hwaits]
    rfl
  · exact fun t d ht => ⟨(State.keepAt_slots _ _ _ _ _ _).trans ht.1, (State.keepAt_cores _ _ _ _ _ _).trans ht.2⟩

/-- A collective settles at a router without children and without waiting threads. -/
def State.settledBy (s t : State) (p g : Nat) (seq : BitVec 32) (oc : BitVec 2) (v : Word) : Prop :=
  t.net = s.net ∧ t.slots = s.slots ∧ t.group p g = { entry := putBits (s.group p g).entry 64 (seq + 1) } ∧
    ∀ d, d < 4 → (t.die (4 * p + d)).ctOut.find g = if (s.group p g).member d then some (seq, oc, v) else (s.die (4 * p + d)).ctOut.find g

theorem State.downAt_settles {g : Nat} (seq : BitVec 32) (oc : BitVec 2) (v : Word) (hw : ∀ d, s.ctWaiters (4 * p + d) g seq = [])
    (hc : ∀ j, j < 35 → (s.group p g).child j = false) : s.settledBy (s.downAt p g seq oc v) p g seq oc v := by
  rw [State.downAt_leaf seq oc v hw hc]
  refine ⟨?_, ?_, State.group_setGroup _ _ _ _, fun d hd => ?_⟩
  · exact foldl_keeps (P := fun t : State => t.net = s.net) (fun t d h => (State.keepAt_net _ _ _ _ t d).trans h) _ s rfl
  · exact foldl_keeps (P := fun t : State => t.slots = s.slots) (fun t d h => (State.keepAt_slots _ _ _ _ t d).trans h) _ s rfl
  · refine (State.ctOut_foldl_keepAt (s.group p g) p g (seq, oc, v) (List.range 4) s d).trans ?_
    simp only [List.mem_range, hd, true_and]

/-! ### Barriers (R317) -/

theorem Barrier.arrive_counts {b : Barrier} {q target : BitVec 32} (ht : target = if b.count = 0 then (if q = 0 then 1 else q) else b.target)
    (h : b.count + 1 ≠ target) : b.arrive q none = ({ b with count := b.count + 1, target := target }, []) := by
  subst ht
  unfold Barrier.arrive
  simp only [h, if_false, Option.toList_none, List.append_nil]

theorem Barrier.arrive_completes {b : Barrier} {q target : BitVec 32} (ht : target = if b.count = 0 then (if q = 0 then 1 else q) else b.target)
    (h : b.count + 1 = target) : b.arrive q none = ({ phase := b.phase + 1, count := 0, target := target, waiters := [] }, b.waiters) := by
  subst ht
  unfold Barrier.arrive
  simp only [h, if_true, Option.toList_none, List.append_nil]

/-- A waiting thread that its barrier operation holds goes on. -/
theorem State.releaseWaiter_held {w : Nat × Nat} (hh : (s.slot w.1).hold = .localOp w.2) (hl : (s.core (coreOf w.1)).crew.bind.lockstep = false) :
    s.releaseWaiter w = s.modSlot w.1 fun t => t.release := by
  unfold State.releaseWaiter
  rw [State.onOwner_self _ (by rw [hh]; exact beq_self_eq_true _), State.twins_alone hl]
  exact State.modSlot_congr (if_pos (.inl hh))

/-- The arrival of a thread that runs on is counted: its operation has performed. -/
theorem State.counted_running {j id : Nat} (hl : (s.core (coreOf j)).crew.bind.lockstep = false) (ho : (s.slot j).ops.any (·.id == id) = true)
    (hr : (s.slot j).st = .run) (hh : (s.slot j).hold = .none) :
    s.counted j id false = s.modSlot j fun t => { t with ops := t.ops.filter (·.id != id) } := by
  have hop : ((s.slot j).op id).isSome = true := by
    unfold Slot.op
    rw [List.find?_isSome]
    exact List.any_eq_true.mp ho
  unfold State.counted
  rw [State.onOwner_self _ hop, State.twins_alone hl, List.foldl_cons, List.foldl_nil, Option.getD_some]
  refine State.modSlot_congr ?_
  rw [if_neg (by decide), Slot.intoFrame_free _ _ (Slot.framed_eq_false (by rw [hr]; nofun) (by rw [hr]; nofun))]
  exact if_neg fun h => by rcases h with h | h <;> exact nomatch hh.symm.trans h

theorem State.modSlot_slots_congr {s t : State} (h : t.slots = s.slots) (j : Nat) (f : Slot → Slot) : (t.modSlot j f).slots = (s.modSlot j f).slots := by
  unfold State.modSlot State.slot
  rw [h]

/-- The logic that an arrival at die or package scope is for, and that logic changed. -/
def State.barrierOf (s : State) (i : Nat) (v : Arrival) : Barrier := if v.scope = 2 then (s.die i).barriers.get {} v.num else (s.pkg (i / 4)).barriers.get {} v.num
def State.setBarrier (s : State) (i : Nat) (v : Arrival) (b : Barrier) : State :=
  if v.scope = 2 then s.modDie i fun d => { d with barriers := d.barriers.set v.num b } else s.modPkg (i / 4) fun x => { x with barriers := x.barriers.set v.num b }

@[simp] theorem State.barrierOf_setBarrier (s : State) (i : Nat) (v : Arrival) (b : Barrier) : (s.setBarrier i v b).barrierOf i v = b := by
  unfold State.setBarrier State.barrierOf
  by_cases h : v.scope = 2
  · simp only [h, if_true, State.die_modDie_self, NMap.get_set_self]
  · simp only [h, if_false, State.pkg_modPkg_self, NMap.get_set_self]

@[simp] theorem State.slots_setBarrier (s : State) (i : Nat) (v : Arrival) (b : Barrier) : (s.setBarrier i v b).slots = s.slots := by
  unfold State.setBarrier; split <;> rfl

@[simp] theorem State.cores_setBarrier (s : State) (i : Nat) (v : Arrival) (b : Barrier) : (s.setBarrier i v b).cores = s.cores := by
  unfold State.setBarrier; split <;> rfl

@[simp] theorem State.arrivals_setBarrier (s : State) (i : Nat) (v : Arrival) (b : Barrier) : ((s.setBarrier i v b).die i).arrivals = (s.die i).arrivals := by
  unfold State.setBarrier
  split
  · rw [State.die_modDie_self]
  · rfl

/-- An arrival is taken from its die's list and counted in its logic, and the waiters of a phase that it completes go on. -/
theorem execBarrierArrive_counts {i : Nat} {v : Arrival} (hi : s.arg.a = i) (hv : (s.die i).arrivals[s.arg.b]? = some v) (hw : v.waits = false)
    (hs : v.scope = 2 ∨ v.scope = 3) :
    let r := (s.barrierOf i v).arrive v.p none
    execBarrierArrive s = .next (r.2.foldl (fun s w => s.releaseWaiter w)
      (((s.modDie i fun d => { d with arrivals := d.arrivals.eraseIdx s.arg.b }).setBarrier i v r.1).counted v.slot v.opId false)) := by
  subst hi
  unfold execBarrierArrive State.setBarrier State.barrierOf
  rcases hs with hs | hs
  · simp only [hv, hw, hs, if_true, Bool.false_eq_true, if_false, State.die_modDie_self]
    rfl
  · simp only [hv, hw, hs, if_true, Bool.false_eq_true, if_false, State.pkg_modDie, show ¬(3 : Nat) = 2 by decide]
    rfl

section

variable {i : Nat} {v : Arrival} (hi : s.arg.a = i) (hv : (s.die i).arrivals[s.arg.b]? = some v) (hw : v.waits = false) (hs : v.scope = 2 ∨ v.scope = 3)
  (hl : (s.core (coreOf v.slot)).crew.bind.lockstep = false) (ho : (s.slot v.slot).ops.any (·.id == v.opId) = true) (hr : (s.slot v.slot).st = .run)
  (hh : (s.slot v.slot).hold = .none)

include hi hv hw hs hl ho hr hh

/-- The same where the arriving thread runs on: its operation has performed. -/
theorem execBarrierArrive_running :
    let r := (s.barrierOf i v).arrive v.p none
    execBarrierArrive s = .next (r.2.foldl (fun s w => s.releaseWaiter w)
      (((s.modDie i fun d => { d with arrivals := d.arrivals.eraseIdx s.arg.b }).setBarrier i v r.1).modSlot v.slot fun t =>
        { t with ops := t.ops.filter (·.id != v.opId) })) := by
  intro r
  rw [execBarrierArrive_counts hi hv hw hs]
  generalize hu : (s.modDie i fun d => { d with arrivals := d.arrivals.eraseIdx s.arg.b }).setBarrier i v r.1 = u
  have hslot : u.slot v.slot = s.slot v.slot := by unfold State.slot; rw [← hu, State.slots_setBarrier]; rfl
  have hcore : u.core (coreOf v.slot) = s.core (coreOf v.slot) := by unfold State.core; rw [← hu, State.cores_setBarrier]; rfl
  rw [State.counted_running (hcore ▸ hl) (hslot ▸ ho) (hslot ▸ hr) (hslot ▸ hh)]

/-- One before the last of its phase. -/
theorem execBarrierArrive_before {target : BitVec 32}
    (ht : target = if (s.barrierOf i v).count = 0 then (if v.p = 0 then 1 else v.p) else (s.barrierOf i v).target) (hc : (s.barrierOf i v).count + 1 ≠ target) :
    let done := (s.modDie i fun d => { d with arrivals := d.arrivals.eraseIdx s.arg.b }).modSlot v.slot fun t => { t with ops := t.ops.filter (·.id != v.opId) }
    ∃ t, execBarrierArrive s = .next t ∧ t.barrierOf i v = { s.barrierOf i v with count := (s.barrierOf i v).count + 1, target := target } ∧ t.slots = done.slots ∧
      (t.die i).arrivals = (done.die i).arrivals := by
  intro done
  refine ⟨_, execBarrierArrive_running hi hv hw hs hl ho hr hh, ?_⟩
  rw [Barrier.arrive_counts ht hc]
  exact ⟨State.barrierOf_setBarrier _ _ _ _, State.modSlot_slots_congr (State.slots_setBarrier _ _ _ _) _ _, State.arrivals_setBarrier _ _ _ _⟩

/-- The last of its phase, for which one other thread waits. -/
theorem execBarrierArrive_last {target : BitVec 32} {w : Nat × Nat}
    (ht : target = if (s.barrierOf i v).count = 0 then (if v.p = 0 then 1 else v.p) else (s.barrierOf i v).target) (hc : (s.barrierOf i v).count + 1 = target)
    (hb : (s.barrierOf i v).waiters = [w]) (hne : w.1 ≠ v.slot) (hwh : (s.slot w.1).hold = .localOp w.2) (hwl : (s.core (coreOf w.1)).crew.bind.lockstep = false) :
    let done := (s.modDie i fun d => { d with arrivals := d.arrivals.eraseIdx s.arg.b }).modSlot v.slot fun t => { t with ops := t.ops.filter (·.id != v.opId) }
    ∃ t, execBarrierArrive s = .next t ∧ t.barrierOf i v = { phase := (s.barrierOf i v).phase + 1, count := 0, target := target, waiters := [] } ∧
      t.slots = (done.modSlot w.1 fun t => t.release).slots := by
  intro done
  refine ⟨_, execBarrierArrive_running hi hv hw hs hl ho hr hh, ?_⟩
  rw [Barrier.arrive_completes ht hc, hb, List.foldl_cons, List.foldl_nil]
  generalize hu : (s.modDie i fun d => { d with arrivals := d.arrivals.eraseIdx s.arg.b }).setBarrier i v
    { phase := (s.barrierOf i v).phase + 1, count := 0, target := target, waiters := [] } = u
  have hslots : u.slots = s.slots := by rw [← hu, State.slots_setBarrier]; rfl
  have hslot : (u.modSlot v.slot fun t => { t with ops := t.ops.filter (·.id != v.opId) }).slot w.1 = s.slot w.1 := by
    rw [State.slot_modSlot_ne _ _ hne, State.slot, hslots]
    rfl
  have hcore : u.core (coreOf w.1) = s.core (coreOf w.1) := by unfold State.core; rw [← hu, State.cores_setBarrier]; rfl
  rw [State.releaseWaiter_held (hslot ▸ hwh) (hcore ▸ hwl)]
  exact ⟨(congrArg (State.barrierOf · i v) hu.symm).trans (State.barrierOf_setBarrier _ _ _ _),
    State.modSlot_slots_congr (State.modSlot_slots_congr (t := u) (s := s.modDie i _) hslots _ _) _ _⟩

end

end

section

variable {s : State} {k : Pkt} {p input : Nat}

/-! ### The events of the collective tree (R49 to R51) -/

theorem execCtup_child (h : s.treeHere s.arg.a 0x10 k p input) (hv : (s.group p (k.off.toNat % 256)).valid = true)
    (hj : (s.group p (k.off.toNat % 256)).job = k.job) (hq : (s.group p (k.off.toNat % 256)).seq = k.payload.setWidth 32)
    (hc : (s.group p (k.off.toNat % 256)).child input = true) :
    execCtup s = .next (((s.dropFlight s.arg.a).setGroup p (k.off.toNat % 256)
      { s.group p (k.off.toNat % 256) with kids := (s.group p (k.off.toNat % 256)).kids.set input k.operand }).groupReady p (k.off.toNat % 256)) := by
  have hmine : ((s.group p (k.off.toNat % 256)).valid && (s.group p (k.off.toNat % 256)).job == k.job &&
      (s.group p (k.off.toNat % 256)).seq == k.payload.setWidth 32 && (s.group p (k.off.toNat % 256)).child input) = true := by
    rw [hv, hj, hq, hc, beq_self_eq_true, beq_self_eq_true]
    rfl
  exact (State.absorb_here _ h).trans (congrArg _ (if_pos hmine))

theorem execCtup_other (h : s.treeHere s.arg.a 0x10 k p input) (hq : (s.group p (k.off.toNat % 256)).seq ≠ k.payload.setWidth 32) :
    execCtup s = .next (s.dropFlight s.arg.a) := by
  refine (State.absorb_here _ h).trans (congrArg _ (if_neg fun hc => hq ?_))
  simp only [Bool.and_eq_true, beq_iff_eq] at hc
  exact hc.1.2

theorem execCtabt_at (h : s.treeHere s.arg.a 0x12 k p input) :
    execCtabt s = .next ((s.dropFlight s.arg.a).abortAt p (k.off.toNat % 256) (k.payload.setWidth 32)) := State.absorb_here _ h

theorem execCtdown_at (h : s.treeHere s.arg.a 0x11 k p input) :
    execCtdown s = .next ((s.dropFlight s.arg.a).downAt p (k.off.toNat % 256) (k.payload.setWidth 32) (k.fn.setWidth 2) k.operand) := State.absorb_here _ h

section

variable {g : Nat} {seq : BitVec 32}

theorem State.abortAt_other (h : (s.group p g).seq ≠ seq) : s.abortAt p g seq = s := by
  refine if_pos ?_
  rw [bne_iff_ne.mpr h]
  exact Bool.or_true _

variable (hv : (s.group p g).valid = true) (hq : (s.group p g).seq = seq)

include hv hq

theorem State.abortAt_open : s.abortAt p g seq = if (s.group p g).isRoot then s.downAt p g seq 1 0
    else s.treeSend p (s.group p g).parent (treePkt 0x12 g (s.group p g).job seq 1 0) := by
  unfold State.abortAt
  dsimp only
  rw [hv, hq, if_neg (by simp)]

end

/-- The entry that a firmware's write of a group leaves: the read-only sequence kept, the zero fields zero (R48). -/
def groupEntry (x : Group) (e : BitVec 128) : BitVec 128 :=
  (0 : BitVec 20) ++ (bits e 96 12 : BitVec 12) ++ x.seq ++ (0 : BitVec 15) ++ (bits e 0 49 : BitVec 49)

theorem execRouterGroupWrite_eq : execRouterGroupWrite s = if 6 ≤ (bits s.arg.value 45 3 : BitVec 3).toNat then .next s
    else .next (s.setGroup s.arg.a (s.arg.b % 256) { s.group s.arg.a (s.arg.b % 256) with
      entry := groupEntry (s.group s.arg.a (s.arg.b % 256)) s.arg.value }) := rfl

theorem groupEntry_fields (x : Group) (e : BitVec 128) :
    (bits (groupEntry x e) 0 49 : BitVec 49) = bits e 0 49 ∧ (bits (groupEntry x e) 96 12 : BitVec 12) = bits e 96 12 ∧
      (bits (groupEntry x e) 64 32 : BitVec 32) = bits x.entry 64 32 ∧ (bits (groupEntry x e) 108 20 : BitVec 20) = 0 := by
  unfold groupEntry bits Group.seq
  refine ⟨?_, ?_, ?_, ?_⟩
  · exact BitVec.extractLsb'_append_eq_right
  · rw [BitVec.extractLsb'_append_eq_of_le (by decide), BitVec.extractLsb'_append_eq_of_le (by decide), BitVec.extractLsb'_append_eq_of_le (by decide)]
    exact BitVec.extractLsb'_append_eq_right
  · rw [BitVec.extractLsb'_append_eq_of_le (by decide), BitVec.extractLsb'_append_eq_of_le (by decide)]
    exact BitVec.extractLsb'_append_eq_right
  · rw [BitVec.extractLsb'_append_eq_of_le (by decide), BitVec.extractLsb'_append_eq_of_le (by decide), BitVec.extractLsb'_append_eq_of_le (by decide)]
    exact BitVec.extractLsb'_append_eq_left

end

/-- Settles O44, from the lemmas for each event. -/
theorem treeEvents : Obligations.TreeEvents := by
  intro s k p input i left g x seq here onward settles
  have hsettles : ∀ {ev : Instr} {oc : BitVec 2} {v : Word}, exec ev s = .next (left.downAt p g seq oc v) → settles ev oc v :=
    fun he hw hc => ⟨_, he, State.downAt_settles (s := left) seq _ _ hw hc⟩
  refine ⟨fun h => ⟨fun hv hj hq hc => ⟨fun hcomp => ?_, fun hcomp hsent hroot => ?_⟩, fun hq => execCtup_other h hq⟩, fun h => hsettles (execCtdown_at h),
    fun h => ⟨fun hv hq => ⟨fun hroot => hsettles ?_, fun hroot => ?_⟩, fun hq => (execCtabt_at h).trans (congrArg _ (State.abortAt_other (s := left) hq))⟩,
    ⟨fun hop => execRouterGroupWrite_eq.trans (if_pos hop), fun hop => ⟨_, execRouterGroupWrite_eq.trans (if_neg (Nat.not_le.mpr hop)), groupEntry_fields _ _⟩⟩,
    fun h hd => (execPbar_here h).trans (if_neg hd), fun h hd hfn hh hl => ?_, fun v hv hw hl ho hr hh => ?_⟩
  · refine (execCtup_child h hv hj hq hc).trans (congrArg _ (State.groupReady_waits ?_))
    rw [State.group_setGroup]
    exact hcomp
  · refine (execCtup_child h hv hj hq hc).trans (congrArg _ ?_)
    rw [State.groupReady_up] <;> rw [State.group_setGroup]
    · rw [State.setGroup_setGroup]
      rfl
    · exact hcomp
    · exact hsent
    · exact hroot
  · exact (execCtabt_at h).trans (congrArg _ ((State.abortAt_open (s := left) hv hq).trans (if_pos hroot)))
  · exact (execCtabt_at h).trans (congrArg _ ((State.abortAt_open (s := left) hv hq).trans (if_neg fun hc => absurd (hroot.symm.trans hc) (by decide))))
  · exact (execPbar_here h).trans ((if_pos hd).trans ((if_neg (by rw [hfn]; decide)).trans (congrArg _ (State.releaseWaiter_held (s := left) hh hl))))
  · intro done b set target hs
    exact ⟨execBarrierArrive_before rfl hv hw hs hl ho hr hh rfl, fun _ => execBarrierArrive_last rfl hv hw hs hl ho hr hh rfl⟩

end Sys2Proof.Machine

end

section

/-! # Requests at their home: one lemma for each packet of O41 -/

namespace Sys2Proof.Machine

/-! ### A range within one line (R162, R163) -/

theorem linesOf_within {a n : Nat} (hn : 1 ≤ n) (h : a % 256 + n ≤ 256) : linesOf a n = [a / 256] := by
  have h1 : (a % 256 + n + 255) / 256 = 1 := by omega
  unfold linesOf
  rw [h1]
  rfl

/-- An aligned range of at most a line's bytes lies in one line. -/
theorem within_of_aligned {a k : Nat} (hk : k ≤ 8) (ha : a % 2 ^ k = 0) : a % 256 + 2 ^ k ≤ 256 := by
  have hd : 256 = 2 ^ k * 2 ^ (8 - k) := by rw [← Nat.pow_add, Nat.add_sub_of_le hk]
  obtain ⟨b, rfl⟩ := Nat.dvd_of_mod_eq_zero ha
  rw [hd, Nat.mul_mod_mul_left, ← Nat.mul_succ]
  exact Nat.mul_le_mul_left _ (Nat.mod_lt _ (Nat.two_pow_pos _))

section

variable {s : State} {a n : Nat}

theorem State.quietAt_of_quietLine (hn : 1 ≤ n) (hw : a % 256 + n ≤ 256) (h : s.quietLine (a / 256)) : s.quietAt a n := by
  unfold State.quietAt State.allFree
  rw [linesOf_within hn hw]
  simpa using ⟨h.2, h.1⟩

/-- A write by an agent at quiet lines changes memory, and else only directories and poison (R167, R446). -/
theorem State.agentWrite_of_quiet {w : Nat} (v : BitVec w) (h : s.quietAt a n) :
    ∃ ds ps, s.agentWrite a n v = { s with dies := ds, mem := s.mem.writeN a n v, poison := ps } := by
  obtain ⟨ds, hd⟩ := State.agentObtain_of_quiet h
  obtain ⟨ps, hp⟩ := State.unpoison_eq ((s.agentObtain a n).memWrite a n v) a n
  refine ⟨ds, ps, hp.trans ?_⟩
  rw [hd]
  rfl

@[simp] theorem State.lost_dropEntry (s : State) (l pa : Nat) : (s.dropEntry l).lost pa = s.lost pa := by
  unfold State.lost Die.quadValid Die.remapOf State.dropEntry
  rw [State.die_modDie]
  split
  · next h => rw [h]
  · rfl

end

section

variable {s : State} {k : Pkt} {peer : Nat}

/-! ### Which requests a home begins (R41, R167) -/

theorem State.atHome_refused (i : Nat) (f : State → Nat → State) (h : s.admitted peer k.job = false) : s.atHome i k peer f = (s.dropFlight i).send (k.nack 2) := by
  unfold State.atHome
  rw [h]
  rfl

theorem State.atHome_begins (i : Nat) (f : State → Nat → State) (ha : s.admitted peer k.job = true) (hl : s.lineFree (paOf peer k.off.toNat / 256) = true) :
    s.atHome i k peer f = f (s.dropFlight i) (paOf peer k.off.toNat) := by
  unfold State.atHome
  simp only [ha, hl]
  rfl

theorem execLoad_atHome (hk : s.arrived s.arg.a 0x01 = some (k, peer)) : execLoad s = .next (s.atHome s.arg.a k peer fun s a =>
    let n := 2 ^ k.size.toNat
    if s.lost a then s.send (k.resp n 0 true)
    else
      let s := s.agentClean a n
      if n = 256 then
        let (d, fe, po) := s.homeLine (a / 256)
        s.send { k.resp 256 d false with operand := po ++ fe }
      else s.send (k.resp n ((s.memRead a n).setWidth 2048) (s.poisonIn a n))) := by
  unfold execLoad
  simp only [hk]

theorem execStore_atHome (hk : s.arrived s.arg.a 0x02 = some (k, peer)) :
    execStore s = .next (s.atHome s.arg.a k peer fun s a => s.homeStore k a (2 ^ k.size.toNat)) := by
  unfold execStore
  simp only [hk]

theorem execCopyw_atHome (hk : s.arrived s.arg.a 0x05 = some (k, peer)) :
    execCopyw s = .next (s.atHome s.arg.a k peer fun s a => s.homeStore k a k.plen.toNat) := by
  unfold execCopyw
  simp only [hk]

theorem execAtomic_atHome (hk : s.arrived s.arg.a 0x03 = some (k, peer)) : execAtomic s = .next (s.atHome s.arg.a k peer fun s a => s.homeAtomic k a) := by
  unfold execAtomic
  simp only [hk]

theorem execFeop_refused (hk : s.arrived s.arg.a 0x04 = some (k, peer)) (ha : s.admitted peer k.job = false) :
    execFeop s = .next ((s.dropFlight s.arg.a).send (k.nack 2)) := by
  unfold execFeop
  simp only [hk]
  exact congrArg _ (State.atHome_refused _ _ ha)

/-! ### LOAD, STORE and COPYW at a quiet line (R42, R164) -/

section

variable (ha : s.admitted peer k.job = true) (hq : s.quietLine (paOf peer k.off.toNat / 256)) (hlost : s.lost (paOf peer k.off.toNat) = false)

include ha hq hlost

theorem execLoad_quiet (hk : s.arrived s.arg.a 0x01 = some (k, peer)) (hsz : k.size.toNat < 8) (hal : paOf peer k.off.toNat % 2 ^ k.size.toNat = 0)
    (hpo : s.poisonIn (paOf peer k.off.toNat) (2 ^ k.size.toNat) = false) :
    execLoad s = .next ((s.dropFlight s.arg.a).send
      (k.resp (2 ^ k.size.toNat) ((s.memRead (paOf peer k.off.toNat) (2 ^ k.size.toNat)).setWidth 2048) false)) := by
  have hn : 2 ^ k.size.toNat ≠ 256 := (Nat.pow_lt_pow_right (by decide) hsz).ne
  have hquiet : (s.dropFlight s.arg.a).quietAt (paOf peer k.off.toNat) (2 ^ k.size.toNat) :=
    State.quietAt_of_quietLine (s := s.dropFlight s.arg.a) Nat.one_le_two_pow (within_of_aligned hsz.le hal) hq
  have hlost' : (s.dropFlight s.arg.a).lost (paOf peer k.off.toNat) = false := hlost
  have hpo' : (s.dropFlight s.arg.a).poisonIn (paOf peer k.off.toNat) (2 ^ k.size.toNat) = false := hpo
  rw [execLoad_atHome hk, State.atHome_begins _ _ ha hq.1]
  simp only [hlost', hn, State.agentClean_of_quiet hquiet, hpo', Bool.false_eq_true, if_false]
  rfl

omit ha in
/-- A write to a quiet line that splits no poisoned word is performed and acknowledged. -/
theorem State.homeStore_quiet {n : Nat} (hn : 1 ≤ n) (hw : paOf peer k.off.toNat % 256 + n ≤ 256) (hpo : s.partialPoison (paOf peer k.off.toNat) n = false) :
    ∃ ds ps, (s.dropFlight s.arg.a).homeStore k (paOf peer k.off.toNat) n =
      ({ s.dropFlight s.arg.a with dies := ds, mem := s.mem.writeN (paOf peer k.off.toNat) n k.payload, poison := ps } : State).send (k.ack false) := by
  have hquiet : (s.dropFlight s.arg.a).quietAt (paOf peer k.off.toNat) n := State.quietAt_of_quietLine (s := s.dropFlight s.arg.a) hn hw hq
  have hlost' : (s.dropFlight s.arg.a).lost (paOf peer k.off.toNat) = false := hlost
  have hpo' : ((s.dropFlight s.arg.a).agentObtain (paOf peer k.off.toNat) n).partialPoison (paOf peer k.off.toNat) n = false := by
    obtain ⟨ds, hd⟩ := State.agentObtain_of_quiet hquiet
    rw [hd]
    exact hpo
  obtain ⟨ds, ps, hd⟩ := State.agentWrite_of_quiet k.payload hquiet
  refine ⟨ds, ps, ?_⟩
  unfold State.homeStore
  rw [hlost', hpo', hd]
  rfl

/-! ### ATOMIC at a quiet line (R165, R297) -/

theorem execAtomic_quiet (hk : s.arrived s.arg.a 0x03 = some (k, peer)) (hfn : k.fn ≠ 9) (htag : k.tag ≠ 0xFFFF)
    (hpo : s.poisonAt (paOf peer k.off.toNat) = false) :
    let a := paOf peer k.off.toNat
    let r := atomFn k.fn.toNat (s.word a) k.operand 0
    execAtomic s = .next ((((s.dropFlight s.arg.a).dropEntry (a / 256)).memWrite a 8 r.1).send { k.resp 8 (r.2.setWidth 2048) false with operand := s.word a }) := by
  intro a r
  have hfn' : k.fn.toNat ≠ 9 := fun h => hfn (BitVec.eq_of_toNat_eq h)
  have hbad : (((s.dropFlight s.arg.a).dropEntry (a / 256)).lost a || ((s.dropFlight s.arg.a).dropEntry (a / 256)).poisonAt a) = false := by
    rw [State.lost_dropEntry]
    exact Bool.or_eq_false_iff.mpr ⟨hlost, hpo⟩
  rw [execAtomic_atHome hk, State.atHome_begins _ _ ha hq.1]
  unfold State.homeAtomic
  dsimp only
  rw [State.homeObtain_of_quietLine (s := s.dropFlight s.arg.a) hq, hbad, if_neg (by decide), if_neg hfn']
  have ht : ¬k.tag = aorTag := htag
  rw [if_neg ht]
  rfl

end

/-! ### FEOP (R43, R44, R294) -/

/-- A full/empty operation waits exactly where its condition fails. -/
theorem State.homeFe_eq_none {a : Nat} : s.homeFe k a = none ↔ feFn k.fn.toNat (s.word a) (s.fullAt a) k.operand = none := by
  unfold State.homeFe
  dsimp only
  cases feFn k.fn.toNat (s.word a) (s.fullAt a) k.operand with
  | none => exact iff_of_true rfl rfl
  | some r => exact iff_of_false nofun nofun

theorem State.homeFe_performs {a : Nat} {w : Word} {full : Bool} (h : feFn k.fn.toNat (s.word a) (s.fullAt a) k.operand = some (w, full)) :
    ∃ ps, s.homeFe k a = some (({ (s.memWrite a 8 w).setFull a full with poison := ps } : State).send
      (if feReads k.fn.toNat then { k.resp 8 0 (s.poisonAt a) with operand := s.word a, fn := (b1 (s.fullAt a)).setWidth 4 } else k.ack false)) := by
  unfold State.homeFe
  simp only [h]
  split
  · exact ⟨_, rfl⟩
  · exact ⟨s.poison, rfl⟩

/-- A fold whose every step leaves the state as it is. -/
theorem foldl_stays {α β : Type} {f : α → β → α} {l : List β} {a : α} (h : ∀ x ∈ l, f a x = a) : l.foldl f a = a := by
  induction l with
  | nil => rfl
  | cons x l ih => rw [List.foldl_cons, h x List.mem_cons_self, ih fun y hy => h y (List.mem_cons_of_mem _ hy)]

theorem feReads_toNat (fn : BitVec 4) : feReads fn.toNat = true ↔ fn = 0 ∨ fn = 1 ∨ fn = 4 := by
  simp [feReads, ← BitVec.toNat_inj, or_assoc]

/-- A waiting entry whose condition fails stays. -/
theorem State.tryEntry_waits {q a : Nat} {f : Flight} (hf : f ∈ s.waitersAt q a) (hr : s.entryReady q f = false) : s.tryEntry q a f = s := by
  have hplace : paOf q f.pkt.off.toNat / 8 = a / 8 := by
    unfold State.waitersAt at hf
    exact of_decide_eq_true (List.mem_filter.mp hf).2
  have hfull : s.fullAt (paOf q f.pkt.off.toNat) = s.fullAt (a / 8 * 8) := by
    unfold State.fullAt
    rw [hplace, Nat.mul_div_cancel _ (by decide)]
  have hnone : s.homeFe f.pkt (a / 8 * 8) = none := by
    unfold State.entryReady at hr
    rw [hplace, hfull, Option.isSome_eq_false_iff, Option.isNone_iff_eq_none] at hr
    exact State.homeFe_eq_none.mpr hr
  unfold State.tryEntry
  rw [hnone]

/-- Where no waiting entry's condition holds, trying them changes nothing (R43). -/
theorem State.retryEntries_wait {q a : Nat} (h : ∀ f ∈ s.waitersAt q a, s.entryReady q f = false) (n : Nat) : State.retryEntries q a n s = s := by
  cases n with
  | zero => rfl
  | succ n =>
    have hfold : (s.waitersAt q a).foldl (fun s f => s.tryEntry q a f) s = s := foldl_stays fun f hf => State.tryEntry_waits hf (h f hf)
    unfold State.retryEntries
    dsimp only
    rw [hfold, if_neg (Nat.lt_irrefl _)]

@[simp] theorem State.retryList_dropEntry (s : State) (l q : Nat) : ((s.dropEntry l).die q).retryList = (s.die q).retryList := by
  unfold State.dropEntry
  rw [State.die_modDie]
  split
  · next h => rw [h]
  · rfl

theorem State.waitersAt_dropEntry (s : State) (l q a : Nat) : (s.dropEntry l).waitersAt q a = s.waitersAt q a := by
  unfold State.waitersAt
  rw [State.retryList_dropEntry]

section

variable (hk : s.arrived s.arg.a 0x04 = some (k, peer)) (ha : s.admitted peer k.job = true) (hq : s.quietLine (paOf peer k.off.toNat / 256))
  (hlost : s.lost (paOf peer k.off.toNat) = false)

include hk ha hq hlost

/-- One whose condition holds performs where no entry waits for the word. -/
theorem execFeop_performs (hw : s.waitersAt peer (paOf peer k.off.toNat) = []) {w : Word} {full : Bool}
    (h : feFn k.fn.toNat (s.word (paOf peer k.off.toNat)) (s.fullAt (paOf peer k.off.toNat)) k.operand = some (w, full)) :
    let a := paOf peer k.off.toNat
    ∃ ps, execFeop s = .next (({ (((s.dropFlight s.arg.a).dropEntry (a / 256)).memWrite a 8 w).setFull a full with poison := ps } : State).send
      (if feReads k.fn.toNat then { k.resp 8 0 (s.poisonAt a) with operand := s.word a, fn := (b1 (s.fullAt a)).setWidth 4 } else k.ack false)) := by
  intro a
  have hlost' : (s.dropFlight s.arg.a).lost a = false := hlost
  have hwait : ∀ t : State, t.dies = ((s.dropFlight s.arg.a).dropEntry (a / 256)).dies → ∀ f ∈ t.waitersAt peer a, t.entryReady peer f = false := fun t ht f hf => by
    have hsame : t.waitersAt peer a = ((s.dropFlight s.arg.a).dropEntry (a / 256)).waitersAt peer a := by unfold State.waitersAt State.die; rw [ht]
    rw [hsame, State.waitersAt_dropEntry] at hf
    exact absurd (hw ▸ hf) List.not_mem_nil
  obtain ⟨ps, hps⟩ := State.homeFe_performs (s := (s.dropFlight s.arg.a).dropEntry (a / 256)) h
  refine ⟨ps, ?_⟩
  unfold execFeop
  simp only [hk]
  rw [State.atHome_begins _ _ ha hq.1, hlost', if_neg (by decide), State.homeObtain_of_quietLine (s := s.dropFlight s.arg.a) hq,
    State.retryEntries_wait (hwait _ rfl), hps]
  refine congrArg _ (State.retryEntries_wait (hwait _ ?_) _)
  rfl

/-- One whose condition fails, as no waiting entry's holds, waits with them, or is turned away where its slice has no entry left. -/
theorem execFeop_waits (hw : ∀ f ∈ s.waitersAt peer (paOf peer k.off.toNat), s.entryReady peer f = false)
    (h : feFn k.fn.toNat (s.word (paOf peer k.off.toNat)) (s.fullAt (paOf peer k.off.toNat)) k.operand = none) :
    let left := (s.dropFlight s.arg.a).dropEntry (paOf peer k.off.toNat / 256)
    execFeop s = .next (if ((s.die peer).retryList.filter fun f => sliceOf f.pkt.off.toNat == sliceOf k.off.toNat).length < 64 then
        left.modDie peer fun d => { d with retryList := d.retryList ++ [{ pkt := k, loc := .arrived peer }] }
      else left.send (k.nack 1)) := by
  intro left
  have hlost' : (s.dropFlight s.arg.a).lost (paOf peer k.off.toNat) = false := hlost
  have hwait : ∀ f ∈ left.waitersAt peer (paOf peer k.off.toNat), left.entryReady peer f = false := fun f hf =>
    hw f ((State.waitersAt_dropEntry (s.dropFlight s.arg.a) _ _ _) ▸ hf)
  have hnone : left.homeFe k (paOf peer k.off.toNat) = none := State.homeFe_eq_none.mpr h
  have hlist : (left.die peer).retryList = (s.die peer).retryList := State.retryList_dropEntry (s.dropFlight s.arg.a) _ _
  unfold execFeop
  simp only [hk]
  rw [State.atHome_begins _ _ ha hq.1, hlost', if_neg (by decide), State.homeObtain_of_quietLine (s := s.dropFlight s.arg.a) hq,
    State.retryEntries_wait hwait]
  rw [hnone, hlist]
  rfl

end

/-! ### Host memory at die 0's port (R55, R56) -/

/-- A packet at a host port has not arrived at a die. -/
theorem State.arrived_of_atHostPort {i p : Nat} {ty ty' : BitVec 8} (h : s.atHostPort i ty = some (k, p)) : s.arrived i ty' = none := by
  unfold State.atHostPort at h
  unfold State.arrived
  cases hf : s.net[i]? with
  | none => rfl
  | some f =>
    obtain ⟨pkt, loc, came, held, stamp⟩ := f
    simp only [hf] at h
    cases loc with
    | hostPort p => rfl
    | _ => cases h

section

variable {p : Nat} (hl : (s.pkg p).pcieLanes ≠ 0)

include hl

theorem execStore_host (hk : s.atHostPort s.arg.a 0x02 = some (k, p)) :
    execStore s = .next (((s.dropFlight s.arg.a).memWrite (paOf hostPeer k.off.toNat) (2 ^ k.size.toNat) k.payload).send
      { k.ack false with src := BitVec.ofNat 13 (4 * p) }) := by
  unfold execStore
  simp only [State.arrived_of_atHostPort hk, hk]
  exact if_neg hl

theorem execCopyw_host (hk : s.atHostPort s.arg.a 0x05 = some (k, p)) :
    execCopyw s = .next (((s.dropFlight s.arg.a).memWrite (paOf hostPeer k.off.toNat) k.plen.toNat k.payload).send
      { k.ack false with src := BitVec.ofNat 13 (4 * p) }) := by
  unfold execCopyw
  simp only [State.arrived_of_atHostPort hk, hk]
  exact if_neg hl

variable (hr : (s.pkg p).hostReqs.length < 768)

include hr

theorem State.toHost_leaves (i : Nat) : s.toHost i p k = (s.dropFlight i).modPkg p fun x => { x with hostReqs := x.hostReqs ++ [{ pkt := some k }] } :=
  if_neg (not_or.mpr ⟨hl, Nat.not_le.mpr hr⟩)

theorem execLoad_host (hk : s.atHostPort s.arg.a 0x01 = some (k, p)) :
    execLoad s = .next ((s.dropFlight s.arg.a).modPkg p fun x => { x with hostReqs := x.hostReqs ++ [{ pkt := some k }] }) := by
  unfold execLoad
  simp only [State.arrived_of_atHostPort hk, hk]
  exact congrArg _ (State.toHost_leaves hl hr _)

theorem execAtomic_host (hk : s.atHostPort s.arg.a 0x03 = some (k, p)) :
    execAtomic s = .next ((s.dropFlight s.arg.a).modPkg p fun x => { x with hostReqs := x.hostReqs ++ [{ pkt := some k }] }) := by
  unfold execAtomic
  simp only [State.arrived_of_atHostPort hk, hk]
  exact congrArg _ (State.toHost_leaves hl hr _)

end

end

/-- Settles O41, from the lemmas for each packet at a home and at the host's port. -/
theorem homeRequests : Obligations.HomeRequests := by
  intro s k peer a n left here same
  refine ⟨fun ha ty i hi hk => ?_, fun ha hfree hlost hheld => ?_, fun p hl => ⟨execStore_host hl, execCopyw_host hl, fun hr ty i hi hk => ?_⟩⟩
  · simp only [List.mem_cons, Prod.mk.injEq, List.not_mem_nil, or_false] at hi
    rcases hi with ⟨rfl, rfl⟩ | ⟨rfl, rfl⟩ | ⟨rfl, rfl⟩ | ⟨rfl, rfl⟩ | ⟨rfl, rfl⟩
    · exact (execLoad_atHome hk).trans (congrArg _ (State.atHome_refused _ _ ha))
    · exact (execStore_atHome hk).trans (congrArg _ (State.atHome_refused _ _ ha))
    · exact (execAtomic_atHome hk).trans (congrArg _ (State.atHome_refused _ _ ha))
    · exact execFeop_refused hk ha
    · exact (execCopyw_atHome hk).trans (congrArg _ (State.atHome_refused _ _ ha))
  · have hq : s.quietLine (a / 256) := ⟨hfree, hheld⟩
    refine ⟨fun hk hsz hal hpo => execLoad_quiet ha hq hlost hk hsz hal hpo, fun hk hsz hal hpo => ?_, fun hk hn hw hpo => ?_,
      fun hk hfn htag hpo => ⟨_, execAtomic_quiet ha hq hlost hk hfn htag hpo, rfl, rfl, rfl, rfl, rfl, rfl, rfl, rfl⟩,
      fun hk hal => ⟨fun w full hfe hw hpo => ?_, fun hfe hw => ⟨fun hroom => ?_, fun hfull => ?_⟩⟩⟩
    · obtain ⟨ds, ps, hds⟩ := State.homeStore_quiet (k := k) hq hlost Nat.one_le_two_pow (within_of_aligned hsz hal) hpo
      exact ⟨_, (execStore_atHome hk).trans (congrArg _ ((State.atHome_begins _ _ ha hfree).trans hds)), rfl, rfl, rfl, rfl, rfl, rfl, rfl, rfl⟩
    · obtain ⟨ds, ps, hds⟩ := State.homeStore_quiet (k := k) hq hlost hn hw hpo
      exact ⟨_, (execCopyw_atHome hk).trans (congrArg _ ((State.atHome_begins _ _ ha hfree).trans hds)), rfl, rfl, rfl, rfl, rfl, rfl, rfl, rfl⟩
    · obtain ⟨ps, hps⟩ := execFeop_performs hk ha hq hlost hw hfe
      have ha8 : a / 8 * 8 = a := Nat.div_mul_cancel (Nat.dvd_of_mod_eq_zero hal)
      refine ⟨_, hps, rfl, ?_, fun b hb => ?_, ⟨rfl, rfl, rfl, rfl, rfl⟩, ?_⟩
      · show (!((s.empty.put (a / 8 * 8) (!full)).mem (a / 8 * 8))) = full
        rw [NSet.mem_put, if_pos rfl, Bool.not_not]
      · show (s.empty.put (a / 8 * 8) (!full)).mem b = s.empty.mem b
        rw [NSet.mem_put, if_neg (by rw [ha8]; exact hb)]
      · rw [hpo]
        simp only [feReads_toNat]
        rfl
    · refine ⟨_, (execFeop_waits hk ha hq hlost hw hfe).trans (congrArg _ (if_pos hroom)), rfl, rfl, rfl, ⟨rfl, rfl, rfl, rfl, rfl⟩, ?_⟩
      rw [State.die_modDie_self]
      exact congrArg (· ++ _) (State.retryList_dropEntry (s.dropFlight s.arg.a) _ _)
    · exact ⟨_, (execFeop_waits hk ha hq hlost hw hfe).trans (congrArg _ (if_neg (Nat.not_lt.mpr hfull))), rfl, rfl, ⟨rfl, rfl, rfl, rfl, rfl⟩⟩
  · simp only [List.mem_cons, Prod.mk.injEq, List.not_mem_nil, or_false] at hi
    rcases hi with ⟨rfl, rfl⟩ | ⟨rfl, rfl⟩
    · exact execLoad_host hl hr hk
    · exact execAtomic_host hl hr hk

end Sys2Proof.Machine

end

section

/-! # A stream operation of a thread with nothing outstanding: how it stands once it has begun or performed -/

namespace Sys2Proof.Machine

/-! ### Issue (R115, R182) -/

/-- With fewer registers named no more is pending. -/
theorem Slot.busy_of_subset {t : Slot} {u w : Uses} (h : t.busy u = false) (hr : w.regs ⊆ u.regs) (hv : w.vecs ⊆ u.vecs) (hf : w.flags ⊆ u.flags) : t.busy w = false := by
  unfold Slot.busy at h ⊢
  simp only [Bool.or_eq_false_iff, List.any_eq_false] at h ⊢
  obtain ⟨⟨⟨h1, h2⟩, h3⟩, h4⟩ := h
  exact ⟨⟨⟨fun x hx => h1 x (hr hx), fun x hx => h2 x (hv hx)⟩, fun x hx => h3 x (hf hx)⟩, h4⟩

/-- How an instruction holds its thread (R114). -/
def Issue.holds (x : Issue) (t : Slot) : Hold := if x.held then (if x.byReply then .reply t.opId else .localOp t.opId) else .none

theorem Slot.issueOp_eq_began {t : Slot} {i : Instr} {x : Issue} {d : BitVec 5} (ho : t.ops = []) (hl : ilen i = 4) (hd : x.dest = t.destOf d) :
    t.issueOp i x = t.began x.st d x.flag (x.holds t) (t.newOp i x) := by
  unfold Slot.began Issue.holds
  cases hh : x.held with
  | false =>
    rw [Slot.issueOp_free t i x hl hh, ho, hd]
    cases t.destOf d <;> cases x.flag <;> rfl
  | true =>
    rw [Slot.issueOp_held t i x hh, ho, hd]
    cases x.byReply <;> cases t.destOf d <;> cases x.flag <;> rfl

/-- A stream operation with nothing outstanding before it issues and does at once what its kind does. -/
theorem State.streamOp_begins {s : State} {i : Instr} {u : Uses} {x : State → Issue} {d : BitVec 5} (hw : wellFormed i = true) (hb : s.me.busy u = false) (hf : s.fresh)
    (hl : ilen i = 4) (hd : (x s).dest = s.me.destOf d) (hk : ∀ fn, (x s).kind ≠ .fe fn) :
    s.streamOp i u noTrap x = .next (((s.withMe (s.me.began (x s).st d (x s).flag ((x s).holds s.me) (s.me.newOp i (x s)))).beginKind s.cur (s.me.newOp i (x s))).syncPair
      (coreOf s.cur)) := by
  unfold State.streamOp
  rw [issue_ok hw hb]
  unfold noTrap
  dsimp only
  rw [State.issueOp_fresh _ _ _ hf.1, State.inOrder_of_not_fe _ _ _ _ hk, Slot.issueOp_eq_began hf.1 hl hd]

/-! ### A thread whose one operation is outstanding -/

section

variable (t : Slot) (st : BitVec 2) (d : BitVec 5) (flag : Option (BitVec 3)) (h : Hold) (o : Op)

theorem Slot.began_framed : (t.began st d flag h o).framed = false := by
  unfold Slot.began Slot.framed
  dsimp only
  split <;> rfl

@[simp] theorem Slot.began_job : (t.began st d flag h o).job = t.job := by
  unfold Slot.began Slot.took
  dsimp only
  split <;> cases t.destOf d <;> cases flag <;> rfl

theorem Slot.modOp_began (g : Op → Op) : (t.began st d flag h o).modOp o.id g = t.began st d flag h (g o) := Slot.modOp_one rfl g

theorem State.setPhase_began (s : State) (ph : Phase) :
    (s.withMe (t.began st d flag h o)).setPhase s.cur o.id ph = s.withMe (t.began st d flag h { o with phase := ph }) := by
  unfold State.setPhase
  rw [State.withMe_modSlot, Slot.modOp_began]

end

/-! ### A thread whose one operation has performed -/

/-- A thread that has taken its operation's number, its destination pending, and gone on. -/
def Slot.passed (t : Slot) (st : BitVec 2) (d : BitVec 5) (flag : Option (BitVec 3)) : Slot := (((t.took st).mark (t.destOf d) true).markF flag true).advance 4

@[simp] theorem Slot.passed_replies (t : Slot) (st : BitVec 2) (d : BitVec 5) (flag : Option (BitVec 3)) : (t.passed st d flag).replies = t.replies := by
  unfold Slot.passed
  cases t.destOf d <;> cases flag <;> rfl

theorem Slot.ended_free (t : Slot) (st : BitVec 2) (d : BitVec 5) (v : Word) (flag : Option (BitVec 3 × Bool)) (fsf : BitVec 6) :
    t.ended st d v flag fsf false = { t.passed st d (flag.map (·.1)) with replies := t.replies ++ replyFor t d v flag fsf } := by
  unfold Slot.ended
  simp only [Bool.false_eq_true, false_and, if_false]
  rfl

section

variable {t : Slot} {st : BitVec 2} {d : BitVec 5} {o : Op} (ho : t.ops = [])

include ho

/-- What a thread is without the operation that it began. -/
theorem Slot.began_dropped (flag : Option (BitVec 3)) : ({ t.began st d flag .none o with ops := [] } : Slot) = t.passed st d flag := by
  unfold Slot.began Slot.passed
  generalize t.destOf d = dest
  cases t
  subst ho
  cases dest <;> cases flag <;> rfl

variable (hid : o.id = t.opId) (hd : o.dest = t.destOf d)

include hid hd

/-- An operation that does not hold its thread performs: its result, where it has one, is on its way by a reply. -/
theorem Slot.performed_began {flag : Option (BitVec 3 × Bool)} {v : Word} {fsf : BitVec 6} (hfl : o.flag = flag.map (·.1)) (ha : o.kind.atReply = false) :
    (t.began st d (flag.map (·.1)) .none o).performed o { value := v.setWidth 512, flag := flag.map fun f => (f.1, some f.2), fsf := fsf } =
      t.ended st d v flag fsf false := by
  have hop : (t.began st d (flag.map (·.1)) .none o).op o.id = some o := Slot.op_one _ o rfl
  have hdrop : (t.began st d (flag.map (·.1)) .none o).dropOp o.id = t.passed st d (flag.map (·.1)) := (Slot.dropOp_one rfl).trans (Slot.began_dropped ho _)
  have hnone : (o.dest = .none ∧ o.flag = none ∧ fsf = 0) ↔ d.toNat < 8 ∧ flag = none ∧ fsf = 0 := by rw [hd, hfl, destOf_none, Option.map_eq_none_iff]
  have hreplies : (t.began st d (flag.map (·.1)) .none o).replies = t.replies :=
    (congrArg Slot.replies (Slot.began_dropped (o := o) ho (flag.map (·.1)))).trans (Slot.passed_replies _ _ _ _)
  rw [Slot.ended_free]
  unfold replyFor
  by_cases hn : d.toNat < 8 ∧ flag = none ∧ fsf = 0
  · rw [if_pos hn, List.append_nil, Slot.performed_none _ _ _ (Slot.began_framed _ _ _ _ _ _) hop (hnone.mpr hn), hdrop, ← Slot.passed_replies t st d]
    exact if_neg fun h => by rcases h with h | h <;> exact nomatch h
  · rw [if_neg hn, Slot.performed_reply _ _ _ (Slot.began_framed _ _ _ _ _ _) hop ha (fun h => hn (hnone.mp h)), hdrop, hreplies, hd, hid]

end

/-- An operation without a result that holds its thread performs at once: the thread goes on. -/
theorem Slot.performed_began_held {t : Slot} {st : BitVec 2} {h : Hold} {o : Op} (ho : t.ops = []) (hid : o.id = t.opId) (hd : o.dest = .none) (hfl : o.flag = none)
    (hh : h = .localOp t.opId ∨ h = .reply t.opId) : (t.began st 0 none h o).performed o {} = t.ended st 0 0 none 0 true := by
  have hop : (t.began st 0 none h o).op o.id = some o := Slot.op_one _ o rfl
  have hne : h ≠ .none := by rcases hh with rfl | rfl <;> nofun
  have hreply : replyFor t 0 0 none 0 = [] := if_pos ⟨by decide, rfl, rfl⟩
  rw [Slot.performed_none _ _ _ (Slot.began_framed _ _ _ _ _ _) hop ⟨hd, hfl, rfl⟩, Slot.dropOp_one rfl, hid]
  unfold Slot.began Slot.ended
  simp only [hreply, hne, ne_eq, not_true_eq_false, and_false, if_false, List.append_nil]
  cases t
  subst ho
  exact if_pos hh

/-! ### The pod with such a thread -/

section

variable {s : State} {st : BitVec 2} {d : BitVec 5} {o : Op} (hf : s.fresh) (hid : o.id = s.me.opId) (hd : o.dest = s.me.destOf d)

include hf hid hd

theorem State.performed_began {flag : Option (BitVec 3 × Bool)} {v : Word} {fsf : BitVec 6} (hfl : o.flag = flag.map (·.1)) (ha : o.kind.atReply = false) :
    (s.withMe (s.me.began st d (flag.map (·.1)) .none o)).performed s.cur o { value := v.setWidth 512, flag := flag.map fun f => (f.1, some f.2), fsf := fsf } =
      s.withMe (s.me.ended st d v flag fsf false) := by
  rw [State.performed_alone (s := s.withMe _) hf.2, State.withMe_modSlot, Slot.performed_began hf.1 hid hd hfl ha]

omit hd in
theorem State.performedNone_began (hd : o.dest = .none) (hfl : o.flag = none) (ha : o.kind.atReply = false) :
    (s.withMe (s.me.began st 0 none .none o)).performedNone s.cur o = s.withMe (s.me.ended st 0 0 none 0 false) := by
  have h := State.performed_began (st := st) (d := 0) (flag := none) (v := 0) (fsf := 0) hf hid hd hfl ha
  simp only [BitVec.ofNat_eq_ofNat, BitVec.setWidth_zero] at h
  exact h

omit hd in
theorem State.performedNone_began_held {h : Hold} (hd : o.dest = .none) (hfl : o.flag = none) (hh : h = .localOp s.me.opId ∨ h = .reply s.me.opId) :
    (s.withMe (s.me.began st 0 none h o)).performedNone s.cur o = s.withMe (s.me.ended st 0 0 none 0 true) := by
  unfold State.performedNone
  rw [State.performed_alone (s := s.withMe _) hf.2, State.withMe_modSlot, Slot.performed_began_held hf.1 hid hd hfl hh]

end

end Sys2Proof.Machine

end

section

/-! # Tickets and collectives at their thread: one lemma for each instruction of O28 and O29 -/

namespace Sys2Proof

/-- A field of a value is the value shifted down and truncated. -/
theorem bits_eq_shift {n : Nat} (x : BitVec n) (lo w : Nat) : bits x lo w = (x >>> lo).setWidth w := by
  apply BitVec.eq_of_toNat_eq
  simp [bits]

end Sys2Proof

namespace Sys2Proof.Machine

section

variable {s : State} {st : BitVec 2} {p : BitVec 4}

/-- The peer that a thread names is its own or not refused to its job (R40). -/
theorem State.peerRefused_began {d : BitVec 5} {flag : Option (BitVec 3)} {h : Hold} {o : Op} {peer : Nat}
    (hr : peer = s.myPeer ∨ s.peerRefuses s.myPeer s.me.job peer = none) : (s.withMe (s.me.began st d flag h o)).peerRefused s.cur peer = none := by
  unfold State.peerRefused
  rw [State.slot_withMe_cur, Slot.began_job]
  by_cases hp : peer = s.myPeer
  · exact if_pos hp
  · exact (if_neg hp).trans (hr.resolve_left hp)

/-- Where a packet goes that a thread's die sends to a peer. -/
theorem State.send_to {k : Pkt} {peer : Nat} (hs : k.src = BitVec.ofNat 13 s.myPeer) (hd : k.dst = BitVec.ofNat 13 peer) (h : s.myPeer < 2 ^ 13) (hp : peer < 2 ^ 13) :
    s.send k = { s with net := s.net ++ [{ pkt := k, loc := if s.myPeer = peer then .arrived peer else .source s.myPeer }] } := by
  have hsn : k.src.toNat = s.myPeer := by rw [hs, BitVec.toNat_ofNat, Nat.mod_eq_of_lt h]
  have hdn : k.dst.toNat = peer := by rw [hd, BitVec.toNat_ofNat, Nat.mod_eq_of_lt hp]
  have heq : k.src = k.dst ↔ s.myPeer = peer := by rw [← BitVec.toNat_inj, hsn, hdn]
  unfold State.send
  simp only [heq, hsn, hdn]

/-- A packet of a die to itself has arrived. -/
theorem State.send_self {k : Pkt} {peer : Nat} (hs : k.src = BitVec.ofNat 13 peer) (hd : k.dst = BitVec.ofNat 13 peer) (h : peer < 2 ^ 13) :
    s.send k = { s with net := s.net ++ [{ pkt := k, loc := .arrived peer }] } := by
  unfold State.send
  rw [if_pos (hs.trans hd.symm), hd, BitVec.toNat_ofNat, Nat.mod_eq_of_lt h]

/-- A stream operation with nothing outstanding issues and does what its kind does, which leaves the pod as `t`. -/
theorem State.streamOp_gives {i : Instr} {u : Uses} {x : State → Issue} {d : BitVec 5} {t : State} (hw : wellFormed i = true) (hb : s.me.busy u = false) (hf : s.fresh)
    (hl : ilen i = 4) (hd : (x s).dest = s.me.destOf d) (hk : ∀ fn, (x s).kind ≠ .fe fn)
    (ht : (s.withMe (s.me.began (x s).st d (x s).flag ((x s).holds s.me) (s.me.newOp i (x s)))).beginKind s.cur (s.me.newOp i (x s)) = t)
    (hs : (t.core s.myCore).crew.bind.lockstep = false) : s.streamOp i u noTrap x = .next t := by
  rw [State.streamOp_begins hw hb hf hl hd hk, ht]
  exact congrArg _ (State.syncPair_of_alone hs)

/-! ### TKGET and TKDONE (R323, R325) -/

section

variable {d : BitVec 5} {o : Op} {c peer : Nat} (hpeer : ((o.a).setWidth 13).toNat = peer) (h : s.myPeer < 2 ^ 13)
  (hr : peer = s.myPeer ∨ s.peerRefuses s.myPeer s.me.job peer = none)

/-- The current die sends a ticket packet of an operation to a peer. -/
def State.sendsTicket (s : State) (o : Op) (type : BitVec 8) (peer c : Nat) : State :=
  { s with net := s.net ++ [{ pkt := { s.packetOf o 0 type peer c 0 with operand := 0 }, loc := if s.myPeer = peer then .arrived peer else .source s.myPeer }] }

include hpeer h in
theorem State.send_ticketPacket (ty : BitVec 8) :
    (s.withMe (s.me.began st d none .none o)).send ((s.withMe (s.me.began st d none .none o)).ticketPacket s.cur o ty peer c 0) =
      (s.sendsTicket o ty peer c).withMe (s.me.began st d none .none o) := by
  unfold State.ticketPacket
  rw [State.slot_withMe_cur, Slot.began_job]
  exact State.send_to (s := s.withMe _) rfl rfl h (hpeer ▸ BitVec.isLt _)

include hpeer h hr

/-- TKGET's packet goes to its class and the operation is outstanding. -/
theorem State.beginTkget_began : (s.withMe (s.me.began st d none .none o)).beginTkget s.cur o c =
    (s.sendsTicket o 0x08 peer c).withMe (s.me.began st d none .none { o with phase := .sent }) := by
  unfold State.beginTkget
  rw [bits_zero, hpeer]
  dsimp only
  rw [State.peerRefused_began hr]
  dsimp only
  rw [State.send_ticketPacket hpeer h]
  exact State.setPhase_began s.me st d none .none o (s.sendsTicket o 0x08 peer c) .sent

theorem State.beginTkdone_began : (s.withMe (s.me.began st d none .none o)).beginTkdone s.cur o c =
    (s.sendsTicket o 0x0A peer c).withMe (s.me.began st d none .none { o with phase := .sent }) := by
  unfold State.beginTkdone
  rw [bits_zero, hpeer]
  dsimp only
  rw [State.peerRefused_began hr]
  dsimp only
  rw [State.send_ticketPacket hpeer h]
  exact State.setPhase_began s.me st d none .none o (s.sendsTicket o 0x0A peer c) .sent

end

/-! ### TKWAIT (R324) -/

section

variable {o : Op} (hf : s.fresh) (hid : o.id = s.me.opId)

include hf hid in
/-- A ticket word whose bit 63 is set is called already. -/
theorem State.beginTkwait_called (hd : o.dest = .none) (hfl : o.flag = none) (hc : o.a.getLsbD 63 = true) :
    (s.withMe (s.me.began st 0 none (.reply s.me.opId) o)).beginTkwait s.cur o = s.withMe (s.me.ended st 0 0 none 0 true) :=
  (if_pos hc).trans (State.performedNone_began_held hf hid hd hfl (.inr rfl))

/-- The class that a ticket word names. -/
def wordKey (w : Word) : Nat := classKey (wordPeer w) (wordClass w)

theorem wordKey_eq (w : Word) : wordKey w = ((w >>> 32).setWidth 13).toNat * 16 + ((w >>> 45).setWidth 4).toNat := by
  unfold wordKey classKey wordPeer wordClass
  rw [bits_eq_shift, bits_eq_shift]

theorem wordKey_peer (w : Word) : wordKey w / 16 = wordPeer w := by
  have hc : wordClass w < 16 := BitVec.isLt _
  unfold wordKey classKey
  omega

/-- The lowest ticket of one waiter where the class has called none. -/
theorem lowestTicket_one (k id : Nat) (w : Word) : lowestTicket 0 [(k, id, w)] = w.setWidth 32 := by
  unfold lowestTicket wordTicket
  rw [List.foldl_cons, List.foldl_nil, bits_zero]
  have hw : (w.setWidth 32).toNat < 2 ^ 32 := BitVec.isLt _
  have hm : ((0 : BitVec 32) - 1).toNat = 2 ^ 32 - 1 := rfl
  by_cases hlt : (w.setWidth 32 - 0).toNat < ((0 : BitVec 32) - 1 - 0).toNat
  · exact if_pos hlt
  · refine (if_neg hlt).trans (BitVec.eq_of_toNat_eq ?_)
    rw [show ∀ x : BitVec 32, x - 0 = x from BitVec.sub_zero, show ∀ x : BitVec 32, x - 0 = x from BitVec.sub_zero] at hlt
    omega

/-- The TKREG of a die for a waiter of its own class (R46). -/
def registration (peer : Nat) (job : BitVec 12) (w : Word) : Pkt :=
  { type := 0x09, job := job, src := BitVec.ofNat 13 peer, dst := BitVec.ofNat 13 peer, off := BitVec.ofNat 44 (wordKey w % 16), operand := (w.setWidth 32).setWidth 64 }

/-- A waiter of its own die's class, the die's first, registers there with its ticket. -/
theorem State.register_own {t : State} {k id : Nat} {w : Word} {job : BitVec 12} {peer : Nat} (hp : wordPeer w = peer) (hc : (t.die peer).called.find (wordKey w) = none)
    (hw : (t.die peer).tkWaiters = [(k, id, w)]) :
    t.register peer job (wordKey w) = t.send (registration peer job w) := by
  have hkey : (wordKey w / 16 = peer) := (wordKey_peer w).trans hp
  have hmine : (t.die peer).waitersOf (wordKey w) = [(k, id, w)] := by
    unfold Die.waitersOf
    rw [hw]
    exact List.filter_cons_of_pos (p := fun e : Nat × Nat × Word => wordKey e.2.2 == wordKey w) (beq_self_eq_true (wordKey w))
  have hget : (t.die peer).called.get 0 (wordKey w) = 0 := by
    unfold NMap.get
    rw [hc]
    rfl
  unfold State.register
  dsimp only
  rw [if_pos hkey, hmine, hget, lowestTicket_one, hkey]
  rfl

/-- A waiter of the die's own class, the first there, is recorded and registers, and its operation is outstanding. -/
theorem State.beginTkwait_waits {o : Op} (h : s.myPeer < 2 ^ 13) (hid : o.id = s.me.opId) (hc : o.a.getLsbD 63 = false) (hp : wordPeer o.a = s.myPeer)
    (hn : (s.die s.myPeer).called.find (wordKey o.a) = none) (hw : (s.die s.myPeer).tkWaiters = []) :
    (s.withMe (s.me.began st 0 none (.reply s.me.opId) o)).beginTkwait s.cur o =
      ({ s.modDie s.myPeer (fun x => { x with tkWaiters := [(s.cur, (s.me.opId, o.a))] }) with
        net := s.net ++ [{ pkt := registration s.myPeer s.me.job o.a, loc := .arrived s.myPeer }] } : State).withMe
          (s.me.began st 0 none (.reply s.me.opId) { o with phase := .sent }) := by
  generalize ht : s.withMe (s.me.began st 0 none (.reply s.me.opId) { o with phase := .sent }) = t
  have hphase : (s.withMe (s.me.began st 0 none (.reply s.me.opId) o)).setPhase s.cur o.id .sent = t := ht ▸ State.setPhase_began ..
  have hset : (s.die s.myPeer).tkWaiters.set s.cur (o.id, o.a) = [(s.cur, (s.me.opId, o.a))] := by rw [hw, hid]; rfl
  generalize hu : t.modDie s.myPeer (fun x => { x with tkWaiters := [(s.cur, (s.me.opId, o.a))] }) = u
  have hmod : t.modDie s.myPeer (fun x => { x with tkWaiters := x.tkWaiters.set s.cur (o.id, o.a) }) = u := by
    rw [← hu, ← hset, ← ht]
    rfl
  have hreg : u.register s.myPeer s.me.job (wordKey o.a) = u.send (registration s.myPeer s.me.job o.a) :=
    State.register_own (k := s.cur) (id := s.me.opId) hp (by rw [← hu, State.die_modDie_self, ← ht]; exact hn) (by rw [← hu, State.die_modDie_self])
  have hsend : u.send (registration s.myPeer s.me.job o.a) = { u with net := s.net ++ [{ pkt := registration s.myPeer s.me.job o.a, loc := .arrived s.myPeer }] } := by
    rw [State.send_self rfl rfl h, ← hu, ← ht]
    rfl
  unfold State.beginTkwait
  dsimp only
  rw [hc, if_neg Bool.false_ne_true, if_neg (by rw [State.die_withMe, show (s.die (peerOfSlot s.cur)).called.find (classKey _ _) = none from hn]; nofun),
    State.peerRefused_began (.inl hp)]
  dsimp only
  rw [if_neg (by rw [State.die_withMe, show (s.die (peerOfSlot s.cur)).tkWaiters = [] from hw]; nofun), hphase, State.slot_withMe_cur, Slot.began_job]
  refine (congrArg (State.register · s.myPeer s.me.job (wordKey o.a)) hmod).trans (hreg.trans (hsend.trans ?_))
  rw [← hu, ← ht]
  rfl

end

end

/-- Settles O28: each ticket instruction begins as its one operation and does at once what its kind does. -/
theorem tickets : Obligations.Tickets := by
  intro s d a c p st hd hb hf peer hop word from' key n h
  have hba : s.me.busy { regs := [a] } = false := Slot.busy_of_subset hb (by simp) (by simp) (by simp)
  refine ⟨fun hr => ⟨⟨{ s.me.newOp (.tkgetInsn d a c p st) { kind := .tkget c.toNat, st := st, pm := p, a := s.rd a, dest := s.me.destOf d } with phase := .sent }, ?_, ?_⟩,
    ⟨{ s.me.newOp (.tkdoneInsn a c p st) { kind := .tkdone c.toNat, st := st, pm := p, a := s.rd a } with phase := .sent }, ?_, ?_⟩⟩, fun hc => ?_, fun hc hn hp hw =>
    ⟨{ s.me.newOp (.tkwait a p st) { kind := .tkwait, st := st, pm := p, a := s.rd a, held := true, byReply := true } with phase := .sent }, ?_, ?_⟩⟩
  · change execTkgetInsn d a c p st s = _
    apply State.streamOp_gives (d := d)
    exacts [hd, hb, hf, rfl, rfl, fun _ => nofun, State.beginTkget_began rfl h hr, hf.2]
  · exact ⟨rfl, rfl, rfl, rfl, rfl, rfl⟩
  · change execTkdoneInsn a c p st s = _
    apply State.streamOp_gives (d := 0)
    exacts [rfl, hba, hf, rfl, rfl, fun _ => nofun, State.beginTkdone_began rfl h hr, hf.2]
  · exact ⟨rfl, rfl, rfl, rfl, rfl, rfl⟩
  · change execTkwait a p st s = _
    apply State.streamOp_gives (d := 0)
    exacts [rfl, hba, hf, rfl, rfl, fun _ => nofun, State.beginTkwait_called hf rfl rfl rfl hc, hf.2]
  · have hkey : wordKey (s.rd a) = key := wordKey_eq _
    have hpeer : wordPeer (s.rd a) = s.myPeer := (congrArg BitVec.toNat (bits_eq_shift _ _ _)).trans hp
    rw [← hkey]
    change execTkwait a p st s = _
    apply State.streamOp_gives (d := 0)
    exacts [rfl, hba, hf, rfl, rfl, fun _ => nofun, State.beginTkwait_waits h rfl hc hpeer (hkey ▸ hn) hw, hf.2]
  · exact ⟨rfl, rfl, rfl, rfl, rfl, rfl⟩

end Sys2Proof.Machine

end

section

/-! # Collectives at their thread: CTRB, CTRES and CTABT (R327 to R329) -/

namespace Sys2Proof.Machine

section

variable {s : State} {st : BitVec 2} {o : Op} (hf : s.fresh) (hid : o.id = s.me.opId)

include hf in
/-- The refused instances of a thread that runs alone (R49). -/
theorem State.modRefused_began (f : NSet → NSet) (t : Slot) : (s.withMe t).modRefused s.cur f = s.withMe { t with ctRefused := f t.ctRefused } := by
  unfold State.modRefused
  rw [State.twins_alone (s := s.withMe _) hf.2, List.foldl_cons, List.foldl_nil, State.withMe_modSlot]

include hf hid

/-- A CTRB performs after its thread's refused instances have changed. -/
theorem State.performedNone_refused (r : NSet) (hd : o.dest = .none) (hfl : o.flag = none) (ha : o.kind.atReply = false) :
    (s.withMe { s.me.began st 0 none .none o with ctRefused := r }).performedNone s.cur o = s.withMe { s.me.ended st 0 0 none 0 false with ctRefused := r } := by
  have h := State.performedNone_began (s := s.withMe { s.me with ctRefused := r }) (st := st) (o := o) ⟨by rw [State.me_withMe]; exact hf.1, hf.2⟩
    (by rw [State.me_withMe]; exact hid) hd hfl ha
  rw [State.me_withMe, State.withMe_withMe, State.withMe_withMe] at h
  exact h

/-- An operation without a result is refused: it counts as performed and its thread traps at its next boundary (R40, R327). -/
theorem State.refuseOp_began (cause : BitVec 8) (peer : Nat) (hd : o.dest = .none) (hfl : o.flag = none) (ha : o.kind.atReply = false) :
    (s.withMe (s.me.began st 0 none .none o)).refuseOp s.cur o cause peer {} = s.withMe { s.me.ended st 0 0 none 0 false with
      trapNext := s.me.trapNext ++ [{ cause := cause, addr := o.a, detail := BitVec.ofNat 64 peer, stream := o.stream, mask := o.mask, seq := o.seq }] } := by
  unfold State.refuseOp
  rw [show State.performed _ _ _ _ = _ from State.performedNone_began hf hid hd hfl ha, 
    State.trapLater_run (s := s.withMe (s.me.ended st 0 0 none 0 false)) (k := s.cur) hf.2 _ (by rw [State.slot_withMe_cur]; rfl), State.withMe_modSlot]
  rfl

end

/-! ### CTRB and CTABT (R327, R329) -/

section

variable {s : State} {st : BitVec 2} {o : Op} {g : Nat} {seq : BitVec 32} (hg : (bits o.a 0 8 : BitVec 8).toNat = g) (hq : (bits o.a 32 32 : BitVec 32) = seq)
  (hf : s.fresh) (hid : o.id = s.me.opId) (hd : o.dest = .none) (hfl : o.flag = none) (ha : o.kind.atReply = false)

/-- The group entry that the current thread names is valid and its job's (R48). -/
def State.ownsGroup (s : State) (g : Nat) : Prop := (s.group (s.myPeer / 4) g).valid = true ∧ (s.group (s.myPeer / 4) g).job = s.me.job

theorem State.ownsGroup_iff : (!(s.group (s.myPeer / 4) g).valid || (s.group (s.myPeer / 4) g).job != s.me.job) = false ↔ s.ownsGroup g := by
  unfold State.ownsGroup
  simp

include hg hf hid hd hfl ha

theorem State.beginCtrb_foreign (hm : ¬s.ownsGroup g) : (s.withMe (s.me.began st 0 none .none o)).beginCtrb s.cur o =
    s.withMe { s.me.ended st 0 0 none 0 false with
      trapNext := s.me.trapNext ++ [{ cause := 0x0B, addr := o.a, detail := BitVec.ofNat 64 s.myPeer, stream := o.stream, mask := o.mask, seq := o.seq }] } := by
  unfold State.beginCtrb
  dsimp only
  rw [hg, State.slot_withMe_cur, Slot.began_job]
  exact (if_pos (Bool.of_not_eq_false fun h => hm (State.ownsGroup_iff.mp h))).trans (State.refuseOp_began hf hid _ _ hd hfl ha)

include hq

/-- A contribution to another sequence, a second of the die or one of a die that is no member is refused. -/
theorem State.beginCtrb_refused (hm : s.ownsGroup g) (hr : seq ≠ (s.group (s.myPeer / 4) g).seq ∨ (s.group (s.myPeer / 4) g).dies.has (s.myPeer % 4) ∨
      ¬(s.group (s.myPeer / 4) g).member (s.myPeer % 4)) : (s.withMe (s.me.began st 0 none .none o)).beginCtrb s.cur o =
    s.withMe { s.me.ended st 0 0 none 0 false with ctRefused := s.me.ctRefused.insert (refusedKey g seq) } := by
  unfold State.beginCtrb
  dsimp only
  rw [hg, hq, State.slot_withMe_cur, Slot.began_job]
  refine (if_neg (Bool.eq_false_iff.mp (State.ownsGroup_iff.mpr hm))).trans ((if_pos hr).trans ?_)
  rw [State.modRefused_began hf]
  exact State.performedNone_refused hf hid _ hd hfl ha

/-- The router keeps a contribution to the open sequence. -/
theorem State.beginCtrb_kept (hm : s.ownsGroup g) (hs : seq = (s.group (s.myPeer / 4) g).seq) (hmem : (s.group (s.myPeer / 4) g).member (s.myPeer % 4) = true)
    (hn : (s.group (s.myPeer / 4) g).dies.has (s.myPeer % 4) = false) {y : Group}
    (hy : { s.group (s.myPeer / 4) g with dies := (s.group (s.myPeer / 4) g).dies.set (s.myPeer % 4) o.b } = y) (hc : y.complete = false) :
    (s.withMe (s.me.began st 0 none .none o)).beginCtrb s.cur o =
      (s.setGroup (s.myPeer / 4) g y).withMe { s.me.ended st 0 0 none 0 false with ctRefused := s.me.ctRefused.remove (refusedKey g seq) } := by
  unfold State.beginCtrb
  dsimp only
  rw [hg, hq, State.slot_withMe_cur, Slot.began_job]
  refine (if_neg (Bool.eq_false_iff.mp (State.ownsGroup_iff.mpr hm))).trans ((if_neg ?_).trans ?_)
  · rintro (h | h | h)
    exacts [h hs, Bool.false_ne_true (hn.symm.trans h), h hmem]
  rw [State.modRefused_began hf]
  subst hy
  refine (congrArg (State.groupReady · _ _) (State.performedNone_refused (s := s.setGroup (s.myPeer / 4) g _) hf hid _ hd hfl ha)).trans (State.groupReady_waits ?_)
  exact (congrArg Group.complete (State.group_setGroup ..)).trans hc

theorem State.beginCtabt_own (hm : s.ownsGroup g) : (s.withMe (s.me.began st 0 none .none o)).beginCtabt s.cur o =
    (s.withMe (s.me.ended st 0 0 none 0 false)).abortAt (s.myPeer / 4) g seq := by
  unfold State.beginCtabt
  dsimp only
  rw [hg, hq, State.slot_withMe_cur, Slot.began_job, State.performedNone_began hf hid hd hfl ha]
  have hown : ((s.group (s.myPeer / 4) g).valid && (s.group (s.myPeer / 4) g).job != s.me.job) = false := by rw [hm.2, bne_self_eq_false, Bool.and_false]
  exact if_neg (Bool.eq_false_iff.mp hown)

end

/-! ### CTRES (R328) -/

section

variable {s : State} {st : BitVec 2} {d : BitVec 5} {f : BitVec 3} {o : Op} {g : Nat} {seq : BitVec 32} (hg : (bits o.a 0 8 : BitVec 8).toNat = g)
  (hq : (bits o.a 32 32 : BitVec 32) = seq) (hf : s.fresh) (hid : o.id = s.me.opId) (hd : o.dest = s.me.destOf d) (hfl : o.flag = some f) (ha : o.kind.atReply = false)

theorem Slot.began_ctRefused (t : Slot) (st : BitVec 2) (d : BitVec 5) (flag : Option (BitVec 3)) (h : Hold) (o : Op) :
    (t.began st d flag h o).ctRefused = t.ctRefused := by
  unfold Slot.began Slot.took
  dsimp only
  split <;> cases t.destOf d <;> cases flag <;> rfl

include hf hid hd hfl ha in
/-- A CTRES is answered at once. -/
theorem State.answerCtres_began (oc : BitVec 2) (v : Word) : (s.withMe (s.me.began st d (some f) .none o)).answerCtres s.cur o oc v =
    s.withMe (s.me.ended st d (if oc = 0 then v else zx oc) (some (f, oc == 0)) 0 false) := by
  unfold State.answerCtres
  rw [hfl]
  exact State.performed_began (flag := some (f, oc == 0)) (fsf := 0) hf hid hd hfl ha

include hg hq

theorem State.beginCtres_waits (hm : s.me.ctRefused.mem (refusedKey g seq) = false) (hn : (s.die s.myPeer).ctOut.find g = none) :
    (s.withMe (s.me.began st d (some f) .none o)).beginCtres s.cur o = s.withMe (s.me.began st d (some f) .none { o with phase := .waiting }) := by
  unfold State.beginCtres
  dsimp only
  rw [hg, hq, State.slot_withMe_cur, Slot.began_ctRefused]
  refine (if_neg (Bool.eq_false_iff.mp hm)).trans ?_
  rw [State.die_withMe, show (s.die (peerOfSlot s.cur)).ctOut.find g = none from hn]
  exact State.setPhase_began ..

include hf hid hd hfl ha

theorem State.beginCtres_refused (hm : s.me.ctRefused.mem (refusedKey g seq) = true) :
    (s.withMe (s.me.began st d (some f) .none o)).beginCtres s.cur o = s.withMe (s.me.ended st d 2 (some (f, false)) 0 false) := by
  unfold State.beginCtres
  dsimp only
  rw [hg, hq, State.slot_withMe_cur, Slot.began_ctRefused]
  exact (if_pos hm).trans (State.answerCtres_began hf hid hd hfl ha 2 0)

/-- The die has kept the outcome. -/
theorem State.beginCtres_kept (hm : s.me.ctRefused.mem (refusedKey g seq) = false) {oc : BitVec 2} {v : Word} (hk : (s.die s.myPeer).ctOut.find g = some (seq, oc, v)) :
    (s.withMe (s.me.began st d (some f) .none o)).beginCtres s.cur o =
      s.withMe (s.me.ended st d (if oc = 0 then v else zx oc) (some (f, oc == 0)) 0 false) := by
  unfold State.beginCtres
  dsimp only
  rw [hg, hq, State.slot_withMe_cur, Slot.began_ctRefused]
  refine (if_neg (Bool.eq_false_iff.mp hm)).trans ?_
  rw [State.die_withMe, show (s.die (peerOfSlot s.cur)).ctOut.find g = some (seq, oc, v) from hk]
  exact (if_pos rfl).trans (State.answerCtres_began hf hid hd hfl ha oc v)

end

/-! ### The three instructions -/

section

variable {s t : State} {d a b : BitVec 5} {f : BitVec 3} {p : BitVec 4} {st : BitVec 2}

/-- The operations that CTRB, CTRES and CTABT issue. -/
def State.ctrbOp (s : State) (a b : BitVec 5) (p : BitVec 4) (st : BitVec 2) : Op :=
  s.me.newOp (.ctrb a b p st) { kind := .ctrb, st := st, pm := p, a := s.rd a, b := s.rd b }
def State.ctresOp (s : State) (d a : BitVec 5) (f : BitVec 3) (p : BitVec 4) (st : BitVec 2) : Op :=
  s.me.newOp (.ctres d a f p st) { kind := .ctres, st := st, pm := p, a := s.rd a, dest := s.me.destOf d, flag := some f }
def State.ctabtOp (s : State) (a : BitVec 5) (p : BitVec 4) (st : BitVec 2) : Op :=
  s.me.newOp (.ctabtInsn a p st) { kind := .ctabt, st := st, pm := p, a := s.rd a }

variable (hf : s.fresh) (ht : (t.core s.myCore).crew.bind.lockstep = false)

include hf ht

theorem exec_ctrb (hb : s.me.busy { regs := [a, b] } = false)
    (h : (s.withMe (s.me.began st 0 none .none (s.ctrbOp a b p st))).beginCtrb s.cur (s.ctrbOp a b p st) = t) : exec (.ctrb a b p st) s = .next t := by
  change execCtrb a b p st s = _
  apply State.streamOp_gives (d := 0)
  exacts [rfl, hb, hf, rfl, rfl, fun _ => nofun, h, ht]

theorem exec_ctres (hd : okD d = true) (hb : s.me.busy { regs := [d, a], flags := [f] } = false)
    (h : (s.withMe (s.me.began st d (some f) .none (s.ctresOp d a f p st))).beginCtres s.cur (s.ctresOp d a f p st) = t) : exec (.ctres d a f p st) s = .next t := by
  change execCtres d a f p st s = _
  apply State.streamOp_gives (d := d)
  exacts [hd, hb, hf, rfl, rfl, fun _ => nofun, h, ht]

theorem exec_ctabt (hb : s.me.busy { regs := [a] } = false)
    (h : (s.withMe (s.me.began st 0 none .none (s.ctabtOp a p st))).beginCtabt s.cur (s.ctabtOp a p st) = t) : exec (.ctabtInsn a p st) s = .next t := by
  change execCtabtInsn a p st s = _
  apply State.streamOp_gives (d := 0)
  exacts [rfl, hb, hf, rfl, rfl, fun _ => nofun, h, ht]

end

/-- Settles O29: each collective instruction begins as its one operation and does at once what its kind does with the group's entry and the outcomes kept. -/
theorem collectives : Obligations.Collectives := by
  intro s d a b f p st hd hb hf k g seq x die mine notMine y key refuses
  have hbab : s.me.busy { regs := [a, b] } = false := Slot.busy_of_subset hb (by simp) (by simp) (by simp)
  have hba : s.me.busy { regs := [a] } = false := Slot.busy_of_subset hb (by simp) (by simp) (by simp)
  have hbda : s.me.busy { regs := [d, a], flags := [f] } = false := Slot.busy_of_subset hb (by simp) (by simp) (by simp)
  have hg : (bits (s.rd a) 0 8 : BitVec 8).toNat = g := congrArg BitVec.toNat (bits_zero _ _)
  have hq : (bits (s.rd a) 32 32 : BitVec 32) = seq := bits_eq_shift _ _ _
  have ctabt (hm : mine) := State.beginCtabt_own (s := s) (st := st) (o := s.ctabtOp a p st) hg hq hf rfl rfl rfl rfl hm
  refine ⟨fun hm hs hmem hn hc => ?_, fun hm hr => ?_, fun hm => ?_, fun hr => ?_, fun v hr hk => ?_, fun v hr hk => ?_, fun hr hn => ?_, fun hm hs => ?_, fun hm hs hroot => ?_⟩
  · exact exec_ctrb hf hf.2 hbab (State.beginCtrb_kept (o := s.ctrbOp a b p st) hg hq hf rfl rfl rfl rfl hm hs hmem hn rfl hc)
  · exact exec_ctrb hf hf.2 hbab (State.beginCtrb_refused (o := s.ctrbOp a b p st) hg hq hf rfl rfl rfl rfl hm (hr.imp_right .inl))
  · exact exec_ctrb hf hf.2 hbab (State.beginCtrb_foreign (o := s.ctrbOp a b p st) hg hf rfl rfl rfl rfl hm)
  · exact exec_ctres hf hf.2 hd hbda (State.beginCtres_refused (o := s.ctresOp d a f p st) hg hq hf rfl rfl rfl rfl hr)
  · exact exec_ctres hf hf.2 hd hbda (State.beginCtres_kept (o := s.ctresOp d a f p st) hg hq hf rfl rfl rfl rfl hr hk)
  · exact exec_ctres hf hf.2 hd hbda (State.beginCtres_kept (o := s.ctresOp d a f p st) hg hq hf rfl rfl rfl rfl hr hk)
  · exact ⟨_, exec_ctres hf hf.2 hd hbda (State.beginCtres_waits (o := s.ctresOp d a f p st) hg hq hr hn), rfl, rfl, rfl, rfl, rfl, rfl⟩
  · exact exec_ctabt hf hf.2 hba ((ctabt hm).trans (State.abortAt_other (Ne.symm hs)))
  · have hopen := State.abortAt_open (s := s.withMe (s.me.ended st 0 0 none 0 false)) (p := k) (g := g) hm.1 hs.symm
    have hup := hopen.trans (if_neg (Bool.eq_false_iff.mp hroot))
    exact exec_ctabt hf hf.2 hba ((ctabt hm).trans hup)

end Sys2Proof.Machine

end

section

/-! # O21 fails: an access to another die recalls the copies that the quad's bound regions hold (R160, R162, R172) -/

namespace Sys2Proof.Machine

/-- A running thread of core 5 whose TLB holds a writable page of die 1; core 4, of the same quad, has bound that page, and its lines are valid there. -/
def boundBeside : State where
  cur := 41
  dies := [(0, { peerState := [(1, 1)], partMap := [(0, 2)] })]
  cores := [(4, { crew := { regions := [(3, { bound := true, base := 0x1_0000, pa := 2 ^ 44 + 0x5_0000, valid := 0xFF })] } }),
    (5, { utlb := [{ job := 0, page := 1, shift := 16, frame := 2 ^ 44 + 0x5_0000, x := false, w := true, nc := false, geo := 0, fmt := 0 }] })]
  slots := [(41, { st := .run, phys := [(0, 0x1_0108)] })]

/-- The page's translation. -/
def boundBesideLeaf : Leaf := { frame := 2 ^ 44 + 0x5_0000, shift := 16, x := false, w := true, nc := false, geo := 0, fmt := 0 }

/-- The lines that core 4 keeps valid in its region 3 after an instruction. -/
def validAfter : Out → BitVec 128
  | .next t => (t.region 4 3).valid
  | _ => 0

/-- An AADD to the page's second line takes that line from the other core's region. -/
theorem validAfter_aadd : validAfter (exec (.aadd 9 8 0 0 9) boundBeside) = 0xFD := by decide +kernel

/-- Neither a packet sent nor the thread's own change touches a region. -/
theorem validAfter_sends (k : Pkt) (me : Slot) :
    validAfter (.next (((boundBeside.fillsPass boundBeside.myQuad (· == boundBesideLeaf.pa (boundBeside.rd 8) / 256)).sends k).withMe me)) = 0xFF := rfl

theorem boundBeside_known : boundBeside.known (boundBeside.rd 8) boundBesideLeaf := by unfold State.known; decide
theorem boundBeside_reaches : boundBeside.reaches (boundBesideLeaf.pa (boundBeside.rd 8)) := by unfold State.reaches; decide

/-- Refutes O21: at an AADD to a line homed on die 1 that core 4 holds in its bound region, core 5's quad recalls that copy before the packet leaves, so that the
line's valid bit in core 4's region is clear, where the statement changes nothing but the fills under way, the network and the thread. -/
theorem not_globalAccess : ¬Obligations.GlobalAccess := by
  intro h
  obtain ⟨-, hw, -⟩ := h boundBeside 9 8 9 0 0 0 boundBesideLeaf rfl (by decide) ⟨rfl, rfl⟩ boundBeside_known (by decide) boundBeside_reaches (by decide)
  obtain ⟨⟨o, hexec, -⟩, -⟩ := hw rfl
  have hcleared := (congrArg validAfter hexec).symm.trans validAfter_aadd
  exact absurd ((validAfter_sends _ _).symm.trans hcleared) (by decide)

end Sys2Proof.Machine

end

section

/-! # O40 fails: an MROT whose tile lies outside its quad is not answered at its acceptance (R369, R374) -/

namespace Sys2Proof.Machine

/-- MROT's parameters (R374): the handle of a tile of quad 1, columns 0 to 1, A and B at the start of the own stash, the receive words of the two neighbours at 0x100
and 0x200. -/
def strayLanes : Vec := 1 <<< 31 ||| 1 <<< (32 * 4) ||| 0x8000_0000 <<< (32 * 6) ||| 0x8000_0000 <<< (32 * 9) ||| 0x100 <<< (32 * 10) ||| 0x200 <<< (32 * 11)

/-- That MROT, released with the snapshots of two 16-bit operands. -/
def strayOp : Op := { id := 7, kind := .matrix 4, word := 0, stream := 0, seq := 0, scope := 0, mask := 0, need := 0, vec := strayLanes, dest := .reg 0, phase := .waiting }
def strayRot : EngCmd := { slot := 1, op := strayOp, snaps := [{ idx := 2 }, { idx := 2 }] }

/-- Its thread runs in slot 1 of core 0, and it heads the queue of that core. -/
def strayState : State where
  cores := [(0, { crew := { matrix := [strayRot] } })]
  slots := [(1, { st := .run, ops := [strayOp], opId := 8 })]

/-- How many operations of the thread are outstanding after an event. -/
def outstandingAfter : Out → Nat
  | .next t => (t.slot 1).ops.length
  | _ => 0

/-- The engine has accepted the MROT and sent its operands on, and the thread still waits for its status. -/
theorem outstandingAfter_engineAccept : outstandingAfter (exec .engineAccept strayState) = 1 := by decide +kernel

theorem strayState_nextHead : strayState.nextHead 0 = some strayRot := by decide +kernel
theorem strayState_finishedCmd : strayState.finishedCmd 0 = none := by decide +kernel
theorem strayState_awaits : strayState.awaits 1 strayOp := ⟨by decide, by decide, by decide, rfl, rfl, 0, rfl⟩
theorem strayRot_lanesOk : strayRot.lanesOk = true := by decide +kernel
theorem strayRot_outside : handleQuad (strayRot.p2 0) ≠ 0 := by decide +kernel

/-- Refutes O40: the clause of ENGINE_ACCEPT that answers STALE at once takes in MROT, which is `fn = 4`; the engine sends an MROT's operands even where its tile lies
outside the quad, and its status waits for both deliveries (R374). -/
theorem not_engineEvents : ¬Obligations.EngineEvents := by
  intro h
  obtain ⟨hengine, -⟩ := h.1 strayState
  obtain ⟨-, hstale⟩ := hengine strayRot strayState_nextHead strayState_finishedCmd rfl rfl strayState_awaits strayRot_lanesOk
  obtain ⟨t, hexec, hslot, -⟩ := hstale (by decide) (by decide) strayRot_outside
  have hwaits : (t.slot 1).ops.length = 1 := (congrArg outstandingAfter hexec).symm.trans outstandingAfter_engineAccept
  have hdone : (t.slot 1).ops.length = 0 := (congrArg (fun x : Slot => x.ops.length) hslot).trans rfl
  exact absurd (hwaits.symm.trans hdone) (by decide)

end Sys2Proof.Machine

end

section

/-! # Reading memory at its home: nothing of it rests on the packages (R150, R162) -/

namespace Sys2Proof.Machine

/-- The packages as given, all else as it was. -/
def State.withPkgs (s : State) (ps : NMap Pkg) : State := { s with pkgs := ps }

section

variable (s : State) (ps : NMap Pkg)

/-- Steps over a list that each commute with the packages' update commute with it together. -/
theorem State.foldl_withPkgs {α : Type} {f : State → α → State} (hf : ∀ t x, f (t.withPkgs ps) x = (f t x).withPkgs ps) (l : List α) :
    l.foldl f (s.withPkgs ps) = (l.foldl f s).withPkgs ps := by
  induction l generalizing s with
  | nil => rfl
  | cons x l ih => rw [List.foldl_cons, List.foldl_cons, hf, ih]

theorem State.region_withPkgs (c i : Nat) : (s.withPkgs ps).region c i = s.region c i := rfl
theorem State.regionHolds_withPkgs (c i l : Nat) : (s.withPkgs ps).regionHolds c i l = s.regionHolds c i l := rfl
theorem State.line_withPkgs (q l : Nat) : (s.withPkgs ps).line q l = s.line q l := rfl
theorem State.holders_withPkgs (p l : Nat) : (s.withPkgs ps).holders p l = s.holders p l := rfl
theorem State.lineFree_withPkgs (l : Nat) : (s.withPkgs ps).lineFree l = s.lineFree l := rfl
theorem State.memWrite_withPkgs {w : Nat} (a n : Nat) (v : BitVec w) : (s.withPkgs ps).memWrite a n v = (s.memWrite a n v).withPkgs ps := rfl

theorem State.settleLine_withPkgs (l : Nat) : (s.withPkgs ps).settleLine l = (s.settleLine l).withPkgs ps := by
  unfold State.settleLine
  rw [State.lineFree_withPkgs]
  split <;> rfl

theorem State.writeSectors_withPkgs (l : Nat) (m : BitVec 2) (d : BitVec 2048) (f p : BitVec 32) :
    (s.withPkgs ps).writeSectors l m d f p = (s.writeSectors l m d f p).withPkgs ps := by
  unfold State.writeSectors
  rw [State.foldl_withPkgs]
  intro t j
  split
  · rw [State.memWrite_withPkgs, State.foldl_withPkgs]
    exact fun _ _ => rfl
  · rfl

theorem State.pullRegionLine_withPkgs (c i l : Nat) (keep : Bool) : (s.withPkgs ps).pullRegionLine c i l keep = (s.pullRegionLine c i l keep).withPkgs ps := by
  unfold State.pullRegionLine
  dsimp only
  rw [State.region_withPkgs, State.foldl_withPkgs]
  · rfl
  · intro t h
    split
    · rw [State.line_withPkgs]
      cases t.line (quadOf c) l with
      | none => exact State.writeSectors_withPkgs t ps _ _ _ _ _
      | some x =>
        dsimp only
        split
        · rfl
        · exact State.writeSectors_withPkgs (t.setLine _ _ _) ps _ _ _ _ _
    · rfl

theorem State.pullQuadLine_withPkgs (q l : Nat) (keep : Bool) : (s.withPkgs ps).pullQuadLine q l keep = (s.pullQuadLine q l keep).withPkgs ps := by
  unfold State.pullQuadLine
  rw [State.foldl_withPkgs]
  intro t c
  rw [State.foldl_withPkgs]
  intro u i
  rw [State.regionHolds_withPkgs, State.pullRegionLine_withPkgs]
  exact (apply_ite (State.withPkgs · ps) _ _ _).symm

theorem State.homeClean_withPkgs (l : Nat) : (s.withPkgs ps).homeClean l = (s.homeClean l).withPkgs ps := by
  unfold State.homeClean
  rw [State.settleLine_withPkgs, State.holders_withPkgs]
  refine State.foldl_withPkgs _ ps (fun t q => ?_) _
  dsimp only
  rw [State.pullQuadLine_withPkgs, State.line_withPkgs]
  cases (t.pullQuadLine q l false).line q l with
  | none => rfl
  | some x =>
    dsimp only
    split
    · rw [State.writeSectors_withPkgs]
      rfl
    · rfl

theorem State.agentWord_withPkgs (a : Nat) : (s.withPkgs ps).agentWord a = s.agentWord a := by
  unfold State.agentWord
  rw [State.homeClean_withPkgs]
  rfl

theorem walkFrom_withPkgs (peer : Nat) (va : Word) (write fetch : Bool) (ls : List (Nat × Nat × Bool × Bool)) (table : Nat) :
    walkFrom (s.withPkgs ps) peer va write fetch ls table = walkFrom s peer va write fetch ls table := by
  induction ls generalizing table with
  | nil => rfl
  | cons e ls ih =>
    obtain ⟨lo, w, leafOk, tableOk⟩ := e
    unfold walkFrom
    simp only [State.agentWord_withPkgs, ih]
    rfl

theorem State.feWalk_withPkgs (p : Nat) (job : BitVec 12) (va : Word) (write : Bool) : (s.withPkgs ps).feWalk p job va write = s.feWalk p job va write := by
  unfold State.feWalk walk
  simp only [walkFrom_withPkgs]
  rfl

theorem State.readPacket_withPkgs (p : Nat) (q : Queue) : (s.withPkgs ps).readPacket p q = s.readPacket p q := by
  unfold State.readPacket
  simp only [State.feWalk_withPkgs, State.homeClean_withPkgs]
  cases s.feWalk p q.job (q.qbase + BitVec.ofNat 64 (64 * (q.ridx.toNat % 2 ^ q.lgn))) false with
  | none => rfl
  | some pa =>
    dsimp only
    rw [State.lineFree_withPkgs]
    split
    · rfl
    · split <;> rfl

theorem State.pktXlate_withPkgs (p : Nat) (q : Queue) (dw : List Word) : (s.withPkgs ps).pktXlate p q dw = s.pktXlate p q dw := by
  unfold State.pktXlate
  simp only [State.feWalk_withPkgs]

end

end Sys2Proof.Machine

end

section

/-! # Queue packets read and consumed (R60 to R63) -/

namespace Sys2Proof.Machine

/-! ### Queues, and what the front end's events leave of them (R58) -/

section

variable (s : State) (p n : Nat)

@[simp] theorem State.queue_modQueue_self (f : Queue → Queue) : (s.modQueue p n f).queue p n = f (s.queue p n) := by
  simp [State.queue, State.modQueue]

@[simp] theorem State.modQueue_modQueue (f g : Queue → Queue) : (s.modQueue p n f).modQueue p n g = s.modQueue p n fun q => g (f q) := by
  simp [State.modQueue]

/-- An update of a queue depends on the queue alone. -/
theorem State.modQueue_congr {f g : Queue → Queue} (h : f (s.queue p n) = g (s.queue p n)) : s.modQueue p n f = s.modQueue p n g :=
  State.modPkg_congr (congrArg (fun q : Queue => { s.pkg p with queues := (s.pkg p).queues.set n q }) h)

@[simp] theorem State.works_modQueue (f : Queue → Queue) : ((s.modQueue p n f).pkg p).works = (s.pkg p).works := by
  simp [State.modQueue]

theorem State.queue_dropWork (w : Work) (m : Nat) : (s.dropWork p w).queue p m = s.queue p m := by
  simp [State.queue, State.dropWork]

theorem State.works_dropWork (w : Work) : ((s.dropWork p w).pkg p).works = (s.pkg p).works.filter fun v => !(v.q == w.q && v.id == w.id) := by
  simp [State.dropWork]

end

/-! ### Reading and consuming a packet (R60 to R63) -/

/-- Memory as given, all else as it was. -/
def State.withMem (s : State) (m : Cells) : State := { s with mem := m }

theorem State.memWrite_memWrite (s : State) (a b n : Nat) {w : Nat} (v v' : BitVec w) :
    (s.memWrite a n v).memWrite b n v' = s.withMem ((s.mem.writeN a n v).writeN b n v') := rfl

/-- The packet at queue n's head has been consumed. -/
def State.taken (s : State) (p n : Nat) (dw : List Word) : State :=
  s.modQueue p n fun q => { q with ridx := q.ridx + 1, wait := false, full := false, consumed := some dw }

theorem State.queue_taken (s : State) (p n : Nat) (dw : List Word) :
    (s.taken p n dw).queue p n = { s.queue p n with ridx := (s.queue p n).ridx + 1, wait := false, full := false, consumed := some dw } :=
  State.queue_modQueue_self s p n _

theorem State.mem_taken_withMem (s : State) (m : Cells) (p n : Nat) (dw : List Word) : ((s.withMem m).taken p n dw).mem = m := rfl

theorem State.queue_taken_withMem (s : State) (m : Cells) (p n : Nat) (dw : List Word) : ((s.withMem m).taken p n dw).queue p n = (s.taken p n dw).queue p n := rfl

section

variable {s : State} {p n pa rpa : Nat} {dw : List Word}

theorem State.consume_unset (hr : s.readPacket p (s.queue p n) = .ok (pa, dw)) (hv : (dwOf dw 0).getLsbD 15 = false) :
    s.consume p n = s.modQueue p n fun q => { q with wait := true, full := false } := by
  unfold State.consume
  dsimp only
  rw [hr]
  dsimp only
  rw [hv, if_pos (by decide)]

theorem State.consume_fails {c : BitVec 8} (hr : s.readPacket p (s.queue p n) = .ok (pa, dw)) (hv : (dwOf dw 0).getLsbD 15 = true) (hc : pktCode (s.queue p n) dw = some c) :
    s.consume p n = s.failQueue p n c := by
  unfold State.consume
  dsimp only
  rw [hr]
  dsimp only
  rw [hv, if_neg (by decide), hc]

/-- A packet that passes its checks and need not wait as a LAUNCH is consumed; here its ring and its read-index word stand in host memory. -/
theorem State.consume_takes (hr : s.readPacket p (s.queue p n) = .ok (pa, dw)) (hv : (dwOf dw 0).getLsbD 15 = true) (hc : pktCode (s.queue p n) dw = none)
    (hx : s.pktXlate p (s.queue p n) dw = true) (hw : pktType dw = 1 → s.launchWaits p n (pktJob dw) = false)
    (hi : s.feWalk p (s.queue p n).job (s.queue p n).qridx true = some rpa) (hpa : paPeer pa = hostPeer) (hrpa : paPeer rpa = hostPeer) :
    s.consume p n = (s.withMem ((s.mem.writeN pa 8 (dwOf dw 0 &&& ~~~0x8000)).writeN rpa 8 (((s.queue p n).ridx + 1).setWidth 64 : Word))).taken p n dw := by
  have hgo : ¬(pktType dw = 1 ∧ s.launchWaits p n (pktJob dw) = true) := fun h => absurd (hw h.1) (ne_false_of_eq_true h.2)
  unfold State.consume
  dsimp only
  rw [hr]
  dsimp only
  rw [hv, if_neg (by decide), hc]
  dsimp only
  rw [hx, if_neg (by decide), if_neg hgo, hi]
  dsimp only
  rw [if_pos hpa, if_pos hrpa, State.memWrite_memWrite]
  rfl

/-- The state in which an event of a queue reads its packet: as it stands, or with the mark of wait-valid taken away. -/
structure State.Rereads (s u : State) (p n : Nat) : Prop where
  queue : u.queue p n = { s.queue p n with wait := false }
  modQueue : ∀ f : Queue → Queue, u.modQueue p n f = s.modQueue p n fun q => f { q with wait := false }
  mem : u.mem = s.mem
  feWalk : ∀ job va write, u.feWalk p job va write = s.feWalk p job va write
  readPacket : ∀ q, u.readPacket p q = s.readPacket p q
  pktXlate : ∀ q dw, u.pktXlate p q dw = s.pktXlate p q dw

theorem State.rereads_self (h : (s.queue p n).wait = false) : s.Rereads s p n where
  queue := by rw [← h]
  modQueue f := State.modQueue_congr s p n (by rw [← h])
  mem := rfl
  feWalk _ _ _ := rfl
  readPacket _ := rfl
  pktXlate _ _ := rfl

theorem State.rereads_unmarked (s : State) (p n : Nat) : s.Rereads (s.modQueue p n fun q => { q with wait := false }) p n where
  queue := State.queue_modQueue_self s p n _
  modQueue := State.modQueue_modQueue s p n _
  mem := rfl
  feWalk := State.feWalk_withPkgs s _ p
  readPacket := State.readPacket_withPkgs s _ p
  pktXlate := State.pktXlate_withPkgs s _ p

end

section

variable {s : State} {ev : Instr} {p n pa rpa : Nat} {dw : List Word} (hp : s.arg.a = p) (hn : s.arg.b % 4096 = n) (up : s.frontUp p = true)

include hp hn up

/-- PACKET_BEGIN: the packet's acquire is performed and its work named (R64, R65). -/
theorem execPacketBegin_begins (hc : (s.queue p n).consumed = some dw) (hf : (s.queue p n).failed = false) (hb : (s.queue p n).barred = false)
    (hd : (s.queue p n).dep = none) : execPacketBegin s = .next (s.beginPacket p n dw) := by
  subst hp hn
  unfold execPacketBegin
  dsimp only
  rw [hc]
  exact if_pos ⟨up, ne_true_of_eq_false hf, ne_true_of_eq_false hb, hd⟩

variable (hev : (ev = Instr.packetRead ∧ (s.queue p n).wait = false) ∨ (ev = .waitValidReread ∧ (s.queue p n).wait = true)) (hreads : (s.queue p n).reads = true)
  (hfull : (s.queue p n).full = false)

include hev hreads hfull

/-- PACKET_READ and WAIT_VALID_REREAD read and consume alike. -/
theorem exec_reads : ∃ u, exec ev s = .next (u.consume p n) ∧ s.Rereads u p n := by
  subst hp hn
  obtain ⟨rfl, hw⟩ | ⟨rfl, hw⟩ := hev
  · exact ⟨s, if_pos ⟨up, hreads, by simp [hw], by simp [hfull]⟩, State.rereads_self hw⟩
  · exact ⟨_, if_pos ⟨up, hreads, hw⟩, State.rereads_unmarked s _ _⟩

variable (hr : s.readPacket p (s.queue p n) = .ok (pa, dw))

include hr

/-- The same, with the packet that it reads. -/
theorem exec_reads_packet : ∃ u, exec ev s = .next (u.consume p n) ∧ s.Rereads u p n ∧ u.readPacket p (u.queue p n) = .ok (pa, dw) := by
  obtain ⟨u, hexec, hu⟩ := exec_reads hp hn up hev hreads hfull
  exact ⟨u, hexec, hu, by rw [hu.queue, hu.readPacket]; exact hr⟩

theorem exec_reads_unset (hv : (dwOf dw 0).getLsbD 15 = false) : exec ev s = .next (s.modQueue p n fun q => { q with wait := true }) := by
  obtain ⟨u, hexec, hu, hread⟩ := exec_reads_packet hp hn up hev hreads hfull hr
  rw [hexec, State.consume_unset hread hv, hu.modQueue]
  exact congrArg Host.Outcome.next (State.modQueue_congr s p n (by simp [hfull]))

variable (hv : (dwOf dw 0).getLsbD 15 = true)

include hv

theorem exec_reads_fails {c : BitVec 8} (hc : pktCode (s.queue p n) dw = some c) : exec ev s = .next (s.failQueue p n c) := by
  obtain ⟨u, hexec, hu, hread⟩ := exec_reads_packet hp hn up hev hreads hfull hr
  have hc' : pktCode (u.queue p n) dw = some c := by
    rw [hu.queue]
    exact hc
  rw [hexec, State.consume_fails hread hv hc', State.failQueue, hu.modQueue]
  rfl

theorem exec_reads_takes (hc : pktCode (s.queue p n) dw = none) (hx : s.pktXlate p (s.queue p n) dw = true) (ht : pktType dw ≠ 1)
    (hi : s.feWalk p (s.queue p n).job (s.queue p n).qridx true = some rpa) (hpa : paPeer pa = hostPeer) (hrpa : paPeer rpa = hostPeer) :
    ∃ t, exec ev s = .next t ∧ t.queue p n = { s.queue p n with ridx := (s.queue p n).ridx + 1, wait := false, full := false, consumed := some dw } ∧
      t.mem = (s.mem.writeN pa 8 (dwOf dw 0 &&& ~~~0x8000)).writeN rpa 8 (((s.queue p n).ridx + 1).setWidth 64 : Word) := by
  obtain ⟨u, hexec, hu, hread⟩ := exec_reads_packet hp hn up hev hreads hfull hr
  have hc' : pktCode (u.queue p n) dw = none := by
    rw [hu.queue]
    exact hc
  have hx' : u.pktXlate p (u.queue p n) dw = true := by
    rw [hu.queue, hu.pktXlate]
    exact hx
  have hi' : u.feWalk p (u.queue p n).job (u.queue p n).qridx true = some rpa := by
    rw [hu.queue, hu.feWalk]
    exact hi
  rw [hexec, State.consume_takes hread hv hc' hx' (fun h => absurd h ht) hi' hpa hrpa]
  refine ⟨_, rfl, ?_, ?_⟩
  · rw [State.queue_taken_withMem, State.queue_taken, hu.queue]
  · rw [State.mem_taken_withMem, hu.mem, hu.queue]

end

end Sys2Proof.Machine

end

section

/-! # SIGNAL, DEPEND and COPY: one lemma for each event of O49 -/

namespace Sys2Proof.Machine

/-! ### Signals at their home (R66, R68) -/

section

variable {s : State} {p pa : Nat}

/-- The routes are all that a place of the front end takes of the package. -/
theorem State.fePlace_modPkg (s : State) (p : Nat) (f : Pkg → Pkg) (hf : (f (s.pkg p)).routes = (s.pkg p).routes) (job : BitVec 12) (va : Word) (write : Bool) :
    (s.modPkg p f).fePlace p job va write = s.fePlace p job va write := by
  have hroutes (q : Nat) : ((s.modPkg p f).pkg q).routes = (s.pkg q).routes := by
    rw [State.pkg_modPkg]
    split
    · next h => rw [hf, h]
    · rfl
  have hwalk : (s.modPkg p f).feWalk p job va write = s.feWalk p job va write := State.feWalk_withPkgs s _ p job va write
  have hrefused (peer a : Nat) : (s.modPkg p f).refusedAt peer job a = s.refusedAt peer job a := by
    unfold State.refusedAt State.peerRefuses
    simp only [hroutes]
    rfl
  unfold State.fePlace
  simp only [hwalk, hrefused]
  rfl

/-- A signal operation that has left a value in the word at its home: the interrupt raised, the packet complete. -/
def State.signalDone (s : State) (p q id pa : Nat) (new : Word) : State :=
  ((((s.dropEntry (pa / 256)).memWrite pa 8 new).unpoison pa 8).signalled p q new).packetDone p q id

theorem State.signalled_eq (s : State) (p q : Nat) (v : Word) :
    s.signalled p q v = { s with host := s.host ++ (if (s.queue p q).irq = true ∧ v = 0 then [.msix p (s.queue p q).vector] else []) } := by
  unfold State.signalled
  split
  · rfl
  · rw [List.append_nil]

theorem State.signalDone_eq (s : State) (p q id pa : Nat) (new : Word) : ∃ ds ps, s.signalDone p q id pa new =
    State.packetDone { s with
      dies := ds, poison := ps, mem := s.mem.writeN pa 8 new,
      host := s.host ++ (if (s.queue p q).irq = true ∧ new = 0 then [.msix p (s.queue p q).vector] else []) } p q id := by
  obtain ⟨ps, hps⟩ := State.unpoison_eq ((s.dropEntry (pa / 256)).memWrite pa 8 new) pa 8
  refine ⟨(s.dropEntry (pa / 256)).dies, ps, ?_⟩
  unfold State.signalDone
  rw [hps, State.signalled_eq]
  rfl

theorem State.signalOp_at_home {job : BitVec 12} {va v : Word} {op : Nat} (hp : s.fePlace p job va true = .ok pa) (hh : paPeer pa ≠ hostPeer)
    (hq : s.quietLine (pa / 256)) (hpo : s.poisonAt pa = false) (q id kind : Nat) :
    s.signalOp p q id kind job va op v =
      let t := s.signalDone p q id pa (if op = 0 then v else s.word pa + v)
      some (if op = 0 then t else t.pollDepends p) := by
  have hpo' : (s.dropEntry (pa / 256)).poisonAt pa = false := hpo
  unfold State.signalOp
  rw [hp]
  dsimp only
  rw [if_neg hh, State.homeObtain_of_quietLine hq, if_neg (by simp [hpo'])]
  rfl

/-- What SIGNAL_STORE, SIGNAL_ADD and SIGNAL_SUBTRACT do with a SIGNAL work. -/
theorem State.signalWork_eq {k op : Nat} {w : Work} (hw : (s.pkg p).works[k]? = some w) (ht : pktType w.dw = 3) (hop : (dwOf w.dw 3).toNat % 4 = op) :
    s.signalWork p k op = some (w, dwOf w.dw 2) := by
  unfold State.signalWork State.work
  rw [hw, Option.filter_some, if_pos (beq_iff_eq.mpr ht)]
  exact if_pos hop

/-- An event that runs a SIGNAL's operation on a word at a quiet line of its home. -/
theorem signal_performs {ev : Instr} {w : Work} {op : Nat} {v : Word}
    (hrun : exec ev s = ((s.dropWork p w).signalOp p w.q w.id reqSignal (pktJob w.dw) (dwOf w.dw 1) op v).elim s.idle .next)
    (hp : s.fePlace p (pktJob w.dw) (dwOf w.dw 1) true = .ok pa) (hh : paPeer pa ≠ hostPeer) (hq : s.quietLine (pa / 256)) (hpo : s.poisonAt pa = false) :
    let new := if op = 0 then v else s.word pa + v
    let y := s.queue p w.q
    ∃ t, exec ev s = .next (if op = 0 then t else t.pollDepends p) ∧ t.mem = s.mem.writeN pa 8 new ∧ (t.queue p w.q).running = y.running.remove w.id ∧
      (t.pkg p).works = (s.pkg p).works.filter (fun v => !(v.q == w.q && v.id == w.id)) ∧ t.host = s.host ++ (if y.irq = true ∧ new = 0 then [.msix p y.vector] else []) := by
  intro new y
  obtain ⟨ds, ps, hdone⟩ := State.signalDone_eq (s.dropWork p w) p w.q w.id pa new
  have hplace : (s.dropWork p w).fePlace p (pktJob w.dw) (dwOf w.dw 1) true = .ok pa := (State.fePlace_modPkg s p _ rfl _ _ _).trans hp
  have hy : (s.dropWork p w).queue p w.q = y := State.queue_dropWork s p w w.q
  refine ⟨(s.dropWork p w).signalDone p w.q w.id pa new, ?_, ?_, ?_, ?_, ?_⟩
  · rw [hrun, State.signalOp_at_home (s := s.dropWork p w) hplace hh hq hpo]
    rfl
  · rw [hdone]
    rfl
  · rw [hdone, ← hy]
    exact congrArg Queue.running (State.queue_modQueue_self _ _ _ _)
  · rw [hdone]
    exact (State.works_modQueue _ _ _ _).trans (State.works_dropWork s p w)
  · rw [hdone, hy]
    rfl

end

/-- How an event goes on with an operation that may have to be tried again. -/
theorem goesOn_eq_elim (s : State) (o : Option State) : (match o with
    | some t => Host.Outcome.next t
    | none => s.idle) = o.elim s.idle .next := by
  cases o <;> rfl

section

variable {s : State} {w : Work} (hw : (s.pkg s.arg.a).works[s.arg.b]? = some w) (ht : pktType w.dw = 3)

include hw ht

theorem execSignalStore_eq (hop : (dwOf w.dw 3).toNat % 4 = 0) :
    execSignalStore s = ((s.dropWork s.arg.a w).signalOp s.arg.a w.q w.id reqSignal (pktJob w.dw) (dwOf w.dw 1) 0 (dwOf w.dw 2)).elim s.idle .next := by
  rw [execSignalStore, State.signalWork_eq hw ht hop]
  exact goesOn_eq_elim s _

theorem execSignalAdd_eq (hop : (dwOf w.dw 3).toNat % 4 = 1) :
    execSignalAdd s = ((s.dropWork s.arg.a w).signalOp s.arg.a w.q w.id reqSignal (pktJob w.dw) (dwOf w.dw 1) 1 (dwOf w.dw 2)).elim s.idle .next := by
  rw [execSignalAdd, State.signalWork_eq hw ht hop]
  exact goesOn_eq_elim s _

theorem execSignalSubtract_eq (hop : (dwOf w.dw 3).toNat % 4 = 2) :
    execSignalSubtract s = ((s.dropWork s.arg.a w).signalOp s.arg.a w.q w.id reqSignal (pktJob w.dw) (dwOf w.dw 1) 1 (-dwOf w.dw 2)).elim s.idle .next := by
  rw [execSignalSubtract, State.signalWork_eq hw ht hop]
  exact goesOn_eq_elim s _

end

/-! ### DEPEND (R65) -/

section

variable {s : State} {p n pa : Nat} {w : Work}

theorem dependHolds_iff (dw : List Word) (v : Word) : dependHolds dw v = true ↔ match (dwOf dw 3).toNat % 4 with
    | 0 => v = dwOf dw 2
    | 1 => v ≠ dwOf dw 2
    | 2 => v.toNat < (dwOf dw 2).toNat
    | _ => (dwOf dw 2).toNat ≤ v.toNat := by
  unfold dependHolds
  dsimp only
  rcases (show (dwOf dw 3).toNat % 4 = 0 ∨ (dwOf dw 3).toNat % 4 = 1 ∨ (dwOf dw 3).toNat % 4 = 2 ∨ (dwOf dw 3).toNat % 4 = 3 by omega) with h | h | h | h <;>
    simp [h, BitVec.ult]

theorem State.acquire_below (s : State) (p : Nat) {scope : Nat} (h : scope < 3) : s.acquire p scope = s := if_pos h

/-- A DEPEND alone in its package, its signal at a quiet line of its home, reads it. -/
theorem State.dependPoll_at_home (hw : (s.pkg p).works = [w]) (hn : w.q = n) (ht : pktType w.dw = 2) (hd : (s.queue p n).dep = some w.id) (hf : (s.queue p n).failed = false)
    (hr : (s.pkg p).hostReqs = []) (hp : s.fePlace p (pktJob w.dw) (dwOf w.dw 1) false = .ok pa) (hh : paPeer pa ≠ hostPeer) (hq : s.quietLine (pa / 256))
    (hpo : s.poisonAt pa = false) : s.dependPoll p n = s.dependRead p n w.id w.dw (s.word pa) := by
  have hfind : (s.pkg p).works.find? (fun w => w.q == n && pktType w.dw == 2 && (s.queue p n).dep == some w.id) = some w := by
    rw [hw]
    exact List.find?_cons_of_pos (by simp [hn, ht, hd])
  unfold State.dependPoll
  rw [hfind]
  dsimp only
  rw [if_neg (by simp [hf, hr]), hp]
  dsimp only
  rw [if_neg hh, State.homeClean_of_quietLine hq, if_neg (ne_true_of_eq_false hpo)]

theorem State.dependRead_holds (hw : (s.pkg p).works = [w]) (hn : w.q = n) (hd : (s.queue p n).dep = some w.id) (ha : pktAcquire w.dw < 3) {v : Word}
    (hv : dependHolds w.dw v = true) :
    s.dependRead p n w.id w.dw v = (s.modQueue p n fun x => { x with dep := none, running := x.running.remove w.id }).modPkg p fun x => { x with works := [] } := by
  unfold State.dependRead State.packetDone
  rw [if_pos ⟨hv, hd⟩, State.acquire_below s p ha, State.modQueue_modQueue]
  refine State.modPkg_congr ?_
  rw [State.works_modQueue, hw]
  simp [hn]

theorem State.dependRead_holds_not {id : Nat} {dw : List Word} {v : Word} (hv : ¬dependHolds dw v = true) : s.dependRead p n id dw v = s := if_neg fun h => hv h.1

end

/-- DEPEND and DEPEND_POLL read the signal alike. -/
theorem exec_polls {s : State} {p n : Nat} {ev : Instr} (hp : s.arg.a = p) (hn : s.arg.b % 4096 = n) (up : s.frontUp p = true) (hev : ev ∈ [Instr.depend, .dependPoll]) :
    exec ev s = .next (s.dependPoll p n) := by
  subst hp hn
  simp only [List.mem_cons, List.not_mem_nil, or_false] at hev
  obtain rfl | rfl := hev
  · exact if_pos up
  · exact if_pos up

/-! ### COPY (R67) -/

section

variable {s : State} {p pa pb m : Nat} {w : Work}

theorem State.poisonAt_of_clean (h : s.poison = []) (a : Nat) : s.poisonAt a = false := by
  unfold State.poisonAt
  rw [h]
  rfl

theorem State.poisonIn_of_clean (h : s.poison = []) (a n : Nat) : s.poisonIn a n = false := by
  simp [State.poisonIn, State.poisonAt_of_clean h]

theorem State.partialPoison_of_clean (h : s.poison = []) (a n : Nat) : s.partialPoison a n = false := by
  simp [State.partialPoison, State.poisonAt_of_clean h]

theorem pieceOf_pos {dw : List Word} {k : Nat} (h : k < copyLen dw) : 1 ≤ pieceOf dw k := by
  unfold pieceOf
  dsimp only
  omega

/-- A piece that is not the last, written at a quiet line. -/
theorem State.putPiece_at_home (hw : (s.pkg p).works = [w]) (hmore : w.moved + m < copyLen w.dw)
    (hp : s.fePlace p (pktJob w.dw) (dwOf w.dw 2 + BitVec.ofNat 64 w.moved) true = .ok pb) (hh : paPeer pb ≠ hostPeer) (hq : s.quietAt pb m) (hpo : s.poison = [])
    (v : BitVec 2048) : ∃ t, s.putPiece p w m v = some t ∧ t.mem = s.mem.writeN pb m v ∧ (t.pkg p).works = [{ w with moved := w.moved + m }] ∧
      ∀ n, t.queue p n = s.queue p n := by
  obtain ⟨ds, hds⟩ := State.agentObtain_of_quiet hq
  obtain ⟨ds', ps, hwrite⟩ := State.agentWrite_of_quiet v hq
  have hwhole : (s.agentObtain pb m).partialPoison pb m = false := by
    rw [hds]
    exact State.partialPoison_of_clean (s := { s with dies := ds }) hpo pb m
  refine ⟨(s.agentWrite pb m v).modPkg p fun x =>
    { x with works := x.works.map fun y => if y.q = w.q ∧ y.id = w.id then { y with moved := w.moved + m } else y }, ?_, ?_, ?_, fun n => ?_⟩
  · unfold State.putPiece
    rw [hp]
    dsimp only
    rw [if_neg (by simp [hwhole]), if_neg hh, if_pos hmore]
  · rw [hwrite]
    rfl
  · rw [hwrite, State.pkg_modPkg_self]
    exact (congrArg (List.map _) hw).trans (by simp)
  · rw [hwrite]
    unfold State.queue
    rw [State.pkg_modPkg_self]
    rfl

theorem State.copyPiece_at_home (hw : (s.pkg p).works = [w]) (hm : pieceOf w.dw w.moved = m) (hmore : w.moved + m < copyLen w.dw) (hr : (s.pkg p).hostReqs = [])
    (hp : s.fePlace p (pktJob w.dw) (dwOf w.dw 1 + BitVec.ofNat 64 w.moved) false = .ok pa)
    (hp' : s.fePlace p (pktJob w.dw) (dwOf w.dw 2 + BitVec.ofNat 64 w.moved) true = .ok pb) (hh : paPeer pa ≠ hostPeer) (hh' : paPeer pb ≠ hostPeer)
    (hq : s.quietAt pa m) (hq' : s.quietAt pb m) (hpo : s.poison = []) :
    let t := s.copyPiece p w
    t.mem = s.mem.writeN pb m ((s.memRead pa m).setWidth 2048) ∧ (t.pkg p).works = [{ w with moved := w.moved + m }] ∧ ∀ n, t.queue p n = s.queue p n := by
  obtain ⟨t, hput, h⟩ := State.putPiece_at_home hw hmore hp' hh' hq' hpo ((s.memRead pa m).setWidth 2048)
  have hrun : s.copyPiece p w = t := by
    unfold State.copyPiece
    dsimp only
    rw [hm, if_neg (by omega), if_neg (by simp [hr]), hp]
    dsimp only
    rw [if_neg hh, State.agentClean_of_quiet hq, if_neg (by simp [State.poisonIn_of_clean hpo]), hput]
    rfl
  rw [hrun]
  exact h

/-- COPY starts a copy and COPY_PIECE goes on with one, by the same step. -/
theorem exec_copies {s : State} {ev : Instr} (up : s.frontUp s.arg.a = true) (hk : (s.pkg s.arg.a).works[s.arg.b]? = some w) (ht : pktType w.dw = 4)
    (hev : (ev = Instr.copy ∧ w.moved = 0) ∨ (ev = .copyPiece ∧ 0 < w.moved)) : exec ev s = .next (s.copyPiece s.arg.a w) := by
  have hwork : s.work s.arg.a s.arg.b 4 = some w := by
    unfold State.work
    rw [hk, Option.filter_some, if_pos (beq_iff_eq.mpr ht)]
  obtain ⟨rfl, hm⟩ | ⟨rfl, hm⟩ := hev
  · change execCopy s = _
    unfold execCopy
    rw [hwork]
    exact if_pos ⟨up, hm⟩
  · change execCopyPiece s = _
    unfold execCopyPiece
    rw [hwork]
    exact if_pos ⟨up, hm⟩

end

end Sys2Proof.Machine

end

section

/-! # LAUNCH and its acceptance, and O49 -/

namespace Sys2Proof.Machine

/-! ### LAUNCH (R80 to R82) -/

section

variable {s : State} {p ls : Nat}

theorem State.dieLaunch_modDieLaunch (s : State) (d e ls : Nat) (f : DieLaunch → DieLaunch) :
    (s.modDieLaunch d ls f).dieLaunch e ls = if e = d then f (s.dieLaunch d ls) else s.dieLaunch e ls := by
  unfold State.dieLaunch State.modDieLaunch
  rw [State.die_modDie]
  split
  · exact NMap.get_set_self _ _ _ _
  · rfl

/-- The first m dies of a package each given its entry for a launch slot. -/
def State.dealt (s : State) (p ls : Nat) (g : Nat → DieLaunch) (m : Nat) : State := (List.range m).foldl (fun s d => s.modDieLaunch (4 * p + d) ls fun _ => g d) s

theorem State.dealt_succ (g : Nat → DieLaunch) (m : Nat) : s.dealt p ls g (m + 1) = (s.dealt p ls g m).modDieLaunch (4 * p + m) ls fun _ => g m := by
  unfold State.dealt
  rw [List.range_succ, List.foldl_append]
  rfl

theorem State.pkg_dealt (g : Nat → DieLaunch) (m q : Nat) : (s.dealt p ls g m).pkg q = s.pkg q := by
  induction m with
  | zero => rfl
  | succ m ih => rw [State.dealt_succ]; exact ih

theorem State.dieLaunch_dealt (g : Nat → DieLaunch) {m d : Nat} (h : d < m) : (s.dealt p ls g m).dieLaunch (4 * p + d) ls = g d := by
  induction m with
  | zero => omega
  | succ m ih =>
    rw [State.dealt_succ, State.dieLaunch_modDieLaunch]
    by_cases hd : d = m
    · rw [if_pos (by rw [hd]), hd]
    · rw [if_neg (by omega)]
      exact ih (by omega)

/-- A LAUNCH that was a package's one work has become its one launch, in slot 0, with its constants and the shares at the four dies (R80 to R82). `u` and `t` are the
states before and after. -/
def LaunchAccepted (p : Nat) (u t : State) (w : Work) (consts : List Word) : Prop :=
  ∃ l, (t.pkg p).launches = [(0, l)] ∧ l.q = w.q ∧ l.id = w.id ∧ l.dw = w.dw ∧ l.job = pktJob w.dw ∧ l.total = parcelsOf w.dw ∧ (t.pkg p).works = [] ∧
    l.prio.toNat = min ((dwOf w.dw 0).toNat / 2 ^ 44 % 16) (u.queue p w.q).pceil.toNat ∧
    ∀ d, d < 4 → (t.dieLaunch (4 * p + d) 0).consts = consts ∧
      (t.dieLaunch (4 * p + d) 0).range = BitVec.ofNat 64 (parcelsOf w.dw * (d + 1) / 4 * 2 ^ 32 + parcelsOf w.dw * d / 4)

theorem toNat_priority (a : Nat) (c : BitVec 4) : (BitVec.ofNat 4 (min (a % 16) c.toNat)).toNat = min (a % 16) c.toNat := by
  rw [BitVec.toNat_ofNat]
  omega

/-- The launch that a LAUNCH becomes in a package, and die d's entry for it. -/
def Work.launch (w : Work) (x : Pkg) : Launch where
  q := w.q
  id := w.id
  dw := w.dw
  job := pktJob w.dw
  prio := BitVec.ofNat 4 (min ((dwOf w.dw 0).toNat / 2 ^ 44 % 16) (x.queues.get {} w.q).pceil.toNat)
  total := parcelsOf w.dw
  accepted := x.launchSeq

def Work.dieEntry (w : Work) (consts : List Word) (d : Nat) : DieLaunch where
  consts := consts
  range := rangeWord (shareLo (parcelsOf w.dw) d) (shareLo (parcelsOf w.dw) (d + 1))
  share := shareLo (parcelsOf w.dw) d < shareLo (parcelsOf w.dw) (d + 1)

/-- The package's part of an acceptance in a launch slot. -/
def State.enlist (s : State) (p ls : Nat) (w : Work) : State :=
  (s.dropWork p w).modPkg p fun x => { x with launchSeq := x.launchSeq + 1, launches := x.launches.set ls (w.launch x) }

theorem State.pkg_enlist (s : State) (p ls : Nat) (w : Work) : (s.enlist p ls w).pkg p =
    { s.pkg p with
      works := (s.pkg p).works.filter fun v => !(v.q == w.q && v.id == w.id), launchSeq := (s.pkg p).launchSeq + 1,
      launches := (s.pkg p).launches.set ls (w.launch (s.pkg p)) } := by
  unfold State.enlist State.dropWork
  rw [State.modPkg_modPkg, State.pkg_modPkg_self]
  rfl

section

variable {u : State} {w : Work} {consts : List Word} (hw : (u.pkg p).works = [w]) (hl : (u.pkg p).launches = [])

include hl

theorem State.acceptLaunch_eq (hpos : 0 < parcelsOf w.dw) (hc : u.readConsts p (pktJob w.dw) (dwOf w.dw 4) 7 = .ok (u, consts)) :
    u.acceptLaunch p w = some ((u.enlist p 0 w).dealt p 0 (w.dieEntry consts) 4) := by
  have hfree : (List.range 64).find? (fun i => !(u.pkg p).launches.has i) = some 0 := by
    rw [hl]
    rfl
  unfold State.acceptLaunch
  dsimp only
  rw [hfree, hc]
  dsimp only
  rw [if_neg hpos.ne']
  rfl

include hw

theorem State.launchAccepted_enlist : LaunchAccepted p u ((u.enlist p 0 w).dealt p 0 (w.dieEntry consts) 4) w consts := by
  unfold LaunchAccepted
  rw [State.pkg_dealt, State.pkg_enlist, hw, hl]
  refine ⟨w.launch (u.pkg p), rfl, rfl, rfl, rfl, rfl, rfl, by simp, toNat_priority _ _, fun d hd => ?_⟩
  rw [State.dieLaunch_dealt _ hd]
  exact ⟨rfl, rfl⟩

end

theorem State.queue_enlist_dealt (u : State) (w : Work) (g : Nat → DieLaunch) (m n : Nat) : ((u.enlist p ls w).dealt p ls g m).queue p n = u.queue p n := by
  unfold State.queue
  rw [State.pkg_dealt, State.pkg_enlist]

theorem State.launchWork_of_only {w : Work} {n : Nat} (hw : (s.pkg p).works = [w]) (hn : w.q = n) (ht : pktType w.dw = 1) : s.launchWork p n = some w := by
  unfold State.launchWork
  rw [hw]
  exact List.find?_cons_of_pos (by simp [hn, ht])

theorem execLaunch_accepts {w : Work} {consts : List Word} (up : s.frontUp s.arg.a = true) (hw : (s.pkg s.arg.a).works = [w]) (hn : w.q = s.arg.b % 4096)
    (ht : pktType w.dw = 1) (hpos : 0 < parcelsOf w.dw) (hl : (s.pkg s.arg.a).launches = [])
    (hc : s.readConsts s.arg.a (pktJob w.dw) (dwOf w.dw 4) 7 = .ok (s, consts)) : ∃ t, execLaunch s = .next t ∧ LaunchAccepted s.arg.a s t w consts := by
  refine ⟨_, ?_, State.launchAccepted_enlist hw hl⟩
  unfold execLaunch
  rw [State.launchWork_of_only hw hn ht]
  dsimp only
  rw [if_pos up, State.acceptLaunch_eq hl hpos hc]

end

/-! ### LAUNCH_ACCEPT (R81) -/

section

variable {s : State} {p n pa rpa : Nat} {dw : List Word}

theorem State.launchReady_of_read (hr : s.readPacket p (s.queue p n) = .ok (pa, dw)) (hf : (s.queue p n).full = true) (hq : (s.queue p n).reads = true)
    (hg : (s.gang p (pktJob dw)).phase.bars = false) : s.launchReady p n = true := by
  simp [State.launchReady, hr, hf, hq, hg]

theorem State.launchWaits_not (hg : (s.gang p (pktJob dw)).phase.bars = false) (hlow : ∀ e ∈ (s.pkg p).queues, n ≤ e.1 ∨ s.launchReady p e.1 = false)
    (hslots : (s.pkg p).slotsTaken < 64) : s.launchWaits p n (pktJob dw) = false := by
  have hlower : (s.pkg p).queues.any (fun e => decide (e.1 < n) && s.launchReady p e.1) = false := by
    rw [List.any_eq_false]
    intro e he h
    rw [Bool.and_eq_true, decide_eq_true_iff] at h
    obtain hn | hn := hlow e he
    · omega
    · exact absurd h.2 (ne_true_of_eq_false hn)
  unfold State.launchWaits
  rw [hlower, hg, decide_eq_false (by omega)]
  rfl

theorem Queue.reads_iff (q : Queue) : q.reads = true ↔ q.enabled = true ∧ q.failed = false ∧ q.ridx ≠ q.widx ∧ q.consumed = none ∧ q.dep = none := by
  simp [Queue.reads, and_assoc]

/-- The LAUNCH at queue n's head has been consumed and has begun as the only work of its package. -/
def State.launchBegun (s : State) (p n : Nat) (dw : List Word) : State :=
  (s.modQueue p n fun q => { q with
    ridx := q.ridx + 1, wait := false, full := false, nextId := q.nextId + 1, running := q.running.insert (s.queue p n).nextId }).modPkg p fun x =>
      { x with works := [{ q := n, id := (s.queue p n).nextId, dw := dw }] }

/-- A statement's spelling of that state, with memory written. -/
theorem State.launchBegun_withMem (s : State) (p n : Nat) (dw : List Word) (m : Cells) :
    { (s.modQueue p n fun q => { q with
        ridx := q.ridx + 1, wait := false, full := false, nextId := q.nextId + 1, running := q.running.insert (s.queue p n).nextId }).modPkg p (fun x =>
          { x with works := [{ q := n, id := (s.queue p n).nextId, dw := dw }] }) with mem := m } = (s.withMem m).launchBegun p n dw := rfl

theorem State.works_launchBegun (s : State) (p n : Nat) (dw : List Word) :
    ((s.launchBegun p n dw).pkg p).works = [{ q := n, id := (s.queue p n).nextId, dw := dw }] := by
  simp [State.launchBegun]

theorem State.launches_launchBegun (s : State) (p n : Nat) (dw : List Word) : ((s.launchBegun p n dw).pkg p).launches = (s.pkg p).launches := by
  simp [State.launchBegun, State.modQueue]

theorem State.ridx_launchBegun (s : State) (p n : Nat) (dw : List Word) : ((s.launchBegun p n dw).queue p n).ridx = (s.queue p n).ridx + 1 := by
  simp [State.launchBegun, State.modQueue, State.queue]

theorem State.beginPacket_taken (hworks : (s.pkg p).works = []) (hq : (s.queue p n).reads = true) (ht : pktType dw = 1) (ha : pktAcquire dw < 3) :
    (s.taken p n dw).beginPacket p n dw = s.launchBegun p n dw := by
  obtain ⟨-, -, -, hcons, hdep⟩ := (Queue.reads_iff _).mp hq
  unfold State.beginPacket
  dsimp only
  rw [State.queue_taken, ht, if_neg (by decide), State.acquire_below _ p ha, State.taken, State.modQueue_modQueue, State.launchBegun,
    State.modQueue_congr s p n (g := fun q => { q with
      ridx := q.ridx + 1, wait := false, full := false, nextId := q.nextId + 1, running := q.running.insert (s.queue p n).nextId })]
  · exact State.modPkg_congr (by simp [hworks])
  · simp [hcons, hdep]

/-- The LAUNCH dw waits whole at the head of queue n, its ring slot pa and its read-index word rpa in host memory; it passes its checks, no lower queue's LAUNCH comes before
it, and nothing else of the package is at work (R63, R81). -/
structure State.LaunchNext (s : State) (p n pa rpa : Nat) (dw : List Word) : Prop where
  read : s.readPacket p (s.queue p n) = .ok (pa, dw)
  full : (s.queue p n).full = true
  reads : (s.queue p n).reads = true
  valid : (dwOf dw 0).getLsbD 15 = true
  isLaunch : pktType dw = 1
  checked : pktCode (s.queue p n) dw = none
  xlated : s.pktXlate p (s.queue p n) dw = true
  index : s.feWalk p (s.queue p n).job (s.queue p n).qridx true = some rpa
  ringAtHost : paPeer pa = hostPeer
  indexAtHost : paPeer rpa = hostPeer
  noBarrier : pktBarrier dw = false
  noAcquire : pktAcquire dw < 3
  parcels : 0 < parcelsOf dw
  admitted : (s.gang p (pktJob dw)).phase.bars = false
  noWork : (s.pkg p).works = []
  noLaunch : (s.pkg p).launches = []
  lowest : ∀ e ∈ (s.pkg p).queues, n ≤ e.1 ∨ s.launchReady p e.1 = false
  slots : (s.pkg p).slotsTaken < 64

/-- The waiting LAUNCH is consumed, begins and is accepted. -/
theorem execLaunchAccept_accepts {m : Cells} {consts : List Word} (hp : s.arg.a = p) (hn : s.arg.b % 4096 = n) (up : s.frontUp p = true) (h : s.LaunchNext p n pa rpa dw)
    (hm : m = (s.mem.writeN pa 8 (dwOf dw 0 &&& ~~~0x8000)).writeN rpa 8 (((s.queue p n).ridx + 1).setWidth 64 : Word)) {u : State}
    (hu : u = (s.withMem m).launchBegun p n dw) (hconsts : u.readConsts p (pktJob dw) (dwOf dw 4) 7 = .ok (u, consts)) :
    ∃ t, execLaunchAccept s = .next t ∧ LaunchAccepted p u t { q := n, id := (s.queue p n).nextId, dw := dw } consts ∧ (t.queue p n).ridx = (s.queue p n).ridx + 1 := by
  have hworks : (u.pkg p).works = [{ q := n, id := (s.queue p n).nextId, dw := dw }] := hu ▸ State.works_launchBegun (s.withMem m) p n dw
  have hl : (u.pkg p).launches = [] := hu ▸ (State.launches_launchBegun (s.withMem m) p n dw).trans h.noLaunch
  have htake : s.consume p n = (s.withMem m).taken p n dw := by
    rw [hm]
    exact State.consume_takes h.read h.valid h.checked h.xlated (fun _ => State.launchWaits_not h.admitted h.lowest h.slots) h.index h.ringAtHost h.indexAtHost
  have hbegin : ((s.withMem m).taken p n dw).beginPacket p n dw = u :=
    hu ▸ State.beginPacket_taken (s := s.withMem m) h.noWork h.reads h.isLaunch h.noAcquire
  have hready : s.launchReady p n = true := State.launchReady_of_read h.read h.full h.reads h.admitted
  have hlowest : (s.pkg p).queues.all (fun e => decide (n ≤ e.1) || !s.launchReady p e.1) = true := by simpa using h.lowest
  have hconsumed : (((s.withMem m).taken p n dw).queue p n).consumed = some dw := by rw [State.queue_taken]
  have hbarred : ¬(((s.withMem m).taken p n dw).queue p n).barred = true := by simp [State.queue_taken, Queue.barred, h.noBarrier]
  have hfailed : ¬(((s.withMem m).taken p n dw).queue p n).failed = true := by
    rw [State.queue_taken]
    exact ne_true_of_eq_false ((Queue.reads_iff _).mp h.reads).2.1
  refine ⟨_, ?_, State.launchAccepted_enlist hworks hl, ?_⟩
  · unfold execLaunchAccept
    rw [hp, hn]
    dsimp only
    rw [if_pos ⟨up, h.slots, hready, hlowest⟩, htake, hconsumed]
    dsimp only
    rw [if_neg (not_or.mpr ⟨hbarred, hfailed⟩), hbegin, State.launchWork_of_only hworks rfl h.isLaunch]
    dsimp only
    rw [State.acceptLaunch_eq (w := { q := n, id := (s.queue p n).nextId, dw := dw }) hl h.parcels hconsts]
    rfl
  · rw [State.queue_enlist_dealt, hu]
    exact State.ridx_launchBegun (s.withMem m) p n dw

end

/-! ### The obligation -/

/-- Settles O49, from the lemmas for each event. -/
theorem queuePackets : Obligations.QueuePackets := by
  intro s p up n q home
  have quiet {pa : Nat} (h : home pa) : s.quietLine (pa / 256) := ⟨h.2.1, h.2.2⟩
  refine ⟨fun ev pa dw hev hreads hfull hr => ⟨exec_reads_unset rfl rfl up hev hreads hfull hr, fun c hv hc => exec_reads_fails rfl rfl up hev hreads hfull hr hv hc,
      fun rpa hv hc hx ht hi hpa hrpa => exec_reads_takes rfl rfl up hev hreads hfull hr hv hc hx ht hi hpa hrpa⟩,
    fun dw hc hf hb hd => execPacketBegin_begins rfl rfl up hc hf hb hd, fun w ev op pa hw ht hev hop hp hh hpo => ?_,
    fun w pa ev hev hw hn ht hd hf hr ha hp hh hpo => ?_, fun w ev pa pb hk hw ht hev hmore hr hp hp' hh hh' hpa hpb hpo => ?_,
    fun w consts hw hn ht hpos hl hc => execLaunch_accepts up hw hn ht hpos hl hc,
    fun pa rpa dw consts hread hfull hreads hv ht hc hx hi hpa hrpa hb ha hpos hg hworks hl hlow hslots hconsts => ?_⟩
  · simp only [List.mem_cons, Prod.mk.injEq, List.not_mem_nil, or_false] at hev
    obtain ⟨rfl, rfl⟩ | ⟨rfl, rfl⟩ | ⟨rfl, rfl⟩ := hev
    · exact signal_performs (execSignalStore_eq hw ht hop) hp hh.1 (quiet hh) hpo
    · exact signal_performs (execSignalAdd_eq hw ht hop) hp hh.1 (quiet hh) hpo
    · have h := signal_performs (ev := .signalSubtract) (execSignalSubtract_eq hw ht hop) hp hh.1 (quiet hh) hpo
      rwa [← sub_eq_add_neg] at h
  · rw [exec_polls rfl rfl up hev, State.dependPoll_at_home hw hn ht hd hf hr hp hh.1 (quiet hh) hpo]
    exact ⟨fun hv => congrArg _ (State.dependRead_holds hw hn hd ha ((dependHolds_iff _ _).mpr hv)),
      fun hv => congrArg _ (State.dependRead_holds_not fun h => hv ((dependHolds_iff _ _).mp h))⟩
  · have hm : 1 ≤ pieceOf w.dw w.moved := pieceOf_pos (by omega)
    obtain ⟨hmem, hworks, hqueue⟩ := State.copyPiece_at_home hw rfl hmore hr hp hp' hh.1 hh'.1 (State.quietAt_of_quietLine hm hpa (quiet hh))
      (State.quietAt_of_quietLine hm hpb (quiet hh')) hpo
    exact ⟨_, exec_copies up hk ht hev, hmem, hworks, hqueue w.q⟩
  · exact execLaunchAccept_accepts rfl rfl up ⟨hread, hfull, hreads, hv, ht, hc, hx, hi, hpa, hrpa, hb, ha, hpos, hg, hworks, hl, hlow, hslots⟩ rfl
      (State.launchBegun_withMem s p n dw _) hconsts

end Sys2Proof.Machine

end

section

/-! # Threads that begin, move, end and keep a checkpoint: one lemma for each instruction of O30 -/

namespace Sys2Proof.Machine

/-! ### The payload of a SPAWN packet (log entry 10) -/

/-- A payload with a word in one of its dwords and nothing else. -/
def dwordAt (i : Nat) (v : Word) : BitVec 2048 := v.setWidth 2048 <<< (64 * i)

theorem bits_dwordAt (i : Nat) (v : Word) {k : Nat} (hk : k < 32) : (bits (dwordAt i v) (64 * k) 64 : Word) = if k = i then v else 0 := by
  apply BitVec.eq_of_getLsbD_eq
  intro j hj
  have hin : 64 * k + j < 2048 := by omega
  unfold bits dwordAt
  simp only [BitVec.getLsbD_extractLsb', BitVec.getLsbD_shiftLeft, BitVec.getLsbD_setWidth, hj, hin, decide_true, Bool.true_and]
  by_cases h : k = i
  · subst h
    rw [if_pos rfl, Nat.add_sub_cancel_left]
    simp [show j < 2048 by omega]
  · rw [if_neg h]
    rcases Nat.lt_or_gt_of_ne h with hlt | hgt
    · simp [show 64 * k + j < 64 * i by omega]
    · simp [BitVec.getLsbD_of_ge v (64 * k + j - 64 * i) (by omega)]

theorem bits_foldl_dwordAt (r : Nat → Word) (n : Nat) {k : Nat} (hk : k < 32) :
    (bits ((List.range n).foldl (fun x i => x ||| dwordAt (1 + i) (r i)) 0) (64 * k) 64 : Word) = if 1 ≤ k ∧ k ≤ n then r (k - 1) else 0 := by
  induction n with
  | zero =>
    rw [if_neg (by omega)]
    exact BitVec.extractLsb'_zero
  | succ n ih =>
    rw [List.range_succ, List.foldl_append, List.foldl_cons, List.foldl_nil, Laws.bits_or, ih, bits_dwordAt _ _ hk]
    by_cases h : k = 1 + n
    · subst h
      rw [if_neg (by omega), if_pos rfl, if_pos (by omega), Nat.add_sub_cancel_left]
      exact BitVec.zero_or
    · rw [if_neg h]
      exact BitVec.or_zero.trans (if_congr (by omega) rfl rfl)

/-- The dwords that flags, parcel, home core and registers take in a payload. -/
theorem taskPayload_dword (flags : BitVec 8) (par : ParcelId) (regs : Nat → Word) {k : Nat} (hk : k < 25) :
    (bits (taskPayload flags par regs) (64 * k) 64 : Word) =
      if k = 0 then (0 : BitVec 1) ++ BitVec.ofNat 23 par.home ++ par.parcel ++ flags else regs (k - 1) := by
  have h32 : k < 32 := by omega
  change bits (dwordAt 0 _ ||| (List.range 24).foldl (fun x i => x ||| dwordAt (1 + i) (regs i)) 0 ||| dwordAt 25 par.org0 ||| dwordAt 26 par.org1 ||| dwordAt 27 par.org2 |||
    dwordAt 28 par.len0 ||| dwordAt 29 par.len1 ||| dwordAt 30 par.len2 ||| dwordAt 31 (BitVec.ofNat 64 par.launch)) (64 * k) 64 = _
  have hne {i : Nat} (hi : 25 ≤ i) (v : Word) : (bits (dwordAt i v) (64 * k) 64 : Word) = 0 := by rw [bits_dwordAt _ _ h32, if_neg (by omega)]
  simp only [Laws.bits_or, hne (Nat.le_refl 25), hne (show 25 ≤ 26 by decide), hne (show 25 ≤ 27 by decide), hne (show 25 ≤ 28 by decide), hne (show 25 ≤ 29 by decide),
    hne (show 25 ≤ 30 by decide), hne (show 25 ≤ 31 by decide), bits_foldl_dwordAt _ _ h32, bits_dwordAt 0 _ h32]
  by_cases h : k = 0
  · subst h
    simp
  · simp [h, show 1 ≤ k ∧ k ≤ 24 by omega]

/-! ### SPAWN (R88, R331) -/

/-- An operation that its reply ends has its result on its way, and stands until then. -/
theorem Slot.performed_atReply {t : Slot} {o : Op} (r : Reply) (hf : t.framed = false) (ho : t.op o.id = some o) (ha : o.kind.atReply = true) (hfl : o.flag ≠ none) :
    t.performed o r = { t.modOp o.id fun o => { o with phase := .done } with replies := t.replies ++ [{ r with dest := o.dest, wakes := some o.id }] } := by
  unfold Slot.performed
  simp only [ho, Option.isNone_some, Bool.false_eq_true, if_false, hfl, false_and, and_false, ha, if_true, Slot.intoFrame_free _ _ hf]

@[simp] theorem Slot.began_replies (t : Slot) (st : BitVec 2) (d : BitVec 5) (flag : Option (BitVec 3)) (h : Hold) (o : Op) : (t.began st d flag h o).replies = t.replies := by
  unfold Slot.began Slot.took
  dsimp only
  split <;> cases t.destOf d <;> cases flag <;> rfl

@[simp] theorem Slot.began_par (t : Slot) (st : BitVec 2) (d : BitVec 5) (flag : Option (BitVec 3)) (h : Hold) (o : Op) : (t.began st d flag h o).par = t.par := by
  unfold Slot.began Slot.took
  dsimp only
  split <;> cases t.destOf d <;> cases flag <;> rfl

theorem badAddr_iff (w : Word) : badAddr w ↔ (w.getLsbD 0 || w.getLsbD 63) = true := by
  have hw := w.isLt
  unfold badAddr
  rw [Bool.or_eq_true, BitVec.getLsbD, BitVec.getLsbD, Nat.testBit_eq_decide_div_mod_eq, Nat.testBit_eq_decide_div_mod_eq, decide_eq_true_eq, decide_eq_true_eq]
  omega

/-- The operation that SPAWN issues: its target core, the start address and w16 to w19. -/
def State.spawnOp (s : State) (f : BitVec 3) (a b : BitVec 5) (p : BitVec 4) (st : BitVec 2) : Op :=
  s.me.newOp (.spawn f a b p st)
    { kind := .spawn, st := st, pm := p, a := s.rd a, b := s.rd b, flag := some f, vec := (s.me.w 19 ++ s.me.w 18 ++ s.me.w 17 ++ s.me.w 16).setWidth 512 }

/-- What a SPAWN of the current thread leaves that fails at its source. -/
def State.spawnFailed (s : State) (st : BitVec 2) (f : BitVec 3) (o : Op) : State :=
  s.withMe { s.me.began st 0 (some f) .none { o with phase := .done } with
    replies := s.me.replies ++ [{ dest := o.dest, flag := o.flag.map fun f => (f, some false), wakes := some o.id }] }

/-- The packet of a SPAWN. -/
def State.spawnPacket (s : State) (o : Op) (m : Nat) : Pkt :=
  { s.packetOf o 0 0x07 s.myPeer m 0 with
    fn := taskSpawn, operand := o.b, payload := taskPayload 0 s.me.par fun i => if i < 4 then (bits o.vec (64 * i) 64 : Word) else 0, plen := 256 }

section

variable {s : State} {st : BitVec 2} {f : BitVec 3} {o : Op} {m : Nat}

theorem State.liveOf_withMe (s : State) (t : Slot) (job : BitVec 12) (par : ParcelId) : (s.withMe t).liveOf job par = s.liveOf job par := rfl

theorem State.addLive_withMe (s : State) (t : Slot) (job : BitVec 12) (par : ParcelId) (up : Bool) : (s.withMe t).addLive job par up = (s.addLive job par up).withMe t := by
  unfold State.addLive
  rw [State.core_withMe]
  dsimp only
  split <;> rfl

theorem State.addLive_eq (s : State) (job : BitVec 12) (par : ParcelId) (up : Bool) : ∃ cs, s.addLive job par up = { s with cores := cs } := by
  unfold State.addLive
  dsimp only
  split <;> exact ⟨_, rfl⟩

theorem State.lockstep_addLive (s : State) (job : BitVec 12) (par : ParcelId) (up : Bool) (c : Nat) :
    ((s.addLive job par up).core c).crew.bind.lockstep = (s.core c).crew.bind.lockstep := by
  unfold State.addLive State.modCrew
  dsimp only
  split <;>
  · rw [State.core_modCore]
    split
    · next h => rw [h]
    · rfl

section

variable (hf : s.fresh) (hk : o.kind = .spawn) (hfl : o.flag ≠ none)

include hf hk hfl in
theorem State.performed_spawnFails : (s.withMe (s.me.began st 0 (some f) .none o)).performed s.cur o { flag := o.flag.map fun f => (f, some false) } = s.spawnFailed st f o := by
  rw [State.performed_alone (s := s.withMe _) hf.2, State.withMe_modSlot, Slot.performed_atReply _ (Slot.began_framed ..) (Slot.op_one _ o rfl) (by rw [hk]; rfl) hfl,
    Slot.modOp_began, Slot.began_replies]
  rfl

include hf hk hfl in
theorem State.beginSpawn_badAddr (hb : badAddr o.b) : (s.withMe (s.me.began st 0 (some f) .none o)).beginSpawn s.cur o = s.spawnFailed st f o :=
  (if_pos ((badAddr_iff _).mp hb)).trans (State.performed_spawnFails hf hk hfl)

variable (hm : m < 1024) (ha : o.a = BitVec.ofNat 64 (s.myPeer * 1024 + m)) (hp : s.myPeer < 2 ^ 13) (hb : ¬badAddr o.b)

include hm ha hp

theorem toNat_ownCore : o.a.toNat = s.myPeer * 1024 + m := by rw [ha, BitVec.toNat_ofNat, Nat.mod_eq_of_lt (by omega)]

/-- A core of the own die is not refused (R40). -/
theorem State.coreRefused_own (t : Slot) : (s.withMe t).coreRefused s.cur o.a = none := by
  have hn := toNat_ownCore hm ha hp
  have hhigh : (bits o.a 23 41 : BitVec 41) = 0 := by
    apply BitVec.eq_of_toNat_eq
    unfold bits
    rw [BitVec.extractLsb'_toNat, hn, Nat.shiftRight_eq_div_pow, Nat.div_eq_of_lt (by omega)]
    rfl
  unfold State.coreRefused
  rw [if_neg (fun h => h hhigh), if_pos]
  show o.a.toNat / 1024 = s.myPeer
  omega

include hb

include hf hk hfl in
theorem State.beginSpawn_full (hl : 65535 ≤ s.liveOf s.me.job s.me.par) : (s.withMe (s.me.began st 0 (some f) .none o)).beginSpawn s.cur o = s.spawnFailed st f o := by
  unfold State.beginSpawn
  dsimp only
  rw [if_neg (fun h => hb ((badAddr_iff _).mpr h)), State.coreRefused_own hm ha hp, State.slot_withMe_cur, Slot.began_job, Slot.began_par, State.liveOf_withMe]
  exact (if_pos hl).trans (State.performed_spawnFails hf hk hfl)

/-- The parcel counts the thread to come, and its packet has arrived at its core's die. -/
theorem State.beginSpawn_sends (hl : s.liveOf s.me.job s.me.par < 65535) : (s.withMe (s.me.began st 0 (some f) .none o)).beginSpawn s.cur o =
    ({ s.addLive s.me.job s.me.par true with net := s.net ++ [{ pkt := s.spawnPacket o m, loc := .arrived s.myPeer }] } : State).withMe
      (s.me.began st 0 (some f) .none { o with phase := .sent }) := by
  have hn := toNat_ownCore hm ha hp
  obtain ⟨cs, hcs⟩ := State.addLive_eq s s.me.job s.me.par true
  unfold State.beginSpawn
  dsimp only
  rw [if_neg (fun h => hb ((badAddr_iff _).mpr h)), State.coreRefused_own hm ha hp, State.slot_withMe_cur, Slot.began_job, Slot.began_par, State.liveOf_withMe]
  dsimp only
  rw [if_neg (by omega), State.addLive_withMe, hcs]
  unfold State.taskPacket
  rw [State.slot_withMe_cur, Slot.began_job, show o.a.toNat / 1024 = s.myPeer by omega, show o.a.toNat % 1024 = m by omega]
  refine (congrArg (State.setPhase · s.cur o.id .sent) (State.send_self (peer := s.myPeer) rfl rfl hp)).trans ?_
  exact State.setPhase_began s.me st 0 (some f) .none o
    ({ s with cores := cs, net := s.net ++ [{ pkt := s.spawnPacket o m, loc := .arrived s.myPeer }] } : State) .sent

end

end

/-! ### MIGR, EXIT and YIELD (R133, R134, R332, R333) -/

section

variable {s : State} {f : BitVec 3} {a b : BitVec 5} {p : BitVec 4} {st : BitVec 2}

theorem exec_spawn_fails (hb : s.me.busy { regs := [a, b, 24, 25, 26, 27], flags := [f] } = false) (hf : s.fresh)
    (h : (s.withMe (s.me.began st 0 (some f) .none (s.spawnOp f a b p st))).beginSpawn s.cur (s.spawnOp f a b p st) = s.spawnFailed st f (s.spawnOp f a b p st)) :
    ∃ o, exec (.spawn f a b p st) s = .next (s.withMe { s.me.began st 0 (some f) .none o with
      replies := s.me.replies ++ [{ dest := .none, flag := some (f, some false), wakes := some s.me.opId }] }) ∧ s.outstanding o st p .done := by
  refine ⟨{ s.spawnOp f a b p st with phase := .done }, ?_, rfl, rfl, rfl, rfl, rfl, rfl⟩
  change execSpawn f a b p st s = _
  apply State.streamOp_gives (d := 0)
  exacts [rfl, hb, hf, rfl, rfl, fun _ => nofun, h, hf.2]

/-- A thread whose frames are all but one in the spill area has none to spill (R119, R133). -/
theorem State.spillAll_of_resident (h : s.me.resident.toNat ≤ 1) (n : Nat) : State.spillAll n s = .ok s := by
  cases n with
  | zero => rfl
  | succ n => exact if_pos h

theorem exec_migr_traps (hb : s.me.busy { regs := [a], flags := [f] } = false) (h : s.me.loops ≠ [] ∨ (s.rd a).getLsbD 63 = true) :
    Traps s (.migr f a p st) 0x01 0 ((encode (.migr f a p st)).setWidth 64) := by
  unfold Traps
  change execMigr f a p st s = _
  unfold execMigr
  rw [issue_ok rfl hb]
  exact congrArg _ (if_pos (by simpa using h))

theorem exec_migr_held (hb : s.me.busy { regs := [a], flags := [f] } = false) (hf : s.fresh) (hl : s.me.loops = []) (h63 : (s.rd a).getLsbD 63 = false)
    (hr : s.me.resident.toNat ≤ 1) :
    ∃ o, exec (.migr f a p st) s = .next (s.withMe (s.me.began st 0 (some f) (.localOp s.me.opId) o)) ∧ s.outstanding o st p .held := by
  generalize hx : ({ kind := .migr, st := st, pm := p, a := s.rd a, flag := some f, held := true } : Issue) = x
  refine ⟨s.me.newOp (.migr f a p st) x, ?_, ?_⟩
  · have hq : s.me.replayQueue = [] := by unfold Slot.replayQueue; rw [hf.1]; rfl
    have hroom := Slot.hasRoom_fresh s.me st.toNat hf.1
    have hbegan : s.me.issueOp (.migr f a p st) x = s.me.began st 0 (some f) (.localOp s.me.opId) (s.me.newOp (.migr f a p st) x) := by
      subst hx
      exact Slot.issueOp_eq_began (d := 0) hf.1 rfl rfl
    change execMigr f a p st s = _
    unfold execMigr
    rw [issue_ok rfl hb]
    simp only [hl, h63, hroom, hq, State.spillAll_of_resident hr, hx, ne_eq, not_true_eq_false, decide_false, Bool.or_self, Bool.false_eq_true, if_false, Bool.not_true,
      List.length_nil, Bool.false_and, Nat.reduceLeDiff]
    rw [State.issueOp_fresh _ _ _ hf.1, State.inOrder_of_not_fe _ _ _ _ (by subst hx; nofun), hbegan]
    subst hx
    exact congrArg _ (State.syncPair_of_alone (s := s.withMe _) hf.2)
  · subst hx
    exact ⟨rfl, rfl, rfl, rfl, rfl, rfl⟩

theorem exec_exit (hb : s.me.busy {} = false) (hf : s.fresh) : exec (.exit p st) s = .next (s.withMe { s.me with
    st := .exiting, hold := .none, waited := 0, issued := s.me.issued + 1,
    streams := s.me.streams.set st.toNat { s.me.stream st.toNat with next := (s.me.stream st.toNat).next + 1 } }) := by
  change execExit p st s = _
  unfold execExit
  rw [issue_ok rfl hb]
  exact congrArg _ (if_pos (Slot.hasRoom_fresh s.me st.toNat hf.1))

/-- An operation without a result that performs at its issue, whatever its mask. -/
theorem State.issueNow_fresh {i : Instr} {x : Issue} (hf : s.fresh) (hl : ilen i = 4) (hd : x.dest = .none) (hfl : x.flag = none) (hh : x.held = false)
    (ha : x.kind.atReply = false) : s.issueNow i x (fun s _ => s) = s.withMe (s.me.ended x.st 0 0 none 0 false) := by
  have hbegan : s.modMe (fun t => t.issueOp i x) = s.withMe (s.me.began x.st 0 none .none (s.me.newOp i x)) := by
    rw [State.modMe_eq_withMe, Slot.issueOp_eq_began (d := 0) hf.1 hl hd, hfl]
    unfold Issue.holds
    rw [hh]
    rfl
  unfold State.issueNow
  dsimp only
  rw [Slot.hasRoom_fresh s.me _ hf.1, hbegan, State.withMe_cur, State.slot_withMe_cur, show (s.me.began x.st 0 none .none (s.me.newOp i x)).op s.me.opId = _ from Slot.op_one _ (s.me.newOp i x) rfl]
  exact State.performedNone_began hf rfl hd hfl ha

theorem exec_yield (hb : s.me.busy {} = false) (hf : s.fresh) : exec (.yield p st) s = .next (s.withMe { s.me.ended st 0 0 none 0 false with skip := true }) := by
  change execYield p st s = _
  unfold execYield
  rw [issue_ok rfl hb]
  dsimp only
  rw [if_pos (Slot.hasRoom_fresh s.me st.toNat hf.1), State.issueNow_fresh hf rfl rfl rfl rfl rfl, State.withMe_modMe]

end

/-! ### CKPT (R143, R334) -/

/-- Where no region is bound and no stash word poisoned, a store at an offset of a stash writes its bytes. -/
theorem State.stashStore_plain {w : Nat} {s : State} {c off n : Nat} (v : BitVec w) (hb : s.boundHere c off = none) (hp : s.stashPoison = []) :
    s.stashStore c off n v = { s with stash := s.stash.writeN (stashKey c off) n v } := by
  unfold State.stashStore State.stashTouch
  rw [hb]
  dsimp only
  rw [stashDirty_plain n hb]
  exact if_pos hp

/-- The first n dwords that a function gives, written from an address on. -/
def Cells.writeDwords (m : Cells) (a : Nat) (f : Nat → Word) (n : Nat) : Cells := (List.range n).foldl (fun m j => m.writeN (a + 8 * j) 8 (f j)) m

theorem Cells.writeDwords_succ (m : Cells) (a : Nat) (f : Nat → Word) (n : Nat) : Cells.writeDwords m a f (n + 1) = (Cells.writeDwords m a f n).writeN (a + 8 * n) 8 (f n) := by
  unfold Cells.writeDwords
  rw [List.range_succ, List.foldl_append]
  rfl

theorem Cells.wf_writeDwords {m : Cells} (a : Nat) (f : Nat → Word) (n : Nat) (h : m.wf = true) : (Cells.writeDwords m a f n).wf = true :=
  foldl_keeps (P := fun m : Cells => m.wf = true) (fun _ _ => Cells.wf_writeN _ _ _) _ _ h

theorem Cells.read_writeDwords_out (m : Cells) (a : Nat) (f : Nat → Word) (n : Nat) {k : Nat} (h : k < a ∨ a + 8 * n ≤ k) :
    (Cells.writeDwords m a f n).read k = m.read k := by
  induction n with
  | zero => rfl
  | succ n ih => rw [Cells.writeDwords_succ, Cells.read_writeN_out _ _ _ _ _ (by omega), ih (by omega)]

theorem Cells.readN_writeDwords {m : Cells} (a : Nat) (f : Nat → Word) {n j : Nat} (hj : j < n) (h : m.wf = true) :
    (Cells.writeDwords m a f n).readN (a + 8 * j) 8 = f j := by
  induction n with
  | zero => exact absurd hj (Nat.not_lt_zero j)
  | succ n ih =>
    rw [Cells.writeDwords_succ]
    by_cases hn : j = n
    · subst hn
      rw [Cells.readN_writeN _ _ _ (Cells.wf_writeDwords a f j h), BitVec.setWidth_eq]
    · rw [Cells.readN_congr _ _ _ _ fun i hi => Cells.read_writeN_out _ _ _ _ _ (by omega)]
      exact ih (by omega)

theorem Cells.writeDwords_congr (m : Cells) (a : Nat) {f g : Nat → Word} {n : Nat} (h : ∀ j, j < n → f j = g j) : Cells.writeDwords m a f n = Cells.writeDwords m a g n := by
  induction n with
  | zero => rfl
  | succ n ih => rw [Cells.writeDwords_succ, Cells.writeDwords_succ, ih fun j hj => h j (by omega), h n (by omega)]

theorem NMap.find_map_range {V : Type} (f : Nat → V) (l : List Nat) {j : Nat} (hj : j ∈ l) : NMap.find (l.map fun i => (i, f i)) j = some (f j) := by
  induction l with
  | nil => nomatch hj
  | cons i l ih =>
    unfold NMap.find
    rw [List.map_cons]
    dsimp only
    split
    · next h => rw [h]
    · next h => exact ih ((List.mem_cons.mp hj).resolve_left fun e => h e.symm)

theorem contextOf_get (t : Slot) (pc hdr addr : Word) {j : Nat} (hj : j < 320) : (contextOf t pc hdr addr).get 0 j = contextDword t pc hdr addr j := by
  unfold contextOf NMap.get
  rw [NMap.find_map_range _ _ (List.mem_range.mpr hj)]
  rfl

theorem stashKey_add (c off n : Nat) : stashKey c (off + n) = stashKey c off + n := (Nat.add_assoc _ _ _).symm

/-- The pod with other bytes in its stashes. -/
def State.withStash (s : State) (m : Cells) : State := { s with stash := m }

theorem State.modSlot_withStash (s : State) (t : Slot) (m : Cells) (f : Slot → Slot) : ((s.withStash m).withMe t).modSlot s.cur f = (s.withStash m).withMe (f t) :=
  State.withMe_modSlot (s.withStash m) t f

theorem State.withStash_withMe (s : State) (t : Slot) (m : Cells) : (s.withMe t).withStash m = (s.withStash m).withMe t := rfl

theorem State.stash_withStash_withMe (s : State) (t : Slot) (m : Cells) : ((s.withStash m).withMe t).stash = m := rfl

theorem State.withStash_withMe_eq (s : State) (t : Slot) (m : Cells) :
    (s.withStash m).withMe t = { s with stash := ((s.withStash m).withMe t).stash, slots := s.slots.set s.cur t } := rfl

/-- Dwords stored one after the other in a plain part of a stash are there, and nothing else changes. -/
theorem State.foldl_stashStore_plain {s : State} {c off : Nat} (f : Nat → Word) (hp : s.stashPoison = []) {n : Nat} (hb : ∀ i, i < n → s.boundHere c (off + 8 * i) = none) :
    (List.range n).foldl (fun s j => s.stashStore c (off + 8 * j) 8 (f j)) s = s.withStash (Cells.writeDwords s.stash (stashKey c off) f n) := by
  induction n with
  | zero => rfl
  | succ n ih =>
    rw [List.range_succ, List.foldl_append, ih fun i hi => hb i (by omega), List.foldl_cons, List.foldl_nil, Cells.writeDwords_succ]
    generalize Cells.writeDwords s.stash (stashKey c off) f n = m
    rw [State.stashStore_plain (s := s.withStash m) (c := c) (off := off + 8 * n) _ (hb n (Nat.lt_succ_self n)) hp, stashKey_add]
    rfl

/-- The loop unit after a 32-bit instruction of a thread (R129): where it goes on, and its levels. -/
def Slot.after (t : Slot) : Word × List Loop := loopStep t.wdepth (t.pc + 4) t.loops

/-- The context that CKPT writes: the thread with the instruction's number taken and the PC after it, nothing outstanding. -/
def Slot.ckptDword (t : Slot) (st : BitVec 2) (j : Nat) : Word := contextDword { t.took st with loops := t.after.2 } t.after.1 0 0 j

/-- A thread as CKPT writes it shows neither that the CKPT holds it nor the CKPT itself. -/
theorem Slot.ckptDword_began {t u : Slot} {o : Op} {st : BitVec 2} {id : Nat} (ho : t.ops = []) (hu : (t.began st 0 none (.localOp id) o).dropOp o.id = u) (j : Nat) :
    contextDword { u with loops := (u.advance 4).loops } (u.advance 4).pc 0 0 j = t.ckptDword st j := by
  rw [Slot.dropOp_one rfl] at hu
  subst hu
  cases t
  subst ho
  rfl

theorem ckptPlace_own {c off : Nat} {a : Word} (hl : localPlace c a = .stash c off) (hoff : off + 2560 ≤ 0x4_0000) : ckptPlace c a = some off := by
  unfold ckptPlace
  rw [localPlace_stash hl, hl]
  dsimp only
  rw [if_pos rfl, if_pos ⟨rfl, hoff⟩]

/-- A checkpoint of a slot whose CKPT stands among its operations. -/
theorem State.checkpoint_eq {s : State} {k off : Nat} {o : Op} {u : Slot} (ho : (s.slot k).op o.id = some o) (hc : ckptPlace (coreOf k) o.a = some off)
    (hu : (s.slot k).dropOp o.id = u) :
    s.checkpoint k o.id = (s.writeContext (coreOf k) off (contextOf { u with loops := (u.advance 4).loops } (u.advance 4).pc 0 0)).modSlot k fun t =>
      { t with ckpt := some o.a, mismatched := false } := by
  unfold State.checkpoint
  simp only [ho, hc, hu]

section

variable {s : State} {st : BitVec 2} {p : BitVec 4} {a : BitVec 5} {off : Nat} {o : Op} (hf : s.fresh) (hp : s.stashPoison = [])
  (hb : ∀ i, i < 320 → s.boundHere s.myCore (off + 8 * i) = none)

include hf hp hb

omit hf in
theorem State.writeContext_withMe (t : Slot) (x : NMap Word) : (s.withMe t).writeContext s.myCore off x =
    (s.withStash (Cells.writeDwords s.stash (stashKey s.myCore off) (x.get 0 ·) 320)).withMe t := by
  unfold State.writeContext
  rw [State.foldl_stashStore_plain (s := s.withMe t) (x.get 0 ·) hp hb, State.withStash_withMe]
  rfl

/-- The pod with the current thread's context in its core's stash. -/
theorem State.checkpoint_began (hc : ckptPlace s.myCore o.a = some off) :
    (s.withMe (s.me.began st 0 none (.localOp s.me.opId) o)).checkpoint s.cur o.id =
      (s.withStash (Cells.writeDwords s.stash (stashKey s.myCore off) (s.me.ckptDword st) 320)).withMe
        { s.me.began st 0 none (.localOp s.me.opId) o with ckpt := some o.a, mismatched := false } := by
  have ho : ((s.withMe (s.me.began st 0 none (.localOp s.me.opId) o)).slot s.cur).op o.id = some o := by rw [State.slot_withMe_cur, Slot.op_one _ o rfl]
  generalize hu : (s.me.began st 0 none (.localOp s.me.opId) o).dropOp o.id = u
  rw [State.checkpoint_eq ho hc (by rw [State.slot_withMe_cur, hu])]
  refine (congrArg (State.modSlot · s.cur _) (State.writeContext_withMe hp hb _ _)).trans ?_
  rw [Cells.writeDwords_congr _ _ fun j hj => (contextOf_get _ _ _ _ hj).trans (Slot.ckptDword_began hf.1 hu j)]
  exact State.modSlot_withStash s _ _ _

omit hf hp hb

/-- A thread that keeps a checkpoint's address (R334). -/
def Slot.keeps (t : Slot) (a : Word) : Slot := { t with ckpt := some a, mismatched := false }

theorem Slot.began_keeps (t : Slot) (st : BitVec 2) (h : Hold) (o : Op) (a : Word) : (t.began st 0 none h o).keeps a = (t.keeps a).began st 0 none h o := by
  unfold Slot.began
  dsimp only
  split <;> rfl

theorem Slot.ended_keeps (t : Slot) (st : BitVec 2) (a : Word) : (t.ended st 0 0 none 0 true).keeps a = (t.keeps a).ended st 0 0 none 0 true := by
  have hreply (u : Slot) : replyFor u 0 0 none 0 = [] := if_pos ⟨by decide, rfl, rfl⟩
  unfold Slot.ended
  simp only [hreply, ne_eq, not_true_eq_false, and_false, if_false, List.append_nil]
  rfl

include hf

/-- The CKPT has performed, whatever the stashes hold by now. -/
theorem State.performedNone_keeps (m : Cells) (hid : o.id = s.me.opId) (hd : o.dest = .none) (hfl : o.flag = none) :
    ((s.withStash m).withMe { s.me.began st 0 none (.localOp s.me.opId) o with ckpt := some o.a, mismatched := false }).performedNone s.cur o =
      (s.withStash m).withMe { s.me.ended st 0 0 none 0 true with ckpt := some o.a, mismatched := false } := by
  unfold State.performedNone
  rw [State.performed_alone (s := (s.withStash m).withMe _) hf.2, State.modSlot_withStash]
  refine congrArg (s.withStash m).withMe ((congrArg (Slot.performed · o {}) (Slot.began_keeps s.me st (.localOp s.me.opId) o o.a)).trans ?_)
  refine Eq.trans ?_ (Slot.ended_keeps s.me st o.a).symm
  exact Slot.performed_began_held (t := s.me.keeps o.a) hf.1 hid hd hfl (.inl rfl)

theorem State.syncPair_keeps (m : Cells) (t : Slot) : ((s.withStash m).withMe t).syncPair s.myCore = (s.withStash m).withMe t := State.syncPair_of_alone hf.2

include hp hb

/-- The thread with its checkpoint's address kept goes on. -/
theorem State.beginCkpt_began (hc : ckptPlace s.myCore o.a = some off) (hid : o.id = s.me.opId) (hd : o.dest = .none) (hfl : o.flag = none) (hn : s.me.noPending = true)
    (hr : s.me.replies = []) : (s.withMe (s.me.began st 0 none (.localOp s.me.opId) o)).beginCkpt s.cur o =
      (s.withStash (Cells.writeDwords s.stash (stashKey s.myCore off) (s.me.ckptDword st) 320)).withMe
        { s.me.ended st 0 0 none 0 true with ckpt := some o.a, mismatched := false } := by
  have hgo : (s.me.began st 0 none (.localOp s.me.opId) o).ops.length = 1 ∧ (s.me.began st 0 none (.localOp s.me.opId) o).noPending = true ∧
      (s.me.began st 0 none (.localOp s.me.opId) o).replies = [] := ⟨rfl, hn, (Slot.began_replies ..).trans hr⟩
  unfold State.beginCkpt
  rw [State.slot_withMe_cur]
  dsimp only
  rw [if_pos hgo, State.twins_withMe _ _ hf.2, List.foldl_cons, List.foldl_nil, State.checkpoint_began hf hp hb hc]
  exact State.performedNone_keeps hf _ hid hd hfl

end

/-- An aligned place of a stash has an aligned address. -/
theorem localPlace_aligned {c c' off : Nat} {a : Word} (hl : localPlace c a = .stash c' off) (ho : off % 64 = 0) : a.toNat % 64 = 0 := by
  have h63 := localPlace_stash hl
  have hb : 2 ^ 63 ≤ a.toNat := by
    rw [BitVec.getLsbD, Nat.testBit_eq_decide_div_mod_eq, decide_eq_true_eq] at h63
    have := a.isLt
    omega
  have hsub : (a - 0x8000_0000_0000_0000).toNat = a.toNat - 2 ^ 63 := by
    have hc : (0x8000_0000_0000_0000 : Word).toNat = 2 ^ 63 := by decide
    have := a.isLt
    rw [BitVec.toNat_sub, hc]
    omega
  unfold localPlace at hl
  simp only [hsub] at hl
  split at hl
  · simp only [LocalPlace.stash.injEq] at hl
    omega
  · split at hl
    · simp only [LocalPlace.stash.injEq] at hl
      omega
    · split at hl <;> cases hl

/-- The operation that CKPT issues. -/
def State.ckptOp (s : State) (a : BitVec 5) (p : BitVec 4) (st : BitVec 2) : Op := s.me.newOp (.ckpt a p st) { kind := .ckpt, st := st, pm := p, a := s.rd a, held := true }

theorem exec_ckpt {s : State} {a : BitVec 5} {p : BitVec 4} {st : BitVec 2} {off : Nat} (hbusy : s.me.busy { regs := [a] } = false) (hf : s.fresh) (hn : s.me.noPending = true)
    (hr : s.me.replies = []) (hl : localPlace s.myCore (s.rd a) = .stash s.myCore off) (ho : off % 64 = 0) (hoff : off + 2560 ≤ 0x4_0000) (hp : s.stashPoison = [])
    (hb : ∀ i, i < 320 → s.boundHere s.myCore (off + 8 * i) = none) :
    exec (.ckpt a p st) s = .next ((s.withStash (Cells.writeDwords s.stash (stashKey s.myCore off) (s.me.ckptDword st) 320)).withMe
      { s.me.ended st 0 0 none 0 true with ckpt := some (s.rd a), mismatched := false }) := by
  have hplace := ckptPlace_own hl hoff
  change execCkpt a p st s = _
  unfold execCkpt State.streamOp
  rw [issue_ok rfl hbusy]
  simp only [hplace, localPlace_aligned hl ho, Option.isNone_some, Bool.false_eq_true, ne_eq, not_true_eq_false, if_false]
  rw [State.issueOp_fresh _ _ _ hf.1, State.inOrder_of_not_fe _ _ _ _ (by intro fn; nofun), Slot.issueOp_eq_began (d := 0) hf.1 rfl rfl]
  refine congrArg _ ((congrArg (State.syncPair · s.myCore) ?_).trans (State.syncPair_keeps hf _ _))
  exact State.beginCkpt_began (o := s.ckptOp a p st) hf hp hb hplace rfl rfl rfl hn hr

/-! ### The obligation -/

/-- Four registers side by side, each in its dword. -/
theorem bits_fourWords (w : Nat → Word) {i : Nat} (hi : i < 4) :
    (bits ((w 3 ++ w 2 ++ w 1 ++ w 0).setWidth 512 : BitVec 512) (64 * i) 64 : Word) = w i := by
  apply BitVec.eq_of_getLsbD_eq
  intro j hj
  unfold bits
  rw [BitVec.getLsbD_extractLsb', BitVec.getLsbD_setWidth]
  simp only [BitVec.getLsbD_append, hj, decide_true, Bool.true_and, show 64 * i + j < 512 by omega]
  interval_cases i
  · simp [hj]
  · simp [show ¬64 + j < 64 by omega, show 64 + j - 64 = j by omega, hj]
  · simp [show ¬128 + j < 64 by omega, show ¬128 + j - 64 < 64 by omega, show 128 + j - 64 - 64 = j by omega, hj]
  · simp [show ¬192 + j < 64 by omega, show ¬192 + j - 64 < 64 by omega, show ¬192 + j - 64 - 64 < 64 by omega, show 192 + j - 64 - 64 - 64 = j by omega]

/-- The middle one of three values side by side. -/
theorem bits_middle {n m k : Nat} (x : BitVec n) (y : BitVec m) (z : BitVec k) : (bits (x ++ y ++ z) k m : BitVec m) = y := by
  apply BitVec.eq_of_getLsbD_eq
  intro j hj
  unfold bits
  rw [BitVec.getLsbD_extractLsb']
  simp [BitVec.getLsbD_append, hj]

section

variable (s : State) (f : BitVec 3) (a b : BitVec 5) (p : BitVec 4) (st : BitVec 2) (o : Op) (m : Nat)

theorem State.dword_spawnPacket {k : Nat} (hk : k < 25) : (s.spawnPacket o m).dword k =
    if k = 0 then (0 : BitVec 1) ++ BitVec.ofNat 23 s.me.par.home ++ s.me.par.parcel ++ (0 : BitVec 8) else if k - 1 < 4 then (bits o.vec (64 * (k - 1)) 64 : Word) else 0 :=
  taskPayload_dword _ _ _ hk

theorem State.parcel_spawnPacket : (s.spawnPacket o m).parcel.parcel = s.me.par.parcel := by
  change (bits ((s.spawnPacket o m).dword 0) 8 32 : BitVec 32) = _
  rw [State.dword_spawnPacket s o m (by decide), if_pos rfl]
  exact bits_middle ((0 : BitVec 1) ++ BitVec.ofNat 23 s.me.par.home) s.me.par.parcel (0 : BitVec 8)

theorem State.args_spawnPacket {i : Nat} (hi : i < 4) : (s.spawnPacket (s.spawnOp f a b p st) m).dword (1 + i) = s.me.w (16 + i) := by
  rw [State.dword_spawnPacket _ _ _ (by omega), if_neg (by omega), Nat.add_sub_cancel_left, if_pos hi]
  exact bits_fourWords (fun i => s.me.w (16 + i)) hi

end

theorem exec_spawn_sends {s : State} {f : BitVec 3} {a b : BitVec 5} {p : BitVec 4} {st : BitVec 2} {m : Nat} (hb : s.me.busy { regs := [a, b, 24, 25, 26, 27], flags := [f] } = false)
    (hf : s.fresh) (hm : m < 1024) (ha : s.rd a = BitVec.ofNat 64 (s.myPeer * 1024 + m)) (hp : s.myPeer < 2 ^ 13) (hpc : ¬badAddr (s.rd b))
    (hl : s.liveOf s.me.job s.me.par < 65535) :
    exec (.spawn f a b p st) s = .next (({ s.addLive s.me.job s.me.par true with
      net := s.net ++ [{ pkt := s.spawnPacket (s.spawnOp f a b p st) m, loc := .arrived s.myPeer }] } : State).withMe
        (s.me.began st 0 (some f) .none { s.spawnOp f a b p st with phase := .sent })) := by
  change execSpawn f a b p st s = _
  apply State.streamOp_gives (d := 0)
  exacts [rfl, hb, hf, rfl, rfl, fun _ => nofun, State.beginSpawn_sends (o := s.spawnOp f a b p st) hm ha hp hpc hl, (State.lockstep_addLive ..).trans hf.2]

/-- Settles O30, from the lemma for each instruction and outcome. -/
theorem taskInstructions : Obligations.TaskInstructions := by
  refine ⟨fun s f a b p st hb hf => ⟨fun hpc => ?_, fun m hm ha hp hpc => ⟨fun hl => ?_, fun hl => ?_⟩, ?_, ?_, ?_, ?_⟩, fun s a p st off hb hf hn hr hl ho hoff hok hp hbound => ?_⟩
  · exact exec_spawn_fails hb hf (State.beginSpawn_badAddr (o := s.spawnOp f a b p st) hf rfl nofun hpc)
  · exact exec_spawn_fails hb hf (State.beginSpawn_full (o := s.spawnOp f a b p st) hf rfl nofun hm ha hp hpc hl)
  · exact ⟨_, s.spawnPacket (s.spawnOp f a b p st) m, exec_spawn_sends hb hf hm ha hp hpc hl, ⟨rfl, rfl, rfl, rfl, rfl, rfl⟩, rfl, rfl, rfl, rfl, rfl,
      fun i hi => State.args_spawnPacket s f a b p st m hi, State.parcel_spawnPacket s _ m⟩
  · exact exec_migr_held (Slot.busy_of_subset hb (by simp) (by simp) (by simp)) hf
  · exact exec_migr_traps (Slot.busy_of_subset hb (by simp) (by simp) (by simp))
  · exact exec_exit (Slot.busy_of_subset hb (by simp) (by simp) (by simp)) hf
  · exact exec_yield (Slot.busy_of_subset hb (by simp) (by simp) (by simp)) hf
  · have hwf := ((State.memoryOk_iff s).mp hok).2.1
    refine ⟨_, exec_ckpt hb hf hn hr hl ho hoff hp hbound, State.withStash_withMe_eq _ _ _, fun j hj => ?_, fun k hk => ?_⟩
    · unfold State.stashRead
      rw [State.stash_withStash_withMe, stashKey_add]
      exact Cells.readN_writeDwords _ _ hj hwf
    · rw [State.stash_withStash_withMe]
      exact Cells.read_writeDwords_out _ _ _ _ hk

end Sys2Proof.Machine

end

section

/-! # Cobalt: one lemma for each event of O51 -/

namespace Sys2Proof.Machine

/-! ### The eight slots of a core, changed one after the other -/

section

variable {s : State} {b : Nat} {p : Nat → Bool} {f : Nat → Slot → Slot}

/-- Some of the first n slots from b on changed. -/
def State.modSlots (s : State) (b : Nat) (p : Nat → Bool) (f : Nat → Slot → Slot) (n : Nat) : State :=
  (List.range n).foldl (fun s i => if p i then s.modSlot (b + i) (f i) else s) s

theorem State.modSlots_succ (n : Nat) : s.modSlots b p f (n + 1) = if p n then (s.modSlots b p f n).modSlot (b + n) (f n) else s.modSlots b p f n := by
  unfold State.modSlots
  rw [List.range_succ, List.foldl_append]
  rfl

theorem State.modSlots_eq (n : Nat) : ∃ m, s.modSlots b p f n = { s with slots := m } := by
  induction n with
  | zero => exact ⟨s.slots, rfl⟩
  | succ n ih =>
    obtain ⟨m, hm⟩ := ih
    rw [State.modSlots_succ, hm]
    split <;> exact ⟨_, rfl⟩

@[simp] theorem State.core_modSlots (n c : Nat) : (s.modSlots b p f n).core c = s.core c := by
  obtain ⟨m, hm⟩ := State.modSlots_eq (s := s) (b := b) (p := p) (f := f) n
  rw [hm]
  rfl

@[simp] theorem State.dieLaunch_modSlots (n d ls : Nat) : (s.modSlots b p f n).dieLaunch d ls = s.dieLaunch d ls := by
  obtain ⟨m, hm⟩ := State.modSlots_eq (s := s) (b := b) (p := p) (f := f) n
  rw [hm]
  rfl

theorem State.slot_modSlots_above {n j : Nat} (h : b + n ≤ j) : (s.modSlots b p f n).slot j = s.slot j := by
  induction n with
  | zero => rfl
  | succ n ih =>
    rw [State.modSlots_succ]
    split
    · rw [State.slot_modSlot_ne _ _ (by omega), ih (by omega)]
    · exact ih (by omega)

theorem State.slot_modSlots {n i : Nat} (h : i < n) : (s.modSlots b p f n).slot (b + i) = if p i then f i (s.slot (b + i)) else s.slot (b + i) := by
  induction n with
  | zero => omega
  | succ n ih =>
    rw [State.modSlots_succ]
    by_cases hi : i = n
    · subst hi
      split
      · rw [State.slot_modSlot_self, State.slot_modSlots_above (Nat.le_refl _)]
      · exact State.slot_modSlots_above (Nat.le_refl _)
    · rw [← ih (by omega)]
      split
      · exact State.slot_modSlot_ne _ _ (by omega)
      · rfl

end

/-! ### Binding (R78, R83 to R87) -/

section

variable {s : State} {b ls : Nat} {l : Launch}

/-- A die's lowest parcel taken from its own range (R83). -/
def State.tookLowest (s : State) (d ls : Nat) : State := s.modDieLaunch d ls fun e => { e with range := rangeWord (e.lo + 1) e.hi }

theorem State.take_own {d : Nat} (hredo : (s.dieLaunch d ls).redo = []) (h : (s.dieLaunch d ls).lo < (s.dieLaunch d ls).hi) :
    s.take d ls = (s.tookLowest d ls, some (s.dieLaunch d ls).lo) := by
  unfold State.take
  simp only [hredo, h, if_true]
  rfl

/-- What binding writes at a core (R86, R87). -/
def Core.loaded (x : Core) (ls : Nat) (l : Launch) (n order : Nat) (consts : List Word) : Core :=
  { x with
    ran := true, lastJob := l.job,
    crew := { x.crew with
      g := (List.range 7).map fun i => (i + 1, (consts[i]?).getD 0), mb := [], mbFull := 0, heldWrites := [], sems := [], queueHead := 0, queue := [],
      channels := [], matrix := [], bind := bindRecord ls l n, boundAt := x.cycle, order := order } }

theorem Core.loaded_g (x : Core) (n order : Nat) (consts : List Word) {i : Nat} (hi : i < 7) : (x.loaded ls l n order consts).crew.g.get 0 (i + 1) = (consts[i]?).getD 0 := by
  unfold Core.loaded
  interval_cases i <;> rfl

theorem State.dispatch_again {lead n order : Nat} (hran : (s.core b).ran = true) (hjob : (s.core b).lastJob = l.job) :
    s.dispatch b lead ls l n order = (s.modCore b (·.loaded ls l n order (s.dieLaunch (b / 1024) ls).consts)).modSlots (b * 8) (maskOf l.dw).getLsbD
      (fun i t => t.dispatched (dwOf l.dw 1) (sspAt (maskOf l.dw) i) l.job (parcelAt l.dw l.accepted n lead)) 8 := by
  unfold State.dispatch
  simp only [hran, hjob, bne_self_eq_false, Bool.not_true, Bool.or_self, Bool.false_eq_true, if_false]
  rfl

/-- A die with its next bind counted and a launch started there. -/
def State.starts (s : State) (d ls : Nat) : State := (s.modDie d fun x => { x with binds := x.binds + 1 }).modDieLaunch d ls fun e => { e with started := true }

theorem State.dieLaunch_starts (d : Nat) : (s.starts d ls).dieLaunch d ls = { s.dieLaunch d ls with started := true } := by
  unfold State.starts
  rw [State.dieLaunch_modDieLaunch, if_pos rfl]
  unfold State.dieLaunch
  rw [State.die_modDie_self]

theorem State.bindTo_alone {n : Nat} (h : lockstepOf l.dw = false) :
    s.bindTo b ls l n = (s.starts (b / 1024) ls).dispatch b b ls l n ((s.die (b / 1024)).binds + 1) := by
  unfold State.bindTo
  rw [h]
  rfl

theorem State.choose_binds (m : Nat) (hfirst : s.firstLaunch (b / 1024) = some (ls, l)) (hsolo : lockstepOf l.dw = false) (hres : s.resumesFirst b l.prio = false)
    (hredo : (s.dieLaunch (b / 1024) ls).redo = []) (h : (s.dieLaunch (b / 1024) ls).lo < (s.dieLaunch (b / 1024) ls).hi) :
    State.choose b (m + 1) s = (s.tookLowest (b / 1024) ls).bindTo b ls l (s.dieLaunch (b / 1024) ls).lo := by
  unfold State.choose
  simp only [hfirst, hres, State.take_own hredo h, hsolo, Bool.false_eq_true, if_false, Bool.false_and]

theorem rangeWord_next (lo hi : Nat) : rangeWord (lo + 1) hi = BitVec.ofNat 64 (hi * 2 ^ 32 + lo + 1) := by
  unfold rangeWord
  rw [Nat.add_assoc]

theorem execCobaltBind_binds {peer : Nat} (hp : s.arg.a = peer) (hb : s.arg.a * 1024 + s.arg.b % 1024 = b) (hup : s.cobaltUp peer = true) (hbindable : s.bindable b = true)
    (hfirst : s.firstLaunch peer = some (ls, l)) (hsolo : lockstepOf l.dw = false) (hres : s.resumesFirst b l.prio = false) (hredo : (s.dieLaunch peer ls).redo = [])
    (h : (s.dieLaunch peer ls).lo < (s.dieLaunch peer ls).hi) (hran : (s.core b).ran = true) (hjob : (s.core b).lastJob = l.job) :
    let d := s.dieLaunch peer ls
    ∃ t, execCobaltBind s = .next t ∧ (t.core b).crew.bind = bindRecord ls l d.lo ∧ (t.dieLaunch peer ls).range = BitVec.ofNat 64 (d.hi * 2 ^ 32 + d.lo + 1) ∧
      (t.dieLaunch peer ls).started = true ∧ (∀ i, i < 7 → (t.core b).crew.g.get 0 (i + 1) = (d.consts[i]?).getD 0) ∧
      ∀ i, i < 8 → t.slot (b * 8 + i) = if (maskOf l.dw).getLsbD i then
        (s.slot (b * 8 + i)).dispatched (dwOf l.dw 1) (sspAt (maskOf l.dw) i) l.job (parcelAt l.dw l.accepted d.lo b) else s.slot (b * 8 + i) := by
  intro d
  obtain rfl : b / 1024 = peer := by omega
  have hdie : (((s.tookLowest (b / 1024) ls).starts (b / 1024) ls).dieLaunch (b / 1024) ls) =
      { d with range := rangeWord (d.lo + 1) d.hi, started := true } := by
    rw [State.dieLaunch_starts, State.tookLowest, State.dieLaunch_modDieLaunch, if_pos rfl]
  have hexec : execCobaltBind s = .next (((s.tookLowest (b / 1024) ls).starts (b / 1024) ls).dispatch b b ls l d.lo ((s.die (b / 1024)).binds + 1)) := by
    unfold execCobaltBind
    dsimp only
    rw [hb, hp, if_pos ⟨hup, hbindable⟩, State.choose_binds 64 hfirst hsolo hres hredo h, State.bindTo_alone hsolo]
    unfold State.tookLowest State.modDieLaunch
    rw [State.die_modDie_self]
  rw [State.dispatch_again (s := (s.tookLowest (b / 1024) ls).starts (b / 1024) ls) hran hjob, hdie] at hexec
  refine ⟨_, hexec, ?_, ?_, ?_, fun i hi => ?_, fun i hi => ?_⟩
  · rw [State.core_modSlots, State.core_modCore_self]
    rfl
  · rw [State.dieLaunch_modSlots, ← rangeWord_next]
    exact congrArg DieLaunch.range hdie
  · rw [State.dieLaunch_modSlots]
    exact congrArg DieLaunch.started hdie
  · rw [State.core_modSlots, State.core_modCore_self, Core.loaded_g _ _ _ _ hi]
  · rw [State.slot_modSlots hi]
    rfl

end

/-! ### Pre-emption (R85, R91, R92) -/

section

variable {s : State} {c : Nat}

theorem State.pair_of_alone (h : (s.core c).crew.bind.lockstep = false) : s.pair c = [c] := by
  unfold State.pair
  rw [h]
  rfl

theorem execCobaltPreempt_sends {peer b : Nat} {l : Launch} (hp : s.arg.a = peer) (hb : s.arg.a * 1024 + s.arg.b % 1024 = b) (hl : State.waitingLaunch peer 65 s = some l)
    (hup : s.cobaltUp peer = true) (hpre : s.preemptible b l.prio = true) (hsolo : (s.core b).crew.bind.lockstep = false)
    (hnone : ∀ i, i < 1024 → s.bindable (peer * 1024 + i) = false)
    (hbefore : ∀ e ∈ s.cores, e.1 / 1024 = peer → s.preemptible e.1 l.prio = true → s.before b e.1 = true) :
    execCobaltPreempt s = .next (s.modCore b fun y => { y with halting := true }) := by
  have hfull : (List.range 1024).all (fun i => !s.bindable (peer * 1024 + i)) = true := by
    rw [List.all_eq_true]
    intro i hi
    rw [hnone i (List.mem_range.mp hi)]
    rfl
  have hfirst : (s.cores.all fun e => e.1 / 1024 != peer || !s.preemptible e.1 l.prio || s.before b e.1) = true := by
    rw [List.all_eq_true]
    intro e he
    by_cases h1 : e.1 / 1024 = peer
    · by_cases h2 : s.preemptible e.1 l.prio = true
      · simp [hbefore e he h1 h2]
      · simp [h2]
    · simp [h1]
  unfold execCobaltPreempt
  dsimp only
  rw [hb, hp, hl]
  dsimp only
  rw [if_pos ⟨hup, hpre, hfull, hfirst⟩]
  unfold State.sendPreempt
  rw [State.pair_of_alone hsolo]
  rfl

theorem State.unreplay_of_none (h : (s.quad (quadOf c)).replay = none) : s.unreplay c = s := by
  unfold State.unreplay
  rw [h]

theorem State.cleanRegions_of_unbound (keep : Bool) (h : ∀ i, (s.region c i).bound = false) : s.cleanRegions c keep = s :=
  foldl_stays fun i _ => if_neg (by rw [h i]; nofun)

/-- A core whose crew has left, its slots kept as they were (R91). -/
def Core.left (x now : Core) (ts : List Slot) : Core :=
  { x with halting := false, saved := some { crew := now.crew.cleaned, slots := ts }, crew := { regions := now.crew.regions, tables := now.crew.tables } }

/-- A crew without bound regions and engine commands is saved with its slots frozen, which are free from then on. -/
theorem State.preemptCore_saves (hr : (s.quad (quadOf c)).replay = none) (hu : ∀ i, (s.region c i).bound = false) (hm : (s.core c).crew.matrix = []) :
    (∃ x : Core, (s.preemptCore c).core c = x.left (s.core c) ((List.range 8).map fun i => (s.slot (c * 8 + i)).frozen)) ∧
      ∀ i, i < 8 → ((s.preemptCore c).slot (c * 8 + i)).st = .free := by
  have h : ∃ u : State, s.preemptCore c = (u.modSlots (c * 8) (fun _ => true) (fun _ => Slot.freed) 8).modCore c
      (·.left (s.core c) ((List.range 8).map fun i => (s.slot (c * 8 + i)).frozen)) := by
    unfold State.preemptCore
    dsimp only
    rw [State.unreplay_of_none hr, State.cleanRegions_of_unbound true hu, hm]
    exact ⟨_, rfl⟩
  obtain ⟨u, hsave⟩ := h
  rw [hsave]
  refine ⟨⟨u.core c, ?_⟩, fun i hi => ?_⟩
  · rw [State.core_modCore_self, State.core_modSlots]
  · rw [State.slot_modCore, State.slot_modSlots hi, if_pos rfl]
    rfl

theorem State.core_prmptCode (cs : List Nat) (code : BitVec 8) (j : Nat) : (s.prmptCode cs code).core j = s.core j := rfl
theorem State.slot_prmptCode (cs : List Nat) (code : BitVec 8) (j : Nat) : (s.prmptCode cs code).slot j = s.slot j := rfl

theorem execPreemption_saves (hc : s.arg.a = c) (hh : (s.core c).halting = true) (hv : (s.core c).crew.bind.valid = true) (hsolo : (s.core c).crew.bind.lockstep = false)
    (hm : (s.core c).crew.matrix = []) (ha : s.areaOk c = true) (hg : (s.gang (c / 1024 / 4) (s.core c).crew.bind.job).phase.bars = false)
    (hr : (s.quad (quadOf c)).replay = none) (hu : ∀ i, (s.region c i).bound = false) :
    ∃ t, execPreemption s = .next t ∧ (t.core c).halting = false ∧ (t.core c).crew.bind.valid = false ∧ (∀ i, i < 8 → (t.slot (c * 8 + i)).st = .free) ∧
      ∃ sv, (t.core c).saved = some sv ∧ sv.crew.bind = (s.core c).crew.bind ∧ sv.slots = (List.range 8).map fun i => (s.slot (c * 8 + i)).frozen := by
  have hidle : s.engineIdle c = true := by
    unfold State.engineIdle
    rw [hm, hr]
    rfl
  obtain ⟨⟨x, hcore⟩, hfree⟩ := State.preemptCore_saves hr hu hm
  refine ⟨(s.preemptCore c).prmptCode [c] svcDone, ?_, ?_⟩
  · unfold execPreemption
    simp only [hc, State.pair_of_alone hsolo, hh, hv, hg, hidle, ha, List.headD_cons, List.all_cons, List.all_nil, List.foldl_cons, List.foldl_nil, ne_eq, not_true_eq_false,
      Bool.not_true, Bool.false_eq_true, or_self, if_false, Bool.and_self]
  · rw [State.core_prmptCode, hcore]
    refine ⟨rfl, rfl, fun i hi => ?_, _, rfl, rfl, rfl⟩
    rw [State.slot_prmptCode]
    exact hfree i hi

end

/-! ### Resuming (R85, R94) -/

theorem Slot.ops_foldl {α : Type} {f : Slot → α → Slot} (h : ∀ t x, (f t x).ops = t.ops) (l : List α) (t : Slot) : (l.foldl f t).ops = t.ops :=
  foldl_keeps (P := fun u : Slot => u.ops = t.ops) (fun u x hu => (h u x).trans hu) l t rfl

theorem Slot.ops_reload (t : Slot) (g : Nat → Word) : (t.reload g).ops = t.ops := by
  unfold Slot.reload
  dsimp only
  rw [Slot.ops_foldl, Slot.ops_foldl]
  · exact fun _ _ => rfl
  · exact fun _ _ => rfl

theorem Slot.ops_fromImage (t : Slot) (g : Nat → Word) : (t.fromImage g).ops = t.ops := by
  unfold Slot.fromImage
  dsimp only
  split
  · exact Slot.ops_reload t g
  · split <;> exact Slot.ops_reload t g

theorem Slot.ops_thawed (t : Slot) : t.thawed.ops = t.ops := by
  unfold Slot.thawed
  split <;> rfl

/-- Thread i of a saved crew as its area gives it back to a slot (R94). -/
def SavedCrew.thread (sv : SavedCrew) (m : Cells) (i : Nat) (now : Slot) : Slot :=
  let t := (sv.slots[i]?).getD {}
  let g := fun (j : Nat) => imgDword m (2560 * i + 8 * j)
  let t := if t.framed then { t with frame := (List.range 320).map fun j => (j, g j) } else if t.st = .free then t else t.fromImage g
  { t.thawed with opId := max t.opId now.opId, latch := (imgDword m 0x5050).getLsbD i }

theorem SavedCrew.ops_thread {sv : SavedCrew} (h : ∀ t ∈ sv.slots, t.ops = []) (m : Cells) (i : Nat) (now : Slot) : (sv.thread m i now).ops = [] := by
  have hops : ((sv.slots[i]?).getD {}).ops = [] := by
    cases hi : sv.slots[i]? with
    | none => rfl
    | some t => exact h t (List.mem_of_getElem? hi)
  unfold SavedCrew.thread
  dsimp only
  rw [Slot.ops_thawed]
  split
  · exact hops
  · split
    · exact hops
    · rw [Slot.ops_fromImage, hops]

/-- A core runs a crew: nothing saved there, its bind record and its job (R86, R94). -/
structure State.Runs (c : Nat) (b : Bind) (s : State) : Prop where
  saved : (s.core c).saved = none
  bind : (s.core c).crew.bind = b
  lastJob : (s.core c).lastJob = b.job

namespace State.Runs

variable {c : Nat} {b : Bind} {s : State}

theorem modSlot {k : Nat} {f : Slot → Slot} (h : s.Runs c b) : (s.modSlot k f).Runs c b := ⟨h.saved, h.bind, h.lastJob⟩

theorem send {p : Pkt} (h : s.Runs c b) : (s.send p).Runs c b := ⟨h.saved, h.bind, h.lastJob⟩

theorem modCrew {d : Nat} {f : Crew → Crew} (h : s.Runs c b) (hf : ∀ x, (f x).bind = x.bind) : (s.modCrew d f).Runs c b := by
  by_cases hd : c = d
  · subst hd
    exact ⟨(congrArg Core.saved (State.core_modCore_self s c _)).trans h.saved,
      (congrArg (fun x => x.crew.bind) (State.core_modCore_self s c _)).trans ((hf _).trans h.bind), (congrArg Core.lastJob (State.core_modCore_self s c _)).trans h.lastJob⟩
  · have hcore : (s.modCrew d f).core c = s.core c := State.core_modCore_ne s _ hd
    exact ⟨hcore ▸ h.saved, hcore ▸ h.bind, hcore ▸ h.lastJob⟩

theorem performed {k : Nat} {o : Op} {r : Reply} (h : s.Runs c b) : (s.performed k o r).Runs c b := foldl_keeps (fun _ _ h => h.modSlot) _ _ h

theorem writeAccepted {d : Nat} {w : HeldWrite} (h : s.Runs c b) : (s.writeAccepted d w).Runs c b := by
  unfold State.writeAccepted
  split
  · exact h
  · split
    · split
      · exact h
      · split
        · exact h.modSlot.modSlot
        · exact h.performed
    · exact h.send

theorem serveBoxOnce {d n : Nat} (h : s.Runs c b) : (s.serveBoxOnce d n).Runs c b := by
  unfold State.serveBoxOnce
  dsimp only
  have hread : State.Runs c b (if (s.core d).crew.mbFull.getLsbD n then
      match firstWaiter s d fun kd => kd == .mbxr n with
      | some (k, o) => (s.modCrew d fun x => { x with mbFull := putBits x.mbFull n (0 : BitVec 1) }).performed k o { value := ((s.core d).crew.mb.get 0 n).setWidth 512 }
      | none => s
    else s) := by
    split
    · split
      · refine State.Runs.performed ?_
        exact h.modCrew fun _ => rfl
      · exact h
    · exact h
  generalize (if (s.core d).crew.mbFull.getLsbD n then _ else s : State) = u at hread ⊢
  split
  · exact hread
  · split
    · refine State.Runs.writeAccepted ?_
      exact hread.modCrew fun _ => rfl
    · exact hread

theorem serveBoxes {d n m : Nat} (h : s.Runs c b) : (State.serveBoxes d n m s).Runs c b := by
  induction m generalizing s with
  | zero => exact h
  | succ m ih => exact ih h.serveBoxOnce

end State.Runs

section

variable {s : State} {c : Nat} {sv : SavedCrew}

theorem State.pairOfSaved_of_alone (hs : (s.core c).saved = some sv) (h : sv.crew.bind.lockstep = false) : s.pairOfSaved c = [c] := by
  unfold State.pairOfSaved
  simp only [hs, h, Bool.false_eq_true, if_false]

/-- A core with a saved crew back in it, as its area holds it (R94). -/
def SavedCrew.backIn (sv : SavedCrew) (m : Cells) (x : Core) : Core :=
  let g := fun (a j : Nat) => imgDword m (a + 8 * j)
  let x' := sv.crew.reread (g 0x5000) (g 0x7000) (g 0x5FC0)
  { x with
    crew := { x' with channels := x'.channels.mapV fun i y => { y with cpwp := g 0x5700 (8 * i) } },
    saved := none, ran := true, lastJob := sv.crew.bind.job }

theorem State.resumeCore_eq (s : State) (c : Nat) (sv : SavedCrew) : ∃ (u : State) (m : Cells),
    s.resumeCore c sv = (u.modSlots (c * 8) (fun _ => true) (sv.thread m) 8).modCore c (sv.backIn m) := by
  unfold State.resumeCore
  dsimp only
  generalize (s.getImage (s.areaOf c) 0x4_8000).2 = m
  generalize State.restoreStash _ c m 0x8000 0x6000 = u
  exact ⟨u, m, rfl⟩

theorem State.resumeCore_runs (hops : ∀ t ∈ sv.slots, t.ops = []) :
    (s.resumeCore c sv).Runs c sv.crew.bind ∧ ∀ i, i < 8 → ((s.resumeCore c sv).slot (c * 8 + i)).ops = [] := by
  obtain ⟨u, m, he⟩ := State.resumeCore_eq s c sv
  have hcore : (s.resumeCore c sv).core c = sv.backIn m (u.core c) := by rw [he, State.core_modCore_self, State.core_modSlots]
  refine ⟨⟨congrArg Core.saved hcore, congrArg (fun x => x.crew.bind) hcore, congrArg Core.lastJob hcore⟩, fun i hi => ?_⟩
  rw [he, State.slot_modCore, State.slot_modSlots hi, if_pos rfl]
  exact SavedCrew.ops_thread hops m i _

/-- Equal numbers given to the slots that run as one leave every slot's operations and the crews as they were. -/
theorem State.ops_alike (k j : Nat) : ((s.alike k).slot j).ops = (s.slot j).ops := by
  unfold State.alike
  dsimp only
  refine foldl_keeps (P := fun u : State => (u.slot j).ops = (s.slot j).ops) (fun u i h => ?_) _ _ rfl
  rw [State.slot_modSlot]
  split
  · next hj => rw [← h, hj]
  · exact h

theorem State.Runs.alike {b : Bind} {k : Nat} (h : s.Runs c b) : (s.alike k).Runs c b := foldl_keeps (fun _ _ h => h.modSlot) _ _ h

/-- Threads without operations have none to start again. -/
theorem State.restartAll_runs {b : Bind} (h : s.Runs c b) (hops : ∀ i, i < 8 → (s.slot (c * 8 + i)).ops = []) : (s.restartAll c).Runs c b := by
  unfold State.restartAll
  dsimp only
  have hstays : (List.range 8).foldl (fun s i => ((s.slot (c * 8 + i)).ops.map (·.id)).foldl (fun s id => s.restart (c * 8 + i) id) s) s = s :=
    foldl_stays fun i hi => by rw [hops i (List.mem_range.mp hi)]; rfl
  rw [hstays]
  exact foldl_keeps (P := State.Runs c b) (fun _ _ h => h.serveBoxes) _ _ h

/-- A core whose crew is in place again goes on (R94). -/
def State.goOn (s : State) (c : Nat) : State := ((List.range 8).foldl (fun s i => s.alike (c * 8 + i)) s).restartAll c

theorem State.goOn_runs {b : Bind} (h : s.Runs c b) (hops : ∀ i, i < 8 → (s.slot (c * 8 + i)).ops = []) : (s.goOn c).Runs c b :=
  State.restartAll_runs (foldl_keeps (fun _ _ h => h.alike) _ _ h) fun i hi =>
    foldl_keeps (P := fun u : State => (u.slot (c * 8 + i)).ops = []) (fun _ _ h => (State.ops_alike _ _).trans h) _ _ (hops i hi)

theorem execCobaltResume_eq (hc : s.arg.a = c) (hs : (s.core c).saved = some sv) (hsolo : sv.crew.bind.lockstep = false) (hup : s.cobaltUp (c / 1024) = true)
    (hfree : s.coreFree c = true) (hg : (s.gang (c / 1024 / 4) sv.crew.bind.job).phase.bars = false) :
    execCobaltResume s = .next ((s.resumeCore c sv).goOn c) := by
  have hback : [c].all (fun e => s.coreFree e && (s.core e).saved.isSome) = true := by simp [hfree, hs]
  unfold execCobaltResume
  generalize State.resumeCore = back
  dsimp only
  rw [hc, State.pairOfSaved_of_alone hs hsolo, hs]
  dsimp only
  rw [if_pos ⟨rfl, hup, hback, by rw [hg]; rfl⟩]
  rw [List.foldl_cons, List.foldl_nil]
  refine congrArg (fun u : State => Host.Outcome.next (u.goOn c)) ?_
  rw [List.foldl_cons, List.foldl_nil, hs]

theorem execCobaltResume_runs (hc : s.arg.a = c) (hs : (s.core c).saved = some sv) (hsolo : sv.crew.bind.lockstep = false) (hup : s.cobaltUp (c / 1024) = true)
    (hfree : s.coreFree c = true) (hg : (s.gang (c / 1024 / 4) sv.crew.bind.job).phase.bars = false) (hops : ∀ t ∈ sv.slots, t.ops = []) :
    ∃ t, execCobaltResume s = .next t ∧ (t.core c).saved = none ∧ (t.core c).crew.bind = sv.crew.bind ∧ (t.core c).lastJob = sv.crew.bind.job := by
  obtain ⟨hruns, hnone⟩ := State.resumeCore_runs (s := s) (c := c) hops
  have h := State.goOn_runs hruns hnone
  exact ⟨_, execCobaltResume_eq hc hs hsolo hup hfree hg, h.saved, h.bind, h.lastJob⟩

end

/-! ### The spill queue redelivered (R93, R94) -/

/-- Slots, packets and cores are as they were but for the cores' bound regions: so it is after any write of an agent. -/
structure State.SameCrews (s t : State) : Prop where
  slots : t.slots = s.slots
  net : t.net = s.net
  core : ∀ c, ∃ r, t.core c = { s.core c with crew := { (s.core c).crew with regions := r } }

namespace State.SameCrews

variable {s t : State}

theorem refl (s : State) : s.SameCrews s := ⟨rfl, rfl, fun _ => ⟨_, rfl⟩⟩

theorem foldl {α : Type} {f : State → α → State} {l : List α} (h : s.SameCrews t) (hf : ∀ t x, s.SameCrews t → s.SameCrews (f t x)) :
    s.SameCrews (l.foldl f t) := foldl_keeps hf l t h

theorem ite {c : Prop} {_ : Decidable c} {u : State} (ht : s.SameCrews t) (hu : s.SameCrews u) : s.SameCrews (if c then t else u) := by
  split
  · exact ht
  · exact hu

/-- An update of anything else. -/
theorem frame {dies quads mem empty poison stash stashEmpty stashPoison} (h : s.SameCrews t) :
    s.SameCrews { t with dies := dies, quads := quads, mem := mem, empty := empty, poison := poison, stash := stash, stashEmpty := stashEmpty, stashPoison := stashPoison } :=
  ⟨h.slots, h.net, h.core⟩

theorem modRegion {c i : Nat} {f : Region → Region} (h : s.SameCrews t) : s.SameCrews (t.modRegion c i f) := by
  refine ⟨h.slots, h.net, fun d => ?_⟩
  obtain ⟨r, hr⟩ := h.core d
  by_cases hd : d = c
  · subst hd
    refine ⟨(t.core d).crew.regions.set i (f ((t.core d).crew.regions.get {} i)), (State.core_modCore_self t d _).trans ?_⟩
    rw [hr]
  · exact ⟨r, (State.core_modCore_ne t _ hd).trans hr⟩

theorem settleLine {l : Nat} (h : s.SameCrews t) : s.SameCrews (t.settleLine l) := .ite h h.frame.frame

theorem writeSectors {l m d f p} (h : s.SameCrews t) : s.SameCrews (t.writeSectors l m d f p) :=
  h.foldl fun _ _ h₁ => .ite (h₁.frame.foldl fun _ _ h₂ => h₂.frame) h₁

theorem pullRegionLine {c i l keep} (h : s.SameCrews t) : s.SameCrews (t.pullRegionLine c i l keep) := by
  unfold State.pullRegionLine
  refine modRegion (h.foldl fun u k h₁ => .ite ?_ h₁)
  dsimp only
  split
  · exact .ite h₁.frame h₁.frame.writeSectors
  · exact h₁.writeSectors

theorem pullQuadLine {q l keep} (h : s.SameCrews t) : s.SameCrews (t.pullQuadLine q l keep) :=
  h.foldl fun _ _ h₁ => h₁.foldl fun _ _ h₂ => .ite h₂.pullRegionLine h₂

theorem homeObtain {l : Nat} (h : s.SameCrews t) : s.SameCrews (t.homeObtain l) := by
  unfold State.homeObtain
  refine frame (h.settleLine.foldl fun u q h₁ => ?_)
  dsimp only
  split
  · exact frame (.ite h₁.pullQuadLine.writeSectors h₁.pullQuadLine)
  · exact h₁.pullQuadLine

theorem agentWrite {a n w : Nat} {v : BitVec w} (h : s.SameCrews t) : s.SameCrews (t.agentWrite a n v) :=
  foldl (frame (h.foldl fun _ _ h₁ => h₁.homeObtain)) fun _ _ h₁ => h₁.frame

theorem storeDwords {a : Nat} {l : List Word} (h : s.SameCrews t) : s.SameCrews (t.storeDwords a l) := by
  induction l generalizing a t with
  | nil => exact h
  | cons w l ih => exact ih h.agentWrite

end State.SameCrews

section

variable {s : State} {c : Nat}

theorem State.queuePush_room {v : Word} (h : (s.core c).crew.queue.length < 64) : s.queuePush c v = (s.modCrew c fun x => { x with queue := x.queue ++ [v] }, true) := if_pos h

theorem State.redeliver_push {e : Spilled} (hfn : e.pkt.fn = taskPush) (h : (s.core c).crew.queue.length < 64) :
    s.redeliver c e = some (s.modCrew c fun x => { x with queue := x.queue ++ [e.pkt.operand] }) := by
  unfold State.redeliver
  simp only [hfn, State.queuePush_room h, if_true]
  rfl

/-- A core with other items in its spill queue. -/
theorem State.setSpill_gives (l : List Spilled) : (s.setSpill c l).slots = s.slots ∧ (s.setSpill c l).net = s.net ∧
    ∃ r, (s.setSpill c l).core c = { s.core c with spill := l, crew := { (s.core c).crew with regions := r } } := by
  have h : (s.modCore c fun x => { x with spill := l }).SameCrews (s.setSpill c l) := (State.SameCrews.refl _).storeDwords
  obtain ⟨r, hr⟩ := h.core c
  rw [State.core_modCore_self] at hr
  exact ⟨h.slots, h.net, r, hr⟩

theorem execSpillRedeliver_pushes {e : Spilled} {r : List Spilled} (hc : s.arg.a = c) (hspill : (s.core c).spill = e :: r) (hcrew : s.holdsCrew c e.pkt.job = true)
    (hsaved : (s.core c).saved = none) (hg : (s.gang (c / 1024 / 4) e.pkt.job).phase.bars = false) (hsolo : (s.core c).crew.bind.lockstep = false)
    (hfn : e.pkt.fn = taskPush) (hroom : (s.core c).crew.queue.length < 64) :
    ∃ t, execSpillRedeliver s = .next t ∧ (t.core c).spill = r ∧ (t.core c).crew.queue = (s.core c).crew.queue ++ [e.pkt.operand] ∧ t.slots = s.slots ∧ t.net = s.net := by
  obtain ⟨hslots, hnet, regions, hcore⟩ := State.setSpill_gives (s := s.modCrew c fun x => { x with queue := x.queue ++ [e.pkt.operand] }) (c := c) r
  rw [State.modCrew, State.core_modCore_self] at hcore
  refine ⟨(s.modCrew c fun x => { x with queue := x.queue ++ [e.pkt.operand] }).setSpill c r, ?_, ?_, ?_, hslots, hnet⟩
  · unfold execSpillRedeliver
    simp only [hc, hspill, hcrew, hsaved, hg, Option.isNone_none, Bool.not_false, and_self, if_true, State.redeliver_push hfn hroom]
    rw [State.syncPair_of_alone]
    unfold State.modCrew
    rw [hcore]
    exact hsolo
  · unfold State.modCrew
    rw [hcore]
  · unfold State.modCrew
    rw [hcore]

end

/-! ### A parcel retires (R88) -/

section

variable {s : State} {c : Nat} {b : Bind}

/-- A parcel's threads have all left, its flag-word AORs are done, and its writes have performed at its launch's release scope (R88, R189). -/
structure State.Gone (s : State) (c : Nat) (b : Bind) : Prop where
  valid : b.valid = true
  solo : b.lockstep = false
  noLive : b.live = 0
  notRetired : b.retired = false
  aors : s.aorsDone b.job (c + b.launch * 2 ^ 64) = true
  admitted : (s.gang (c / 1024 / 4) b.job).phase.bars = false
  released : pktRelease ((((s.pkg (c / 1024 / 4)).launches.find b.lslot.toNat).map (·.dw)).getD []) = 0 ∨
    ∀ e ∈ s.cores, ∀ i, i < 8 → (s.region e.1 i).owes (c + b.launch * 2 ^ 64) = false

theorem State.released_of {scope : BitVec 3} {key : Nat} (h : scope = 0 ∨ ∀ e ∈ s.cores, ∀ i, i < 8 → (s.region e.1 i).owes key = false) : s.released scope key = true := by
  unfold State.released
  rw [Bool.or_eq_true, beq_iff_eq]
  refine h.imp_right fun h => ?_
  simp only [List.all_eq_true, List.mem_range, Bool.not_eq_true']
  exact h

theorem State.mayRetire_of_gone (h : s.Gone c b) : s.mayRetire c b = true := by
  unfold State.mayRetire
  simp only [h.valid, h.noLive, h.aors, h.admitted, State.released_of h.released, beq_self_eq_true, Bool.or_true, Bool.not_false, Bool.and_self]

theorem State.mayRetire_of_invalid (h : b.valid = false) : s.mayRetire c b = false := by
  unfold State.mayRetire
  simp only [h, Bool.false_and]

/-- A parcel's retirement has been counted at its die, with a message on its way (R89). `s` and `t` are the states before and after. -/
def State.Counted (c : Nat) (s t : State) (b : Bind) : Prop :=
  t.slots = s.slots ∧ (t.dieLaunch (c / 1024) b.lslot.toNat).retired = (s.dieLaunch (c / 1024) b.lslot.toNat).retired + 1 ∧
    (t.pkg (c / 1024 / 4)).retires = (s.pkg (c / 1024 / 4)).retires ++
      [{ lslot := b.lslot.toNat, die := c / 1024 % 4, seq := (s.dieLaunch (c / 1024) b.lslot.toNat).messages + 1, count := (s.dieLaunch (c / 1024) b.lslot.toNat).retired + 1 }]

theorem State.counted_countRetired (s : State) (c : Nat) (b : Bind) : State.Counted c s (s.countRetired c b) b := by
  refine ⟨rfl, ?_, ?_⟩
  · have h := State.dieLaunch_modDieLaunch s (c / 1024) (c / 1024) b.lslot.toNat fun d => { d with retired := d.retired + 1, messages := d.messages + 1 }
    rw [if_pos rfl] at h
    exact congrArg DieLaunch.retired h
  · exact congrArg Pkg.retires (State.pkg_modPkg_self _ _ _)

theorem State.core_countRetired (s : State) (c : Nat) (b : Bind) (j : Nat) : (s.countRetired c b).core j = s.core j := rfl

theorem State.slotsFree_one (c : Nat) : s.slotsFree [c] = (List.range 8).all fun i => (s.slot (c * 8 + i)).st == .free := Bool.and_true _

/-- A core with its bind record changed. -/
def State.modBind (s : State) (c : Nat) (f : Bind → Bind) : State := s.modCrew c fun x => { x with bind := f x.bind }

theorem State.bind_modBind (s : State) (c : Nat) (f : Bind → Bind) : ((s.modBind c f).core c).crew.bind = f (s.core c).crew.bind := by
  unfold State.modBind State.modCrew
  rw [State.core_modCore_self]

/-- A bind record whose parcel has retired, and an invalid one. -/
def Bind.retire (b : Bind) : Bind := { b with retired := true }
def Bind.invalid (b : Bind) : Bind := { b with valid := false }

/-- The parcel that a core runs has retired and is counted. -/
def State.retire (s : State) (c : Nat) : State := (s.modBind c Bind.retire).countRetired c (s.core c).crew.bind

theorem State.bind_retire (s : State) (c : Nat) : ((s.retire c).core c).crew.bind = (s.core c).crew.bind.retire := State.bind_modBind s c _

theorem State.counted_retire (s : State) (c : Nat) : State.Counted c s (s.retire c) (s.core c).crew.bind := State.counted_countRetired (s.modBind c Bind.retire) c _

theorem execParcelRetire_eq (hc : s.arg.a = c) (h : s.Gone c (s.core c).crew.bind) :
    execParcelRetire s = .next (if s.slotsFree [c] then (s.retire c).modBind c Bind.invalid else s.retire c) := by
  unfold execParcelRetire
  simp only [hc, State.pair_of_alone h.solo, State.mayRetire_of_gone h, h.notRetired, List.headD_cons, List.foldl_cons, List.foldl_nil, Bool.false_eq_true, not_false_eq_true, true_or,
    and_self, if_true, if_false]
  rfl

theorem execParcelRetire_running (hc : s.arg.a = c) (h : s.Gone c (s.core c).crew.bind) : ∃ t, execParcelRetire s = .next t ∧ State.Counted c s t (s.core c).crew.bind ∧
    (t.core c).crew.bind = { (s.core c).crew.bind with retired := true, valid := !(List.range 8).all fun i => (s.slot (c * 8 + i)).st == .free } := by
  refine ⟨_, execParcelRetire_eq hc h, ?_⟩
  rw [← State.slotsFree_one]
  split
  · next hfree =>
    refine ⟨State.counted_retire s c, ?_⟩
    rw [State.bind_modBind, State.bind_retire, hfree]
    rfl
  · next hfree =>
    refine ⟨State.counted_retire s c, ?_⟩
    rw [State.bind_retire, Bool.eq_false_of_not_eq_true hfree, Bool.not_false]
    exact congrArg (fun v => { (s.core c).crew.bind with retired := true, valid := v }) h.valid

/-- The parcel of a pre-empted crew has retired and is counted, its entry invalid once the crew has come back (log entry 34). -/
def SavedCrew.retire (sv : SavedCrew) : SavedCrew := { sv with crew := { sv.crew with bind := sv.crew.bind.retire } }

def State.retireSaved (s : State) (c : Nat) (b : Bind) : State := (s.modCore c fun x => { x with saved := x.saved.map SavedCrew.retire }).countRetired c b

theorem State.core_retireSaved (s : State) (c : Nat) (b : Bind) : (s.retireSaved c b).core c = { s.core c with saved := (s.core c).saved.map SavedCrew.retire } := by
  unfold State.retireSaved
  rw [State.core_countRetired, State.core_modCore_self]

theorem execParcelRetire_saved {sv : SavedCrew} (hc : s.arg.a = c) (hv : (s.core c).crew.bind.valid = false) (hs : (s.core c).saved = some sv) (h : s.Gone c sv.crew.bind) :
    ∃ t, execParcelRetire s = .next t ∧ State.Counted c s t sv.crew.bind ∧ (t.core c).crew = (s.core c).crew ∧
      (t.core c).saved = some { sv with crew := { sv.crew with bind := { sv.crew.bind with retired := true } } } := by
  have hexec : execParcelRetire s = .next (s.retireSaved c sv.crew.bind) := by
    unfold execParcelRetire
    simp only [hc, State.mayRetire_of_invalid hv, hs, State.pairOfSaved_of_alone hs h.solo, State.mayRetire_of_gone h, h.notRetired, List.headD_cons, List.foldl_cons, List.foldl_nil,
      Bool.false_eq_true, not_false_eq_true, false_and, and_false, and_self, if_true, if_false]
    rfl
  refine ⟨_, hexec, State.counted_countRetired (s.modCore c fun x => { x with saved := x.saved.map SavedCrew.retire }) c _, ?_, ?_⟩
  · rw [State.core_retireSaved]
  · rw [State.core_retireSaved, hs]
    rfl

end

/-! ### A RETIRED message arrives (R89) -/

section

variable {s : State} {p : Nat} {r : Retire} {l : Launch}

/-- The counts of a launch once a message of a die is in. -/
def Launch.countsWith (l : Launch) (r : Retire) : NMap (Nat × Nat) := if (l.counts.get (0, 0) r.die).1 < r.seq then l.counts.set r.die (r.seq, r.count) else l.counts

/-- Die 0 has taken a message in. -/
def State.keptCount (s : State) (p k : Nat) (r : Retire) (l : Launch) : State :=
  (s.modPkg p fun x => { x with retires := x.retires.eraseIdx k }).modPkg p fun x => { x with launches := x.launches.set r.lslot { l with counts := l.countsWith r } }

/-- The first n dies of a package with a launch slot's entry erased. -/
def State.eraseEntries (s : State) (p ls n : Nat) : State := (List.range n).foldl (fun s d => s.modDie (4 * p + d) fun x => { x with launches := x.launches.erase ls }) s

theorem State.eraseEntries_succ (p ls n : Nat) :
    s.eraseEntries p ls (n + 1) = (s.eraseEntries p ls n).modDie (4 * p + n) fun x => { x with launches := x.launches.erase ls } := by
  unfold State.eraseEntries
  rw [List.range_succ, List.foldl_append]
  rfl

theorem State.pkg_eraseEntries (p ls n q : Nat) : (s.eraseEntries p ls n).pkg q = s.pkg q := by
  induction n with
  | zero => rfl
  | succ n ih =>
    rw [State.eraseEntries_succ]
    exact ih

theorem State.die_eraseEntries (p ls : Nat) {n d : Nat} (h : d < n) : ((s.eraseEntries p ls n).die (4 * p + d)).launches.find ls = none := by
  induction n with
  | zero => omega
  | succ n ih =>
    rw [State.eraseEntries_succ, State.die_modDie]
    split
    · exact (NMap.find_erase _ _ _).trans (if_pos rfl)
    · exact ih (by omega)

/-- The package's part of a slot's release. -/
theorem State.freeLaunch_eq (p ls : Nat) : s.freeLaunch p ls =
    (s.modPkg p fun x => { x with launches := x.launches.erase ls, retires := x.retires.filter fun r => r.lslot != ls }).eraseEntries p ls 4 := rfl

theorem State.launches_freeLaunch (p ls : Nat) : ((s.freeLaunch p ls).pkg p).launches.find ls = none := by
  rw [State.freeLaunch_eq, State.pkg_eraseEntries, State.pkg_modPkg_self]
  exact (NMap.find_erase _ _ _).trans (if_pos rfl)

theorem State.queue_freeLaunch (p ls n : Nat) : (s.freeLaunch p ls).queue p n = s.queue p n := by
  unfold State.queue
  rw [State.freeLaunch_eq, State.pkg_eraseEntries, State.pkg_modPkg_self]

theorem State.completeLaunch_frees {ls : Nat} (hdw : dwOf l.dw 6 = 0) (hreqs : (s.pkg p).hostReqs = []) :
    s.completeLaunch p ls l = some ((s.packetDone p l.q l.id).freeLaunch p ls) := by
  have hnone : ((s.packetDone p l.q l.id).pkg p).hostReqs = [] := (congrArg Pkg.hostReqs (State.pkg_modPkg_self s p _)).trans hreqs
  unfold State.completeLaunch State.completeWork
  rw [if_pos hdw, Option.map_some, hnone]
  rfl

section

variable {k : Nat} (hp : s.arg.a = p) (hk : s.arg.b = k) (hr : (s.pkg p).retires[k]? = some r) (hl : (s.pkg p).launches.find r.lslot = some l)

include hp hk hr hl

theorem execRetired_counts (h : ((l.countsWith r).map fun e => e.2.2).sum ≠ l.total) : execRetired s = .next (s.keptCount p k r l) := by
  unfold execRetired
  simp only [hp, hk, hr, hl]
  exact if_neg h

theorem execRetired_completes (h : ((l.countsWith r).map fun e => e.2.2).sum = l.total) (hdw : dwOf l.dw 6 = 0) (hreqs : (s.pkg p).hostReqs = []) :
    ∃ t, execRetired s = .next t ∧ (t.pkg p).launches.find r.lslot = none ∧ (t.queue p l.q).running = (s.queue p l.q).running.remove l.id ∧
      ∀ d, d < 4 → (t.die (4 * p + d)).launches.find r.lslot = none := by
  have hkept : ((s.keptCount p k r l).pkg p).hostReqs = [] := by
    unfold State.keptCount
    rw [State.modPkg_modPkg, State.pkg_modPkg_self]
    exact hreqs
  have hqueue : (s.keptCount p k r l).queue p l.q = s.queue p l.q := by
    unfold State.keptCount State.queue
    rw [State.modPkg_modPkg, State.pkg_modPkg_self]
  have hexec : execRetired s = .next (((s.keptCount p k r l).packetDone p l.q l.id).freeLaunch p r.lslot) := by
    unfold execRetired
    simp only [hp, hk, hr, hl]
    refine (if_pos h).trans ?_
    rw [State.completeLaunch_frees hdw]
    · rfl
    · exact hkept
  refine ⟨_, hexec, State.launches_freeLaunch p r.lslot, ?_, fun d hd => State.die_eraseEntries p r.lslot hd⟩
  rw [State.queue_freeLaunch, State.packetDone, State.queue_modQueue_self, hqueue]

end

end

/-! ### The obligation -/

/-- Settles O51, from the lemmas for each event. -/
theorem cobaltEvents : Obligations.CobaltEvents := by
  intro s peer b c x solo
  refine ⟨fun ls l hup hb hfirst hsolo hres hredo hlo hran hjob _ => execCobaltBind_binds rfl rfl hup hb hfirst hsolo hres hredo hlo hran hjob,
    fun l hl hup hpre hsolo hnone hbefore => execCobaltPreempt_sends rfl rfl hl hup hpre hsolo hnone hbefore,
    fun hh hv hsolo hm ha hg hr hu => execPreemption_saves rfl hh hv hsolo hm ha hg hr hu,
    fun sv hs hsolo hup hfree hg _ hops _ => execCobaltResume_runs rfl hs hsolo hup hfree hg hops,
    fun e r hspill hcrew hsaved hg hsolo hfn hroom => execSpillRedeliver_pushes rfl hspill hcrew hsaved hg hsolo hfn hroom, ⟨fun h => ?_, fun sv hv hs h => ?_⟩,
    fun r l hr hl => ⟨execRetired_counts rfl rfl hr hl, execRetired_completes rfl rfl hr hl⟩⟩
  · obtain ⟨hv, hsolo, hlive, hret, haors, hg, hrel⟩ := h
    exact execParcelRetire_running rfl ⟨hv, hsolo, hlive, hret, haors, hg, hrel⟩
  · obtain ⟨hv', hsolo, hlive, hret, haors, hg, hrel⟩ := h
    exact execParcelRetire_saved rfl hv hs ⟨hv', hsolo, hlive, hret, haors, hg, hrel⟩

end Sys2Proof.Machine

end

section

/-! # Gang switches and repair: what the moves of lines and of jobs leave -/

namespace Sys2Proof

/-! ### Tables and sets -/

theorem NMap.get_mapV {V : Type} (m : NMap V) (f : Nat → V → V) (d : V) (k : Nat) (h : m.find k = none → f k d = d) : (m.mapV f).get d k = f k (m.get d k) := by
  unfold NMap.get
  rw [NMap.find_mapV]
  cases hm : m.find k with
  | none => exact (h hm).symm
  | some x => rfl

theorem NMap.mem_of_find {V : Type} {m : NMap V} {k : Nat} {v : V} (h : m.find k = some v) : (k, v) ∈ m := by
  induction m with
  | nil => nomatch h
  | cons e m ih =>
    obtain ⟨j, u⟩ := e
    unfold NMap.find at h
    split at h
    · next hj =>
      cases h
      subst hj
      exact List.mem_cons_self
    · exact List.mem_cons_of_mem _ (ih h)

theorem NSet.mem_foldl_insert (l : List Nat) (n : NSet) (j : Nat) : (l.foldl (fun (n : NSet) i => n.insert i) n).mem j = (n.mem j || l.contains j) := by
  induction l generalizing n with
  | nil => simp
  | cons i l ih => rw [List.foldl_cons, ih, NSet.mem_insert, List.contains_cons, Bool.or_left_comm, Bool.or_assoc]

end Sys2Proof

namespace Sys2Proof.Machine

/-! ### Folds -/

/-- What one step of a fold brings about, given what every step keeps (`Q`), and every later step keeps, holds after it. -/
theorem foldl_reaches {α β : Type} {P Q : α → Prop} {f : α → β → α} {l : List β} {x : β} (hx : x ∈ l) (hQ : ∀ s y, Q s → Q (f s y)) (h : ∀ s, Q s → P (f s x))
    (hk : ∀ s y, P s → P (f s y)) (s : α) (hs : Q s) : P (l.foldl f s) := by
  induction l generalizing s with
  | nil => exact absurd hx List.not_mem_nil
  | cons y l ih =>
    rw [List.foldl_cons]
    rcases List.mem_cons.mp hx with rfl | hx
    · exact foldl_keeps hk l _ (h s hs)
    · exact ih hx _ (hQ s y hs)

/-! ### Lines moved between homes, quads and bound regions (R160 to R167) -/

/-- Packages, slots, packets and dies are as they were but for the dies' directories and coherence messages: so it is after any move of lines and any write of an agent.
A switch reads more of the dies than `State.SameFront` and `State.SameCrews` keep: their supervisors and retry lists. -/
structure State.SameJobs (s t : State) : Prop where
  pkgs : t.pkgs = s.pkgs
  slots : t.slots = s.slots
  net : t.net = s.net
  die : ∀ d, ∃ dir coh, t.die d = { s.die d with dir := dir, coh := coh }

namespace State.SameJobs

variable {s t u : State}

theorem refl (s : State) : s.SameJobs s := ⟨rfl, rfl, rfl, fun _ => ⟨_, _, rfl⟩⟩

theorem foldl {α : Type} {f : State → α → State} {l : List α} (h : s.SameJobs t) (hf : ∀ t x, s.SameJobs t → s.SameJobs (f t x)) :
    s.SameJobs (l.foldl f t) := foldl_keeps hf l t h

theorem ite {c : Prop} {_ : Decidable c} (ht : s.SameJobs t) (hu : s.SameJobs u) : s.SameJobs (if c then t else u) := by
  split
  · exact ht
  · exact hu

/-- An update of anything else. -/
theorem frame {quads cores mem empty poison stash stashEmpty stashPoison host} (h : s.SameJobs t) :
    s.SameJobs { t with quads := quads, cores := cores, mem := mem, empty := empty, poison := poison, stash := stash, stashEmpty := stashEmpty,
                        stashPoison := stashPoison, host := host } := ⟨h.pkgs, h.slots, h.net, h.die⟩

theorem modDie {k : Nat} {f : Die → Die} (h : s.SameJobs t) (hf : ∀ d, ∃ dir coh, f d = { d with dir := dir, coh := coh }) : s.SameJobs (t.modDie k f) := by
  refine ⟨h.pkgs, h.slots, h.net, fun d => ?_⟩
  rw [State.die_modDie]
  split
  · next hd =>
    obtain ⟨dir, coh, he⟩ := hf (t.die k)
    obtain ⟨dir', coh', ht⟩ := h.die k
    exact ⟨dir, coh, by rw [he, ht, hd]⟩
  · exact h.die d

theorem settleLine {l : Nat} (h : s.SameJobs t) : s.SameJobs (t.settleLine l) := .ite h (h.frame.modDie fun _ => ⟨_, _, rfl⟩)

theorem writeSectors {l m d f p} (h : s.SameJobs t) : s.SameJobs (t.writeSectors l m d f p) :=
  h.foldl fun _ _ h₁ => .ite (h₁.frame.foldl fun _ _ h₂ => h₂.frame) h₁

theorem pullRegionLine {c i l keep} (h : s.SameJobs t) : s.SameJobs (t.pullRegionLine c i l keep) := by
  unfold State.pullRegionLine
  refine frame (h.foldl fun u k h₁ => .ite ?_ h₁)
  dsimp only
  split
  · exact .ite h₁.frame h₁.frame.writeSectors
  · exact h₁.writeSectors

theorem pullQuadLine {q l keep} (h : s.SameJobs t) : s.SameJobs (t.pullQuadLine q l keep) :=
  h.foldl fun _ _ h₁ => h₁.foldl fun _ _ h₂ => .ite h₂.pullRegionLine h₂

theorem homeObtain {l : Nat} (h : s.SameJobs t) : s.SameJobs (t.homeObtain l) := by
  unfold State.homeObtain
  refine modDie (h.settleLine.foldl fun u q h₁ => ?_) fun _ => ⟨_, _, rfl⟩
  dsimp only
  split
  · exact frame (.ite h₁.pullQuadLine.writeSectors h₁.pullQuadLine)
  · exact h₁.pullQuadLine

theorem homeClean {l : Nat} (h : s.SameJobs t) : s.SameJobs (t.homeClean l) := by
  unfold State.homeClean
  refine h.settleLine.foldl fun u q h₁ => ?_
  dsimp only
  split
  · exact .ite (modDie (frame h₁.pullQuadLine.writeSectors) fun _ => ⟨_, _, rfl⟩) h₁.pullQuadLine
  · exact h₁.pullQuadLine

theorem putImage {a n img} (h : s.SameJobs t) : s.SameJobs (t.putImage a n img) := frame (h.foldl fun _ _ h₁ => h₁.homeObtain)

theorem getImage {a n} (h : s.SameJobs t) : s.SameJobs (t.getImage a n).1 := h.foldl fun _ _ h₁ => h₁.homeClean

theorem agentWrite {a n w : Nat} {v : BitVec w} (h : s.SameJobs t) : s.SameJobs (t.agentWrite a n v) :=
  foldl (frame (h.foldl fun _ _ h₁ => h₁.homeObtain)) fun _ _ h₁ => h₁.frame

theorem storeDwords {a : Nat} {l : List Word} (h : s.SameJobs t) : s.SameJobs (t.storeDwords a l) := by
  induction l generalizing a t with
  | nil => exact h
  | cons w l ih => exact ih h.agentWrite

theorem setSpill {c : Nat} {l : List Spilled} (h : s.SameJobs t) : s.SameJobs (t.setSpill c l) := h.frame.storeDwords

theorem slot (h : s.SameJobs t) (k : Nat) : t.slot k = s.slot k := by
  unfold State.slot
  rw [h.slots]

theorem gang (h : s.SameJobs t) (p : Nat) (job : BitVec 12) : t.gang p job = s.gang p job := by
  unfold State.gang State.pkg
  rw [h.pkgs]

theorem retryList (h : s.SameJobs t) (d : Nat) : (t.die d).retryList = (s.die d).retryList := by
  obtain ⟨dir, coh, hd⟩ := h.die d
  rw [hd]

theorem isSup (h : s.SameJobs t) (c : Nat) : t.isSup c = s.isSup c := by
  obtain ⟨dir, coh, hd⟩ := h.die (peerOf (quadOf c))
  unfold State.isSup
  rw [hd]

end State.SameJobs

/-! ### The switch states of the jobs (R98) -/

theorem State.gang_modGang (s : State) (p x : Nat) (job : BitVec 12) (f : Gang → Gang) :
    (s.modGang p job f).gang x job = if x = p then f (s.gang p job) else s.gang x job := by
  unfold State.gang State.modGang
  rw [State.pkg_modPkg]
  split
  · exact NMap.get_set_self _ _ _ _
  · rfl

@[simp] theorem State.gang_modGang_self (s : State) (p : Nat) (job : BitVec 12) (f : Gang → Gang) : (s.modGang p job f).gang p job = f (s.gang p job) :=
  (s.gang_modGang p p job f).trans (if_pos rfl)

theorem State.gang_modGang_ne (s : State) {p x : Nat} (job : BitVec 12) (f : Gang → Gang) (h : x ≠ p) : (s.modGang p job f).gang x job = s.gang x job :=
  (s.gang_modGang p x job f).trans (if_neg h)

/-- Every package holds the switch states that it held. -/
def State.SameGangs (s t : State) : Prop := ∀ x, (t.pkg x).gangs = (s.pkg x).gangs

namespace State.SameGangs

variable {s t u : State}

theorem refl (s : State) : s.SameGangs s := fun _ => rfl

theorem trans (h : s.SameGangs t) (h' : t.SameGangs u) : s.SameGangs u := fun x => (h' x).trans (h x)

theorem gang (h : s.SameGangs t) (p : Nat) (job : BitVec 12) : t.gang p job = s.gang p job := by
  unfold State.gang
  rw [h p]

theorem of_pkgs (h : t.pkgs = s.pkgs) : s.SameGangs t := fun x => by
  unfold State.pkg
  rw [h]

theorem moves (h : s.SameGangs t) (h' : t.SameJobs u) : s.SameGangs u := h.trans (of_pkgs h'.pkgs)

theorem foldl {α : Type} {f : State → α → State} {l : List α} (h : s.SameGangs t) (hf : ∀ t x, s.SameGangs t → s.SameGangs (f t x)) :
    s.SameGangs (l.foldl f t) := foldl_keeps hf l t h

theorem ite {c : Prop} {_ : Decidable c} (ht : s.SameGangs t) (hu : s.SameGangs u) : s.SameGangs (if c then t else u) := by
  split
  · exact ht
  · exact hu

theorem modPkg {p : Nat} {f : Pkg → Pkg} (h : s.SameGangs t) (hf : ∀ x, (f x).gangs = x.gangs) : s.SameGangs (t.modPkg p f) := fun x => by
  rw [← h x, State.pkg_modPkg]
  split
  · next hx => rw [hf, hx]
  · rfl

/-- An update of anything but the packages. -/
theorem frame {dies quads cores slots mem empty poison stash stashEmpty stashPoison net host} (h : s.SameGangs t) :
    s.SameGangs { t with dies := dies, quads := quads, cores := cores, slots := slots, mem := mem, empty := empty, poison := poison, stash := stash,
                         stashEmpty := stashEmpty, stashPoison := stashPoison, net := net, host := host } := h

theorem modCore {c : Nat} {f : Core → Core} (h : s.SameGangs t) : s.SameGangs (t.modCore c f) := h

theorem restoreStash {c m a b} (h : s.SameGangs t) : s.SameGangs (t.restoreStash c m a b) := by
  unfold State.restoreStash
  exact h.frame

theorem pullRegionLine {c i l keep} (h : s.SameGangs t) : s.SameGangs (t.pullRegionLine c i l keep) := h.moves (.pullRegionLine (.refl t))

theorem pullRegion {c i l keep} (h : s.SameGangs t) : s.SameGangs (t.pullRegion c i l keep) := by
  unfold State.pullRegion
  refine .ite h.pullRegionLine ?_
  split
  · exact h.frame.pullRegionLine
  · exact .ite h.pullRegionLine (h.moves (.homeObtain (.refl t))).pullRegionLine

theorem cleanRegionLine {k i l keep} (h : s.SameGangs t) : s.SameGangs (t.cleanRegionLine k i l keep).1 := by
  unfold State.cleanRegionLine
  dsimp only
  split
  · exact h.frame
  · exact h.pullRegion

theorem cleanRegion {k i keep} (h : s.SameGangs t) : s.SameGangs (t.cleanRegion k i keep).1 := by
  unfold State.cleanRegion
  refine foldl_keeps (P := fun r : State × Option (BitVec 8) => s.SameGangs r.1) (fun r j hr => ?_) _ _ h
  exact hr.cleanRegionLine

theorem cleanRegions {c keep} (h : s.SameGangs t) : s.SameGangs (t.cleanRegions c keep) := h.foldl fun _ _ h₁ => .ite h₁.cleanRegion h₁

end State.SameGangs

end Sys2Proof.Machine

end

section

/-! # Gang commands: one lemma for each event of O50 up to the anchor's start (R95, R97, R109) -/

namespace Sys2Proof.Machine

/-! ### GANG packets (R95, R97) -/

section

variable {s : State} {p : Nat} {w : Work}

/-- The command that a GANG packet's work makes (R95). -/
def Work.command (w : Work) (p : Nat) : GangCmd :=
  { op := bits (dwOf w.dw 1) 12 4, job := bits (dwOf w.dw 1) 0 12, save := bits (dwOf w.dw 2) 0 44, instId := bits (dwOf w.dw 3) 0 32, pkg := p,
    queue := some (w.q, w.id), signal := dwOf w.dw 6, packetJob := pktJob w.dw }

theorem State.gangWork_of {k : Nat} {op : BitVec 4} (hw : (s.pkg p).works[k]? = some w) (ht : pktType w.dw = 5) (hop : bits (dwOf w.dw 1) 12 4 = op) :
    s.gangWork p k op = some w := by
  unfold State.gangWork State.work
  simp [hw, ht, hop]

theorem State.sendGang_eq (p : Nat) (w : Work) : s.sendGang p w = (s.modPkg p fun x => { x with works := x.works.filter fun v => !(v.q == w.q && v.id == w.id) }).modPkg
    (s.anchorOf p (w.command p).job) fun x => { x with anchor := x.anchor ++ [w.command p] } := rfl

theorem exec_gang_sends {ev : Instr} {op : BitVec 4} (hp : s.arg.a = p) (hev : (ev, op) ∈ [(Instr.gangOut, (0 : BitVec 4)), (.gangIn, 1), (.gangAbort, 2)])
    (hw : (s.pkg p).works[s.arg.b]? = some w) (ht : pktType w.dw = 5) (hop : bits (dwOf w.dw 1) 12 4 = op) : exec ev s = .next (s.sendGang p w) := by
  subst hp
  have hwork := State.gangWork_of hw ht hop
  simp only [List.mem_cons, Prod.mk.injEq, List.not_mem_nil, or_false] at hev
  obtain ⟨rfl, rfl⟩ | ⟨rfl, rfl⟩ | ⟨rfl, rfl⟩ := hev
  · change execGangOut s = _
    unfold execGangOut gangOut
    rw [hwork]
  · change execGangIn s = _
    unfold execGangIn gangIn
    rw [hwork]
  · change execGangAbort s = _
    unfold execGangAbort gangAbort
    rw [hwork]

end

/-! ### An order to every package of a partition (R97) -/

section

variable {s : State} {p : Nat} {v : GangCmd} {o : GangPhase}

/-- A package's switch state as an order of a command leaves it. -/
def Gang.ordered (y : Gang) (v : GangCmd) (o : GangPhase) : Gang :=
  { y with order := o, told := false, instId := v.instId, save := if v.op = gangOut then v.save else y.save }

theorem Gang.ordered_ordered (y : Gang) : (y.ordered v o).ordered v o = y.ordered v o := by
  unfold Gang.ordered
  split <;> rfl

theorem State.gang_foldl_modGang {job : BitVec 12} {f : Gang → Gang} (hf : ∀ y, f (f y) = f y) (l : List Nat) (s : State) {x : Nat} :
    (l.foldl (fun s q => s.modGang q job f) s).gang x job = if x ∈ l then f (s.gang x job) else s.gang x job := by
  induction l generalizing s with
  | nil => rfl
  | cons q l ih =>
    rw [List.foldl_cons, ih, State.gang_modGang]
    by_cases hq : x = q
    · subst hq
      simp [hf]
    · simp [hq]

theorem State.gang_orderAll {x : Nat} (hx : x ∈ s.partition p v.job) : (s.orderAll p v o).gang x v.job = (s.gang x v.job).ordered v o :=
  (State.gang_foldl_modGang (f := (·.ordered v o)) Gang.ordered_ordered _ s).trans (if_pos hx)

/-- An order changes nothing of a package but its jobs' switch states. -/
theorem State.pkg_orderAll (x : Nat) : ∃ gs, (s.orderAll p v o).pkg x = { s.pkg x with gangs := gs } := by
  refine foldl_keeps (P := fun t : State => ∃ gs, t.pkg x = { s.pkg x with gangs := gs }) (fun t q ht => ?_) _ s ⟨_, rfl⟩
  obtain ⟨gs, hgs⟩ := ht
  unfold State.modGang
  rw [State.pkg_modPkg]
  split
  · next hx =>
    subst hx
    rw [hgs]
    exact ⟨_, rfl⟩
  · exact ⟨gs, hgs⟩

end

/-! ### A job aborted (R95, R111) -/

section

variable {s : State} {job : BitVec 12}

theorem State.pkgs_dropJob (p : Nat) (job : BitVec 12) : (s.dropJob p job).pkgs = s.pkgs := by
  unfold State.dropJob
  refine foldl_keeps (P := fun t : State => t.pkgs = s.pkgs) (fun t e ht => ?_) _ _ (foldl_keeps (P := fun t : State => t.pkgs = s.pkgs) (fun t e ht => ?_) _ _ rfl)
  · dsimp only
    split
    · split <;> exact ht
    · exact ht
  · split <;> exact ht

/-- A job's parts, launches, retry lists and switch state gone from one package (R95). -/
def State.abortOn (s : State) (p : Nat) (job : BitVec 12) : State :=
  let s := s.dropJob p job
  let s := (s.pkg p).launches.foldl (fun s e => if e.2.job = job then (s.freeLaunch p e.1).packetDone p e.2.q e.2.id else s) s
  (List.range 4).foldl (fun s d => s.modDie (4 * p + d) fun x => { x with retryList := x.retryList.filter fun f => f.pkt.job != job })
    (s.modPkg p fun x => { x with gangs := x.gangs.erase job.toNat })

theorem State.SameGangs.freeLaunch {s t : State} {p ls : Nat} (h : s.SameGangs t) : s.SameGangs (t.freeLaunch p ls) := by
  unfold State.freeLaunch
  refine foldl (h.modPkg fun _ => rfl) fun _ _ h₁ => ?_
  exact h₁

theorem State.gang_abortOn (p x : Nat) : (s.abortOn p job).gang x job = if x = p then {} else s.gang x job := by
  have hdrop : s.SameGangs (s.dropJob p job) := .of_pkgs (State.pkgs_dropJob p job)
  have hfree : s.SameGangs (((s.dropJob p job).pkg p).launches.foldl (fun s e => if e.2.job = job then (s.freeLaunch p e.1).packetDone p e.2.q e.2.id else s) (s.dropJob p job)) :=
    hdrop.foldl fun _ _ h => .ite (h.freeLaunch.modPkg fun _ => rfl) h
  unfold State.abortOn
  dsimp only
  refine (State.SameGangs.gang (State.SameGangs.foldl (.refl _) fun _ _ h => ?_) x job).trans ?_
  · exact h
  unfold State.gang
  rw [State.pkg_modPkg]
  split
  · unfold NMap.get
    rw [NMap.find_erase, if_pos rfl]
    rfl
  · rw [hfree x]

theorem State.gang_abortJob_eq (a x : Nat) (job : BitVec 12) (why : List Nat) :
    (s.abortJob a job why).gang x job = ((s.partition a job).foldl (fun s p => s.abortOn p job) s).gang x job := by
  unfold State.abortJob
  generalize s.partition a job = ps
  rfl

/-- An aborted job's switch state is gone from every package of its partition. -/
theorem State.gang_abortJob {a x : Nat} {why : List Nat} (hx : x ∈ s.partition a job) : (s.abortJob a job why).gang x job = {} := by
  rw [State.gang_abortJob_eq]
  refine foldl_reaches (P := fun t : State => t.gang x job = {}) (Q := fun _ => True) hx (fun _ _ _ => trivial) (fun t _ => ?_) (fun t y ht => ?_) s trivial
  · rw [State.gang_abortOn, if_pos rfl]
  · rw [State.gang_abortOn, ht, ite_self]

end

/-! ### GANG_COMMAND_START (R95, R97) -/

section

variable {s : State} {p : Nat} {job : BitVec 12} {v : GangCmd} {r : List GangCmd}

/-- An anchor without the command that it starts. -/
def State.takeCommand (s : State) (p : Nat) (r : List GangCmd) : State := s.modPkg p fun x => { x with anchor := r }

theorem State.takeCommand_eq (h : (s.pkg p).anchor = v :: r) : (s.modPkg p fun x => { x with anchor := x.anchor.erase v }) = s.takeCommand p r := by
  unfold State.takeCommand State.modPkg
  dsimp only
  rw [h, List.erase_cons_head]

theorem firstCommand {b : Bool} (h : (s.pkg p).anchor = v :: r) (hv : v.job = job) (hb : b = false) :
    ((s.pkg p).anchor.find? fun g => g.job == job && (g.slate || !b)) = some v := by
  rw [h, List.find?_cons_of_pos]
  rw [hv, hb, beq_self_eq_true, Bool.not_false, Bool.or_true, Bool.and_self]

/-- A command in progress at its anchor (R97). -/
def State.startCommand (s : State) (p : Nat) (v : GangCmd) (r : List GangCmd) : State :=
  (s.takeCommand p r).modPkg p fun x => { x with current := x.current.set v.job.toNat v }

theorem State.pkg_startCommand : (s.startCommand p v r).pkg p = { s.pkg p with anchor := r, current := (s.pkg p).current.set v.job.toNat v } := by
  unfold State.startCommand State.takeCommand
  rw [State.modPkg_modPkg, State.pkg_modPkg_self]

theorem State.SameGangs.startCommand : s.SameGangs (s.startCommand p v r) := by
  unfold State.startCommand State.takeCommand
  rw [State.modPkg_modPkg]
  exact (refl s).modPkg fun _ => rfl

variable (hp : s.arg.a = p) (hjob : BitVec.ofNat 12 s.arg.b = job) (hanchor : (s.pkg p).anchor = v :: r) (hv : v.job = job)
  (hcur : (s.pkg p).current.has job.toNat = false) (hrep : s.repairing p job = false)

include hp hjob hanchor hv hcur hrep

theorem execGangCommandStart_refuses {d k : Nat} {wc : Word} (hbad : v.badState (s.gang p job) = true) (hq : v.queue = none) (hsvc : v.svc = some (d, k, wc)) :
    execGangCommandStart s = .next ((s.takeCommand p r).modDie d fun x =>
      { x with svcs := x.svcs ++ [{ core := k, wc := wc, op := sregOf (.svcGangctl 0 0), arg := 0, code := some 0x0F }] }) := by
  unfold execGangCommandStart
  simp only [hp, hjob, firstCommand hanchor hv hrep, hcur, State.takeCommand_eq hanchor, hbad, Bool.false_eq_true, if_false, if_true]
  unfold State.answerGang
  rw [hq, hsvc]
  rfl

theorem execGangCommandStart_orders (hbad : v.badState (s.gang p job) = false) (hop : v.op ≠ 2) :
    ∃ t, execGangCommandStart s = .next t ∧ (t.pkg p).current.find job.toNat = some v ∧ (t.pkg p).anchor = r ∧
      ∀ x ∈ s.partition p job, t.gang x job = (s.gang x job).ordered v (if v.op = 0 then .freeze else .restore) := by
  subst hv
  have hexec : execGangCommandStart s = .next ((s.startCommand p v r).orderAll p v (if v.op = 0 then .freeze else .restore)) := by
    unfold execGangCommandStart
    simp only [hp, hjob, firstCommand hanchor rfl hrep, hcur, State.takeCommand_eq hanchor, hbad, Bool.false_eq_true, if_false]
    exact if_neg hop
  obtain ⟨gs, hgs⟩ := State.pkg_orderAll (s := s.startCommand p v r) (p := p) (v := v) (o := if v.op = 0 then .freeze else .restore) p
  rw [State.pkg_startCommand] at hgs
  refine ⟨_, hexec, ?_, ?_, fun x hx => ?_⟩
  · rw [hgs]
    exact NMap.find_set_self _ _ _
  · rw [hgs]
  · rw [State.gang_orderAll (s := s.startCommand p v r) hx, State.SameGangs.startCommand.gang]

theorem execGangCommandStart_aborts (hbad : v.badState (s.gang p job) = false) (hop : v.op = 2) (hq : v.queue = none) (hsvc : v.svc = none) :
    ∃ t, execGangCommandStart s = .next t ∧ ∀ x ∈ s.partition p job, t.gang x job = {} := by
  refine ⟨(s.takeCommand p r).abortJob p job [], ?_, fun x hx => State.gang_abortJob (s := s.takeCommand p r) hx⟩
  unfold execGangCommandStart
  simp only [hp, hjob, firstCommand hanchor hv hrep, hcur, State.takeCommand_eq hanchor, hbad, Bool.false_eq_true, if_false]
  refine (if_pos hop).trans ?_
  unfold State.answerGang
  rw [hq, hsvc]

end

end Sys2Proof.Machine

end

section

/-! # Switching a job out: one lemma for each event of O50 from FREEZE to SWEEP (R98 to R103) -/

namespace Sys2Proof.Machine

/-! ### A change to every thread of a job (R98, R108) -/

section

variable {s : State} {p : Nat} {job : BitVec 12}

theorem State.ofJob_of_free {k : Nat} (h : (s.slot k).st = .free) : s.ofJob p job k = false := by
  unfold State.ofJob
  simp only [h, bne_self_eq_false, Bool.and_false, Bool.false_and]

/-- Slots of a job changed each by itself. -/
theorem State.slot_ofJob_mapV (f : Slot → Slot) (k : Nat) :
    NMap.get (s.slots.mapV fun k t => if s.ofJob p job k then f t else t) {} k = if s.ofJob p job k then f (s.slot k) else s.slot k := by
  refine NMap.get_mapV s.slots (fun k t => if s.ofJob p job k then f t else t) {} k fun hnone => if_neg (Bool.not_eq_true _ ▸ State.ofJob_of_free ?_)
  unfold State.slot NMap.get
  rw [hnone]
  rfl

end

/-! ### FREEZE (R98, R103, R376) -/

section

variable {s : State} {p : Nat} {job : BitVec 12}

theorem State.slots_foldl_send (l : List Pkt) (s : State) : (l.foldl (fun s k => s.send k) s).slots = s.slots :=
  foldl_keeps (P := fun t : State => t.slots = s.slots) (f := fun s k => s.send k) (fun _ _ h => h) l s rfl

theorem State.slot_freezeJob (hg : s.openGroups p job = []) (k : Nat) : (s.freezeJob p job).slot k = if s.ofJob p job k then (s.slot k).frozen else s.slot k := by
  rw [← State.slot_ofJob_mapV Slot.frozen k]
  unfold State.freezeJob State.slot
  rw [hg]
  exact congrArg (NMap.get · {} k) (State.slots_foldl_send _ _)

theorem execFreeze_freezes (hp : s.arg.a = p) (hjob : BitVec.ofNat 12 s.arg.b = job) (ho : (s.gang p job).order = .freeze) (hb : (s.gang p job).phase.bars = false)
    (hc : s.canFreeze p job = true) (hg : s.openGroups p job = []) :
    ∃ t, execFreeze s = .next t ∧ (t.gang p job).phase = .freeze ∧ (t.gang p job).damaged = false ∧ (∀ k, s.ofJob p job k = true → t.slot k = (s.slot k).frozen) ∧
      (∀ k, ¬s.ofJob p job k = true → t.slot k = s.slot k) := by
  refine ⟨s.freezeJob p job, ?_, ?_, ?_, fun k hk => (State.slot_freezeJob hg k).trans (if_pos hk), fun k hk => (State.slot_freezeJob hg k).trans (if_neg hk)⟩
  · unfold execFreeze
    simp only [hp, hjob, ho, hb, hc, Bool.not_false, and_self, if_true]
  · unfold State.freezeJob
    rw [State.gang_modGang_self]
  · unfold State.freezeJob
    rw [State.gang_modGang_self]

end

/-! ### MARK (R99, R103) -/

section

variable {s : State} {p : Nat} {job : BitVec 12}

theorem execMark_sends (hp : s.arg.a = p) (hjob : BitVec.ofNat 12 s.arg.b = job) (ho : (s.gang p job).order = .mark) (hf : (s.gang p job).phase = .freeze)
    (hg : s.openGroups p job = []) (hn : ∀ f ∈ s.net, f.pkt.isTree = true → f.pkt.job ≠ job) :
    execMark s = .next (({ s with net := s.net ++ (s.markedPorts p job).flatMap fun i => (List.range 8).map fun c => markerBy p i job (s.gang p job).instId c } : State).modGang p job
      fun g => { g with phase := .mark, marked := true }) := by
  have htree : (s.net.all fun f => !(f.pkt.isTree && f.pkt.job == job)) = true := by
    rw [List.all_eq_true]
    intro f hf
    cases ht : f.pkt.isTree with
    | false => rfl
    | true => simp [hn f hf ht]
  unfold execMark
  simp only [hp, hjob, ho, hf, hg, htree, and_self, if_true]

end

/-! ### The records of a sweep (R100, R101) -/

/-- A packet stands in a sweep's records, with the place that it was held at. -/
def Recorded (l : List SweepRec) (f : Flight) : Prop := ∃ r ∈ l, r.pkt = f.pkt ∧ r.loc = f.loc ∧ r.came = f.came

theorem mem_recInsert {r x : SweepRec} {l : List SweepRec} : x ∈ recInsert r l ↔ x = r ∨ x ∈ l := by
  induction l with
  | nil => exact List.mem_cons
  | cons y l ih =>
    unfold recInsert
    split
    · exact List.mem_cons
    · rw [List.mem_cons, ih, List.mem_cons]
      exact or_left_comm

theorem recorded_sweepAdd_self (l : List SweepRec) (u : Nat × Nat) (f : Flight) : Recorded (sweepAdd l u f) f := ⟨_, mem_recInsert.mpr (.inl rfl), rfl, rfl, rfl⟩

theorem Recorded.sweepAdd {l : List SweepRec} {f : Flight} (h : Recorded l f) (u : Nat × Nat) (g : Flight) : Recorded (sweepAdd l u g) f := by
  obtain ⟨r, hr, hf⟩ := h
  exact ⟨r, mem_recInsert.mpr (.inr hr), hf⟩

theorem mem_stampInsert {f g : Flight} {l : List Flight} : g ∈ stampInsert f l ↔ g = f ∨ g ∈ l := by
  induction l with
  | nil => exact List.mem_cons
  | cons y l ih =>
    unfold stampInsert
    split
    · exact List.mem_cons
    · rw [List.mem_cons, ih, List.mem_cons]
      exact or_left_comm

theorem mem_byStamp {f : Flight} {l : List Flight} : f ∈ byStamp l ↔ f ∈ l := by
  induction l with
  | nil => exact Iff.rfl
  | cons g l ih =>
    change f ∈ stampInsert g (byStamp l) ↔ _
    rw [mem_stampInsert, ih, List.mem_cons]

/-! ### The packets of the net swept (R100) -/

section

variable {s : State} {p : Nat} {job : BitVec 12} {c : Flight → Bool}

theorem State.net_sweepNet : (s.sweepNet p job c).net = s.net.filter fun f => !(f.sweeps p job && c f) := rfl

/-- The records gain the packets that the condition names and lose none. -/
theorem State.gang_sweepNet : ∃ l, (s.sweepNet p job c).gang p job = { s.gang p job with sweep := l } ∧ (∀ f ∈ s.net, f.sweeps p job = true → c f = true → Recorded l f) ∧
    ∀ f, Recorded (s.gang p job).sweep f → Recorded l f := by
  refine ⟨_, State.gang_modGang_self _ _ _ _, fun f hf hs hc => ?_, fun f hf => ?_⟩
  · refine foldl_reaches (P := (Recorded · f)) (f := fun l f => sweepAdd l (s.heldAt f) f) (Q := fun _ => True) (x := f) ?_ (fun _ _ _ => trivial)
      (fun l _ => recorded_sweepAdd_self l _ f) (fun l g h => h.sweepAdd _ g) _ trivial
    exact mem_byStamp.mpr (List.mem_filter.mpr ⟨hf, by rw [hs, hc]; rfl⟩)
  · exact foldl_keeps (P := (Recorded · f)) (fun l g h => h.sweepAdd _ g) _ _ hf

end

/-! ### The units within the dies swept (R100) -/

section

variable {s : State} {p : Nat} {job : BitVec 12}

theorem State.die_foldl_modDie (p : Nat) (f : Nat → Die → Die) {n d : Nat} (h : d < n) (s : State) :
    ((List.range n).foldl (fun s d => s.modDie (4 * p + d) (f d)) s).die (4 * p + d) = f d (s.die (4 * p + d)) := by
  have habove : ∀ n e, n ≤ e → ((List.range n).foldl (fun s d => s.modDie (4 * p + d) (f d)) s).die (4 * p + e) = s.die (4 * p + e) := by
    intro n
    induction n with
    | zero => exact fun _ _ => rfl
    | succ n ih =>
      intro e he
      rw [List.range_succ, List.foldl_append, List.foldl_cons, List.foldl_nil, State.die_modDie_ne _ _ (by omega), ih e (by omega)]
  induction n with
  | zero => omega
  | succ n ih =>
    rw [List.range_succ, List.foldl_append, List.foldl_cons, List.foldl_nil, State.die_modDie]
    split
    · next hd =>
      obtain rfl : d = n := by omega
      rw [habove d d (Nat.le_refl _)]
    · exact ih (by omega)

theorem State.foldl_modDie_eq (k : Nat → Nat) (f : Nat → Die → Die) (l : List Nat) (s : State) : ∃ ds, l.foldl (fun s d => s.modDie (k d) (f d)) s = { s with dies := ds } :=
  foldl_keeps (P := fun t : State => ∃ ds, t = { s with dies := ds }) (f := fun s d => s.modDie (k d) (f d)) (fun t d ht => by
    obtain ⟨ds, rfl⟩ := ht
    exact ⟨_, rfl⟩) l s ⟨s.dies, rfl⟩

/-- The records of what stands within the dies: the packets, then the retry lists, then the spill queues (R100). -/
def State.recordsInside (s : State) (p : Nat) (job : BitVec 12) : List SweepRec :=
  let s := s.sweepNet p job fun f => f.atPort.isNone
  let l := (List.range 4).foldl (fun l d => ((s.die (4 * p + d)).retryList.filter fun f => f.pkt.job == job).foldl
    (fun l f => sweepAdd l (s.retryUnit (4 * p + d) f.pkt, 0) f) l) (s.gang p job).sweep
  s.cores.foldl (fun l e => if e.1 / 4096 = p then (e.2.spill.filter fun i => i.pkt.job == job).foldl
    (fun l i => sweepAdd l (s.spillUnit e.1, 0) { pkt := i.pkt, loc := .arrived (e.1 / 1024) }) l else l) l

theorem State.recordsInside_keeps {f : Flight} (h : Recorded ((s.sweepNet p job fun f => f.atPort.isNone).gang p job).sweep f) : Recorded (s.recordsInside p job) f := by
  unfold State.recordsInside
  refine foldl_keeps (P := (Recorded · f)) (fun l e hl => ?_) _ _
    (foldl_keeps (P := (Recorded · f)) (fun l d hl => foldl_keeps (P := (Recorded · f)) (fun l g hl => hl.sweepAdd _ g) _ _ hl) _ _ h)
  split
  · exact foldl_keeps (P := (Recorded · f)) (fun l i hl => hl.sweepAdd _ _) _ _ hl
  · exact hl

/-- A package as its inside has been swept. -/
structure State.SweptInside (p : Nat) (job : BitVec 12) (s t : State) : Prop where
  net : t.net = s.net.filter fun f => !(f.sweeps p job && f.atPort.isNone)
  slots : t.slots = s.slots
  gang : t.gang p job = { s.gang p job with sweep := s.recordsInside p job }
  retry : ∀ d, d < 4 → (t.die (4 * p + d)).retryList = (s.die (4 * p + d)).retryList.filter fun f => f.pkt.job != job

/-- The package with the records in and its retry lists and spill queues as they were. -/
def State.recordInside (s : State) (p : Nat) (job : BitVec 12) : State :=
  (s.sweepNet p job fun f => f.atPort.isNone).modGang p job fun g => { g with sweep := s.recordsInside p job }

theorem State.gang_recordInside : (s.recordInside p job).gang p job = { s.gang p job with sweep := s.recordsInside p job } := by
  obtain ⟨l, hl, -⟩ := State.gang_sweepNet (s := s) (p := p) (job := job) (c := fun f => f.atPort.isNone)
  unfold State.recordInside
  rw [State.gang_modGang_self, hl]

/-- The package without the spilled packets of the job. -/
def State.unspillInside (s : State) (p : Nat) (job : BitVec 12) : State :=
  s.cores.foldl (fun s e => if e.1 / 4096 = p ∧ (e.2.spill.any fun i => i.pkt.job == job) then s.setSpill e.1 (e.2.spill.filter fun i => i.pkt.job != job) else s) s

theorem State.sameJobs_unspillInside : s.SameJobs (s.unspillInside p job) := (State.SameJobs.refl s).foldl fun _ _ h => .ite h.setSpill h

/-- Last go the job's entries of the dies' retry lists, and some requests for lines. -/
theorem State.sweepInside_eq (s : State) (p : Nat) (job : BitVec 12) : ∃ coh : Nat → Die → List CohMsg, s.sweepInside p job = (List.range 4).foldl (fun s d =>
    s.modDie (4 * p + d) fun x => { x with retryList := x.retryList.filter (fun f => f.pkt.job != job), coh := coh d x }) ((s.recordInside p job).unspillInside p job) := by
  unfold State.sweepInside
  exact ⟨_, rfl⟩

theorem State.sweptInside : State.SweptInside p job s (s.sweepInside p job) := by
  have hsame := State.sameJobs_unspillInside (s := s.recordInside p job) (p := p) (job := job)
  obtain ⟨coh, hfold⟩ := s.sweepInside_eq p job
  obtain ⟨ds, hds⟩ := State.foldl_modDie_eq (4 * p + ·) (fun d x => { x with retryList := x.retryList.filter (fun f => f.pkt.job != job), coh := coh d x }) (List.range 4)
    ((s.recordInside p job).unspillInside p job)
  rw [hfold]
  refine ⟨?_, ?_, ?_, fun d hd => ?_⟩
  · rw [hds]
    exact hsame.net
  · rw [hds]
    exact hsame.slots
  · rw [hds]
    exact (hsame.gang p job).trans State.gang_recordInside
  · rw [State.die_foldl_modDie p _ hd]
    dsimp only
    rw [hsame.retryList]
    rfl

end

/-! ### The ports of the router swept (R100) -/

section

variable {s : State} {p : Nat} {job : BitVec 12} {is : List Nat}

/-- Does a packet stand at one of the ports? -/
def Flight.atOneOf (f : Flight) (is : List Nat) : Bool := match f.atPort with
  | some i => is.contains i
  | none => false

/-- A package's switch state with some ports of its router swept, and done with the last. -/
def Gang.portsSwept (g : Gang) (is : List Nat) : Gang :=
  let l := is.foldl (fun (n : NSet) i => n.insert i) g.swept
  { g with swept := l, done := (List.range 35).all l.mem }

theorem State.sweepPorts_eq : s.sweepPorts p job is = (s.sweepNet p job (·.atOneOf is)).modGang p job (·.portsSwept is) := rfl

/-- A package as some ports of its router have been swept. -/
structure State.SweptPorts (p : Nat) (job : BitVec 12) (is : List Nat) (s t : State) : Prop where
  net : t.net = s.net.filter fun f => !(f.sweeps p job && f.atOneOf is)
  slots : t.slots = s.slots
  dies : t.dies = s.dies
  phase : (t.gang p job).phase = (s.gang p job).phase
  swept : ∀ i, (t.gang p job).swept.mem i = ((s.gang p job).swept.mem i || is.contains i)
  done : (t.gang p job).done = (List.range 35).all (t.gang p job).swept.mem
  taken : ∀ f ∈ s.net, f.sweeps p job = true → f.atOneOf is = true → Recorded (t.gang p job).sweep f
  kept : ∀ f, Recorded (s.gang p job).sweep f → Recorded (t.gang p job).sweep f

theorem State.sweptPorts : State.SweptPorts p job is s (s.sweepPorts p job is) := by
  obtain ⟨l, hl, htaken, hkept⟩ := State.gang_sweepNet (s := s) (p := p) (job := job) (c := (·.atOneOf is))
  have hg : (s.sweepPorts p job is).gang p job = ({ s.gang p job with sweep := l } : Gang).portsSwept is := by
    rw [State.sweepPorts_eq, State.gang_modGang_self, hl]
  refine ⟨rfl, rfl, rfl, ?_, fun i => ?_, ?_, ?_, ?_⟩ <;> rw [hg]
  · rfl
  · exact NSet.mem_foldl_insert is _ i
  · rfl
  · exact htaken
  · exact hkept

end

/-! ### SWEEP (R100 to R102) -/

section

variable {s : State} {p : Nat} {job : BitVec 12}

/-- Does a sweep's step take a packet: one at a port that it sweeps, and in the first step also one within the dies? -/
def Flight.takenBy (f : Flight) (p : Nat) (job : BitVec 12) (first : Bool) (is : List Nat) : Bool := f.sweeps p job && (match f.atPort with
  | none => first
  | some i => is.contains i)

/-- A package as a step of its sweep leaves it. -/
structure State.SweepStep (p : Nat) (job : BitVec 12) (first : Bool) (is : List Nat) (s t : State) : Prop where
  phase : (t.gang p job).phase = .sweep
  net : t.net = s.net.filter fun f => !f.takenBy p job first is
  slots : t.slots = s.slots
  swept : ∀ i, (t.gang p job).swept.mem i = ((s.gang p job).swept.mem i || is.contains i)
  done : (t.gang p job).done = (List.range 35).all (t.gang p job).swept.mem
  retry : first = true → ∀ d, d < 4 → (t.die (4 * p + d)).retryList = (s.die (4 * p + d)).retryList.filter fun f => f.pkt.job != job
  taken : ∀ f ∈ s.net, f.takenBy p job first is = true → Recorded (t.gang p job).sweep f

/-- The first step of a sweep: the dies' insides, then the ports that are ready. -/
def State.sweepFirst (s : State) (p : Nat) (job : BitVec 12) (is : List Nat) : State :=
  ((s.sweepInside p job).modGang p job fun g => { g with phase := .sweep }).sweepPorts p job is

theorem State.sweepStep_first (is : List Nat) : State.SweepStep p job true is s (s.sweepFirst p job is) := by
  have hin := State.sweptInside (s := s) (p := p) (job := job)
  have hg : ((s.sweepInside p job).modGang p job fun g => { g with phase := .sweep }).gang p job =
      { s.gang p job with sweep := s.recordsInside p job, phase := .sweep } := by
    rw [State.gang_modGang_self, hin.gang]
  have hports := State.sweptPorts (s := (s.sweepInside p job).modGang p job fun g => { g with phase := .sweep }) (p := p) (job := job) (is := is)
  refine ⟨?_, ?_, hports.slots.trans hin.slots, fun i => ?_, hports.done, fun _ d hd => ?_, fun f hf ht => ?_⟩
  · exact hports.phase.trans (congrArg Gang.phase hg)
  · refine hports.net.trans ((congrArg (List.filter _) hin.net).trans ?_)
    rw [List.filter_filter]
    refine List.filter_congr fun f _ => ?_
    unfold Flight.takenBy Flight.atOneOf
    cases f.atPort <;> simp
  · refine (hports.swept i).trans ?_
    rw [hg]
  · have hdie : (s.sweepFirst p job is).die (4 * p + d) = (s.sweepInside p job).die (4 * p + d) := by
      unfold State.die
      exact congrArg (NMap.get · {} (4 * p + d)) hports.dies
    rw [hdie]
    exact hin.retry d hd
  · unfold Flight.takenBy at ht
    obtain ⟨hs, ht⟩ := Bool.and_eq_true_iff.mp ht
    cases ha : f.atPort with
    | none =>
      refine hports.kept f ?_
      rw [hg]
      obtain ⟨l, hl, htaken, -⟩ := State.gang_sweepNet (s := s) (p := p) (job := job) (c := fun f => f.atPort.isNone)
      refine State.recordsInside_keeps ?_
      rw [hl]
      exact htaken f hf hs (by rw [ha]; rfl)
    | some i =>
      rw [ha] at ht
      refine hports.taken f ?_ hs ?_
      · refine hin.net ▸ List.mem_filter.mpr ⟨hf, ?_⟩
        rw [ha, Option.isNone_some, Bool.and_false, Bool.not_false]
      · unfold Flight.atOneOf
        rw [ha]
        exact ht

theorem State.sweepStep_later (is : List Nat) (hph : (s.gang p job).phase = .sweep) : State.SweepStep p job false is s (s.sweepPorts p job is) := by
  have hports := State.sweptPorts (s := s) (p := p) (job := job) (is := is)
  have htaken : ∀ f : Flight, f.takenBy p job false is = (f.sweeps p job && f.atOneOf is) := fun f => by
    unfold Flight.takenBy Flight.atOneOf
    cases f.atPort <;> rfl
  refine ⟨hports.phase.trans hph, ?_, hports.slots, hports.swept, hports.done, nofun, fun f hf ht => ?_⟩
  · simp only [htaken]
    exact hports.net
  · rw [htaken] at ht
    obtain ⟨hs, ha⟩ := Bool.and_eq_true_iff.mp ht
    exact hports.taken f hf hs ha

theorem execSweep_step (hp : s.arg.a = p) (hjob : BitVec.ofNat 12 s.arg.b = job) (ho : (s.gang p job).order = .sweep)
    (h : (s.gang p job).phase = .mark ∨ ((s.gang p job).phase = .sweep ∧ s.sweptNow p job ≠ [])) :
    ∃ t, execSweep s = .next t ∧ State.SweepStep p job ((s.gang p job).phase == .mark) (s.sweptNow p job) s t := by
  rcases h with hph | ⟨hph, his⟩
  · refine ⟨s.sweepFirst p job (s.sweptNow p job), ?_, ?_⟩
    · unfold execSweep State.sweepFirst
      simp only [hp, hjob, ho, hph, ne_eq, not_true_eq_false, if_false, if_true]
    · rw [hph]
      exact State.sweepStep_first _
  · refine ⟨s.sweepPorts p job (s.sweptNow p job), ?_, ?_⟩
    · unfold execSweep
      simp only [hp, hjob, ho, hph, his, ne_eq, not_true_eq_false, not_false_eq_true, and_self, if_false, if_true, reduceCtorEq]
    · rw [hph]
      exact State.sweepStep_later _ hph

end

end Sys2Proof.Machine

end

section

/-! # Saving, releasing and switching a job in: one lemma for each event of O50 from SAVE to IN_ADMIT (R97, R104 to R108) -/

namespace Sys2Proof.Machine

/-! ### SAVE (R104; log entry 9) -/

section

variable {s : State} {p : Nat} {job : BitVec 12}

variable (hp : s.arg.a = p) (hjob : BitVec.ofNat 12 s.arg.b = job) (ho : (s.gang p job).order = .save) (hph : (s.gang p job).phase = .sweep) (ha : s.arrivalsDone job = true)

include hp hjob ho hph ha

theorem execSave_saves (h : (s.gang p job).save.toNat + partBytes ≤ dramEnd) : ∃ t, execSave s = .next t ∧ (t.gang p job).phase = .save := by
  have hexec : ∃ u : State, execSave s = .next (u.keepJob p job) := by
    unfold execSave
    simp only [hp, hjob, ho, hph, ha, ne_eq, not_true_eq_false, Bool.not_true, Bool.false_eq_true, or_self, if_false, Nat.not_lt.mpr h]
    exact ⟨_, rfl⟩
  obtain ⟨u, hu⟩ := hexec
  refine ⟨_, hu, ?_⟩
  unfold State.keepJob
  rw [State.gang_modGang_self]

theorem execSave_faults (h : dramEnd < (s.gang p job).save.toNat + partBytes) : execSave s = .fault (.noSuchAddress (paOf (4 * p) (s.gang p job).save.toNat)) := by
  unfold execSave
  simp only [hp, hjob, ho, hph, ha, ne_eq, not_true_eq_false, Bool.not_true, Bool.false_eq_true, or_self, if_false, h, if_true]

end

/-! ### RELEASE (R106) -/

section

variable {s t : State} {p : Nat} {job : BitVec 12}

theorem State.SameJobs.ofJob (h : s.SameJobs t) (k : Nat) : t.ofJob p job k = s.ofJob p job k := by
  unfold State.ofJob
  rw [h.slot, h.isSup]

theorem State.sameJobs_saveLate : s.SameJobs (s.saveLate p job) := (State.SameJobs.refl s).agentWrite.putImage

theorem State.ofJob_iff {k : Nat} : s.ofJob p job k = true ↔ peerOfSlot k / 4 = p ∧ (s.slot k).st ≠ .free ∧ (s.slot k).job = job ∧ (!s.isSup (coreOf k)) = true := by
  unfold State.ofJob
  simp only [Bool.and_eq_true, beq_iff_eq, bne_iff_ne, and_assoc]

theorem State.mem_slots {k : Nat} (h : (s.slot k).st ≠ .free) : (k, s.slot k) ∈ s.slots := by
  unfold State.slot NMap.get at h ⊢
  cases hk : s.slots.find k with
  | none =>
    rw [hk] at h
    exact absurd rfl h
  | some t => exact NMap.mem_of_find hk

/-- A job's threads ended, slot by slot (R95). -/
def State.freeThreads (s : State) (p : Nat) (job : BitVec 12) : State :=
  s.slots.foldl (fun s e => if peerOfSlot e.1 / 4 = p ∧ e.2.st ≠ .free ∧ e.2.job = job ∧ !s.isSup (coreOf e.1) then s.modSlot e.1 (·.freed) else s) s

theorem State.slot_freeThreads {k : Nat} (h : s.ofJob p job k = true) : ((s.freeThreads p job).slot k).st = .free := by
  obtain ⟨hk, hst, hjob, hsup⟩ := State.ofJob_iff.mp h
  unfold State.freeThreads
  refine foldl_reaches (P := fun t : State => (t.slot k).st = .free) (Q := fun t : State => t.dies = s.dies) (State.mem_slots hst) (fun t e ht => ?_) (fun t ht => ?_) (fun t e ht => ?_) s rfl
  · split <;> exact ht
  · have hsame : t.isSup (coreOf k) = s.isSup (coreOf k) := by
      unfold State.isSup State.die
      rw [ht]
    dsimp only
    rw [hsame, if_pos ⟨hk, hst, hjob, hsup⟩, State.slot_modSlot_self]
    rfl
  · split
    · rw [State.slot_modSlot]
      split
      · rfl
      · exact ht
    · exact ht

theorem State.slots_dropJob : (s.dropJob p job).slots = (s.freeThreads p job).slots := by
  unfold State.dropJob
  refine foldl_keeps (P := fun t : State => t.slots = (s.freeThreads p job).slots) (fun t e ht => ?_) _ _ rfl
  dsimp only
  split
  · split <;> exact ht
  · exact ht

theorem State.slot_releaseJob {k : Nat} (h : s.ofJob p job k = true) : ((s.releaseJob p job).slot k).st = .free := by
  have hfree := State.slot_freeThreads (s := s.saveLate p job) ((State.sameJobs_saveLate.ofJob k).trans h)
  unfold State.slot at hfree ⊢
  unfold State.releaseJob State.modGang
  rw [State.modPkg_slots, State.slots_dropJob]
  exact hfree

theorem State.phase_releaseJob : ((s.releaseJob p job).gang p job).phase = .out := by
  unfold State.releaseJob
  rw [State.gang_modGang_self]

section

variable (hp : s.arg.a = p) (hjob : BitVec.ofNat 12 s.arg.b = job) (ho : (s.gang p job).order = .release) (hph : (s.gang p job).phase = .save)

include hp hjob ho hph

theorem execRelease_waits (hr : (s.pkg p).jobRequests job = true) (hw : (s.gang p job).hostWait = false) :
    execRelease s = .next (s.modGang p job fun g => { g with hostWait := true }) := by
  unfold execRelease
  simp only [hp, hjob, ho, hph, hr, hw, ne_eq, not_true_eq_false, or_self, Bool.false_eq_true, if_false, if_true]

theorem exec_release_frees {ev : Instr} (h : (ev = Instr.release ∧ (s.pkg p).jobRequests job = false) ∨ (ev = .releaseHostWaitExpiry ∧ (s.gang p job).hostWait = true)) :
    ∃ t, exec ev s = .next t ∧ (t.gang p job).phase = .out ∧ ∀ k, s.ofJob p job k = true → (t.slot k).st = .free := by
  refine ⟨s.releaseJob p job, ?_, State.phase_releaseJob, fun k hk => State.slot_releaseJob hk⟩
  obtain ⟨rfl, hr⟩ | ⟨rfl, hw⟩ := h
  · change execRelease s = _
    unfold execRelease
    simp only [hp, hjob, ho, hph, hr, ne_eq, not_true_eq_false, or_self, Bool.false_eq_true, if_false]
  · change execReleaseHostWaitExpiry s = _
    unfold execReleaseHostWaitExpiry
    simp only [hp, hjob, ho, hph, hw, and_self, if_true]

end

end

/-! ### PHASE_COMPLETE (R97) -/

section

variable {s : State} {p : Nat} {job : BitVec 12} {v : GangCmd}

/-- A package has told its job's anchor that its phase is complete. -/
def State.tellAnchor (s : State) (p : Nat) (job : BitVec 12) : State := s.modGang p job fun g => { g with told := true }

theorem State.heldForRepair_tellAnchor (a : Nat) : (s.tellAnchor p job).heldForRepair a job = s.heldForRepair a job := by
  have hrep : ∀ x, ((s.tellAnchor p job).pkg x).repair = (s.pkg x).repair := fun x => by
    unfold State.tellAnchor State.modGang
    rw [State.pkg_modPkg]
    split
    · next hx => rw [hx]
    · rfl
  unfold State.heldForRepair
  simp only [hrep]
  rfl

variable (hp : s.arg.a = p) (hjob : BitVec.ofNat 12 s.arg.b = job) (hv : (s.pkg (s.anchorOf p job)).current.find job.toNat = some v)
  (hc : (s.gang p job).complete = true) (ht : (s.gang p job).told = false)

include hp hjob hv hc ht

theorem execPhaseComplete_tells (h : ∃ x ∈ s.partition (s.anchorOf p job) job, x ≠ p ∧ (s.gang x job).told = false) : execPhaseComplete s = .next (s.tellAnchor p job) := by
  obtain ⟨x, hx, hne, htold⟩ := h
  have hall : ((s.partition (s.anchorOf p job) job).all fun x => ((s.tellAnchor p job).gang x job).told) = false := by
    refine Bool.eq_false_iff.mpr fun hall => ?_
    have hxt := List.all_eq_true.mp hall x hx
    rw [State.tellAnchor, State.gang_modGang_ne _ _ _ hne, htold] at hxt
    exact Bool.false_ne_true hxt
  unfold execPhaseComplete
  simp only [hp, hjob, hv, hc, ht, Bool.not_true, Bool.false_eq_true, or_self, if_false]
  refine if_pos (.inl ?_)
  exact congrArg (! ·) hall

theorem execPhaseComplete_orders {o : GangPhase} (ha : s.anchorOf p job = p) (hvj : v.job = job) (hpart : s.partition p job = [p]) (hr : s.heldForRepair p job = false)
    (hnext : nextOrder (s.gang p job).order = o) (hsome : o ≠ .none) : execPhaseComplete s = .next ((s.tellAnchor p job).orderAll p v o) ∧
      ((s.tellAnchor p job).orderAll p v o).gang p job = ((s.tellAnchor p job).gang p job).ordered v o := by
  subst hvj
  refine ⟨?_, State.gang_orderAll ?_⟩
  · have hall : ((s.tellAnchor p v.job).partition p v.job).all (fun x => ((s.tellAnchor p v.job).gang x v.job).told) = true := by
      change ((s.partition p v.job).all fun x => ((s.tellAnchor p v.job).gang x v.job).told) = true
      rw [hpart, State.tellAnchor, List.all_cons, State.gang_modGang_self]
      rfl
    have hheld := (State.heldForRepair_tellAnchor (s := s) (p := p) (job := v.job) p).trans hr
    unfold State.tellAnchor at hall hheld
    rw [ha] at hv
    unfold execPhaseComplete
    simp only [hp, hjob, ha, hv, hc, ht, hall, hheld, hnext, hsome, Bool.not_true, Bool.false_eq_true, and_false, or_self, if_false]
    rfl
  · change p ∈ s.partition p v.job
    rw [hpart]
    exact List.mem_singleton.mpr rfl

end

/-! ### IN_RESTORE (R108, R437) -/

section

variable {s : State} {p : Nat} {job : BitVec 12}

theorem State.SameGangs.restoreFabric {s t : State} {d : Nat} {m : Cells} (h : s.SameGangs t) : s.SameGangs (t.restoreFabric p d job m) := by
  unfold State.restoreFabric
  exact .ite (h.frame.modPkg fun _ => rfl) h.frame

theorem State.SameGangs.restorePart {s t : State} {d : Nat} (h : s.SameGangs t) : s.SameGangs (t.restorePart p d job) := by
  unfold State.restorePart
  extract_lets peer g r m fabric threads crews saved
  have hfabric : s.SameGangs fabric := (h.moves (State.SameJobs.refl t).getImage).restoreFabric
  have hthreads : s.SameGangs threads := foldl hfabric fun u e hu => .ite hu hu
  have hcrews : s.SameGangs crews := foldl hthreads fun u e hu => .ite hu.cleanRegions.restoreStash.modCore hu
  have hsaved : s.SameGangs saved := foldl hcrews fun u e hu => .ite (hu.moves (State.SameJobs.refl u).putImage).modCore hu
  exact foldl hsaved fun u e hu => .ite hu hu

theorem State.slots_reinject (r : SweepRec) : (s.reinject r).slots = s.slots := by
  unfold State.reinject
  split
  · exact (State.SameJobs.refl s).setSpill.slots
  · split <;> rfl

theorem State.net_reinject {r : SweepRec} (h : r.unit < 2048) : (s.reinject r).net = s.net ++ [{ pkt := r.pkt, loc := r.loc, came := r.came }] := by
  unfold State.reinject
  rw [if_neg (by omega), if_neg (by omega)]

variable (hp : s.arg.a = p) (hjob : BitVec.ofNat 12 s.arg.b = job) (ho : (s.gang p job).order = .restore)

include hp hjob ho

theorem execInRestore_restores (hph : (s.gang p job).phase = .out) (hf : s.namedFree p job = true) : ∃ t, execInRestore s = .next t ∧ (t.gang p job).phase = .restore ∧
    (t.gang p job).sweep = (s.gang p job).sweep ∧ (t.gang p job).late = (s.gang p job).late ∧ (t.gang p job).done = ((s.gang p job).sweep == [] && (s.gang p job).late == []) := by
  have hsame : s.SameGangs ((List.range 4).foldl (fun s d => s.restorePart p d job) s) := (State.SameGangs.refl s).foldl fun _ _ h => h.restorePart
  refine ⟨((List.range 4).foldl (fun s d => s.restorePart p d job) s).modGang p job fun g =>
    { g with phase := .restore, slots := [], crews := [], saved := [], images := [], quads := [] }.allBack, ?_, ?_⟩
  · unfold execInRestore
    simp only [hp, hjob, ho, hph, hf, and_self, if_true]
  · rw [State.gang_modGang_self, hsame.gang]
    exact ⟨rfl, rfl, rfl, rfl⟩

/-- A record goes back where it was held. -/
theorem execInRestore_puts {r : SweepRec} {g : Gang} (hph : (s.gang p job).phase = .restore) (hn : (s.gang p job).nextBack s.arg.c = some (r, g)) :
    ∃ t, execInRestore s = .next t ∧ t.gang p job = { g with done := g.sweep == [] && g.late == [] } ∧ t.slots = s.slots ∧
      (r.unit < 2048 → t.net = s.net ++ [{ pkt := r.pkt, loc := r.loc, came := r.came }]) := by
  refine ⟨(s.reinject r).modGang p job fun _ => g.allBack, ?_, State.gang_modGang_self _ _ _ _, State.slots_reinject r, State.net_reinject⟩
  unfold execInRestore
  simp only [hp, hjob, ho, hph, hn, reduceCtorEq, false_and, and_false, and_self, if_false, if_true]

end

/-- The records of one unit go back in their order (R108). -/
theorem Gang.nextBack_sweep {g : Gang} {i : Nat} {r : SweepRec} (hr : g.sweep[i]? = some r) (hfirst : ∀ j x, j < i → g.sweep[j]? = some x → x.unit ≠ r.unit) :
    g.nextBack i = some (r, { g with sweep := g.sweep.eraseIdx i }) := by
  have hnone : ((g.sweep.take i).any fun e => e.unit == r.unit) = false := by
    refine List.any_eq_false.mpr fun x hx => ?_
    obtain ⟨j, hj⟩ := List.mem_iff_getElem?.mp hx
    have hji : j < i := (List.getElem?_eq_some_iff.mp hj).1.trans_le (List.length_take_le i g.sweep)
    rw [List.getElem?_take_of_lt hji] at hj
    rw [beq_iff_eq]
    exact hfirst j x hji hj
  unfold Gang.nextBack
  simp only [hr, hnone, Bool.false_eq_true, if_false]

/-- The late records go back last (R108, R437). -/
theorem Gang.nextBack_late {g : Gang} (i : Nat) {r : SweepRec} {l : List SweepRec} (hs : g.sweep = []) (hl : g.late = r :: l) : g.nextBack i = some (r, { g with late := l }) := by
  unfold Gang.nextBack
  simp only [hs, hl, List.getElem?_nil]

/-! ### IN_ADMIT (R108) -/

section

variable {s : State} {p : Nat} {job : BitVec 12}

theorem execInAdmit_thaws (hp : s.arg.a = p) (hjob : BitVec.ofNat 12 s.arg.b = job) (ho : (s.gang p job).order = .admitted) (hph : (s.gang p job).phase = .restore)
    (hd : (s.gang p job).done = true) (hcores : ∀ e ∈ s.cores, e.2.runs job = false) :
    ∃ t, execInAdmit s = .next t ∧ (t.gang p job).phase = .admitted ∧ (∀ k, s.ofJob p job k = true → t.slot k = (s.slot k).thawed) ∧
      (∀ k, ¬s.ofJob p job k = true → t.slot k = s.slot k) := by
  have hnone : (s.cores.filter fun e => e.1 / 4096 == p && e.2.runs job) = [] := by
    refine List.filter_eq_nil_iff.mpr fun e he => ?_
    rw [hcores e he, Bool.and_false]
    exact Bool.false_ne_true
  refine ⟨({ s with slots := s.slots.mapV fun k t => if s.ofJob p job k then t.thawed else t } : State).modGang p job fun g =>
    { g with phase := .admitted, done := false, marked := false, watched := false }, ?_, ?_, fun k hk => ?_, fun k hk => ?_⟩
  · unfold execInAdmit
    simp only [hp, hjob, ho, hph, hd, hnone, and_self, if_true, List.map_nil, List.foldl_nil]
  · rw [State.gang_modGang_self]
  · exact (State.slot_ofJob_mapV Slot.thawed k).trans (if_pos hk)
  · exact (State.slot_ofJob_mapV Slot.thawed k).trans (if_neg hk)

end

end Sys2Proof.Machine

end

section

/-! # Repair: one lemma for each of UNCORRECTABLE_ERROR's three events, and O50 (R109 to R111) -/

namespace Sys2Proof.Machine

theorem peerOf_quadOf (c : Nat) : peerOf (quadOf c) = c / 1024 := Nat.div_div_eq_div_mul c 4 256
theorem pkg_of_core (c : Nat) : c / 1024 / 4 = c / 4096 := Nat.div_div_eq_div_mul c 1024 4

/-! ### The failing core's threads stop (R109) -/

section

variable {s : State} {c : Nat}

/-- With no job on the die none is frozen for the repair. -/
theorem State.freezeFor_nil (peer : Nat) : s.freezeFor peer [] = s.modPkg (peer / 4) fun x => { x with repair := x.repair.map fun r => { r with jobs := r.jobs } } := rfl

theorem State.startRepair_core (hj : s.jobsOn (c / 1024) = []) : s.startRepair c none =
    ((s.modSlots (c * 8) (fun _ => true) (fun _ => Slot.frozen) 8).modPkg (c / 4096) fun x => { x with repair := some { core := c, jobs := [] } }).freezeFor (c / 1024) [] := by
  unfold State.startRepair
  dsimp only
  rw [hj, pkg_of_core]
  rfl

theorem execUncorrectableError_freezes (hc : s.arg.a = c) (hr : (s.pkg (c / 4096)).repair = none) (hon : (s.pkg (c / 4096)).power = .on) (hj : s.jobsOn (c / 1024) = [])
    (hgood : s.arg.good = true) : ∃ t, execUncorrectableError s = .next t ∧ (t.pkg (c / 4096)).repair = some { core := c, jobs := [] } ∧
      ∀ i, i < 8 → t.slot (c * 8 + i) = (s.slot (c * 8 + i)).frozen := by
  refine ⟨s.startRepair c none, ?_, ?_, fun i hi => ?_⟩
  · unfold execUncorrectableError
    simp only [hc, hr, hon, hgood, if_true]
  · rw [State.startRepair_core hj, State.freezeFor_nil, pkg_of_core, State.modPkg_modPkg, State.pkg_modPkg_self]
    rfl
  · rw [State.startRepair_core hj, State.freezeFor_nil, State.slot_modPkg, State.slot_modPkg, State.slot_modSlots hi, if_pos rfl]

end

/-! ### Words that a vault's copy could not read (R16; log entry 36) -/

section

variable {s : State} {a : Nat}

/-- A word is empty and poisoned. -/
def State.lostAt (s : State) (a : Nat) : Prop := s.poisonAt a = true ∧ s.fullAt a = false

theorem State.poisonAt_setPoison (b : Nat) (v : Bool) : (s.setPoison b v).poisonAt a = if a / 8 * 8 = b / 8 * 8 then v else s.poisonAt a := NSet.mem_put _ _ _ _

theorem State.fullAt_setFull (b : Nat) (v : Bool) : (s.setFull b v).fullAt a = if a / 8 * 8 = b / 8 * 8 then v else s.fullAt a := by
  unfold State.fullAt State.setFull
  dsimp only
  rw [NSet.mem_put]
  split
  · exact Bool.not_not v
  · rfl

/-- A word's data lost: left empty and poisoned. -/
def State.loseWord (s : State) (b : Nat) : State := (s.setFull (b / 8 * 8) false).setPoison (b / 8 * 8) true

theorem State.lostAt_loseWord_self : (s.loseWord a).lostAt a := by
  have ha : a / 8 * 8 = a / 8 * 8 / 8 * 8 := by omega
  constructor
  · unfold State.loseWord
    rw [State.poisonAt_setPoison, if_pos ha]
  · exact (State.fullAt_setFull (s := s) (a := a) _ false).trans (if_pos ha)

theorem State.lostAt.loseWord (h : s.lostAt a) (b : Nat) : (s.loseWord b).lostAt a := by
  constructor
  · unfold State.loseWord
    rw [State.poisonAt_setPoison]
    split
    · rfl
    · exact h.1
  · refine (State.fullAt_setFull (s := s) (a := a) _ false).trans ?_
    split
    · rfl
    · exact h.2

/-- The words at some offsets of a die lost. -/
def State.loseWords (s : State) (peer : Nat) (l : List Nat) : State := l.foldl (fun s off => s.loseWord (paOf peer off)) s

theorem State.lostAt_loseWords {peer off : Nat} {l : List Nat} (h : off ∈ l) : (s.loseWords peer l).lostAt (paOf peer off) :=
  foldl_reaches (P := fun t : State => t.lostAt (paOf peer off)) (Q := fun _ => True) h (fun _ _ _ => trivial) (fun _ _ => State.lostAt_loseWord_self) (fun _ _ ht => ht.loseWord _)
    s trivial

theorem State.sameTables_loseWords (peer : Nat) (l : List Nat) : (s.loseWords peer l).pkgs = s.pkgs ∧ (s.loseWords peer l).dies = s.dies :=
  foldl_keeps (P := fun t : State => t.pkgs = s.pkgs ∧ t.dies = s.dies) (f := fun s off => s.loseWord (paOf peer off)) (fun _ _ h => h) l s ⟨rfl, rfl⟩

end

/-! ### A quad retired (R13, R15 to R17, R109; log entry 42) -/

section

variable {s : State} {q x : Nat}

/-- A quad's remap entry naming a spare block, which is in use from then on. -/
def Die.remapped (d : Die) (n x : Nat) : Die :=
  { d with spares := d.spares.insert x, remap := d.remap.set n ((1 : BitVec 1) ++ (0 : BitVec 6) ++ (16 : BitVec 5) ++ BitVec.ofNat 4 x) }

/-- The offsets of a quad's own vaults among some. -/
def ownOffsets (q : Nat) (l : List Nat) : List Nat := l.filter fun off => off < dramEnd && sliceOf off / 2 == quadNo q

/-- The remap entry of a spare block: valid, column 16 and the block's row (R14). -/
theorem spareEntry_eq (hx : x < 16) : ((1 : BitVec 1) ++ (0 : BitVec 6) ++ (16 : BitVec 5) ++ BitVec.ofNat 4 x : BitVec 16) = BitVec.ofNat 16 (0x8000 + 16 * 16 + x) := by
  interval_cases x <;> rfl

theorem Die.spareRow_lt {d : Die} (h : d.spareRow = some x) : x < 16 := List.mem_range.mp (List.mem_of_find?_eq_some h)

/-- A package's counters with one quad of a die retired, of whose spare blocks some were in use (R77). -/
def Lifetime.quadRetired (l : Lifetime) (die used : Nat) : Lifetime :=
  { l with retired := l.retired.set die (l.retired.get 0 die + 1), left := l.left.set die (BitVec.ofNat 16 (15 - min 15 used)) }

/-- A spare block in a quad's place. -/
def State.spareQuad (s : State) (q x : Nat) : State :=
  (s.modPkg (peerOf q / 4) fun y => { y with life := y.life.quadRetired (peerOf q % 4) (s.die (peerOf q)).spares.length }).modDie (peerOf q) (·.remapped (quadNo q) x)

theorem State.repair_spareQuad : ((s.spareQuad q x).pkg (peerOf q / 4)).repair = (s.pkg (peerOf q / 4)).repair := by
  unfold State.spareQuad
  rw [State.pkg_modDie, State.pkg_modPkg_self]

/-- A retired quad that held no lines: a spare block takes its place, its unread words are lost and reported. -/
theorem State.retireQuad_spares {bad : List Nat} (hdir : (s.die (peerOf q)).dir = []) (hlines : (s.quad q).lines = []) (hx : (s.die (peerOf q)).spareRow = some x) :
    ∃ host, s.retireQuad q bad = { (s.spareQuad q x).loseWords (peerOf q) (ownOffsets q bad) with host := host } := by
  unfold State.retireQuad
  simp only [hdir, hlines, List.filter_nil, List.map_nil, List.foldl_nil, hx]
  split
  · next hnone =>
    unfold ownOffsets
    rw [hnone]
    exact ⟨s.host, rfl⟩
  · exact ⟨_, rfl⟩

/-- A die whose quad has been remapped with its unread words lost, its package's repair as it was. -/
structure State.Remapped (q x : Nat) (bad : List Nat) (s t : State) : Prop where
  remap : (t.die (peerOf q)).remap.find (quadNo q) = some (BitVec.ofNat 16 (0x8000 + 16 * 16 + x))
  spares : (t.die (peerOf q)).spares.mem x = true
  repair : (t.pkg (peerOf q / 4)).repair = (s.pkg (peerOf q / 4)).repair
  lost : ∀ off ∈ bad, off < dramEnd → sliceOf off / 2 = quadNo q → t.lostAt (paOf (peerOf q) off)

theorem State.remapped_retireQuad {bad : List Nat} (hdir : (s.die (peerOf q)).dir = []) (hlines : (s.quad q).lines = []) (hx : (s.die (peerOf q)).spareRow = some x) :
    State.Remapped q x bad s (s.retireQuad q bad) := by
  obtain ⟨host, h⟩ := State.retireQuad_spares (bad := bad) hdir hlines hx
  obtain ⟨hpkgs, hdies⟩ := State.sameTables_loseWords (s := s.spareQuad q x) (peerOf q) (ownOffsets q bad)
  have hdie : (s.retireQuad q bad).die (peerOf q) = (s.die (peerOf q)).remapped (quadNo q) x := by
    rw [h]
    unfold State.die
    dsimp only
    rw [hdies]
    exact NMap.get_set_self _ _ _ _
  refine ⟨?_, ?_, ?_, fun off hoff hlt hslice => ?_⟩
  · rw [hdie, ← spareEntry_eq (Die.spareRow_lt hx)]
    exact NMap.find_set_self _ _ _
  · rw [hdie]
    unfold Die.remapped
    rw [NSet.mem_insert, beq_self_eq_true, Bool.true_or]
  · rw [h]
    unfold State.pkg
    dsimp only
    rw [hpkgs]
    exact State.repair_spareQuad
  · have hown : off ∈ ownOffsets q bad := List.mem_filter.mpr ⟨hoff, by simp [hlt, hslice]⟩
    rw [h]
    exact State.lostAt_loseWords (s := s.spareQuad q x) hown

end

/-! ### The quad remapped, and the repair's end (R109 to R111) -/

section

variable {s : State} {c : Nat} {r : Repair}

/-- The offsets that the event brings, eight bytes each (R16). -/
def State.badOffsets (s : State) : List Nat := (List.range (s.arg.bytes.length / 8)).map fun i => imgField s.arg.bytes (8 * i) 8

theorem State.middleRepair_core (p : Nat) (bad : List Nat) (hu : r.unit = none) (hj : r.jobs = []) : s.middleRepair p r bad =
    (((s.retireQuad (quadOf r.core) bad).wipeStash r.core).modPkg p fun x => { x with repair := x.repair.map fun r => { r with retired := true } }) := by
  unfold State.middleRepair
  simp only [hu, hj, Option.isSome_none, Bool.false_eq_true, if_false, List.foldl_nil]

theorem State.die_wipeStash (k j : Nat) : (s.wipeStash k).die j = s.die j := by
  unfold State.wipeStash
  rfl

theorem State.pkg_wipeStash (k j : Nat) : (s.wipeStash k).pkg j = s.pkg j := by
  unfold State.wipeStash
  rfl

theorem State.lostAt.wipeStash {a : Nat} (h : s.lostAt a) (k : Nat) : (s.wipeStash k).lostAt a := by
  unfold State.wipeStash
  exact h

theorem State.lostAt.modPkg {a : Nat} (h : s.lostAt a) (k : Nat) (f : Pkg → Pkg) : (s.modPkg k f).lostAt a := h

variable (hc : s.arg.a = c) (hr : (s.pkg (c / 4096)).repair = some r) (hcore : r.core = c) (hj : r.jobs = [])

include hc hr hcore hj

theorem execUncorrectableError_remaps {x : Nat} (hu : r.unit = none) (hret : r.retired = false) (hjobs : s.jobsOn (c / 1024) = []) (hlines : (s.quad (quadOf c)).lines = [])
    (hdir : (s.die (c / 1024)).dir = []) (hx : (s.die (c / 1024)).spareRow = some x) :
    ∃ t, execUncorrectableError s = .next t ∧ (t.die (c / 1024)).remap.find (quadNo (quadOf c)) = some (BitVec.ofNat 16 (0x8000 + 16 * 16 + x)) ∧
      (t.die (c / 1024)).spares.mem x = true ∧ (t.pkg (c / 4096)).repair = some { r with retired := true } ∧
      ∀ off ∈ s.badOffsets, off < dramEnd → sliceOf off / 2 = quadNo (quadOf c) → t.lostAt (paOf (c / 1024) off) := by
  rw [← peerOf_quadOf] at hdir hx
  have h := State.remapped_retireQuad (s := s) (bad := s.badOffsets) hdir hlines hx
  rw [← pkg_of_core, ← peerOf_quadOf] at hr ⊢
  refine ⟨s.middleRepair (peerOf (quadOf c) / 4) r s.badOffsets, ?_, ?_⟩
  · unfold execUncorrectableError
    rw [peerOf_quadOf, pkg_of_core] at hr ⊢
    simp only [hc, hr, hcore, hj, hret, hjobs, ne_eq, not_true_eq_false, if_false, Bool.not_false, if_true, List.filter_nil, List.all_nil]
    rfl
  · have hmiddle := State.middleRepair_core (s := s) (peerOf (quadOf c) / 4) s.badOffsets hu hj
    rw [hcore] at hmiddle
    rw [hmiddle, State.die_modPkg, State.die_wipeStash, State.pkg_modPkg_self, State.pkg_wipeStash, h.repair, hr]
    exact ⟨h.remap, h.spares, rfl, fun off hoff hlt hslice => ((h.lost off hoff hlt hslice).wipeStash c).modPkg _ _⟩

theorem execUncorrectableError_ends (hret : r.retired = true) : execUncorrectableError s = .next (s.modPkg (c / 4096) fun x => { x with repair := none }) := by
  unfold execUncorrectableError
  simp only [hc, hr, hcore, hj, hret, ne_eq, not_true_eq_false, if_false, Bool.not_true, Bool.false_eq_true, List.all_nil, if_true]
  unfold State.endRepair
  rw [hj]
  rfl

end

/-! ### The obligation -/

/-- Settles O50, from the lemmas for each event. -/
theorem gangEvents : Obligations.GangEvents := by
  intro s p job g a mine c
  refine ⟨fun w ev op hw ht hev hop => ?_, fun v r hanchor hv hcur hrep => ⟨fun d k wc hbad hq hsvc => ?_, fun hbad hop => ?_, fun hbad hop hq hsvc => ?_⟩,
    fun ho hb hf hg => execFreeze_freezes rfl rfl ho hb hf hg, fun ho hph hg hn => execMark_sends rfl rfl ho hph hg hn, fun ho hph => ?_,
    fun ho hph ha => ⟨execSave_saves rfl rfl ho hph ha, execSave_faults rfl rfl ho hph ha⟩,
    fun ho hph => ⟨execRelease_waits rfl rfl ho hph, fun ev hev => exec_release_frees rfl rfl ho hph hev⟩,
    fun v hv hvj hcomplete htold => ⟨execPhaseComplete_tells rfl rfl hv hcomplete htold, fun o ha hpart hheld ho => ?_⟩, ⟨?_, fun r ho hph hr hfirst => ?_, fun r l ho hph hs hl => ?_⟩,
    fun ho hph hd hcores => execInAdmit_thaws rfl rfl ho hph hd hcores,
    ⟨fun hr hon hj hgood => execUncorrectableError_freezes rfl hr hon hj hgood, fun r x hr hcore hu hj hret hjobs _ hlines hdir hx => ?_,
      fun r hr hcore hj hret => execUncorrectableError_ends rfl hr hcore hj hret⟩⟩
  · rw [exec_gang_sends rfl hev hw ht hop, State.sendGang_eq]
    subst hop
    rfl
  · exact execGangCommandStart_refuses rfl rfl hanchor hv hcur hrep hbad hq hsvc
  · obtain ⟨t, ht, hcurrent, hrest, hordered⟩ := execGangCommandStart_orders rfl rfl hanchor hv hcur hrep hbad hop
    refine ⟨t, ht, hcurrent, hrest, fun x hx => ?_⟩
    rw [hordered x hx]
    exact ⟨rfl, rfl, rfl, rfl, fun h0 => if_pos h0⟩
  · exact execGangCommandStart_aborts rfl rfl hanchor hv hcur hrep hbad hop hq hsvc
  · obtain ⟨t, ht, h⟩ := execSweep_step rfl rfl ho hph
    exact ⟨t, ht, h.phase, h.net, h.slots, fun i _ => h.swept i, h.done, fun hm => h.retry (beq_iff_eq.mpr hm), h.taken⟩
  · have hnext : nextOrder g.order = o ∧ o ≠ .none := by
      simp only [List.mem_cons, Prod.mk.injEq, List.not_mem_nil, or_false] at ho
      obtain ⟨h, rfl⟩ | ⟨h, rfl⟩ | ⟨h, rfl⟩ | ⟨h, rfl⟩ | ⟨h, rfl⟩ := ho <;> rw [h] <;> exact ⟨rfl, nofun⟩
    obtain ⟨hexec, hgang⟩ := execPhaseComplete_orders rfl rfl hv hcomplete htold ha hvj hpart hheld hnext.1 hnext.2
    refine ⟨_, hexec, ?_⟩
    rw [hgang, State.tellAnchor, State.gang_modGang_self]
    exact ⟨rfl, rfl, rfl⟩
  · exact fun ho hph hf => execInRestore_restores rfl rfl ho hph hf
  · exact execInRestore_puts rfl rfl ho hph (Gang.nextBack_sweep hr hfirst)
  · exact execInRestore_puts rfl rfl ho hph (Gang.nextBack_late _ hs hl)
  · obtain ⟨t, ht, hremap, hspares, hrepair, hlost⟩ := execUncorrectableError_remaps rfl hr hcore hj hu hret hjobs hlines hdir hx
    exact ⟨t, ht, hremap, hspares, hrepair, fun i hi hlt hslice => hlost _ (List.mem_map.mpr ⟨i, List.mem_range.mpr hi, rfl⟩) hlt hslice⟩

end Sys2Proof.Machine

end

section

/-! # Traps raised by instructions, loops, and instructions that do not issue: O11, O6, O15 -/

namespace Sys2Proof.Machine

/-- An instruction whose fields its encoding does not allow traps (R256). -/
theorem traps_illegal {s : State} {i : Instr} {u : Uses} {f : State → State} (he : exec i s = s.issue i u f) (hw : wellFormed i = false) :
    Traps s i 0x01 0 (zx (encode i)) := he.trans (issue_illegal hw)

/-! ### TRAP, BKPT, HALT, NOP (R281) -/

/-- A legal instruction that parks its thread after itself (R136, R281). -/
theorem State.trapAfter_eq {s : State} {i : Instr} (hl : ilen i = 4) (cause : BitVec 8) (detail : Word) :
    s.trapAfter i cause detail = (s.withMe (s.me.advance 4)).takeTrap s.cur { cause := cause, detail := detail } (s.me.advance 4).pc := by
  unfold State.trapAfter State.done
  dsimp only
  rw [hl, State.modMe_eq_withMe, State.withMe_cur, State.me_withMe]

theorem exec_halt_waits {s : State} (hd : s.me.drained = false) : exec .halt s = .next s.waitHere := by
  change s.issue .halt {} (fun s => if s.me.drained then s.trapAfter .halt 0x0E 0x1000 else s.waitHere) = _
  cases hb : s.me.busy {} with
  | true => exact issue_waits rfl hb
  | false => rw [issue_ok rfl hb, hd]; rfl

/-- Settles O11: TRAP, BKPT and HALT issue and park after themselves. -/
theorem trapInstructions : Obligations.TrapInstructions := by
  refine ⟨fun s c w => ⟨fun hb => ⟨?_, ?_, fun hd => ?_⟩, exec_halt_waits, rfl⟩, fun s hb => ?_⟩
  · change execTrap c s = _
    exact (issue_ok rfl hb).trans (congrArg _ (State.trapAfter_eq rfl _ _))
  · change execBkpt c s = _
    exact (issue_ok rfl hb).trans (congrArg _ (State.trapAfter_eq rfl _ _))
  · change execHalt s = _
    exact (issue_ok rfl hb).trans (congrArg _ ((if_pos hd).trans (State.trapAfter_eq rfl _ _)))
  · change execNop s = _
    exact issue_ok rfl hb

/-! ### Loops (R128 to R130, R279) -/

theorem loopStep_one_elsewhere {wd : BitVec 16} {nxt : Word} {o : Loop} (h : o.depth ≠ wd ∨ o.stop ≠ nxt) : loopStep wd nxt [o] = (nxt, [o]) :=
  if_neg (by rwa [not_and_or])

theorem loopStep_one_again {wd : BitVec 16} {nxt : Word} {o : Loop} (hd : o.depth = wd) (hs : o.stop = nxt) (hc : 1 < o.count.toNat) :
    loopStep wd nxt [o] = (o.start, [{ o with count := o.count - 1 }]) := (if_pos ⟨hd, hs⟩).trans (if_pos hc)

theorem loopStep_one_last {wd : BitVec 16} {nxt : Word} {o : Loop} (hd : o.depth = wd) (hs : o.stop = nxt) (hc : o.count.toNat ≤ 1) :
    loopStep wd nxt [o] = (nxt, []) := (if_pos ⟨hd, hs⟩).trans (if_neg (Nat.not_lt.mpr hc))

theorem loopStep_two_elsewhere {wd : BitVec 16} {nxt : Word} {o i : Loop} (h : i.depth ≠ wd ∨ i.stop ≠ nxt) : loopStep wd nxt [o, i] = (nxt, [o, i]) :=
  if_neg (by rwa [not_and_or])

theorem loopStep_two_again {wd : BitVec 16} {nxt : Word} {o i : Loop} (hd : i.depth = wd) (hs : i.stop = nxt) (hc : 1 < i.count.toNat) :
    loopStep wd nxt [o, i] = (i.start, [o, { i with count := i.count - 1 }]) := (if_pos ⟨hd, hs⟩).trans (if_pos hc)

theorem loopStep_two_last {wd : BitVec 16} {nxt : Word} {o i : Loop} (hd : i.depth = wd) (hs : i.stop = nxt) (hc : i.count.toNat ≤ 1) :
    loopStep wd nxt [o, i] = loopStep wd nxt [o] := (if_pos ⟨hd, hs⟩).trans (if_neg (Nat.not_lt.mpr hc))

section

variable {s : State} {i : Instr} {len : Nat}

theorem State.loop_skips : s.loop i 0 len =
    s.withMe { s.me with pc := s.me.pc + 4 + BitVec.ofNat 64 (2 * len), st := .run, hold := .none, waited := 0, issued := s.me.issued + 1 } := rfl

variable {n : Nat} (hn : n ≠ 0)

include hn

theorem State.loop_enters (hl : ilen i = 4) (h2 : s.me.loops.length < 2) : s.loop i n len = s.withMe (({ s.me with
    loops := s.me.loops ++ [{ start := s.me.pc + 4, stop := s.me.pc + 4 + BitVec.ofNat 64 (2 * len), count := BitVec.ofNat 64 n, depth := s.me.wdepth }] } : Slot).advance 4) := by
  unfold State.loop State.done
  dsimp only
  rw [if_neg hn, if_neg (Nat.not_le.mpr h2), hl]
  exact State.withMe_modMe s _ _

theorem State.loop_traps (h2 : 2 ≤ s.me.loops.length) : s.loop i n len = s.trapHere 0x04 := (if_neg hn).trans (if_pos h2)

end

theorem wellFormed_loop {a : BitVec 5} {l : BitVec 15} (h : l ≠ 0) : wellFormed (.loop a l) = true := decide_eq_true h
theorem wellFormed_loopi {c m : BitVec 10} (h : m ≠ 0) : wellFormed (.loopi c m) = true := decide_eq_true h

/-- Settles O6, from the lemmas for the loop unit and for what LOOP and LOOPI do once their count is known. -/
theorem loops : Obligations.Loops := by
  refine ⟨⟨fun _ _ => rfl, fun _ _ _ => ⟨loopStep_one_elsewhere, loopStep_one_again, loopStep_one_last⟩,
    fun _ _ _ _ => ⟨loopStep_two_elsewhere, loopStep_two_again, loopStep_two_last⟩⟩, fun s a l c m => ⟨fun hl hb => ?_, fun hm hb => ?_, ?_, ?_⟩⟩
  · have he : execLoop a l s = .next (s.loop (.loop a l) (min (s.rd a).toNat 0xFFFF_FFFF) l.toNat) := issue_ok (wellFormed_loop hl) hb
    refine ⟨fun hn => ?_, fun hn h2 => ?_, fun hn h2 => ?_⟩
    · exact he.trans (by rw [show min (s.rd a).toNat 0xFFFF_FFFF = 0 from hn, State.loop_skips])
    · exact he.trans (congrArg _ (State.loop_enters hn rfl h2))
    · exact he.trans (congrArg _ (State.loop_traps hn h2))
  · have he : execLoopi c m s = .next (s.loop (.loopi c m) c.toNat m.toNat) := issue_ok (wellFormed_loopi hm) hb
    have hcount : c ≠ 0 → c.toNat ≠ 0 := fun hc h => hc (BitVec.eq_of_toNat_eq h)
    refine ⟨fun hc => ?_, fun hc h2 => ?_, fun hc h2 => ?_⟩
    · exact he.trans (by rw [hc]; rfl)
    · exact he.trans (congrArg _ (State.loop_enters (hcount hc) rfl h2))
    · exact he.trans (congrArg _ (State.loop_traps (hcount hc) h2))
  · change execLoop a 0 s = _
    exact issue_illegal rfl
  · change execLoopi c 0 s = _
    exact issue_illegal rfl

end Sys2Proof.Machine

end

section

/-! # Instructions that do not issue (O15): illegal encodings trap, and pending operands hold an instruction back -/

namespace Sys2Proof.Machine

section

variable {s : State} {i : Instr}

/-- What every instruction looks at first (R136, R256); `o` is what it does once it is legal. -/
theorem illegal_first {o : Out} (hw : wellFormed i = false) : (if !wellFormed i then .next (s.illegal i) else o) = .next (s.illegal i) := if_pos (by rw [hw]; rfl)

/-- A supervisor's call looks at its core before (R251). -/
theorem illegal_second {o : Out} {b : Bool} (hw : wellFormed i = false) :
    (if b then .next (s.illegal i) else if !wellFormed i then .next (s.illegal i) else o) = .next (s.illegal i) := by
  rw [illegal_first hw, ite_self]

/-- What every instruction looks at next (R115): it waits at itself while a register or flag that it names is pending. -/
theorem waits_next {u : Uses} {o : Out} (hw : wellFormed i = true) (hb : s.me.busy u = true) :
    (if !wellFormed i then .next (s.illegal i) else if s.me.busy u then .next s.waitHere else o) = .next (s.withMe { s.me with st := .wait, hold := .reissue }) := by
  rw [hw, hb]
  rfl

end

/-- Whatever the state, an instruction whose fields its encoding does not allow takes the illegal-instruction trap: every instruction looks at its legality first (R136, R256). -/
theorem exec_illegal {i : Instr} (hw : wellFormed i = false) (hi : isEvent i = false) (s : State) : exec i s = .next (s.illegal i) := by
  unfold exec
  cases i with
  | add | sub | mul | mulh | mulhn | div | divn | rem | remn | and | or | xor | andn | shl | shr | sra | rol | min | max | minn | maxn | clz | popc | sext | zext |
    sel | cmp | addi | andi | ori | xori | shli | shri | srai | roli | cmpi | li | lui | ltop | fadd | fsub | fmul | ffma | fdiv | fsqrt | fmin | fmax | fabs |
    fneg | fclass | frnd | fcvt | ftoi | fcmp | bt | bf | br | callr | jmpr | ret | loop | loopi | ldb | ldbs | ldh | ldhs | ldw | ldws | ldd | stb | sth | stw |
    std | ldff | ldfe | stef | stff | ldxx | sete | aadd | aand | aor | axor | amin | amax | aminn | amaxn | aswap | cas | afadd | cflush | cinv | smap | sunmap |
    swb | pref | fmtw | sfmt | mbxw | mbxwi | mbxr | mbxt | semp | semv | qpush | qpop | wfe | sev | bara | barw | barq | tkgetInsn | tkwait | tkdoneInsn | ctrb |
    ctres | ctabtInsn | spawn | migr | exit | yield | ckpt | vmov | vadd | vsub | vmul | vfma | vfms | vmax | vmin | vabs | vneg | vand | vor | vxor | vandn | vshl |
    vshr | vsra | vmulh | vclz | vpopc | vcvt | vrcp | vrsq | vperm | vsel | vcmp | vmovShort | vaddF32Short | vsubF32Short | vmulF32Short | vmaxF32Short |
    vminF32Short | vaddI32Short | vsubI32Short | vandShort | vorShort | vxorShort | vaddB2Short | vmulB2Short | vshlI32Short | vshrN32Short | vselShort | vbcast |
    vext | vins | vredadd | vredmax | vredmin | viota | vredfadd | vtblw | vtlerp | vtlcfg | kand | kor | kxor | knot | kset | kget | kpop | kfirst | kany | klen |
    vld | vst | vldd | vldx | vstx | mopen | mma | mmas | mmaw | mrot | mcont | mfwd | mread | mqry | mabn | mclose | mflg | cpy | cpy2 | cpyf | cpyk | mfs | mts |
    trap | halt | nop | bkpt | callInsn => exact illegal_first hw
  | svcRsm | svcKill | svcTlbinv | svcGangctl | svcPrmpt | svcMsgrd => exact illegal_second hw
  | illegalInstruction => rfl
  | powerOn | railsSettled | powerOff | bootStageLoad | recoveryWindowWrite | recovctlWrite | recoveryPieceCopied | heartbeatMissed | attgoWrite |
    attestationReportDone | lifetimeCommit | monthAdvance | pwrctlP0 | pwrctlP1 | pwrctlP2 | pwrctlP3 | powerTransitionDone | thermalAlert | thermtrip |
    dramEccCorrect | dramEccPoison | tarmelFlitReplay | tarmelLaneSpare | tarmelRetrainDone | tarmelGroupDisable | vilamFlitReplay | vilamPortDegrade |
    routeRewrite | routeResume | pcieLinkTrain | packetForward | load | store | atomic | feop | copyw | contrib | task | tkget | tkreg | tkdone | resp | ack | nack |
    nackRetry | call | ctup | ctdown | ctabt | pbar | barrierArrive | hostBar4Read | hostBar4Write | qbaseWrite | qridxWrite | qcfgWrite | notifyWrite |
    registerWrite | packetRead | waitValidReread | packetBegin | launch | launchAccept | depend | dependPoll | signalStore | signalAdd | signalSubtract | copy |
    copyPiece | pcieCompletion | gangOut | gangIn | gangAbort | gangCommandStart | freeze | mark | sweep | save | release | releaseHostWaitExpiry | phaseComplete |
    inRestore | inAdmit | uncorrectableError | cobaltBind | cobaltPreempt | preemption | cobaltResume | spillRedeliver | parcelRetire | retired | reply |
    streamRelease | waitTimeout | exitDrained | walkComplete | stashLineFill | homeRead | homeWrite | quadInvalidate | quadRecall | invalidationAck | writeGrant |
    evictionNotice | engineAccept | contributionArrival | mrotDelivery | copyStart | copyDone | svcCompletion | routerGroupWrite | migrSend | scopeSet |
    tileCommandArrival | thermalAlertClear => cases hi

theorem Slot.busy_swap (t : Slot) (a b : BitVec 5) : t.busy { regs := [a, b] } = t.busy { regs := [b, a] } := by
  unfold Slot.busy
  simp [Bool.or_comm (t.pendingW a)]

/-- Settles O15, from the lemmas for illegal fields and for pending operands. -/
theorem illegalAndPending : Obligations.IllegalAndPending := by
  refine fun s => ⟨fun i hw hi => exec_illegal hw hi s, fun d a b f m p c n o q => ⟨fun i hi hw hb => ?_, fun i hi hw hb => ?_, fun hw hb => ?_, fun hw hb => ?_, fun hw hb => ?_,
    fun hw hb => ?_, fun hw hb => ?_, fun hw hb => ?_, fun hw hb => ?_⟩⟩
  · fin_cases hi <;> exact waits_next hw hb
  · have hb' : s.me.busy { regs := [a, d] } = true := by rwa [Slot.busy_swap]
    fin_cases hi
    iterate 15 exact waits_next hw hb
    iterate 2 exact waits_next hw hb'
  · exact waits_next (i := .cmp m f a b c) hw hb
  · exact waits_next (i := .fcmp m f a b p c) hw hb
  · exact waits_next (i := .sel d a b f) hw hb
  · exact waits_next (i := .bt f 0) hw hb
  · exact waits_next (i := .bf f 0) hw hb
  · exact waits_next (i := .jmpr a) hw hb
  · exact waits_next (i := .loop a 1) hw hb

end Sys2Proof.Machine

end

section

/-! # When a stream operation issues and begins (O16) -/

namespace Sys2Proof.Machine

section

variable {s : State} {i : Instr} {u : Uses} {trap : State → Option State} {x : State → Issue}

/-- An operation of a stream that has no room waits at itself, whether or not a register of it is pending (R115, R187). -/
theorem State.streamOp_waits (hw : wellFormed i = true) (hx : s.me.hasRoom (x s).st.toNat = false) : s.streamOp i u noTrap x = .next s.waitHere := by
  unfold State.streamOp
  cases hb : s.me.busy u with
  | true => exact issue_waits hw hb
  | false =>
    rw [issue_ok hw hb]
    unfold noTrap State.issueOp
    rw [hx]
    rfl

end

/-- The oldest operation of a stream that has one outstanding stays its oldest as another issues (R182). -/
theorem Slot.front_issueOp {t : Slot} {i : Instr} {x : Issue} {j : Nat} (h : t.window j ≠ 0) : (t.issueOp i x).front j = t.front j := by
  have hops : (t.issueOp i x).ops = t.ops ++ [t.newOp i x] := by
    unfold Slot.issueOp
    split <;> simp
  cases hf : t.ops.find? fun o => o.stream.toNat == j with
  | none => exact absurd (by simp [Slot.window, Slot.front, hf]) h
  | some o => simp only [Slot.front, hops, List.find?_append, hf, Option.some_or]

/-- A mask that names a stream with an operation outstanding is not met (R185). -/
theorem Slot.maskMet_issueOp_waits {t : Slot} {i : Instr} {x : Issue} {j : Nat} (hj : j < 4) (hm : x.pm.getLsbD j = true) (h : t.window j ≠ 0)
    (hr : t.hasRoom x.st.toNat = true) : (t.issueOp i x).maskMet (t.newOp i x) = false := by
  have hneed : (bits (t.newOp i x).need (16 * j) 16 : BitVec 16) = (t.stream j).next := bits_needs t j hj
  have hmask : (t.newOp i x).mask.getLsbD j = true := hm
  have hroom : t.window x.st.toNat < 64 := by
    simp only [Slot.hasRoom, Bool.and_eq_true, decide_eq_true_eq] at hr
    exact hr.1
  unfold Slot.maskMet
  rw [List.all_eq_false]
  refine ⟨j, List.mem_range.mpr hj, ?_⟩
  rw [hneed, hmask, Slot.front_issueOp h, Slot.stream_issueOp]
  unfold Slot.window at h hroom
  split
  · next he =>
    subst he
    simp only [Bool.not_true, Bool.false_or, decide_eq_true_eq]
    bv_omega
  · simp only [Bool.not_true, Bool.false_or, decide_eq_true_eq]
    bv_omega

/-- An operation whose mask names a stream with an operation outstanding takes its number and stays deferred (R182, R185). -/
theorem State.issueOp_defers {s : State} {i : Instr} {x : Issue} {j : Nat} (hr : s.me.hasRoom x.st.toNat = true) (hj : j < 4) (hm : x.pm.getLsbD j = true)
    (h : s.me.window j ≠ 0) (hid : ∀ o ∈ s.me.ops, o.id < s.me.opId) (hk : ∀ fn, x.kind ≠ .fe fn) : s.issueOp i x = s.withMe (s.me.issueOp i x) := by
  have hop : (s.me.issueOp i x).op s.me.opId = some (s.me.newOp i x) := by
    have hops : (s.me.issueOp i x).ops = s.me.ops ++ [s.me.newOp i x] := by
      unfold Slot.issueOp
      split <;> simp
    have hnone : s.me.ops.find? (·.id == s.me.opId) = none := List.find?_eq_none.mpr fun o ho => by have := hid o ho; simp; omega
    rw [Slot.op, hops, List.find?_append, hnone]
    exact List.find?_cons_of_pos (a := s.me.newOp i x) (p := fun o => o.id == s.me.opId) (beq_self_eq_true s.me.opId)
  unfold State.issueOp
  dsimp only
  rw [hr, State.modMe_eq_withMe, State.inOrder_of_not_fe _ _ _ _ hk]
  unfold State.beginOp
  rw [State.slot_withMe_cur, hop]
  exact if_pos (Or.inr (by rw [Slot.maskMet_issueOp_waits hj hm h hr]; exact Bool.false_ne_true))

/-- Settles O16, from the lemmas for an operation without room and for one whose mask is not met. -/
theorem streamNumbers : Obligations.StreamNumbers := by
  refine fun s n p st i => ⟨fun hr => ⟨?_, ?_, ?_⟩, fun hr hb hi hp hw hid => ⟨s.me.newOp (.semv n p st) { kind := .semv n.toNat, st := st, pm := p }, ?_, rfl, rfl, rfl, rfl, rfl, rfl⟩,
    fun t a o ht hb => ?_, fun d a b hd hb => ?_⟩
  · change execSemv n p st s = _
    exact State.streamOp_waits rfl hr
  · change execMbxwi n p st s = _
    exact State.streamOp_waits rfl hr
  · change execWfe p st s = _
    exact State.streamOp_waits rfl hr
  · change execSemv n p st s = _
    unfold execSemv State.streamOp
    rw [issue_ok rfl hb]
    unfold noTrap
    dsimp only
    rw [State.issueOp_defers (x := { kind := .semv n.toNat, st := st, pm := p }) hr hi hp hw hid nofun, Slot.issueOp_free _ _ _ rfl rfl]
    rfl
  · change execLdd t a st p o s = _
    exact waits_next (i := .ldd t a st p o) ht hb
  · change execAdd d a b s = _
    exact waits_next (i := .add d a b) hd hb

end Sys2Proof.Machine

end

section

/-! # Where scalar accesses trap (O20) -/

namespace Sys2Proof.Machine

section

variable {s : State} {i : Instr} {regs : List (BitVec 5)} {flags : List (BitVec 3)} {va : State → Word} {n : Nat} {changes writes home : Bool} {x : State → Issue}

theorem State.access_traps {t : State} (hw : wellFormed i = true) (hb : s.me.busy { regs := regs, flags := flags } = false)
    (ht : accessTraps (va s) n changes s = some t) : s.access i regs flags va n changes writes home x = .next t := by
  unfold State.access State.streamOp
  rw [issue_ok hw hb]
  dsimp only
  rw [ht]

variable {t a b : BitVec 5} {st : BitVec 2} {p : BitVec 4} {o : BitVec 9} {u : State}

theorem State.loadInsn_traps {sg : Bool} (hw : wellFormed i = true) (hb : s.me.busy { regs := [t, a] } = false) (ht : accessTraps (s.ea a o n) n false s = some u) :
    s.loadInsn i t a st p o n sg = .next u := State.access_traps (va := fun s => s.ea a o n) hw hb ht

theorem State.storeInsn_traps (hw : wellFormed i = true) (hb : s.me.busy { regs := [t, a] } = false) (ht : accessTraps (s.ea a o n) n true s = some u) :
    s.storeInsn i t a st p o n = .next u := State.access_traps (va := fun s => s.ea a o n) hw hb ht

theorem State.feInsn_traps {fn : Nat} {dest data : Option (BitVec 5)} {flag : Option (BitVec 3)} (hw : wellFormed i = true)
    (hb : s.me.busy { regs := [a, t], flags := flag.toList } = false) (ht : accessTraps (s.rd a) 8 true s = some u) :
    s.feInsn i fn [t] dest data a st p flag = .next u := State.access_traps (va := fun s => s.rd a) hw hb ht

theorem State.atomInsn_traps {fn : Nat} (hw : wellFormed i = true) (hb : s.me.busy { regs := [t, a, b] } = false) (ht : accessTraps (s.rd a) 8 true s = some u) :
    s.atomInsn i fn t a st p b = .next u := State.access_traps (va := fun s => s.rd a) hw hb ht

end

section

variable {s : State} {v : Word} {n : Nat} {changes : Bool}

/-- An address that no access of its kind may name takes the translation trap, before misalignment is looked at (R136, R148). -/
theorem accessTraps_place (hl : s.localTrap v changes = true) : accessTraps v n changes s = some (s.trapHere 0x09 v) := if_pos hl

/-- A misaligned one takes the misalignment trap (R149). -/
theorem accessTraps_misaligned (hl : s.localTrap v changes = false) (ha : v.toNat % n ≠ 0) : accessTraps v n changes s = some (s.trapHere 0x05 v) :=
  (if_neg (by rw [hl]; exact Bool.false_ne_true)).trans (if_pos ha)

end

/-! ### Local addresses (R147, R148) -/

theorem getLsbD_63_of_le {v : Word} (h : 2 ^ 63 ≤ v.toNat) : v.getLsbD 63 = true := by
  rw [← BitVec.msb_eq_getLsbD_last, BitVec.msb_eq_decide]
  exact decide_eq_true h

theorem getLsbD_63_of_lt {v : Word} (h : v.toNat < 2 ^ 63) : v.getLsbD 63 = false := by
  rw [← BitVec.msb_eq_getLsbD_last, BitVec.msb_eq_decide]
  exact decide_eq_false (Nat.not_le.mpr h)

section

variable {s : State} {v : Word}

theorem State.localTrap_nowhere (changes : Bool) (h : 2 ^ 63 ≤ v.toNat ∧ localPlace s.myCore v = .nowhere) : s.localTrap v changes = true := by
  unfold State.localTrap
  rw [getLsbD_63_of_le h.1, h.2]
  rfl

theorem State.localTrap_readOnly (h : 2 ^ 63 ≤ v.toNat ∧ ∃ n off, localPlace s.myCore v = .page n off) : s.localTrap v true = true := by
  obtain ⟨h63, n, off, hp⟩ := h
  unfold State.localTrap
  rw [getLsbD_63_of_le h63, hp]
  rfl

theorem State.localTrap_legal (changes : Bool) (h : v.toNat < 2 ^ 63 ∨ ∃ c off, localPlace s.myCore v = .stash c off) : s.localTrap v changes = false := by
  unfold State.localTrap
  rcases h with h | ⟨c, off, hp⟩
  · rw [getLsbD_63_of_lt h, Bool.false_and]
  · rw [hp, Bool.and_false]

end

/-- Settles O20: whatever its kind, an access looks at its place first and at its alignment next. -/
theorem accessTrapsHold : Obligations.AccessTraps := by
  intro s t a b st p o f ht hb va nowhere readOnly legal
  have hta : s.me.busy { regs := [t, a] } = false := Slot.busy_of_subset hb (by simp) (by simp) (by simp)
  have hat : s.me.busy { regs := [a, t] } = false := by rwa [Slot.busy_swap]
  have hatf : s.me.busy { regs := [a, t], flags := [f] } = false := Slot.busy_of_subset hb (by simp) (by simp) (by simp)
  have htab : s.me.busy { regs := [t, a, b] } = false := Slot.busy_of_subset hb (by simp) (by simp) (by simp)
  refine ⟨fun h => ⟨?_, ?_⟩, fun h => ?_, fun h => ⟨?_, ?_⟩, fun h hm => ⟨?_, ?_⟩, fun h hm => ⟨?_, ?_, ?_⟩, fun h hm => ⟨?_, ?_, ?_⟩, fun h hm => ⟨?_, ?_, ?_, ?_, ?_⟩⟩
  · change execLdd t a st p o s = _
    exact State.loadInsn_traps ht hta (accessTraps_place (State.localTrap_nowhere false h))
  · change execStd t a st p o s = _
    exact State.storeInsn_traps rfl hta (accessTraps_place (State.localTrap_nowhere true h))
  · change execStd t a st p o s = _
    exact State.storeInsn_traps rfl hta (accessTraps_place (State.localTrap_readOnly h))
  · change execStff t a st p s = _
    exact State.feInsn_traps rfl hat (accessTraps_place (State.localTrap_readOnly h))
  · change execCas t a st p b s = _
    exact State.atomInsn_traps ht htab (accessTraps_place (State.localTrap_readOnly h))
  · change execLdd t a st p o s = _
    exact State.loadInsn_traps ht hta (accessTraps_misaligned (State.localTrap_legal false h) hm)
  · change execStd t a st p o s = _
    exact State.storeInsn_traps rfl hta (accessTraps_misaligned (State.localTrap_legal true h) hm)
  · change execLdw t a st p o s = _
    exact State.loadInsn_traps ht hta (accessTraps_misaligned (State.localTrap_legal false h) hm)
  · change execLdws t a st p o s = _
    exact State.loadInsn_traps ht hta (accessTraps_misaligned (State.localTrap_legal false h) hm)
  · change execStw t a st p o s = _
    exact State.storeInsn_traps rfl hta (accessTraps_misaligned (State.localTrap_legal true h) hm)
  · change execLdh t a st p o s = _
    exact State.loadInsn_traps ht hta (accessTraps_misaligned (State.localTrap_legal false h) hm)
  · change execLdhs t a st p o s = _
    exact State.loadInsn_traps ht hta (accessTraps_misaligned (State.localTrap_legal false h) hm)
  · change execSth t a st p o s = _
    exact State.storeInsn_traps rfl hta (accessTraps_misaligned (State.localTrap_legal true h) hm)
  · change execLdff t a st p s = _
    exact State.feInsn_traps ht hat (accessTraps_misaligned (State.localTrap_legal true h) hm)
  · change execStef t a st p s = _
    exact State.feInsn_traps rfl hat (accessTraps_misaligned (State.localTrap_legal true h) hm)
  · change execLdxx t a st p f s = _
    exact State.feInsn_traps ht hatf (accessTraps_misaligned (State.localTrap_legal true h) hm)
  · change execAadd t a st p b s = _
    exact State.atomInsn_traps ht htab (accessTraps_misaligned (State.localTrap_legal true h) hm)
  · change execCas t a st p b s = _
    exact State.atomInsn_traps ht htab (accessTraps_misaligned (State.localTrap_legal true h) hm)

end Sys2Proof.Machine

end

section

/-! # Special registers read (O9) -/

namespace Sys2Proof.Machine

/-- Only sr.flags names flags (R115, R280). -/
theorem sregFlags_subset (n : BitVec 12) : sregFlags n ⊆ allFlags := by
  unfold sregFlags
  split
  · exact fun _ h => h
  · exact List.nil_subset _

section

variable {s : State} {d : BitVec 5} {n : BitVec 12}

/-- MFS brings what the register reads as (R280). -/
theorem gives_mfs {v : Word} (hd : okD d = true) (hb : s.me.busy { regs := [d], flags := sregFlags n } = false) (hv : s.sreg n.toNat = some v) : Gives s (.mfs d n) d v := by
  refine ⟨_, ?_, scalar_writes s (.mfs d n) d v⟩
  change execMfs d n s = _
  unfold execMfs
  rw [issue_ok (i := .mfs d n) hd hb, hv]

/-- A number that names no register of the thread is illegal (R253). -/
theorem traps_mfs (hd : okD d = true) (hb : s.me.busy { regs := [d], flags := sregFlags n } = false) (hv : s.sreg n.toNat = none) :
    Traps s (.mfs d n) 0x01 0 (zx (encode (.mfs d n))) := by
  change execMfs d n s = _
  unfold execMfs
  rw [issue_ok (i := .mfs d n) hd hb, hv]
  rfl

end

section

variable (s : State)

theorem State.sreg_priv {n : Nat} (h : 0x200 ≤ n) : s.sreg n = if n < 0x300 ∧ s.isSup s.myCore then s.privRead n else none := if_pos h

theorem State.sreg_beyond {n : Nat} (h : 0x300 ≤ n) : s.sreg n = none := by
  rw [State.sreg_priv s (by omega)]
  exact if_neg fun hn => absurd hn.1 (by omega)

/-- The four registers of a stream (R183). -/
theorem State.sreg_stream {i : Nat} (hi : i < 4) : s.sreg (0x80 + 4 * i) = some (zx (s.me.stream i).scope) ∧ s.sreg (0x81 + 4 * i) = some (zx (s.me.stream i).next) ∧
    s.sreg (0x82 + 4 * i) = some (zx (s.me.front i)) ∧ s.sreg (0x83 + 4 * i) = some (s.me.sout i) := by
  interval_cases i <;> exact ⟨rfl, rfl, rfl, rfl⟩

theorem State.sreg_cpwp {i : Nat} (hi : i < 4) : s.sreg (0x100 + i) = some (s.crew.channels.get {} i).cpwp := by
  interval_cases i <;> rfl

end

/-- sr.sout as a number: the stream's window, whether one of its operations is parked, and the thread's windows (R183). -/
theorem Slot.sout_eq (t : Slot) (i : Nat) : t.sout i =
    BitVec.ofNat 64 (t.window i % 128 + 128 * (if t.ops.any (fun o => o.stream.toNat == i && o.phase == .parked) then 1 else 0) + 256 * (t.windows % 256)) := by
  unfold Slot.sout
  generalize (t.ops.any fun o => o.stream.toNat == i && o.phase == .parked) = b
  apply BitVec.eq_of_toNat_eq
  simp only [BitVec.toNat_append, BitVec.toNat_ofNat, b1, BitVec.toNat_ofBool]
  rw [← Nat.shiftLeft_add_eq_or_of_lt (by omega), ← Nat.shiftLeft_add_eq_or_of_lt (by cases b <;> simp), ← Nat.shiftLeft_add_eq_or_of_lt (by omega)]
  cases b <;> simp [Nat.shiftLeft_eq] <;> omega

/-- sr.sems holds the eight semaphores, the first in its low byte (R123). -/
theorem sems_eq (f : Nat → BitVec 8) : (List.range 8).foldl (fun (w : Word) i => w ||| (zx (f i) <<< (8 * i))) 0 =
    f 7 ++ f 6 ++ f 5 ++ f 4 ++ f 3 ++ f 2 ++ f 1 ++ f 0 := by
  simp only [List.range, List.range.loop, List.foldl_cons, List.foldl_nil]
  apply BitVec.eq_of_getLsbD_eq
  intro i hi
  simp only [BitVec.getLsbD_append, BitVec.getLsbD_or, BitVec.getLsbD_shiftLeft, zx, BitVec.getLsbD_setWidth]
  interval_cases i <;> simp

/-- The job's flag word, shifted back to its place, is the job register under a mask (R123). -/
theorem field_eq_mask (j : Word) : zx (bits j 9 48 : BitVec 48) <<< 9 = j &&& 0x01FF_FFFF_FFFF_FE00 := by
  apply BitVec.eq_of_getLsbD_eq
  intro i hi
  simp only [zx, bits, BitVec.getLsbD_and, BitVec.getLsbD_shiftLeft, BitVec.getLsbD_setWidth, BitVec.getLsbD_extractLsb']
  interval_cases i <;> simp

/-- Settles O9: MFS brings what each register's number reads as. -/
theorem specialRegisterReads : Obligations.SpecialRegisterReads := by
  intro s d hd hb t x gives count
  have hbn : ∀ n, s.me.busy { regs := [d], flags := sregFlags n } = false := fun n =>
    Slot.busy_of_subset hb (List.Subset.refl _) (List.nil_subset _) (sregFlags_subset n)
  have g : ∀ {n : BitVec 12} {v : Word}, s.sreg n.toNat = some v → gives n v := gives_mfs hd (hbn _)
  refine ⟨g rfl, g rfl, g rfl, g rfl, g rfl, g rfl, g rfl, g rfl, g rfl, g rfl, g rfl, g rfl, g rfl, g rfl, g rfl, g rfl, g rfl, g rfl, g rfl, g rfl, g rfl, g rfl,
    fun i hi => ?_, g rfl, g ?_, g ?_, g rfl, g rfl, g rfl, fun n hn => ?_⟩
  · obtain ⟨h0, h1, h2, h3⟩ := State.sreg_stream s hi
    have hn : ∀ k, k < 0x200 → (BitVec.ofNat 12 k).toNat = k := fun k hk => Nat.mod_eq_of_lt (by omega)
    refine ⟨g ?_, g ?_, g ?_, g ?_, g ?_⟩
    · rw [hn _ (by omega)]; exact h0
    · rw [hn _ (by omega)]; exact h1
    · rw [hn _ (by omega)]; exact h2
    · rw [hn _ (by omega), h3, Slot.sout_eq]
    · rw [hn _ (by omega)]; exact State.sreg_cpwp s hi
  · exact congrArg some (sems_eq fun i => x.sems.get 0 i)
  · rw [show ∀ j : Word, (if j.getLsbD 63 then j &&& 0x01FF_FFFF_FFFF_FE00 else 0) = if j.getLsbD 63 then zx (bits j 9 48 : BitVec 48) <<< 9 else 0 from
      fun j => by rw [field_eq_mask]]
    rfl
  · exact traps_mfs hd (hbn n) (State.sreg_beyond s hn)

end Sys2Proof.Machine

end

section

/-! # Special registers written, and the supervisor core's registers (O10) -/

namespace Sys2Proof.Machine

/-! ### Must-be-zero bits -/

/-- The bits from k on are zero just where the value is below 2 ^ k. -/
theorem clear_high {v : Word} (k : Nat) : clear v (~~~((BitVec.allOnes k).setWidth 64)) = decide (v.toNat < 2 ^ k) := by
  unfold clear
  rw [beq_eq_decide, decide_eq_decide]
  have bit : ∀ i, i < 64 → (v &&& ~~~((BitVec.allOnes k).setWidth 64)).getLsbD i = (v.getLsbD i && decide (k ≤ i)) := fun i hi => by
    rw [BitVec.getLsbD_and, BitVec.getLsbD_not, BitVec.getLsbD_setWidth, BitVec.getLsbD_allOnes]
    by_cases h : i < k <;> simp [h, hi, Nat.not_lt.mp, Nat.not_le.mpr]
  have zero : ∀ i, (0 : Word).getLsbD i = false := fun _ => BitVec.getLsbD_zero
  constructor
  · intro h
    refine Nat.lt_pow_two_of_testBit _ fun i hi => ?_
    by_cases h64 : i < 64
    · have := bit i h64
      rw [h, zero, decide_eq_true hi, Bool.and_true] at this
      exact this.symm
    · exact BitVec.getLsbD_of_ge v i (by omega)
  · refine fun h => BitVec.eq_of_getLsbD_eq fun i hi => ?_
    rw [bit i hi, zero]
    by_cases hki : k ≤ i
    · have : v.getLsbD i = false := Nat.testBit_lt_two_pow (lt_of_lt_of_le h (Nat.pow_le_pow_right (by omega) hki))
      rw [this, Bool.false_and]
    · rw [decide_eq_false hki, Bool.and_false]

/-- A masked value is zero where a must-be-zero mask is clear. -/
theorem clear_of_and {v m : Word} (h : v &&& m = 0) : clear v m = true := beq_iff_eq.mpr h

/-! ### MTS (R280) -/

section

variable {s : State} {a : BitVec 5} {n : BitVec 12}

/-- The numbers that MTS writes by a plain rule (R123, R253). -/
def plainWrite (n : BitVec 12) : Bool := !(n == 0x80 || n == 0x84 || n == 0x88 || n == 0x8C || n == 0x43 || n == 0x41)

section

variable (hb : s.me.busy { regs := [a], flags := sregFlags n } = false) (hp : plainWrite n = true)

include hb hp

theorem exec_mts_plain : exec (.mts a n) s = .next ((s.sregWrite n.toNat (s.rd a)).elim (s.illegal (.mts a n)) (·.done (.mts a n))) := by
  simp only [plainWrite, Bool.not_eq_true', Bool.or_eq_false_iff, beq_eq_false_iff_ne] at hp
  obtain ⟨⟨⟨⟨⟨h80, h84⟩, h88⟩, h8C⟩, h43⟩, h41⟩ := hp
  change execMts a n s = _
  unfold execMts
  rw [issue_ok (i := .mts a n) rfl hb]
  dsimp only
  rw [if_neg (by simp only [h80, h84, h88, h8C, or_self, not_false_iff]), if_neg h43, if_neg h41]
  cases s.sregWrite n.toNat (s.rd a) <;> rfl

/-- MTS of a register that takes the value. -/
theorem exec_mts_writes {t : State} (hw : s.sregWrite n.toNat (s.rd a) = some t) : exec (.mts a n) s = .next (t.done (.mts a n)) := by
  rw [exec_mts_plain hb hp, hw]
  rfl

/-- MTS of a register that no thread writes, or of a must-be-zero bit, is illegal (R123, R253). -/
theorem traps_mts (hw : s.sregWrite n.toNat (s.rd a) = none) : Traps s (.mts a n) 0x01 0 (zx (encode (.mts a n))) := by
  unfold Traps
  rw [exec_mts_plain hb hp, hw]
  rfl

/-- MTS of a field of the thread. -/
theorem exec_mts_thread {f : Slot → Slot} (hw : s.sregWrite n.toNat (s.rd a) = some (s.modMe f)) : exec (.mts a n) s = .next (s.withMe ((f s.me).advance 4)) := by
  rw [exec_mts_writes hb hp hw]
  exact congrArg _ (State.withMe_modMe s _ _)

/-- MTS of a register of the die. -/
theorem exec_mts_die {f : Die → Die} (hw : s.sregWrite n.toNat (s.rd a) = some (s.modDie s.myPeer f)) :
    exec (.mts a n) s = .next ((s.modDie s.myPeer f).withMe (s.me.advance 4)) := exec_mts_writes hb hp hw

end

end

/-! ### What the registers take (R123, R184, R279) -/

section

variable (s : State) (v : Word)

theorem State.sregWrite_priv {n : Nat} (h : 0x200 ≤ n) : s.sregWrite n v = if n < 0x300 ∧ s.isSup s.myCore then s.privWrite n v else none := if_pos h

/-- The privileged numbers name no flag and have no rule of their own (R254). -/
theorem sregFlags_priv {n : BitVec 12} (h : 0x200 ≤ n.toNat) : sregFlags n = [] := if_neg fun hn => by rw [hn] at h; exact absurd h (by decide)

theorem plainWrite_priv {n : BitVec 12} (h : 0x200 ≤ n.toNat) : plainWrite n = true := by
  have ne : ∀ m : BitVec 12, m.toNat < 0x200 → (n == m) = false := fun m hm => beq_eq_false_iff_ne.mpr fun e => by rw [e] at h; omega
  simp only [plainWrite, ne 0x80 (by decide), ne 0x84 (by decide), ne 0x88 (by decide), ne 0x8C (by decide), ne 0x43 (by decide), ne 0x41 (by decide), Bool.or_false, Bool.not_false]

/-- sr.fcr has two bits (R123). -/
theorem State.sregWrite_fcr : s.sregWrite 0x40 v = if v.toNat < 4 then some (s.modMe fun t => { t with fcr := v.setWidth 2 }) else none := by
  change (if clear v (~~~3) then _ else none) = _
  rw [show clear v (~~~3) = decide (v.toNat < 4) from clear_high 2]
  by_cases h : v.toNat < 4 <;> simp [h]

/-- A count of 0 written to an active loop level is taken as 1 (R279). -/
theorem Slot.setCount_eq (t : Slot) (i : Nat) :
    t.setCount i v = { t with loops := t.loops.modify i fun l => { l with count := BitVec.ofNat 64 (max 1 (v.toNat % 2 ^ 32)) } } := by
  have h : (if v.setWidth 32 = (0 : BitVec 32) then 1 else zx (v.setWidth 32 : BitVec 32) : Word) = BitVec.ofNat 64 (max 1 (v.toNat % 2 ^ 32)) := by
    split
    · next h0 =>
      have := congrArg BitVec.toNat h0
      simp only [BitVec.toNat_setWidth] at this
      rw [this]
      rfl
    · next h0 =>
      have hne : v.toNat % 2 ^ 32 ≠ 0 := fun h => h0 (BitVec.eq_of_toNat_eq (by rw [BitVec.toNat_setWidth, h]; rfl))
      rw [Nat.max_eq_right (by omega)]
      apply BitVec.eq_of_toNat_eq
      simp [zx]
  unfold Slot.setCount
  rw [h]

end

section

variable {s : State} {i : Instr} {st : BitVec 2} {v : Word}

theorem State.setScfg_illegal (h : 6 ≤ v.toNat) : s.setScfg i st v = s.illegal i := if_pos (by rw [decide_eq_true h, Bool.or_true])

theorem setScfg_legal (h : v.toNat < 6) : ¬((!clear v (~~~7) || decide (6 ≤ v.toNat)) = true) := by
  have hc : clear v (~~~7) = true := (clear_high 3).trans (decide_eq_true (by omega))
  rw [hc, decide_eq_false (by omega)]
  exact Bool.false_ne_true

/-- The scope of a stream is set at once where nothing of it is outstanding (R184). -/
theorem State.setScfg_drained (h : v.toNat < 6) (hw : s.me.window st.toNat = 0) (hl : ilen i = 4) :
    s.setScfg i st v = s.withMe ((s.me.setScope st (v.setWidth 3)).advance 4) := by
  unfold State.setScfg State.done
  rw [if_neg (setScfg_legal h), if_pos hw, hl]
  exact State.withMe_modMe s _ _

/-- Else the thread waits for that (R184). -/
theorem State.setScfg_waits (h : v.toNat < 6) (hw : s.me.window st.toNat ≠ 0) :
    s.setScfg i st v = s.withMe { s.me with st := .wait, hold := .scope st (v.setWidth 3), waited := 0 } := by
  unfold State.setScfg
  rw [if_neg (setScfg_legal h), if_neg hw]
  rfl

end

/-- sr.fsf has six bits (R210). -/
theorem clear_fsf (v : Word) : clear v (~~~0x3F) = decide (v.toNat < 64) := clear_high 6

/-- sr.jsel has twelve (R254). -/
theorem clear_jsel (v : Word) : clear v (~~~0xFFF) = decide (v.toNat < 4096) := clear_high 12

section

variable {s : State} {a : BitVec 5}

/-- MTS of sr.fsf, where no flag is set anew or the job has no flag word (R210, R212). -/
theorem execMts_fsf (hb : s.me.busy { regs := [a], flags := sregFlags 0x041 } = false) (h : (s.rd a).toNat < 64) (hq : s.quiet ((s.rd a).setWidth 6)) :
    exec (.mts a 0x041) s = .next (s.withMe ({ s.me with fsf := (s.rd a).setWidth 6 }.advance 4)) := by
  change execMts a 0x041 s = _
  unfold execMts
  rw [issue_ok (i := .mts a 0x041) rfl hb]
  change (.next (if clear (s.rd a) (~~~0x3F) then _ else _) : Out) = _
  have hq' : (s.done (.mts a 0x041)).quiet ((s.rd a).setWidth 6) := by
    unfold State.quiet State.done at *
    rwa [State.me_modMe]
  have ho : (s.done (.mts a 0x041)).orFlags s.cur ((s.rd a).setWidth 6) = _ := orFlags_quiet _ _ hq'
  rw [if_pos (by rw [clear_fsf, decide_eq_true h]), ho]
  unfold State.done
  rw [State.modMe_eq_withMe s, State.withMe_modMe, State.withMe_modMe]
  rfl

theorem traps_mts_fsf (hb : s.me.busy { regs := [a], flags := sregFlags 0x041 } = false) (h : 64 ≤ (s.rd a).toNat) :
    Traps s (.mts a 0x041) 0x01 0 (zx (encode (.mts a 0x041))) := by
  change execMts a 0x041 s = _
  unfold execMts
  rw [issue_ok (i := .mts a 0x041) rfl hb]
  change (.next (if clear (s.rd a) (~~~0x3F) then _ else _) : Out) = _
  rw [if_neg (by rw [clear_fsf, decide_eq_false (Nat.not_lt.mpr h)]; exact Bool.false_ne_true)]
  rfl

theorem execMts_ssp (hb : s.me.busy { regs := [a], flags := sregFlags 0x043 } = false) (h : (s.rd a).toNat % 8 = 0) :
    exec (.mts a 0x043) s = .next (s.withMe ({ s.me with ssp := s.rd a }.advance 4)) := by
  change execMts a 0x043 s = _
  unfold execMts
  rw [issue_ok (i := .mts a 0x043) rfl hb]
  change (.next (if (s.rd a).toNat % 8 ≠ 0 then _ else _) : Out) = _
  rw [if_neg (by simpa using h)]
  exact congrArg _ (State.withMe_modMe s _ _)

theorem traps_mts_ssp (hb : s.me.busy { regs := [a], flags := sregFlags 0x043 } = false) (h : (s.rd a).toNat % 8 ≠ 0) :
    Traps s (.mts a 0x043) 0x05 (s.rd a) 0 := by
  change execMts a 0x043 s = _
  unfold execMts
  rw [issue_ok (i := .mts a 0x043) rfl hb]
  exact congrArg _ (if_pos h)

theorem execMts_scfg {i : Nat} (hb : s.me.busy { regs := [a], flags := sregFlags (BitVec.ofNat 12 (0x80 + 4 * i)) } = false) (hi : i < 4) :
    exec (.mts a (BitVec.ofNat 12 (0x80 + 4 * i))) s = .next (s.setScfg (.mts a (BitVec.ofNat 12 (0x80 + 4 * i))) (BitVec.ofNat 2 i) (s.rd a)) := by
  change execMts a _ s = _
  unfold execMts
  rw [issue_ok (i := .mts a _) rfl hb]
  interval_cases i <;> rfl

end

/-! ### The table that sr.ptsel names (R255) -/

section

variable {s : State} {peer : Nat} {sel v w : Word} {k : Nat} {rw : Bool}

theorem ptsel_index (sel : Word) : (bits sel 0 32 : BitVec 32).toNat = sel.toNat % 2 ^ 32 := by rw [bits_zero, BitVec.toNat_setWidth]

theorem ptsel_id (sel : Word) : (bits sel 56 8 : BitVec 8).toNat = sel.toNat / 2 ^ 56 := by
  simp only [bits, BitVec.extractLsb'_toNat, Nat.shiftRight_eq_div_pow]
  exact Nat.mod_eq_of_lt (by omega)

/-- The tables that the supervisor reads and writes whole entries of, by their number: how many entries, their width, an entry and one written (R255). -/
def tableRow (d : Die) (i : Nat) (v : Word) : Nat → Nat × Word × Nat × Die
  | 0 => (8192, zx (d.peerState.get 0 i), 2, { d with peerState := d.peerState.set i (v.setWidth 2) })
  | 1 => (4096, zx (d.jobPart.get 0 i), 4, { d with jobPart := d.jobPart.set i (v.setWidth 4) })
  | 2 => (2048, d.partMap.get 0 i, 64, { d with partMap := d.partMap.set i v })
  | _ => (32, zx (d.owners.get 0 i), 13, { d with owners := d.owners.set i (v.setWidth 13) })

variable {id : Nat} (hid : sel.toNat / 2 ^ 56 = id) (hr : id = 0 ∨ id = 1 ∨ id = 2 ∨ id = 7)

include hid hr

theorem State.tableEntry_row (hi : sel.toNat % 2 ^ 32 < (tableRow (s.die peer) (sel.toNat % 2 ^ 32) v id).1) :
    s.tableEntry peer sel = some ((tableRow (s.die peer) (sel.toNat % 2 ^ 32) v id).2.1, (tableRow (s.die peer) (sel.toNat % 2 ^ 32) v id).2.2.1, true) := by
  unfold State.tableEntry
  dsimp only
  rw [ptsel_index, ptsel_id, hid]
  rcases hr with rfl | rfl | rfl | rfl <;> exact if_pos hi

theorem State.tableWrite_row (hi : sel.toNat % 2 ^ 32 < (tableRow (s.die peer) (sel.toNat % 2 ^ 32) v id).1)
    (hv : v.toNat < 2 ^ (tableRow (s.die peer) (sel.toNat % 2 ^ 32) v id).2.2.1) :
    s.tableWrite peer sel v = some (s.modDie peer fun d => (tableRow d (sel.toNat % 2 ^ 32) v id).2.2.2) := by
  unfold State.tableWrite
  rw [State.tableEntry_row hid hr hi]
  dsimp only
  rw [if_neg (by simpa using hv), ptsel_index, ptsel_id, hid]
  rcases hr with rfl | rfl | rfl | rfl <;> rfl

omit hr

/-- A number past the last table names none. -/
theorem State.tableEntry_none (h8 : 8 ≤ id) : s.tableEntry peer sel = none := by
  unfold State.tableEntry
  dsimp only
  rw [ptsel_index, ptsel_id, hid]
  iterate 8 rw [if_neg (by omega)]

end

/-- Settles O10: which numbers MTS writes and how, and the supervisor core's registers. -/
theorem specialRegisterWrites : Obligations.SpecialRegisterWrites := by
  refine ⟨fun s a hb => ?_, fun s d a hd hb => ?_⟩
  · intro v leaves illegal counted
    have hbn : ∀ n, s.me.busy { regs := [a], flags := sregFlags n } = false := fun n =>
      Slot.busy_of_subset hb (List.Subset.refl _) (List.nil_subset _) (sregFlags_subset n)
    have trap : ∀ {n : BitVec 12}, plainWrite n = true → s.sregWrite n.toNat v = none → illegal n := fun hp hn => traps_mts (hbn _) hp hn
    have write : ∀ {n : BitVec 12} {f : Slot → Slot}, plainWrite n = true → s.sregWrite n.toNat v = some (s.modMe f) → leaves n (f s.me) :=
      fun hp hn => exec_mts_thread (hbn _) hp hn
    have count : ∀ {n : BitVec 12} (i : Nat), plainWrite n = true → s.sregWrite n.toNat v = some (s.modMe (·.setCount i v)) → leaves n (counted i) := fun i hp hn => by
      have := write hp hn
      rwa [Slot.setCount_eq] at this
    refine ⟨fun h => write (f := fun t => { t with fcr := v.setWidth 2 }) rfl ((State.sregWrite_fcr s v).trans (if_pos h)),
      fun h => trap rfl ((State.sregWrite_fcr s v).trans (if_neg (Nat.not_lt.mpr h))), fun h hq => ?_, fun h => ?_, write (f := fun t => { t with wto := v.setWidth 40 }) rfl rfl, fun h => ?_,
      fun h => ?_, write (f := fun t => { t with flags := v.setWidth 8 }) rfl rfl, count 0 rfl rfl, count 1 rfl rfl, fun i hi => ?_, trap rfl rfl, trap rfl rfl, trap rfl rfl,
      trap rfl rfl, trap rfl rfl, trap rfl rfl, trap rfl rfl, trap rfl rfl, trap rfl rfl, trap rfl rfl, trap rfl rfl⟩
    · exact execMts_fsf (hbn _) h hq
    · exact traps_mts_fsf (hbn _) h
    · exact execMts_ssp (hbn _) h
    · exact traps_mts_ssp (hbn _) h
    · have scfg : ∀ {o : State}, s.setScfg (.mts a (BitVec.ofNat 12 (0x80 + 4 * i))) (BitVec.ofNat 2 i) v = o → exec (.mts a (BitVec.ofNat 12 (0x80 + 4 * i))) s = .next o :=
        fun ho => (execMts_scfg (hbn _) hi).trans (congrArg _ ho)
      have hst : (BitVec.ofNat 2 i).toNat = i := Nat.mod_eq_of_lt hi
      refine ⟨fun h => scfg (State.setScfg_illegal h), fun h hw => ?_, fun h hw => scfg (State.setScfg_waits h (by rwa [hst]))⟩
      have := scfg (State.setScfg_drained h (by rwa [hst]) rfl)
      rwa [Slot.setScope, hst] at this
  · intro v j x die i id
    have hbr : ∀ n, 0x200 ≤ n.toNat → s.me.busy { regs := [d], flags := sregFlags n } = false := fun n hn =>
      Slot.busy_of_subset hb (by simp) (List.nil_subset _) (by rw [sregFlags_priv hn]; exact List.nil_subset _)
    have hbw : ∀ n, 0x200 ≤ n.toNat → s.me.busy { regs := [a], flags := sregFlags n } = false := fun n hn =>
      Slot.busy_of_subset hb (by simp) (List.nil_subset _) (by rw [sregFlags_priv hn]; exact List.nil_subset _)
    refine ⟨fun hs n hn => ⟨traps_mfs hd (hbr n hn) ?_, traps_mts (hbw n hn) (plainWrite_priv hn) ?_⟩, fun hs => ?_⟩
    · rw [State.sreg_priv s hn, if_neg (by simp [hs])]
    · rw [State.sregWrite_priv s _ hn, if_neg (by simp [hs])]
    · have read : ∀ {n : BitVec 12} {w : Word}, 0x200 ≤ n.toNat ∧ n.toNat < 0x300 → s.privRead n.toNat = some w → Gives s (.mfs d n) d w := fun hn hw =>
        gives_mfs hd (hbr _ hn.1) (by rw [State.sreg_priv s hn.1, if_pos ⟨hn.2, hs⟩, hw])
      have write : ∀ {n : BitVec 12} {f : Die → Die}, 0x200 ≤ n.toNat ∧ n.toNat < 0x300 → s.privWrite n.toNat v = some (s.modDie s.myPeer f) → die n f := fun hn hw =>
        exec_mts_die (hbw _ hn.1) (plainWrite_priv hn.1) (by rw [State.sregWrite_priv s _ hn.1, if_pos ⟨hn.2, hs⟩]; exact hw)
      have thread : ∀ {n : BitVec 12} {f : Slot → Slot}, 0x200 ≤ n.toNat ∧ n.toNat < 0x300 → s.privWrite n.toNat v = some (s.modMe f) →
          exec (.mts a n) s = .next (s.withMe ((f s.me).advance 4)) := fun hn hw =>
        exec_mts_thread (hbw _ hn.1) (plainWrite_priv hn.1) (by rw [State.sregWrite_priv s _ hn.1, if_pos ⟨hn.2, hs⟩]; exact hw)
      have row : ∀ {k : Nat}, (k = 0 ∨ k = 1 ∨ k = 2 ∨ k = 7) → id = k → i < (tableRow x i v k).1 → Gives s (.mfs d 0x221) d (tableRow x i v k).2.1 := fun hk hid hi =>
        read (by decide) (congrArg (Option.map fun e : Word × Nat × Bool => e.1) (State.tableEntry_row hid hk hi))
      have put : ∀ {k : Nat}, (k = 0 ∨ k = 1 ∨ k = 2 ∨ k = 7) → id = k → i < (tableRow x i v k).1 → v.toNat < 2 ^ (tableRow x i v k).2.2.1 →
          die 0x221 fun y => (tableRow y i v k).2.2.2 := fun hk hid hi hv =>
        write (by decide) (State.tableWrite_row hid hk hi hv)
      refine ⟨read (by decide) rfl, read (by decide) rfl, read (by decide) rfl, read (by decide) rfl, read (by decide) rfl, read (by decide) rfl, read (by decide) rfl,
        read (by decide) rfl, read (by decide) rfl, read (by decide) rfl, read (by decide) rfl,
        fun hid hi => ⟨row (by decide) hid hi, put (by decide) hid hi⟩, fun hid hi => ⟨row (by decide) hid hi, put (by decide) hid hi⟩,
        fun hid hi => ⟨row (by decide) hid hi, put (by decide) hid hi v.isLt⟩, fun hid hi => ⟨row (by decide) hid hi, put (by decide) hid hi⟩, fun hid => ?_,
        fun h => ?_, fun h => ?_, fun h => ?_, fun h => ?_, fun h => ?_, fun h => ?_, ?_, fun h => ?_, fun h => ?_⟩
      · exact traps_mfs hd (hbr _ (by decide))
          (by rw [State.sreg_priv s (by decide), if_pos ⟨by decide, hs⟩]; exact congrArg (Option.map fun e : Word × Nat × Bool => e.1) (State.tableEntry_none rfl hid))
      · exact thread (f := fun t => { t with jsel := v }) (by decide) (if_pos (by rw [clear_jsel, decide_eq_true h]))
      · exact traps_mts (hbw _ (by decide)) rfl (by
          rw [State.sregWrite_priv s _ (by decide), if_pos ⟨by decide, hs⟩]
          exact if_neg (by rw [clear_jsel, decide_eq_false (Nat.not_lt.mpr h)]; exact Bool.false_ne_true))
      · exact write (by decide) (if_pos (clear_of_and h))
      · exact write (by decide) (if_pos (clear_of_and h))
      · exact write (by decide) (if_pos (clear_of_and h))
      · exact write (by decide) (if_pos (clear_of_and h))
      · exact write (by decide) rfl
      · exact write (by decide) (if_pos (clear_of_and h))
      · exact thread (f := fun t => { t with ptsel := v }) (by decide) (if_pos (clear_of_and h))

end Sys2Proof.Machine

end

section

/-! # Calls and returns: resident frames (O7), spills and fills (O8) -/

namespace Sys2Proof.Machine

/-- A branch's offset in halfwords, as it is added to the program counter (R275 to R277). -/
theorem sx_shift {n : Nat} (o : BitVec n) : (sx o <<< 1 : Word) = BitVec.ofInt 64 (2 * o.toInt) := by
  rw [show (sx o : Word) = BitVec.ofInt 64 o.toInt from rfl, BitVec.shiftLeft_eq_mul_twoPow, BitVec.ofInt_mul, BitVec.mul_comm]
  rfl

theorem badTarget_eq_false {w : Word} (h : ¬badAddr w) : badTarget w = false := by rwa [badAddr_iff, Bool.not_eq_true] at h

theorem not_badAddr {w : Word} (h : w.toNat % 2 = 0 ∧ w.toNat < 2 ^ 63) : ¬badAddr w := by
  unfold badAddr
  omega

/-! ### The registers of a new frame (R118, R119) -/

/-- The first n registers from w8 on set to zero. -/
def Slot.zeroed (t : Slot) (n : Nat) : Slot := (List.range n).foldl (fun t i => t.setW (8 + i) 0) t

theorem Slot.zeroed_succ (t : Slot) (n : Nat) : t.zeroed (n + 1) = (t.zeroed n).setW (8 + n) 0 := by
  unfold Slot.zeroed
  rw [List.range_succ, List.foldl_append]
  rfl

theorem Slot.zeroed_eq (t : Slot) (n : Nat) : t.zeroed n = { t with phys := (t.zeroed n).phys } := by
  induction n with
  | zero => rfl
  | succ n ih => rw [Slot.zeroed_succ, ih]; rfl

theorem Slot.phyOf_zeroed (t : Slot) (n i : Nat) : (t.zeroed n).phyOf i = t.phyOf i := by rw [Slot.zeroed_eq]; rfl

theorem Slot.w_zeroed (t : Slot) {n i : Nat} (hn : n ≤ 16) (hi : i < 24) : (t.zeroed n).w i = if 8 ≤ i ∧ i < 8 + n then 0 else t.w i := by
  induction n with
  | zero => rw [if_neg (by omega)]; rfl
  | succ n ih =>
    rw [Slot.zeroed_succ]
    by_cases h : i = 8 + n
    · rw [h, Slot.w_setW_self, if_pos (by omega)]
    · rw [Slot.w_setW_ne _ _ (by omega) hi h, ih (by omega)]
      exact if_congr (by omega) rfl rfl

/-- Only the registers set to zero change. -/
theorem Slot.phys_zeroed (t : Slot) {n q : Nat} (h : ∀ i, i < n → q ≠ t.phyOf (8 + i)) : (t.zeroed n).phys.get 0 q = t.phys.get 0 q := by
  induction n with
  | zero => rfl
  | succ n ih =>
    rw [Slot.zeroed_succ, ← ih fun i hi => h i (by omega)]
    exact NMap.get_set_ne _ _ _ (by rw [Slot.phyOf_zeroed]; exact h n (Nat.lt_succ_self n))

/-- The frame entered, before its own registers are set to zero. -/
def Slot.entered (t : Slot) (target : Word) : Slot :=
  { t with wdepth := t.wdepth + 1, resident := t.resident + 1, links := t.links.set (t.wdepth + 1).toNat (t.pc + 4), pc := target, st := .run, hold := .none,
           waited := 0, issued := t.issued + 1 }

theorem Slot.newFrame_eq (t : Slot) (target : Word) : t.newFrame (t.pc + 4) target = (t.entered target).zeroed 16 := rfl

theorem toNat_succ {d : BitVec 16} (h : d ≠ 65535) : (d + 1).toNat = d.toNat + 1 := by bv_omega

theorem toNat_pred {d : BitVec 16} (h : d ≠ 0) : (d - 1).toNat = d.toNat - 1 := by bv_omega

/-- A frame shares eight registers with its caller (R118). -/
theorem Slot.w_entered {t : Slot} (target : Word) (h : t.wdepth ≠ 65535) (i : Nat) : (t.entered target).w i = t.w (16 + i) := by
  have hp : (t.entered target).phyOf i = t.phyOf (16 + i) := by
    change (16 * (t.wdepth + 1).toNat + i) % 120 = (16 * t.wdepth.toNat + (16 + i)) % 120
    rw [toNat_succ h]
    omega
  exact congrArg (t.phys.get 0) hp

theorem Slot.w_newFrame_shared {t : Slot} (target : Word) (h : t.wdepth ≠ 65535) {i : Nat} (hi : i < 8) : (t.newFrame (t.pc + 4) target).w i = t.w (16 + i) := by
  rw [Slot.newFrame_eq, Slot.w_zeroed _ (Nat.le_refl _) (by omega), if_neg (by omega), Slot.w_entered _ h]

theorem Slot.w_newFrame_own (t : Slot) (target : Word) {i : Nat} (h8 : 8 ≤ i) (hi : i < 24) : (t.newFrame (t.pc + 4) target).w i = 0 := by
  rw [Slot.newFrame_eq, Slot.w_zeroed _ (Nat.le_refl _) hi, if_pos (by omega)]

/-- Every register outside the new frame's own sixteen stays. -/
theorem Slot.phys_newFrame {t : Slot} {target : Word} {q : Nat} (h : ∀ i, 8 ≤ i → i < 24 → q ≠ (t.newFrame (t.pc + 4) target).phyOf i) :
    (t.newFrame (t.pc + 4) target).phys.get 0 q = t.phys.get 0 q := by
  rw [Slot.newFrame_eq] at h ⊢
  exact Slot.phys_zeroed _ fun i hi => by
    have := h (8 + i) (by omega) (by omega)
    rwa [Slot.phyOf_zeroed] at this

/-- What entering a frame leaves of the thread. -/
theorem Slot.newFrame_rest (t : Slot) (target : Word) : t.newFrame (t.pc + 4) target = { t.entered target with phys := (t.newFrame (t.pc + 4) target).phys } := by
  rw [Slot.newFrame_eq]
  exact Slot.zeroed_eq _ _

/-! ### Calls (R119, R121, R277) -/

section

variable {s : State} {target : Word}

theorem State.call_deep (ht : ¬badAddr target) (hd : s.me.wdepth = 65535) : s.call target = s.trapHere 0x03 := by
  unfold State.call
  dsimp only
  rw [badTarget_eq_false ht, if_neg Bool.false_ne_true, if_pos hd]

theorem any_pending_eq_false {t : Slot} (hp : t.pendW = 0) (l : List Nat) (f : Nat → Nat) : (l.any fun i => t.pendW.getLsbD (f i)) = false := by
  rw [List.any_eq_false]
  intro i _
  rw [hp]
  simp

theorem State.call_enters (ht : ¬badAddr target) (hd : s.me.wdepth ≠ 65535) (hr : s.me.resident ≠ 7) (hp : s.me.pendW = 0) :
    s.call target = s.withMe (s.me.newFrame (s.me.pc + 4) target) := by
  unfold State.call
  dsimp only
  rw [badTarget_eq_false ht, if_neg Bool.false_ne_true, if_neg hd, if_neg hr, any_pending_eq_false hp, if_neg Bool.false_ne_true]
  rfl

/-- A call that goes into its new frame with the caller's frame resident. -/
theorem call_fresh {i : Instr} (he : exec i s = .next (s.call target)) (ht : target.toNat % 2 = 0 ∧ target.toNat < 2 ^ 63) (hd : s.me.wdepth ≠ 65535) (hr : s.me.resident ≠ 7)
    (hp : s.me.pendW = 0) : ∃ t, exec i s = .next t ∧
      (∀ i, i < 8 → t.me.w i = s.me.w (16 + i)) ∧ (∀ i, 8 ≤ i → i < 24 → t.me.w i = 0) ∧
      (∀ q, (∀ i, 8 ≤ i → i < 24 → q ≠ t.me.phyOf i) → t.me.phys.get 0 q = s.me.phys.get 0 q) ∧
      t = s.withMe { s.me.entered target with phys := t.me.phys } := by
  refine ⟨_, he.trans (congrArg _ (State.call_enters (not_badAddr ht) hd hr hp)), ?_⟩
  rw [State.me_withMe]
  exact ⟨fun i hi => Slot.w_newFrame_shared target hd hi, fun i h8 hi => Slot.w_newFrame_own s.me target h8 hi, fun q hq => Slot.phys_newFrame hq,
    congrArg s.withMe (Slot.newFrame_rest s.me target)⟩

end

/-! ### Returns (R120, R277) -/

theorem Slot.w_leaveFrame {t : Slot} (target : Word) (h : t.wdepth ≠ 0) (i : Nat) : (t.leaveFrame target).w (16 + i) = t.w i := by
  have h0 : t.wdepth.toNat ≠ 0 := fun e => h (BitVec.eq_of_toNat_eq e)
  have hp : (t.leaveFrame target).phyOf (16 + i) = t.phyOf i := by
    change (16 * (t.wdepth - 1).toNat + (16 + i)) % 120 = (16 * t.wdepth.toNat + i) % 120
    rw [toNat_pred h]
    omega
  exact congrArg (t.phys.get 0) hp

section

variable {s : State}

theorem exec_ret_outermost (hb : s.me.busy {} = false) (hd : s.me.wdepth = 0) : Traps s .ret 0x01 0 (zx (encode .ret)) := by
  change execRet s = _
  unfold execRet
  rw [issue_ok rfl hb]
  dsimp only
  rw [if_pos hd]
  rfl

theorem exec_ret_resident (hb : s.me.busy {} = false) (hd : s.me.wdepth ≠ 0) (hr : s.me.resident ≠ 1) (ht : ¬badAddr (s.me.links.get 0 s.me.wdepth.toNat)) :
    exec .ret s = .next (s.withMe (s.me.leaveFrame (s.me.links.get 0 s.me.wdepth.toNat))) := by
  change execRet s = _
  unfold execRet
  rw [issue_ok rfl hb]
  dsimp only
  rw [if_neg hd, badTarget_eq_false ht, if_neg Bool.false_ne_true, if_neg hr]
  rfl

variable {p : BitVec 25} {a : BitVec 5}

theorem exec_callInsn (hb : s.me.busy {} = false) : exec (.callInsn p) s = .next (s.call (s.me.pc + BitVec.ofInt 64 (2 * p.toInt))) := by
  change execCallInsn p s = _
  unfold execCallInsn
  rw [issue_ok rfl hb, sx_shift]

theorem exec_callr (hb : s.me.busy { regs := [a] } = false) : exec (.callr a) s = .next (s.call (s.rd a)) := by
  change execCallr a s = _
  exact issue_ok rfl hb

/-- With no window register pending, no scalar register that an instruction names holds it back (R115). -/
theorem Slot.busy_of_pendW {t : Slot} (hb : t.busy {} = false) (hp : t.pendW = 0) (regs : List (BitVec 5)) : t.busy { regs := regs } = false := by
  have hr : regs.any t.pendingW = false := by
    rw [List.any_eq_false]
    intro c _
    simp [Slot.pendingW, hp]
  unfold Slot.busy at *
  rw [hr]
  exact hb

end

/-- Settles O7: a call into a new frame, the window trap, and a return. -/
theorem callsAndReturns : Obligations.CallsAndReturns := by
  intro s p a far ok fresh
  refine ⟨fun hb hd hr hp => ⟨fun ht => call_fresh (exec_callInsn hb) ht hd hr hp, fun ht => call_fresh (exec_callr (Slot.busy_of_pendW hb hp [a])) ht hd hr hp⟩,
    fun hb hd hp => ⟨fun ht => ?_, fun ht => ?_⟩, fun hb hd hr ht => ?_, exec_ret_outermost⟩
  · exact (exec_callInsn hb).trans (congrArg _ (State.call_deep (not_badAddr ht) hd))
  · exact (exec_callr (Slot.busy_of_pendW hb hp [a])).trans (congrArg _ (State.call_deep (not_badAddr ht) hd))
  · refine ⟨_, exec_ret_resident hb hd hr (not_badAddr ht), ?_⟩
    rw [State.me_withMe]
    exact ⟨fun i _ => Slot.w_leaveFrame _ hd i, rfl⟩

end Sys2Proof.Machine

end

section

namespace Sys2Proof.Machine

/-! ### Frames in a plain part of the own stash (R119 to R121, R147) -/

/-- The own stash, seen from its core (R147). -/
theorem localPlace_own (c : Nat) {off : Nat} (h : off < 0x4_0000) : localPlace c (0x8000_0000_0000_0000 + BitVec.ofNat 64 off) = .stash c off := by
  have ho : (0x8000_0000_0000_0000 + BitVec.ofNat 64 off - 0x8000_0000_0000_0000 : Word).toNat = off := by bv_omega
  unfold localPlace
  rw [ho]
  exact if_pos h

theorem toNat_own {off : Nat} (h : off < 0x4_0000) : (0x8000_0000_0000_0000 + BitVec.ofNat 64 off : Word).toNat = 2 ^ 63 + off := by
  rw [BitVec.toNat_add, BitVec.toNat_ofNat]
  change (9223372036854775808 + off % 2 ^ 64) % 2 ^ 64 = _
  omega

theorem getLsbD_63_own {off : Nat} (h : off < 0x4_0000) : (0x8000_0000_0000_0000 + BitVec.ofNat 64 off : Word).getLsbD 63 = true :=
  getLsbD_63_of_le (by rw [toNat_own h]; omega)

/-- A monadic map none of whose steps fails. -/
theorem mapM_eq_some {α β : Type} {f : α → Option β} {g : α → β} (l : List α) (h : ∀ x ∈ l, f x = some (g x)) : l.mapM f = some (l.map g) := by
  induction l with
  | nil => rfl
  | cons x l ih =>
    rw [List.mapM_cons, h x (List.mem_cons_self ..), ih fun y hy => h y (List.mem_cons_of_mem _ hy)]
    rfl

theorem zipIdx_map_range {α : Type} (f : Nat → α) (n : Nat) : ((List.range n).map f).zipIdx = (List.range n).map fun i => (f i, i) :=
  List.ext_getElem (by simp) fun i _ _ => by simp

section

variable {s : State} {off : Nat} (hoff : off + 136 ≤ 0x4_0000) (hb : ∀ i, i < 17 → s.boundHere s.myCore (off + 8 * i) = none)

include hoff hb

theorem State.framePlaces_plain (write : Bool) : s.framePlaces (0x8000_0000_0000_0000 + BitVec.ofNat 64 off) write = some ((List.range 17).map fun i => .inl (off + 8 * i)) := by
  unfold State.framePlaces
  refine mapM_eq_some _ fun i hi => ?_
  have hi := List.mem_range.mp hi
  have ha : (0x8000_0000_0000_0000 + BitVec.ofNat 64 off + BitVec.ofNat 64 (8 * i) : Word) = 0x8000_0000_0000_0000 + BitVec.ofNat 64 (off + 8 * i) := by
    rw [BitVec.add_assoc, BitVec.ofNat_add]
  have hbi : s.boundHere (coreOf s.cur) (off + 8 * i) = none := hb i hi
  unfold State.spillPlace
  dsimp only
  rw [ha, getLsbD_63_own (by omega), if_pos rfl, localPlace_own _ (by omega)]
  dsimp only
  rw [if_pos ⟨rfl, by omega⟩, hbi]

end

/-! ### Spill (R119) -/

section

variable {s : State} {off : Nat}

theorem State.stashTouch_plain {c : Nat} (n : Nat) (hb : s.boundHere c off = none) : s.stashTouch c off n = s := by
  unfold State.stashTouch
  rw [hb]

theorem State.spillStore_plain {k : Nat} (v : Word) (hb : s.boundHere (coreOf k) off = none) : s.spillStore k (.inl off) v = s.stashStore (coreOf k) off 8 v := by
  unfold State.spillStore State.stashStoreBy
  dsimp only
  rw [State.stashTouch_plain _ hb, noteWriter_plain _ _ hb]

theorem State.foldl_spillStore_plain (f : Nat → Word) (hp : s.stashPoison = []) {n : Nat} (hb : ∀ i, i < n → s.boundHere s.myCore (off + 8 * i) = none) :
    (List.range n).foldl (fun s i => s.spillStore s.cur (.inl (off + 8 * i)) (f i)) s = s.withStash (Cells.writeDwords s.stash (stashKey s.myCore off) f n) := by
  induction n with
  | zero => rfl
  | succ n ih =>
    rw [List.range_succ, List.foldl_append, ih fun i hi => hb i (by omega), List.foldl_cons, List.foldl_nil, Cells.writeDwords_succ]
    generalize Cells.writeDwords s.stash (stashKey s.myCore off) f n = m
    have hbn : (s.withStash m).boundHere (coreOf (s.withStash m).cur) (off + 8 * n) = none := hb n (Nat.lt_succ_self n)
    rw [State.spillStore_plain _ hbn, State.stashStore_plain _ hbn hp, stashKey_add]
    rfl

/-- The oldest frame as it lies in memory. -/
theorem State.spillFrame_plain (e : Nat) (hp : s.stashPoison = []) (hb : ∀ i, i < 17 → s.boundHere s.myCore (off + 8 * i) = none) :
    s.spillFrame e ((List.range 17).map fun i => .inl (off + 8 * i)) = s.withStash (Cells.writeDwords s.stash (stashKey s.myCore off) (frameWord s.me e) 17) := by
  rw [← State.foldl_spillStore_plain _ hp hb]
  unfold State.spillFrame
  dsimp only
  rw [zipIdx_map_range, List.foldl_map]

/-- The thread with its oldest frame spilled (R119). -/
def Slot.spilled (t : Slot) : Slot := { t with ssp := t.ssp - 136, resident := t.resident - 1 }

section

variable (hoff : off + 136 ≤ 0x4_0000) (h8 : off % 8 = 0) (hb : ∀ i, i < 17 → s.boundHere s.myCore (off + 8 * i) = none)
  (hp : s.me.pendW = 0) (ho : s.me.ops = []) (hq : s.stashPoison = [])

include hoff h8 hb hp ho hq

theorem State.spill_plain (hssp : s.me.ssp = 0x8000_0000_0000_0000 + BitVec.ofNat 64 (off + 136)) :
    s.spill = .ok ((s.withStash (Cells.writeDwords s.stash (stashKey s.myCore off) (frameWord s.me s.me.oldest) 17)).withMe s.me.spilled) := by
  have ha : s.me.ssp - 136 = 0x8000_0000_0000_0000 + BitVec.ofNat 64 off := by rw [hssp]; bv_omega
  have hn : ¬(0x8000_0000_0000_0000 + BitVec.ofNat 64 off : Word).toNat % 8 ≠ 0 := by rw [toNat_own (by omega)]; omega
  unfold State.spill Slot.framePending State.clashes
  dsimp only
  rw [any_pending_eq_false hp, if_neg Bool.false_ne_true, ha, if_neg hn, ho, List.any_nil, if_neg Bool.false_ne_true, State.framePlaces_plain hoff hb]
  dsimp only
  rw [State.spillFrame_plain _ hq hb, ← ha]
  generalize Cells.writeDwords s.stash (stashKey s.myCore off) (frameWord s.me s.me.oldest) 17 = m
  rfl

/-- A call with every frame resident (R119): the oldest goes to memory, the new one is entered. -/
theorem State.call_spills {target : Word} (ht : ¬badAddr target) (hd : s.me.wdepth ≠ 65535) (hr : s.me.resident = 7)
    (hssp : s.me.ssp = 0x8000_0000_0000_0000 + BitVec.ofNat 64 (off + 136)) :
    s.call target = (s.withStash (Cells.writeDwords s.stash (stashKey s.myCore off) (frameWord s.me s.me.oldest) 17)).withMe (s.me.spilled.newFrame (s.me.pc + 4) target) := by
  unfold State.call
  dsimp only
  rw [badTarget_eq_false ht, if_neg Bool.false_ne_true, if_neg hd, if_pos hr, State.spill_plain hoff h8 hb hp ho hq hssp]
  exact State.withMe_modMe _ _ _

end

end

theorem frameWord_link (t : Slot) (e : Nat) : frameWord t e 0 = t.links.get 0 e := rfl
theorem frameWord_register (t : Slot) (e i : Nat) : frameWord t e (i + 1) = t.phys.get 0 ((16 * e + i) % 120) := rfl

/-! ### Fill (R120) -/

/-- The thread with the first n words of a frame, as f gives them, taken for the frame of depth e. -/
def Slot.filled (t : Slot) (e : Nat) (f : Nat → Word) (n : Nat) : Slot :=
  (List.range n).foldl (fun t i => if i = 0 then { t with links := t.links.set e (f i) } else { t with phys := t.phys.set ((16 * e + (i - 1)) % 120) (f i) }) t

section

variable (t : Slot) (e : Nat) (f : Nat → Word)

theorem Slot.filled_succ (n : Nat) : t.filled e f (n + 2) =
    { t.filled e f (n + 1) with phys := (t.filled e f (n + 1)).phys.set ((16 * e + n) % 120) (f (n + 1)) } := by
  unfold Slot.filled
  rw [List.range_succ, List.foldl_append]
  rfl

theorem Slot.filled_eq (n : Nat) : t.filled e f (n + 1) = { t with links := t.links.set e (f 0), phys := (t.filled e f (n + 1)).phys } := by
  induction n with
  | zero => rfl
  | succ n ih => rw [Slot.filled_succ, ih]

theorem Slot.phys_filled_out {n q : Nat} (h : ∀ i, i < n → q ≠ (16 * e + i) % 120) : (t.filled e f (n + 1)).phys.get 0 q = t.phys.get 0 q := by
  induction n with
  | zero => rfl
  | succ n ih =>
    rw [Slot.filled_succ, ← ih fun i hi => h i (by omega)]
    exact NMap.get_set_ne _ _ _ (h n (Nat.lt_succ_self n))

theorem Slot.phys_filled {n i : Nat} (hn : n ≤ 16) (hi : i < n) : (t.filled e f (n + 1)).phys.get 0 ((16 * e + i) % 120) = f (i + 1) := by
  induction n with
  | zero => omega
  | succ n ih =>
    rw [Slot.filled_succ]
    by_cases h : i = n
    · rw [h]
      exact NMap.get_set_self _ _ _ _
    · rw [← ih (by omega) (by omega)]
      exact NMap.get_set_ne _ _ _ (by omega)

end

section

variable {s : State} {off : Nat}

/-- One word of the frame read back (R120). -/
def State.refill (s : State) (e off i : Nat) : State :=
  let r := s.spillLoad s.myCore (.inl (off + 8 * i))
  r.1.modMe fun t => if i = 0 then { t with links := t.links.set e r.2 } else { t with phys := t.phys.set ((16 * e + (i - 1)) % 120) r.2 }

theorem State.spillLoad_plain (hb : s.boundHere s.myCore off = none) : s.spillLoad s.myCore (.inl off) = (s, s.stashRead s.myCore off 8) := by
  unfold State.spillLoad State.stashLoad
  dsimp only
  rw [State.stashTouch_plain _ hb, BitVec.setWidth_eq]

theorem State.fillFrame_eq (e n : Nat) : s.fillFrame e ((List.range n).map fun i => .inl (off + 8 * i)) = (List.range n).foldl (fun s i => s.refill e off i) s := by
  unfold State.fillFrame
  rw [zipIdx_map_range, List.foldl_map]
  rfl

/-- The frame as it is read back. -/
theorem State.fillFrame_plain (e : Nat) {n : Nat} (hb : ∀ i, i < n + 1 → s.boundHere s.myCore (off + 8 * i) = none) :
    s.fillFrame e ((List.range (n + 1)).map fun i => .inl (off + 8 * i)) = s.withMe (s.me.filled e (fun i => s.stashRead s.myCore (off + 8 * i) 8) (n + 1)) := by
  rw [State.fillFrame_eq]
  induction n with
  | zero =>
    change s.refill e off 0 = _
    unfold State.refill
    rw [State.spillLoad_plain (hb 0 (by omega))]
    rfl
  | succ n ih =>
    rw [List.range_succ, List.foldl_append, ih fun i hi => hb i (by omega), List.foldl_cons, List.foldl_nil, Slot.filled_succ]
    generalize s.me.filled e (fun i => s.stashRead s.myCore (off + 8 * i) 8) (n + 1) = t
    have hbn : (s.withMe t).boundHere (s.withMe t).myCore (off + 8 * (n + 1)) = none := hb (n + 1) (by omega)
    unfold State.refill
    rw [State.spillLoad_plain hbn]
    dsimp only
    rw [State.withMe_modMe, if_neg (Nat.succ_ne_zero n)]
    rfl

variable (hoff : off + 136 ≤ 0x4_0000) (hb : ∀ i, i < 17 → s.boundHere s.myCore (off + 8 * i) = none)
  (hp : s.me.pendW = 0) (ho : s.me.ops = [])

include hoff hb hp ho

/-- A return to a frame that is not resident (R120): its words are read back from the spill pointer on. -/
theorem exec_ret_fills (hd : s.me.wdepth ≠ 0) (ht : ¬badAddr (s.me.links.get 0 s.me.wdepth.toNat)) (hr : s.me.resident = 1)
    (hssp : s.me.ssp = 0x8000_0000_0000_0000 + BitVec.ofNat 64 off) :
    exec .ret s = .next (s.withMe ({ s.me.filled (s.me.wdepth.toNat - 1) (fun i => s.stashRead s.myCore (off + 8 * i) 8) 17 with
      ssp := s.me.ssp + 136, resident := 2 }.leaveFrame (s.me.links.get 0 s.me.wdepth.toNat))) := by
  have hbusy : s.me.busy {} = false := by
    unfold Slot.busy
    rw [ho]
    rfl
  change execRet s = _
  unfold execRet
  rw [issue_ok rfl hbusy]
  unfold Slot.framePending State.clashes
  dsimp only
  rw [if_neg hd, badTarget_eq_false ht, if_neg Bool.false_ne_true, if_pos hr, any_pending_eq_false hp, ho, List.any_nil, Bool.or_self, if_neg Bool.false_ne_true, hssp,
    State.framePlaces_plain hoff hb]
  dsimp only
  rw [State.fillFrame_plain _ hb, State.withMe_modMe, State.withMe_modMe, Slot.filled_eq]
  dsimp only
  rw [hssp, hr]
  rfl

end

theorem Slot.busy_empty {t : Slot} (ho : t.ops = []) : t.busy {} = false := by
  unfold Slot.busy
  rw [ho]
  rfl

/-- Settles O8, from the lemmas for a call that spills and for a return that fills. -/
theorem callSpills : Obligations.CallSpills := by
  refine ⟨?_, ?_⟩
  · intro s p off target e ht hd h6 hr hp ho hok hq _ hssp h8 hoff hb
    have he : s.me.oldest = e := by
      unfold Slot.oldest
      rw [hr]
      rfl
    have hwf := ((State.memoryOk_iff s).mp hok).2.1
    have hexec := (exec_callInsn (p := p) (Slot.busy_empty ho)).trans (congrArg _ (State.call_spills hoff h8 hb hp ho hq ht hd hr hssp))
    rw [he] at hexec
    have hdword : ∀ i, i < 17 → (Cells.writeDwords s.stash (stashKey s.myCore off) (frameWord s.me e) 17).readN (stashKey s.myCore (off + 8 * i)) 8 = frameWord s.me e i := fun i hi => by
      rw [stashKey_add]
      exact Cells.readN_writeDwords _ _ hi hwf
    have hout : ∀ k, k < stashKey s.myCore off ∨ stashKey s.myCore off + 136 ≤ k →
      (Cells.writeDwords s.stash (stashKey s.myCore off) (frameWord s.me e) 17).read k = s.stash.read k := fun k hk => Cells.read_writeDwords_out _ _ _ _ hk
    generalize Cells.writeDwords s.stash (stashKey s.myCore off) (frameWord s.me e) 17 = m at hexec hdword hout
    refine ⟨_, hexec, ?_⟩
    rw [State.me_withMe]
    refine ⟨congrArg Slot.ssp (Slot.newFrame_rest s.me.spilled target), ?_, congrArg Slot.wdepth (Slot.newFrame_rest s.me.spilled target),
      congrArg Slot.pc (Slot.newFrame_rest s.me.spilled target), ?_, hdword 0 (by decide), fun i hi => ?_, fun i hi => Slot.w_newFrame_shared (t := s.me.spilled) target hd hi,
      fun i hi8 hi => Slot.w_newFrame_own s.me.spilled target hi8 hi, hout, rfl⟩
    · refine (congrArg Slot.resident (Slot.newFrame_rest s.me.spilled target)).trans ?_
      change s.me.resident - 1 + 1 = 7
      rw [hr]
      rfl
    · refine (congrArg (fun t : Slot => t.links.get 0 (s.me.wdepth.toNat + 1)) (Slot.newFrame_rest s.me.spilled target)).trans ?_
      rw [← toNat_succ hd]
      exact NMap.get_set_self _ _ _ _
    · have := hdword (i + 1) (by omega)
      rwa [show off + 8 * (i + 1) = off + 8 + 8 * i by omega] at this
  · intro s off target e hd ht hr hp ho hq hssp h8 hoff hb
    refine ⟨_, exec_ret_fills hoff hb hp ho hd ht hr hssp, ?_⟩
    have hwords : ∀ i, i < 16 → (s.me.filled e (fun i => s.stashRead s.myCore (off + 8 * i) 8) 17).phys.get 0 ((16 * e + i) % 120) = s.stashRead s.myCore (off + 8 + 8 * i) 8 := fun i hi => by
      rw [Slot.phys_filled s.me e _ (Nat.le_refl 16) hi, show off + 8 * (i + 1) = off + 8 + 8 * i by omega]
    have hkeep := fun q hq => Slot.phys_filled_out s.me e (fun i => s.stashRead s.myCore (off + 8 * i) 8) (n := 16) (q := q) hq
    rw [State.me_withMe, Slot.filled_eq]
    generalize (s.me.filled e (fun i => s.stashRead s.myCore (off + 8 * i) 8) 17).phys = w at hwords hkeep
    refine ⟨rfl, (by decide : (2 : BitVec 4) - 1 = 1), rfl, rfl, NMap.get_set_self _ _ _ _, hwords, hkeep, rfl⟩

end Sys2Proof.Machine

end

section

/-! # Semaphores, core queues and events (O26), on a core where nothing else is outstanding -/

namespace Sys2Proof.Machine

/-! ### Maps -/

theorem NMap.set_nil {V : Type} (k : Nat) (v : V) : NMap.set [] k v = [(k, v)] := rfl

theorem NMap.set_cons {V : Type} (m : NMap V) (i : Nat) (u : V) (k : Nat) (v : V) :
    NMap.set ((i, u) :: m) k v = if k < i then (k, v) :: (i, u) :: m else if k = i then (k, v) :: m else (i, u) :: m.set k v := rfl

/-- Writes to different places of a map do not depend on their order. -/
theorem NMap.set_comm {V : Type} (m : NMap V) {j k : Nat} (v w : V) (h : j ≠ k) : (m.set j v).set k w = (m.set k w).set j v := by
  induction m with
  | nil => rcases Nat.lt_or_gt_of_ne h with h | h <;> simp [NMap.set_nil, NMap.set_cons, h, h.ne', Nat.not_lt.mpr h.le]
  | cons e m ih =>
    obtain ⟨i, u⟩ := e
    simp only [NMap.set_cons]
    grind [NMap.set_cons]

/-- Another thread changed while the current one stands as it will. -/
theorem State.withMe_modSlot_ne (s : State) (t : Slot) {k : Nat} (f : Slot → Slot) (h : k ≠ s.cur) : (s.withMe t).modSlot k f = (s.modSlot k f).withMe t := by
  have hk : (s.withMe t).slot k = s.slot k := NMap.get_set_ne _ _ _ h
  unfold State.modSlot State.withMe at *
  rw [hk]
  dsimp only
  rw [NMap.set_comm _ _ _ (Ne.symm h)]

/-! ### The pod with its crew changed -/

section

variable {s : State} {f : Crew → Crew}

/-- The current thread has nothing outstanding and runs alone, whatever else of its crew changes. -/
theorem State.fresh_modCrew (hf : s.fresh) (h : (f s.crew).bind = s.crew.bind) : (s.modCrew s.myCore f).fresh := by
  refine ⟨hf.1, ?_⟩
  have hc : ((s.modCrew s.myCore f).core s.myCore).crew.bind = s.crew.bind := (congrArg (fun x : Core => x.crew.bind) (State.core_modCore_self s s.myCore _)).trans h
  exact (congrArg Bind.lockstep hc).trans hf.2

theorem State.modCrew_withMe (t : Slot) (c : Nat) : (s.withMe t).modCrew c f = (s.modCrew c f).withMe t := rfl

end

/-! ### A thread whose held operation performs at once with a result -/

theorem Slot.began_discards (t : Slot) (st : BitVec 2) {d : BitVec 5} (hd : d.toNat < 8) (flag : Option (BitVec 3)) (h : Hold) (o : Op) :
    t.began st d flag h o = t.began st 0 flag h o := by
  unfold Slot.began Slot.destOf
  rw [if_pos hd]
  rfl

theorem Slot.ended_discards (t : Slot) (st : BitVec 2) {d : BitVec 5} (hd : d.toNat < 8) (v : Word) : t.ended st d v none 0 true = t.ended st 0 0 none 0 true := by
  have hr : replyFor t d v none 0 = [] := if_pos ⟨hd, rfl, rfl⟩
  have h0 : replyFor t 0 0 none 0 = [] := if_pos ⟨by decide, rfl, rfl⟩
  unfold Slot.ended Slot.destOf
  rw [hr, h0, if_pos hd]
  rfl

/-- An operation that holds its thread performs at once: the thread waits for the reply, or goes on where there is none (R114, R115). -/
theorem Slot.performed_began_result {t : Slot} {st : BitVec 2} {d : BitVec 5} {o : Op} {v : Word} (ho : t.ops = []) (hid : o.id = t.opId) (hd : o.dest = t.destOf d)
    (hfl : o.flag = none) (ha : o.kind.atReply = false) :
    (t.began st d none (.localOp t.opId) o).performed o { value := v.setWidth 512 } = t.ended st d v none 0 true := by
  by_cases h8 : d.toNat < 8
  · have hnone : o.dest = .none := hd.trans (if_pos h8)
    have hv : (t.began st 0 none (.localOp t.opId) o).performed o { value := v.setWidth 512 } = (t.began st 0 none (.localOp t.opId) o).performed o {} := by
      have hop : (t.began st 0 none (.localOp t.opId) o).op o.id = some o := Slot.op_one _ o rfl
      rw [Slot.performed_none _ _ _ (Slot.began_framed ..) hop ⟨hnone, hfl, rfl⟩, Slot.performed_none _ _ _ (Slot.began_framed ..) hop ⟨hnone, hfl, rfl⟩]
    rw [Slot.began_discards t st h8, Slot.ended_discards t st h8, hv]
    exact Slot.performed_began_held ho hid hnone hfl (.inl rfl)
  · have hne : o.dest ≠ .none := by rw [hd]; unfold Slot.destOf; rw [if_neg h8]; nofun
    have hr : replyFor t d v none 0 = [{ dest := t.destOf d, value := v.setWidth 512, wakes := some t.opId }] := if_neg fun h => h8 h.1
    have hop : (t.began st d none (.localOp t.opId) o).op o.id = some o := Slot.op_one _ o rfl
    rw [Slot.performed_reply _ _ _ (Slot.began_framed ..) hop ha (fun h => hne h.1), Slot.dropOp_one rfl, hid, hd]
    unfold Slot.ended
    rw [hr]
    unfold Slot.began
    generalize t.destOf d = dest
    cases t
    subst ho
    cases dest <;> rfl

theorem State.performed_began_result {s : State} {st : BitVec 2} {d : BitVec 5} {o : Op} {v : Word} (hf : s.fresh) (hid : o.id = s.me.opId) (hd : o.dest = s.me.destOf d)
    (hfl : o.flag = none) (ha : o.kind.atReply = false) :
    (s.withMe (s.me.began st d none (.localOp s.me.opId) o)).performed s.cur o { value := v.setWidth 512 } = s.withMe (s.me.ended st d v none 0 true) := by
  rw [State.performed_alone (s := s.withMe _) hf.2, State.withMe_modSlot, Slot.performed_began_result hf.1 hid hd hfl ha]

theorem Slot.ended_ops {t : Slot} (ho : t.ops = []) (st : BitVec 2) (d : BitVec 5) (v : Word) (flag : Option (BitVec 3 × Bool)) (fsf : BitVec 6) (held : Bool) :
    (t.ended st d v flag fsf held).ops = [] := by
  unfold Slot.ended
  dsimp only
  generalize t.destOf d = dest
  cases t
  subst ho
  split <;> cases dest <;> cases flag <;> rfl

/-! ### The operations that wait at a core (R125, R126) -/

/-- No thread of the current core but the current one has an operation outstanding. -/
def State.onlyMine (s : State) : Prop := ∀ i, i < 8 → s.myCore * 8 + i ≠ s.cur → (s.slot (s.myCore * 8 + i)).ops = []

section

variable {s : State} {t : Slot} {p : OpKind → Bool}

theorem State.ops_onlyMine (h : s.onlyMine) {i : Nat} (hi : i < 8) : ((s.withMe t).slot (s.myCore * 8 + i)).ops = if s.myCore * 8 + i = s.cur then t.ops else [] := by
  by_cases hc : s.myCore * 8 + i = s.cur
  · rw [if_pos hc, hc, State.slot_withMe_cur]
  · rw [if_neg hc]
    refine Eq.trans (congrArg Slot.ops ?_) (h i hi hc)
    exact NMap.get_set_ne _ _ _ hc

theorem firstWaiter_none (h : s.onlyMine) (ht : ∀ o ∈ t.ops, (o.phase == .waiting && p o.kind) = false) : firstWaiter (s.withMe t) s.myCore p = none := by
  have hnil : ((List.range 8).flatMap fun i => (((s.withMe t).slot (s.myCore * 8 + i)).ops.filter fun o => o.phase == .waiting && p o.kind).map fun o => (s.myCore * 8 + i, o)) = [] := by
    rw [List.flatMap_eq_nil_iff]
    intro i hi
    rw [State.ops_onlyMine h (List.mem_range.mp hi)]
    split
    · rw [List.filter_eq_nil_iff.mpr fun o ho => by rw [ht o ho]; exact Bool.false_ne_true]
      rfl
    · rfl
  unfold firstWaiter
  dsimp only
  rw [hnil]
  rfl

/-- The slot's number within its core. -/
theorem State.cur_eq (s : State) : s.myCore * 8 + s.cur % 8 = s.cur := by
  unfold State.myCore coreOf
  omega

theorem flatMap_one {α : Type} {g : Nat → List α} {x : α} {j n : Nat} (hj : j < n) (hx : g j = [x]) (hn : ∀ i, i < n → i ≠ j → g i = []) : (List.range n).flatMap g = [x] := by
  induction n with
  | zero => omega
  | succ n ih =>
    rw [List.range_succ, List.flatMap_append, List.flatMap_singleton]
    by_cases h : j = n
    · have hnil : (List.range n).flatMap g = [] := List.flatMap_eq_nil_iff.mpr fun i hi => by
        have hi := List.mem_range.mp hi
        exact hn i (by omega) (by omega)
      rw [hnil, ← h, hx]
      rfl
    · rw [ih (by omega) fun i hi => hn i (by omega), hn n (Nat.lt_succ_self n) (Ne.symm h)]
      rfl

theorem firstWaiter_mine (h : s.onlyMine) {o : Op} (ht : t.ops = [o]) (ho : (o.phase == .waiting && p o.kind) = true) : firstWaiter (s.withMe t) s.myCore p = some (s.cur, o) := by
  have hone : ((List.range 8).flatMap fun i => (((s.withMe t).slot (s.myCore * 8 + i)).ops.filter fun o => o.phase == .waiting && p o.kind).map fun o => (s.myCore * 8 + i, o)) =
      [(s.cur, o)] := by
    refine flatMap_one (j := s.cur % 8) (Nat.mod_lt _ (by decide)) ?_ fun i hi hne => ?_
    · rw [State.ops_onlyMine h (Nat.mod_lt _ (by decide)), if_pos s.cur_eq, s.cur_eq, ht, List.filter_cons, if_pos ho]
      rfl
    · rw [State.ops_onlyMine h hi, if_neg (by have := s.cur_eq; omega)]
      rfl
  unfold firstWaiter
  dsimp only
  rw [hone]
  rfl

end

theorem State.quietCore.onlyMine {s : State} (h : s.quietCore) : s.onlyMine := fun i hi _ => h.2.1 i hi

theorem State.onlyMine.modCrew {s : State} {f : Crew → Crew} (h : s.onlyMine) : (s.modCrew s.myCore f).onlyMine := h

/-! ### Semaphores (R126, R311) -/

section

variable {s : State} {st : BitVec 2} {d : BitVec 5} {o : Op} {n : Nat} (hf : s.fresh) (hid : o.id = s.me.opId) (hd : o.dest = s.me.destOf d) (hfl : o.flag = none)

/-- The pod with a semaphore of the current core at a value. -/
def State.withSem (s : State) (n : Nat) (w : BitVec 8) : State := s.modCrew s.myCore fun x => { x with sems := x.sems.set n w }

theorem State.fresh_withSem {w : BitVec 8} (hf : s.fresh) : (s.withSem n w).fresh := State.fresh_modCrew hf rfl

include hf hid hd hfl in
theorem State.beginSemp_takes (hv : s.crew.sems.get 0 n ≠ 0) (ha : o.kind.atReply = false) :
    (s.withMe (s.me.began st d none (.localOp s.me.opId) o)).beginSemp s.cur o n =
      (s.withSem n (s.crew.sems.get 0 n - 1)).withMe (s.me.ended st d ((s.crew.sems.get 0 n).setWidth 64) none 0 true) := by
  unfold State.beginSemp
  refine (if_pos hv).trans ?_
  have hw : ((s.crew.sems.get 0 n).setWidth 512 : BitVec 512) = ((s.crew.sems.get 0 n).setWidth 64 : Word).setWidth 512 := by
    apply BitVec.eq_of_toNat_eq
    simp only [BitVec.toNat_setWidth]
    omega
  refine Eq.trans ?_ (State.performed_began_result (s := s.withSem n (s.crew.sems.get 0 n - 1)) (State.fresh_withSem hf) hid hd hfl ha)
  rw [← hw]
  rfl

theorem State.beginSemp_waits (hv : s.crew.sems.get 0 n = 0) :
    (s.withMe (s.me.began st d none (.localOp s.me.opId) o)).beginSemp s.cur o n = s.withMe (s.me.began st d none (.localOp s.me.opId) { o with phase := .waiting }) := by
  unfold State.beginSemp
  exact (if_neg fun h => h hv).trans (State.setPhase_began s.me st d none _ o s .waiting)

theorem State.beginSemv_of {k : Nat} {u : State} (hu : (s.modCrew (coreOf k) fun x => { x with
      sems := x.sems.set n (if (s.core (coreOf k)).crew.sems.get 0 n = 255 then 255 else (s.core (coreOf k)).crew.sems.get 0 n + 1) }).performedNone k o = u)
    (hn : firstWaiter u (coreOf k) (fun kd => kd == .semp n) = none) : s.beginSemv k o n = u := by
  unfold State.beginSemv
  dsimp only
  rw [hu, hn]

include hf hid hfl in
theorem State.beginSemv_adds (hm : s.onlyMine) (hd : o.dest = .none) (ha : o.kind.atReply = false) :
    (s.withMe (s.me.began st 0 none .none o)).beginSemv s.cur o n =
      (s.withSem n (if s.crew.sems.get 0 n = 255 then 255 else s.crew.sems.get 0 n + 1)).withMe (s.me.ended st 0 0 none 0 false) :=
  State.beginSemv_of (State.performedNone_began (s := s.withSem n _) (State.fresh_withSem hf) hid hd hfl ha)
    (firstWaiter_none (s := s.withSem n _) hm fun o ho => by rw [Slot.ended_ops hf.1] at ho; exact nomatch ho)

/-! ### The core queue (R312, R313) -/

/-- The value that a read which finds nothing leaves in its register (R309, R313). -/
theorem Slot.keep_began {flag : Option (BitVec 3)} {h : Hold} (hok : okD d = true) (hd : o.dest = s.me.destOf d) :
    (s.me.began st d flag h o).keep o = (s.rd d).setWidth 512 := by
  have hphys : (s.me.began st d flag h o).phys = s.me.phys := by
    unfold Slot.began
    dsimp only
    split <;> cases s.me.destOf d <;> cases flag <;> rfl
  unfold Slot.keep State.rd
  rw [hd]
  unfold Slot.destOf
  by_cases h8 : d.toNat < 8
  · have h0 : d = 0 := by
      have h : d = 0 ∨ 8 ≤ d.toNat := by simpa [okD, BitVec.le_def] using hok
      exact h.resolve_right (by omega)
    rw [if_pos h8, if_pos h0]
    simp only [BitVec.ofNat_eq_ofNat, BitVec.setWidth_zero]
  · have h0 : d ≠ 0 := by
      rintro rfl
      exact h8 (by decide)
    rw [if_neg h8, if_neg h0, if_neg h8, hphys]
    rfl

end

section

variable {s : State} {st : BitVec 2} {d : BitVec 5} {o : Op} {f : BitVec 3} (hf : s.fresh) (hid : o.id = s.me.opId) (hfl : o.flag = some f) (ha : o.kind.atReply = false)

include hf hid hfl ha

/-- An operation that answers by a register and a flag. -/
theorem State.performed_result_flag (hd : o.dest = s.me.destOf d) {x : BitVec 512} {v : Word} (hx : x = v.setWidth 512) (b : Bool) :
    (s.withMe (s.me.began st d (some f) .none o)).performed s.cur o { value := x, flag := o.flag.map fun f => (f, some b) } = s.withMe (s.me.ended st d v (some (f, b)) 0 false) := by
  subst hx
  have h := State.performed_began (st := st) (d := d) (flag := some (f, b)) (v := v) (fsf := 0) hf hid hd hfl ha
  rw [hfl]
  exact h

/-- An operation that answers by a flag alone. -/
theorem State.performed_flag (hd : o.dest = .none) (b : Bool) :
    (s.withMe (s.me.began st 0 (some f) .none o)).performed s.cur o { flag := o.flag.map fun f => (f, some b) } = s.withMe (s.me.ended st 0 0 (some (f, b)) 0 false) :=
  State.performed_result_flag (d := 0) (v := 0) hf hid hfl ha hd (by simp only [BitVec.ofNat_eq_ofNat, BitVec.setWidth_zero]) b

/-- QPOP of a queue that holds an entry. -/
theorem State.beginQpop_takes {w : Word} {r : List Word} (hd : o.dest = s.me.destOf d) (hq : s.crew.queue = w :: r) :
    (s.withMe (s.me.began st d (some f) .none o)).beginQpop s.cur o =
      (s.modCrew s.myCore fun x => { x with queue := r, queueHead := x.queueHead + 1 }).withMe (s.me.ended st d w (some (f, true)) 0 false) := by
  have hq' : ((s.withMe (s.me.began st d (some f) .none o)).core (coreOf s.cur)).crew.queue = w :: r := hq
  unfold State.beginQpop
  dsimp only
  rw [hq']
  exact State.performed_result_flag (s := s.modCrew s.myCore fun x => { x with queue := r, queueHead := x.queueHead + 1 }) (State.fresh_modCrew hf rfl) hid hfl ha hd rfl true

theorem State.beginQpop_empty (hok : okD d = true) (hd : o.dest = s.me.destOf d) (hq : s.crew.queue = []) :
    (s.withMe (s.me.began st d (some f) .none o)).beginQpop s.cur o = s.withMe (s.me.ended st d (s.rd d) (some (f, false)) 0 false) := by
  have hq' : ((s.withMe (s.me.began st d (some f) .none o)).core (coreOf s.cur)).crew.queue = [] := hq
  unfold State.beginQpop
  dsimp only
  rw [hq', State.slot_withMe_cur]
  exact State.performed_result_flag hf hid hfl ha hd (Slot.keep_began hok hd) false

end

section

variable {s : State} (hc : s.myCore < 2 ^ 23)

include hc

/-- A core address of the own core, whose channel state it keeps itself (R143). -/
theorem State.ownCore_self {a : Word} (ha : a = BitVec.ofNat 64 s.myCore) (t : Slot) : (s.withMe t).ownCore s.cur a = true := by
  have : a.toNat = coreOf s.cur := by rw [ha, BitVec.toNat_ofNat, Nat.mod_eq_of_lt (by omega)]; rfl
  unfold State.ownCore
  rw [this]
  exact beq_self_eq_true _

/-- No source refuses its own core (R40). -/
theorem State.coreRefused_self {o : Op} (hoa : o.a = BitVec.ofNat 64 s.myCore) (t : Slot) : (s.withMe t).coreRefused s.cur o.a = none := by
  have hpeer : s.myPeer = s.myCore / 1024 := Nat.div_div_eq_div_mul ..
  exact State.coreRefused_own (m := s.myCore % 1024) (Nat.mod_lt _ (by decide)) (by rw [hoa, hpeer]; congr 1; omega) (by omega) t

end

/-- The channel traffic of a core whose spill queue is empty takes its direct way (R94). -/
theorem State.spillBusy_empty {s : State} (hf : s.fresh) (hs : (s.core s.myCore).spill = []) (t : Slot) : (s.withMe t).spillBusy (coreOf s.cur) = false := by
  have hl : (s.withMe t).lead (coreOf s.cur) = s.myCore := if_neg (by rw [State.core_withMe, show s.core (coreOf s.cur) = s.core s.myCore from rfl, hf.2]; exact Bool.false_ne_true)
  unfold State.spillBusy
  rw [hl, State.core_withMe, hs]
  rfl

section

variable {s : State} {st : BitVec 2} {o : Op} {f : BitVec 3} (hf : s.fresh) (hs : (s.core s.myCore).spill = []) (hid : o.id = s.me.opId)
  (ha : o.kind.atReply = false) (hd : o.dest = .none) (hoa : o.a = BitVec.ofNat 64 s.myCore) (hc : s.myCore < 2 ^ 23)

include hf hs hid ha hd hoa hc

/-- QPUSH to the own core (R313). -/
theorem State.beginQpush_self (hfl : o.flag = some f) : (s.withMe (s.me.began st 0 (some f) .none o)).beginQpush s.cur o =
    if s.crew.queue.length < 64 then (s.modCrew s.myCore fun x => { x with queue := x.queue ++ [o.b] }).withMe (s.me.ended st 0 0 (some (f, true)) 0 false)
    else s.withMe (s.me.ended st 0 0 (some (f, false)) 0 false) := by
  unfold State.beginQpush
  dsimp only
  rw [State.coreRefused_self hc hoa]
  dsimp only
  rw [State.ownCore_self hc hoa, if_pos rfl, State.spillBusy_empty hf hs, if_neg Bool.false_ne_true]
  by_cases hq : s.crew.queue.length < 64
  · have hpush : (s.withMe (s.me.began st 0 (some f) .none o)).queuePush (coreOf s.cur) o.b =
        ((s.modCrew s.myCore fun x => { x with queue := x.queue ++ [o.b] }).withMe (s.me.began st 0 (some f) .none o), true) := if_pos hq
    rw [if_pos hq, hpush]
    exact State.performed_flag (s := s.modCrew s.myCore fun x => { x with queue := x.queue ++ [o.b] }) (State.fresh_modCrew hf rfl) hid hfl ha hd true
  · have hpush : (s.withMe (s.me.began st 0 (some f) .none o)).queuePush (coreOf s.cur) o.b = (s.withMe (s.me.began st 0 (some f) .none o), false) := if_neg hq
    rw [if_neg hq, hpush]
    exact State.performed_flag hf hid hfl ha hd false

end

/-! ### Events (R127, R315) -/

/-- A slot whose event latch is set. -/
def Slot.latched (t : Slot) : Slot := { t with latch := true }

theorem State.setLatch_quiet {s : State} {k : Nat} (h : ∀ o ∈ (s.slot k).ops, (o.kind == .wfe && o.phase == .waiting) = false) : s.setLatch k = s.modSlot k Slot.latched := by
  have hn : ((s.modSlot k fun t => { t with latch := true }).slot k).ops.find? (fun o => o.kind == .wfe && o.phase == .waiting) = none := by
    rw [State.slot_modSlot_self]
    exact List.find?_eq_none.mpr fun o ho => by rw [h o ho]; exact Bool.false_ne_true
  unfold State.setLatch
  dsimp only
  rw [hn]
  rfl

section

variable {s : State} {st : BitVec 2} {o : Op} {n : Nat} (hf : s.fresh) (hid : o.id = s.me.opId) (hd : o.dest = .none) (hfl : o.flag = none)

/-- The event latch of a slot of the current core set. -/
def State.rings (s : State) (n : Nat) : State := s.modSlot (s.myCore * 8 + n) Slot.latched

theorem State.me_rings : (s.rings n).me = s.me ∧ s.myCore * 8 + n ≠ s.cur ∨ (s.rings n).me = s.me.latched ∧ s.myCore * 8 + n = s.cur := by
  by_cases h : s.myCore * 8 + n = s.cur
  · refine .inr ⟨?_, h⟩
    unfold State.rings State.me
    rw [h]
    exact NMap.get_set_self _ _ _ _
  · exact .inl ⟨NMap.get_set_ne _ _ _ (Ne.symm h), h⟩

theorem State.fresh_rings (hf : s.fresh) : (s.rings n).fresh := by
  refine ⟨?_, hf.2⟩
  rcases State.me_rings (s := s) (n := n) with ⟨h, -⟩ | ⟨h, -⟩ <;>
  · rw [h]
    exact hf.1

theorem State.opId_rings : (s.rings n).me.opId = s.me.opId := by
  rcases State.me_rings (s := s) (n := n) with ⟨h, -⟩ | ⟨h, -⟩ <;> rw [h]
  rfl

/-- A latch set while an operation of the current thread begins: as if it had been set before. -/
theorem State.rings_began : (s.withMe (s.me.began st 0 none .none o)).modSlot (s.myCore * 8 + n) Slot.latched = (s.rings n).withMe ((s.rings n).me.began st 0 none .none o) := by
  rcases State.me_rings (s := s) (n := n) with ⟨hme, h⟩ | ⟨hme, h⟩
  · rw [hme, State.withMe_modSlot_ne _ _ _ h]
    rfl
  · rw [hme, h, State.withMe_modSlot]
    unfold State.rings State.withMe State.modSlot
    rw [h]
    dsimp only
    rw [NMap.set_set]
    rfl

include hf hid hd hfl in
/-- SEV to a slot of the own core (R315). -/
theorem State.beginSev_self (hm : s.onlyMine) (hk : o.kind = .sev n) (hoa : o.a = BitVec.ofNat 64 s.myCore) (hc : s.myCore < 2 ^ 23) (hn : n < 8) :
    (s.withMe (s.me.began st 0 none .none o)).beginSev s.cur o n = (s.rings n).withMe ((s.rings n).me.ended st 0 0 none 0 false) := by
  have hl : (s.withMe (s.me.began st 0 none .none o)).lead (coreOf s.cur) = s.myCore :=
    if_neg (by rw [State.core_withMe, show s.core (coreOf s.cur) = s.core s.myCore from rfl, hf.2]; exact Bool.false_ne_true)
  have hcore : coreOf (s.myCore * 8 + n) = s.myCore := by
    unfold coreOf
    omega
  have hops : ∀ x ∈ ((s.withMe (s.me.began st 0 none .none o)).slot (s.myCore * 8 + n)).ops, (x.kind == .wfe && x.phase == .waiting) = false := fun x hx => by
    rw [State.ops_onlyMine hm hn] at hx
    split at hx
    · obtain rfl : x = o := List.mem_singleton.mp hx
      rw [hk]
      rfl
    · exact nomatch hx
  unfold State.beginSev
  rw [State.coreRefused_self hc hoa]
  dsimp only
  rw [State.ownCore_self hc hoa, if_pos rfl, hl, State.twins_alone (by rw [hcore]; exact hf.2), List.foldl_cons, List.foldl_nil, State.setLatch_quiet hops, State.rings_began]
  exact State.performedNone_began (s := s.rings n) (State.fresh_rings hf) (hid.trans State.opId_rings.symm) hd hfl (by rw [hk]; rfl)

/-- A slot whose event latch a WFE has cleared. -/
def Slot.unlatched (t : Slot) : Slot := { t with latch := false }

theorem Slot.began_unlatched (t : Slot) (h : Hold) : (t.began st 0 none h o).unlatched = t.unlatched.began st 0 none h o := by
  unfold Slot.began
  dsimp only
  split <;> rfl

theorem Slot.ended_unlatched (t : Slot) : (t.ended st 0 0 none 0 true).unlatched = t.unlatched.ended st 0 0 none 0 true := by
  have hreply (u : Slot) : replyFor u 0 0 none 0 = [] := if_pos ⟨by decide, rfl, rfl⟩
  unfold Slot.ended
  simp only [hreply, ne_eq, not_true_eq_false, and_false, if_false, List.append_nil]
  rfl

include hf hid hd hfl in
/-- WFE of a set latch (R315). -/
theorem State.beginWfe_latched (h : s.me.latch = true) : (s.withMe (s.me.began st 0 none (.localOp s.me.opId) o)).beginWfe s.cur o =
    s.withMe { s.me.ended st 0 0 none 0 true with latch := false } := by
  have hlatch : ((s.withMe (s.me.began st 0 none (.localOp s.me.opId) o)).slot s.cur).latch = true := by
    rw [State.slot_withMe_cur]
    exact h
  unfold State.beginWfe
  unfold State.performedNone
  rw [if_pos hlatch, State.withMe_modSlot, State.performed_alone (s := s.withMe _) hf.2, State.withMe_modSlot]
  refine congrArg s.withMe ((congrArg (Slot.performed · o {}) (Slot.began_unlatched s.me (.localOp s.me.opId))).trans ?_)
  exact (Slot.performed_began_held (t := s.me.unlatched) hf.1 hid hd hfl (.inl rfl)).trans (Slot.ended_unlatched s.me).symm

theorem State.beginWfe_waits (h : s.me.latch = false) : (s.withMe (s.me.began st 0 none (.localOp s.me.opId) o)).beginWfe s.cur o =
    s.withMe (s.me.began st 0 none (.localOp s.me.opId) { o with phase := .waiting }) := by
  have hlatch : ((s.withMe (s.me.began st 0 none (.localOp s.me.opId) o)).slot s.cur).latch = false := by
    rw [State.slot_withMe_cur]
    exact h
  unfold State.beginWfe
  rw [if_neg (by rw [hlatch]; exact Bool.false_ne_true)]
  exact State.setPhase_began s.me st 0 none _ o s .waiting

end

/-- Settles O26, from the lemma for what each instruction does once it has issued. -/
theorem semaphoresQueuesEvents : Obligations.SemaphoresQueuesEvents := by
  intro s d a b f n p st hok hb hq c v sem rung
  have hf : s.fresh := hq.1
  have hm := hq.onlyMine
  have hs := hq.2.2.2
  have hbd : s.me.busy { regs := [d] } = false := Slot.busy_of_subset hb (by simp) (by simp) (by simp)
  have hbdf : s.me.busy { regs := [d], flags := [f] } = false := Slot.busy_of_subset hb (by simp) (by simp) (by simp)
  have hba : s.me.busy { regs := [a] } = false := Slot.busy_of_subset hb (by simp) (by simp) (by simp)
  have hbab : s.me.busy { regs := [a, b], flags := [f] } = false := Slot.busy_of_subset hb (by simp) (by simp) (by simp)
  have hb0 : s.me.busy {} = false := Slot.busy_of_subset hb (by simp) (by simp) (by simp)
  refine ⟨fun hv => ?_, fun hv => ⟨{ s.me.newOp (.semp d n p st) { kind := .semp n.toNat, st := st, pm := p, t := (s.core s.myCore).cycle, dest := s.me.destOf d, held := true } with
      phase := .waiting }, ?_, rfl, rfl, rfl, rfl, rfl, rfl⟩, ?_, fun hoa hc => ⟨fun hl => ?_, fun hl => ?_, ?_⟩, fun w r hr => ?_, fun hr => ?_, fun hl => ?_,
    fun hl => ⟨{ s.me.newOp (.wfe p st) { kind := .wfe, st := st, pm := p, held := true } with phase := .waiting }, ?_, rfl, rfl, rfl, rfl, rfl, rfl⟩⟩
  · change execSemp d n p st s = _
    apply State.streamOp_gives (d := d)
    exacts [hok, hbd, hf, rfl, rfl, fun _ => nofun, State.beginSemp_takes hf rfl rfl rfl hv rfl, (State.fresh_withSem hf).2]
  · change execSemp d n p st s = _
    apply State.streamOp_gives (d := d)
    exacts [hok, hbd, hf, rfl, rfl, fun _ => nofun, State.beginSemp_waits hv, hf.2]
  · change execSemv n p st s = _
    apply State.streamOp_gives (d := 0)
    exacts [rfl, hb0, hf, rfl, rfl, fun _ => nofun, State.beginSemv_adds hf rfl rfl hm rfl rfl, (State.fresh_withSem hf).2]
  · change execQpush f a b p st s = _
    apply State.streamOp_gives (d := 0)
    exacts [rfl, hbab, hf, rfl, rfl, fun _ => nofun, (State.beginQpush_self hf hs rfl rfl rfl hoa hc rfl).trans (if_pos hl), (State.fresh_modCrew (f := fun x => { x with queue := x.queue ++ [s.rd b] }) hf rfl).2]
  · change execQpush f a b p st s = _
    apply State.streamOp_gives (d := 0)
    exacts [rfl, hbab, hf, rfl, rfl, fun _ => nofun, (State.beginQpush_self hf hs rfl rfl rfl hoa hc rfl).trans (if_neg (Nat.not_lt.mpr hl)), hf.2]
  · change execSev n a p st s = _
    apply State.streamOp_gives (d := 0)
    exacts [rfl, hba, hf, rfl, rfl, fun _ => nofun, State.beginSev_self hf rfl rfl rfl hm rfl hoa hc n.isLt, hf.2]
  · change execQpop d f p st s = _
    apply State.streamOp_gives (d := d)
    exacts [hok, hbdf, hf, rfl, rfl, fun _ => nofun, State.beginQpop_takes hf rfl rfl rfl rfl hr, (State.fresh_modCrew (f := fun x => { x with queue := r, queueHead := x.queueHead + 1 }) hf rfl).2]
  · change execQpop d f p st s = _
    apply State.streamOp_gives (d := d)
    exacts [hok, hbdf, hf, rfl, rfl, fun _ => nofun, State.beginQpop_empty hf rfl rfl rfl hok rfl hr, hf.2]
  · change execWfe p st s = _
    apply State.streamOp_gives (d := 0)
    exacts [rfl, hb0, hf, rfl, rfl, fun _ => nofun, State.beginWfe_latched hf rfl rfl rfl hl, hf.2]
  · change execWfe p st s = _
    apply State.streamOp_gives (d := 0)
    exacts [rfl, hb0, hf, rfl, rfl, fun _ => nofun, State.beginWfe_waits hl, hf.2]

end Sys2Proof.Machine

end

section

/-! # What an agent's write in one step keeps (R69, R167) -/

namespace Sys2Proof.Machine

/-- Dies, copies of lines, bound regions and memory apart, the pod is as it was: so it is after any write of an agent. -/
def State.Kept (s t : State) : Prop :=
  t = { s with dies := t.dies, quads := t.quads, cores := t.cores, mem := t.mem, empty := t.empty, poison := t.poison }

namespace State.Kept

variable {s t : State}

theorem refl (s : State) : s.Kept s := rfl

theorem foldl {α : Type} {f : State → α → State} {l : List α} (h : s.Kept t) (hf : ∀ t x, s.Kept t → s.Kept (f t x)) : s.Kept (l.foldl f t) := foldl_keeps hf l t h

theorem ite {c : Prop} {_ : Decidable c} {u : State} (ht : s.Kept t) (hu : s.Kept u) : s.Kept (if c then t else u) := by
  split
  · exact ht
  · exact hu

theorem frame {dies quads cores mem empty poison} (h : s.Kept t) :
    s.Kept { t with dies := dies, quads := quads, cores := cores, mem := mem, empty := empty, poison := poison } := by
  unfold State.Kept at *
  rw [h]

theorem settleLine {l : Nat} (h : s.Kept t) : s.Kept (t.settleLine l) := .ite h h.frame.frame

theorem writeSectors {l m d f p} (h : s.Kept t) : s.Kept (t.writeSectors l m d f p) :=
  h.foldl fun _ _ h₁ => .ite (h₁.frame.foldl fun _ _ h₂ => h₂.frame) h₁

theorem pullRegionLine {c i l keep} (h : s.Kept t) : s.Kept (t.pullRegionLine c i l keep) := by
  unfold State.pullRegionLine
  refine frame (h.foldl fun u k h₁ => .ite ?_ h₁)
  dsimp only
  split
  · exact .ite h₁.frame h₁.frame.writeSectors
  · exact h₁.writeSectors

theorem pullQuadLine {q l keep} (h : s.Kept t) : s.Kept (t.pullQuadLine q l keep) :=
  h.foldl fun _ _ h₁ => h₁.foldl fun _ _ h₂ => .ite h₂.pullRegionLine h₂

theorem homeObtain {l : Nat} (h : s.Kept t) : s.Kept (t.homeObtain l) := by
  unfold State.homeObtain
  refine frame (h.settleLine.foldl fun u q h₁ => ?_)
  dsimp only
  split
  · exact frame (.ite h₁.pullQuadLine.writeSectors h₁.pullQuadLine)
  · exact h₁.pullQuadLine

theorem agentWrite {a n w : Nat} {v : BitVec w} (h : s.Kept t) : s.Kept (t.agentWrite a n v) :=
  foldl (frame (h.foldl fun _ _ h₁ => h₁.homeObtain)) fun _ _ h₁ => h₁.frame

theorem storeDwords {a : Nat} {l : List Word} (h : s.Kept t) : s.Kept (t.storeDwords a l) := by
  induction l generalizing a t with
  | nil => exact h
  | cons w l ih => exact ih h.agentWrite

theorem setSpill {c : Nat} {l : List Spilled} (h : s.Kept t) : s.Kept (t.setSpill c l) := h.frame.storeDwords

theorem cur (h : s.Kept t) : t.cur = s.cur := Eq.trans (congrArg State.cur h) rfl

end State.Kept

end Sys2Proof.Machine

end

section

/-! # Mailboxes (O25) -/

namespace Sys2Proof.Machine

theorem getLsbD_putBits_bit (x : BitVec 8) {n : Nat} (hn : n < 8) (b : BitVec 1) : (putBits x n b).getLsbD n = b.getLsbD 0 := by
  unfold putBits
  simp [hn]

/-! ### Serving a mailbox (R125) -/

section

variable {s : State} {c n : Nat}

/-- Nothing moves at a full mailbox that no read waits for, nor at an empty one that no write is held for. -/
theorem State.serveBoxes_idle (hr : (s.core c).crew.mbFull.getLsbD n = true → firstWaiter s c (fun kd => kd == .mbxr n) = none) (hw : (s.core c).crew.heldWrites = []) (m : Nat) :
    State.serveBoxes c n m s = s := by
  have once : s.serveBoxOnce c n = s := by
    unfold State.serveBoxOnce
    dsimp only
    cases hfull : (s.core c).crew.mbFull.getLsbD n with
    | true => simp only [if_true, hr hfull, hfull]
    | false => simp only [Bool.false_eq_true, if_false, hfull, hw, List.find?_nil]
  induction m with
  | zero => rfl
  | succ m ih => exact (congrArg (State.serveBoxes c n m) once).trans ih

/-- The first waiting read takes a full mailbox; then nothing more moves. -/
theorem State.serveBox_reads {k : Nat} {o : Op} {v : State} (hfull : (s.core c).crew.mbFull.getLsbD n = true) (hw : firstWaiter s c (fun kd => kd == .mbxr n) = some (k, o))
    (hv : (s.modCrew c fun x => { x with mbFull := putBits x.mbFull n (0 : BitVec 1) }).performed k o { value := ((s.core c).crew.mb.get 0 n).setWidth 512 } = v)
    (hempty : (v.core c).crew.mbFull.getLsbD n = false) (hheld : (v.core c).crew.heldWrites = []) : s.serveBox c n = v := by
  have once : s.serveBoxOnce c n = v := by
    unfold State.serveBoxOnce
    simp only [hfull, if_true, hw, hv, hempty, hheld, Bool.false_eq_true, if_false, List.find?_nil]
  exact (congrArg (State.serveBoxes c n 25) once).trans (State.serveBoxes_idle (fun h => nomatch hempty.symm.trans h) hheld 25)

end

/-! ### Reads (R309) -/

section

variable {s : State} {st : BitVec 2} {d : BitVec 5} {o : Op} {n : Nat} (hf : s.fresh) (hm : s.onlyMine) (hw : s.crew.heldWrites = []) (hn : n < 8)

/-- A mailbox of the current core emptied. -/
def State.boxEmptied (s : State) (n : Nat) : State := s.modCrew s.myCore fun x => { x with mbFull := putBits x.mbFull n (0 : BitVec 1) }

/-- A mailbox of the current core filled. -/
def State.boxFilled (s : State) (n : Nat) (w : Word) : State := s.modCrew s.myCore fun x => { x with mb := x.mb.set n w, mbFull := putBits x.mbFull n (1 : BitVec 1) }

theorem State.fresh_boxEmptied (hf : s.fresh) : (s.boxEmptied n).fresh := State.fresh_modCrew hf rfl
theorem State.fresh_boxFilled {w : Word} (hf : s.fresh) : (s.boxFilled n w).fresh := State.fresh_modCrew hf rfl

theorem State.core_modCrew_self (c : Nat) (f : Crew → Crew) : ((s.modCrew c f).core c).crew = f (s.core c).crew := congrArg Core.crew (State.core_modCore_self s c _)

theorem State.modCrew_congr {c : Nat} {f g : Crew → Crew} (h : f (s.core c).crew = g (s.core c).crew) : s.modCrew c f = s.modCrew c g := by
  unfold State.modCrew State.modCore
  dsimp only
  rw [h]

theorem State.boxEmptied_free (hn : n < 8) : (s.boxEmptied n).crew.mbFull.getLsbD n = false := by
  have h : (s.boxEmptied n).crew = _ := State.core_modCrew_self s.myCore _
  rw [h]
  exact getLsbD_putBits_bit _ hn 0

theorem State.boxFilled_full {w : Word} (hn : n < 8) : (s.boxFilled n w).crew.mbFull.getLsbD n = true := by
  have h : (s.boxFilled n w).crew = _ := State.core_modCrew_self s.myCore _
  rw [h]
  exact getLsbD_putBits_bit _ hn 1

theorem State.boxEmptied_heldWrites : (s.boxEmptied n).crew.heldWrites = s.crew.heldWrites := by
  have h : (s.boxEmptied n).crew = _ := State.core_modCrew_self s.myCore _
  rw [h]
  rfl

theorem State.boxFilled_heldWrites {w : Word} : (s.boxFilled n w).crew.heldWrites = s.crew.heldWrites := by
  have h : (s.boxFilled n w).crew = _ := State.core_modCrew_self s.myCore _
  rw [h]
  rfl

include hf hw hn

include hm in
/-- MBXR of a full mailbox (R309). -/
theorem State.beginMbxr_takes (hid : o.id = s.me.opId) (hd : o.dest = s.me.destOf d) (hfl : o.flag = none) (hk : o.kind = .mbxr n) (hfull : s.crew.mbFull.getLsbD n = true) :
    (s.withMe (s.me.began st d none (.localOp s.me.opId) o)).beginMbxr s.cur o n = (s.boxEmptied n).withMe (s.me.ended st d (s.crew.mb.get 0 n) none 0 true) := by
  unfold State.beginMbxr
  rw [State.setPhase_began]
  refine State.serveBox_reads (k := s.cur) (o := { o with phase := .waiting }) hfull
    (firstWaiter_mine hm rfl (by rw [hk]; exact beq_self_eq_true (OpKind.mbxr n))) ?_ (State.boxEmptied_free hn) (State.boxEmptied_heldWrites.trans hw)
  exact State.performed_began_result (s := s.boxEmptied n) (o := { o with phase := .waiting }) (State.fresh_boxEmptied hf) hid hd hfl (by rw [hk]; rfl)

omit hf hn in
/-- MBXR of an empty one. -/
theorem State.beginMbxr_waits (hempty : s.crew.mbFull.getLsbD n = false) :
    (s.withMe (s.me.began st d none (.localOp s.me.opId) o)).beginMbxr s.cur o n = s.withMe (s.me.began st d none (.localOp s.me.opId) { o with phase := .waiting }) := by
  unfold State.beginMbxr
  rw [State.setPhase_began]
  exact State.serveBoxes_idle (s := s.withMe _) (fun h => nomatch hempty.symm.trans h) hw 26

variable {f : BitVec 3} (hid : o.id = s.me.opId) (hd : o.dest = s.me.destOf d) (hfl : o.flag = some f) (ha : o.kind.atReply = false)

include hid hd hfl ha

/-- MBXT of a full mailbox (R309). -/
theorem State.beginMbxt_takes (hfull : s.crew.mbFull.getLsbD n = true) :
    (s.withMe (s.me.began st d (some f) .none o)).beginMbxt s.cur o n = (s.boxEmptied n).withMe (s.me.ended st d (s.crew.mb.get 0 n) (some (f, true)) 0 false) := by
  have hp := State.performed_result_flag (s := s.boxEmptied n) (st := st) (v := s.crew.mb.get 0 n) (State.fresh_boxEmptied hf) hid hfl ha hd rfl true
  unfold State.beginMbxt
  dsimp only
  refine (if_pos hfull).trans ((congrArg (State.serveBox · s.myCore n) hp).trans ?_)
  exact State.serveBoxes_idle (s := (s.boxEmptied n).withMe _) (fun h => nomatch (State.boxEmptied_free hn).symm.trans h) (State.boxEmptied_heldWrites.trans hw) 26

omit hw hn in
theorem State.beginMbxt_empty (hok : okD d = true) (hempty : s.crew.mbFull.getLsbD n = false) :
    (s.withMe (s.me.began st d (some f) .none o)).beginMbxt s.cur o n = s.withMe (s.me.ended st d (s.rd d) (some (f, false)) 0 false) := by
  unfold State.beginMbxt
  dsimp only
  have hc : ((s.withMe (s.me.began st d (some f) .none o)).core (coreOf s.cur)).crew.mbFull.getLsbD n = false := hempty
  rw [hc, if_neg Bool.false_ne_true, State.slot_withMe_cur]
  exact State.performed_result_flag hf hid hfl ha hd (Slot.keep_began hok hd) false

end

/-! ### Writes to the own core (R307, R308) -/

section

variable {s : State} {st : BitVec 2} {o : Op} {n : Nat} {h : Hold} {w : Word} (hf : s.fresh) (hm : s.onlyMine) (hw : s.crew.heldWrites = []) (hn : n < 8)

/-- A write of the current thread's operation to a mailbox. -/
def State.ownWrite (s : State) (n : Nat) (w : Word) : HeldWrite := { box := n, value := w, sender := s.cur, opId := some s.me.opId }

/-- The pod with a write of the current thread held at a mailbox of its core. -/
def State.boxKept (s : State) (n : Nat) (w : Word) : State := s.modCrew s.myCore fun x => { x with heldWrites := [s.ownWrite n w] }

include hw in
/-- A write to a full mailbox is held (R125). -/
theorem State.boxWrite_keeps (t : Slot) (hfull : s.crew.mbFull.getLsbD n = true) :
    (s.withMe t).boxWrite s.myCore (s.ownWrite n w) = ((s.boxKept n w).withMe t, true) := by
  have hw' : ((s.withMe t).core s.myCore).crew.heldWrites = [] := hw
  have hfull' : ((s.withMe t).core s.myCore).crew.mbFull.getLsbD (s.ownWrite n w).box = true := hfull
  unfold State.boxWrite
  dsimp only
  rw [hfull', Bool.true_or, if_pos rfl, hw', if_pos (by decide)]
  refine congrArg (·, true) (State.modCrew_congr (s := s.withMe t) (f := fun x => { x with heldWrites := x.heldWrites ++ [s.ownWrite n w] })
    (g := fun x => { x with heldWrites := [s.ownWrite n w] }) ?_)
  rw [hw', List.nil_append]

include hw in
/-- A write to an empty mailbox is stored; `v` is the pod once its sender's operation has taken that (R125). -/
theorem State.boxWrite_fills {t : Slot} {v : State} (hempty : s.crew.mbFull.getLsbD n = false)
    (hv : ((s.boxFilled n w).withMe t).writeAccepted s.myCore (s.ownWrite n w) = v) (hq : firstWaiter v s.myCore (fun kd => kd == .mbxr n) = none)
    (hheld : (v.core s.myCore).crew.heldWrites = []) : (s.withMe t).boxWrite s.myCore (s.ownWrite n w) = (v, true) := by
  have hw' : ((s.withMe t).core s.myCore).crew.heldWrites = [] := hw
  have hempty' : ((s.withMe t).core s.myCore).crew.mbFull.getLsbD (s.ownWrite n w).box = false := hempty
  unfold State.boxWrite
  dsimp only
  rw [hempty', hw', List.any_nil, Bool.or_self, if_neg Bool.false_ne_true]
  refine Prod.ext ((congrArg (State.serveBox · s.myCore n) hv).trans ?_) rfl
  exact State.serveBoxes_idle (fun _ => hq) hheld 26

/-- A mailbox write of a thread has been stored: a plain one has performed (R307). -/
theorem State.writeAccepted_write {c id : Nat} {x : HeldWrite} (hacked : x.acked = false) (hx : x.opId = some id) (ho : (s.slot x.sender).op id = some o)
    (hk : ∀ n, o.kind ≠ .mbxwi n) : s.writeAccepted c x = s.performedNone x.sender o := by
  unfold State.writeAccepted
  simp only [hacked, hx, ho, Bool.false_eq_true, if_false]

/-- One that carries a token waits for its adoption, and its thread goes on (R308). -/
theorem State.writeAccepted_token {c id : Nat} {x : HeldWrite} (hacked : x.acked = false) (hx : x.opId = some id) (ho : (s.slot x.sender).op id = some o)
    (hk : o.kind = .mbxwi n) : s.writeAccepted c x = (s.setPhase x.sender id .waiting).modSlot x.sender (·.wake id) := by
  unfold State.writeAccepted
  simp only [hacked, hx, ho, hk, Bool.false_eq_true, if_false]

/-- A held thread that its operation lets go on while it stays outstanding (R308). -/
theorem Slot.began_wake (t : Slot) (o : Op) : (t.began st 0 none (.localOp t.opId) o).wake t.opId = t.began st 0 none .none o := by
  unfold Slot.began
  generalize t.destOf 0 = dest
  cases t
  cases dest <;> exact if_pos (.inl rfl)

theorem State.op_began (hid : o.id = s.me.opId) (d : BitVec 5) (flag : Option (BitVec 3)) : ((s.withMe (s.me.began st d flag h o)).slot s.cur).op s.me.opId = some o := by
  rw [← hid, State.slot_withMe_cur]
  exact Slot.op_one _ o rfl

variable (hs : (s.core s.myCore).spill = []) (hid : o.id = s.me.opId)

include hf hw hm hs hid

section

variable (hk : o.kind = .mbxwi n) (ht : ∀ t : Slot, t.job = s.me.job → tokenOf (s.withMe t) s.cur o = w)

include hk ht

/-- MBXWI of an empty mailbox: the token is written and the operation waits for its adoption (R308). -/
theorem State.beginMbxwi_fills (hempty : s.crew.mbFull.getLsbD n = false) :
    (s.withMe (s.me.began st 0 none (.localOp s.me.opId) o)).beginMbxwi s.cur o n = (s.boxFilled n w).withMe (s.me.began st 0 none .none { o with phase := .waiting }) := by
  have haccept : ((s.boxFilled n w).withMe (s.me.began st 0 none (.localOp s.me.opId) o)).writeAccepted s.myCore (s.ownWrite n w) =
      (s.boxFilled n w).withMe (s.me.began st 0 none .none { o with phase := .waiting }) := by
    refine (State.writeAccepted_token (s := (s.boxFilled n w).withMe _) rfl rfl (State.op_began (s := s.boxFilled n w) hid 0 none) hk).trans ?_
    have hphase := State.setPhase_began s.me st 0 none (.localOp s.me.opId) o (s.boxFilled n w) .waiting
    rw [hid] at hphase
    refine (congrArg (State.modSlot · s.cur (·.wake s.me.opId)) hphase).trans ((State.withMe_modSlot (s.boxFilled n w) _ _).trans ?_)
    rw [Slot.began_wake, hid]
  have hwrite := State.boxWrite_fills (w := w) hw hempty haccept (firstWaiter_none (s := s.boxFilled n w) hm fun x hx => by
      obtain rfl : x = { o with phase := .waiting } := List.mem_singleton.mp hx
      dsimp only
      rw [hk]
      rfl) (State.boxFilled_heldWrites.trans hw)
  unfold State.beginMbxwi
  rw [State.spillBusy_empty hf hs, if_neg Bool.false_ne_true, ht _ (Slot.began_job ..), hid]
  dsimp only
  have hwrite' : (s.withMe (s.me.began st 0 none (.localOp s.me.opId) o)).boxWrite (coreOf s.cur) { box := n, value := w, sender := s.cur, opId := some s.me.opId } = _ := hwrite
  rw [hwrite', if_pos rfl]
  have hphase := State.setPhase_began s.me st 0 none .none { o with phase := .waiting } (s.boxFilled n w) .waiting
  rw [← hid]
  exact hphase

omit hm hk in
/-- MBXWI of a full one is held, with its thread (R308). -/
theorem State.beginMbxwi_keeps (hfull : s.crew.mbFull.getLsbD n = true) :
    (s.withMe (s.me.began st 0 none (.localOp s.me.opId) o)).beginMbxwi s.cur o n =
      (s.boxKept n w).withMe (s.me.began st 0 none (.localOp s.me.opId) { o with phase := .waiting }) := by
  unfold State.beginMbxwi
  rw [State.spillBusy_empty hf hs, if_neg Bool.false_ne_true, ht _ (Slot.began_job ..), hid]
  dsimp only
  have hwrite : (s.withMe (s.me.began st 0 none (.localOp s.me.opId) o)).boxWrite (coreOf s.cur) { box := n, value := w, sender := s.cur, opId := some s.me.opId } = _ :=
    State.boxWrite_keeps (w := w) hw _ hfull
  rw [hwrite, if_pos rfl, ← hid]
  exact State.setPhase_began s.me st 0 none _ o (s.boxKept n w) .waiting

end

section

variable (hk : o.kind = .mbxw n) (hoa : o.a = BitVec.ofNat 64 s.myCore) (hc : s.myCore < 2 ^ 23)

include hoa hc

include hk in
/-- MBXW to an empty mailbox of the own core (R307). -/
theorem State.beginMbxw_fills (hd : o.dest = .none) (hfl : o.flag = none) (hempty : s.crew.mbFull.getLsbD n = false) :
    (s.withMe (s.me.began st 0 none (.localOp s.me.opId) o)).beginMbxw s.cur o n = (s.boxFilled n o.b).withMe (s.me.ended st 0 0 none 0 true) := by
  have haccept : ((s.boxFilled n o.b).withMe (s.me.began st 0 none (.localOp s.me.opId) o)).writeAccepted s.myCore (s.ownWrite n o.b) =
      (s.boxFilled n o.b).withMe (s.me.ended st 0 0 none 0 true) :=
    (State.writeAccepted_write (s := (s.boxFilled n o.b).withMe _) rfl rfl (State.op_began (s := s.boxFilled n o.b) hid 0 none) (by rw [hk]; nofun)).trans
      (State.performedNone_began_held (s := s.boxFilled n o.b) (State.fresh_boxFilled hf) hid hd hfl (.inl rfl))
  have hnil : (s.me.ended st 0 0 none 0 true).ops = [] := Slot.ended_ops hf.1 ..
  have hwrite : (s.withMe (s.me.began st 0 none (.localOp s.me.opId) o)).boxWrite (coreOf s.cur) { box := n, value := o.b, sender := s.cur, opId := some s.me.opId } = _ :=
    State.boxWrite_fills (w := o.b) hw hempty haccept (firstWaiter_none (s := s.boxFilled n o.b) hm fun x hx => by rw [hnil] at hx; exact nomatch hx)
      (State.boxFilled_heldWrites.trans hw)
  unfold State.beginMbxw
  dsimp only
  rw [State.coreRefused_self hc hoa]
  dsimp only
  rw [State.ownCore_self hc hoa, if_pos rfl, State.spillBusy_empty hf hs, if_neg Bool.false_ne_true, hid, hwrite, if_pos rfl]
  have hgone : (((s.boxFilled n o.b).withMe (s.me.ended st 0 0 none 0 true)).slot s.cur).op s.me.opId = none := by
    refine (congrArg (Slot.op · s.me.opId) (State.slot_withMe_cur (s.boxFilled n o.b) _)).trans ?_
    unfold Slot.op
    rw [hnil]
    rfl
  dsimp only
  rw [hgone]
  rfl

omit hm in
/-- MBXW to a full one is held, with its thread (R125, R307). -/
theorem State.beginMbxw_keeps (hfull : s.crew.mbFull.getLsbD n = true) :
    (s.withMe (s.me.began st 0 none (.localOp s.me.opId) o)).beginMbxw s.cur o n =
      (s.boxKept n o.b).withMe (s.me.began st 0 none (.localOp s.me.opId) { o with phase := .waiting }) := by
  have hwrite : (s.withMe (s.me.began st 0 none (.localOp s.me.opId) o)).boxWrite (coreOf s.cur) { box := n, value := o.b, sender := s.cur, opId := some s.me.opId } = _ :=
    State.boxWrite_keeps (w := o.b) hw _ hfull
  unfold State.beginMbxw
  dsimp only
  rw [State.coreRefused_self hc hoa]
  dsimp only
  rw [State.ownCore_self hc hoa, if_pos rfl, State.spillBusy_empty hf hs, if_neg Bool.false_ne_true, hid, hwrite, if_pos rfl]
  have hop : (((s.boxKept n o.b).withMe (s.me.began st 0 none (.localOp s.me.opId) o)).slot s.cur).op s.me.opId = some o := State.op_began (s := s.boxKept n o.b) hid 0 none
  dsimp only
  rw [hop, Option.isSome_some, if_pos rfl, ← hid]
  exact State.setPhase_began s.me st 0 none _ o (s.boxKept n o.b) .waiting

end

end

/-! ### A write to another core of the die (R307) -/

theorem State.beginMbxw_sends {s : State} {st : BitVec 2} {o : Op} {h : Hold} {n m : Nat} (hm : m < 1024) (hoa : o.a = BitVec.ofNat 64 (s.myPeer * 1024 + m)) (hp : s.myPeer < 2 ^ 13)
    (hown : s.ownCore s.cur o.a = false) : (s.withMe (s.me.began st 0 none h o)).beginMbxw s.cur o n =
      (s.sendsTask o m taskMbox n o.b).withMe (s.me.began st 0 none h { o with phase := .sent }) := by
  have hn := toNat_ownCore hm hoa hp
  have hown' : (s.withMe (s.me.began st 0 none h o)).ownCore s.cur o.a = false := hown
  unfold State.beginMbxw
  dsimp only
  rw [State.coreRefused_own hm hoa hp]
  dsimp only
  rw [hown', if_neg Bool.false_ne_true]
  unfold State.taskPacket
  rw [State.slot_withMe_cur, Slot.began_job, show o.a.toNat / 1024 = s.myPeer by omega, show o.a.toNat % 1024 = m % 1024 by omega]
  refine (congrArg (State.setPhase · s.cur o.id .sent) (State.send_self (peer := s.myPeer) rfl rfl hp)).trans ?_
  exact State.setPhase_began s.me st 0 none h o (s.sendsTask o m taskMbox n o.b) .sent

/-! ### Behind a resumed crew's spill queue (R94) -/

section

variable {s : State} (hf : s.fresh)

include hf

theorem State.lead_alone (t : Slot) : (s.withMe t).lead (coreOf s.cur) = s.myCore :=
  if_neg (by rw [State.core_withMe, show s.core (coreOf s.cur) = s.core s.myCore from rfl, hf.2]; exact Bool.false_ne_true)

theorem State.spillBusy_behind (hb : s.behindSpill) (t : Slot) : (s.withMe t).spillBusy (coreOf s.cur) = true := by
  unfold State.spillBusy
  rw [State.lead_alone hf, State.core_withMe, hb.2, Bool.and_eq_true]
  exact ⟨bne_iff_ne.mpr hb.1, rfl⟩

/-- The pod with a packet behind the core's spill queue and the current thread as given. -/
def State.spillsTo (s : State) (t : Slot) (k : Pkt) : State := (s.withMe t).setSpill s.myCore ((s.core s.myCore).spill ++ [{ pkt := k }])

theorem State.spillOwn_room (hroom : (s.core s.myCore).spill.length < 64) (t : Slot) (k : Pkt) : (s.withMe t).spillOwn s.cur k = some (s.spillsTo t k) := by
  unfold State.spillOwn
  dsimp only
  rw [State.lead_alone hf, State.core_withMe, if_pos hroom]
  rfl

omit hf in
/-- What such a packet leaves, whatever the current thread becomes. -/
theorem State.spillsTo_gives (t : Slot) (k : Pkt) (f : Slot → Slot) : ((s.spillsTo t k).modSlot s.cur f).me = f t ∧
    (((s.spillsTo t k).modSlot s.cur f).core s.myCore).spill = (s.core s.myCore).spill ++ [{ pkt := k }] ∧
    ((s.spillsTo t k).modSlot s.cur f).net = s.net ∧ ((s.spillsTo t k).modSlot s.cur f).pkgs = s.pkgs ∧ ∀ j, j ≠ s.cur → ((s.spillsTo t k).modSlot s.cur f).slot j = s.slot j := by
  obtain ⟨hslots, hnet, r, hcore⟩ := State.setSpill_gives (s := s.withMe t) (c := s.myCore) ((s.core s.myCore).spill ++ [{ pkt := k }])
  have hcur : (s.spillsTo t k).cur = s.cur := (State.Kept.refl (s.withMe t)).setSpill.cur
  have hpkgs : (s.spillsTo t k).pkgs = s.pkgs := ((State.SameJobs.refl (s.withMe t)).setSpill (c := s.myCore)).pkgs
  have hme : (s.spillsTo t k).slot s.cur = t := (congrArg (fun m : NMap Slot => m.get {} s.cur) hslots).trans (State.slot_withMe_cur s t)
  refine ⟨?_, ?_, hnet, hpkgs, fun j hj => ?_⟩
  · have hm : ((s.spillsTo t k).modSlot s.cur f).me = ((s.spillsTo t k).modSlot s.cur f).slot s.cur := congrArg ((s.spillsTo t k).modSlot s.cur f).slot hcur
    rw [hm, State.slot_modSlot_self, hme]
  · exact congrArg Core.spill hcore
  · rw [State.slot_modSlot_ne _ _ hj]
    refine (congrArg (fun m : NMap Slot => m.get {} j) hslots).trans ?_
    exact NMap.get_set_ne _ _ _ hj

theorem State.spillsTo_alone (t : Slot) (k : Pkt) : ((s.spillsTo t k).core s.myCore).crew.bind.lockstep = false := by
  obtain ⟨-, -, r, hcore⟩ := State.setSpill_gives (s := s.withMe t) (c := s.myCore) ((s.core s.myCore).spill ++ [{ pkt := k }])
  exact (congrArg (fun x : Core => x.crew.bind.lockstep) hcore).trans hf.2

/-- The packet that carries a thread's channel traffic for its own core (R94). -/
def State.ownTask (s : State) (o : Op) (fn : BitVec 4) (size : Nat) (w : Word) : Pkt :=
  { s.packetOf o 0 0x07 s.myPeer (s.myCore % 1024) size with fn := fn, operand := w }

section

variable {o : Op} {n : Nat} {st : BitVec 2} {d : BitVec 5} {flag : Option (BitVec 3)} {h : Hold}

omit hf in
theorem State.taskPacket_own {target : Nat} (ht : target = s.myCore) (fn : BitVec 4) (size : Nat) (w : Word) :
    (s.withMe (s.me.began st d flag h o)).taskPacket s.cur o target fn size w = s.ownTask o fn size w := by
  have hpeer : s.myCore / 1024 = s.myPeer := by
    unfold State.myPeer peerOf State.myQuad quadOf
    omega
  subst ht
  unfold State.taskPacket
  rw [State.slot_withMe_cur, Slot.began_job, hpeer]
  rfl

variable (hb : s.behindSpill) (hroom : (s.core s.myCore).spill.length < 64)

include hb hroom

/-- MBXWI behind the spill queue: its token joins the queue, and the thread is held until it is written (R94, R308). -/
theorem State.beginMbxwi_spills {w : Word} (ht : ∀ t : Slot, t.job = s.me.job → tokenOf (s.withMe t) s.cur o = w) :
    (s.withMe (s.me.began st 0 none h o)).beginMbxwi s.cur o n =
      (s.spillsTo (s.me.began st 0 none h o) (s.ownTask o taskMbox n w)).modSlot s.cur fun t => t.modOp o.id fun o => { o with phase := .sent } := by
  unfold State.beginMbxwi
  rw [State.spillBusy_behind hf hb, if_pos rfl, ht _ (Slot.began_job ..), State.taskPacket_own (target := coreOf s.cur) rfl, State.spillOwn_room hf hroom]
  rfl

variable (hoa : o.a = BitVec.ofNat 64 s.myCore) (hc : s.myCore < 2 ^ 23)

include hoa hc

omit hf hb hroom in
theorem toNat_ownCore_self : o.a.toNat = s.myCore := by rw [hoa, BitVec.toNat_ofNat, Nat.mod_eq_of_lt (by omega)]

/-- MBXW behind the spill queue has performed once it has joined it (R94). -/
theorem State.beginMbxw_spills : (s.withMe (s.me.began st 0 none h o)).beginMbxw s.cur o n =
    (s.spillsTo (s.me.began st 0 none h o) (s.ownTask o taskMbox n o.b)).modSlot s.cur fun t => t.performed o {} := by
  unfold State.beginMbxw
  dsimp only
  rw [State.coreRefused_self hc hoa]
  dsimp only
  rw [State.ownCore_self hc hoa, if_pos rfl, State.spillBusy_behind hf hb, if_pos rfl, State.taskPacket_own (toNat_ownCore_self hoa hc), State.spillOwn_room hf hroom]
  exact State.performed_alone (State.spillsTo_alone hf _ _) o {}

/-- So has QPUSH, where the core queue will have room (R93, R94). -/
theorem State.beginQpush_spills {f : BitVec 3} (hfl : o.flag = some f)
    (hq : (s.core s.myCore).crew.queue.length + ((s.core s.myCore).spill.filter fun e => e.pkt.fn == taskPush).length < 64) :
    (s.withMe (s.me.began st 0 (some f) h o)).beginQpush s.cur o =
      (s.spillsTo (s.me.began st 0 (some f) h o) (s.ownTask o taskPush 0 o.b)).modSlot s.cur fun t => t.performed o { flag := some (f, some true) } := by
  have hq' : ((s.withMe (s.me.began st 0 (some f) h o)).core s.myCore).crew.queue.length + ((s.withMe (s.me.began st 0 (some f) h o)).core s.myCore).spilledPushes < 64 := hq
  unfold State.beginQpush
  dsimp only
  rw [State.coreRefused_self hc hoa]
  dsimp only
  rw [State.ownCore_self hc hoa, if_pos rfl, State.spillBusy_behind hf hb, if_pos rfl, State.lead_alone hf, if_pos hq', State.taskPacket_own (toNat_ownCore_self hoa hc),
    State.spillOwn_room hf hroom, hfl]
  exact State.performed_alone (State.spillsTo_alone hf _ _) o { flag := some (f, some true) }

end

end

/-- The token of an operation of the current thread (R192). -/
theorem tokenOf_withMe {s : State} {t : Slot} {o : Op} (ht : t.job = s.me.job) : tokenOf (s.withMe t) s.cur o =
    (1 : BitVec 1) ++ s.me.job ++ BitVec.ofNat 3 (slotOf s.cur) ++ o.stream ++ o.scope ++ (0 : BitVec 11) ++ o.seq ++ (0 : BitVec 16) := by
  unfold tokenOf
  rw [State.slot_withMe_cur, ht]

section

variable {s : State} {a b : BitVec 5} {n : BitVec 3} {p : BitVec 4} {st : BitVec 2} {t : State}

/-- The operation that MBXW issues. -/
def State.mbxwOp (s : State) (n : BitVec 3) (a b : BitVec 5) (p : BitVec 4) (st : BitVec 2) : Op :=
  s.me.newOp (.mbxw n a b p st) { kind := .mbxw n.toNat, st := st, pm := p, a := s.rd a, b := s.rd b, held := true, byReply := !s.ownCore s.cur (s.rd a) }

/-- The operation that MBXWI issues. -/
def State.mbxwiOp (s : State) (n : BitVec 3) (p : BitVec 4) (st : BitVec 2) : Op :=
  s.me.newOp (.mbxwi n p st) { kind := .mbxwi n.toNat, st := st, pm := p, held := true }

/-- The operation that QPUSH issues. -/
def State.qpushOp (s : State) (f : BitVec 3) (a b : BitVec 5) (p : BitVec 4) (st : BitVec 2) : Op :=
  s.me.newOp (.qpush f a b p st) { kind := .qpush, st := st, pm := p, a := s.rd a, b := s.rd b, flag := some f }

variable (hf : s.fresh) (hs : (t.core s.myCore).crew.bind.lockstep = false)

include hf hs

/-- MBXW waits at the own core or for the reply of another (R307). -/
theorem exec_mbxw {h : Hold} {own : Bool} (hb : s.me.busy { regs := [a, b] } = false) (hown : s.ownCore s.cur (s.rd a) = own)
    (hh : h = if own then .localOp s.me.opId else .reply s.me.opId)
    (ht : (s.withMe (s.me.began st 0 none h (s.mbxwOp n a b p st))).beginMbxw s.cur (s.mbxwOp n a b p st) n.toNat = t) : exec (.mbxw n a b p st) s = .next t := by
  have holds : ({ kind := .mbxw n.toNat, st := st, pm := p, a := s.rd a, b := s.rd b, held := true, byReply := !s.ownCore s.cur (s.rd a) } : Issue).holds s.me = h := by
    rw [hh, hown]
    cases own <;> rfl
  change execMbxw n a b p st s = _
  apply State.streamOp_gives (d := 0)
  exacts [rfl, hb, hf, rfl, rfl, fun _ => nofun, by rw [holds]; exact ht, hs]

theorem exec_mbxwi (hb : s.me.busy {} = false)
    (ht : (s.withMe (s.me.began st 0 none (.localOp s.me.opId) (s.mbxwiOp n p st))).beginMbxwi s.cur (s.mbxwiOp n p st) n.toNat = t) : exec (.mbxwi n p st) s = .next t := by
  change execMbxwi n p st s = _
  apply State.streamOp_gives (d := 0)
  exacts [rfl, hb, hf, rfl, rfl, fun _ => nofun, ht, hs]

theorem exec_qpush {f : BitVec 3} (hb : s.me.busy { regs := [a, b], flags := [f] } = false)
    (ht : (s.withMe (s.me.began st 0 (some f) .none (s.qpushOp f a b p st))).beginQpush s.cur (s.qpushOp f a b p st) = t) : exec (.qpush f a b p st) s = .next t := by
  change execQpush f a b p st s = _
  apply State.streamOp_gives (d := 0)
  exacts [rfl, hb, hf, rfl, rfl, fun _ => nofun, ht, hs]

end

/-- Settles O25, from the lemmas for what each instruction does once it has issued. -/
theorem mailboxes : Obligations.Mailboxes := by
  refine ⟨?_, ?_⟩
  · intro s d a b f n p st hok hb hq c v token emptied filled kept
    have hf : s.fresh := hq.1
    have hm := hq.onlyMine
    have hw := hq.2.2.1
    have hs := hq.2.2.2
    have hbd : s.me.busy { regs := [d] } = false := Slot.busy_of_subset hb (by simp) (by simp) (by simp)
    have hbdf : s.me.busy { regs := [d], flags := [f] } = false := Slot.busy_of_subset hb (by simp) (by simp) (by simp)
    have hbab : s.me.busy { regs := [a, b] } = false := Slot.busy_of_subset hb (by simp) (by simp) (by simp)
    have hb0 : s.me.busy {} = false := Slot.busy_of_subset hb (by simp) (by simp) (by simp)
    have hkept : ∀ w, ((s.boxKept n.toNat w).core s.myCore).crew.bind.lockstep = false := fun w =>
      (State.fresh_modCrew (f := fun x => { x with heldWrites := [s.ownWrite n.toNat w] }) hf rfl).2
    have htoken : ∀ t : Slot, t.job = s.me.job → tokenOf (s.withMe t) s.cur (s.mbxwiOp n p st) = token := fun t ht => tokenOf_withMe ht
    refine ⟨fun hfull => ⟨?_, ?_, fun hoa hc => ⟨{ s.mbxwOp n a b p st with phase := .waiting }, ?_, rfl, rfl, rfl, rfl, rfl, rfl⟩,
        { s.mbxwiOp n p st with phase := .waiting }, ?_, rfl, rfl, rfl, rfl, rfl, rfl⟩,
      fun hempty => ⟨⟨{ s.me.newOp (.mbxr d n p st) { kind := .mbxr n.toNat, st := st, pm := p, t := (s.core s.myCore).cycle, dest := s.me.destOf d, held := true } with
          phase := .waiting }, ?_, rfl, rfl, rfl, rfl, rfl, rfl⟩, ?_, fun hoa hc => ?_, { s.mbxwiOp n p st with phase := .waiting }, ?_, rfl, rfl, rfl, rfl, rfl, rfl⟩,
      fun m hm hlead hoa hp => ⟨{ s.mbxwOp n a b p st with phase := .sent }, ?_, rfl, rfl, rfl, rfl, rfl, rfl⟩⟩
    · change execMbxr d n p st s = _
      apply State.streamOp_gives (d := d)
      exacts [hok, hbd, hf, rfl, rfl, fun _ => nofun, State.beginMbxr_takes hf hm hw n.isLt rfl rfl rfl rfl hfull, (State.fresh_boxEmptied hf).2]
    · change execMbxt d f n p st s = _
      apply State.streamOp_gives (d := d)
      exacts [hok, hbdf, hf, rfl, rfl, fun _ => nofun, State.beginMbxt_takes hf hw n.isLt rfl rfl rfl rfl hfull, (State.fresh_boxEmptied hf).2]
    · exact exec_mbxw hf (hkept _) hbab (State.ownCore_self hc hoa s.me) rfl (State.beginMbxw_keeps hf hw hs rfl hoa hc hfull)
    · exact exec_mbxwi hf (hkept _) hb0 (State.beginMbxwi_keeps hf hw hs rfl htoken hfull)
    · change execMbxr d n p st s = _
      apply State.streamOp_gives (d := d)
      exacts [hok, hbd, hf, rfl, rfl, fun _ => nofun, State.beginMbxr_waits hw hempty, hf.2]
    · change execMbxt d f n p st s = _
      apply State.streamOp_gives (d := d)
      exacts [hok, hbdf, hf, rfl, rfl, fun _ => nofun, State.beginMbxt_empty hf rfl rfl rfl rfl hok hempty, hf.2]
    · exact exec_mbxw hf (State.fresh_boxFilled hf).2 hbab (State.ownCore_self hc hoa s.me) rfl (State.beginMbxw_fills hf hm hw hs rfl rfl hoa hc rfl rfl hempty)
    · exact exec_mbxwi hf (State.fresh_boxFilled hf).2 hb0 (State.beginMbxwi_fills hf hm hw hs rfl rfl htoken hempty)
    · have hown : s.ownCore s.cur (s.rd a) = false := by
        have hn : (s.rd a).toNat = s.myPeer * 1024 + m := by rw [hoa, BitVec.toNat_ofNat, Nat.mod_eq_of_lt (by omega)]
        have hself : s.lead (coreOf s.cur) = c := State.lead_alone hf s.me
        unfold State.ownCore
        rw [hn, hself]
        exact beq_eq_false_iff_ne.mpr hlead
      exact exec_mbxw hf hf.2 hbab hown rfl (State.beginMbxw_sends hm hoa hp hown)
  · intro s a b f n p st hb hf hbehind x token joins hroom
    have hbab : s.me.busy { regs := [a, b] } = false := Slot.busy_of_subset hb (by simp) (by simp) (by simp)
    have hb0 : s.me.busy {} = false := Slot.busy_of_subset hb (by simp) (by simp) (by simp)
    have outs : ∀ {i : Instr} {phase : Phase} {o : Op} {t : Slot} {fn : BitVec 4} {size : Nat} {w : Word} {me : Op → Slot} {g : Slot → Slot},
        exec i s = .next ((s.spillsTo t (s.ownTask o fn size w)).modSlot s.cur g) → s.outstanding { o with phase := phase } st p phase → g t = me { o with phase := phase } →
          joins i phase fn size w me := fun {i phase o t fn size w me g} he ho hg => by
      obtain ⟨hme, hspill, hnet, hpkgs, hslots⟩ := State.spillsTo_gives t (s.ownTask o fn size w) g
      exact ⟨_, _, he, ho, hme.trans hg, hspill, hnet, hpkgs, hslots⟩
    refine ⟨fun hoa hc => ⟨?_, fun hq => ?_⟩, ?_⟩
    · exact outs (o := s.mbxwOp n a b p st) (exec_mbxw hf (State.spillsTo_alone hf _ _) hbab (State.ownCore_self hc hoa s.me) rfl (State.beginMbxw_spills hf hbehind hroom hoa hc))
        ⟨rfl, rfl, rfl, rfl, rfl, rfl⟩ (Slot.performed_began_held hf.1 rfl rfl rfl (.inl rfl))
    · refine outs (o := s.qpushOp f a b p st) (exec_qpush (t := (s.spillsTo _ _).modSlot s.cur _) hf (State.spillsTo_alone hf _ _) hb (State.beginQpush_spills hf hbehind hroom hoa hc rfl hq)) ⟨rfl, rfl, rfl, rfl, rfl, rfl⟩ ?_
      have h := Slot.performed_began (t := s.me) (st := st) (d := 0) (o := s.qpushOp f a b p st) (flag := some (f, true)) (v := 0) (fsf := 0) hf.1 rfl rfl rfl rfl
      rwa [show ((0 : Word).setWidth 512 : BitVec 512) = 0 by simp only [BitVec.ofNat_eq_ofNat, BitVec.setWidth_zero]] at h
    · refine outs (o := s.mbxwiOp n p st) (exec_mbxwi hf (State.spillsTo_alone hf _ _) hb0 (State.beginMbxwi_spills hf hbehind hroom fun t ht => tokenOf_withMe ht))
        ⟨rfl, rfl, rfl, rfl, rfl, rfl⟩ (Slot.modOp_began ..)

end Sys2Proof.Machine

end

section

/-! # A step runs the decoded instruction (O57) -/

namespace Sys2Proof.Machine

/-! ### Halfwords as they are fetched (R232, R233) -/

/-- The two bytes of a halfword, the lower address first. -/
def halfBytes (h : BitVec 16) : List Byte := [h.setWidth 8, (h >>> 8).setWidth 8]

theorem halfword_halfBytes (h : BitVec 16) : halfword (h.setWidth 8) ((h >>> 8).setWidth 8) = h := by
  apply BitVec.eq_of_getLsbD_eq
  intro i hi
  simp only [halfword, BitVec.getLsbD_append, BitVec.getLsbD_setWidth, BitVec.getLsbD_ushiftRight]
  split
  · next h8 => simp [h8]
  · next h8 => rw [decide_eq_true (by omega), Bool.true_and, show 8 + (i - 8) = i by omega]

theorem firstReject_ne_truncated (h : BitVec 16) : firstReject h ≠ some .truncated := by
  unfold firstReject
  split
  · nofun
  · split <;> nofun

theorem decode16_ne_truncated (h : BitVec 16) : decode16 h ≠ .error .truncated := by
  unfold decode16
  split
  · nofun
  · split <;> nofun

section

variable {h : BitVec 16} {r : Reject}

/-- What a halfword that starts no instruction decodes to. -/
theorem decode_rejected (hr : firstReject h = some r) (rest : List Byte) : decode (halfBytes h ++ rest) = .error r := by
  simp only [halfBytes, List.cons_append, List.nil_append, decode, halfword_halfBytes, hr]

variable (hr : firstReject h = none)

include hr

theorem decode_one_short (hl : isLong h = false) : decode (halfBytes h) = (decode16 h).map fun i => (i, 2) := by
  simp only [halfBytes, decode, halfword_halfBytes, hr, hl, Bool.false_eq_true, if_false]

theorem decode_one_long (hl : isLong h = true) : decode (halfBytes h) = .error .truncated := by
  simp only [halfBytes, decode, halfword_halfBytes, hr, hl, if_true]

theorem decode_two_long (hl : isLong h = true) (h' : BitVec 16) : decode (halfBytes h ++ halfBytes h') = (decode32 (h' ++ h)).map fun i => (i, 4) := by
  simp only [halfBytes, List.cons_append, List.nil_append, decode, halfword_halfBytes, hr, hl, if_true]

end

/-! ### The next instruction (R233) -/

section

variable {s u : State} {k : Nat} {h : BitVec 16}

theorem State.nextInstr_stops (hf : s.fetch16 k (s.slot k).pc = .error u) : s.nextInstr k = .stop u := by
  unfold State.nextInstr
  dsimp only
  rw [hf]

variable (hf : s.fetch16 k (s.slot k).pc = .ok (u, h))

include hf

/-- A halfword that decodes by itself is the next instruction. -/
theorem State.nextInstr_short {i : Instr} (hd : decode (halfBytes h) = .ok (i, 2)) : s.nextInstr k = .run u i := by
  unfold State.nextInstr
  dsimp only
  rw [hf]
  dsimp only
  cases hr : firstReject h with
  | some r => exact nomatch (decode_rejected hr []).symm.trans hd
  | none =>
    cases hl : isLong h with
    | true => exact nomatch (decode_one_long hr hl).symm.trans hd
    | false =>
      have hm := (decode_one_short hr hl).symm.trans hd
      cases h16 : decode16 h with
      | error e => rw [h16] at hm; exact nomatch hm
      | ok j =>
        rw [h16] at hm
        obtain rfl : j = i := congrArg Prod.fst (Except.ok.inj hm)
        rfl

/-- One that no instruction starts with, or that is no short one, has no legal meaning. -/
theorem State.nextInstr_illegal {e : Reject} (hd : decode (halfBytes h) = .error e) (ht : e ≠ .truncated) : s.nextInstr k = .run u (.illegalInstruction (h.setWidth 32)) := by
  unfold State.nextInstr
  dsimp only
  rw [hf]
  dsimp only
  cases hr : firstReject h with
  | some r => rfl
  | none =>
    cases hl : isLong h with
    | true => exact absurd (Except.error.inj ((decode_one_long hr hl).symm.trans hd)).symm ht
    | false =>
      have hm := (decode_one_short hr hl).symm.trans hd
      cases h16 : decode16 h with
      | error e => rfl
      | ok j => rw [h16] at hm; exact nomatch hm

variable (hd : decode (halfBytes h) = .error .truncated)

omit hf in
include hd in
/-- A halfword that needs a second one. -/
theorem long_of_truncated : firstReject h = none ∧ isLong h = true := by
  cases hr : firstReject h with
  | some r => exact absurd (hr.trans (congrArg some (Except.error.inj ((decode_rejected hr []).symm.trans hd)))) (firstReject_ne_truncated h)
  | none =>
    cases hl : isLong h with
    | true => exact ⟨rfl, rfl⟩
    | false =>
      have hm := (decode_one_short hr hl).symm.trans hd
      cases h16 : decode16 h with
      | error e =>
        rw [h16] at hm
        exact absurd (h16.trans (congrArg Except.error (Except.error.inj hm))) (decode16_ne_truncated h)
      | ok j => rw [h16] at hm; exact nomatch hm

include hd

theorem State.nextInstr_stops_second {v : State} (hf' : u.fetch16 k ((s.slot k).pc + 2) = .error v) : s.nextInstr k = .stop v := by
  obtain ⟨hr, hl⟩ := long_of_truncated hd
  unfold State.nextInstr
  simp only [hf, hr, hl, if_true, hf']

variable {v : State} {h' : BitVec 16} (hf' : u.fetch16 k ((s.slot k).pc + 2) = .ok (v, h'))

include hf'

theorem State.nextInstr_long {i : Instr} (hd' : decode (halfBytes h ++ halfBytes h') = .ok (i, 4)) : s.nextInstr k = .run v i := by
  obtain ⟨hr, hl⟩ := long_of_truncated hd
  have hm := (decode_two_long hr hl h').symm.trans hd'
  unfold State.nextInstr
  simp only [hf, hr, hl, if_true, hf']
  cases h32 : decode32 (h' ++ h) with
  | error e => rw [h32] at hm; exact nomatch hm
  | ok j =>
    rw [h32] at hm
    obtain rfl : j = i := congrArg Prod.fst (Except.ok.inj hm)
    rfl

theorem State.nextInstr_long_illegal {e : Reject} (hd' : decode (halfBytes h ++ halfBytes h') = .error e) : s.nextInstr k = .run v (.illegalInstruction (h' ++ h)) := by
  obtain ⟨hr, hl⟩ := long_of_truncated hd
  have hm := (decode_two_long hr hl h').symm.trans hd'
  unfold State.nextInstr
  simp only [hf, hr, hl, if_true, hf']
  cases h32 : decode32 (h' ++ h) with
  | error e => rfl
  | ok j => rw [h32] at hm; exact nomatch hm

end

/-! ### A turn (R113) -/

section

variable {s : State}

/-- A turn in which a thread could not issue counts in sr.wait (R123). -/
def Slot.countsWait (x : Slot) : Slot := if x.st = .wait ∧ (x.hold = .reissue ∨ x.hold = .none) then { x with waits := x.waits + 1 } else x

/-- The end of a cycle of a core, and what follows at once. -/
def State.endsCycle (s : State) (c : Nat) : State := (s.modCore c fun x => { x with cycle := x.cycle + 1 }).settle

theorem outMap_outMap (f g : State → State) (o : Out) : outMap f (outMap g o) = outMap (fun t => f (g t)) o := by cases o <;> rfl

/-- A step of a core whose turn is that of a running thread. -/
theorem step_runs (ha : s.agenda = []) (hp : (s.pkg (coreOf s.cur / 4096)).power = .on) (hs : (s.pkg (coreOf s.cur / 4096)).pstate ≠ 3)
    (hl : (s.core (coreOf s.cur)).crew.bind.lockstep = false) (hr : (s.slot (s.turnOf (coreOf s.cur))).st = .run) (ht : (s.slot (s.turnOf (coreOf s.cur))).trapNext = [])
    (hk : (s.slot (s.turnOf (coreOf s.cur))).skip = false) : step s = outMap (·.endsCycle (coreOf s.cur)) (s.runSlot (s.turnOf (coreOf s.cur))) := by
  have hturn : s.turn (coreOf s.cur) false = outMap (·.tick [coreOf s.cur]) (s.runSlot (s.turnOf (coreOf s.cur))) := by
    unfold State.turn State.slotTurn
    simp only [hp, hs, hl, hr, ht, hk, ne_eq, not_true_eq_false, or_self, if_false, Bool.false_eq_true]
    rfl
  unfold step State.stepOn
  rw [ha]
  dsimp only
  rw [hturn, outMap_outMap]
  rfl

/-- A step whose next move is an event. -/
theorem step_event {i : Instr} {a : Arg} {r : List Move} (ha : s.agenda = .event i a :: r) :
    step s = outMap State.settle (({ s with agenda := r } : State).move (.event i a)) := by
  unfold step State.stepOn
  rw [ha]

/-- An event that is next: behind an earlier posted write it waits, and without its clocks it does not happen (R440, R20). -/
theorem State.move_event (u : State) (i : Instr) (a : Arg) : outMap State.settle (u.move (.event i a)) =
    if u.behindPosted i a then .next ({ u with posted := u.posted ++ [(i, a)] } : State).settle
      else if ({ u with arg := a } : State).happens i then outMap State.settle (exec i { u with arg := a }) else .next u.settle := by
  unfold State.move
  dsimp only
  rw [apply_ite (outMap State.settle), apply_ite (outMap State.settle)]
  rfl

theorem State.runSlot_stops {k : Nat} {u : State} (h : ({ s with cur := k } : State).nextInstr k = .stop u) : s.runSlot k = .next u := by
  unfold State.runSlot
  rw [h]

theorem State.runSlot_runs {k : Nat} {u : State} {i : Instr} (h : ({ s with cur := k } : State).nextInstr k = .run u i) :
    s.runSlot k = outMap (·.modSlot k Slot.countsWait) (exec i { u with cur := k }) := by
  unfold State.runSlot
  rw [h]
  rfl

end

/-- Settles O57: the event first on the agenda, and each outcome of the fetch. -/
theorem stepRunsDecoded : Obligations.StepRunsDecoded := by
  intro s c k at' pc ended ran bytes
  refine ⟨fun i a r ha => ?_, fun ha hp hs hl hr ht hk => ?_⟩
  · exact (step_event ha).trans (State.move_event _ i a)
  · have stops : ∀ {v : State}, at'.nextInstr k = .stop v → step s = .next (ended v) := fun h => by
      rw [step_runs ha hp hs hl hr ht hk, State.runSlot_stops h]
      rfl
    have runs : ∀ {v : State} {i : Instr}, at'.nextInstr k = .run v i → step s = ran v i := fun h => by
      rw [step_runs ha hp hs hl hr ht hk, State.runSlot_runs h, outMap_outMap]
      rfl
    exact ⟨fun u hf => stops (State.nextInstr_stops hf), fun u h hf => ⟨fun i hd => runs (State.nextInstr_short hf hd), fun e hd he => runs (State.nextInstr_illegal hf hd he),
      fun hd => ⟨fun v hf' => stops (State.nextInstr_stops_second hf hd hf'), fun v h' hf' => ⟨fun i hd' => runs (State.nextInstr_long hf hd hf' hd'),
        fun e hd' => runs (State.nextInstr_long_illegal hf hd hf' hd')⟩⟩⟩⟩

end Sys2Proof.Machine

end

section

/-! # Commands at their thread: how a matrix or copy command issues (O38, and the first part of O39) -/

namespace Sys2Proof.Machine

/-- An operation that has issued with nothing outstanding before it begins, whatever else its issue has changed (R185, R186). -/
theorem State.beginOp_alone {s u : State} {i : Instr} {x : Issue} (hf : s.me.ops = []) (hu : u.slot s.cur = s.me.issueOp i x) (hparts : x.parts = []) :
    u.beginOp s.cur s.me.opId = (u.beginKind s.cur (s.me.newOp i x)).syncPair (coreOf s.cur) := by
  have hphase : (s.me.newOp i x).phase = .held := rfl
  have hbehind : ∀ a, (s.me.issueOp i x).behindParked s.me.opId a = false := fun a => by simp [Slot.behindParked, Slot.earlier_issueOp s.me i x hf]
  have hfree : u.partsFree s.cur (s.me.newOp i x) = true := by
    unfold State.partsFree
    rw [show (s.me.newOp i x).parts = [] from hparts]
    rfl
  unfold State.beginOp
  rw [hu, Slot.op_issueOp _ _ _ hf]
  simp only [hphase, Slot.maskMet_issueOp s.me i x hf, hbehind, hfree, ne_eq, not_true_eq_false, or_self, if_false, Bool.and_false, Bool.false_eq_true, Bool.not_true]

/-! ### A command's issue (R116, R359, R360) -/

section

variable {s : State} {i : Instr} {slot : Nat} {d : BitVec 5} {v : BitVec 4} {room : State → Bool} {x : Issue} {put : State → Op → State} (hw : wellFormed i = true)

include hw

theorem State.engineOp_elsewhere (hs : slotOf s.cur ≠ slot) : s.engineOp i slot d v room x put = .next (s.trapHere 0x02 0 (zx (encode i))) := by
  unfold State.engineOp
  rw [if_neg (by simp [hw]), if_pos hs]

variable (hs : slotOf s.cur = slot) (hb : s.me.busy { regs := [d], vecs := [v.toNat] } = false)

include hs hb

theorem State.engineOp_issue (hroom : room s = true) (hwin : s.me.hasRoom x.st.toNat = true) : s.engineOp i slot d v room x put =
    .next (let u := s.withMe (s.me.issueOp i x); match (s.me.issueOp i x).op s.me.opId with
      | some o => (put u o).beginOp s.cur s.me.opId
      | none => u) := by
  unfold State.engineOp
  rw [if_neg (by simp [hw]), if_neg (by simp [hs]), issue_ok hw hb]
  dsimp only
  rw [hroom, hwin, State.modMe_eq_withMe, State.withMe_cur, State.slot_withMe_cur]
  rfl

theorem State.engineOp_full (hroom : room s = false) : s.engineOp i slot d v room x put = .next (s.withMe { s.me with st := .wait, hold := .reissue }) := by
  unfold State.engineOp
  rw [if_neg (by simp [hw]), if_neg (by simp [hs]), issue_ok hw hb]
  dsimp only
  rw [hroom]
  rfl

/-- A command with nothing outstanding before it enters its queue and begins. -/
theorem State.engineOp_begins (hroom : room s = true) (hf : s.fresh) (hl : ilen i = 4) (hd : x.dest = s.me.destOf d) (hheld : x.held = false) (hflag : x.flag = none)
    (hparts : x.parts = []) {u : State}
    (hput : put (s.withMe (s.me.began x.st d none .none (s.me.newOp i x))) (s.me.newOp i x) = u) (hu : u.slot s.cur = s.me.began x.st d none .none (s.me.newOp i x)) :
    s.engineOp i slot d v room x put = .next ((u.beginKind s.cur (s.me.newOp i x)).syncPair s.myCore) := by
  have hbegan : s.me.issueOp i x = s.me.began x.st d none .none (s.me.newOp i x) := by
    rw [Slot.issueOp_eq_began hf.1 hl hd, hflag]
    unfold Issue.holds
    rw [hheld]
    rfl
  rw [State.engineOp_issue hw hs hb hroom (Slot.hasRoom_fresh _ _ hf.1)]
  dsimp only
  rw [Slot.op_issueOp _ _ _ hf.1, hbegan]
  dsimp only
  rw [hput, State.beginOp_alone hf.1 (hu.trans hbegan.symm) hparts]
  rfl

end

/-! ### A crew's lock-step is no matter of its queues and its lines -/

namespace State.SameCrews

variable {s t : State}

theorem homeClean {l : Nat} (h : s.SameCrews t) : s.SameCrews (t.homeClean l) := by
  unfold State.homeClean
  refine h.settleLine.foldl fun u q h₁ => ?_
  dsimp only
  split
  · exact .ite (frame h₁.pullQuadLine.writeSectors.frame) h₁.pullQuadLine
  · exact h₁.pullQuadLine

theorem agentClean {a n : Nat} (h : s.SameCrews t) : s.SameCrews (t.agentClean a n) := h.foldl fun _ _ h₁ => h₁.homeClean

theorem snap {k : Nat} {i : BitVec 6} (h : s.SameCrews t) : s.SameCrews (t.snap k i).2 := by
  unfold State.snap
  dsimp only
  split
  · exact h
  · split
    · exact h
    · split
      · exact h
      · split
        · exact h
        · split
          · exact h
          · exact h.agentClean.frame

theorem takeSnaps {c : EngCmd} (h : s.SameCrews t) : s.SameCrews (t.takeSnaps c).2 := by
  unfold State.takeSnaps
  dsimp only
  split
  · split
    · exact h.snap.snap
    · exact h
  · split
    · exact h.snap
    · exact h

theorem lockstep (h : s.SameCrews t) (c : Nat) : (t.core c).crew.bind.lockstep = (s.core c).crew.bind.lockstep := by
  obtain ⟨r, hr⟩ := h.core c
  rw [hr]

end State.SameCrews

theorem State.lockstep_modCmd (s : State) (k id : Nat) (f : EngCmd → EngCmd) : ((s.modCmd k id f).core (coreOf k)).crew.bind.lockstep = (s.core (coreOf k)).crew.bind.lockstep := by
  unfold State.modCmd
  rw [State.core_modQuad]
  exact congrArg (·.crew.bind.lockstep) (State.core_modCore_self s (coreOf k) _)

/-! ### Matrix commands (R361, R370 to R379) -/

section

variable {s : State} {i : Instr} {f : Nat} {d : BitVec 5} {v : BitVec 4} {st : BitVec 2} {p : BitVec 4}

/-- What a matrix command issues with. -/
def State.matrixIssue (s : State) (f : Nat) (d : BitVec 5) (v : BitVec 4) (st : BitVec 2) (p : BitVec 4) : Issue :=
  { kind := .matrix f, st := st, pm := p, vec := s.me.v v.toNat, dest := s.me.destOf d }

/-- A command of a thread that has none in its core's queue is the one that its operation names. -/
theorem State.engCmd_appended {t : State} {c : EngCmd} {l : List EngCmd} (hl : ∀ e ∈ l, e.slot ≠ c.slot) (ht : (t.core (coreOf c.slot)).crew.matrix = l ++ [c]) :
    t.engCmd c.slot c.op.id = some c := by
  have hnone : l.find? (·.is c.slot c.op.id) = none := List.find?_eq_none.mpr fun e he => by simp [EngCmd.is, hl e he]
  unfold State.engCmd
  rw [ht, List.find?_append, hnone, Option.none_or, List.find?_cons_of_pos (by simp [EngCmd.is])]

/-- The current thread has issued a matrix command, which stands in its core's queue. -/
def State.queued (s : State) (st : BitVec 2) (d : BitVec 5) (o : Op) : State :=
  (s.withMe (s.me.began st d none .none o)).modCrew s.myCore fun y => { y with matrix := y.matrix ++ [{ slot := s.cur, op := o }] }

theorem State.matrixOp_begins (hw : wellFormed i = true) (hs : slotOf s.cur = 6) (hb : s.me.busy { regs := [d], vecs := [v.toNat] } = false) (hl : ilen i = 4)
    (hroom : s.crew.matrix.length < 4) (hf : s.fresh) (hnew : ∀ e ∈ s.crew.matrix, e.slot ≠ s.cur) :
    let o := s.me.newOp i (s.matrixIssue f d v st p)
    let x := s.queued st d o
    let r := x.takeSnaps { slot := s.cur, op := o }
    s.matrixOp i f d v st p = .next ((r.2.setPhase s.cur o.id .waiting).modCmd s.cur o.id fun c => { c with snaps := r.1, op := { c.op with phase := .waiting } }) := by
  intro o x r
  have hcore : x.core s.myCore = { s.core s.myCore with crew := { s.crew with matrix := s.crew.matrix ++ [{ slot := s.cur, op := o }] } } :=
    State.core_modCore_self (s.withMe _) s.myCore _
  have hcmd : x.engCmd s.cur o.id = some { slot := s.cur, op := o } :=
    State.engCmd_appended (c := { slot := s.cur, op := o }) hnew (congrArg (·.crew.matrix) hcore)
  have hbegin : x.beginMatrix s.cur o = (r.2.setPhase s.cur o.id .waiting).modCmd s.cur o.id fun c => { c with snaps := r.1, op := { c.op with phase := .waiting } } := by
    unfold State.beginMatrix
    rw [hcmd]
  have hlock : ((x.beginMatrix s.cur o).core s.myCore).crew.bind.lockstep = false := by
    rw [hbegin]
    refine (State.lockstep_modCmd _ s.cur _ _).trans (((State.SameCrews.refl x).takeSnaps.lockstep s.myCore).trans ?_)
    rw [hcore]
    exact hf.2
  rw [← hbegin]
  refine (State.engineOp_begins (x := s.matrixIssue f d v st p) (u := x) hw hs hb (decide_eq_true hroom) hf hl rfl rfl rfl rfl rfl (State.slot_withMe_cur s _)).trans ?_
  exact congrArg _ (State.syncPair_of_alone hlock)

/-- The commands that read no format take no snapshot (R208). -/
theorem State.takeSnaps_none {t : State} {c : EngCmd} (h : c.fn ∈ [0, 5, 8, 9, 10, 11]) : t.takeSnaps c = ([], t) := by
  unfold State.takeSnaps
  simp only [List.mem_cons, List.not_mem_nil, or_false] at h
  rcases h with h | h | h | h | h | h <;> rw [h] <;> rfl

/-- MREAD's destination format, where its index names a fixed format (R208, R377). -/
theorem State.takeSnaps_mread {t : State} {c : EngCmd} (h : c.fn = 7) (hi : (bits (c.p 7) 16 6 : BitVec 6).toNat < 4) :
    t.takeSnaps c = ([{ idx := bits (c.p 7) 16 6 }], t) := by
  have hsnap : t.snap c.slot (bits (c.p 7) 16 6) = ({ idx := bits (c.p 7) 16 6 }, t) := if_pos hi
  unfold State.takeSnaps
  rw [h]
  dsimp only
  rw [hsnap]
  rfl

/-- A matrix command's slot, queue and issue. -/
theorem State.matrixOp_spec (he : exec i s = s.matrixOp i f d v st p) (hw : wellFormed i = true) (hl : ilen i = 4) (hb : s.me.busy { regs := [d], vecs := [v.toNat] } = false) :
    (slotOf s.cur ≠ 6 → Traps s i 0x02 0 (zx (encode i))) ∧
    (slotOf s.cur = 6 → 4 ≤ s.crew.matrix.length → exec i s = .next (s.withMe { s.me with st := .wait, hold := .reissue })) ∧
    (slotOf s.cur = 6 → s.crew.matrix.length < 4 → s.fresh → (∀ e ∈ s.crew.matrix, e.slot ≠ s.cur) →
      ∃ o, s.outstanding o st p .held ∧ o.kind = .matrix f ∧ o.vec = s.me.v v.toNat ∧ o.word = encode i ∧ o.dest = s.me.destOf d ∧
        let c : EngCmd := { slot := s.cur, op := o }
        let x := (s.withMe (s.me.began st d none .none o)).modCrew s.myCore fun y => { y with matrix := y.matrix ++ [c] }
        let r := x.takeSnaps c
        exec i s = .next ((r.2.setPhase s.cur o.id .waiting).modCmd s.cur o.id fun c => { c with snaps := r.1, op := { c.op with phase := .waiting } }) ∧
        (f ∈ [0, 5, 8, 9, 10, 11] → r = ([], x)) ∧
        (f = 7 → (bits (lane o.vec 7) 16 6 : BitVec 6).toNat < 4 → r = ([{ idx := bits (lane o.vec 7) 16 6 }], x))) :=
  ⟨fun hs => he.trans (State.engineOp_elsewhere hw hs),
    fun hs hfull => he.trans (State.engineOp_full hw hs hb (decide_eq_false (Nat.not_lt.mpr hfull))),
    fun hs hroom hf hnew => ⟨s.me.newOp i (s.matrixIssue f d v st p), ⟨rfl, rfl, rfl, rfl, rfl, rfl⟩, rfl, rfl, rfl, rfl,
      he.trans (State.matrixOp_begins hw hs hb hl hroom hf hnew), fun h => State.takeSnaps_none h, fun h hi => State.takeSnaps_mread h hi⟩⟩

end

/-- Settles O38, from the one lemma for every matrix command. -/
theorem matrixIssue : Obligations.MatrixIssue := by
  intro s d v st p f i hd hb hi
  simp only [List.mem_cons, Prod.mk.injEq, List.not_mem_nil, or_false] at hi
  rcases hi with ⟨rfl, rfl⟩ | ⟨rfl, rfl⟩ | ⟨rfl, rfl⟩ | ⟨rfl, rfl⟩ | ⟨rfl, rfl⟩ | ⟨rfl, rfl⟩ | ⟨rfl, rfl⟩ | ⟨rfl, rfl⟩ | ⟨rfl, rfl⟩ | ⟨rfl, rfl⟩ | ⟨rfl, rfl⟩ | ⟨rfl, rfl⟩ <;>
    exact State.matrixOp_spec rfl hd rfl hb

end Sys2Proof.Machine

end

section

/-! # O39 fails: a copy command whose token names no waiting MBXWI is STALE as it is released (R193, R382) -/

namespace Sys2Proof.Machine

/-- A running thread of core 0 in slot 7, the token lanes of its vector register 0 not zero: the token has no valid bit and names nothing. -/
def strayToken : State where
  cur := 7
  slots := [(7, { st := .run, vregs := [(0, 1 <<< (32 * 7))] })]

/-- The outcomes of the commands in channel 0 of core 0 after an instruction. -/
def outcomesAfter : Out → List (Option Nat)
  | .next t => (t.channel 0 0).queue.map (·.outcome)
  | _ => []

/-- A CPY of that vector stands in its channel with the outcome STALE. -/
theorem outcomesAfter_cpy : outcomesAfter (exec (.cpy 0 0 0 0) strayToken) = [some 4] := by decide +kernel

/-- A command that enters the channel as the statement has it is undecided. -/
theorem outcomesAfter_queued {ch : Nat} (hch : ch = 0) (me : Slot) (o : Op) :
    outcomesAfter (.next ((strayToken.withMe me).modChannel 0 ch fun c => { c with queue := c.queue ++ [{ slot := 7, op := o }] })) = [none] := by
  subst hch
  rfl

/-- The channel that the command names. -/
theorem strayToken_channel : (lane (strayToken.me.v (0 : BitVec 4).toNat) 6).toNat % 4 = 0 := by decide +kernel

theorem strayToken_room (ch : Nat) : (strayToken.channel 0 ch).queue.length < 4 := by
  rw [show (strayToken.channel 0 ch).queue = [] from rfl]
  exact Nat.zero_lt_succ 3

theorem strayToken_alone (ch : Nat) : ∀ c ∈ (strayToken.channel 0 ch).queue, c.slot ≠ 7 := by
  rw [show (strayToken.channel 0 ch).queue = [] from rfl]
  exact fun _ hc => absurd hc List.not_mem_nil

/-- Refutes O39: the clause of CPY, CPY2 and CPYF that enters the command undecided has no premise on its token; with a token that no waiting MBXWI of the core bears
the command gets the outcome STALE as it is released. -/
theorem not_copyCommands : ¬Obligations.CopyCommands := by
  intro h
  obtain ⟨-, -, henters, -⟩ := h.1 strayToken 0 0 0 0 0 (.cpy 0 0 0 0) (by decide) (by decide) (by simp)
  obtain ⟨o, -, -, -, -, hexec⟩ := henters rfl (by decide) (strayToken_room _) ⟨rfl, rfl⟩ (strayToken_alone _)
  have hstale := (congrArg outcomesAfter hexec).symm.trans outcomesAfter_cpy
  exact absurd ((outcomesAfter_queued strayToken_channel _ _).symm.trans hstale) (by decide)

end Sys2Proof.Machine

end

section

/-! # The return from a trap (O13): a context is read back as it was written -/

namespace Sys2Proof

/-! ### Fields of a word built of parts -/

section

variable {n m : Nat} (x : BitVec n) (y : BitVec m) {lo w : Nat}

theorem bits_append_hi (h : m ≤ lo) : (bits (x ++ y) lo w : BitVec w) = bits x (lo - m) w := BitVec.extractLsb'_append_eq_of_le h

theorem bits_append_lo (h : lo + w ≤ m) : (bits (x ++ y) lo w : BitVec w) = bits y lo w := BitVec.extractLsb'_append_eq_of_add_le h

theorem bits_append_self : (bits (x ++ y) 0 m : BitVec m) = y := (bits_append_lo x y (by omega)).trans (BitVec.extractLsb'_eq_self)

theorem getLsbD_foldl_or (f : Nat → BitVec n) (j : Nat) (l : List Nat) (z : BitVec n) :
    (l.foldl (fun x i => x ||| f i) z).getLsbD j = (z.getLsbD j || l.any fun i => (f i).getLsbD j) := by
  induction l generalizing z with
  | nil => simp
  | cons i l ih => rw [List.foldl_cons, ih, BitVec.getLsbD_or, List.any_cons, Bool.or_assoc]

end

/-! ### A map written entry by entry -/

section

variable {V α : Type} (key : α → Nat) (val : α → V) {l : List α} {k : Nat} {d v : V}

/-- Where every entry for a key has one value, and there is one, the key has that value. -/
theorem NMap.get_foldl_set {m : NMap V} (hv : ∀ y ∈ l, key y = k → val y = v) (h : m.get d k = v ∨ ∃ x ∈ l, key x = k) :
    (l.foldl (fun m y => m.set (key y) (val y)) m).get d k = v := by
  induction l generalizing m with
  | nil => simpa using h
  | cons y l ih =>
    refine ih (fun z hz => hv z (List.mem_cons_of_mem _ hz)) ?_
    rw [NMap.get_set]
    split
    · next hk => exact .inl (hv y List.mem_cons_self hk.symm)
    · next hk =>
      rcases h with h | ⟨x, hx, hxk⟩
      · exact .inl h
      · rcases List.mem_cons.mp hx with rfl | hx
        · exact absurd hxk.symm hk
        · exact .inr ⟨x, hx, hxk⟩

end

end Sys2Proof

namespace Sys2Proof.Machine

/-! ### What a context gives a thread -/

/-- The registers of the frames that a context holds (R118, R138): the current frame's out registers, then the sixteen of each resident frame. -/
def reloadPhys (g : Nat → Word) (wd n : Nat) (m : NMap Word) : NMap Word :=
  ((List.range n).flatMap fun f => (List.range 16).map fun i => (f, i)).foldl (fun m p => m.set ((16 * (wd - p.1) + p.2) % 120) (g (33 + 17 * p.1 + p.2)))
    ((List.range 8).foldl (fun m i => m.set ((16 * wd + (16 + i)) % 120) (g (24 + i))) m)

/-- Their links. -/
def reloadLinks (g : Nat → Word) (wd n : Nat) (m : NMap Word) : NMap Word := (List.range n).foldl (fun m f => m.set (wd - f) (g (32 + 17 * f))) m

theorem Slot.foldl_setW (a : Nat → Nat) (v : Nat → Word) (l : List Nat) (t : Slot) :
    l.foldl (fun t i => t.setW (a i) (v i)) t = { t with phys := l.foldl (fun m i => m.set ((16 * t.wdepth.toNat + a i) % 120) (v i)) t.phys } := by
  induction l generalizing t with
  | nil => rfl
  | cons i l ih => exact ih _

theorem Slot.foldl_frames (A B : NMap Word → Nat → NMap Word) (l : List Nat) (t : Slot) :
    l.foldl (fun t f => { t with links := A t.links f, phys := B t.phys f }) t = { t with links := l.foldl A t.links, phys := l.foldl B t.phys } := by
  induction l generalizing t with
  | nil => rfl
  | cons i l ih => exact ih _

/-- A context read back (R138), field by field. -/
theorem Slot.reload_eq (t : Slot) (g : Nat → Word) :
    t.reload g = { t with
      pc := g 0, flags := bits (g 3) 0 8, fcr := bits (g 3) 8 2, fsf := bits (g 3) 16 6, wto := bits (g 4) 0 40, ssp := g 5, wdepth := bits (g 6) 0 16,
      resident := bits (g 6) 16 4, loops := (loopOf (g 8) (g 9)).toList ++ (loopOf (g 10) (g 11)).toList,
      kregs := ((List.range 8).drop 1).map fun i => (i, bits (g (12 + i / 4)) (16 * (i % 4)) 16),
      streams := (List.range 4).map fun i => (i, { scope := bits (g (16 + 2 * i)) 0 3, next := bits (g (16 + 2 * i)) 16 16 }),
      vregs := (List.range 16).map fun i => (i, (List.range 8).foldl (fun x m => x ||| ((g (152 + 8 * i + m)).setWidth 512 <<< (64 * m))) 0),
      pendW := ((bits (g 313) 0 56 : BitVec 56) ++ g 312), pendV := bits (g 314) 0 16, pendF := bits (g 314) 16 8,
      phys := reloadPhys g (bits (g 6) 0 16 : BitVec 16).toNat (bits (g 6) 16 4 : BitVec 4).toNat t.phys,
      links := reloadLinks g (bits (g 6) 0 16 : BitVec 16).toNat (bits (g 6) 16 4 : BitVec 4).toNat t.links } := by
  unfold Slot.reload reloadPhys reloadLinks
  dsimp only
  rw [Slot.foldl_setW, List.foldl_flatMap]
  simp only [List.foldl_map]
  exact Slot.foldl_frames (fun m f => m.set ((bits (g 6) 0 16 : BitVec 16).toNat - f) (g (32 + 17 * f)))
    (fun m f => (List.range 16).foldl (fun m i => m.set ((16 * ((bits (g 6) 0 16 : BitVec 16).toNat - f) + i) % 120) (g (33 + 17 * f + i))) m) _ _

theorem mem_frames {n f i : Nat} : (f, i) ∈ ((List.range n).flatMap fun f => (List.range 16).map fun i => (f, i)) ↔ f < n ∧ i < 16 := by simp

theorem eq_of_mod_eq {a b : Nat} (h : a % 120 = b % 120) (hab : a < b + 120) (hba : b < a + 120) : a = b := by omega

section

variable {g : Nat → Word} {wd n : Nat} (hn : n ≤ 7) (hw : n ≤ wd + 1) {m : NMap Word}

include hn hw

theorem reloadPhys_frame {f i : Nat} (hf : f < n) (hi : i < 16) : (reloadPhys g wd n m).get 0 ((16 * (wd - f) + i) % 120) = g (33 + 17 * f + i) := by
  refine NMap.get_foldl_set (fun p : Nat × Nat => (16 * (wd - p.1) + p.2) % 120) (fun p => g (33 + 17 * p.1 + p.2)) ?_ (.inr ⟨(f, i), by simp [hf, hi], rfl⟩)
  rintro ⟨f', i'⟩ hp hk
  obtain ⟨hf', hi'⟩ := mem_frames.mp hp
  have heq : 16 * (wd - f') + i' = 16 * (wd - f) + i := eq_of_mod_eq hk (by omega) (by omega)
  obtain ⟨rfl, rfl⟩ : f' = f ∧ i' = i := by omega
  rfl

theorem reloadPhys_out {i : Nat} (hi : i < 8) : (reloadPhys g wd n m).get 0 ((16 * wd + (16 + i)) % 120) = g (24 + i) := by
  refine NMap.get_foldl_set (fun p : Nat × Nat => (16 * (wd - p.1) + p.2) % 120) (fun p => g (33 + 17 * p.1 + p.2)) ?_ (.inl ?_)
  · rintro ⟨f', i'⟩ hp hk
    obtain ⟨hf', hi'⟩ := mem_frames.mp hp
    have heq : 16 * (wd - f') + i' = 16 * wd + (16 + i) := eq_of_mod_eq hk (by omega) (by omega)
    omega
  · refine NMap.get_foldl_set (fun i => (16 * wd + (16 + i)) % 120) (fun i => g (24 + i)) (fun j hj hk => ?_) (.inr ⟨i, List.mem_range.mpr hi, rfl⟩)
    have hj' := List.mem_range.mp hj
    rw [show j = i by omega]

omit hn in
theorem reloadLinks_frame {f : Nat} (hf : f < n) : (reloadLinks g wd n m).get 0 (wd - f) = g (32 + 17 * f) := by
  refine NMap.get_foldl_set (fun f => wd - f) (fun f => g (32 + 17 * f)) (fun j hj hk => ?_) (.inr ⟨f, List.mem_range.mpr hf, rfl⟩)
  have hj' := List.mem_range.mp hj
  rw [show j = f by omega]

end

theorem get_map_range {V : Type} (f : Nat → V) {n j : Nat} (d : V) (hj : j < n) : NMap.get ((List.range n).map fun i => (i, f i)) d j = f j := by
  unfold NMap.get
  rw [NMap.find_map_range f _ (List.mem_range.mpr hj)]
  rfl

/-! ### The dwords of a context, and the registers read from them -/

/-- A loop level survives its two dwords where its body and its count fit them (R138). -/
theorem loopOf_dwords {l : Loop} (h2 : (l.stop - l.start).toNat % 2 = 0) (h16 : (l.stop - l.start).toNat < 2 ^ 16) (hc : l.count.toNat < 2 ^ 32) :
    loopOf l.start (b1 true ++ l.depth ++ (bits (l.stop - l.start) 1 15 : BitVec 15) ++ (bits l.count 0 32 : BitVec 32)) = some l := by
  have hvalid : (b1 true ++ l.depth ++ (bits (l.stop - l.start) 1 15 : BitVec 15) ++ (bits l.count 0 32 : BitVec 32)).getLsbD 63 = true := by
    rw [BitVec.getLsbD_append, BitVec.getLsbD_append, BitVec.getLsbD_append]
    rfl
  have hdepth : bits (b1 true ++ l.depth ++ (bits (l.stop - l.start) 1 15 : BitVec 15) ++ (bits l.count 0 32 : BitVec 32)) 47 16 = l.depth :=
    (bits_append_hi _ _ (by decide)).trans ((bits_append_hi _ _ (by decide)).trans (bits_append_self _ _))
  have hcount : bits (b1 true ++ l.depth ++ (bits (l.stop - l.start) 1 15 : BitVec 15) ++ (bits l.count 0 32 : BitVec 32)) 0 32 = (bits l.count 0 32 : BitVec 32) :=
    bits_append_self _ _
  have hlen : bits (b1 true ++ l.depth ++ (bits (l.stop - l.start) 1 15 : BitVec 15) ++ (bits l.count 0 32 : BitVec 32)) 32 15 = (bits (l.stop - l.start) 1 15 : BitVec 15) :=
    (bits_append_hi _ _ (by decide)).trans (bits_append_self _ _)
  have hc' : zx (bits l.count 0 32 : BitVec 32) = l.count := by
    rw [bits_zero]
    apply BitVec.eq_of_toNat_eq
    simp [zx]
    omega
  have hl' : l.start + zx ((bits (l.stop - l.start) 1 15 : BitVec 15).setWidth 16 <<< 1 : BitVec 16) = l.stop := by
    have : zx ((bits (l.stop - l.start) 1 15 : BitVec 15).setWidth 16 <<< 1 : BitVec 16) = l.stop - l.start := by
      apply BitVec.eq_of_toNat_eq
      simp [zx, bits, Nat.shiftLeft_eq, Nat.shiftRight_eq_div_pow] at h2 h16 ⊢
      omega
    rw [this, add_sub_cancel]
  unfold loopOf
  rw [if_pos hvalid, hdepth, hcount, hlen, hc', hl']

section

variable (t : Slot) (pc hdr addr : Word)

theorem contextDword_flags : bits (contextDword t pc hdr addr 3) 0 8 = t.flags := bits_append_self _ _

theorem contextDword_fcr : bits (contextDword t pc hdr addr 3) 8 2 = t.fcr := (bits_append_hi _ _ (by decide)).trans (bits_append_self _ _)

theorem contextDword_fsf : bits (contextDword t pc hdr addr 3) 16 6 = t.fsf :=
  (bits_append_hi _ _ (by decide)).trans ((bits_append_hi _ _ (by decide)).trans ((bits_append_hi _ _ (by decide)).trans (bits_append_self _ _)))

theorem contextDword_wto : bits (contextDword t pc hdr addr 4) 0 40 = t.wto := by
  rw [bits_zero]
  exact BitVec.setWidth_setWidth_of_le t.wto (by decide) |>.trans (BitVec.setWidth_eq _)

theorem contextDword_wdepth : bits (contextDword t pc hdr addr 6) 0 16 = t.wdepth := bits_append_self _ _

theorem contextDword_resident : bits (contextDword t pc hdr addr 6) 16 4 = t.resident := (bits_append_hi _ _ (by decide)).trans (bits_append_self _ _)

theorem contextDword_pendV : bits (contextDword t pc hdr addr 314) 0 16 = t.pendV := bits_append_self _ _

theorem contextDword_pendF : bits (contextDword t pc hdr addr 314) 16 8 = t.pendF := (bits_append_hi _ _ (by decide)).trans (bits_append_self _ _)

theorem contextDword_pendW : (bits (contextDword t pc hdr addr 313) 0 56 : BitVec 56) ++ contextDword t pc hdr addr 312 = t.pendW := by
  have hhi : (bits (contextDword t pc hdr addr 313) 0 56 : BitVec 56) = bits t.pendW 64 56 := by
    rw [bits_zero]
    exact (BitVec.setWidth_setWidth_of_le _ (by decide)).trans (BitVec.setWidth_eq _)
  rw [hhi]
  change (bits t.pendW 64 56 : BitVec 56) ++ (bits t.pendW 0 64 : BitVec 64) = t.pendW
  apply BitVec.eq_of_getLsbD_eq
  intro i hi
  simp only [bits, BitVec.getLsbD_append, BitVec.getLsbD_extractLsb']
  split
  · simp_all
  · simp_all
    omega

theorem bits_quarters (k : Nat → BitVec 16) {r : Nat} (hr : r < 4) : bits (k 3 ++ k 2 ++ k 1 ++ k 0) (16 * r) 16 = k r := by
  interval_cases r
  · exact bits_append_self _ _
  · exact (bits_append_hi _ _ (by decide)).trans (bits_append_self _ _)
  · exact (bits_append_hi _ _ (by decide)).trans ((bits_append_hi _ _ (by decide)).trans (bits_append_self _ _))
  · exact (bits_append_hi _ _ (by decide)).trans ((bits_append_hi _ _ (by decide)).trans ((bits_append_hi _ _ (by decide)).trans
      ((bits_zero _ _).trans (BitVec.setWidth_eq _))))

theorem contextDword_mask {i : Nat} (hi : i < 8) : bits (contextDword t pc hdr addr (12 + i / 4)) (16 * (i % 4)) 16 = t.k i := by
  have hmasks : contextDword t pc hdr addr (12 + i / 4) = t.k (4 * (i / 4) + 3) ++ t.k (4 * (i / 4) + 2) ++ t.k (4 * (i / 4) + 1) ++ t.k (4 * (i / 4)) := by
    unfold contextDword
    iterate 9 rw [if_neg (by omega)]
    rw [if_pos (by omega), Nat.add_sub_cancel_left]
  rw [hmasks]
  refine (bits_quarters (fun r => t.k (4 * (i / 4) + r)) (Nat.mod_lt i (by decide))).trans ?_
  rw [Nat.div_add_mod]

theorem contextDword_stream {i : Nat} (hi : i < 4) :
    contextDword t pc hdr addr (16 + 2 * i) = (0 : BitVec 16) ++ t.front i ++ (t.stream i).next ++ (0 : BitVec 13) ++ (t.stream i).scope := by
  have hq : (16 + 2 * i - 16) / 2 = i := by omega
  have hr : (16 + 2 * i - 16) % 2 = 0 := by omega
  unfold contextDword
  iterate 11 rw [if_neg (by omega)]
  rw [if_pos (by omega)]
  dsimp only
  rw [hq, if_pos hr]

theorem contextDword_scope {i : Nat} (hi : i < 4) : bits (contextDword t pc hdr addr (16 + 2 * i)) 0 3 = (t.stream i).scope := by
  rw [contextDword_stream t pc hdr addr hi]
  exact bits_append_self _ _

theorem contextDword_next {i : Nat} (hi : i < 4) : bits (contextDword t pc hdr addr (16 + 2 * i)) 16 16 = (t.stream i).next := by
  rw [contextDword_stream t pc hdr addr hi]
  exact (bits_append_hi _ _ (by decide)).trans ((bits_append_hi _ _ (by decide)).trans (bits_append_self _ _))

theorem contextDword_out {i : Nat} (hi : i < 8) : contextDword t pc hdr addr (24 + i) = t.w (16 + i) := by
  unfold contextDword
  iterate 12 rw [if_neg (by omega)]
  rw [if_pos (by omega), Nat.add_sub_cancel_left]

theorem contextDword_frame {f i : Nat} (hf : f < t.resident.toNat) (h7 : f < 7) (hi : i < 16) :
    contextDword t pc hdr addr (33 + 17 * f + i) = t.phys.get 0 ((16 * (t.wdepth.toNat - f) + i) % 120) := by
  have hq : (33 + 17 * f + i - 32) / 17 = f := by omega
  have hr : (33 + 17 * f + i - 32) % 17 = i + 1 := by omega
  unfold contextDword
  iterate 13 rw [if_neg (by omega)]
  rw [if_pos (by omega)]
  dsimp only
  rw [hq, hr, if_pos hf, if_neg (by omega), Nat.add_sub_cancel]

theorem contextDword_link {f : Nat} (hf : f < t.resident.toNat) (h7 : f < 7) : contextDword t pc hdr addr (32 + 17 * f) = t.links.get 0 (t.wdepth.toNat - f) := by
  have hq : (32 + 17 * f - 32) / 17 = f := by omega
  have hr : (32 + 17 * f - 32) % 17 = 0 := by omega
  unfold contextDword
  iterate 13 rw [if_neg (by omega)]
  rw [if_pos (by omega)]
  dsimp only
  rw [hq, hr, if_pos hf, if_pos rfl]

theorem contextDword_vec {i m : Nat} (hi : i < 16) (hm : m < 8) : contextDword t pc hdr addr (152 + 8 * i + m) = bits (t.v i) (64 * m) 64 := by
  have hq : (152 + 8 * i + m - 152) / 8 = i := by omega
  have hr : (152 + 8 * i + m - 152) % 8 = m := by omega
  unfold contextDword
  iterate 15 rw [if_neg (by omega)]
  rw [if_pos (by omega), hq, hr]

end

/-- A vector built of its dwords. -/
theorem vec_of_dwords (x : Vec) : (List.range 8).foldl (fun y m => y ||| ((bits x (64 * m) 64 : Word).setWidth 512 <<< (64 * m))) 0 = x := by
  apply BitVec.eq_of_getLsbD_eq
  intro j hj
  rw [getLsbD_foldl_or]
  simp only [BitVec.ofNat_eq_ofNat, BitVec.getLsbD_zero, Bool.false_or]
  have hbit : ∀ m, m < 8 → ((bits x (64 * m) 64 : Word).setWidth 512 <<< (64 * m)).getLsbD j = (decide (j / 64 = m) && x.getLsbD j) := fun m hm => by
    simp only [bits, BitVec.getLsbD_shiftLeft, BitVec.getLsbD_setWidth, BitVec.getLsbD_extractLsb']
    by_cases h : j / 64 = m
    · rw [show 64 * m + (j - 64 * m) = j by omega]
      simp [h, hj, show ¬ j < 64 * m by omega, show j - 64 * m < 64 by omega, show j - 64 * m < 512 by omega]
    · simp [h]
      omega
  rw [Bool.eq_iff_iff, List.any_eq_true]
  constructor
  · rintro ⟨m, hm, h⟩
    rw [hbit m (List.mem_range.mp hm)] at h
    exact (Bool.and_eq_true_iff.mp h).2
  · intro h
    exact ⟨j / 64, List.mem_range.mpr (by omega), by rw [hbit _ (by omega), h]; simp⟩

/-- The dwords of a loop level, present or not, read back (R138). -/
theorem loopOf_loopDwords {o : Option Loop} {a b : Word} (h : ∀ l ∈ o, (l.stop - l.start).toNat % 2 = 0 ∧ (l.stop - l.start).toNat < 2 ^ 16 ∧ l.count.toNat < 2 ^ 32)
    (hab : loopDwords o = [a, b]) : loopOf a b = o := by
  cases o with
  | none =>
    obtain ⟨rfl, rfl⟩ : 0 = a ∧ 0 = b := by simpa [loopDwords] using hab
    rfl
  | some l =>
    obtain ⟨heven, hlen, hcount⟩ := h l rfl
    obtain ⟨rfl, rfl⟩ := List.cons_eq_cons.mp hab |>.imp id fun h => (List.cons_eq_cons.mp h).1
    exact loopOf_dwords heven hlen hcount

theorem loopDwords_append_left (o o' : Option Loop) : loopDwords o = [((loopDwords o ++ loopDwords o')[0]?).getD 0, ((loopDwords o ++ loopDwords o')[1]?).getD 0] := by
  cases o <;> rfl

theorem loopDwords_append_right (o o' : Option Loop) : loopDwords o' = [((loopDwords o ++ loopDwords o')[2]?).getD 0, ((loopDwords o ++ loopDwords o')[3]?).getD 0] := by
  cases o <;> cases o' <;> rfl

theorem toList_two {α : Type} {l : List α} (h : l.length ≤ 2) : (l[0]?).toList ++ (l[1]?).toList = l := by
  match l with
  | [] | [_] | [_, _] => rfl
  | _ :: _ :: _ :: _ => exact absurd h (by simp)

theorem mem_masks : ∀ i, i < 8 → i ≠ 0 → i ∈ (List.range 8).drop 1 := by decide

/-! ### The slot's thread as the context holds it -/

section

variable {g : Nat → Word} {t : Slot} {pc hdr addr : Word} (hg : ∀ j, j < 320 → g j = contextDword t pc hdr addr j) (x : Slot)

include hg

/-- A context that was written of thread t read back into a slot. -/
theorem Slot.reload_context :
    x.reload g = { x with
      pc := pc, flags := t.flags, fcr := t.fcr, fsf := t.fsf, wto := t.wto, ssp := t.ssp, wdepth := t.wdepth, resident := t.resident, loops := (x.reload g).loops,
      kregs := (x.reload g).kregs, streams := (x.reload g).streams, vregs := (x.reload g).vregs, pendW := t.pendW, pendV := t.pendV, pendF := t.pendF,
      phys := reloadPhys g t.wdepth.toNat t.resident.toNat x.phys, links := reloadLinks g t.wdepth.toNat t.resident.toNat x.links } := by
  rw [Slot.reload_eq]
  dsimp only
  rw [hg 0 (by decide), hg 3 (by decide), hg 4 (by decide), hg 5 (by decide), hg 6 (by decide), hg 312 (by decide), hg 313 (by decide), hg 314 (by decide), contextDword_flags,
    contextDword_fcr, contextDword_fsf, contextDword_wto, contextDword_wdepth, contextDword_resident, contextDword_pendW, contextDword_pendV, contextDword_pendF]
  rfl

theorem Slot.reload_loops (h2 : t.loops.length ≤ 2)
    (hfit : ∀ l ∈ t.loops, (l.stop - l.start).toNat % 2 = 0 ∧ (l.stop - l.start).toNat < 2 ^ 16 ∧ l.count.toNat < 2 ^ 32) : (x.reload g).loops = t.loops := by
  have hdword : ∀ i, i < 4 → g (8 + i) = ((loopDwords t.loops[0]? ++ loopDwords t.loops[1]?)[i]?).getD 0 := fun i hi => by
    rw [hg _ (by omega)]
    unfold contextDword
    iterate 8 rw [if_neg (by omega)]
    rw [if_pos (by omega), Nat.add_sub_cancel_left]
  have hlevel : ∀ j : Nat, ∀ l ∈ t.loops[j]?, (l.stop - l.start).toNat % 2 = 0 ∧ (l.stop - l.start).toNat < 2 ^ 16 ∧ l.count.toNat < 2 ^ 32 :=
    fun j l hl => hfit l (List.mem_of_getElem? hl)
  rw [Slot.reload_eq]
  change (loopOf (g (8 + 0)) (g (8 + 1))).toList ++ (loopOf (g (8 + 2)) (g (8 + 3))).toList = t.loops
  rw [hdword 0 (by decide), hdword 1 (by decide), hdword 2 (by decide), hdword 3 (by decide), loopOf_loopDwords (hlevel 0) (loopDwords_append_left _ _),
    loopOf_loopDwords (hlevel 1) (loopDwords_append_right _ _)]
  exact toList_two h2

theorem Slot.reload_k {i : Nat} (hi : i < 8) : (x.reload g).k i = t.k i := by
  unfold Slot.k
  split
  · rfl
  · next h0 =>
    have hget : (x.reload g).kregs.get 0 i = bits (g (12 + i / 4)) (16 * (i % 4)) 16 := by
      rw [Slot.reload_eq]
      dsimp only
      unfold NMap.get
      rw [NMap.find_map_range (fun i => (bits (g (12 + i / 4)) (16 * (i % 4)) 16 : BitVec 16)) _ (mem_masks i hi h0)]
      rfl
    rw [hget, hg _ (by omega), contextDword_mask t pc hdr addr hi]
    exact if_neg h0

theorem Slot.reload_v {i : Nat} (hi : i < 16) : (x.reload g).v i = t.v i := by
  unfold Slot.v
  rw [Slot.reload_eq]
  dsimp only
  rw [get_map_range _ _ hi]
  refine Eq.trans (List.foldl_ext _ _ _ fun y m hm => ?_) (vec_of_dwords (t.v i))
  have hm' := List.mem_range.mp hm
  rw [hg _ (by omega), contextDword_vec t pc hdr addr hi hm']

theorem Slot.reload_stream {i : Nat} (hi : i < 4) : (x.reload g).stream i = { scope := (t.stream i).scope, next := (t.stream i).next } := by
  unfold Slot.stream
  rw [Slot.reload_eq]
  dsimp only
  rw [get_map_range _ _ hi, hg _ (by omega), contextDword_scope t pc hdr addr hi, contextDword_next t pc hdr addr hi]
  rfl

variable (h7 : t.resident.toNat ≤ 7) (hwd : t.resident.toNat ≤ t.wdepth.toNat + 1)

include h7 hwd

theorem Slot.reload_phys {f i : Nat} (hf : f < t.resident.toNat) (hi : i < 16) :
    (x.reload g).phys.get 0 ((16 * (t.wdepth.toNat - f) + i) % 120) = t.phys.get 0 ((16 * (t.wdepth.toNat - f) + i) % 120) := by
  rw [Slot.reload_context hg x]
  dsimp only
  rw [reloadPhys_frame h7 hwd hf hi, hg _ (by omega), contextDword_frame t pc hdr addr hf (by omega) hi]

theorem Slot.reload_links {f : Nat} (hf : f < t.resident.toNat) : (x.reload g).links.get 0 (t.wdepth.toNat - f) = t.links.get 0 (t.wdepth.toNat - f) := by
  rw [Slot.reload_context hg x]
  dsimp only
  rw [reloadLinks_frame hwd hf, hg _ (by omega), contextDword_link t pc hdr addr hf (by omega)]

theorem Slot.reload_w (h1 : 1 ≤ t.resident.toNat) {i : Nat} (hi : i < 24) : (x.reload g).w i = t.w i := by
  have hdepth : (x.reload g).wdepth = t.wdepth := by rw [Slot.reload_context hg x]
  unfold Slot.w Slot.phyOf
  rw [hdepth]
  by_cases h : i < 16
  · exact Slot.reload_phys hg x h7 hwd (f := 0) h1 h
  · obtain ⟨j, rfl⟩ : ∃ j, i = 16 + j := ⟨i - 16, by omega⟩
    rw [Slot.reload_context hg x]
    dsimp only
    rw [reloadPhys_out h7 hwd (by omega), hg _ (by omega), contextDword_out t pc hdr addr (by omega)]
    rfl

end

/-! ### What ORing flags leaves of a trap frame (R212) -/

/-- Every slot keeps its trap frame. -/
def State.SameFrames (s t : State) : Prop := ∀ j, (t.slot j).frame = (s.slot j).frame

namespace State.SameFrames

variable {s t : State}

theorem modSlot {k : Nat} {f : Slot → Slot} (h : s.SameFrames t) (hf : ∀ x, (f x).frame = x.frame) : s.SameFrames (t.modSlot k f) := by
  intro j
  rw [← h j]
  by_cases hj : j = k
  · subst hj
    rw [State.slot_modSlot_self, hf]
  · rw [State.slot_modSlot_ne _ _ hj]

theorem post {p : Nat} {m : Message} (h : s.SameFrames t) : s.SameFrames (t.post p m) := by
  unfold State.post
  dsimp only
  split
  · unfold State.writeRing
    refine modSlot (fun j => ?_) fun _ => rfl
    rw [State.slot_modDie, (State.SameJobs.refl _).storeDwords.slot j, State.slot_modDie, h j]
  · exact h

theorem postTrap {k : Nat} {tr : Trap} {pc : Word} (h : s.SameFrames t) : s.SameFrames (t.postTrap k tr pc) := by
  unfold State.postTrap
  dsimp only
  split
  · exact h.post
  · exact h

theorem alarm {k : Nat} (h : s.SameFrames t) : s.SameFrames (t.alarm k) := by
  unfold State.alarm
  split <;> exact h

theorem postNoPc {k : Nat} {tr : Trap} (h : s.SameFrames t) : s.SameFrames (t.postNoPc k tr) := alarm (t := (t.postTrap k tr t.openValue).useOpen) h.postTrap

end State.SameFrames

theorem State.sameFrames_orFlags (s : State) (k : Nat) (f : BitVec 6) : s.SameFrames (s.orFlags k f) := by
  have h : s.SameFrames (s.modSlot k fun t => { t with fsf := t.fsf ||| f }) := State.SameFrames.modSlot (fun _ => rfl) fun _ => rfl
  unfold State.orFlags
  dsimp only
  split
  · split
    · exact h.postNoPc
    · split
      · exact h.postTrap
      · exact h
  · exact h

/-- Flags that are set already, or of a job without a flag word, change nothing else (R212). -/
theorem State.orFlags_known {s : State} {k : Nat} {f : BitVec 6}
    (h : f &&& ~~~(s.slot k).fsf = 0 ∨ ((s.die (peerOfSlot k)).jflaga.get 0 (s.slot k).job.toNat).getLsbD 63 = false) :
    s.orFlags k f = s.modSlot k fun t => { t with fsf := t.fsf ||| f } := by
  unfold State.orFlags
  dsimp only
  rw [if_neg]
  rintro ⟨hnew, hvalid, -⟩
  rcases h with h | h
  · exact hnew h
  · exact Bool.false_ne_true (h.symm.trans hvalid)

/-- Settles O13: what a context gives each register back, and what the flags that the frame sets leave. -/
theorem trapReturn : Obligations.TrapReturn := by
  intro s k t pc hdr addr hframe h1 h7 hwd u r
  have hg : ∀ j, j < 320 → (s.slot k).frame.get 0 j = contextDword t pc hdr addr j := fun j hj => by rw [hframe, contextOf_get t pc hdr addr hj]
  have hfsf : bits ((s.slot k).frame.get 0 3) 16 6 = t.fsf := by rw [hg 3 (by decide), contextDword_fsf]
  have hu : u = (s.orFlags k t.fsf).modSlot k fun x => { x.reload (x.frame.get 0) with st := .run, hold := .none, waited := 0 } := by rw [← hfsf]; rfl
  have hr : r = { ((s.orFlags k t.fsf).slot k).reload ((s.slot k).frame.get 0) with st := .run, hold := .none, waited := 0 } := by
    rw [← State.sameFrames_orFlags s k t.fsf k]
    exact (congrArg (·.slot k) hu).trans (State.slot_modSlot_self _ _ _)
  have hcontext := Slot.reload_context hg ((s.orFlags k t.fsf).slot k)
  rw [hr]
  refine ⟨rfl, rfl, ?_, ?_, ?_, ?_, ?_, ?_, ?_, ?_, ?_, ?_, ?_, Slot.reload_loops hg _, fun i hi => Slot.reload_w hg _ h7 hwd h1 hi, fun i hi => Slot.reload_k hg _ hi,
    fun i hi => Slot.reload_v hg _ hi, fun i hi => ?_, fun f hf => ⟨Slot.reload_links hg _ h7 hwd hf, fun i hi => Slot.reload_phys hg _ h7 hwd hf hi⟩, fun hquiet => ?_⟩
  · exact (congrArg Slot.pc hcontext :)
  · exact (congrArg Slot.flags hcontext :)
  · exact (congrArg Slot.fcr hcontext :)
  · exact (congrArg Slot.fsf hcontext :)
  · exact (congrArg Slot.wto hcontext :)
  · exact (congrArg Slot.ssp hcontext :)
  · exact (congrArg Slot.wdepth hcontext :)
  · exact (congrArg Slot.resident hcontext :)
  · exact (congrArg Slot.pendW hcontext :)
  · exact (congrArg Slot.pendV hcontext :)
  · exact (congrArg Slot.pendF hcontext :)
  · exact ⟨(congrArg Stream.scope (Slot.reload_stream hg ((s.orFlags k t.fsf).slot k) hi) :), (congrArg Stream.next (Slot.reload_stream hg ((s.orFlags k t.fsf).slot k) hi) :)⟩
  · rw [State.orFlags_known hquiet] at hu hr ⊢
    refine ⟨by rw [hu]; rfl, fun c hc => ?_, ?_⟩
    · rw [hu, State.slot_modSlot_ne _ _ hc, State.slot_modSlot_ne _ _ hc]
    · rw [State.slot_modSlot_self, Slot.reload_context hg]

end Sys2Proof.Machine

end

section

/-! # A line given up to its home: no copy of it is left, so that what is stored there next stays as stored (R162, R165, R167) -/

namespace Sys2Proof.Machine

/-- What every step of a fold makes of its element, and no later step undoes. -/
theorem foldl_each {α β : Type} {P : β → α → Prop} {f : α → β → α} (hset : ∀ s x, P x (f s x)) (hkeep : ∀ s x y, P y s → P y (f s x)) (l : List β) (s : α) :
    ∀ x ∈ l, P x (l.foldl f s) := by
  induction l generalizing s with
  | nil => nofun
  | cons y l ih =>
    intro x hx
    rcases List.mem_cons.mp hx with rfl | hx
    · exact foldl_keeps (P := P x) (fun t z => hkeep t z x) l _ (hset s x)
    · exact ih _ x hx

theorem foldl_mem_keeps {α β : Type} {P : α → Prop} {f : α → β → α} {l : List β} (h : ∀ x ∈ l, ∀ s, P s → P (f s x)) {s : α} (hs : P s) : P (l.foldl f s) := by
  induction l generalizing s with
  | nil => exact hs
  | cons x l ih => exact ih (fun y hy => h y (List.mem_cons_of_mem _ hy)) (h x List.mem_cons_self s hs)

theorem foldl_same {α β : Type} {f : α → β → α} {s : α} {l : List β} (h : ∀ x ∈ l, f s x = s) : l.foldl f s = s := by
  induction l with
  | nil => rfl
  | cons x l ih => rw [List.foldl_cons, h x List.mem_cons_self, ih fun y hy => h y (List.mem_cons_of_mem _ hy)]

/-! ### One quad's copies recalled (R160) -/

theorem State.region_modRegion (s : State) (c i c' i' : Nat) (f : Region → Region) :
    (s.modRegion c i f).region c' i' = if c' = c ∧ i' = i then f (s.region c i) else s.region c' i' := by
  unfold State.region
  change ((s.modCore c fun y => { y with crew := { y.crew with regions := y.crew.regions.set i (f (y.crew.regions.get {} i)) } }).core c').crew.regions.get {} i' = _
  rw [State.core_modCore]
  by_cases hc : c' = c
  · subst hc
    simp only [if_true, true_and]
    exact NMap.get_set _ _ _ _ _
  · rw [if_neg hc, if_neg fun h => hc h.1]

/-- Copies of line l recalled from quad q: another quad's lines stay, no quad begins to hold the line but q, no region does, and memory changes in that line alone. -/
structure State.Pulled (q l : Nat) (s t : State) : Prop where
  holder : ∀ e ∈ t.quads, e.2.lines.has l = true → e.1 = q ∨ ∃ e' ∈ s.quads, e'.1 = e.1 ∧ e'.2.lines.has l = true
  others : ∀ q', q' ≠ q → t.quad q' = s.quad q'
  gone : s.line q l = none → t.line q l = none
  regions : ∀ c i, t.regionHolds c i l = true → s.regionHolds c i l = true
  mem : ∀ a, a / 256 ≠ l → t.mem.read a = s.mem.read a

namespace State.Pulled

variable {q l : Nat} {s t : State}

theorem refl (s : State) : State.Pulled q l s s := ⟨fun e he h => .inr ⟨e, he, rfl, h⟩, fun _ _ => rfl, id, fun _ _ => id, fun _ _ => rfl⟩

theorem foldl {α : Type} {f : State → α → State} {r : List α} (h : s.Pulled q l t) (hf : ∀ t x, s.Pulled q l t → s.Pulled q l (f t x)) : s.Pulled q l (r.foldl f t) :=
  foldl_keeps hf r t h

theorem ite {c : Prop} {_ : Decidable c} {u : State} (ht : s.Pulled q l t) (hu : s.Pulled q l u) : s.Pulled q l (if c then t else u) := by
  split
  · exact ht
  · exact hu

theorem setLine {x y : Line} (h : s.Pulled q l t) (hx : t.line q l = some y) : s.Pulled q l (t.setLine q l x) where
  holder e he hl := by
    rcases NMap.mem_set he with rfl | he
    · exact .inl rfl
    · exact h.holder e he hl
  others q' hq := (State.quad_modQuad_ne _ _ hq).trans (h.others q' hq)
  gone hn := nomatch (h.gone hn).symm.trans hx
  regions := h.regions
  mem := h.mem

theorem dropLine (h : s.Pulled q l t) : s.Pulled q l (t.dropLine q l) where
  holder e he hl := by
    rcases NMap.mem_set he with rfl | he
    · exact .inl rfl
    · exact h.holder e he hl
  others q' hq := (State.quad_modQuad_ne _ _ hq).trans (h.others q' hq)
  gone _ := by
    unfold State.line State.dropLine
    rw [State.quad_modQuad_self, NMap.find_erase, if_pos rfl]
  regions := h.regions
  mem := h.mem

theorem modRegion {c i : Nat} {f : Region → Region} (h : s.Pulled q l t)
    (hf : ∀ r : Region, (f r).bound = r.bound ∧ (f r).pa = r.pa ∧ ∀ j, (f r).valid.getLsbD j = true → r.valid.getLsbD j = true) : s.Pulled q l (t.modRegion c i f) where
  holder := h.holder
  others := h.others
  gone := h.gone
  regions c' i' hh := by
    refine h.regions c' i' ?_
    unfold State.regionHolds at hh ⊢
    rw [State.region_modRegion] at hh
    by_cases hc : c' = c ∧ i' = i
    · rw [if_pos hc] at hh
      obtain ⟨rfl, rfl⟩ := hc
      obtain ⟨hb, hp, hv⟩ := hf (t.region c' i')
      dsimp only at hh ⊢
      rw [hb, hp, Bool.and_eq_true] at hh
      rw [Bool.and_eq_true]
      exact ⟨hh.1, hv _ hh.2⟩
    · rwa [if_neg hc] at hh
  mem := h.mem

/-- An update of anything but quads, cores and memory. -/
theorem frame {pkgs dies slots empty poison stash stashEmpty stashPoison net} (h : s.Pulled q l t) :
    s.Pulled q l { t with pkgs := pkgs, dies := dies, slots := slots, empty := empty, poison := poison, stash := stash, stashEmpty := stashEmpty, stashPoison := stashPoison, net := net } :=
  ⟨h.holder, h.others, h.gone, h.regions, h.mem⟩

theorem withMem {m : Cells} (h : s.Pulled q l t) (hm : ∀ a, a / 256 ≠ l → m.read a = t.mem.read a) : s.Pulled q l { t with mem := m } where
  holder := h.holder
  others := h.others
  gone := h.gone
  regions := h.regions
  mem a ha := (hm a ha).trans (h.mem a ha)

theorem sector {d : BitVec 2048} {j : Nat} (hj : j < 2) (h : s.Pulled q l t) : s.Pulled q l (t.memWrite (l * 256 + 128 * j) 128 d) := by
  refine h.withMem fun a ha => Cells.read_writeN_out t.mem (l * 256 + 128 * j) 128 d a ?_
  omega

theorem writeSectors {m d f p} (h : s.Pulled q l t) : s.Pulled q l (t.writeSectors l m d f p) := by
  refine foldl_mem_keeps (P := s.Pulled q l) (fun j hj u hu => .ite (foldl (sector (List.mem_range.mp hj) hu) fun _ _ h₁ => h₁.frame) hu) h

theorem pullRegionLine {c i : Nat} (hc : quadOf c = q) (h : s.Pulled q l t) : s.Pulled q l (t.pullRegionLine c i l false) := by
  unfold State.pullRegionLine
  refine modRegion (h.foldl fun u k h₁ => .ite ?_ h₁) fun r => ⟨rfl, rfl, fun j hj => ?_⟩
  · dsimp only
    rw [hc]
    split
    · next hx => exact .ite (h₁.setLine hx) (h₁.setLine hx).writeSectors
    · exact h₁.writeSectors
  · rw [if_neg Bool.false_ne_true, BitVec.getLsbD_and] at hj
    exact (Bool.and_eq_true_iff.mp hj).1

theorem pullQuadLine (h : s.Pulled q l t) : s.Pulled q l (t.pullQuadLine q l false) := by
  refine foldl_mem_keeps (P := s.Pulled q l) (fun c hc u hu => hu.foldl fun _ _ h₁ => .ite (h₁.pullRegionLine ?_) h₁) h
  have := List.mem_range.mp hc
  unfold quadOf
  omega

end State.Pulled

/-- Neither quad q's cache nor a region of its cores holds line l. -/
def State.clearOf (s : State) (q l : Nat) : Prop := s.line q l = none ∧ ∀ c, c < 4 → ∀ i, i < 8 → s.regionHolds (q * 4 + c) i l = false

theorem State.Pulled.regionHolds_false {q l c i : Nat} {s t : State} (h : s.Pulled q l t) (hs : s.regionHolds c i l = false) : t.regionHolds c i l = false :=
  Bool.eq_false_iff.mpr fun ht => Bool.eq_false_iff.mp hs (h.regions c i ht)

theorem State.cores_frame {s t : State} {quads mem empty poison} (h : t.cores = s.cores) :
    ({ t with quads := quads, mem := mem, empty := empty, poison := poison } : State).cores = s.cores := h

theorem State.cores_writeSectors (s : State) (l : Nat) (m : BitVec 2) (d : BitVec 2048) (f p : BitVec 32) : (s.writeSectors l m d f p).cores = s.cores := by
  refine foldl_keeps (P := fun u : State => u.cores = s.cores) (fun u j hu => ?_) _ _ rfl
  split
  · exact foldl_keeps (P := fun u : State => u.cores = s.cores) (fun _ _ h => State.cores_frame h) _ _ (State.cores_frame hu)
  · exact hu

/-- A region gives a line up as it is recalled. -/
theorem State.regionHolds_pullRegionLine (s : State) (c i l : Nat) : (s.pullRegionLine c i l false).regionHolds c i l = false := by
  unfold State.pullRegionLine State.regionHolds
  rw [State.region_modRegion, if_pos ⟨rfl, rfl⟩]
  generalize hu : (List.range 2).foldl _ s = u
  have hregion : u.region c i = s.region c i := by
    have hcores : u.cores = s.cores := by
      rw [← hu]
      refine foldl_keeps (P := fun u : State => u.cores = s.cores) (fun u j h => ?_) _ _ rfl
      split
      · dsimp only
        split
        · split
          · exact h
          · exact (State.cores_writeSectors _ _ _ _ _ _).trans h
        · exact (State.cores_writeSectors _ _ _ _ _ _).trans h
      · exact h
    unfold State.region State.core
    rw [hcores]
  rw [hregion]
  simp

theorem State.regionHolds_pullQuadLine (s : State) (q l : Nat) : ∀ c, c < 4 → ∀ i, i < 8 → (s.pullQuadLine q l false).regionHolds (q * 4 + c) i l = false := by
  have hpulled : ∀ (u : State) c i c' i', u.regionHolds c' i' l = false → (if u.regionHolds c i l then u.pullRegionLine c i l false else u).regionHolds c' i' l = false := by
    intro u c i c' i' h
    split
    · exact ((State.Pulled.refl u).pullRegionLine rfl).regionHolds_false h
    · exact h
  have hregion : ∀ (u : State) c, ∀ i ∈ List.range 8, ((List.range 8).foldl (fun s i =>
      if s.regionHolds (q * 4 + c) i l then s.pullRegionLine (q * 4 + c) i l false else s) u).regionHolds (q * 4 + c) i l = false := by
    intro u c
    refine foldl_each (P := fun i (u : State) => u.regionHolds (q * 4 + c) i l = false) (fun u i => ?_) (fun u i i' h => hpulled u _ _ _ _ h) _ _
    split
    · exact State.regionHolds_pullRegionLine _ _ _ _
    · next h => exact Bool.eq_false_iff.mpr h
  intro c hc
  refine foldl_each (P := fun c (u : State) => ∀ i, i < 8 → u.regionHolds (q * 4 + c) i l = false) (fun u c i hi => hregion u c i (List.mem_range.mpr hi)) (fun u c c' h i hi => ?_) _ _ c
    (List.mem_range.mpr hc)
  exact foldl_keeps (P := fun u : State => u.regionHolds (q * 4 + c') i l = false) (fun u i' h => hpulled u _ _ _ _ h) _ _ (h i hi)

/-- Line l taken from quad q: its regions' copies into its cache, its cache's copy to the home. -/
def State.takeLine (s : State) (l q : Nat) : State :=
  let s := s.pullQuadLine q l false
  match s.line q l with
  | some x => (if x.state = .owned then s.writeSectors l x.dirty x.data x.full x.poison else s).dropLine q l
  | none => s

theorem State.homeObtain_eq (s : State) (l : Nat) : s.homeObtain l =
    (((s.settleLine l).holders (paPeer (l * 256)) l).foldl (fun s q => s.takeLine l q) (s.settleLine l)).modDie (paPeer (l * 256)) fun d => { d with dir := d.dir.erase l } := by
  unfold State.homeObtain
  dsimp only
  refine congrArg (fun f : State → Nat → State => (((s.settleLine l).holders (paPeer (l * 256)) l).foldl f (s.settleLine l)).modDie _ _) (funext fun u => funext fun q => ?_)
  unfold State.takeLine
  dsimp only <;> cases (u.pullQuadLine q l false).line q l <;> rfl

theorem State.pulled_takeLine (s : State) (l q : Nat) : s.Pulled q l (s.takeLine l q) := by
  have h : s.Pulled q l (s.pullQuadLine q l false) := (State.Pulled.refl s).pullQuadLine
  unfold State.takeLine
  dsimp only
  split
  · exact State.Pulled.dropLine (.ite h.writeSectors h)
  · exact h

theorem State.clearOf_takeLine (s : State) (l q : Nat) : (s.takeLine l q).clearOf q l := by
  have h := State.regionHolds_pullQuadLine s q l
  unfold State.takeLine
  dsimp only
  split
  · next x _ =>
    refine ⟨?_, fun c hc i hi => ?_⟩
    · unfold State.line State.dropLine
      rw [State.quad_modQuad_self, NMap.find_erase, if_pos rfl]
    · have hq := State.Pulled.refl (q := q) (l := l) (s.pullQuadLine q l false)
      exact (State.Pulled.dropLine (.ite hq.writeSectors hq)).regionHolds_false (h c hc i hi)
  · next hn => exact ⟨hn, h⟩

theorem State.clearOf_takeLine_other {s : State} {l q : Nat} (q' : Nat) (h : s.clearOf q l) : (s.takeLine l q').clearOf q l := by
  have hp := State.pulled_takeLine s l q'
  refine ⟨?_, fun c hc i hi => hp.regionHolds_false (h.2 c hc i hi)⟩
  by_cases hq : q = q'
  · subst hq
    exact hp.gone h.1
  · unfold State.line
    rw [hp.others q hq]
    exact h.1

theorem State.takeLine_of_clear {s : State} {l q : Nat} (h : s.clearOf q l) : s.takeLine l q = s := by
  have hpull : s.pullQuadLine q l false = s := foldl_same fun c hc => foldl_same fun i hi =>
    if_neg (Bool.eq_false_iff.mp (h.2 c (List.mem_range.mp hc) i (List.mem_range.mp hi)))
  unfold State.takeLine
  dsimp only
  rw [hpull, h.1]

/-! ### All copies given up (R162, R167) -/

/-- No quad of the home's die that lists line l holds a copy of it. -/
def State.lineTaken (s : State) (l : Nat) : Prop := ∀ q ∈ s.holders (paPeer (l * 256)) l, s.clearOf q l

theorem State.lineTaken_frame {s : State} {l : Nat} {mem poison} (h : s.lineTaken l) : ({ s with mem := mem, poison := poison } : State).lineTaken l := h

theorem State.mem_setPoison {s : State} {a : Nat} {b : Bool} {m : Cells} (h : s.mem = m) : (s.setPoison a b).mem = m := h

theorem State.mem_holders {s : State} {p l q : Nat} : q ∈ s.holders p l ↔ ∃ e ∈ s.quads, e.1 = q ∧ q / 256 = p ∧ e.2.lines.has l = true := by
  unfold State.holders
  simp only [List.mem_map, List.mem_filter, Bool.and_eq_true, beq_iff_eq]
  constructor
  · rintro ⟨e, ⟨he, hp, hl⟩, rfl⟩
    exact ⟨e, he, rfl, hp, hl⟩
  · rintro ⟨e, he, rfl, hp, hl⟩
    exact ⟨e, ⟨he, hp, hl⟩, rfl⟩

theorem State.taken_homeObtain (s : State) (l : Nat) : (s.homeObtain l).lineTaken l := by
  rw [State.homeObtain_eq]
  generalize s.settleLine l = u
  generalize hL : u.holders (paPeer (l * 256)) l = L
  have hclear : ∀ q ∈ L, (L.foldl (fun s q => s.takeLine l q) u).clearOf q l :=
    foldl_each (P := fun q (u : State) => u.clearOf q l) (fun s q => State.clearOf_takeLine s l q) (fun s q _ h => State.clearOf_takeLine_other q h) L u
  have hholder : ∀ e ∈ (L.foldl (fun s q => s.takeLine l q) u).quads, e.2.lines.has l = true → e.1 ∈ L ∨ ∃ e' ∈ u.quads, e'.1 = e.1 ∧ e'.2.lines.has l = true := by
    refine foldl_mem_keeps (P := fun v : State => ∀ e ∈ v.quads, e.2.lines.has l = true → e.1 ∈ L ∨ ∃ e' ∈ u.quads, e'.1 = e.1 ∧ e'.2.lines.has l = true)
      (fun q hq v hv e he hl => ?_) fun e he hl => .inr ⟨e, he, rfl, hl⟩
    rcases (State.pulled_takeLine v l q).holder e he hl with rfl | ⟨e', he', heq, hl'⟩
    · exact .inl hq
    · rw [← heq]
      exact hv e' he' hl'
  intro q hq
  obtain ⟨e, he, rfl, hp, hl⟩ := State.mem_holders.mp hq
  refine hclear e.1 ?_
  rcases hholder e he hl with h | ⟨e', he', heq, hl'⟩
  · exact h
  · rw [← hL]
    exact State.mem_holders.mpr ⟨e', he', heq, hp, hl'⟩

/-- A quad of a die without its notice of a line. -/
def Quad.unnoticed (p l q : Nat) (x : Quad) : Quad := if peerOf q = p then { x with notices := x.notices.remove l } else x

@[simp] theorem Quad.lines_unnoticed (p l q : Nat) (x : Quad) : (x.unnoticed p l q).lines = x.lines := by
  unfold Quad.unnoticed
  split <;> rfl

theorem Quad.unnoticed_default (p l q : Nat) : ({} : Quad).unnoticed p l q = {} := by
  unfold Quad.unnoticed
  split <;> rfl

/-- Without their notices of a line the quads hold the lines that they held. -/
theorem State.lineTaken_unnoticed {s t : State} {l p : Nat} (h : s.lineTaken l) (hq : t.quads = s.quads.mapV fun q x => x.unnoticed p l q) (hc : t.cores = s.cores) :
    t.lineTaken l := by
  intro q hq'
  obtain ⟨e, he, rfl, hp, hl⟩ := State.mem_holders.mp hq'
  rw [hq] at he
  obtain ⟨e', he', rfl⟩ := List.mem_map.mp he
  rw [Quad.lines_unnoticed] at hl
  obtain ⟨hline, hregions⟩ := h _ (State.mem_holders.mpr ⟨e', he', rfl, hp, hl⟩)
  refine ⟨?_, fun c hc' i hi => ?_⟩
  · unfold State.line State.quad
    rw [hq, NMap.get_mapV _ _ _ _ fun _ => Quad.unnoticed_default _ _ _, Quad.lines_unnoticed]
    exact hline
  · unfold State.regionHolds State.region State.core
    rw [hc]
    exact hregions c hc' i hi

theorem State.taken_settleLine {s : State} {l : Nat} (h : s.lineTaken l) : (s.settleLine l).lineTaken l := by
  unfold State.settleLine
  split
  · exact h
  · exact State.lineTaken_unnoticed (p := paPeer (l * 256)) h rfl rfl

theorem State.mem_settleLine (s : State) (l : Nat) : (s.settleLine l).mem = s.mem := by
  unfold State.settleLine
  split <;> rfl

/-- A line that no quad holds is given up again: nothing is written. -/
theorem State.mem_homeObtain_of_taken {s : State} {l : Nat} (h : s.lineTaken l) : (s.homeObtain l).mem = s.mem := by
  have hsame : ((s.settleLine l).holders (paPeer (l * 256)) l).foldl (fun s q => s.takeLine l q) (s.settleLine l) = s.settleLine l :=
    foldl_same fun q hq => State.takeLine_of_clear (State.taken_settleLine h q hq)
  rw [State.homeObtain_eq, hsame]
  exact State.mem_settleLine s l

/-- No other line is written as one is given up. -/
theorem State.read_homeObtain_other (s : State) {l a : Nat} (ha : a / 256 ≠ l) : (s.homeObtain l).mem.read a = s.mem.read a := by
  rw [State.homeObtain_eq]
  rw [← State.mem_settleLine s l]
  exact foldl_keeps (P := fun u : State => u.mem.read a = (s.settleLine l).mem.read a) (fun u q h => ((State.pulled_takeLine u l q).mem a ha).trans h) _ _ rfl

/-! ### Dwords stored in one line (R162, R446) -/

section

variable {s : State} {a : Nat} (ha : a % 8 = 0)

include ha

theorem State.agentObtain_dword : s.agentObtain a 8 = s.homeObtain (a / 256) := by
  unfold State.agentObtain linesOf
  rw [show (a % 256 + 8 + 255) / 256 = 1 by omega]
  simp only [List.range_one, List.map_cons, List.map_nil, List.foldl_cons, List.foldl_nil, Nat.add_zero]

theorem State.mem_agentWrite_dword (w : Word) : (s.agentWrite a 8 w).mem = (s.homeObtain (a / 256)).mem.writeN a 8 w := by
  unfold State.agentWrite State.unpoison
  rw [State.agentObtain_dword ha]
  exact foldl_keeps (P := fun u : State => u.mem = (s.homeObtain (a / 256)).mem.writeN a 8 w) (fun _ _ h => State.mem_setPoison h) _ _ rfl

theorem State.taken_agentWrite_dword (w : Word) : (s.agentWrite a 8 w).lineTaken (a / 256) := by
  unfold State.agentWrite State.unpoison
  rw [State.agentObtain_dword ha]
  exact foldl_keeps (P := fun u : State => u.lineTaken (a / 256)) (fun _ _ h => State.lineTaken_frame h) _ _ (State.lineTaken_frame (State.taken_homeObtain s _))

end

theorem State.mem_wf {s : State} (h : s.memoryOk = true) : s.mem.wf = true := by
  simp only [State.memoryOk, Bool.and_eq_true] at h
  exact h.1.1.1.1.1

/-- A first dword stored over memory `m`, and the others after it. -/
theorem State.storeDwords_cons {w : Word} {ws : List Word} {s : State} {a : Nat} {m : Cells} (hmem : (s.agentWrite a 8 w).mem = m.writeN a 8 w) (hwf : m.wf = true)
    (hrest : (∀ i (hi : i < ws.length), ((s.agentWrite a 8 w).storeDwords (a + 8) ws).mem.readN (a + 8 + 8 * i) 8 = ws[i]) ∧
      ∀ k, k < a + 8 ∨ a + 8 + 8 * ws.length ≤ k → ((s.agentWrite a 8 w).storeDwords (a + 8) ws).mem.read k = (s.agentWrite a 8 w).mem.read k) :
    (∀ i (hi : i < (w :: ws).length), (s.storeDwords a (w :: ws)).mem.readN (a + 8 * i) 8 = (w :: ws)[i]) ∧
      ∀ k, k < a ∨ a + 8 * (w :: ws).length ≤ k → (s.storeDwords a (w :: ws)).mem.read k = m.read k := by
  obtain ⟨hin, hout⟩ := hrest
  refine ⟨fun i hi => ?_, fun k hk => ?_⟩
  · cases i with
    | zero =>
      change ((s.agentWrite a 8 w).storeDwords (a + 8) ws).mem.readN a 8 = w
      rw [Cells.readN_congr _ _ a 8 fun j hj => hout (a + j) (by omega), hmem, Cells.readN_writeN _ _ _ hwf, BitVec.setWidth_eq]
    | succ i =>
      rw [show a + 8 * (i + 1) = a + 8 + 8 * i by omega]
      exact hin i (Nat.lt_of_succ_lt_succ hi)
  · rw [List.length_cons] at hk
    refine (hout k (by omega)).trans ?_
    rw [hmem, Cells.read_writeN_out _ _ _ _ _ (by omega)]

theorem next_dwords {w : Word} {ws : List Word} {a l : Nat} (hl : ∀ i, i < (w :: ws).length → (a + 8 * i) / 256 = l) : ∀ i, i < ws.length → (a + 8 + 8 * i) / 256 = l := by
  intro i hi
  rw [← hl (i + 1) (Nat.succ_lt_succ hi)]
  congr 1
  omega

/-- Dwords stored one after the other in a line that no quad holds. -/
theorem State.storeDwords_taken {ws : List Word} {s : State} {a l : Nat} (ha : a % 8 = 0) (hl : ∀ i, i < ws.length → (a + 8 * i) / 256 = l) (ht : s.lineTaken l)
    (hok : s.memoryOk = true) : (∀ i (hi : i < ws.length), (s.storeDwords a ws).mem.readN (a + 8 * i) 8 = ws[i]) ∧
      ∀ k, k < a ∨ a + 8 * ws.length ≤ k → (s.storeDwords a ws).mem.read k = s.mem.read k := by
  induction ws generalizing s a with
  | nil => exact ⟨nofun, fun _ _ => rfl⟩
  | cons w ws ih =>
    have hline : a / 256 = l := hl 0 (Nat.zero_lt_succ _)
    refine State.storeDwords_cons (m := s.mem) ?_ (State.mem_wf hok)
      (ih (by omega) (next_dwords hl) (hline ▸ State.taken_agentWrite_dword ha w) (State.agentWrite_memoryOk _ _ _ hok))
    rw [State.mem_agentWrite_dword ha, hline, State.mem_homeObtain_of_taken ht]

/-- Dwords stored one after the other in a line: they stand there, and no other line changes. -/
theorem State.storeDwords_line {ws : List Word} {s : State} {a l : Nat} (ha : a % 8 = 0) (hl : ∀ i, i < ws.length → (a + 8 * i) / 256 = l) (hok : s.memoryOk = true) :
    (∀ i (hi : i < ws.length), (s.storeDwords a ws).mem.readN (a + 8 * i) 8 = ws[i]) ∧ ∀ k, k / 256 ≠ l → (s.storeDwords a ws).mem.read k = s.mem.read k := by
  cases ws with
  | nil => exact ⟨nofun, fun _ _ => rfl⟩
  | cons w ws =>
    have hline : a / 256 = l := hl 0 (Nat.zero_lt_succ _)
    have hlast : (a + 8 * ws.length) / 256 = l := hl ws.length (Nat.lt_succ_self _)
    obtain ⟨hin, hout⟩ := State.storeDwords_cons (m := (s.homeObtain l).mem) (by rw [State.mem_agentWrite_dword ha, hline]) (State.mem_wf (State.homeObtain_memoryOk l hok))
      (State.storeDwords_taken (ws := ws) (by omega) (next_dwords hl) (hline ▸ State.taken_agentWrite_dword ha w) (State.agentWrite_memoryOk _ _ _ hok))
    refine ⟨hin, fun k hk => (hout k ?_).trans (State.read_homeObtain_other s hk)⟩
    rw [List.length_cons]
    omega

end Sys2Proof.Machine

end

section

/-! # Taking a trap (O12): what is saved, posted and counted -/

namespace Sys2Proof.Machine

/-! ### A message posted to a die's ring (R140) -/

section

variable {s : State} {p : Nat} {m : Message}

/-- Where a die's next message goes. -/
def State.ringSlot (s : State) (p : Nat) : Nat := paOf p ((s.die p).tmbase.toNat + 64 * ((s.die p).tmcnt.toNat % 4096))

/-- May a message go into the ring (R140)? -/
def State.ringRoom (s : State) (p : Nat) : Prop := (s.die p).heldPosts = [] ∧ ((s.die p).tmcnt - (s.die p).tmrd).toNat < 4096

/-- A message numbered and written into the ring's next slot. -/
def State.numbered (s : State) (p : Nat) (m : Message) : State := (s.modDie p fun d => { d with msgSeq := d.msgSeq + 1 }).storeDwords (s.ringSlot p) m

theorem State.post_room (h : s.ringRoom p) :
    s.post p m = ((s.numbered p m).modDie p fun d => { d with tmcnt := d.tmcnt + 1 }).modSlot ((s.die p).supcore.toNat * 8) (·.rung) := by
  have hdie : (s.modDie p fun d => { d with msgSeq := d.msgSeq + 1 }).die p = { s.die p with msgSeq := (s.die p).msgSeq + 1 } := State.die_modDie_self _ _ _
  unfold State.post
  dsimp only
  refine (if_pos h).trans ?_
  unfold State.writeRing
  dsimp only
  rw [hdie]
  rfl

theorem State.post_held (h : ¬s.ringRoom p) :
    s.post p m = (s.modDie p fun d => { d with msgSeq := d.msgSeq + 1 }).modDie p fun d => { d with heldPosts := d.heldPosts ++ [m] } := if_neg h

theorem State.sameJobs_numbered : (s.modDie p fun d => { d with msgSeq := d.msgSeq + 1 }).SameJobs (s.numbered p m) := (State.SameJobs.refl _).storeDwords

theorem State.kept_numbered : (s.modDie p fun d => { d with msgSeq := d.msgSeq + 1 }).Kept (s.numbered p m) := (State.Kept.refl _).storeDwords

theorem State.slot_post_room (h : s.ringRoom p) (j : Nat) : (s.post p m).slot j = if j = (s.die p).supcore.toNat * 8 then (s.slot j).rung else s.slot j := by
  have hslot : ∀ j, ((s.numbered p m).modDie p fun d => { d with tmcnt := d.tmcnt + 1 }).slot j = s.slot j := State.sameJobs_numbered.slot
  rw [State.post_room h, State.slot_modSlot, hslot, hslot]
  split
  · next hj => rw [hj]
  · rfl

theorem State.slot_post_held (h : ¬s.ringRoom p) (j : Nat) : (s.post p m).slot j = s.slot j := by rw [State.post_held h]; rfl

theorem State.die_post_room (h : s.ringRoom p) :
    ∃ dir coh, (s.post p m).die p = { s.die p with msgSeq := (s.die p).msgSeq + 1, tmcnt := (s.die p).tmcnt + 1, dir := dir, coh := coh } := by
  obtain ⟨dir, coh, hdie⟩ := (State.sameJobs_numbered (s := s) (p := p) (m := m)).die p
  refine ⟨dir, coh, ?_⟩
  rw [State.post_room h, State.die_modSlot, State.die_modDie_self, hdie, State.die_modDie_self]

theorem State.die_post_held (h : ¬s.ringRoom p) :
    (s.post p m).die p = { s.die p with msgSeq := (s.die p).msgSeq + 1, heldPosts := (s.die p).heldPosts ++ [m] } := by
  rw [State.post_held h, State.die_modDie_self, State.die_modDie_self]

/-- Posting touches neither which core is the supervisor's nor the agenda. -/
theorem State.isSup_post (c : Nat) : (s.post p m).isSup c = s.isSup c := by
  have hdie : ((s.post p m).die (peerOf (quadOf c))).supRun = (s.die (peerOf (quadOf c))).supRun ∧
      ((s.post p m).die (peerOf (quadOf c))).supcore = (s.die (peerOf (quadOf c))).supcore := by
    by_cases h : s.ringRoom p
    · by_cases hp : peerOf (quadOf c) = p
      · obtain ⟨dir, coh, hd⟩ := State.die_post_room (m := m) h
        rw [hp, hd]
        exact ⟨rfl, rfl⟩
      · obtain ⟨dir, coh, hd⟩ := (State.sameJobs_numbered (s := s) (p := p) (m := m)).die (peerOf (quadOf c))
        have hother : (s.post p m).die (peerOf (quadOf c)) = (s.numbered p m).die (peerOf (quadOf c)) := by
          rw [State.post_room h, State.die_modSlot, State.die_modDie_ne _ _ hp]
        rw [hother, hd, State.die_modDie_ne _ _ hp]
        exact ⟨rfl, rfl⟩
    · by_cases hp : peerOf (quadOf c) = p
      · rw [hp, State.die_post_held h]
        exact ⟨rfl, rfl⟩
      · rw [State.post_held h, State.die_modDie_ne _ _ hp, State.die_modDie_ne _ _ hp]
        exact ⟨rfl, rfl⟩
  unfold State.isSup
  rw [hdie.1, hdie.2]

theorem State.agenda_post : (s.post p m).agenda = s.agenda := by
  by_cases h : s.ringRoom p
  · rw [State.post_room h]
    exact (congrArg State.agenda (State.kept_numbered (s := s) (p := p) (m := m))).trans rfl
  · rw [State.post_held h]
    rfl

theorem State.mem_post_held (h : ¬s.ringRoom p) : (s.post p m).mem = s.mem := by rw [State.post_held h]; rfl

/-- A message of eight dwords in its aligned slot of the ring. -/
theorem State.mem_post_room (h : s.ringRoom p) (hm : m.length = 8) (hok : s.memoryOk = true) (ha : s.ringSlot p % 64 = 0) :
    (∀ i (hi : i < m.length), (s.post p m).mem.readN (s.ringSlot p + 8 * i) 8 = m[i]) ∧ ∀ a, a / 256 ≠ s.ringSlot p / 256 → (s.post p m).mem.read a = s.mem.read a := by
  rw [State.post_room h]
  exact State.storeDwords_line (s := s.modDie p _) (by omega) (fun i hi => by omega) hok

end

/-! ### A thread parked with a trap (R137) -/

section

variable (s : State) (k : Nat) (tr : Trap) (pc : Word)

/-- The header dword of a trap's frame (R138). -/
def trapHeader (sn : BitVec 32) (tr : Trap) : Word := sn ++ tr.seq ++ (0 : BitVec 6) ++ tr.stream ++ tr.cause

/-- The thread of slot k parked, its message not yet posted. -/
def State.parks (s : State) (k : Nat) (tr : Trap) (pc : Word) : State := s.modSlot k (·.park tr pc (s.die (peerOfSlot k)).msgSeq)

/-- The message of the trap. -/
def State.trapPost (s : State) (k : Nat) (tr : Trap) (pc : Word) : Message := trapMessage (s.parks k tr pc) k tr pc (s.die (peerOfSlot k)).msgSeq

theorem State.takeTrap_posts (h : s.posts k = true) : s.takeTrap k tr pc = ((s.parks k tr pc).post (peerOfSlot k) (s.trapPost k tr pc)).alarm k := by
  unfold State.takeTrap State.postTrap
  dsimp only
  exact congrArg (fun u : State => u.alarm k) (if_pos h)

theorem State.takeTrap_leaves (h : s.posts k = false) : s.takeTrap k tr pc = (s.parks k tr pc).alarm k := by
  unfold State.takeTrap State.postTrap
  dsimp only
  exact congrArg (fun u : State => u.alarm k) (if_neg (Bool.eq_false_iff.mp h))

theorem State.slot_alarm (j : Nat) : (s.alarm k).slot j = s.slot j := by unfold State.alarm; split <;> rfl
theorem State.die_alarm (j : Nat) : (s.alarm k).die j = s.die j := by unfold State.alarm; split <;> rfl
theorem State.dies_alarm : (s.alarm k).dies = s.dies := by unfold State.alarm; split <;> rfl
theorem State.mem_alarm : (s.alarm k).mem = s.mem := by unfold State.alarm; split <;> rfl

theorem State.agenda_alarm : (s.alarm k).agenda = if s.isSup (coreOf k) then .event .heartbeatMissed { a := peerOfSlot k } :: s.agenda else s.agenda := by
  unfold State.alarm
  split <;> rfl

theorem State.slot_parks_self : (s.parks k tr pc).slot k = (s.slot k).park tr pc (s.die (peerOfSlot k)).msgSeq := State.slot_modSlot_self _ _ _

theorem State.slot_parks_ne {j : Nat} (h : j ≠ k) : (s.parks k tr pc).slot j = s.slot j := State.slot_modSlot_ne _ _ h

theorem State.agenda_takeTrap :
    (s.takeTrap k tr pc).agenda = if s.isSup (coreOf k) then .event .heartbeatMissed { a := peerOfSlot k } :: s.agenda else s.agenda := by
  cases h : s.posts k with
  | true =>
    rw [State.takeTrap_posts s k tr pc h, State.agenda_alarm, State.isSup_post, State.agenda_post]
    rfl
  | false =>
    rw [State.takeTrap_leaves s k tr pc h, State.agenda_alarm]
    rfl

/-- Each slot after a trap, where its message went into the ring. -/
theorem State.slot_takeTrap_room (h : s.posts k = true) (hr : s.ringRoom (peerOfSlot k)) (j : Nat) :
    (s.takeTrap k tr pc).slot j = if j = (s.die (peerOfSlot k)).supcore.toNat * 8 then ((s.parks k tr pc).slot j).rung else (s.parks k tr pc).slot j := by
  rw [State.takeTrap_posts s k tr pc h, State.slot_alarm]
  exact State.slot_post_room (s := s.parks k tr pc) hr j

theorem State.slot_takeTrap_held (h : s.posts k = false ∨ ¬s.ringRoom (peerOfSlot k)) (j : Nat) : (s.takeTrap k tr pc).slot j = (s.parks k tr pc).slot j := by
  cases hp : s.posts k with
  | true =>
    rw [State.takeTrap_posts s k tr pc hp, State.slot_alarm]
    exact State.slot_post_held (s := s.parks k tr pc) (h.resolve_left (by rw [hp]; nofun)) j
  | false => rw [State.takeTrap_leaves s k tr pc hp, State.slot_alarm]

theorem Slot.frame_rung (t : Slot) : t.rung.frame = t.frame := rfl

/-- The frame that a trap leaves (R138). -/
theorem State.frame_takeTrap : ((s.takeTrap k tr pc).slot k).frame = contextOf (s.slot k) pc (trapHeader (s.die (peerOfSlot k)).msgSeq tr) tr.addr := by
  have hpark : ((s.parks k tr pc).slot k).frame = contextOf (s.slot k) pc (trapHeader (s.die (peerOfSlot k)).msgSeq tr) tr.addr := by rw [State.slot_parks_self]; rfl
  by_cases h : s.posts k = true ∧ s.ringRoom (peerOfSlot k)
  · rw [State.slot_takeTrap_room s k tr pc h.1 h.2, ← hpark]
    split <;> rfl
  · rw [State.slot_takeTrap_held s k tr pc (by rw [not_and_or, Bool.not_eq_true] at h; exact h), hpark]

end

/-! ### The parts of the frame that a return does not read (R138) -/

section

variable (t : Slot) (pc hdr addr : Word)

theorem contextDword_frame_all {f i : Nat} (h7 : f < 7) (hi : i < 16) :
    contextDword t pc hdr addr (33 + 17 * f + i) = if f < t.resident.toNat then t.phys.get 0 ((16 * (t.wdepth.toNat - f) + i) % 120) else 0 := by
  have hq : (33 + 17 * f + i - 32) / 17 = f := by omega
  have hr : (33 + 17 * f + i - 32) % 17 = i + 1 := by omega
  unfold contextDword
  iterate 13 rw [if_neg (by omega)]
  rw [if_pos (by omega)]
  dsimp only
  rw [hq, hr, if_neg (by omega : ¬i + 1 = 0), Nat.add_sub_cancel]

theorem contextDword_link_all {f : Nat} (h7 : f < 7) :
    contextDword t pc hdr addr (32 + 17 * f) = if f < t.resident.toNat then t.links.get 0 (t.wdepth.toNat - f) else 0 := by
  have hq : (32 + 17 * f - 32) / 17 = f := by omega
  have hr : (32 + 17 * f - 32) % 17 = 0 := by omega
  unfold contextDword
  iterate 13 rw [if_neg (by omega)]
  rw [if_pos (by omega)]
  dsimp only
  rw [hq, hr, if_pos rfl]

theorem contextDword_count {i : Nat} (hi : i < 4) : contextDword t pc hdr addr (17 + 2 * i) = BitVec.ofNat 64 ((t.ops.filter fun o => o.stream.toNat == i).length) := by
  have hq : (17 + 2 * i - 16) / 2 = i := by omega
  have hr : (17 + 2 * i - 16) % 2 = 1 := by omega
  unfold contextDword
  iterate 11 rw [if_neg (by omega)]
  rw [if_pos (by omega)]
  dsimp only
  rw [hq, hr, if_neg (by decide)]

theorem contextDword_replay {e m : Nat} (he : e < 8) (hm : m < 4) :
    contextDword t pc hdr addr (280 + 4 * e + m) = (((t.replayQueue[e]?).map replayEntry).getD [])[m]?.getD 0 := by
  have hq : (280 + 4 * e + m - 280) / 4 = e := by omega
  have hr : (280 + 4 * e + m - 280) % 4 = m := by omega
  unfold contextDword
  iterate 16 rw [if_neg (by omega)]
  rw [if_pos (by omega), hq, hr]

theorem contextDword_above {j : Nat} (hj : 315 ≤ j) : contextDword t pc hdr addr j = 0 := by
  unfold contextDword
  iterate 20 rw [if_neg (by omega)]

theorem contextDword_loop {i : Nat} (hi : i < 4) : contextDword t pc hdr addr (8 + i) = ((loopDwords t.loops[0]? ++ loopDwords t.loops[1]?)[i]?).getD 0 := by
  unfold contextDword
  iterate 8 rw [if_neg (by omega)]
  rw [if_pos (by omega), Nat.add_sub_cancel_left]

/-- The two dwords of a loop level, as the frame lays them out (R138). -/
theorem loopDwords_none {a b : Word} (h : loopDwords none = [a, b]) : a = 0 ∧ b = 0 := by
  obtain ⟨rfl, rfl⟩ : 0 = a ∧ 0 = b := by simpa [loopDwords] using h
  exact ⟨rfl, rfl⟩

theorem loopDwords_some {l : Loop} {a b : Word} (h : loopDwords (some l) = [a, b]) :
    a = l.start ∧ b = b1 true ++ l.depth ++ ((l.stop - l.start).extractLsb' 1 15 : BitVec 15) ++ (l.count.extractLsb' 0 32 : BitVec 32) := by
  obtain ⟨rfl, rfl⟩ := List.cons_eq_cons.mp h |>.imp id fun h => (List.cons_eq_cons.mp h).1
  exact ⟨rfl, rfl⟩

end

theorem paOf_aligned {p off : Nat} (h : off % 64 = 0) : paOf p off % 64 = 0 := by
  unfold paOf
  omega

/-- Settles O12, from the lemmas for a message posted, a thread parked and the dwords of its frame. -/
theorem trapEntry : Obligations.TrapEntry := by
  intro s k tr pc t u d d' ring at' room bell parked msg frame loop
  have hframe : ∀ o, o / 8 < 320 → frame o = contextDword u pc (trapHeader d.msgSeq tr) tr.addr (o / 8) := fun o ho => by
    rw [← contextOf_get u pc (trapHeader d.msgSeq tr) tr.addr ho, ← State.frame_takeTrap s k tr pc]
  have hat : ∀ o j, o / 8 = j → j < 320 → frame o = contextDword u pc (trapHeader d.msgSeq tr) tr.addr j := fun o j ho hj => by rw [hframe o (by omega), ho]
  have hpark : (s.parks k tr pc).slot k = parked := by
    rw [State.slot_parks_self]
    change ({ u with st := .park, hold := .none, waited := 0, frame := contextOf u pc (trapHeader d.msgSeq tr) tr.addr } : Slot) =
      { u with st := .park, hold := .none, waited := 0, frame := (t.slot k).frame }
    rw [State.frame_takeTrap s k tr pc]
  have hmsg : s.trapPost k tr pc = msg := by
    have hjob : ((s.parks k tr pc).slot k).job = u.job := by rw [hpark]
    unfold State.trapPost trapMessage
    rw [hjob]
    rfl
  have hloop : ∀ j, j < 2 → loop (0x040 + 16 * j) u.loops[j]? := fun j hj => by
    have h0 : frame (0x040 + 16 * j) = ((loopDwords u.loops[0]? ++ loopDwords u.loops[1]?)[2 * j]?).getD 0 := by
      rw [hat _ (8 + 2 * j) (by omega) (by omega), contextDword_loop u pc _ _ (by omega)]
    have h1 : frame (0x040 + 16 * j + 8) = ((loopDwords u.loops[0]? ++ loopDwords u.loops[1]?)[2 * j + 1]?).getD 0 := by
      rw [hat _ (8 + (2 * j + 1)) (by omega) (by omega), contextDword_loop u pc _ _ (by omega)]
    have hdwords : loopDwords u.loops[j]? = [frame (0x040 + 16 * j), frame (0x040 + 16 * j + 8)] := by
      rw [h0, h1]
      interval_cases j
      · exact loopDwords_append_left _ _
      · exact loopDwords_append_right _ _
    cases hl : u.loops[j]? with
    | none => exact loopDwords_none (hl ▸ hdwords)
    | some l => exact loopDwords_some (hl ▸ hdwords)
  refine ⟨⟨fun h => ?_, fun h hr => ?_⟩, fun j hj => ?_, ?_, fun h => ?_, fun h => ?_, fun h => ?_, fun h => ?_⟩
  · exact (State.slot_takeTrap_held s k tr pc h k).trans hpark
  · refine (State.slot_takeTrap_room s k tr pc h hr k).trans ?_
    rw [hpark]
  · by_cases h : s.posts k = true ∧ room
    · refine (State.slot_takeTrap_room s k tr pc h.1 h.2 j).trans ?_
      rw [State.slot_parks_ne s k tr pc hj]
      simp only [h.1, h.2, true_and]
      rfl
    · refine (State.slot_takeTrap_held s k tr pc (by rw [not_and_or, Bool.not_eq_true] at h; exact h) j).trans ?_
      rw [State.slot_parks_ne s k tr pc hj, if_neg fun hx => h ⟨hx.1, hx.2.1⟩]
  · refine ⟨hframe _ (by decide), hframe _ (by decide), hframe _ (by decide), hframe _ (by decide), hframe _ (by decide), hframe _ (by decide), hframe _ (by decide),
      hframe _ (by decide), hloop 0 (by decide), hloop 1 (by decide), fun i hi => ?_, hframe _ (by decide), hframe _ (by decide), fun i hi => ⟨?_, ?_⟩, fun i hi => ?_,
      fun f hf => ⟨?_, fun i hi => ?_⟩, hframe _ (by decide), fun i hi m hm => ?_, fun e he m hm => ?_, hframe _ (by decide), hframe _ (by decide), hframe _ (by decide),
      fun n hn => ?_⟩
    · rw [hat _ (12 + i / 4) (by omega) (by omega)]
      exact contextDword_mask u pc _ _ hi
    · rw [hat _ (16 + 2 * i) (by omega) (by omega)]
      exact contextDword_stream u pc _ _ hi
    · rw [hat _ (17 + 2 * i) (by omega) (by omega)]
      exact contextDword_count u pc _ _ hi
    · rw [hat _ (24 + i) (by omega) (by omega)]
      exact contextDword_out u pc _ _ hi
    · rw [hat _ (32 + 17 * f) (by omega) (by omega)]
      exact contextDword_link_all u pc _ _ hf
    · rw [hat _ (33 + 17 * f + i) (by omega) (by omega)]
      exact contextDword_frame_all u pc _ _ hf hi
    · rw [hat _ (152 + 8 * i + m) (by omega) (by omega)]
      exact contextDword_vec u pc _ _ hi hm
    · rw [hat _ (280 + 4 * e + m) (by omega) (by omega)]
      exact contextDword_replay u pc _ _ he hm
    · rw [hat _ (315 + n) (by omega) (by omega)]
      exact contextDword_above u pc _ _ (by omega)
  · have ht : t = (s.parks k tr pc).alarm k := State.takeTrap_leaves s k tr pc h
    rw [ht, State.dies_alarm, State.mem_alarm]
    exact ⟨rfl, rfl⟩
  · have ht : t = ((s.parks k tr pc).post (peerOfSlot k) msg).alarm k := hmsg ▸ State.takeTrap_posts s k tr pc h
    have hd : d' = ((s.parks k tr pc).post (peerOfSlot k) msg).die (peerOfSlot k) := by
      change t.die _ = _
      rw [ht, State.die_alarm]
    have hm : t.mem = ((s.parks k tr pc).post (peerOfSlot k) msg).mem := by rw [ht, State.mem_alarm]
    have held : ¬room → d' = { d with msgSeq := d.msgSeq + 1, heldPosts := d.heldPosts ++ [msg] } := fun hr =>
      hd.trans (State.die_post_held (s := s.parks k tr pc) hr)
    have rung : room → ∃ dir coh, d' = { d with msgSeq := d.msgSeq + 1, tmcnt := d.tmcnt + 1, dir := dir, coh := coh } := fun hr => by
      obtain ⟨dir, coh, hpost⟩ := State.die_post_room (s := s.parks k tr pc) (m := msg) hr
      exact ⟨dir, coh, hd.trans hpost⟩
    refine ⟨?_, fun hr => ?_, fun hr => ?_⟩
    · by_cases hr : room
      · obtain ⟨dir, coh, hd'⟩ := rung hr
        rw [hd']
      · rw [held hr]
    · rw [held hr]
      exact ⟨rfl, rfl, hm.trans (State.mem_post_held (s := s.parks k tr pc) hr)⟩
    · obtain ⟨dir, coh, hd'⟩ := rung hr
      rw [hd', hm]
      refine ⟨hr.1, rfl, fun hok h64 h40 => ?_⟩
      have hring : (s.parks k tr pc).ringSlot (peerOfSlot k) = at' := rfl
      have haligned : at' % 64 = 0 := paOf_aligned (show (d.tmbase.toNat + 64 * (d.tmcnt.toNat % 4096)) % 64 = 0 by omega)
      obtain ⟨hin, hout⟩ := State.mem_post_room (s := s.parks k tr pc) (p := peerOfSlot k) (m := msg) hr rfl hok haligned
      rw [hring] at hin hout
      exact ⟨List.ext_getElem rfl fun i hi hi' => by rw [List.getElem_map, List.getElem_range]; exact hin i hi', hout⟩
  · exact (State.agenda_takeTrap s k tr pc).trans (if_pos h)
  · exact (State.agenda_takeTrap s k tr pc).trans (if_neg (Bool.eq_false_iff.mp h))

end Sys2Proof.Machine

end

section

/-! # A scalar access whose translation faults is parked (O22) -/

namespace Sys2Proof.Machine

/-! ### A message about a thread that goes on (R139, R141) -/

section

variable {s : State} {k : Nat} {tr : Trap}

theorem State.postNoPc_posts (h : s.posts k = true) : ∃ m, s.postNoPc k tr = ((s.post (peerOfSlot k) m).useOpen).alarm k := by
  refine ⟨trapMessage s k tr s.openValue (s.die (peerOfSlot k)).msgSeq, ?_⟩
  unfold State.postNoPc State.postTrap
  exact congrArg (fun u : State => u.useOpen.alarm k) (if_pos h)

theorem State.cur_post {p : Nat} {m : Message} : (s.post p m).cur = s.cur := by
  by_cases h : s.ringRoom p
  · rw [State.post_room h]
    exact (State.kept_numbered (s := s) (p := p) (m := m)).cur
  · rw [State.post_held h]
    rfl

theorem State.cur_alarm : (s.alarm k).cur = s.cur := by unfold State.alarm; split <;> rfl

theorem State.cores_alarm : (s.alarm k).cores = s.cores := by unfold State.alarm; split <;> rfl

theorem State.cur_postNoPc (h : s.posts k = true) : (s.postNoPc k tr).cur = s.cur := by
  obtain ⟨m, hm⟩ := State.postNoPc_posts (tr := tr) h
  rw [hm, State.cur_alarm]
  exact State.cur_post

/-- Slot by slot, at most the event latch is set. -/
theorem State.slot_postNoPc (h : s.posts k = true) (j : Nat) : (s.postNoPc k tr).slot j = s.slot j ∨ (s.postNoPc k tr).slot j = (s.slot j).rung := by
  obtain ⟨m, hm⟩ := State.postNoPc_posts (tr := tr) h
  have hslot : (s.postNoPc k tr).slot j = (s.post (peerOfSlot k) m).slot j := by rw [hm, State.slot_alarm]; rfl
  rw [hslot]
  by_cases hr : s.ringRoom (peerOfSlot k)
  · rw [State.slot_post_room hr]
    split
    · exact .inr rfl
    · exact .inl rfl
  · exact .inl (State.slot_post_held hr j)

/-- One more message of the die is numbered. -/
theorem State.msgSeq_postNoPc (h : s.posts k = true) : ((s.postNoPc k tr).die (peerOfSlot k)).msgSeq = (s.die (peerOfSlot k)).msgSeq + 1 := by
  obtain ⟨m, hm⟩ := State.postNoPc_posts (tr := tr) h
  have hdie : (s.postNoPc k tr).die (peerOfSlot k) = (s.post (peerOfSlot k) m).die (peerOfSlot k) := by rw [hm, State.die_alarm]; rfl
  rw [hdie]
  by_cases hr : s.ringRoom (peerOfSlot k)
  · obtain ⟨dir, coh, hd⟩ := State.die_post_room (m := m) hr
    rw [hd]
  · rw [State.die_post_held hr]

theorem State.lockstep_postNoPc (h : s.posts k = true) (c : Nat) : ((s.postNoPc k tr).core c).crew.bind.lockstep = (s.core c).crew.bind.lockstep := by
  obtain ⟨m, hm⟩ := State.postNoPc_posts (tr := tr) h
  have hcore : (s.postNoPc k tr).core c = (s.post (peerOfSlot k) m).core c := by
    unfold State.core
    rw [hm, State.cores_alarm]
    rfl
  rw [hcore]
  by_cases hr : s.ringRoom (peerOfSlot k)
  · rw [State.post_room hr]
    exact ((State.SameCrews.refl (s.modDie _ _)).storeDwords.lockstep c).trans rfl
  · rw [State.post_held hr]
    rfl

end

/-- A parked operation waits for no event latch. -/
theorem Slot.ops_rung_parked {t : Slot} {o : Op} (ho : t.ops = [o]) (hp : o.phase = .parked) : t.rung.ops = [o] := by
  unfold Slot.rung
  rw [ho]
  simp [hp]

/-! ### The operation parked (R141) -/

section

variable {s : State} {d : BitVec 5} {st : BitVec 2} {o : Op} {va : Word} {e : FaultKind} (hf : s.fresh)

include hf

theorem State.posts_withMe (t : Slot) : (s.withMe t).posts s.cur = true := by
  have hl : ((s.withMe t).core (coreOf s.cur)).crew.bind.lockstep = false := hf.2
  unfold State.posts
  rw [hl]
  rfl

/-- The message of a fault of the current thread's one operation. -/
def parkTrap (o : Op) (va : Word) (e : FaultKind) : Trap :=
  { cause := 0x10, addr := va, detail := e.code, stream := o.stream, mask := o.mask, seq := o.seq, entry := some 0 }

/-- An operation in its thread's replay queue. -/
def Op.parked (o : Op) : Op := { o with phase := .parked, parts := o.parts.map fun p => { p with phase := .parked } }

theorem State.parkOp_began (hh : o.phase = .held) :
    (s.withMe (s.me.began st d none .none o)).parkOp s.cur o.id va e = (s.withMe (s.me.began st d none .none o.parked)).postNoPc s.cur (parkTrap o va e) := by
  have hop : (s.me.began st d none .none o).op o.id = some o := Slot.op_one _ o rfl
  have hqueue : (s.me.began st d none .none o).replayQueue = [] := by
    unfold Slot.replayQueue
    rw [show (s.me.began st d none .none o).ops = [o] from rfl]
    simp [hh]
  have henter : (s.withMe (s.me.began st d none .none o)).enterReplay s.cur o.id = s.withMe (s.me.began st d none .none o.parked) := by
    unfold State.enterReplay
    rw [State.twins_withMe _ _ hf.2, List.foldl_cons, List.foldl_nil, State.withMe_modSlot, Slot.intoFrame_free _ _ (Slot.began_framed _ _ _ _ _ _)]
    exact congrArg s.withMe (Slot.modOp_began _ _ _ _ _ _ _)
  have hindex : (s.me.began st d none .none o.parked).replayQueue.findIdx (·.id == o.id) = 0 := by
    unfold Slot.replayQueue
    rw [show (s.me.began st d none .none o.parked).ops = [o.parked] from rfl]
    simp [Op.parked]
  unfold State.parkOp
  rw [State.slot_withMe_cur, hop]
  dsimp only
  rw [hqueue, if_neg (by decide), henter, State.slot_withMe_cur, hindex]
  rfl

/-- A byte range at a global address that no region is bound to, whose translation faults. -/
theorem State.startPart_faults {p : Part} (hparts : o.parts = [p]) (hh : o.phase = .held) (hk : (∃ n sg, o.kind = .load n sg) ∨ ∃ n, o.kind = .store n) (h63 : p.va.getLsbD 63 = false)
    (hb : s.boundAt s.myCore p.va = none) (hpa : p.pa = none) (ht : s.translate s.myCore s.me.job p.va o.kind.writes false = some (.error e)) :
    (s.withMe (s.me.began st d none .none o)).startPart s.cur o.id p.lane =
      (s.withMe (s.me.began st d none .none o.parked)).postNoPc s.cur (parkTrap o p.va e) := by
  have hop : (s.me.began st d none .none o).op o.id = some o := Slot.op_one _ o rfl
  have hb' : (s.withMe (s.me.began st d none .none o)).boundAt (coreOf s.cur) p.va = none := hb
  have ht' : (s.withMe (s.me.began st d none .none o)).translate (coreOf s.cur) s.me.job p.va o.kind.writes false = some (.error e) := ht
  have hfault : (s.withMe (s.me.began st d none .none o)).faultPart s.cur o.id p.va e =
      (s.withMe (s.me.began st d none .none o.parked)).postNoPc s.cur (parkTrap o p.va e) := by
    unfold State.faultPart
    rw [State.slot_withMe_cur, hop]
    have hparks : o.kind.parks = true := by rcases hk with ⟨n, sg, h⟩ | ⟨n, h⟩ <;> rw [h] <;> rfl
    dsimp only
    rw [if_pos hparks, State.parkOp_began hf hh]
  unfold State.startPart
  rcases hk with ⟨n, sg, hk⟩ | ⟨n, hk⟩ <;>
  · rw [hk] at ht'
    simp only [State.slot_withMe_cur, hop, hparts, List.find?_cons, beq_self_eq_true, h63, hk, hb', hpa, Slot.began_job, ht', Bool.false_eq_true, if_false]
    exact hfault

/-- A scalar access at a global address whose translation faults issues, is parked with its message numbered, and its thread goes on. -/
theorem State.access_parks {i : Instr} {regs : List (BitVec 5)} {w : State → Word} {n : Nat} {ch wr : Bool} {x : State → Issue}
    (he : exec i s = s.access i regs [] w n ch wr false x) (hw : wellFormed i = true) (hl : ilen i = 4) (hb : s.me.busy { regs := regs } = false) (hva : w s = va)
    (h63 : va.getLsbD 63 = false) (hn : va.toNat % n = 0) (hbound : s.boundAt s.myCore va = none)
    (hk : (∃ n sg, (x s).kind = .load n sg) ∨ ∃ n, (x s).kind = .store n) (hparts : (x s).parts = [{ va := va, size := n }]) (hd : (x s).dest = s.me.destOf d)
    (hflag : (x s).flag = none) (hheld : (x s).held = false) (ha : (x s).a = va) (ht : s.translate s.myCore s.me.job va (x s).kind.writes false = some (.error e)) :
    ∃ t', exec i s = .next t' ∧ t'.me.pc = (s.me.advance 4).pc ∧ t'.me.st = .run ∧
      (∃ o, t'.me.ops = [o] ∧ s.outstanding o (x s).st (x s).pm .parked ∧ o.a = va ∧ o.dest = (x s).dest) ∧ (t'.die s.myPeer).msgSeq = (s.die s.myPeer).msgSeq + 1 := by
  generalize ho : s.me.newOp i (x s) = o
  have hnew : o.parts = [{ va := va, size := n }] := by rw [← ho]; exact hparts
  have hkind : o.kind = (x s).kind := by rw [← ho]; rfl
  have htraps : accessTraps (w s) n ch s = none := by
    unfold accessTraps State.localTrap
    rw [hva, h63, Bool.false_and, if_neg Bool.false_ne_true, if_neg (not_not.mpr hn)]
  have hqueue : s.me.replayQueue = [] := by unfold Slot.replayQueue; rw [hf.1]; rfl
  have hstart : (s.withMe (s.me.began (x s).st d none .none o)).beginKind s.cur o =
      (s.withMe (s.me.began (x s).st d none .none o.parked)).postNoPc s.cur (parkTrap o va e) := by
    have hparts' : (s.withMe (s.me.began (x s).st d none .none o)).beginKind s.cur o = (s.withMe (s.me.began (x s).st d none .none o)).startParts s.cur o.id := by
      unfold State.beginKind
      rcases hk with ⟨n, sg, hk⟩ | ⟨n, hk⟩ <;> rw [hkind, hk]
    rw [hparts', State.startParts_one s _ o _ rfl hnew rfl]
    exact State.startPart_faults (p := { va := va, size := n }) hf hnew (by rw [← ho]; rfl) (by rw [hkind]; exact hk) h63 hbound rfl (by rw [hkind]; exact ht)
  have hposts := State.posts_withMe hf (s.me.began (x s).st d none .none o.parked)
  have hbegan : s.me.issueOp i (x s) = s.me.began (x s).st d none .none o := by
    rw [Slot.issueOp_eq_began hf.1 hl hd, hflag, ho]
    unfold Issue.holds
    rw [hheld]
    rfl
  have hexec : exec i s = .next ((s.withMe (s.me.began (x s).st d none .none o.parked)).postNoPc s.cur (parkTrap o va e)) := by
    rw [he]
    unfold State.access State.streamOp
    rw [issue_ok hw hb]
    dsimp only
    rw [htraps, hqueue]
    dsimp only
    rw [if_neg (by simp), State.issueOp_fresh _ _ _ hf.1, State.inOrder_of_not_fe _ _ _ _ (by rcases hk with ⟨n, sg, hk⟩ | ⟨n, hk⟩ <;> rw [hk] <;> nofun), hbegan, ho, hstart]
    exact congrArg _ (State.syncPair_of_alone ((State.lockstep_postNoPc hposts _).trans hf.2))
  have hcur := State.cur_postNoPc (tr := parkTrap o va e) hposts
  have hslot := State.slot_postNoPc (tr := parkTrap o va e) hposts s.cur
  have hmsg := State.msgSeq_postNoPc (tr := parkTrap o va e) hposts
  rw [State.slot_withMe_cur] at hslot
  generalize (s.withMe (s.me.began (x s).st d none .none o.parked)).postNoPc s.cur (parkTrap o va e) = v at hexec hcur hslot hmsg
  have hme : v.me = v.slot s.cur := congrArg v.slot hcur
  have hops : v.me.ops = [o.parked] := by
    rw [hme]
    rcases hslot with h | h
    · rw [h]; rfl
    · rw [h]; exact Slot.ops_rung_parked rfl rfl
  have hpc : v.me.pc = (s.me.advance 4).pc ∧ v.me.st = .run := by
    have hbegan : (s.me.began (x s).st d none .none o.parked).pc = (s.me.advance 4).pc ∧ (s.me.began (x s).st d none .none o.parked).st = .run := by
      unfold Slot.began
      cases s.me.destOf d <;> exact ⟨rfl, rfl⟩
    rw [hme]
    rcases hslot with h | h
    · rw [h]; exact hbegan
    · rw [h]; exact hbegan
  refine ⟨v, hexec, hpc.1, hpc.2, ⟨o.parked, hops, ?_, ?_, ?_⟩, hmsg⟩
  · rw [← ho]
    exact ⟨rfl, rfl, rfl, rfl, rfl, rfl⟩
  · rw [← ha, ← ho]; rfl
  · rw [← ho]; rfl

end

/-- An address of the virtual space has no bits above it (R150). -/
theorem bits_high_zero {va : Word} (h : va.toNat < 2 ^ 57) : (bits va 57 6 : BitVec 6) = 0 := by
  apply BitVec.eq_of_toNat_eq
  simp only [bits, BitVec.extractLsb'_toNat, Nat.shiftRight_eq_div_pow, Nat.div_eq_of_lt h]
  rfl

theorem bits_high_ne_zero {va : Word} (hlo : 2 ^ 57 ≤ va.toNat) (hhi : va.toNat < 2 ^ 63) : (bits va 57 6 : BitVec 6) ≠ 0 := by
  intro h
  have hn : va.toNat / 2 ^ 57 % 2 ^ 6 = 0 := by
    rw [← Nat.shiftRight_eq_div_pow, ← BitVec.extractLsb'_toNat]
    exact congrArg BitVec.toNat h
  omega

/-- Settles O22: an STD to a page that may not be written, and any access above the virtual space, is parked. -/
theorem parkedFault : Obligations.ParkedFault := by
  intro s t a st p l ht hb hf h8 hbound parks
  have hea : s.ea a 0 8 = s.rd a := by
    unfold State.ea
    rw [show sx (0 : BitVec 9) = 0 from by decide, zero_mul, add_zero]
  have store : ∀ {e : FaultKind}, (s.rd a).getLsbD 63 = false → s.translate s.myCore s.me.job (s.rd a) true false = some (.error e) → parks (.std t a st p 0) .none := by
    intro e h63 htr
    exact State.access_parks (d := 0) (va := s.rd a) (e := e) (i := .std t a st p 0) (regs := [t, a]) (w := fun s => s.ea a 0 8) (n := 8) (ch := true) (wr := true) (x := fun s =>
      { kind := .store 8, st := st, pm := p, a := s.ea a 0 8, t := s.rd t, parts := [{ va := s.ea a 0 8, size := 8 }] }) hf rfl rfl rfl hb hea h63 h8 hbound (.inr ⟨8, rfl⟩)
      (by dsimp only; rw [hea]) rfl rfl rfl hea htr
  have load : ∀ {e : FaultKind}, (s.rd a).getLsbD 63 = false → s.translate s.myCore s.me.job (s.rd a) false false = some (.error e) →
      parks (.ldd t a st p 0) (s.me.destOf t) := by
    intro e h63 htr
    exact State.access_parks (d := t) (va := s.rd a) (e := e) (i := .ldd t a st p 0) (regs := [t, a]) (w := fun s => s.ea a 0 8) (n := 8) (ch := false) (wr := false) (x := fun s =>
      { kind := .load 8 false, st := st, pm := p, a := s.ea a 0 8, dest := s.me.destOf t, parts := [{ va := s.ea a 0 8, size := 8 }] }) hf rfl ht rfl hb hea h63 h8 hbound
      (.inl ⟨8, false, rfl⟩) (by dsimp only; rw [hea]) rfl rfl rfl hea htr
  refine ⟨fun hknown hl => ?_, fun hlo hhi => ?_⟩
  · have htr : s.translate s.myCore s.me.job (s.rd a) true false = some (.error .permission) := by
      unfold State.translate
      rw [if_neg (not_not.mpr (bits_high_zero hknown.1)), hknown.2]
      simp [hl]
    exact store (getLsbD_63_of_lt (Nat.lt_trans hknown.1 (by decide))) htr
  · have htr : ∀ w, s.translate s.myCore s.me.job (s.rd a) w false = some (.error .malformed) := fun w => if_pos (bits_high_ne_zero hlo hhi)
    exact ⟨store (getLsbD_63_of_lt hhi) (htr true), load (getLsbD_63_of_lt hhi) (htr false)⟩

end Sys2Proof.Machine

end

section

/-! # What reaches a thread that runs alone (O45) -/

namespace Sys2Proof.Machine

/-! ### A reply (R115) -/

section

variable {s : State} {k i p id : Nat} {r : Reply}

/-- The result of a register: written, its scoreboard bit clear, its operation performed (R115). -/
theorem Slot.takeReply_reg (t : Slot) (hd : r.dest = .reg p) (hf : r.flag = none) (hw : r.wakes = some id) :
    t.takeReply r = ({ t with phys := t.phys.set p (r.value.setWidth 64), pendW := putBits t.pendW p (0 : BitVec 1), ops := t.ops.filter fun o => o.id != id } : Slot).wake id := by
  unfold Slot.takeReply
  rw [hd, hf, hw]
  rfl

/-- Flags of an empty set change nothing (R211). -/
theorem State.orFlags_zero (s : State) (k : Nat) : s.orFlags k 0 = s.modSlot k fun t => t :=
  (State.orFlags_known (.inl (BitVec.zero_and))).trans (State.modSlot_congr (congrArg (fun x => { s.slot k with fsf := x }) BitVec.or_zero))

/-- A reply without flags, at a thread that holds no frame (R115). -/
theorem State.takeReplyAt_free (hr : (s.slot k).replies[i]? = some r) (hfr : (s.slot k).framed = false) (hz : r.fsf = 0) :
    s.takeReplyAt k i = s.modSlot k fun t => { t with replies := t.replies.eraseIdx i }.takeReply r := by
  have hflag : ∀ t : Slot, t.flagFrame 0 = t := fun t => if_neg fun h => h.2 rfl
  unfold State.takeReplyAt
  rw [hr]
  dsimp only
  rw [hz, State.orFlags_zero, State.modSlot_modSlot, State.modSlot_modSlot]
  refine State.modSlot_congr ?_
  rw [hflag, Slot.intoFrame_free _ _ hfr]
  rfl

end

section

variable {s : State}

/-- At a thread that runs alone a reply's event takes the reply. -/
theorem execReply_alone (hl : (s.core (coreOf s.arg.a)).crew.bind.lockstep = false) : execReply s = .next (s.takeReplyAt s.arg.a s.arg.b) := by
  unfold execReply
  dsimp only
  rw [State.twins_alone hl]
  exact if_neg fun h => nomatch h

/-! ### An exiting thread that has drained (R134), and a scope (R184) -/

/-- The thread's parcel counts one fewer, where its record stands at its home (R88). -/
theorem State.addLive_home {job : BitVec 12} {par : ParcelId} (up : Bool) (hv : (s.core par.home).crew.bind.valid = true) (hc : (s.core par.home).crew.bind.counts job par = true) :
    s.addLive job par up = s.modCrew par.home fun y => { y with bind := { y.bind with live := if up then y.bind.live + 1 else y.bind.live - 1 } } :=
  if_pos (by rw [hv, hc]; rfl)

theorem execExitDrained_free (hl : (s.core (coreOf s.arg.a)).crew.bind.lockstep = false) (hst : (s.slot s.arg.a).st = .exiting) (ho : (s.slot s.arg.a).ops = [])
    (hr : (s.slot s.arg.a).replies = []) (hp : (s.slot s.arg.a).noPending = true) :
    execExitDrained s = .next ((s.modSlot s.arg.a (·.freed)).addLive (s.slot s.arg.a).job (s.slot s.arg.a).par false) := by
  unfold execExitDrained
  dsimp only
  rw [if_pos ⟨hst, ho, hr, hp⟩, State.twins_alone hl]
  rfl

theorem execScopeSet_sets {i : BitVec 2} {c : BitVec 3} (hl : (s.core (coreOf s.arg.a)).crew.bind.lockstep = false) (hh : (s.slot s.arg.a).hold = .scope i c)
    (hst : (s.slot s.arg.a).st = .wait) (hw : (s.slot s.arg.a).window i.toNat = 0) :
    execScopeSet s = .next (s.modSlot s.arg.a fun t => { (t.setScope i c).release with issued := t.issued + 1 }) := by
  have hrel : ((s.slot s.arg.a).setScope i c).release.issued = (s.slot s.arg.a).issued := by
    unfold Slot.release
    rw [show ((s.slot s.arg.a).setScope i c).st = .wait from hst]
    rfl
  unfold execScopeSet
  rw [hh]
  dsimp only
  rw [if_pos ⟨hst, hw⟩, State.twins_alone hl, List.foldl_cons, List.foldl_nil]
  exact congrArg Host.Outcome.next (State.modSlot_congr (congrArg (fun n => { ((s.slot s.arg.a).setScope i c).release with issued := n + 1 }) hrel))

/-! ### A wait that has lasted (R142) -/

theorem execWaitTimeout_early (h : (s.slot s.arg.a).waited < max 1 (s.slot s.arg.a).wto.toNat) : execWaitTimeout s = .next s :=
  if_neg fun ⟨_, hlim, _⟩ => absurd h (Nat.not_lt.mpr hlim)

/-- A wait that is no MIGR's ends in its trap. -/
theorem execWaitTimeout_late (hl : (s.core (coreOf s.arg.a)).crew.bind.lockstep = false) (hst : (s.slot s.arg.a).st = .wait)
    (hlim : max 1 (s.slot s.arg.a).wto.toNat ≤ (s.slot s.arg.a).waited) (ho : s.waitOver s.arg.a = false) (hr : (s.slot s.arg.a).retrying = none) :
    execWaitTimeout s = .next (s.timeout s.arg.a) := by
  unfold execWaitTimeout
  dsimp only
  rw [if_pos ⟨hst, hlim, by rw [ho]; exact Bool.false_ne_true⟩, hr, State.twins_alone hl]
  rfl

/-- A thread that waits at its instruction is asked for nothing else. -/
theorem execWaitTimeout_reissue (hl : (s.core (coreOf s.arg.a)).crew.bind.lockstep = false) (hst : (s.slot s.arg.a).st = .wait) (hh : (s.slot s.arg.a).hold = .reissue)
    (hlim : max 1 (s.slot s.arg.a).wto.toNat ≤ (s.slot s.arg.a).waited) :
    execWaitTimeout s = .next (s.takeTrap s.arg.a { cause := 0x06 } (s.slot s.arg.a).pc) := by
  have hover : s.waitOver s.arg.a = false := by
    unfold State.waitOver
    dsimp only
    rw [hh]
  have hretry : (s.slot s.arg.a).retrying = none := by
    unfold Slot.retrying
    rw [List.find?_eq_none]
    intro o _
    rw [hh]
    simp
  have htimeout : s.timeout s.arg.a = s.takeTrap s.arg.a { cause := 0x06 } (s.slot s.arg.a).pc := by
    unfold State.timeout
    dsimp only
    rw [hh]
  rw [execWaitTimeout_late hl hst hlim hover hretry, htimeout]

end

/-! ### A wait whose operation is withdrawn (R142) -/

section

variable {s : State} {k : Nat} {o : Op}

theorem State.sameJobs_unspill (id : Nat) : s.SameJobs (s.unspill k id) := .ite (State.SameJobs.refl s).setSpill (.refl s)

/-- The thread whose one operation is withdrawn: its registers stay, what its operation owed is no longer pending. -/
theorem State.slot_withdrawOp (ho : (s.slot k).ops = [o]) :
    (s.withdrawOp k o.id).slot k = (({ s.slot k with ops := [] } : Slot).mark o.dest false).markF o.flag false := by
  unfold State.withdrawOp
  rw [State.slot_modSlot_self, State.slot_modDie, State.sameJobs_unspill o.id |>.slot]
  rw [show ((s.withdrawArrival k o.id).modCrew (coreOf k) _).slot k = s.slot k from rfl, Slot.op_one _ _ ho]
  dsimp only
  rw [Slot.dropOp_one ho]

/-- What the trap of a thread leaves of it, whether or not its message finds room: only its state and its frame change where it has no operation (R137). -/
theorem State.slot_takeTrap_idle (s : State) (k : Nat) (tr : Trap) (pc : Word) (ho : (s.slot k).ops = []) :
    ((s.takeTrap k tr pc).slot k).st = .park ∧ ((s.takeTrap k tr pc).slot k).ops = [] ∧ ((s.takeTrap k tr pc).slot k).pendW = (s.slot k).pendW ∧
      ((s.takeTrap k tr pc).slot k).phys = (s.slot k).phys := by
  have hpark : ((s.parks k tr pc).slot k).st = .park ∧ ((s.parks k tr pc).slot k).ops = [] ∧ ((s.parks k tr pc).slot k).pendW = (s.slot k).pendW ∧
      ((s.parks k tr pc).slot k).phys = (s.slot k).phys := by
    rw [State.slot_parks_self]
    exact ⟨rfl, ho, rfl, rfl⟩
  obtain ⟨hst, hops, hpend, hphys⟩ := hpark
  by_cases h : s.posts k = true ∧ s.ringRoom (peerOfSlot k)
  · rw [State.slot_takeTrap_room s k tr pc h.1 h.2]
    split
    · exact ⟨hst, by rw [Slot.rung, hops]; rfl, hpend, hphys⟩
    · exact ⟨hst, hops, hpend, hphys⟩
  · rw [State.slot_takeTrap_held s k tr pc (by rw [not_and_or, Bool.not_eq_true] at h; exact h)]
    exact ⟨hst, hops, hpend, hphys⟩

/-- A thread whose operation waits at its core takes its trap with the operation withdrawn (R142). -/
theorem State.timeout_local (hh : (s.slot k).hold = .localOp o.id) (ho : (s.slot k).ops = [o]) :
    s.timeout k = (s.withdrawOp k o.id).takeTrap k { cause := 0x06, stream := o.stream, mask := o.mask, seq := o.seq } (s.slot k).pc := by
  have hlocal : (s.slot k).waitIsLocal o.id = true := by
    unfold Slot.waitIsLocal
    rw [hh, beq_self_eq_true]
    rfl
  unfold State.timeout
  dsimp only
  rw [hh]
  dsimp only
  rw [hlocal, Slot.op_one _ _ ho]
  rfl

theorem Slot.retrying_none {t : Slot} (ho : t.ops = [o]) (hk : o.kind ≠ .migr) : t.retrying = none := by
  unfold Slot.retrying
  rw [ho, List.find?_eq_none]
  intro p hp
  rw [List.mem_singleton.mp hp, beq_eq_false_iff_ne.mpr hk]
  exact Bool.false_ne_true

end

/-! ### A released SEMV (R185, R310) -/

section

variable {s : State} {k : Nat} {o : Op}

theorem Slot.earlier_one {t : Slot} (ho : t.ops = [o]) : t.earlier o.id = [] := by
  unfold Slot.earlier
  rw [ho, List.takeWhile_cons_of_neg (by simp)]

/-- A thread's only operation, held, begins once its mask is met; of a kind that no fault parks and that has no byte ranges of its own, it waits for nothing else. -/
theorem State.beginOp_one (ho : (s.slot k).ops = [o]) (hph : o.phase = .held) (hk : o.kind.parks = false) :
    s.beginOp k o.id = if (s.slot k).maskMet o then (s.beginKind k o).syncPair (coreOf k) else s := by
  have hfree : s.partsFree k o = true := by
    unfold State.partsFree
    rw [Slot.earlier_one ho, List.all_eq_true]
    exact fun _ _ => rfl
  unfold State.beginOp
  rw [Slot.op_one _ _ ho]
  dsimp only
  rw [hk, hfree]
  cases (s.slot k).maskMet o <;> simp [hph]

theorem State.unstick_held (ho : (s.slot k).ops = [o]) (hph : o.phase = .held) : s.unstick k o.id = s := by
  unfold State.unstick
  rw [Slot.op_one _ _ ho, Option.any_some, hph]
  rfl

/-- The release of a thread that runs alone and whose job is not being switched. -/
theorem execStreamRelease_alone (hl : (s.core (coreOf s.arg.a)).crew.bind.lockstep = false) (hb : (s.gang (peerOfSlot s.arg.a / 4) (s.slot s.arg.a).job).phase.bars = false) :
    execStreamRelease s = .next ((s.unstick s.arg.a s.arg.b).beginOp s.arg.a s.arg.b) := by
  unfold execStreamRelease
  dsimp only
  rw [hb, if_neg Bool.false_ne_true, State.twins_alone hl]
  exact if_neg fun h => nomatch h

/-- A core none of whose threads has an operation has no waiter. -/
theorem firstWaiter_idle {u : State} {c : Nat} (p : OpKind → Bool) (h : ∀ j, j < 8 → (u.slot (c * 8 + j)).ops = []) : firstWaiter u c p = none := by
  have hnil : ((List.range 8).flatMap fun i => ((u.slot (c * 8 + i)).ops.filter fun o => o.phase == .waiting && p o.kind).map fun o => (c * 8 + i, o)) = [] := by
    rw [List.flatMap_eq_nil_iff]
    intro i hi
    rw [h i (List.mem_range.mp hi)]
    rfl
  unfold firstWaiter
  dsimp only
  rw [hnil]
  rfl

/-- A SEMV of a thread that it does not hold counts one up to 255, where no thread of its core waits for one (R126, R310). -/
theorem State.beginSemv_alone {n : Nat} (hl : (s.core (coreOf k)).crew.bind.lockstep = false) (hf : (s.slot k).framed = false) (ho : (s.slot k).ops = [o]) (hd : o.dest = .none)
    (hfl : o.flag = none) (hh : (s.slot k).hold = .none) (hothers : ∀ j, j < 8 → coreOf k * 8 + j ≠ k → (s.slot (coreOf k * 8 + j)).ops = []) :
    s.beginSemv k o n = (s.modCrew (coreOf k) fun x => { x with
      sems := x.sems.set n (if (s.core (coreOf k)).crew.sems.get 0 n = 255 then 255 else (s.core (coreOf k)).crew.sems.get 0 n + 1) }).modSlot k fun t => { t with ops := [] } := by
  have hl' : ((s.modCrew (coreOf k) fun x => { x with
      sems := x.sems.set n (if (s.core (coreOf k)).crew.sems.get 0 n = 255 then 255 else (s.core (coreOf k)).crew.sems.get 0 n + 1) }).core (coreOf k)).crew.bind.lockstep = false := by
    rw [State.core_modCrew_self]
    exact hl
  refine State.beginSemv_of ((State.performed_wakes hl' ho hf ⟨hd, hfl, rfl⟩).trans (State.modSlot_congr ?_)) (firstWaiter_idle _ fun j hj => ?_)
  · unfold Slot.wake
    exact if_neg fun h => h.elim (fun h => nomatch hh.symm.trans h) (fun h => nomatch hh.symm.trans h)
  · by_cases hjk : coreOf k * 8 + j = k
    · rw [hjk, State.slot_modSlot_self]
    · rw [State.slot_modSlot_ne _ _ hjk]
      exact hothers j hj hjk

end

/-! ### A thread held in MIGR is sent (R133, R332) -/

section

variable {s : State} {k : Nat} {o : Op} {l : Leaf}

/-- Dword 1 + r of a packet's payload holds register r given (log entry 10). -/
theorem bits_taskPayload (flags : BitVec 8) (par : ParcelId) (regs : Nat → Word) {r : Nat} (hr : r < 24) :
    (bits (taskPayload flags par regs) (64 * (1 + r)) 64 : Word) = regs r := by
  have hsum : taskPayload flags par regs = dwordAt 0 ((0 : BitVec 1) ++ BitVec.ofNat 23 par.home ++ par.parcel ++ flags) |||
      (List.range 24).foldl (fun x i => x ||| dwordAt (1 + i) (regs i)) 0 |||
      dwordAt 25 par.org0 ||| dwordAt 26 par.org1 ||| dwordAt 27 par.org2 ||| dwordAt 28 par.len0 ||| dwordAt 29 par.len1 ||| dwordAt 30 par.len2 |||
      dwordAt 31 (BitVec.ofNat 64 par.launch) := rfl
  have hin : 1 + r < 32 := by omega
  rw [hsum]
  simp only [Laws.bits_or, bits_dwordAt _ _ hin, bits_foldl_dwordAt regs 24 hin]
  rw [if_neg (by omega), if_pos (by omega), if_neg (by omega), if_neg (by omega), if_neg (by omega), if_neg (by omega), if_neg (by omega), if_neg (by omega), if_neg (by omega),
    Nat.add_sub_cancel_left]
  simp

/-- The event of a MIGR whose target no interface refuses: its packet goes out, and the thread waits for the answer (R133). -/
theorem execMigrSend_sends (hl : (s.core (coreOf s.arg.a)).crew.bind.lockstep = false) (ho : (s.slot s.arg.a).ops = [o])
    (hb : (s.gang (peerOfSlot s.arg.a / 4) (s.slot s.arg.a).job).phase.bars = false) (hk : o.kind = .migr) (hph : o.phase = .held) (hh : (s.slot s.arg.a).hold = .localOp o.id)
    (hp : ((s.slot s.arg.a).markF o.flag false).noPending = true) (hr : (s.slot s.arg.a).replies = [])
    (ht : s.translateNow (coreOf s.arg.a) (s.slot s.arg.a).job o.a false = .ok l) (hhost : paPeer (l.pa o.a) ≠ hostPeer) (ha : s.accessRefused s.arg.a (l.pa o.a) = none)
    (hc : s.coreRefused s.arg.a (BitVec.ofNat 64 (s.migrTarget (s.slot s.arg.a).job o.a (l.pa o.a))) = none) :
    execMigrSend s = .next ((s.send (s.migrPacket s.arg.a o (s.migrTarget (s.slot s.arg.a).job o.a (l.pa o.a)))).modSlot s.arg.a fun t =>
      { ({ t with ops := [{ o with phase := .sent }] } : Slot).markF o.flag true with hold := .reply o.id }) := by
  unfold execMigrSend
  dsimp only
  rw [ho]
  dsimp only
  rw [if_pos ⟨by rw [hb]; exact Bool.false_ne_true, hk, hph, hh, hp, hr⟩, ht]
  dsimp only
  rw [ha, if_neg hhost, ite_self]
  dsimp only
  rw [hc]
  dsimp only
  rw [State.twins_alone hl, List.foldl_cons, List.foldl_nil, State.setPhase, State.modSlot_modSlot]
  refine congrArg Host.Outcome.next (State.modSlot_congr ?_)
  rw [Slot.modOp_one (t := (s.send _).slot s.arg.a) ho]

end

/-! ### Reading memory at its home: of the dies it reads the directories and the coherence messages alone (R150, R162) -/

/-- The dies as given, all else as it was. -/
def State.withDies (s : State) (ds : NMap Die) : State := { s with dies := ds }

/-- One state differs from another in its dies alone. -/
def State.ButDies (s t : State) : Prop := ∃ ds, t = s.withDies ds

section

variable (s : State) (ds : NMap Die)

/-- Steps over a list that each commute with the dies' update commute with it together. -/
theorem State.foldl_withDies {α : Type} {f : State → α → State} (hf : ∀ t x, f (t.withDies ds) x = (f t x).withDies ds) (l : List α) :
    l.foldl f (s.withDies ds) = (l.foldl f s).withDies ds := by
  induction l generalizing s with
  | nil => rfl
  | cons x l ih => rw [List.foldl_cons, List.foldl_cons, hf, ih]

theorem State.memWrite_withDies {w : Nat} (a n : Nat) (v : BitVec w) : (s.withDies ds).memWrite a n v = (s.memWrite a n v).withDies ds := rfl

theorem State.writeSectors_withDies (l : Nat) (m : BitVec 2) (d : BitVec 2048) (f p : BitVec 32) :
    (s.withDies ds).writeSectors l m d f p = (s.writeSectors l m d f p).withDies ds := by
  unfold State.writeSectors
  rw [State.foldl_withDies]
  intro t j
  split
  · rw [State.memWrite_withDies, State.foldl_withDies]
    exact fun _ _ => rfl
  · rfl

theorem State.pullRegionLine_withDies (c i l : Nat) (keep : Bool) : (s.withDies ds).pullRegionLine c i l keep = (s.pullRegionLine c i l keep).withDies ds := by
  unfold State.pullRegionLine
  dsimp only
  rw [show (s.withDies ds).region c i = s.region c i from rfl, State.foldl_withDies]
  · rfl
  · intro t h
    split
    · rw [show (t.withDies ds).line (quadOf c) l = t.line (quadOf c) l from rfl]
      cases t.line (quadOf c) l with
      | none => exact State.writeSectors_withDies t ds _ _ _ _ _
      | some x =>
        dsimp only
        split
        · rfl
        · exact State.writeSectors_withDies (t.setLine _ _ _) ds _ _ _ _ _
    · rfl

theorem State.pullQuadLine_withDies (q l : Nat) (keep : Bool) : (s.withDies ds).pullQuadLine q l keep = (s.pullQuadLine q l keep).withDies ds := by
  unfold State.pullQuadLine
  rw [State.foldl_withDies]
  intro t c
  rw [State.foldl_withDies]
  intro u i
  rw [show (u.withDies ds).regionHolds (q * 4 + c) i l = u.regionHolds (q * 4 + c) i l from rfl, State.pullRegionLine_withDies]
  exact (apply_ite (State.withDies · ds) _ _ _).symm

end

namespace State.ButDies

variable {s t : State}

theorem of_modDie (p : Nat) (f : Die → Die) : s.ButDies (s.modDie p f) := ⟨_, rfl⟩

theorem modDie (h : s.ButDies t) (p : Nat) (f g : Die → Die) : (s.modDie p f).ButDies (t.modDie p g) := by
  obtain ⟨ds, rfl⟩ := h
  exact ⟨_, rfl⟩

theorem foldl {α : Type} {f g : State → α → State} (hf : ∀ s t x, s.ButDies t → (f s x).ButDies (g t x)) (l : List α) (h : s.ButDies t) : (l.foldl f s).ButDies (l.foldl g t) := by
  induction l generalizing s t with
  | nil => exact h
  | cons x l ih => exact ih (hf _ _ x h)

/-- One quad's copy of a line taken to its home. -/
theorem pullQuadLine (h : s.ButDies t) (q l : Nat) (keep : Bool) : (s.pullQuadLine q l keep).ButDies (t.pullQuadLine q l keep) := by
  obtain ⟨ds, rfl⟩ := h
  exact ⟨ds, State.pullQuadLine_withDies s ds q l keep⟩

theorem writeSectors (h : s.ButDies t) (l : Nat) (m : BitVec 2) (d : BitVec 2048) (f p : BitVec 32) : (s.writeSectors l m d f p).ButDies (t.writeSectors l m d f p) := by
  obtain ⟨ds, rfl⟩ := h
  exact ⟨ds, State.writeSectors_withDies s ds l m d f p⟩

theorem setLine (h : s.ButDies t) (q l : Nat) (x : Line) : (s.setLine q l x).ButDies (t.setLine q l x) := by
  obtain ⟨ds, rfl⟩ := h
  exact ⟨ds, rfl⟩

theorem line (h : s.ButDies t) (q l : Nat) : t.line q l = s.line q l := by
  obtain ⟨ds, rfl⟩ := h
  rfl

theorem holders (h : s.ButDies t) (p l : Nat) : t.holders p l = s.holders p l := by
  obtain ⟨ds, rfl⟩ := h
  rfl

theorem word (h : s.ButDies t) (a : Nat) : t.word a = s.word a := by
  obtain ⟨ds, rfl⟩ := h
  rfl

theorem settleLine (h : s.ButDies t) (l : Nat) (hfree : t.lineFree l = s.lineFree l) : (s.settleLine l).ButDies (t.settleLine l) := by
  obtain ⟨ds, rfl⟩ := h
  unfold State.settleLine
  rw [hfree]
  split
  · exact ⟨ds, rfl⟩
  · exact ⟨_, rfl⟩

theorem homeClean (h : s.ButDies t) (l : Nat) (hfree : t.lineFree l = s.lineFree l) : (s.homeClean l).ButDies (t.homeClean l) := by
  have hs := h.settleLine l hfree
  unfold State.homeClean
  rw [hs.holders]
  refine hs.foldl (fun u v q hu => ?_) _
  have hp := hu.pullQuadLine q l false
  dsimp only
  rw [hp.line]
  cases (u.pullQuadLine q l false).line q l with
  | none => exact hp
  | some x =>
    dsimp only
    split
    · exact ((hp.writeSectors l _ _ _ _).setLine q l _).modDie _ _ _
    · exact hp

end State.ButDies

section

variable (s : State) (p : Nat) (f : Die → Die)

theorem State.agentWord_modDie (hdir : ∀ d, (f d).dir = d.dir) (hcoh : ∀ d, (f d).coh = d.coh) (a : Nat) : (s.modDie p f).agentWord a = s.agentWord a := by
  have hdirs : ∀ q, ((s.modDie p f).die q).dir = (s.die q).dir := fun q => by
    rw [State.die_modDie]
    split
    · next h => rw [hdir, h]
    · rfl
  have hcohs : ∀ q, ((s.modDie p f).die q).coh = (s.die q).coh := fun q => by
    rw [State.die_modDie]
    split
    · next h => rw [hcoh, h]
    · rfl
  have hfree : (s.modDie p f).lineFree (a / 256) = s.lineFree (a / 256) := by
    unfold State.lineFree State.lineIdle State.dirEntry
    rw [hdirs, hcohs]
  exact ((State.ButDies.of_modDie p f).homeClean (a / 256) hfree).word a

theorem State.walkFrom_modDie (hdir : ∀ d, (f d).dir = d.dir) (hcoh : ∀ d, (f d).coh = d.coh) (hpeer : ∀ d, (f d).peerState = d.peerState) (peer : Nat) (va : Word) (write fetch : Bool)
    (ls : List (Nat × Nat × Bool × Bool)) (table : Nat) : walkFrom (s.modDie p f) peer va write fetch ls table = walkFrom s peer va write fetch ls table := by
  have hleaf : ∀ l, leafCheck (s.modDie p f) peer l write fetch = leafCheck s peer l write fetch := fun l => by
    have hp : ((s.modDie p f).die peer).peerState = (s.die peer).peerState := by
      rw [State.die_modDie]
      split
      · next h => rw [hpeer, h]
      · rfl
    unfold leafCheck
    rw [hp]
  induction ls generalizing table with
  | nil => rfl
  | cons e ls ih =>
    obtain ⟨lo, w, leafOk, tableOk⟩ := e
    unfold walkFrom
    simp only [State.agentWord_modDie s p f hdir hcoh, ih, hleaf]

/-- A walk reads of its die the table's root and what the peers are, and of the homes their lines (R150, R152). -/
theorem State.walk_modDie (hdir : ∀ d, (f d).dir = d.dir) (hcoh : ∀ d, (f d).coh = d.coh) (hpeer : ∀ d, (f d).peerState = d.peerState) (hroot : ∀ d, (f d).jroot = d.jroot)
    (peer : Nat) (job : BitVec 12) (va : Word) (write fetch : Bool) : walk (s.modDie p f) peer job va write fetch = walk s peer job va write fetch := by
  have hr : ((s.modDie p f).die peer).jroot = (s.die peer).jroot := by
    rw [State.die_modDie]
    split
    · next h => rw [hroot, h]
    · rfl
  unfold walk
  simp only [hr, State.walkFrom_modDie s p f hdir hcoh hpeer]

end

/-! ### The end of a walk (R152, R153) -/

section

variable {s : State} {w : Walk} {l : Leaf}

theorem State.sharesWalk_self (s : State) (w : Walk) : s.sharesWalk w w = true := by
  unfold State.sharesWalk
  simp

/-- The entry by which the TLBs hold a page's translation (R153). -/
def Leaf.entry (l : Leaf) (job : BitVec 12) (va : Word) : Tlb :=
  { job := job, page := va.toNat % 2 ^ 57 / 2 ^ l.shift, shift := l.shift, frame := l.frame, x := l.x, w := l.w, nc := l.nc, geo := l.geo, fmt := l.fmt }

/-- What both TLBs hold first is found (R153). -/
theorem State.tlbFind_tlbPut (s : State) (c : Nat) (job : BitVec 12) (va : Word) (l : Leaf) : (s.tlbPut c job va l).tlbFind c job va = some l := by
  have hutlb : ((s.tlbPut c job va l).core c).utlb = (l.entry job va :: (s.core c).utlb).take 32 := by
    unfold State.tlbPut
    dsimp only
    rw [State.core_modQuad, State.core_modCore_self]
    rfl
  unfold State.tlbFind
  rw [hutlb, List.take_succ_cons, List.cons_append, List.find?_cons_of_pos (by simp [Leaf.entry])]
  rfl

/-- A precise request, of an instruction that has not issued, is served by its translation alone (R155). -/
theorem State.serveWalk_precise (hw : walk s (peerOf w.quad) w.job w.va w.write w.fetch = .ok l) (hp : w.part = precisePart) :
    s.serveWalk w = s.tlbPut (coreOf w.slot) w.job w.va l := by
  unfold State.serveWalk
  dsimp only
  rw [hw]
  exact if_pos hp

/-- A die none of whose walks goes on. -/
def Die.noWalks (d : Die) : Die := { d with walks := [], walkQueue := [] }

/-- The only walk of its die ends: its translation is installed. -/
theorem execWalkComplete_one (hws : (s.die s.arg.a).walks = [w]) (hq : (s.die s.arg.a).walkQueue = []) (hb : s.arg.b = 0) (hpeer : peerOf w.quad = s.arg.a) (hp : w.part = precisePart)
    (hw : walk s s.arg.a w.job w.va w.write w.fetch = .ok l) (hg : (s.gang (s.arg.a / 4) w.job).phase.bars = false) :
    execWalkComplete s = .next ((s.modDie s.arg.a Die.noWalks).tlbPut (coreOf w.slot) w.job w.va l) := by
  have hserve : ∀ f, State.walkServable (s.modDie s.arg.a f) w = true := fun f => by
    unfold State.walkServable
    rw [hpeer, show (s.modDie s.arg.a f).gang (s.arg.a / 4) w.job = s.gang (s.arg.a / 4) w.job from rfl, hg]
    rfl
  have hserve' : s.walkServable w = true := by
    unfold State.walkServable
    rw [hpeer, hg]
    rfl
  have hwalk : walk (s.modDie s.arg.a Die.noWalks) (peerOf w.quad) w.job w.va w.write w.fetch = .ok l := by
    rw [State.walk_modDie s s.arg.a Die.noWalks (fun _ => rfl) (fun _ => rfl) (fun _ => rfl) (fun _ => rfl), hpeer, hw]
  have hshare : [w].filter (s.sharesWalk w) = [w] := by rw [List.filter_cons_of_pos (s.sharesWalk_self w), List.filter_nil]
  have hothers : [w].filter (fun v => !s.sharesWalk w v) = [] := by rw [List.filter_cons_of_neg (by rw [s.sharesWalk_self w]; exact Bool.false_ne_true), List.filter_nil]
  have hleft : (s.modDie s.arg.a fun d => { d with walks := d.walks.filter fun v => !s.sharesWalk w v, walkQueue := [] }) =
      s.modDie s.arg.a Die.noWalks := by
    unfold State.modDie Die.noWalks
    dsimp only
    rw [hws, hothers]
  unfold execWalkComplete
  dsimp only
  rw [hws, hb, List.getElem?_cons_zero, hq]
  dsimp only
  rw [hserve', if_pos rfl, List.append_nil, hshare, List.filter_nil, List.foldl_nil, hleft, List.foldl_cons, List.foldl_nil, hserve, if_pos rfl]
  rw [State.serveWalk_precise hwalk hp]

end

/-! ### The end of an SVC's operation (R282, R283) -/

section

variable {s : State} {c off : Nat}

theorem State.stashCure_eq (s : State) (c off n : Nat) : ∃ m, s.stashCure c off n = { s with stashPoison := m } := by
  unfold State.stashCure
  split
  · exact ⟨_, rfl⟩
  · refine foldl_keeps (P := fun u : State => ∃ m, u = { s with stashPoison := m }) (fun u i h => ?_) _ _ ⟨_, rfl⟩
    obtain ⟨m, rfl⟩ := h
    split
    · exact ⟨_, rfl⟩
    · exact ⟨m, rfl⟩

/-- A word of a plain region of a stash filled, for which none waits (R282): of the machine the stash's bytes, the word's bit and its poison may change. -/
theorem State.stashFill_plain (v : Word) (hb : s.boundHere c off = none) (hw : s.stashWaiters c off = []) : ∃ m,
    s.stashFill c off v = { s with stash := s.stash.writeN (stashKey c off) 8 v, stashEmpty := s.stashEmpty.put (stashKey c (off / 8 * 8)) false, stashPoison := m } := by
  obtain ⟨m, hm⟩ := State.stashCure_eq (s.stashWrite c off 8 v) c off 8
  have hstore : s.stashStore c off 8 v = { s with stash := s.stash.writeN (stashKey c off) 8 v, stashPoison := m } := by
    unfold State.stashStore State.stashTouch
    rw [hb]
    dsimp only
    rw [stashDirty_plain 8 hb, hm]
    rfl
  refine ⟨m, ?_⟩
  unfold State.stashFill
  rw [hstore]
  unfold State.stashRetry
  rw [show (State.setStashFull { s with stash := s.stash.writeN (stashKey c off) 8 v, stashPoison := m } c off true).stashWaiters c off = s.stashWaiters c off from rfl, hw]
  rfl

theorem State.svcWord_plain {v : SvcOp} {code : BitVec 8} (hwc : v.wc ≠ 0) (hp : localPlace v.core v.wc = .stash c off) :
    s.svcWord v code = s.stashFill c off ((0 : BitVec 20) ++ v.op ++ (0 : BitVec 24) ++ code) := by
  unfold State.svcWord
  rw [if_neg hwc, hp]

theorem execSvcCompletion_ends {v : SvcOp} {code : BitVec 8} (hv : (s.die s.arg.a).svcs[s.arg.b]? = some v) (hc : v.code = some code) :
    execSvcCompletion s = .next ((s.modDie s.arg.a fun d => { d with svcs := d.svcs.eraseIdx s.arg.b }).svcWord v code) := by
  have hends : s.svcEnds v = some code := by
    unfold State.svcEnds
    rw [hc]
  unfold execSvcCompletion
  rw [hv]
  dsimp only
  rw [hends]
  rfl

end

/-! ### O45 -/

/-- A thread whose operation waits at its core past its limit parks with the operation withdrawn (R142). -/
theorem execWaitTimeout_withdraws {s : State} {o : Op} {p : Nat} (hl : (s.core (coreOf s.arg.a)).crew.bind.lockstep = false) (hst : (s.slot s.arg.a).st = .wait)
    (hh : (s.slot s.arg.a).hold = .localOp o.id) (hover : s.waitOver s.arg.a = false) (ho : (s.slot s.arg.a).ops = [o]) (hk : o.kind ≠ .migr) (hd : o.dest = .reg p)
    (hfl : o.flag = none) (hlim : max 1 (s.slot s.arg.a).wto.toNat ≤ (s.slot s.arg.a).waited) :
    ∃ u, execWaitTimeout s = .next u ∧ (u.slot s.arg.a).st = .park ∧ (u.slot s.arg.a).ops = [] ∧ (u.slot s.arg.a).pendW = putBits (s.slot s.arg.a).pendW p (0 : BitVec 1) ∧
      (u.slot s.arg.a).phys = (s.slot s.arg.a).phys ∧ (u.slot s.arg.a).frame.get 0 0 = (s.slot s.arg.a).pc ∧ (bits ((u.slot s.arg.a).frame.get 0 1) 0 8 : BitVec 8) = 0x06 := by
  have hleft : (s.withdrawOp s.arg.a o.id).slot s.arg.a = { s.slot s.arg.a with ops := [], pendW := putBits (s.slot s.arg.a).pendW p (0 : BitVec 1) } := by
    rw [State.slot_withdrawOp ho, hd, hfl]
    rfl
  refine ⟨_, (execWaitTimeout_late hl hst hlim hover (Slot.retrying_none ho hk)).trans (congrArg Host.Outcome.next (State.timeout_local hh ho)), ?_⟩
  obtain ⟨hpark, hops, hpend, hphys⟩ := State.slot_takeTrap_idle (s.withdrawOp s.arg.a o.id) s.arg.a { cause := 0x06, stream := o.stream, mask := o.mask, seq := o.seq } (s.slot s.arg.a).pc
    (by rw [hleft])
  rw [hleft] at hpend hphys
  refine ⟨hpark, hops, hpend, hphys, ?_, ?_⟩
  · rw [State.frame_takeTrap, contextOf_get _ _ _ _ (by decide)]
    rfl
  · rw [State.frame_takeTrap, contextOf_get _ _ _ _ (by decide)]
    exact bits_append_self _ _

/-- Settles O45, from the lemma for each event. -/
theorem threadEvents : Obligations.ThreadEvents := by
  intro s k t
  refine ⟨fun hp hz hl => ?_, fun w l hws hq hb hpeer hquad hpart hw hg => ?_, fun v code hv hc => ⟨fun hwc => ?_, fun c off hwc hpl hoff hb hws hok _ => ?_⟩⟩
  · have hf : (s.slot s.arg.a).framed = false := Slot.framed_eq_false hp hz
    refine ⟨fun r p id hr hd hfl hz hw => ?_, ?_, fun i c hh hst hw => execScopeSet_sets hl hh hst hw,
      fun hst hh hlim => execWaitTimeout_reissue hl hst hh hlim, fun h => execWaitTimeout_early h,
      fun o p hst hh hover ho hk hd hfl hlim => execWaitTimeout_withdraws hl hst hh hover ho hk hd hfl hlim,
      ?_, ?_⟩
    · refine (execReply_alone hl).trans (congrArg Host.Outcome.next ((State.takeReplyAt_free hr hf hz).trans (State.modSlot_congr ?_)))
      exact Slot.takeReply_reg _ hd hfl hw
    · intro hst ho hr hpend b hv hj hla hpa
      refine (execExitDrained_free hl hst ho hr hpend).trans (congrArg Host.Outcome.next (State.addLive_home false hv ?_))
      unfold Bind.counts
      rw [State.core_modSlot, beq_iff_eq.mpr hj, beq_iff_eq.mpr hla, beq_iff_eq.mpr hpa]
      rfl
    · intro o n hb ho hk hph hd hfl hid hh hothers v
      have hbegin : execStreamRelease s = .next (if (s.slot s.arg.a).maskMet o then (s.beginSemv s.arg.a o n).syncPair (coreOf s.arg.a) else s) := by
        have hkind : s.beginKind s.arg.a o = s.beginSemv s.arg.a o n := by
          unfold State.beginKind
          rw [hk]
        rw [execStreamRelease_alone hl hb, hid, State.unstick_held ho hph, State.beginOp_one ho hph (by rw [hk]; rfl), hkind]
      refine ⟨fun hm => hbegin.trans ?_, fun hm => hbegin.trans ?_⟩
      · rw [if_pos hm, State.beginSemv_alone hl hf ho hd hfl hh hothers]
        exact congrArg Host.Outcome.next (State.syncPair_of_alone (by rw [State.core_modSlot, State.core_modCrew_self]; exact hl))
      · rw [if_neg (by rw [show (s.slot s.arg.a).maskMet o = false from hm]; exact Bool.false_ne_true)]
    · intro o l f ho hb hk hph hfl hh hpend hr htr hhost ha c hc
      refine ⟨_, _, execMigrSend_sends hl ho hb hk hph hh (by rw [hfl]; exact hpend) hr htr hhost ha hc, rfl, rfl, rfl, rfl, rfl, fun r hr => bits_taskPayload _ _ _ hr, ?_, ?_⟩
      · rw [State.slot_modSlot_self]
      · rw [State.slot_modSlot_self, hfl]
        rfl
  · have hp : w.part = precisePart := hpart
    refine ⟨_, execWalkComplete_one hws hq hb hpeer hp hw hg, ?_, rfl, rfl, State.tlbFind_tlbPut _ _ _ _ _⟩
    exact congrArg Die.walks (State.die_modDie_self s s.arg.a Die.noWalks)
  · refine (execSvcCompletion_ends hv hc).trans (congrArg Host.Outcome.next ?_)
    unfold State.svcWord
    exact if_pos hwc
  · obtain ⟨m, hm⟩ := State.stashFill_plain (s := s.modDie s.arg.a fun d => { d with svcs := d.svcs.eraseIdx s.arg.b }) ((0 : BitVec 20) ++ v.op ++ (0 : BitVec 24) ++ code) hb hws
    refine ⟨_, (execSvcCompletion_ends hv hc).trans (congrArg Host.Outcome.next ((State.svcWord_plain hwc hpl).trans hm)), ?_, ?_, rfl, rfl⟩
    · exact (Cells.readN_writeN _ _ _ ((State.memoryOk_iff s).mp hok).2.1).trans (BitVec.setWidth_eq _)
    · unfold State.stashFull
      rw [NSet.mem_put, if_pos rfl]
      rfl

end Sys2Proof.Machine

end

section

/-! # Masks, comparisons into them and interpolation tables (O36) -/

namespace Sys2Proof.Machine

/-! ### Bits and lanes -/

/-- One bit put in a word. -/
theorem getLsbD_putBits_one {n : Nat} (x : BitVec n) {i j : Nat} (hj : j < n) (b : Bool) : (putBits x i (b1 b)).getLsbD j = if j = i then b else x.getLsbD j := by
  have hb : ∀ m, (b1 b).getLsbD m = (decide (m = 0) && b) := fun m => by
    cases b <;> cases m <;> simp [b1]
  have hone : ∀ m, (BitVec.allOnes 1).getLsbD m = decide (m = 0) := fun m => by
    cases m <;> simp
  unfold putBits
  simp only [BitVec.getLsbD_or, BitVec.getLsbD_and, BitVec.getLsbD_not, BitVec.getLsbD_shiftLeft, BitVec.getLsbD_setWidth, hj, decide_true, Bool.true_and, hb, hone]
  rcases Nat.lt_trichotomy j i with h | h | h
  · simp [h, h.ne]
  · subst h
    simp [Nat.zero_lt_of_lt hj]
  · simp [h.ne', Nat.not_lt.mpr h.le, show j - i ≠ 0 by omega]

/-- The lanes that a mask enables set to a condition's bits, the others as they were (R342). -/
def maskedBits (on old : BitVec 16) (c : Nat → Bool) (n : Nat) : BitVec 16 :=
  (List.range n).foldl (fun x l => if on.getLsbD l then putBits x l (b1 (c l)) else x) old

theorem getLsbD_maskedBits (on old : BitVec 16) (c : Nat → Bool) (n : Nat) {j : Nat} (hj : j < 16) :
    (maskedBits on old c n).getLsbD j = if j < n ∧ on.getLsbD j = true then c j else old.getLsbD j := by
  induction n with
  | zero =>
    rw [if_neg fun h => Nat.not_lt_zero j h.1]
    rfl
  | succ n ih =>
    have hstep : maskedBits on old c (n + 1) = if on.getLsbD n then putBits (maskedBits on old c n) n (b1 (c n)) else maskedBits on old c n := by
      unfold maskedBits
      rw [List.range_succ, List.foldl_append, List.foldl_cons, List.foldl_nil]
    rw [hstep]
    by_cases hjn : j = n
    · subst hjn
      by_cases hon : on.getLsbD j = true
      · rw [if_pos hon, getLsbD_putBits_one _ hj, if_pos rfl, if_pos ⟨Nat.lt_succ_self j, hon⟩]
      · rw [if_neg hon, ih, if_neg fun h => hon h.2, if_neg fun h => hon h.2]
    · have hkeep : (if on.getLsbD n then putBits (maskedBits on old c n) n (b1 (c n)) else maskedBits on old c n).getLsbD j = (maskedBits on old c n).getLsbD j := by
        split
        · rw [getLsbD_putBits_one _ hj, if_neg hjn]
        · rfl
      rw [hkeep, ih]
      exact if_congr (and_congr_left fun _ => by omega) rfl rfl

/-- A vector built lane by lane has those lanes. -/
theorem lane_vecOf (f : Nat → BitVec 32) {l : Nat} (hl : l < 16) : lane (vecOf f) l = f l := by
  apply BitVec.eq_of_getLsbD_eq
  intro j hj
  unfold lane vecOf
  rw [bits, BitVec.getLsbD_extractLsb', getLsbD_foldl_or]
  have hbit : ∀ i, ((f i).setWidth 512 <<< (32 * i)).getLsbD (32 * l + j) = (decide (i = l) && (f i).getLsbD j) := fun i => by
    rw [BitVec.getLsbD_shiftLeft, BitVec.getLsbD_setWidth]
    rcases Nat.lt_trichotomy i l with h | h | h
    · rw [BitVec.getLsbD_of_ge (f i) _ (by omega)]
      simp [h.ne]
    · subst h
      simp [show 32 * i + j < 512 by omega, show j < 512 by omega]
    · simp [h.ne', show 32 * l + j < 32 * i by omega]
  simp only [hbit, hj, decide_true, Bool.true_and, BitVec.ofNat_eq_ofNat, BitVec.getLsbD_zero, Bool.false_or]
  rw [Bool.eq_iff_iff, List.any_eq_true]
  constructor
  · rintro ⟨i, -, hi⟩
    obtain ⟨he, hv⟩ := Bool.and_eq_true_iff.mp hi
    rw [← of_decide_eq_true he]
    exact hv
  · exact fun h => ⟨l, List.mem_range.mpr hl, by rw [h, decide_eq_true rfl]; rfl⟩

theorem lane_vecMasked (m : BitVec 16) (old : Vec) (f : Nat → BitVec 32) {l : Nat} (hl : l < 16) :
    lane (vecMasked m old f) l = if m.getLsbD l then f l else lane old l := lane_vecOf _ hl

/-- The population count of a mask counts its set bits (R352). -/
theorem popcount_eq (x : BitVec 16) : popcount x = BitVec.ofNat 64 ((List.range 16).filter fun i => x.getLsbD i).length := by
  unfold popcount
  rw [List.countP_eq_length_filter]

/-- The first place for which a condition holds. -/
theorem firstFrom_zero (n : Nat) (p : Nat → Bool) : (firstFrom n 0 p).getD n ≤ n ∧ (∀ i, i < (firstFrom n 0 p).getD n → p i = false) ∧
    ((firstFrom n 0 p).getD n < n → p ((firstFrom n 0 p).getD n) = true) := by
  have hfind : firstFrom n 0 p = (List.range n).find? p := by
    unfold firstFrom
    rw [show (fun x => x + 0) = (id : Nat → Nat) from rfl, List.map_id]
  rw [hfind]
  cases h : (List.range n).find? p with
  | none =>
    refine ⟨le_refl n, fun i hi => ?_, fun h => absurd h (Nat.lt_irrefl n)⟩
    exact Bool.eq_false_iff.mpr (List.find?_eq_none.mp h i (List.mem_range.mpr hi))
  | some i =>
    obtain ⟨hp, hin, hlt⟩ := List.find?_range_eq_some.mp h
    exact ⟨(List.mem_range.mp hin).le, fun j hj => by simpa using hlt j hj, fun _ => hp⟩

/-! ### What an instruction leaves that writes a mask, a flag or a vector register -/

section

variable {s : State} {i : Instr} {u : Uses}

theorem Slot.k_setK_self (t : Slot) {r : Nat} (x : BitVec 16) (h : r ≠ 0) : (t.setK r x).k r = x := by
  unfold Slot.setK Slot.k
  rw [if_neg h, if_neg h]
  exact NMap.get_set_self _ _ _ _

theorem Slot.k_setK_ne (t : Slot) {r j : Nat} (x : BitVec 16) (h : j ≠ r) : (t.setK r x).k j = t.k j := by
  unfold Slot.setK
  split
  · rfl
  · exact congrArg (fun y => if j = 0 then 0xFFFF else y) (NMap.get_set_ne _ _ _ h)

theorem State.modMe_done (s : State) (f : Slot → Slot) (i : Instr) : (s.modMe f).done i = s.withMe ((f s.me).advance (ilen i)) := by
  unfold State.done
  rw [State.modMe_eq_withMe s, State.withMe_modMe]

/-- A mask written, then the next instruction's address: as `GivesK` says. -/
theorem setK_done (s : State) (i : Instr) {r : Nat} (x : BitVec 16) (h : r ≠ 0) : ((s.modMe (·.setK r x)).done i).me.k r = x ∧
    (∀ j, j ≠ r → ((s.modMe (·.setK r x)).done i).me.k j = s.me.k j) ∧
    (s.modMe (·.setK r x)).done i = s.withMe { s.me.advance (ilen i) with kregs := ((s.modMe (·.setK r x)).done i).me.kregs } := by
  rw [State.modMe_done, State.me_withMe]
  refine ⟨Slot.k_setK_self s.me x h, fun j hj => Slot.k_setK_ne s.me x hj, congrArg s.withMe ?_⟩
  unfold Slot.setK
  rw [if_neg h]
  rfl

theorem gives_maskOp {d : BitVec 3} {regs : List (BitVec 5)} {v : BitVec 16} (he : exec i s = s.maskOp i d regs v) (hd : d ≠ 0) (hw : wellFormed i = true)
    (hb : s.me.busy { regs := regs } = false) : GivesK s i d v := by
  have h0 : d.toNat ≠ 0 := fun h => hd (BitVec.eq_of_toNat_eq h)
  obtain ⟨hself, hother, heq⟩ := setK_done s i v h0
  exact ⟨_, he.trans (issue_ok hw hb), hself, hother, heq⟩

theorem traps_maskOp {d : BitVec 3} {regs : List (BitVec 5)} {v : BitVec 16} (he : exec i s = s.maskOp i d regs v) (hw : wellFormed i = false) :
    Traps s i 0x01 0 (zx (encode i)) := traps_illegal he hw

/-- A flag written by an instruction that reads no flag (R352). -/
theorem gives_setF {f : BitVec 3} {b : Bool} (he : exec i s = s.issue i u fun s => (s.modMe fun t => t.setF f b).done i) (hl : ilen i = 4) (hw : wellFormed i = true)
    (hb : s.me.busy u = false) : GivesFlag s i f b := by
  refine ⟨_, he.trans (issue_ok hw hb), ?_, fun g hg => ?_, ?_⟩
  · rw [State.modMe_done, State.me_withMe]
    exact Slot.f_setF_self _ _ _
  · rw [State.modMe_done, State.me_withMe]
    exact Slot.f_setF_ne _ _ hg
  · rw [State.modMe_done, State.me_withMe, hl]
    rfl

theorem Slot.v_setV (t : Slot) (r j : Nat) (x : Vec) : (t.setV r x).v j = if j = r then x else t.v j := NMap.get_set _ _ _ _ _

/-- A vector register written lane by lane under a mask, the flags of its lanes ORed into sr.fsf (R211, R335). -/
theorem gives_vector {d : BitVec 4} {m : BitVec 16} {f g : Nat → BitVec 32 × BitVec 6} (he : exec i s = .next
      (((s.modMe fun t => t.setV d.toNat (vecMasked m (t.v d.toNat) fun l => (f l).1)).done i).orFlags s.cur
        ((List.range 16).foldl (fun y l => if m.getLsbD l then y ||| (f l).2 else y) 0)))
    (hq : ∀ g, s.quiet g) (hfg : ∀ l, f l = g l) : GivesV s i d m g := by
  obtain rfl : f = g := funext hfg
  have hquiet : ∀ y, (s.withMe ((s.me.setV d.toNat (vecMasked m (s.me.v d.toNat) fun l => (f l).1)).advance (ilen i))).quiet y := fun y => by
    have := hq y
    unfold State.quiet at this ⊢
    rw [State.me_withMe]
    exact this
  rw [State.modMe_done] at he
  have hor := orFlags_quiet _ _ (hquiet ((List.range 16).foldl (fun y l => if m.getLsbD l then y ||| (f l).2 else y) 0))
  rw [State.withMe_cur] at hor
  rw [hor, State.withMe_modMe] at he
  refine ⟨_, he, fun l hl => ?_, fun r hr => ?_, ?_⟩
  · rw [State.me_withMe]
    refine (congrArg (fun x => lane x l) ((Slot.v_setV s.me d.toNat d.toNat _).trans (if_pos rfl))).trans (lane_vecMasked _ _ _ hl)
  · rw [State.me_withMe]
    exact (Slot.v_setV s.me d.toNat r _).trans (if_neg hr)
  · rw [State.me_withMe]
    rfl

end

/-! ### Tables in a stash (R353 to R358) -/

/-- The first n words that a function gives, written from an address on. -/
def Cells.writeWords (m : Cells) (a : Nat) (f : Nat → BitVec 32) (n : Nat) : Cells := (List.range n).foldl (fun m l => m.writeN (a + 4 * l) 4 (f l)) m

theorem Cells.writeWords_succ (m : Cells) (a : Nat) (f : Nat → BitVec 32) (n : Nat) : Cells.writeWords m a f (n + 1) = (Cells.writeWords m a f n).writeN (a + 4 * n) 4 (f n) := by
  unfold Cells.writeWords
  rw [List.range_succ, List.foldl_append]
  rfl

theorem Cells.wf_writeWords {m : Cells} (a : Nat) (f : Nat → BitVec 32) (n : Nat) (h : m.wf = true) : (Cells.writeWords m a f n).wf = true :=
  foldl_keeps (P := fun m : Cells => m.wf = true) (fun _ _ => Cells.wf_writeN _ _ _) _ _ h

theorem Cells.read_writeWords_out (m : Cells) (a : Nat) (f : Nat → BitVec 32) (n : Nat) {k : Nat} (h : k < a ∨ a + 4 * n ≤ k) :
    (Cells.writeWords m a f n).read k = m.read k := by
  induction n with
  | zero => rfl
  | succ n ih => rw [Cells.writeWords_succ, Cells.read_writeN_out _ _ _ _ _ (by omega), ih (by omega)]

theorem Cells.readN_writeWords {m : Cells} (a : Nat) (f : Nat → BitVec 32) {n j : Nat} (hj : j < n) (h : m.wf = true) :
    (Cells.writeWords m a f n).readN (a + 4 * j) 4 = f j := by
  induction n with
  | zero => exact absurd hj (Nat.not_lt_zero j)
  | succ n ih =>
    rw [Cells.writeWords_succ]
    by_cases hn : j = n
    · subst hn
      rw [Cells.readN_writeN _ _ _ (Cells.wf_writeWords a f j h), BitVec.setWidth_eq]
    · rw [Cells.readN_congr _ _ _ _ fun i hi => Cells.read_writeN_out _ _ _ _ _ (by omega)]
      exact ih (by omega)

section

variable {s : State} {t : BitVec 2}

/-- The configuration of table t of the current core. -/
def State.table (s : State) (t : BitVec 2) : Table := s.crew.tables.get {} t.toNat

theorem State.tableOk_eq (s : State) (t : BitVec 2) : s.tableOk t = ((s.table t).valid && !(s.region s.myCore ((s.table t).base.toNat / 0x8000)).bound) := rfl

theorem State.tableOk_unset (hv : (s.table t).valid = false) : s.tableOk t = false := by
  rw [State.tableOk_eq, hv]
  rfl

theorem State.tableOk_set (hv : (s.table t).valid = true) (hb : (s.region s.myCore ((s.table t).base.toNat / 0x8000)).bound = false) : s.tableOk t = true := by
  rw [State.tableOk_eq, hv, hb]
  rfl

/-! ### VTLCFG (R356) -/

theorem bits_above_zero {y : Word} (h : y.toNat < 2 ^ 18) : (bits y 18 46 : BitVec 46) = 0 := by
  apply BitVec.eq_of_toNat_eq
  simp only [bits, BitVec.extractLsb'_toNat, Nat.shiftRight_eq_div_pow, Nat.div_eq_of_lt h]
  rfl

theorem bits_above_ne_zero {y : Word} (h : 2 ^ 18 ≤ y.toNat) : (bits y 18 46 : BitVec 46) ≠ 0 := by
  intro hz
  have hn : y.toNat / 2 ^ 18 % 2 ^ 46 = 0 := by
    rw [← Nat.shiftRight_eq_div_pow, ← BitVec.extractLsb'_toNat]
    exact congrArg BitVec.toNat hz
  omega

/-- The configuration that VTLCFG sets from its two registers. -/
def tableOf (x y : Word) : Table := { x0 := x.setWidth 32, scale := bits x 32 32, valid := true, base := y.setWidth 18 }

/-- A base past the stash is not translated. -/
theorem traps_vtlcfg_far {a b : BitVec 5} (hb : s.me.busy { regs := [a, b] } = false) (h : 2 ^ 18 ≤ (s.rd b).toNat) : Traps s (.vtlcfg t a b) 0x09 (s.rd b) 0 := by
  have hz := bits_above_ne_zero h
  change execVtlcfg t a b s = _
  unfold execVtlcfg
  rw [issue_ok rfl hb]
  dsimp only
  rw [if_neg fun h => hz h.1, if_pos (by rw [decide_eq_true hz]; rfl)]
  rfl

/-- A base in the stash, in a region that is not bound and with room for a table: a table is set there, where the base is aligned. -/
theorem execVtlcfg_near {a b : BitVec 5} (hb : s.me.busy { regs := [a, b] } = false) (h : (s.rd b).toNat < 2 ^ 18) (hroom : (s.rd b).toNat % 32768 ≤ 32000)
    (hr : (s.region s.myCore ((s.rd b).toNat / 0x8000)).bound = false) : execVtlcfg t a b s = .next (if (s.rd b).toNat % 64 ≠ 0 then s.trapHere 0x05 (s.rd b)
      else (s.modCrew s.myCore fun c => { c with tables := c.tables.set t.toNat (tableOf (s.rd a) (s.rd b)) }).done (.vtlcfg t a b)) := by
  have hbound : s.tableBound ((s.rd b).setWidth 18) = false := by
    unfold State.tableBound
    rw [BitVec.toNat_setWidth, Nat.mod_eq_of_lt h, hr]
  have hfar : (decide ((bits (s.rd b) 18 46 : BitVec 46) ≠ 0) || decide (32000 < (s.rd b).toNat % 32768)) = false := by
    rw [decide_eq_false (not_not.mpr (bits_above_zero h)), decide_eq_false (Nat.not_lt.mpr hroom)]
    rfl
  unfold execVtlcfg
  rw [issue_ok rfl hb]
  dsimp only
  rw [hbound, hfar, if_neg fun h => Bool.false_ne_true h.2, if_neg Bool.false_ne_true]
  rfl

/-! ### VTBLW (R357) -/

theorem traps_vtblw_unset {a : BitVec 5} {x : BitVec 4} (hb : s.me.busy { regs := [a], vecs := [x.toNat] } = false) (hv : (s.table t).valid = false) :
    Traps s (.vtblw t a x) 0x01 0 (zx (encode (.vtblw t a x))) := by
  change execVtblw t a x s = _
  unfold execVtblw
  rw [issue_ok rfl hb]
  dsimp only
  rw [State.tableOk_unset hv]
  rfl

/-- Words stored one after another in the current core's stash. -/
theorem State.foldl_stashWrite (s : State) (x : BitVec 4) (off n : Nat) :
    (List.range n).foldl (fun s l => s.stashWrite s.myCore (off + 4 * l) 4 (s.vl x l)) s = s.withStash (Cells.writeWords s.stash (stashKey s.myCore off) (s.vl x) n) := by
  induction n with
  | zero => rfl
  | succ n ih =>
    rw [List.range_succ, List.foldl_append, ih, Cells.writeWords_succ, List.foldl_cons, List.foldl_nil, ← stashKey_add]
    rfl

/-- A table's segments written (R357): nothing of the thread is outstanding. -/
theorem execVtblw_writes {a : BitVec 5} {x : BitVec 4} (hb : s.me.busy { regs := [a], vecs := [x.toNat] } = false) (hok : s.tableOk t = true) (ho : s.me.ops = []) :
    execVtblw t a x s = .next ((s.withStash (Cells.writeWords s.stash (stashKey s.myCore ((s.table t).base.toNat + 12 * ((s.rd a).toNat % 64))) (s.vl x)
      (3 * min 5 (64 - (s.rd a).toNat % 64)))).withMe (s.me.advance 4)) := by
  unfold execVtblw
  rw [issue_ok rfl hb]
  dsimp only
  rw [hok, ho, clashes_nil, if_neg (by decide), if_neg Bool.false_ne_true, State.foldl_stashWrite]
  rfl

/-! ### VTLERP (R358) -/

theorem traps_vtlerp_unset {d x : BitVec 4} {k : BitVec 3} (hb : s.me.busy { vecs := [d.toNat, x.toNat] } = false) (hv : (s.table t).valid = false) :
    Traps s (.vtlerp d x t k) 0x01 0 (zx (encode (.vtlerp d x t k))) := by
  change execVtlerp d x t k s = _
  unfold execVtlerp
  rw [issue_ok rfl hb]
  dsimp only
  rw [State.tableOk_unset hv]
  rfl

/-- The value of segment j of a table at place p in it, and the flags of its two roundings with those of the place's (R358). -/
def State.segmentValue (s : State) (x : Table) (j : Nat) (p : Word) (flags : BitVec 6) : BitVec 32 × BitVec 6 :=
  let c := fun (q : Nat) => (s.stash.readN (stashKey s.myCore x.base.toNat + 12 * j + 4 * q) 4).setWidth 64
  let r := f32.fma .rne (c 2) p (c 1)
  let q := f32.fma .rne r.1 p (c 0)
  (q.1.setWidth 32, flags ||| r.2 ||| q.2)

/-- One lane's value: a NaN of a NaN, else that of the segment that the lane's point falls in, the first below the table and the last above it (R358). -/
theorem State.interpolate_eq {x : Table} {v : BitVec 32} {nan below above : Bool} {j : Nat} {u : Word} {flags : BitVec 6}
    (h : tablePoint x v = (if nan then none else if below then some (0, 0) else if above then some (63, 0x3F80_0000) else some (j, (f32.sub .rne u (f32.exact (ofInt j))).1), flags)) :
    s.interpolate x v = if nan then (0x7FC0_0000, flags)
      else
        let i := if below then 0 else if above then 63 else j
        s.segmentValue x i (if below then 0 else if above then 0x3F80_0000 else (f32.sub .rne u (f32.exact (ofInt i))).1) flags := by
  have hread : ∀ i m, s.stashRead s.myCore (x.base.toNat + 12 * i + 4 * m) 4 = s.stash.readN (stashKey s.myCore x.base.toNat + 12 * i + 4 * m) 4 := fun i m => by
    rw [State.stashRead, stashKey_add, stashKey_add]
  unfold State.interpolate State.segmentValue
  simp only [h, hread]
  cases nan with
  | true => rfl
  | false =>
    cases below with
    | true => rfl
    | false => cases above <;> rfl

/-- A thread with no operation outstanding has none that names a segment. -/
theorem State.segmentBusy_idle (ho : s.me.ops = []) (x : Table) (v : BitVec 32) : s.segmentBusy x v = false := by
  unfold State.segmentBusy
  rw [ho]
  cases (tablePoint x v).1 <;> rfl

theorem execVtlerp_interpolates {d x : BitVec 4} {k : BitVec 3} (hb : s.me.busy { vecs := [d.toNat, x.toNat] } = false) (hok : s.tableOk t = true) (ho : s.me.ops = []) :
    execVtlerp d x t k s = .next (((s.modMe fun u => u.setV d.toNat (vecMasked (s.me.k k.toNat) (u.v d.toNat) fun l => (s.interpolate (s.table t) (s.vl x l)).1)).done
      (.vtlerp d x t k)).orFlags s.cur ((List.range 16).foldl (fun y l => if (s.me.k k.toNat).getLsbD l then y ||| (s.interpolate (s.table t) (s.vl x l)).2 else y) 0)) := by
  have hidle : ((List.range 16).any fun l => (s.me.k k.toNat).getLsbD l && s.segmentBusy (s.crew.tables.get {} t.toNat) (s.vl x l)) = false := by
    rw [List.any_eq_false]
    intro l _
    rw [State.segmentBusy_idle ho, Bool.and_false]
    exact Bool.false_ne_true
  unfold execVtlerp
  rw [issue_ok rfl hb]
  dsimp only
  rw [hok, hidle, if_neg (by decide), if_neg Bool.false_ne_true]
  rfl

end

/-! ### O36 -/

/-- The masks' part of O36. -/
theorem masks_given (s : State) (d a b : BitVec 3) (r : BitVec 5) (f : BitVec 3) (u v : BitVec 4) (hr : okD r = true)
    (hb : s.me.busy { regs := [r], vecs := [u.toNat, v.toNat], flags := [f] } = false) :
    let x := s.me.k a.toNat
    let z := s.me.k b.toNat
    (d ≠ 0 → GivesK s (.kand d a b) d (x &&& z) ∧ GivesK s (.kor d a b) d (x ||| z) ∧ GivesK s (.kxor d a b) d (x ^^^ z) ∧ GivesK s (.knot d a) d (~~~x) ∧
      GivesK s (.kset d r) d ((s.rd r).setWidth 16) ∧ GivesK s (.klen d r) d (BitVec.ofNat 16 (2 ^ min (s.rd r).toNat 16 - 1))) ∧
    (d = 0 → Traps s (.kand d a b) 0x01 0 ((encode (.kand d a b)).setWidth 64) ∧ Traps s (.kset d r) 0x01 0 ((encode (.kset d r)).setWidth 64)) ∧
    Gives s (.kget r a) r (x.setWidth 64) ∧ Gives s (.kpop r a) r (BitVec.ofNat 64 ((List.range 16).filter fun i => x.getLsbD i).length) ∧
    (∃ n, n ≤ 16 ∧ (∀ i, i < n → x.getLsbD i = false) ∧ (n < 16 → x.getLsbD n = true) ∧ Gives s (.kfirst r a) r (BitVec.ofNat 64 n)) ∧
    GivesFlag s (.kany f a) f (decide (x ≠ 0)) := by
  intro x z
  have hbnone : s.me.busy { regs := [] } = false := Slot.busy_of_subset hb (List.nil_subset _) (List.nil_subset _) (List.nil_subset _)
  have hbr : s.me.busy { regs := [r] } = false := Slot.busy_of_subset hb (List.Subset.refl _) (List.nil_subset _) (List.nil_subset _)
  have hbf : s.me.busy { flags := [f] } = false := Slot.busy_of_subset hb (List.nil_subset _) (List.nil_subset _) (List.Subset.refl _)
  refine ⟨fun hd => ?_, fun hd => ?_, gives_scalar rfl hr hbr rfl, gives_scalar rfl hr hbr (popcount_eq _), ?_, ?_⟩
  · have hw : decide (d ≠ 0) = true := decide_eq_true hd
    exact ⟨gives_maskOp rfl hd hw hbnone, gives_maskOp rfl hd hw hbnone, gives_maskOp rfl hd hw hbnone, gives_maskOp rfl hd hw hbnone, gives_maskOp rfl hd hw hbr,
      gives_maskOp rfl hd hw hbr⟩
  · subst hd
    exact ⟨traps_maskOp (regs := []) (v := x &&& z) (d := 0) rfl rfl, traps_maskOp (regs := [r]) (v := (s.rd r).setWidth 16) (d := 0) rfl rfl⟩
  · obtain ⟨hle, hbelow, hat⟩ := firstFrom_zero 16 fun i => x.getLsbD i
    exact ⟨_, hle, hbelow, hat, gives_scalar rfl hr hbr rfl⟩
  · have hk : (x != 0) = decide (x ≠ 0) := Bool.eq_iff_iff.mpr (bne_iff_ne.trans decide_eq_true_iff.symm)
    exact hk ▸ gives_setF rfl rfl rfl hbf

/-- VCMP under its mask (R342). -/
theorem exec_vcmp_given (s : State) (d a : BitVec 3) (u v : BitVec 4) (y o : BitVec 3) (g : BitVec 1) (hw : wellFormed (.vcmp g d u v a y o) = true)
    (hb : s.me.busy { vecs := [u.toNat, v.toNat] } = false) : ∃ t, exec (.vcmp g d u v a y o) s = .next t ∧
      (∀ r, r ≠ d.toNat → t.me.k r = s.me.k r) ∧ t = s.withMe { s.me.advance 4 with kregs := t.me.kregs } ∧
      ∀ l, l < 16 → (t.me.k d.toNat).getLsbD l = if (s.me.k a.toNat).getLsbD l then
        (g = 0 || (s.me.k d.toNat).getLsbD l) && vcond y o (lane (s.me.v u.toNat) l) (lane (s.me.v v.toNat) l) else (s.me.k d.toNat).getLsbD l := by
  have hd : d.toNat ≠ 0 := fun h => of_decide_eq_true (Bool.and_eq_true_iff.mp hw).1 (BitVec.eq_of_toNat_eq h)
  obtain ⟨hself, hother, heq⟩ := setK_done s (.vcmp g d u v a y o)
    (maskedBits (s.me.k a.toNat) (s.me.k d.toNat) (fun l => vcond y o (s.vl u l) (s.vl v l) && (g = 0 || (s.me.k d.toNat).getLsbD l)) 16) hd
  have hexec : execVcmp g d u v a y o s = .next ((s.modMe (·.setK d.toNat
      (maskedBits (s.me.k a.toNat) (s.me.k d.toNat) (fun l => vcond y o (s.vl u l) (s.vl v l) && (g = 0 || (s.me.k d.toNat).getLsbD l)) 16))).done (.vcmp g d u v a y o)) :=
    issue_ok hw hb
  refine ⟨_, hexec, hother, heq, fun l hl => ?_⟩
  refine (congrArg (fun x => BitVec.getLsbD x l) hself).trans ((getLsbD_maskedBits _ _ _ _ hl).trans ?_)
  rw [Bool.and_comm (vcond y o (s.vl u l) (s.vl v l))]
  exact if_congr (and_iff_right hl) rfl rfl

/-- Settles O36, from the lemma for each instruction. -/
theorem masksAndTables : Obligations.MasksAndTables := by
  refine ⟨fun s d a b r f u v y o hr hb => ?_, fun s t a b d x k hb hq => ?_⟩
  · obtain ⟨hk, hz, hget, hpop, hfirst, hany⟩ := masks_given s d a b r f u v hr hb
    refine ⟨hk, hz, hget, hpop, hfirst, hany, fun g hw => exec_vcmp_given s d a u v y o g hw ?_⟩
    exact Slot.busy_of_subset hb (List.nil_subset _) (List.Subset.refl _) (List.nil_subset _)
  · have hbab : s.me.busy { regs := [a, b] } = false := Slot.busy_of_subset hb (List.Subset.refl _) (List.nil_subset _) (List.nil_subset _)
    have hbax : s.me.busy { regs := [a], vecs := [x.toNat] } = false := Slot.busy_of_subset hb (by simp) (by simp) (List.nil_subset _)
    have hbdx : s.me.busy { vecs := [d.toNat, x.toNat] } = false := Slot.busy_of_subset hb (List.nil_subset _) (List.Subset.refl _) (List.nil_subset _)
    refine ⟨fun hy hroom hal hreg => ?_, fun hy => traps_vtlcfg_far hbab hy, fun hy hroom hal hreg => ?_, fun hv => ⟨traps_vtblw_unset hbax hv, traps_vtlerp_unset hbdx hv⟩,
      fun hv hreg ho => ⟨fun hmem => ?_, gives_vector (execVtlerp_interpolates hbdx (State.tableOk_set hv hreg) ho) hq fun l => State.interpolate_eq rfl⟩⟩
    · exact (execVtlcfg_near hbab hy hroom hreg).trans (congrArg Host.Outcome.next (if_neg (not_not.mpr hal)))
    · exact (execVtlcfg_near hbab hy hroom hreg).trans (congrArg Host.Outcome.next (if_pos hal))
    · refine ⟨_, execVtblw_writes hbax (State.tableOk_set hv hreg) ho, fun l hl => ?_, fun j hj => ?_, rfl⟩
      · rw [← stashKey_add]
        exact Cells.readN_writeWords _ _ hl ((State.memoryOk_iff s).mp hmem).2.1
      · rw [← stashKey_add] at hj
        exact Cells.read_writeWords_out _ _ _ _ hj

end Sys2Proof.Machine

end
